-- ==== Sys2Proof/Word.lean ====
section
/-! DEFINITION. The words of the Pyrian PV register and memory interface, and the index types of its
instances (spec 00_scope, Tables 0.4 and 0.7). -/

namespace Sys2Proof

/-- One byte of memory. -/
abbrev Byte := BitVec 8

/-- One register word (R6). -/
abbrev Word := BitVec 32

/-- A 64-bit quantity: device time, bus addresses, tags, frame steps. -/
abbrev Dword := BitVec 64

/-- A die, 0 to 7 (Table 0.7). Die n owns head n (R16), so this is also a head. -/
abbrev DieIx := Fin 8

/-- A Composer layer of a head (R227). -/
abbrev LayerIx := Fin 16

/-- A Matrix Engine of a die (Table 0.7). -/
abbrev EngIx := Fin 2

/-- A Carousel of a die (Table 0.7). -/
abbrev CrsIx := Fin 48

/-- A stream of a Carousel (R165). -/
abbrev StrIx := Fin 4

/-- A PCIe function: 0 the PF, 1 to 63 the VFs (R314). -/
abbrev FnIx := Fin 64

end Sys2Proof
end

