-- ==== Sys2Proof/Syntax.lean ====
section
/-! DEFINITION. The commands of the part: one constructor per row of the table of operations and events, with
the operands that the spec's rules give the row, and the operand types. A command whose row is a hardware event
carries what the world outside the model supplies at that event (a sample, a verdict of a monitor, bytes that the
host's memory answered); everything else is read from the state. -/

namespace Sys2Proof

/-- The part: 2, 4 or 8 dies (Table 0.1). -/
inductive Part where
  | pv2200
  | pv4400
  | pv8800
deriving DecidableEq, Repr

/-- The straps sampled as RESET_N rises (Table 15.10), with the part and grade that the package fixes. -/
structure Straps where
  part : Part
  bootHost : Bool      -- BOOT_SRC: false flash, true host (R383)
  refPcie : Bool       -- REF_SEL (R409)
  mgmtI3c : Bool       -- MGMT_MODE (R427)
  smbAddr : Fin 4      -- SMB_ADDR[1:0] (R427)
  dramGib : Nat        -- DRAM of each die in GiB, as the board populates it (Table 7.10)
deriving DecidableEq, Repr

/-- The path a guarded access arrives on (R393). -/
inductive Path where
  | pf
  | mctp
deriving DecidableEq, Repr

/-- An issuer of Turnstile operations (Table 10.2): class, die, instance and queue, in order of significance. -/
structure Issuer where
  cls : Fin 9
  die : DieIx
  inst : Nat
  queue : Nat
deriving DecidableEq, Repr

/-- The Turnstile operations of Table 10.1. -/
inductive TslOp where
  | waitGe (n : Nat)
  | waitSub (n : Nat)
  | add (v : Nat)
  | sub (v : Nat)
  | set (v : Nat)
deriving DecidableEq, Repr

/-- One operation as it reaches an object: who issues it, the op index of its item, the frame step that the item serves
(R282), and the sequence number of the item's stripe step (R271). -/
structure TslReq where
  iss : Issuer
  op : TslOp
  opIx : BitVec 16
  step : Dword
  seq : Nat
deriving DecidableEq, Repr

/-- How an operation names its object: by physical number (firmware), or by virtual number in a context (R270). -/
inductive TslRef where
  | phys (n : Fin 16384)
  | virt (ctx : Fin 256) (v : BitVec 12)
deriving DecidableEq, Repr

/-- A canvas: the function that owns it and the handle that BIND returned (R336). -/
structure CanvasId where
  func : FnIx
  handle : Nat
deriving DecidableEq, Repr

/-- A stream of a Carousel (Table 7.3). -/
structure StreamId where
  die : DieIx
  crs : CrsIx
  idx : StrIx
deriving DecidableEq, Repr

/-- A stripe part of a head (R40). -/
structure PartId where
  head : DieIx
  layer : LayerIx
  stripe : Nat
  half : Fin 2
deriving DecidableEq, Repr

/-- The unit that runs a work item (R149, R177). -/
inductive UnitIx where
  | me (e : EngIx)
  | jgl
  | win
  | mot
deriving DecidableEq, Repr

/-- A work item of a canvas: an op of one stripe step on one share of an engine (R177). -/
structure ItemId where
  canvas : CanvasId
  die : DieIx
  unit : UnitIx
  op : Nat
  stepSeq : Nat
deriving DecidableEq, Repr

/-- An output tile: row, M-tile and N-tile (R116). -/
structure TileId where
  row : Nat
  m : Nat
  t : Nat
deriving DecidableEq, Repr

/-- A weight-side block as the engine finds it in the stream's buffer (R96): the header fields of Table 4.2 and
the payload. -/
structure WBlock where
  tag : BitVec 16
  kind : Byte
  fmt : Byte
  op : BitVec 16
  form : Byte
  payload : List Byte
deriving DecidableEq, Repr

/-- What error correction finds where accumulator entries are read (R82): single-bit errors corrected, and a double-bit error. -/
structure AccRead where
  corrected : Nat
  uncorrectable : Bool
deriving DecidableEq, Repr

/-- A load of a Matrix Engine (R103): K-block b (under form 1 also the next) of N-tile t, for some tiles of an item in the order of
its loop nest, and what the reads of their entries find. -/
structure TileLoad where
  it : ItemId
  t : Nat
  b : Nat
  tiles : List TileId
  acc : AccRead
deriving DecidableEq, Repr

/-- The tiles of a load of a Matrix Engine, and what the reads of their entries find. -/
structure TileRun where
  tiles : List TileId
  acc : AccRead
deriving DecidableEq, Repr

/-- A combination of two participants of a split reduction (R83): the node of the tree, and what the reads of their entries find. -/
structure Combine where
  node : Nat
  left : AccRead
  right : AccRead
deriving DecidableEq, Repr

/-- An edge of a genlock reference: the input, coded as CLK_LOCK_CFG.REF, and the pixel clock of its line at which the canvas's
raster stands. -/
structure RefEdge where
  ref : Fin 9
  pixel : Nat
deriving DecidableEq, Repr

/-- An edge of a head's tearing-effect signal whose level has been stable for 1 µs (R251). -/
structure TeEdge where
  head : DieIx
  rising : Bool
deriving DecidableEq, Repr

/-- The expiry of a head's wait for such an edge; `edge`: one falls in the same fabric cycle (R252). -/
structure TeExpiry where
  head : DieIx
  edge : Bool
deriving DecidableEq, Repr

/-- What reaches a head from outside at a line start. -/
structure LineIn where
  wbAccept : Bool            -- DRAM accepts the write-back line (R243)
  badRows : List LayerIx     -- layers whose row read for this line fails its CRC (R353)
  badSource : List Nat       -- source entries whose line fails its guard at the Resampler (R361)
  badVector : List LayerIx   -- layers whose vector field fails its guard (R29, R361)
deriving DecidableEq, Repr

/-- The common header of a descriptor (Table 12.4) and the SQ it stands in. `resv` says that some byte that no
table names is not 0 (R324). -/
structure DescHdr where
  func : FnIx
  sq : Nat
  tag : Dword
  fence : Bool
  quiet : Bool
  resv : Bool
deriving DecidableEq, Repr

/-- How a task transaction ends (R426). -/
inductive XferEnd where
  | ok (bytes : List Byte)
  | nack
  | timeout
deriving DecidableEq, Repr

/-- How a transfer of a stream ends (R170, R164, R181). -/
inductive MoveEnd where
  | done
  | poisoned
deriving DecidableEq, Repr

/-- The monitors of Table 13.8 that send the die to SAFE, in the bit order of SFN_MON. -/
inductive Monitor where
  | fabric | me | control | pixel | reference | core | sram | vddq | io12 | io18
deriving DecidableEq, Repr

/-- The form of a captured video frame as the receiver reports it (R420, R421, R249, R244): the size and the format of
Table 0.8 it is stored in, whether it is a field and which, and the HDCP content type it is protected with. -/
structure VideoForm where
  width : Nat
  height : Nat
  pixfmt : Fin 14
  interlaced : Bool
  bottomField : Bool
  protect : Option (Fin 2)
deriving DecidableEq, Repr

/-- A PTP message after timestamping (R422): the grandmaster it comes from, the offset it measures in ns, the time since the
epoch of ST 2059-1 that the time map then gives, in ns, and the pixel clock of its line at which the raster of each canvas
stands. -/
structure PtpMsg where
  grandmaster : Dword
  offsetNs : Int
  sync : Bool
  timeNs : Nat
  pixels : List (CanvasId × Nat)
deriving DecidableEq, Repr

/-- The messages of the management port that change state (R404, R416, R402, R427). -/
inductive MctpMsg where
  | endStandby
  | store
  | request (op : Fin 16) (data : List Byte)
  | readSensor (sensor : Nat)
deriving DecidableEq, Repr

/-- The result of an error check of one scrubbed word (R374, R376). -/
inductive EccResult where
  | clean
  | corrected
  | uncorrectable
deriving DecidableEq, Repr

/-- Where a register access lands: a bus offset in BAR0 (R6, R7), or an offset in a function BAR (R315). -/
inductive RegTarget where
  | bar0 (addr : Nat)
  | fnBar (f : FnIx) (offset : Nat)
deriving DecidableEq, Repr

/-- The cause of a reset of the PF (R340). -/
inductive PfResetCause where
  | flr | hotReset | linkDown | perst
deriving DecidableEq, Repr

/-- One constructor per row of spec/opcode_table.json, in the order of the table. -/
inductive Instr where
  -- raster, restart, golden stripe
  | lineStart (h : DieIx) (inp : LineIn)
  | restartGateEnd (d : DieIx)
  | restartRestageDone (d : DieIx)
  | restartInjectionDone (d : DieIx) (untripped : BitVec 18)
  | goldenDefer (d : DieIx)
  | goldenComplete (d : DieIx) (crc : Word)
  | deferredRelease (d : DieIx) (cv : CanvasId)
  | fallbackComplete (h : DieIx) (layer : LayerIx) (stripe : Nat)
  | verdict (p : PartId)
  | senseTransactionEnd (slot : Fin 64) (r : XferEnd)
  | holdLimitExpiry (h : DieIx) (layer : LayerIx)
  -- lock and time
  | holdover (cv : CanvasId)
  | genlockEdge (cv : CanvasId) (edge : RefEdge)
  | ptpMessage (d : DieIx) (m : PtpMsg)
  -- sources
  | sourceLineArrival (d : DieIx) (port : Fin 3) (stream : BitVec 6) (line : Nat) (counter : Word)
      (bytes : List Byte)
  -- `supported`: the form is one that Table 15.4 supports
  | sourceFrameStart (d : DieIx) (port : Fin 3) (stream : BitVec 6) (counter : Word) (supported : Bool) (form : VideoForm)
  | sourceFrameComplete (d : DieIx) (port : Fin 3) (stream : BitVec 6)
  | sourceRateChange (d : DieIx) (port : Fin 3) (stream : BitVec 6)
  -- output links
  | teEdge (e : TeEdge)
  | teTimeout (e : TeExpiry)
  | linkDown (h : DieIx) (hotPlug : Bool)
  | linkUp (h : DieIx)
  | hdcpFail (h : DieIx)
  -- engines
  -- a load as TileLoad has it; `other`: the load that the other engine of the die makes in the same fabric cycle (R104)
  | tileLoad (it : ItemId) (t b : Nat) (run : TileRun) (other : Option TileLoad)
  | tileConvert (it : ItemId) (tile : TileId) (acc : AccRead)
  | itemRetire (it : ItemId)
  | splitKCombine (it : ItemId) (c : Combine)
  | frameScopeRelease (cv : CanvasId) (op : Nat)
  -- Carousel instructions: the instruction at the stream's PC issues
  | carouselNop (st : StreamId)
  | setb (st : StreamId)
  | sets (st : StreamId)
  | setm (st : StreamId)
  | setc (st : StreamId)
  | loop (st : StreamId)
  | endl (st : StreamId)
  | move (st : StreamId) (captured : List Byte)
  | moveComplete (st : StreamId) (r : MoveEnd)
  | carouselWait (st : StreamId)
  | sig (st : StreamId)
  | cred (st : StreamId)
  | ret (st : StreamId)
  | endp (st : StreamId)
  | creditStallExpiry (d : DieIx) (pool : Fin 1024)
  -- Turnstiles
  | waitGe (d : DieIx) (r : TslRef) (q : TslReq) (cycle : List TslReq)
  | waitSub (d : DieIx) (r : TslRef) (q : TslReq) (cycle : List TslReq)
  | add (d : DieIx) (r : TslRef) (q : TslReq) (cycle : List TslReq)
  | sub (d : DieIx) (r : TslRef) (q : TslReq) (cycle : List TslReq)
  | set (d : DieIx) (r : TslRef) (q : TslReq) (cycle : List TslReq)
  | gaideTurnstileArrival (src dst : DieIx)
  | fenceComplete (iss : Issuer)
  | barrierCombine (d : DieIx) (barrier : Nat)
  | contextSaveComplete (cv : CanvasId)
  -- determinism
  | firstRelease (d : DieIx) (cv : CanvasId)
  | checkpointCopy (d : DieIx) (cv : CanvasId)
  | replayFrameAdvance (cv : CanvasId)
  -- host queues
  | doorbell (f : FnIx) (value : Word)
  | hostReadError (f : FnIx) (q : Nat) (ring : Bool)
  | descriptorCompletion (f : FnIx) (q : Nat)
  -- descriptors (Table 12.5)
  | nop (h : DescHdr)
  | wait (h : DescHdr) (tsl : BitVec 16) (kind : Byte) (n : Word)
  | signal (h : DescHdr) (tsl : BitVec 16) (act : Byte) (die : Byte) (v : Word)
  | copy (h : DescHdr) (host dev : Dword) (die dir : Byte) (len : Word) (data : List Byte)
  | frame (h : DescHdr) (canvas : BitVec 16) (source : Byte) (pitch : Word) (plane0 plane1 plane2 counter : Dword)
      (lines : List (List Byte))
  | admitBundle (h : DescHdr) (bundle : Dword) (len : Word) (report : Dword) (data : List Byte)
  | evict (h : DescHdr) (handle : BitVec 16)
  | bind (h : DescHdr) (block : Dword) (len : Word) (report : Dword) (data : List Byte)
  | unbind (h : DescHdr) (canvas : BitVec 16)
  | pause (h : DescHdr) (canvas : BitVec 16) (flags : Byte) (save : Dword)
  | resume (h : DescHdr) (canvas : BitVec 16) (save : Dword)
  | alloc (h : DescHdr) (dies : Byte) (len : Dword)
  | free (h : DescHdr) (dies : Byte) (addr : Dword)
  | createQ (h : DescHdr) (queue : Word) (kind log2 home : Byte) (base : Dword) (cq : Word) (vector : BitVec 16)
      (count : Byte) (timer : BitVec 16)
  | deleteQ (h : DescHdr) (queue : Word)
  | window (h : DescHdr) (index : Byte) (base limit : Dword)
  | tslCreate (h : DescHdr) (die : Byte) (virt : BitVec 16) (value : Word)
  | tslDestroy (h : DescHdr) (die : Byte) (virt : BitVec 16)
  | ctxDestroy (h : DescHdr) (dies : Byte)
  -- functions
  | msixTimerExpiry (f : FnIx) (q : Nat)
  | aqEnable (f : FnIx) (vector : BitVec 11)
  | aqDisable (f : FnIx) (vector : BitVec 11)
  | vfDisable (f : FnIx)
  | vfEnable (f : FnIx)
  | hstQuotaWrite (f : FnIx) (value : Word)
  | hstHeadOwnerWrite (h : DieIx) (value : Word)
  | hstDieEqWrite (d : DieIx) (value : Word)
  | functionLevelReset (f : FnIx)
  | pfFunctionLevelReset (cause : PfResetCause)
  | functionResetDone (f : FnIx)
  -- Composer
  | commit (h : DieIx)
  | commitSpan (h : DieIx)
  | cmpLutDataWrite (d : DieIx) (value : Word)
  | cmpCoefDataWrite (d : DieIx) (value : Word)
  -- reads that latch a high word
  | cmpCntLoRead (d : DieIx)
  | cmpWbFrameLoRead (d : DieIx)
  | mxeSatLoRead (d : DieIx) (e : EngIx)
  | mxeNanLoRead (d : DieIx) (e : EngIx)
  | jglSatLoRead (d : DieIx)
  | jglNanLoRead (d : DieIx)
  | crsBytesLoRead (d : DieIx) (c : CrsIx)
  | crsCodedLoRead (d : DieIx) (c : CrsIx)
  | detGscLoRead (d : DieIx)
  | detTimingLoRead (d : DieIx)
  | detCkptLastLoRead (d : DieIx)
  -- counter clears; bit k of `co`: the k-th counter named by the CLR field increments in the same fabric cycle
  | mxeCntClr (d : DieIx) (e : EngIx) (co : Byte)
  | winCntClr (d : DieIx) (co : Byte)
  | rmsCntClr (d : DieIx) (co : Byte)
  | crsCntClr (d : DieIx) (co : Byte)
  | jglCntClr (d : DieIx) (co : Byte)
  | motCntClr (d : DieIx) (co : Byte)
  | cmpCntClr (d : DieIx) (co : Byte)
  | scnCntClr (d : DieIx) (co : Byte)
  | tslCntClr (d : DieIx) (co : Byte)
  | detCntClr (d : DieIx) (co : Byte)
  | hstCntClr (co : Byte)
  | hstFnCntClr (f : FnIx) (co : Byte)
  | sfnCntClr (d : DieIx) (co : BitVec 16)
  | secCntClr (d : DieIx) (co : BitVec 16)
  | nvmCntClr (co : Byte)
  | pwrCntClr (d : DieIx) (co : Byte)
  | snsCntClr (co : Byte)
  | gdeCntClr (d : DieIx) (co : Byte)
  -- Turnstile capture and dump
  | tslSelWrite (d : DieIx) (value : Word)
  | tslDumpGo (d : DieIx) (value : Word)
  | dumpDone (d : DieIx)
  | detRecCtrlWrite (d : DieIx) (value : Word)
  -- Safety Net
  | sfnTMeanWrite (d : DieIx) (value : Word)
  | sfnTMaxWrite (d : DieIx) (value : Word)
  | sfnHfWrite (d : DieIx) (value : Word)
  | sfnTFlashWrite (d : DieIx) (value : Word)
  | sfnCapWrite (d : DieIx) (value : Word)
  | sfnInjGo (d : DieIx)
  | clearLatch (d : DieIx)
  | igClear (tripSameCycle : Bool)
  | lockstepMismatch (d : DieIx)
  | monitorTrip (d : DieIx) (m : Monitor)
  | rasterStall (h : DieIx)
  | heartbeatTimeout (d : DieIx)
  | hbOutToggle
  | currentSample (ch : Fin 32) (ma : BitVec 16)
  | currentSampleTimeout (ch : Fin 32)
  | echoRead (h : DieIx) (digest : Word) (lines seq : BitVec 16)
  | injectionComplete (untripped : List (BitVec 18))
  -- resets and boot
  | powerOn (st : Straps)
  | partReset
  | dieReset (d : DieIx)
  | autoDieReset (d : DieIx)
  | pkgLock
  | releaseEdge
  | imageVerify (d : DieIx) (image : List Byte)
  | ddr5TrainingComplete (d : DieIx)
  | settingsLoad
  -- background work
  | bigTopScrubStep (d : DieIx) (bank : Fin 64) (r : EccResult)
  | dramPatrolScrubStep (d : DieIx) (channel : Fin 2) (r : EccResult)
  | telemetrySample
  | sectorErase (sector : Fin 64)
  | ddr5Calibration (d : DieIx) (channel : Fin 2)
  | gaideFlitError (d : DieIx) (link : Fin 4) (again : Bool)   -- `again`: a further retry of the same flit
  | gaideLaneLoss (d : DieIx) (link : Fin 4)
  -- requests of Table 14.7
  | auth (p : Path) (data : List Byte)
  | attest (p : Path) (data : List Byte)
  | otp (p : Path) (data : List Byte)
  | keystore (p : Path) (data : List Byte)
  | audit (p : Path) (data : List Byte)
  | srm (p : Path) (data : List Byte)
  | boot (p : Path) (data : List Byte)
  | sessionDrop
  | nonceDraw
  | sessionExpiry (p : Path)
  | authLockoutEnd
  | auditProgram
  | store (p : Path)
  | storeComplete
  | nvmAuditSelWrite (value : Word)
  | mctpMessage (m : MctpMsg)
  -- power
  | opRequest (d : DieIx) (value : Word)
  | avsAck (d : DieIx)
  | avsTimeout (d : DieIx)
  | thermalReading (d : DieIx) (quarterC : List Int) (diePower pkgPower : BitVec 16)
  | tripN
  | standby (value : Word)
  | standbyExit
  | pwrCapWrite (value : Word)
  | clkLockCfgWrite (d : DieIx) (value : Word)
  | gpioEdge (pin : Fin 32) (level : Bool)
  | snsTaskSelWrite (value : Word)
  | snsTaskDataWrite (w : Fin 4) (value : Word)
  | snsPwmWrite (k : Fin 8) (value : Word)
  | registerWrite (t : RegTarget) (bytes : Nat) (value : Word) (hw : Word)
  | goldenStripePeriodicRun (d : DieIx)
  | resetNAssertion
  | hdcpAuthenticated (h : DieIx) (contentType : Fin 2)
deriving DecidableEq, Repr

end Sys2Proof
end

