-- ==== Sys2Proof/WellFormed.lean ====
section
/-! DEFINITION. What the operands of a command must satisfy to be one that its sender can form. The step does not
rely on it: a meaning is total. -/

namespace Sys2Proof

/-- The fields of an issuer fit TSL_LAST_UNIT (Table 10.10). -/
def Issuer.wf (i : Issuer) : Bool := decide (i.inst < 1024) && decide (i.queue < 32768)

/-- An amount or target is a 31-bit number (Table 10.1). -/
def TslOp.wf : TslOp → Bool
  | .waitGe n => decide (n < 2 ^ 31)
  | .waitSub n => decide (n < 2 ^ 31)
  | .add v => decide (v < 2 ^ 31)
  | .sub v => decide (v < 2 ^ 31)
  | .set v => decide (v < 2 ^ 31)

/-- A Turnstile request is well formed. -/
def TslReq.wf (q : TslReq) : Bool := q.iss.wf && q.op.wf

/-- The requests of one cycle are well formed. -/
def cycleWf (q : TslReq) (cycle : List TslReq) : Bool := q.wf && cycle.all TslReq.wf

/-- A request is of kind WAIT_GE. -/
def TslOp.isWaitGe : TslOp → Bool
  | .waitGe _ => true
  | .waitSub _ | .add _ | .sub _ | .set _ => false

/-- A request is of kind WAIT_SUB. -/
def TslOp.isWaitSub : TslOp → Bool
  | .waitSub _ => true
  | .waitGe _ | .add _ | .sub _ | .set _ => false

/-- A request is an ADD. -/
def TslOp.isAdd : TslOp → Bool
  | .add _ => true
  | .waitGe _ | .waitSub _ | .sub _ | .set _ => false

/-- A request is a SUB. -/
def TslOp.isSub : TslOp → Bool
  | .sub _ => true
  | .waitGe _ | .waitSub _ | .add _ | .set _ => false

/-- A request is a SET. -/
def TslOp.isSet : TslOp → Bool
  | .set _ => true
  | .waitGe _ | .waitSub _ | .add _ | .sub _ => false

/-- A queue number fits a doorbell (R321), and the host's memory has answered with the length that the descriptor names,
or with nothing: a read that has not returned. -/
def DescHdr.wf (h : DescHdr) (len : Nat) (data : List Byte) : Bool :=
  decide (h.sq < 2 ^ 18) && (data.length == len || data.isEmpty)

/-- A load names tiles that fit the slots of an engine (R142), and no more corrected entries than they hold. -/
def TileLoad.wf (l : TileLoad) : Bool :=
  decide (l.t < 2 ^ 16) && decide (l.b < 2 ^ 16) && decide (l.tiles.length ≤ 16) && decide (l.acc.corrected ≤ 32768 * l.tiles.length)

/-- A command is well formed. -/
def Instr.wf : Instr → Bool
  | .tileLoad it t b run other =>
    TileLoad.wf ⟨it, t, b, run.tiles, run.acc⟩ && other.all fun o => o.wf && o.it.die == it.die && o.it.unit != it.unit
  | .sourceLineArrival _ _ _ line _ bytes => decide (line < 8192) && decide (bytes.length ≤ 2 ^ 17)
  | .sourceFrameStart _ _ _ _ _ form => decide (form.width ≤ 7680) && decide (form.height ≤ 8192)
  | .fallbackComplete _ _ stripe => decide (stripe < 1024)
  | .senseTransactionEnd _ r =>
    match r with
    | .ok bytes => decide (bytes.length ≤ 8)
    | .nack => true
    | .timeout => true
  | .waitGe _ _ q cycle => q.op.isWaitGe && cycleWf q cycle
  | .waitSub _ _ q cycle => q.op.isWaitSub && cycleWf q cycle
  | .add _ _ q cycle => q.op.isAdd && cycleWf q cycle
  | .sub _ _ q cycle => q.op.isSub && cycleWf q cycle
  | .set _ _ q cycle => q.op.isSet && cycleWf q cycle
  | .fenceComplete iss => iss.wf
  | .hostReadError _ q _ => decide (q < 2 ^ 18)
  | .descriptorCompletion _ q => decide (q < 2 ^ 18)
  | .msixTimerExpiry _ q => decide (q < 2 ^ 18)
  | .nop h | .wait h _ _ _ | .signal h _ _ _ _ | .evict h _ | .unbind h _ | .pause h _ _ _ | .resume h _ _
  | .alloc h _ _ | .free h _ _ | .createQ h _ _ _ _ _ _ _ _ _ | .deleteQ h _ | .window h _ _ _
  | .tslCreate h _ _ _ | .tslDestroy h _ _ | .ctxDestroy h _ => h.wf 0 []
  | .copy h _ _ _ _ len data => h.wf len.toNat data
  | .frame h _ _ _ _ _ _ _ lines => h.wf 0 [] && decide (lines.length ≤ 8192)
  | .admitBundle h _ len _ data => h.wf len.toNat data
  | .bind h _ len _ data => h.wf len.toNat data
  | .imageVerify _ image => decide (image.length ≤ 2 ^ 25)
  | .auth _ data | .attest _ data | .otp _ data | .keystore _ data | .audit _ data | .srm _ data | .boot _ data =>
    decide (data.length < 2 ^ 17)
  | .thermalReading _ q _ _ => decide (q.length = 16) && q.all fun t => decide (-1024 ≤ t) && decide (t < 1024)
  | .ptpMessage _ m => decide (-2 ^ 31 ≤ m.offsetNs) && decide (m.offsetNs < 2 ^ 31)
  | .registerWrite t bytes _ _ =>
    decide (0 < bytes) && decide (bytes ≤ 8) &&
      match t with
      | .bar0 addr => decide (addr < 0x0800_0000)
      | .fnBar _ off => decide (off < 0x2_0000)
  | .lineStart _ _ | .restartGateEnd _ | .restartRestageDone _ | .restartInjectionDone _ _ | .goldenDefer _
  | .goldenComplete _ _ | .deferredRelease _ _ | .verdict _ | .holdLimitExpiry _ _ | .holdover _ | .genlockEdge _ _
  | .sourceFrameComplete _ _ _ | .sourceRateChange _ _ _ | .teEdge _ | .teTimeout _ | .linkDown _ _ | .linkUp _
  | .hdcpFail _ | .tileConvert _ _ _ | .itemRetire _ | .splitKCombine _ _ | .frameScopeRelease _ _ | .carouselNop _
  | .setb _ | .sets _ | .setm _ | .setc _ | .loop _ | .endl _ | .move _ _ | .moveComplete _ _ | .carouselWait _
  | .sig _ | .cred _ | .ret _ | .endp _ | .creditStallExpiry _ _ | .gaideTurnstileArrival _ _ | .barrierCombine _ _
  | .contextSaveComplete _ | .firstRelease _ _ | .checkpointCopy _ _ | .replayFrameAdvance _ | .doorbell _ _
  | .aqEnable _ _ | .aqDisable _ _ | .vfDisable _ | .vfEnable _ | .hstQuotaWrite _ _ | .hstHeadOwnerWrite _ _
  | .hstDieEqWrite _ _ | .functionLevelReset _ | .pfFunctionLevelReset _ | .functionResetDone _ | .commit _
  | .commitSpan _ | .cmpLutDataWrite _ _ | .cmpCoefDataWrite _ _ | .cmpCntLoRead _ | .cmpWbFrameLoRead _
  | .mxeSatLoRead _ _ | .mxeNanLoRead _ _ | .jglSatLoRead _ | .jglNanLoRead _ | .crsBytesLoRead _ _
  | .crsCodedLoRead _ _ | .detGscLoRead _ | .detTimingLoRead _ | .detCkptLastLoRead _ | .mxeCntClr _ _ _
  | .winCntClr _ _ | .rmsCntClr _ _ | .crsCntClr _ _ | .jglCntClr _ _ | .motCntClr _ _ | .cmpCntClr _ _
  | .scnCntClr _ _ | .tslCntClr _ _ | .detCntClr _ _ | .hstCntClr _ | .hstFnCntClr _ _ | .sfnCntClr _ _
  | .secCntClr _ _ | .nvmCntClr _ | .pwrCntClr _ _ | .snsCntClr _ | .gdeCntClr _ _ | .tslSelWrite _ _
  | .tslDumpGo _ _ | .dumpDone _ | .detRecCtrlWrite _ _ | .sfnTMeanWrite _ _ | .sfnTMaxWrite _ _ | .sfnHfWrite _ _
  | .sfnTFlashWrite _ _ | .sfnCapWrite _ _ | .sfnInjGo _ | .clearLatch _ | .igClear _ | .lockstepMismatch _
  | .monitorTrip _ _ | .rasterStall _ | .heartbeatTimeout _ | .hbOutToggle | .currentSample _ _
  | .currentSampleTimeout _ | .echoRead _ _ _ _ | .injectionComplete _ | .powerOn _ | .partReset | .dieReset _
  | .autoDieReset _ | .pkgLock | .releaseEdge | .ddr5TrainingComplete _ | .settingsLoad | .bigTopScrubStep _ _ _
  | .dramPatrolScrubStep _ _ _ | .telemetrySample | .sectorErase _ | .ddr5Calibration _ _ | .gaideFlitError _ _ _
  | .gaideLaneLoss _ _ | .sessionDrop | .nonceDraw | .sessionExpiry _ | .authLockoutEnd | .auditProgram | .store _
  | .storeComplete | .nvmAuditSelWrite _ | .mctpMessage _ | .opRequest _ _ | .avsAck _ | .avsTimeout _ | .tripN
  | .standby _ | .standbyExit | .pwrCapWrite _ | .clkLockCfgWrite _ _ | .gpioEdge _ _ | .snsTaskSelWrite _
  | .snsTaskDataWrite _ _ | .snsPwmWrite _ _ | .goldenStripePeriodicRun _ | .resetNAssertion
  | .hdcpAuthenticated _ _ => true

end Sys2Proof
end

