-- ==== Sys2Proof/Decode.lean ====
section
/-! DEFINITION. Words of the table. The commands of this part have no encoding: no row of the table of operations and
events gives a bit, so no word spells a command. -/

namespace Sys2Proof

/-- The command that a word spells by the table's bits: none, for the table gives no row any bits. -/
def decodeTableWord (_nbits _w : Nat) : Option Instr := none

end Sys2Proof
end

