-- ==== Sys2Proof/Config.lean ====
section
/-! DEFINITION. What the manual names but leaves to another standard, to the firmware image or to chance:
opaque constants, about which nothing can be proved. Each has its entry in the assumption log. -/

namespace Sys2Proof.Config

/-- Whether an ML-DSA-87 signature (FIPS 204, empty context) over a message verifies under a public key (R385,
R395). DESIGN CHOICE, entry 4: FIPS 204 is outside the spec's text. -/
opaque mlDsaVerify (pubKey message signature : List Byte) : Bool

/-- The ML-DSA-87 public key that KeyGen gives for a 32-byte seed (R389). Entry 4. -/
opaque mlDsaPublic (seed : List Byte) : List Byte

/-- An ML-DSA-87 signature made with the key pair of a 32-byte seed (R389, R391). Entry 4. -/
opaque mlDsaSign (seed message : List Byte) : List Byte

/-- The n-th nonce that SEC_NONCE draws (R395): a free value. Entry 5. -/
opaque nonce : Nat → BitVec 256

/-- The version of a System Renewability Message whose signature verifies under the HDCP standard, or none
(R392). Entry 4. -/
opaque srmVersion (message : List Byte) : Option Nat

/-- The digest of the boot ROM (measurement log entry 0, R390): fixed in the part, not given. Entry 6. -/
opaque bootRomDigest : BitVec 512

/-- The digest of OTP that the ROM measures (measurement log entry 1, R390). Entry 6. -/
opaque otpDigest : BitVec 512

/-- The digest of the settings image of a SEQ (measurement log entry 3, R390): the manual does not place every value in the
image. Entry 6. -/
opaque settingsDigest (seq : BitVec 32) : BitVec 512

/-- The CRC-32C that a firmware image gives for a golden variant (R366). The manual does not place it in the
payload. Entry 6. -/
opaque goldenCrc (fwBuild : BitVec 32) (variant : Fin 4) : BitVec 32

/-- Core set-point in mV of a die for an operating point (R418): held per die in OTP, 650 to 750. Entry 6. -/
opaque coreMillivolts (die : Nat) (point : Fin 4) : BitVec 10

/-- What an OTP field identifier of request 3 names (Table 14.7): 0 the rollback floor, 1 FEATURES, 2 firmware key
revocation, 3 + k the hash of firmware key slot k, 7 + k the envelope register SFN_ENVk, and any other value a field
that no rule reads. The manual gives identifiers no numbers. Entry 6. -/
opaque otpField (identifier : BitVec 16) : Nat

/-- The INT16 sample that the firmware's MOTION op takes from the three components of an RGB sample (R250): the manual
names the op and not its input for RGB sources. A free value, entry 31. -/
opaque motionLuma : (format r g b : Nat) → BitVec 16

/-- The size of the change of a lock's trim at a frame boundary, in 0.01 ppm (R62), by the model's counter of free values: the manual
gives its direction and a bound, and no law. Entry 30. -/
opaque trimStep : Nat → Nat

/-- Whether a link carries a mode at a number of bits per second, between the rates that Table 9.10 accepts and those that it
refuses (R255): the manual gives no payload rate. A free value, entry 36. -/
opaque linkCarries (hdmi : Bool) (bitsPerSecond : Nat) : Bool

/-- The address that SEC_ECC_ADDR takes for an error of a Gaide flit (R374), by the model's counter of free values: a flit has
none in the manual. Entry 48. -/
opaque flitAddress : Nat → BitVec 32

/-- Resident threads of a cluster of a die while the Juggler works, by device time, as far as its register file holds them (R201): the
manual does not schedule threads. A free value, entry 50. -/
opaque residentThreads (die cluster tick : Nat) : Nat

/-- The work queue of its unit that the Ringmaster enters an item of an op in a stripe step into (R156, R204): the manual gives the
order of entry and not the queue. A free value, entry 88. -/
opaque workQueue (op stepSeq : Nat) : Nat

/-- Where the buffer of a tensor of a bundle instance starts in its share of the bundle pool of a die, in words of 64 bytes (R152): the
manual gives buffers their sizes and no addresses. A free value, entry 89. -/
opaque bufferWord (ctx die tensor : Nat) : Nat

/-- The Carousel stream of a die, by 4 × Carousel + stream, that pushes halo rows of a tensor to a side (R154): the manual names no
Carousel. A free value, entry 90. -/
opaque haloStream (die tensor side : Nat) : Nat

/-- The program of a firmware build for a stream of a Carousel of the picture domain, by 4 × Carousel + stream (R165): the manual gives
no firmware program. A free value, entry 98. -/
opaque firmwareProgram (fwBuild : BitVec 32) (stream : Nat) : List (BitVec 64)

/-- Where a die keeps its copy of an admitted bundle in DRAM, in access units of 128 bytes (R335, R438): the manual gives no address. A free
value, entry 97. -/
opaque bundleUnit (handle die : Nat) : Nat

/-- Registers that the kernel of a firmware build for an opcode declares for each of its threads (R201). A free value, entry 50. -/
opaque kernelRegs (fwBuild : BitVec 32) (opcode : Nat) : Nat

end Sys2Proof.Config
end

