-- ==== Sys2Proof/Machine/Bits.lean ====
section
/-! DEFINITION. Bit fields, little-endian bytes (Table 0.4), and integer division in the directions that the manual
names. -/

namespace Sys2Proof.Machine

/-- Bits [hi:lo] of a number (Table 0.4). -/
def natBits (w hi lo : Nat) : Nat := (w / 2 ^ lo) % 2 ^ (hi + 1 - lo)

/-- A number with bits [hi:lo] replaced. -/
def natSetBits (w hi lo v : Nat) : Nat :=
  w - natBits w hi lo * 2 ^ lo + (v % 2 ^ (hi + 1 - lo)) * 2 ^ lo

/-- Bits [hi:lo] of a register word. -/
def bits (w : Word) (hi lo : Nat) : Nat := natBits w.toNat hi lo

/-- Bit n of a register word. -/
def bit (w : Word) (n : Nat) : Bool := w.toNat.testBit n

/-- A register word with bits [hi:lo] replaced. -/
def setBits (w : Word) (hi lo v : Nat) : Word := BitVec.ofNat 32 (natSetBits w.toNat hi lo v)

/-- 0 or 1. -/
def b2n (b : Bool) : Nat := if b then 1 else 0

/-- The n low bytes of a number, least significant first. -/
def leBytes : Nat → Nat → List Byte
  | 0, _ => []
  | n + 1, v => BitVec.ofNat 8 v :: leBytes n (v / 256)

/-- The number that bytes spell, least significant first. -/
def leNat : List Byte → Nat
  | [] => 0
  | b :: rest => b.toNat + 256 * leNat rest

/-- n bytes of a block from an offset; bytes beyond its end read 0. -/
def sliceBytes (l : List Byte) (off n : Nat) : List Byte :=
  let t := (l.drop off).take n
  t ++ List.replicate (n - t.length) 0

/-- The little-endian number at bytes off to off + n − 1 of a block. -/
def leAt (l : List Byte) (off n : Nat) : Nat := leNat ((l.drop off).take n)

/-- A block with the bytes from an offset replaced. -/
def putBytes (l : List Byte) (off : Nat) (bs : List Byte) : List Byte :=
  sliceBytes l 0 off ++ bs ++ l.drop (off + bs.length)

/-- ceil(a / b), 0 for b = 0. -/
def ceilDiv (a b : Nat) : Nat := if b = 0 then 0 else (a + b - 1) / b

/-- floor(log2 n), 0 for 0. -/
def log2Nat (n : Nat) : Nat := Nat.log2 n

/-- The two's complement value of the low n bits of a number. -/
def signedOf (n v : Nat) : Int := if v % 2 ^ n < 2 ^ (n - 1) then ((v % 2 ^ n : Nat) : Int) else ((v % 2 ^ n : Nat) : Int) - ((2 ^ n : Nat) : Int)

/-- The low n bits of an integer in two's complement. -/
def bitsOfInt (n : Nat) (v : Int) : Nat := (v % ((2 ^ n : Nat) : Int)).toNat

/-- An integer held within bounds. -/
def clampInt (lo hi v : Int) : Int := if v < lo then lo else if hi < v then hi else v

/-- floor(a / b) for positive b. -/
def floorDiv (a b : Int) : Int := Int.fdiv a b

end Sys2Proof.Machine
end

