-- ==== Sys2Proof/Machine/Crc.lean ====
section
/-! DEFINITION. CRC-32C, which guards lines, rows, images and recordings. PRESUMED, entry 9: the Castagnoli polynomial
in its usual reflected form, starting from all ones and inverted at the end. -/

namespace Sys2Proof.Machine

/-- Eight steps of the reflected division. -/
def crcBits : Nat → BitVec 32 → BitVec 32
  | 0, c => c
  | n + 1, c => crcBits n (if c.getLsbD 0 then (c >>> 1) ^^^ 0x82F6_3B78 else c >>> 1)

/-- The running value after one byte. -/
def crcByte (c : BitVec 32) (b : Byte) : BitVec 32 := crcBits 8 (c ^^^ b.setWidth 32)

/-- CRC-32C of bytes. -/
def crc32c (l : List Byte) : Word := ~~~ (l.foldl crcByte 0xFFFF_FFFF)

end Sys2Proof.Machine
end

