-- ==== Sys2Proof/Machine/Codec.lean ====
section
/-! DEFINITION. The feature-map codec: Mode Z, which is lossless, and Mode F, which has a fixed rate (R178 to R185). -/

namespace Sys2Proof.Machine

/-! ### Mode Z -/

/-- Elements of z bytes. `n` bounds their number. -/
def chunks (z : Nat) : Nat → List Byte → List (List Byte)
  | 0, _ => []
  | n + 1, l => if l.isEmpty then [] else l.take z :: chunks z n (l.drop z)

/-- A maximal sequence of one kind: whether it is a run of zeros, and its elements. -/
abbrev ZSpan := Bool × List (List Byte)

/-- Whether every bit of an element is 0. -/
def elemZero (x : List Byte) : Bool := x.all fun b => b == 0

/-- Maximal spans of equal zero-ness. -/
def zSpans : List (List Byte) → List ZSpan
  | [] => []
  | x :: rest =>
    match zSpans rest with
    | (k, l) :: more => if k = elemZero x then (k, x :: l) :: more else (elemZero x, [x]) :: (k, l) :: more
    | [] => [(elemZero x, [x])]

/-- A single zero is a literal (R180, step 1), and literals that meet are joined. -/
def zJoin : List ZSpan → List ZSpan
  | [] => []
  | (k, l) :: rest =>
    let run := k && decide (2 ≤ l.length)
    match zJoin rest with
    | (k2, l2) :: more => if run = false ∧ k2 = false then (false, l ++ l2) :: more else (run, l) :: (k2, l2) :: more
    | [] => [(run, l)]

/-- Pieces of 128 elements, with a final shorter piece. -/
def zPieces : Nat → List (List Byte) → List (List (List Byte))
  | 0, _ => []
  | n + 1, l => if l.isEmpty then [] else l.take 128 :: zPieces n (l.drop 128)

/-- The token bytes of a span. -/
def zTokens (s : ZSpan) : List Byte :=
  (zPieces s.2.length s.2).flatMap fun p =>
    if s.1 then [BitVec.ofNat 8 (p.length - 1)] else BitVec.ofNat 8 (128 + (p.length - 1)) :: p.flatten

/-- Bytes padded with zeros to whole words. -/
def padWords (l : List Byte) : List Byte := sliceBytes l 0 (ceilDiv l.length 64 * 64)

/-- ESZ of an element size. -/
def eszCode (z : Nat) : Nat := if z = 4 then 2 else if z = 2 then 1 else 0

/-- One coded page: header word and payload words (R179, R180). -/
def zEncodePage (z : Nat) (src : List Byte) : List Byte :=
  let tokens := (zJoin (zSpans (chunks z src.length src))).flatMap zTokens
  let raw := decide (ceilDiv src.length 64 ≤ ceilDiv tokens.length 64)
  let payload := padWords (if raw then src else tokens)
  leBytes 2 (payload.length / 64) ++ [BitVec.ofNat 8 (b2n raw + 2 * eszCode z), 0x5A] ++ leBytes 2 src.length ++
    [0, 0] ++ leBytes 4 (crc32c src).toNat ++ List.replicate 52 0 ++ payload

/-- Elements that tokens yield, as long as they stay in the payload; none where they read past it. -/
def zDecode (z : Nat) : Nat → List Byte → Nat → Option (List Byte)
  | 0, _, need => if need = 0 then some [] else none
  | fuel + 1, l, need =>
    if need = 0 then some []
    else match l with
      | [] => none
      | t :: rest =>
        if t.toNat < 128 then
          let n := t.toNat + 1
          if need < n then none
          else (zDecode z fuel rest (need - n)).map fun d => List.replicate (n * z) 0 ++ d
        else
          let n := t.toNat - 127
          if need < n ∨ rest.length < n * z then none
          else (zDecode z fuel (rest.drop (n * z)) (need - n)).map fun d => rest.take (n * z) ++ d

/-- The source bytes of a coded page, or none where the page fails a check of R181. `srcLen` is what the line gives. -/
def zDecodePage (z srcLen : Nat) (slot : List Byte) : Option (List Byte) :=
  let words := leAt slot 0 2
  let flags := leAt slot 2 1
  let raw := flags.testBit 0
  if leAt slot 3 1 ≠ 0x5A ∨ natBits flags 2 1 ≠ eszCode z ∨ leAt slot 4 2 ≠ srcLen ∨ 64 < words ∨
      (raw = true ∧ words ≠ ceilDiv srcLen 64) then none
  else
    let payload := sliceBytes slot 64 (64 * words)
    let out := if raw then some (payload.take srcLen) else zDecode z (payload.length + 1) payload (srcLen / z)
    match out with
    | some d => if (crc32c d).toNat = leAt slot 8 4 then some d else none
    | none => none

/-- Length of page p of a line of n bytes. -/
def pageLen (n p : Nat) : Nat := min 4096 (n - 4096 * p)

/-- A line coded in Mode Z: the bytes written, with their offset from the start of the coded line (R179, R185). -/
def zEncodeLine (z : Nat) (src : List Byte) : List (Nat × Byte) :=
  (List.range (ceilDiv src.length 4096)).flatMap fun p =>
    let page := zEncodePage z ((src.drop (4096 * p)).take 4096)
    page.zipIdx.map fun x => (4160 * p + x.2, x.1)

/-- A line decoded from Mode Z: the pages before the first that fails, and whether one failed (R181). -/
def zDecodeLine (z n : Nat) (coded : List Byte) : List Byte × Bool :=
  (List.range (ceilDiv n 4096)).foldl (fun (acc : List Byte × Bool) p =>
    if acc.2 then acc
    else match zDecodePage z (pageLen n p) (sliceBytes coded (4160 * p) 4160) with
      | some d => (acc.1 ++ d, false)
      | none => (acc.1, true)) ([], false)

/-- Coded bytes that a Mode Z line moves: each header and its payload words, headers included (R185, Table 7.11). -/
def zMoved (n : Nat) (coded : List Byte) : Nat :=
  ((List.range (ceilDiv n 4096)).map fun p => 64 + 64 * min 64 (leAt coded (4160 * p) 2)).sum

/-- Offsets of the bytes that a Mode Z decode reads of a coded line, given the byte at an offset: of each page its header, and only
WORDS words after it (R185). -/
def zReads (n : Nat) (at_ : Nat → Byte) : List Nat :=
  (List.range (ceilDiv n 4096)).flatMap fun p =>
    (List.range (64 + 64 * min 64 ((at_ (4160 * p)).toNat + 256 * (at_ (4160 * p + 1)).toNat))).map fun i => 4160 * p + i

/-! ### Mode F -/

/-- q and rr of a rate (Table 7.8). -/
def fParams : Nat → Nat × Nat
  | 0 => (3, 53)
  | 1 => (2, 31)
  | _ => (1, 53)

/-- Bits of a block. -/
def fBlockBits : Nat → Nat
  | 0 => 256
  | 1 => 170
  | _ => 128

/-- Bits and shift of code i. -/
def fCode (rate s i : Nat) : Nat × Nat :=
  let (q, rr) := fParams rate
  if i < rr then (q + 1, s) else (q, s + 1)

/-- Bit position of code i (R183). -/
def fPos (rate i : Nat) : Nat :=
  let (q, rr) := fParams rate
  if i < rr then 11 + (q + 1) * i else 11 + (q + 1) * rr + q * (i - rr)

/-- The least shift of R183, at most 6. -/
def fShift (q span : Nat) : Nat :=
  ((List.range 7).find? fun s => decide (span / 2 ^ s ≤ 2 ^ (q + 1) - 1)).getD 6

/-- One block of 64 INT8 elements as a number of its bits (R183). -/
def fEncodeBlock (rate : Nat) (x : List Byte) : Nat :=
  let v : List Int := (List.range 64).map fun i => signedOf 8 (x.getD i 0).toNat
  let m := v.foldl min (v.headD 0)
  let hi := v.foldl max (v.headD 0)
  let s := fShift (fParams rate).1 (hi - m).toNat
  let head := bitsOfInt 8 m + 256 * s
  (v.zipIdx).foldl (fun acc e =>
    let (b, t) := fCode rate s e.2
    let d := (e.1 - m).toNat
    let c := if t = 0 then d else (d + 2 ^ (t - 1)) / 2 ^ t
    acc + min c (2 ^ b - 1) * 2 ^ fPos rate e.2) head

/-- The 64 elements of a block (R184). -/
def fDecodeBlock (rate bits : Nat) : List Byte :=
  let m := signedOf 8 bits
  let s := natBits bits 10 8
  (List.range 64).map fun i =>
    let (b, t) := fCode rate s i
    let code := (bits / 2 ^ fPos rate i) % 2 ^ b
    BitVec.ofNat 8 (bitsOfInt 8 (clampInt (-128) 127 (m + ((code * 2 ^ t : Nat) : Int))))

/-- A line coded in Mode F (R182). -/
def fEncodeLine (rate : Nat) (src : List Byte) : List Byte :=
  let bw := rate + 2
  let words := ceilDiv (ceilDiv src.length 64) bw
  (List.range words).flatMap fun w =>
    leBytes 64 ((List.range bw).foldl (fun acc j =>
      acc + fEncodeBlock rate (sliceBytes src (64 * (w * bw + j)) 64) * 2 ^ (fBlockBits rate * j)) 0)

/-- A line of n bytes decoded from Mode F (R184). -/
def fDecodeLine (rate n : Nat) (coded : List Byte) : List Byte :=
  let bw := rate + 2
  ((List.range (ceilDiv n 64)).flatMap fun j =>
    fDecodeBlock rate (leAt coded (64 * (j / bw)) 64 / 2 ^ (fBlockBits rate * (j % bw)) % 2 ^ fBlockBits rate)).take n

end Sys2Proof.Machine
end

