-- ==== Sys2Proof/Machine/Float.lean ====
section
/-! DEFINITION. Number formats, exact values, binary32 arithmetic, the converter and the dither generator (R72 to R89).
Values are exact rationals; every rounding is one application of R87. -/

namespace Sys2Proof.Machine

/-- A value: NaN, an infinity, or plus or minus num / den. -/
inductive Num where
  | nan
  | inf (neg : Bool)
  | fin (neg : Bool) (num den : Nat)
deriving DecidableEq, Repr

/-- Element formats, coded as EFMT of Table 7.5. -/
inductive Fmt where
  | int8 | e4m3 | e5m2 | int16 | bf16 | fp16 | int32 | fp32
deriving DecidableEq, Repr

/-- The format of an EFMT code. -/
def fmtOf : Nat → Fmt
  | 0 => .int8 | 1 => .e4m3 | 2 => .e5m2 | 3 => .int16 | 4 => .bf16 | 5 => .fp16 | 6 => .int32 | _ => .fp32

/-- The EFMT code of a format. -/
def Fmt.code : Fmt → Nat
  | .int8 => 0 | .e4m3 => 1 | .e5m2 => 2 | .int16 => 3 | .bf16 => 4 | .fp16 => 5 | .int32 => 6 | .fp32 => 7

/-- The format of an OUT_FMT code (Table 3.5). -/
def outFmt : Nat → Fmt
  | 0 => .int8 | 1 => .int16 | 2 => .int32 | 3 => .e4m3 | 4 => .e5m2 | 5 => .bf16 | 6 => .fp16 | _ => .fp32

/-- Bits of an integer format; 0 for floats. -/
def Fmt.intBits : Fmt → Nat
  | .int8 => 8 | .int16 => 16 | .int32 => 32 | .e4m3 => 0 | .e5m2 => 0 | .bf16 => 0 | .fp16 => 0 | .fp32 => 0

/-- Whether a format is an integer format. -/
def Fmt.isInt (f : Fmt) : Bool := f.intBits != 0

/-- Exponent bits, fraction bits and bias (Table 3.2). -/
def Fmt.shape : Fmt → Nat × Nat × Nat
  | .e4m3 => (4, 3, 7) | .e5m2 => (5, 2, 15) | .bf16 => (8, 7, 127) | .fp16 => (5, 10, 15) | .fp32 => (8, 23, 127)
  | .int8 => (0, 0, 0) | .int16 => (0, 0, 0) | .int32 => (0, 0, 0)

/-- The canonical NaN (Table 3.3); 0 for integers. -/
def Fmt.nan : Fmt → Nat
  | .e4m3 => 0x7F | .e5m2 => 0x7E | .bf16 => 0x7FC0 | .fp16 => 0x7E00 | .fp32 => 0x7FC0_0000
  | .int8 => 0 | .int16 => 0 | .int32 => 0

/-- The encoding of the largest finite value (Table 3.2). -/
def Fmt.maxRaw : Fmt → Nat
  | .e4m3 => 0x7E | .e5m2 => 0x7B | .bf16 => 0x7F7F | .fp16 => 0x7BFF | .fp32 => 0x7F7F_FFFF
  | .int8 => 127 | .int16 => 32767 | .int32 => 0x7FFF_FFFF

/-- Numerator and denominator of num/den × 2^k. -/
def scale2 (num den : Nat) (k : Int) : Nat × Nat :=
  if 0 ≤ k then (num * 2 ^ k.toNat, den) else (num, den * 2 ^ (-k).toNat)

/-- The value of an integer. -/
def numOfInt (v : Int) : Num := .fin (decide (v < 0)) v.natAbs 1

/-- The value that an encoding has (R72). -/
def decodeNum (f : Fmt) (raw : Nat) : Num :=
  if f.isInt then numOfInt (signedOf f.intBits raw)
  else
    let (eb, mb, bias) := f.shape
    let neg := (raw / 2 ^ (eb + mb)) % 2 == 1
    let e := (raw / 2 ^ mb) % 2 ^ eb
    let m := raw % 2 ^ mb
    if f = .e4m3 ∧ e = 15 ∧ m = 7 then .nan
    else if f ≠ .e4m3 ∧ e = 2 ^ eb - 1 then (if m = 0 then .inf neg else .nan)
    else
      let sig := if e = 0 then m else 2 ^ mb + m
      let ex : Int := (if e = 0 then (1 : Int) else (e : Int)) - (bias : Int) - (mb : Int)
      let (n, d) := scale2 sig 1 ex
      .fin neg n d

/-- floor(log2(num/den)) of a positive value. -/
def floorLog2 (num den : Nat) : Int :=
  let g : Int := (Nat.log2 num : Int) - (Nat.log2 den : Int)
  let (n, d) := scale2 num den (-g)
  if n < d then g - 1 else g

/-- How a value is rounded (R87): half-even, or with the 24-bit dither value of the element. -/
inductive Rounding where
  | even
  | dither (d : Nat)
deriving DecidableEq, Repr

/-- q + up of R87 for a magnitude num/den over a grid of 1. -/
def roundGrid (r : Rounding) (num den : Nat) : Nat :=
  let q := num / den
  let rem := num % den
  match r with
  | .even => if den < 2 * rem ∨ (2 * rem = den ∧ q % 2 = 1) then q + 1 else q
  | .dither d => if den * 2 ^ 24 ≤ rem * 2 ^ 24 + d * den then q + 1 else q

/-- The rounded magnitude on the grid of a float format: a multiple and the exponent of its unit (R87). -/
def roundFloat (f : Fmt) (r : Rounding) (num den : Nat) : Nat × Int :=
  let (_, mb, bias) := f.shape
  if num = 0 then (0, 0)
  else
    let e := floorLog2 num den
    let emin : Int := 1 - (bias : Int)
    let u : Int := (if e < emin then emin else e) - (mb : Int)
    let (n, d) := scale2 num den (-u)
    (roundGrid r n d, u)

/-- The encoding of a rounded magnitude, and whether it lies beyond the largest finite value. -/
def encodeFloat (f : Fmt) (neg : Bool) (q : Nat) (u : Int) : Nat × Bool :=
  let (eb, mb, bias) := f.shape
  let s := if neg then 2 ^ (eb + mb) else 0
  if q = 0 then (s, false)
  else if q < 2 ^ mb then (s + q, false)
  else
    let (q1, u1) := if q = 2 ^ (mb + 1) then (2 ^ mb, u + 1) else (q, u)
    let e := (u1 + (mb : Int) + (bias : Int)).toNat
    let raw := e * 2 ^ mb + (q1 - 2 ^ mb)
    if f.maxRaw < raw then (s + f.maxRaw, true) else (s + raw, false)

/-! ### Binary32 -/

/-- Round a value to binary32, half-even; overflow gives an infinity (R80). -/
def toF32 : Num → Nat
  | .nan => 0x7FC0_0000
  | .inf neg => if neg then 0xFF80_0000 else 0x7F80_0000
  | .fin neg num den =>
    let (q, u) := roundFloat .fp32 .even num den
    let (raw, ovf) := encodeFloat .fp32 neg q u
    if ovf then (if neg then 0xFF80_0000 else 0x7F80_0000) else raw

/-- The value of a binary32 encoding. -/
def f32 (raw : Nat) : Num := decodeNum .fp32 raw

/-- The exact sum of two values, with the IEEE 754 rules for zeros and specials (R75). -/
def addNum : Num → Num → Num
  | .nan, _ => .nan
  | _, .nan => .nan
  | .inf a, .inf b => if a = b then .inf a else .nan
  | .inf a, .fin _ _ _ => .inf a
  | .fin _ _ _, .inf b => .inf b
  | .fin s1 n1 d1, .fin s2 n2 d2 =>
    let a := n1 * d2
    let b := n2 * d1
    let d := d1 * d2
    if s1 = s2 then .fin s1 (a + b) d
    else if b < a then .fin s1 (a - b) d
    else if a < b then .fin s2 (b - a) d
    else .fin false 0 1

/-- The exact product of two values; 0 times an infinity is NaN (R74). -/
def mulNum : Num → Num → Num
  | .nan, _ => .nan
  | _, .nan => .nan
  | .inf a, .inf b => .inf (a != b)
  | .inf a, .fin s n _ => if n = 0 then .nan else .inf (a != s)
  | .fin s n _, .inf b => if n = 0 then .nan else .inf (s != b)
  | .fin s1 n1 d1, .fin s2 n2 d2 => .fin (s1 != s2) (n1 * n2) (d1 * d2)

/-- The negative of a value. -/
def negNum : Num → Num
  | .nan => .nan
  | .inf a => .inf !a
  | .fin s n d => .fin (!s) n d

/-- The exact quotient of two values (R217). -/
def divNum : Num → Num → Num
  | .nan, _ => .nan
  | _, .nan => .nan
  | .inf _, .inf _ => .nan
  | .inf a, .fin s _ _ => .inf (a != s)
  | .fin s _ _, .inf b => .fin (s != b) 0 1
  | .fin s1 n1 d1, .fin s2 n2 d2 =>
    if n2 = 0 then (if n1 = 0 then .nan else .inf (s1 != s2)) else .fin (s1 != s2) (n1 * d2) (d1 * n2)

/-- Binary32 addition, half-even. -/
def add32 (a b : Nat) : Nat := toF32 (addNum (f32 a) (f32 b))

/-- Binary32 subtraction. -/
def sub32 (a b : Nat) : Nat := toF32 (addNum (f32 a) (negNum (f32 b)))

/-- Binary32 multiplication. -/
def mul32 (a b : Nat) : Nat := toF32 (mulNum (f32 a) (f32 b))

/-- Binary32 division. -/
def div32 (a b : Nat) : Nat := toF32 (divNum (f32 a) (f32 b))

/-- A value widened to binary32. -/
def widen (f : Fmt) (raw : Nat) : Nat := toF32 (decodeNum f raw)

/-- Signed numerator and denominator of a finite value. -/
def Num.ratio : Num → Int × Nat
  | .nan => (0, 1)
  | .inf _ => (0, 1)
  | .fin s n d => ((if s then -(n : Int) else (n : Int)), d)

/-- a < b by value; false where either is NaN. -/
def ltNum : Num → Num → Bool
  | .nan, _ => false
  | _, .nan => false
  | .inf a, .inf b => a && !b
  | .inf a, .fin _ _ _ => a
  | .fin _ _ _, .inf b => !b
  | .fin s1 n1 d1, .fin s2 n2 d2 =>
    let x := (Num.fin s1 n1 d1).ratio
    let y := (Num.fin s2 n2 d2).ratio
    decide (x.1 * (y.2 : Int) < y.1 * (x.2 : Int))

/-- a ≤ b by value; false where either is NaN. -/
def leNum (a b : Num) : Bool :=
  match a, b with
  | .nan, _ => false
  | _, .nan => false
  | _, _ => !ltNum b a

/-! ### The converter (R85, R86) -/

/-- What a conversion gives: the encoding, and whether it counts as a saturation or a NaN. -/
structure Conv where
  raw : Nat
  sat : Bool
  nan : Bool
deriving DecidableEq, Repr

/-- The value of a negative number that an activation LEAKY scales. -/
def scaleNum (v : Num) (k : Int) : Num :=
  match v with
  | .nan => .nan
  | .inf a => .inf a
  | .fin s n d => let x := scale2 n d k; .fin s x.1 x.2

/-- Step 3 of R86. -/
def activate (f : Fmt) (act leaky lo hi : Nat) (v : Num) : Num :=
  let zero : Num := .fin false 0 1
  match act with
  | 1 => if leNum v zero then zero else v
  | 2 => if ltNum v (decodeNum f lo) then decodeNum f lo
         else if ltNum (decodeNum f hi) v then decodeNum f hi else v
  | 3 => if ltNum v zero then scaleNum v (-(leaky : Int)) else v
  | _ => v

/-- The converter (R86): a value, the conversion word, the CLAMP bounds and the dither value of the element. -/
def converter (word lo hi dither : Nat) (v : Num) : Conv :=
  let f := outFmt (word % 16)
  match v with
  | .nan => { raw := f.nan, sat := false, nan := true }
  | .inf _ | .fin _ _ _ =>
    let shift := signedOf 8 (natBits word 11 4)
    let r := if word.testBit 12 then Rounding.dither dither else Rounding.even
    match activate f (natBits word 15 13) (natBits word 18 16) lo hi (scaleNum v (-shift)) with
    | .nan => { raw := f.nan, sat := false, nan := true }
    | .inf neg =>
      if f.isInt then { raw := if neg then 2 ^ (f.intBits - 1) else f.maxRaw, sat := true, nan := false }
      else
        let (eb, mb, _) := f.shape
        { raw := (if neg then 2 ^ (eb + mb) else 0) + f.maxRaw, sat := true, nan := false }
    | .fin neg n d =>
      if f.isInt then
        let q := roundGrid r n d
        let top := if neg then 2 ^ (f.intBits - 1) else f.maxRaw
        let m := min q top
        { raw := if neg then (2 ^ f.intBits - m) % 2 ^ f.intBits else m, sat := decide (top < q), nan := false }
      else
        let (q, u) := roundFloat f r n d
        let (raw, ovf) := encodeFloat f neg q u
        { raw := raw, sat := ovf, nan := false }

/-- Whether a conversion word and its bounds are legal (R85). -/
def convWordOk (word lo hi : Nat) : Bool :=
  let f := outFmt (word % 16)
  let shift := signedOf 8 (natBits word 11 4)
  let act := natBits word 15 13
  let width := if f.isInt then f.intBits else 1 + f.shape.1 + f.shape.2.1
  decide (word % 16 < 8) && decide (-32 ≤ shift) && decide (shift ≤ 31) && decide (act ≤ 3) && decide (word < 2 ^ 19) &&
    (act != 3 || natBits word 18 16 != 0) &&
    (if act = 2 then decide (lo < 2 ^ width) && decide (hi < 2 ^ width) && leNum (decodeNum f lo) (decodeNum f hi)
     else lo == 0 && hi == 0)

/-! ### Dither (R88) -/

/-- mix64 of R88. -/
def mix64 (z0 : BitVec 64) : BitVec 64 :=
  let z1 := (z0 ^^^ (z0 >>> 30)) * 0xBF58476D1CE4E5B9
  let z2 := (z1 ^^^ (z1 >>> 27)) * 0x94D049BB133111EB
  z2 ^^^ (z2 >>> 31)

/-- dither24 of R88. -/
def dither24 (seed step : BitVec 64) (op n c y x : Nat) : Nat :=
  let h0 := mix64 (seed + 0x9E3779B97F4A7C15)
  let h1 := mix64 (h0 ^^^ step)
  let h2 := mix64 (h1 ^^^ BitVec.ofNat 64 (y * 2 ^ 32 + x))
  let h3 := mix64 (h2 ^^^ BitVec.ofNat 64 (op * 2 ^ 32 + n * 2 ^ 16 + c))
  (h3 >>> 40).toNat

/-! ### Products, trees and folds (R74 to R77, R83) -/

/-- One level of the pairwise tree. -/
def pairUp {α : Type} (add : α → α → α) : List α → List α
  | a :: b :: rest => add a b :: pairUp add rest
  | [a] => [a]
  | [] => []

/-- The pairwise tree over n levels (R75): for 2^n elements, the sum of the tree. -/
def treeSum {α : Type} (add : α → α → α) (zero : α) : Nat → List α → α
  | 0, l => l.headD zero
  | n + 1, l => treeSum add zero n (pairUp add l)

/-- The combination of P participants (R83): an odd last result is carried up unchanged. `fuel` levels suffice. -/
def combineTree {α : Type} (add : α → α → α) (zero : α) : Nat → List α → α
  | 0, l => l.headD zero
  | n + 1, l => if l.length ≤ 1 then l.headD zero else combineTree add zero n (pairUp add l)

/-- Addition modulo 2^32 of INT32 accumulators (R79). -/
def addWrap (a b : Nat) : Nat := (a + b) % 2 ^ 32

/-- The tree sum of n = 2^k lanes of integer products, exact. -/
def treeInt (k : Nat) (l : List Int) : Int := treeSum (· + ·) 0 k l

/-- The tree sum of n = 2^k lanes of binary32 products. -/
def treeF32 (k : Nat) (l : List Nat) : Nat := treeSum add32 0 k l

/-- log2 of the lanes of a group: 32, 64 or 128. -/
def groupLog : Nat → Nat
  | 32 => 5 | 64 => 6 | _ => 7

/-- Fold one K-block of integer products into an accumulator (Table 3.4). `scales` is empty without group scales, else
the binary32 scale of each group of the block, ascending. -/
def foldInt (acc : Nat) (p : List Int) (g : Nat) (scales : List Nat) : Nat :=
  if scales.isEmpty then addWrap acc (bitsOfInt 32 (treeInt 7 p))
  else (scales.zipIdx).foldl (fun a s =>
    add32 a (mul32 (toF32 (numOfInt (treeInt (groupLog g) ((p.drop (s.2 * g)).take g)))) s.1)) acc

/-- Fold one K-block of binary32 products into an accumulator (Table 3.4). -/
def foldF32 (acc : Nat) (p : List Nat) (g : Nat) (scales : List Nat) : Nat :=
  if scales.isEmpty then add32 acc (treeF32 7 p)
  else (scales.zipIdx).foldl (fun a s =>
    add32 a (mul32 (treeF32 (groupLog g) ((p.drop (s.2 * g)).take g)) s.1)) acc

/-- Activation and weight formats of an operand form (Table 3.1). -/
def formFmts : Nat → Option (Fmt × Fmt)
  | 0 => some (.int8, .int8)
  | 1 => some (.int8, .int8)
  | 2 => some (.int8, .int8)
  | 3 => some (.e4m3, .e4m3)
  | 4 => some (.e4m3, .e5m2)
  | 5 => some (.e5m2, .e4m3)
  | 6 => some (.e5m2, .e5m2)
  | 7 => some (.bf16, .bf16)
  | _ => none

/-- The accumulator that an op's converter reads: INT32 without group scales in the integer class, else FP32. -/
def accNum (integer scaled : Bool) (raw : Nat) : Num :=
  if integer && !scaled then numOfInt (signedOf 32 raw) else f32 raw

end Sys2Proof.Machine
end

