-- ==== Sys2Proof/Machine/RegMap.lean ====
section
/-! DEFINITION. The register map: one row per register of Tables 3.10 to 15.14, with the bits, access code and reset
value of each field that is not Reserved (R8), the role a field is written under, and whether the register is a
shadow (R238). Under `Reg` stands the offset of each register in its window. A field that OTP loads has the value
that its chapter gives for an unprogrammed field, else 0 (R10, R354). -/

namespace Sys2Proof.Machine

/-- Access codes (Table 0.5). -/
inductive Access where
  | rw | ro | w1c | wo
deriving DecidableEq, Repr

/-- The role that a write needs (R393, R394). -/
inductive Guard where
  | none | operator | installer
deriving DecidableEq, Repr

/-- A field: its bits, access code, reset value and role. -/
structure Field where
  hi : Nat
  lo : Nat
  access : Access
  reset : Nat
  guard : Guard
deriving DecidableEq, Repr

/-- A register or an array of registers of a block: offset in the block, count, distance, whether shadowed, fields. -/
structure Row where
  off : Nat
  count : Nat
  stride : Nat
  shadow : Bool
  fields : List Field
deriving DecidableEq, Repr

/-- MXE_ registers (Table 3.10), per engine. -/
def mxeRows : List Row := [
  ⟨0x0, 1, 4, false, [⟨7, 0, .ro, 0, .none⟩, ⟨15, 8, .ro, 1, .none⟩]⟩,  -- MXE_ID
  ⟨0x4, 1, 4, false, [⟨0, 0, .ro, 0, .none⟩, ⟨1, 1, .ro, 1, .none⟩, ⟨2, 2, .ro, 0, .none⟩]⟩,  -- MXE_STATUS
  ⟨0x8, 1, 4, false, [  -- MXE_EVT
    ⟨0, 0, .w1c, 0, .none⟩, ⟨1, 1, .w1c, 0, .none⟩, ⟨2, 2, .w1c, 0, .none⟩, ⟨3, 3, .w1c, 0, .none⟩]⟩,
  ⟨0xc, 1, 4, false, [⟨3, 0, .rw, 8, .none⟩]⟩,  -- MXE_EVT_EN
  ⟨0x10, 1, 4, false, [⟨31, 0, .ro, 0, .none⟩]⟩,  -- MXE_SAT_LO
  ⟨0x14, 1, 4, false, [⟨31, 0, .ro, 0, .none⟩]⟩,  -- MXE_SAT_HI
  ⟨0x18, 1, 4, false, [⟨31, 0, .ro, 0, .none⟩]⟩,  -- MXE_NAN_LO
  ⟨0x1c, 1, 4, false, [⟨31, 0, .ro, 0, .none⟩]⟩,  -- MXE_NAN_HI
  ⟨0x20, 1, 4, false, [⟨31, 0, .ro, 0, .none⟩]⟩,  -- MXE_ACC_CE
  ⟨0x24, 1, 4, false, [⟨0, 0, .wo, 0, .none⟩]⟩]  -- MXE_CNT_CLR

/-- MXE_ side-stream registers (Table 4.9), per engine. -/
def mxeSideRows : List Row := [
  ⟨0x28, 1, 4, false, [⟨31, 0, .ro, 0, .none⟩]⟩,  -- MXE_SKEW_CNT
  ⟨0x2c, 1, 4, false, [⟨15, 0, .ro, 0, .none⟩, ⟨31, 16, .ro, 0, .none⟩]⟩,  -- MXE_SKEW_LAST
  ⟨0x30, 1, 4, false, [  -- MXE_SKEW_WHERE
    ⟨15, 0, .ro, 0, .none⟩, ⟨18, 16, .ro, 0, .none⟩, ⟨19, 19, .ro, 0, .none⟩, ⟨20, 20, .ro, 0, .none⟩]⟩]

/-- WIN_ registers (Table 5.8). -/
def winRows : List Row := [
  ⟨0x0, 1, 4, false, [⟨7, 0, .ro, 1, .none⟩]⟩,  -- WIN_ID
  ⟨0x4, 1, 4, false, [⟨0, 0, .ro, 1, .none⟩, ⟨1, 1, .ro, 0, .none⟩]⟩,  -- WIN_STATUS
  ⟨0x8, 1, 4, false, [  -- WIN_EVT
    ⟨0, 0, .w1c, 0, .none⟩, ⟨1, 1, .w1c, 0, .none⟩, ⟨2, 2, .w1c, 0, .none⟩, ⟨3, 3, .w1c, 0, .none⟩,
    ⟨4, 4, .w1c, 0, .none⟩]⟩,
  ⟨0xc, 1, 4, false, [⟨4, 0, .rw, 6, .none⟩]⟩,  -- WIN_EVT_EN
  ⟨0x10, 1, 4, false, [⟨31, 0, .ro, 0, .none⟩]⟩,  -- WIN_BOX_BAD
  ⟨0x14, 1, 4, false, [⟨31, 0, .ro, 0, .none⟩]⟩,  -- WIN_BOX_TRUNC
  ⟨0x18, 1, 4, false, [⟨31, 0, .ro, 0, .none⟩]⟩,  -- WIN_BOX_STALE
  ⟨0x1c, 1, 4, false, [⟨31, 0, .ro, 0, .none⟩]⟩,  -- WIN_ARGMAX_NAN
  ⟨0x20, 1, 4, false, [⟨31, 0, .ro, 0, .none⟩]⟩,  -- WIN_SAT
  ⟨0x24, 1, 4, false, [⟨0, 0, .wo, 0, .none⟩]⟩]  -- WIN_CNT_CLR

/-- RMS_ placement registers (Table 6.8). -/
def rmsRows : List Row := [
  ⟨0x0, 1, 4, false, [⟨0, 0, .ro, 0, .none⟩, ⟨15, 8, .ro, 1, .none⟩]⟩,  -- RMS_PLACE_ID
  ⟨0x4, 1, 4, false, [⟨31, 0, .ro, 0, .none⟩]⟩,  -- RMS_ADMIT_OK
  ⟨0x8, 1, 4, false, [⟨31, 0, .ro, 0, .none⟩]⟩,  -- RMS_ADMIT_FAIL
  ⟨0xc, 1, 4, false, [⟨31, 0, .ro, 0, .none⟩]⟩,  -- RMS_REWRITE
  ⟨0x10, 1, 4, false, [  -- RMS_LAST_FAIL
    ⟨7, 0, .ro, 0, .none⟩, ⟨23, 8, .ro, 0, .none⟩, ⟨25, 24, .ro, 0, .none⟩, ⟨26, 26, .ro, 0, .none⟩]⟩,
  ⟨0x14, 1, 4, false, [⟨31, 0, .ro, 0x22000, .none⟩]⟩,  -- RMS_POOL_FREE
  ⟨0x18, 1, 4, false, [⟨4, 0, .ro, 0, .none⟩, ⟨12, 8, .ro, 0, .none⟩]⟩,  -- RMS_SLOT_PEAK
  ⟨0x1c, 1, 4, false, [⟨31, 0, .ro, 0, .none⟩]⟩,  -- RMS_PLACE_GEN
  ⟨0x20, 1, 4, false, [⟨0, 0, .w1c, 0, .none⟩, ⟨1, 1, .w1c, 0, .none⟩, ⟨2, 2, .w1c, 0, .none⟩]⟩,  -- RMS_PLACE_EVT
  ⟨0x24, 1, 4, false, [⟨2, 0, .rw, 5, .none⟩]⟩,  -- RMS_PLACE_EVT_EN
  ⟨0x28, 1, 4, false, [⟨0, 0, .wo, 0, .none⟩]⟩]  -- RMS_CNT_CLR

/-- CRS_ common registers (Table 7.11). -/
def crsRows : List Row := [
  ⟨0x0, 1, 4, false, [⟨7, 0, .ro, 0x30, .none⟩, ⟨15, 8, .ro, 0xc, .none⟩, ⟨23, 16, .ro, 1, .none⟩]⟩,  -- CRS_ID
  ⟨0x4, 1, 4, false, [⟨13, 0, .ro, 0, .none⟩, ⟨29, 16, .ro, 0, .none⟩]⟩,  -- CRS_INFLIGHT
  ⟨0x8, 1, 4, false, [  -- CRS_EVT
    ⟨0, 0, .w1c, 0, .none⟩, ⟨1, 1, .w1c, 0, .none⟩, ⟨2, 2, .w1c, 0, .none⟩, ⟨3, 3, .w1c, 0, .none⟩,
    ⟨4, 4, .w1c, 0, .none⟩]⟩,
  ⟨0xc, 1, 4, false, [⟨4, 0, .rw, 0xf, .none⟩]⟩,  -- CRS_EVT_EN
  ⟨0x10, 1, 4, false, [⟨31, 0, .ro, 0, .none⟩]⟩,  -- CRS_STALL_CNT
  ⟨0x14, 1, 4, false, [⟨31, 0, .ro, 0, .none⟩]⟩,  -- CRS_STALL_WAITER
  ⟨0x18, 1, 4, false, [⟨31, 0, .ro, 0, .none⟩]⟩,  -- CRS_STALL_HOLDER
  ⟨0x1c, 1, 4, false, [⟨9, 0, .ro, 0, .none⟩, ⟨31, 16, .ro, 0, .none⟩]⟩,  -- CRS_STALL_POOL
  ⟨0x20, 1, 4, false, [⟨31, 0, .ro, 0, .none⟩]⟩,  -- CRS_CODEC_ERR
  ⟨0x24, 1, 4, false, [⟨31, 0, .ro, 0, .none⟩]⟩,  -- CRS_WINDOW_ERR
  ⟨0x28, 1, 4, false, [⟨31, 0, .ro, 0, .none⟩]⟩,  -- CRS_CREDIT_ERR
  ⟨0x2c, 1, 4, false, [⟨0, 0, .wo, 0, .none⟩]⟩]  -- CRS_CNT_CLR

/-- CRS_ registers of one Carousel (Table 7.11). -/
def crsSubRows : List Row := [
  ⟨0x0, 1, 4, false, [  -- CRS_STATUS
    ⟨0, 0, .ro, 0, .none⟩, ⟨1, 1, .ro, 0, .none⟩, ⟨5, 2, .ro, 0, .none⟩, ⟨9, 6, .ro, 0, .none⟩]⟩,
  ⟨0x4, 4, 4, false, [⟨5, 0, .ro, 0, .none⟩, ⟨7, 6, .ro, 0, .none⟩, ⟨31, 16, .ro, 0, .none⟩]⟩,  -- CRS_STREAM
  ⟨0x14, 1, 4, false, [⟨31, 0, .ro, 0, .none⟩]⟩,  -- CRS_BYTES_LO
  ⟨0x18, 1, 4, false, [⟨31, 0, .ro, 0, .none⟩]⟩,  -- CRS_BYTES_HI
  ⟨0x1c, 1, 4, false, [⟨31, 0, .ro, 0, .none⟩]⟩,  -- CRS_CODED_LO
  ⟨0x20, 1, 4, false, [⟨31, 0, .ro, 0, .none⟩]⟩]  -- CRS_CODED_HI

/-- JGL_ registers (Table 8.9). -/
def jglRows : List Row := [
  ⟨0x0, 1, 4, false, [⟨7, 0, .ro, 1, .none⟩, ⟨15, 8, .ro, 4, .none⟩]⟩,  -- JGL_ID
  ⟨0x4, 1, 4, false, [⟨0, 0, .ro, 1, .none⟩, ⟨1, 1, .ro, 0, .none⟩]⟩,  -- JGL_STATUS
  ⟨0x8, 1, 4, false, [⟨0, 0, .w1c, 0, .none⟩, ⟨1, 1, .w1c, 0, .none⟩, ⟨2, 2, .w1c, 0, .none⟩]⟩,  -- JGL_EVT
  ⟨0xc, 1, 4, false, [⟨2, 0, .rw, 4, .none⟩]⟩,  -- JGL_EVT_EN
  ⟨0x10, 1, 4, false, [⟨31, 0, .ro, 0, .none⟩]⟩,  -- JGL_SAT_LO
  ⟨0x14, 1, 4, false, [⟨31, 0, .ro, 0, .none⟩]⟩,  -- JGL_SAT_HI
  ⟨0x18, 1, 4, false, [⟨31, 0, .ro, 0, .none⟩]⟩,  -- JGL_NAN_LO
  ⟨0x1c, 1, 4, false, [⟨31, 0, .ro, 0, .none⟩]⟩,  -- JGL_NAN_HI
  ⟨0x20, 1, 4, false, [⟨31, 0, .ro, 0, .none⟩]⟩,  -- JGL_TRACK_FULL
  ⟨0x24, 4, 4, false, [⟨10, 0, .ro, 0, .none⟩]⟩,  -- JGL_THREADS
  ⟨0x34, 1, 4, false, [⟨0, 0, .wo, 0, .none⟩]⟩]  -- JGL_CNT_CLR

/-- MOT_ registers (Table 8.10). -/
def motRows : List Row := [
  ⟨0x0, 1, 4, false, [⟨7, 0, .ro, 1, .none⟩]⟩,  -- MOT_ID
  ⟨0x4, 1, 4, false, [⟨0, 0, .ro, 1, .none⟩, ⟨1, 1, .ro, 0, .none⟩]⟩,  -- MOT_STATUS
  ⟨0x8, 1, 4, false, [⟨0, 0, .w1c, 0, .none⟩]⟩,  -- MOT_EVT
  ⟨0xc, 1, 4, false, [⟨0, 0, .rw, 0, .none⟩]⟩,  -- MOT_EVT_EN
  ⟨0x10, 1, 4, false, [⟨31, 0, .ro, 0, .none⟩]⟩,  -- MOT_BLOCKS_LO
  ⟨0x14, 1, 4, false, [⟨31, 0, .ro, 0, .none⟩]⟩,  -- MOT_BLOCKS_HI
  ⟨0x18, 1, 4, false, [⟨31, 0, .ro, 0, .none⟩]⟩,  -- MOT_LIMIT
  ⟨0x1c, 1, 4, false, [⟨0, 0, .wo, 0, .none⟩]⟩]  -- MOT_CNT_CLR

/-- CMP_ registers (Table 9.11). -/
def cmpRows : List Row := [
  ⟨0x0, 1, 4, false, [⟨7, 0, .ro, 0x10, .none⟩, ⟨15, 8, .ro, 1, .none⟩]⟩,  -- CMP_ID
  ⟨0x4, 1, 4, false, [  -- CMP_COMMIT
    ⟨0, 0, .wo, 0, .none⟩, ⟨1, 1, .wo, 0, .none⟩, ⟨2, 2, .rw, 0, .none⟩, ⟨3, 3, .ro, 0, .none⟩,
    ⟨11, 4, .ro, 0, .none⟩, ⟨27, 12, .ro, 0, .none⟩]⟩,
  ⟨0x8, 1, 4, true, [⟨9, 0, .rw, 0, .none⟩, ⟨19, 10, .rw, 0, .none⟩, ⟨29, 20, .rw, 0, .none⟩]⟩,  -- CMP_BG
  ⟨0xc, 1, 4, false, [  -- CMP_EVT
    ⟨0, 0, .w1c, 0, .none⟩, ⟨1, 1, .w1c, 0, .none⟩, ⟨2, 2, .w1c, 0, .none⟩, ⟨3, 3, .w1c, 0, .none⟩,
    ⟨4, 4, .w1c, 0, .none⟩, ⟨5, 5, .w1c, 0, .none⟩]⟩,
  ⟨0x10, 1, 4, false, [⟨5, 0, .rw, 0x36, .none⟩]⟩,  -- CMP_EVT_EN
  ⟨0x14, 1, 4, false, [⟨3, 0, .rw, 0, .none⟩, ⟨6, 4, .rw, 0, .none⟩]⟩,  -- CMP_CNT_SEL
  ⟨0x18, 1, 4, false, [⟨31, 0, .ro, 0, .none⟩]⟩,  -- CMP_CNT_LO
  ⟨0x1c, 1, 4, false, [⟨31, 0, .ro, 0, .none⟩]⟩,  -- CMP_CNT_HI
  ⟨0x20, 1, 4, false, [⟨10, 0, .rw, 0, .none⟩]⟩,  -- CMP_LUT_ADDR
  ⟨0x24, 1, 4, true, [⟨15, 0, .rw, 0, .none⟩]⟩,  -- CMP_LUT_DATA
  ⟨0x28, 1, 4, false, [⟨2, 0, .rw, 0, .none⟩, ⟨8, 3, .rw, 0, .none⟩, ⟨10, 9, .rw, 0, .none⟩]⟩,  -- CMP_COEF_ADDR
  ⟨0x2c, 1, 4, true, [⟨9, 0, .rw, 0, .none⟩]⟩,  -- CMP_COEF_DATA
  ⟨0x30, 1, 4, false, [⟨15, 0, .rw, 0x7d0, .installer⟩]⟩,  -- CMP_HOLD_LIMIT
  ⟨0x34, 1, 4, false, [⟨7, 0, .rw, 0x40, .none⟩]⟩,  -- CMP_RETIME
  ⟨0x40, 1, 4, true, [  -- CMP_WB_CTRL
    ⟨0, 0, .rw, 0, .none⟩, ⟨4, 1, .rw, 0, .none⟩, ⟨7, 5, .rw, 0, .none⟩, ⟨11, 8, .rw, 0, .none⟩]⟩,
  ⟨0x44, 1, 4, true, [⟨31, 0, .rw, 0, .none⟩]⟩,  -- CMP_WB_BASE_LO
  ⟨0x48, 1, 4, true, [⟨7, 0, .rw, 0, .none⟩]⟩,  -- CMP_WB_BASE_HI
  ⟨0x4c, 1, 4, true, [⟨31, 0, .rw, 0, .none⟩]⟩,  -- CMP_WB_STRIDE
  ⟨0x50, 1, 4, true, [⟨23, 0, .rw, 0, .none⟩]⟩,  -- CMP_WB_PITCH
  ⟨0x54, 1, 4, false, [⟨2, 0, .ro, 0, .none⟩, ⟨3, 3, .ro, 0, .none⟩]⟩,  -- CMP_WB_STATUS
  ⟨0x58, 1, 4, false, [⟨31, 0, .ro, 0, .none⟩]⟩,  -- CMP_WB_FRAME_LO
  ⟨0x5c, 1, 4, false, [⟨31, 0, .ro, 0, .none⟩]⟩,  -- CMP_WB_FRAME_HI
  ⟨0x60, 1, 4, false, [⟨31, 0, .ro, 0, .none⟩]⟩,  -- CMP_WB_DROP
  ⟨0x64, 1, 4, false, [⟨0, 0, .wo, 0, .none⟩]⟩]  -- CMP_CNT_CLR

/-- CMP_ registers of one layer (Table 9.11); the reset of CMP_LAYER_CTRL.Z is the layer number. -/
def cmpSubRows : List Row := [
  ⟨0x0, 1, 4, true, [  -- CMP_LAYER_CTRL
    ⟨0, 0, .rw, 0, .none⟩, ⟨4, 1, .rw, 0, .none⟩, ⟨8, 5, .rw, 0, .none⟩, ⟨10, 9, .rw, 0, .none⟩,
    ⟨12, 11, .rw, 1, .none⟩, ⟨13, 13, .rw, 0, .none⟩, ⟨15, 14, .rw, 0, .none⟩, ⟨17, 16, .rw, 0, .none⟩]⟩,
  ⟨0x4, 1, 4, true, [⟨15, 0, .rw, 0, .none⟩, ⟨31, 16, .rw, 0, .none⟩]⟩,  -- CMP_LAYER_SRC_XY
  ⟨0x8, 1, 4, true, [⟨15, 0, .rw, 0, .none⟩, ⟨31, 16, .rw, 0, .none⟩]⟩,  -- CMP_LAYER_SRC_WH
  ⟨0xc, 1, 4, true, [⟨15, 0, .rw, 0, .none⟩, ⟨31, 16, .rw, 0, .none⟩]⟩,  -- CMP_LAYER_DST_XY
  ⟨0x10, 1, 4, true, [⟨15, 0, .rw, 0, .none⟩, ⟨31, 16, .rw, 0, .none⟩]⟩,  -- CMP_LAYER_DST_WH
  ⟨0x14, 1, 4, true, [⟨31, 0, .rw, 0, .none⟩]⟩,  -- CMP_LAYER_BASE_LO
  ⟨0x18, 1, 4, true, [⟨7, 0, .rw, 0, .none⟩]⟩,  -- CMP_LAYER_BASE_HI
  ⟨0x1c, 1, 4, true, [⟨23, 0, .rw, 0, .none⟩]⟩,  -- CMP_LAYER_PITCH
  ⟨0x20, 1, 4, true, [⟨15, 0, .rw, 0xffff, .none⟩]⟩,  -- CMP_LAYER_ALPHA
  ⟨0x24, 1, 4, true, [⟨29, 0, .rw, 0, .none⟩]⟩,  -- CMP_LAYER_FILL
  ⟨0x28, 1, 4, true, [⟨1, 0, .rw, 0, .none⟩, ⟨7, 2, .rw, 0, .none⟩]⟩,  -- CMP_LAYER_SOURCE
  ⟨0x2c, 1, 4, true, [⟨15, 0, .rw, 0x1000, .none⟩, ⟨31, 16, .rw, 0, .none⟩]⟩,  -- CMP_LAYER_CSC0
  ⟨0x30, 1, 4, true, [⟨15, 0, .rw, 0, .none⟩, ⟨31, 16, .rw, 0, .none⟩]⟩,  -- CMP_LAYER_CSC1
  ⟨0x34, 1, 4, true, [⟨15, 0, .rw, 0x1000, .none⟩, ⟨31, 16, .rw, 0, .none⟩]⟩,  -- CMP_LAYER_CSC2
  ⟨0x38, 1, 4, true, [⟨15, 0, .rw, 0, .none⟩, ⟨31, 16, .rw, 0, .none⟩]⟩,  -- CMP_LAYER_CSC3
  ⟨0x3c, 1, 4, true, [⟨15, 0, .rw, 0x1000, .none⟩]⟩,  -- CMP_LAYER_CSC4
  ⟨0x40, 3, 4, true, [⟨19, 0, .rw, 0, .none⟩]⟩,  -- CMP_LAYER_OFF
  ⟨0x4c, 1, 4, false, [  -- CMP_LAYER_RT
    ⟨1, 0, .ro, 0, .none⟩, ⟨7, 2, .ro, 0, .none⟩, ⟨8, 8, .ro, 0, .none⟩, ⟨9, 9, .ro, 0, .none⟩,
    ⟨10, 10, .ro, 0, .none⟩]⟩]

/-- SCN_ registers (Table 9.12). -/
def scnRows : List Row := [
  ⟨0x0, 1, 4, false, [⟨7, 0, .ro, 1, .none⟩]⟩,  -- SCN_ID
  ⟨0x4, 1, 4, false, [  -- SCN_STATUS
    ⟨0, 0, .ro, 0, .none⟩, ⟨1, 1, .ro, 0, .none⟩, ⟨2, 2, .ro, 0, .none⟩, ⟨3, 3, .ro, 0, .none⟩,
    ⟨4, 4, .ro, 0, .none⟩, ⟨5, 5, .ro, 0, .none⟩, ⟨6, 6, .ro, 0, .none⟩]⟩,
  ⟨0x8, 1, 4, true, [  -- SCN_CTRL
    ⟨0, 0, .rw, 0, .none⟩, ⟨2, 1, .rw, 1, .none⟩, ⟨3, 3, .rw, 0, .none⟩, ⟨11, 4, .rw, 0x80, .none⟩,
    ⟨13, 12, .rw, 0, .none⟩, ⟨14, 14, .rw, 0, .none⟩]⟩,
  ⟨0xc, 1, 4, false, [⟨12, 0, .ro, 0, .none⟩]⟩,  -- SCN_LINE
  ⟨0x10, 1, 4, true, [⟨0, 0, .rw, 0, .none⟩, ⟨1, 1, .rw, 0, .none⟩]⟩,  -- SCN_TE_CTRL
  ⟨0x14, 1, 4, false, [  -- SCN_EVT
    ⟨0, 0, .w1c, 0, .none⟩, ⟨1, 1, .w1c, 0, .none⟩, ⟨2, 2, .w1c, 0, .none⟩, ⟨3, 3, .w1c, 0, .none⟩,
    ⟨4, 4, .w1c, 0, .none⟩]⟩,
  ⟨0x18, 1, 4, false, [⟨4, 0, .rw, 0x15, .none⟩]⟩,  -- SCN_EVT_EN
  ⟨0x1c, 1, 4, false, [⟨31, 0, .ro, 0, .none⟩]⟩,  -- SCN_REPEAT_CNT
  ⟨0x20, 1, 4, false, [⟨31, 0, .ro, 0, .none⟩]⟩,  -- SCN_RETRAIN_CNT
  ⟨0x24, 1, 4, false, [⟨31, 0, .ro, 0, .none⟩]⟩,  -- SCN_LINE_CRC
  ⟨0x28, 1, 4, false, [⟨0, 0, .wo, 0, .none⟩]⟩,  -- SCN_CNT_CLR
  ⟨0x30, 1, 4, true, [⟨0, 0, .rw, 0, .none⟩, ⟨15, 8, .rw, 0, .none⟩]⟩,  -- SCN_IF_CTRL
  ⟨0x40, 8, 4, true, [⟨31, 0, .rw, 0, .none⟩]⟩]  -- SCN_IF_DATA

/-- TSL_ registers (Table 10.10). -/
def tslRows : List Row := [
  ⟨0x0, 1, 4, false, [⟨15, 0, .ro, 0x4000, .none⟩, ⟨23, 16, .ro, 1, .none⟩]⟩,  -- TSL_ID
  ⟨0x4, 1, 4, false, [⟨14, 0, .ro, 0x3c00, .none⟩, ⟨24, 16, .ro, 1, .none⟩]⟩,  -- TSL_STATUS
  ⟨0x8, 1, 4, false, [  -- TSL_EVT
    ⟨0, 0, .w1c, 0, .none⟩, ⟨1, 1, .w1c, 0, .none⟩, ⟨2, 2, .w1c, 0, .none⟩, ⟨3, 3, .w1c, 0, .none⟩,
    ⟨4, 4, .w1c, 0, .none⟩, ⟨5, 5, .w1c, 0, .none⟩]⟩,
  ⟨0xc, 1, 4, false, [⟨5, 0, .rw, 0x2f, .none⟩]⟩,  -- TSL_EVT_EN
  ⟨0x10, 1, 4, false, [⟨31, 0, .ro, 0, .none⟩]⟩,  -- TSL_OVF_CNT
  ⟨0x14, 1, 4, false, [⟨31, 0, .ro, 0, .none⟩]⟩,  -- TSL_UNDER_CNT
  ⟨0x18, 1, 4, false, [⟨31, 0, .ro, 0, .none⟩]⟩,  -- TSL_MAP_ERR_CNT
  ⟨0x1c, 1, 4, false, [⟨31, 0, .ro, 0, .none⟩]⟩,  -- TSL_POISON_CNT
  ⟨0x20, 1, 4, false, [  -- TSL_SEL
    ⟨13, 0, .rw, 0, .none⟩, ⟨27, 20, .rw, 0, .none⟩, ⟨30, 28, .rw, 0, .none⟩, ⟨31, 31, .rw, 0, .none⟩]⟩,
  ⟨0x24, 1, 4, false, [⟨30, 0, .ro, 0, .none⟩]⟩,  -- TSL_VALUE
  ⟨0x28, 1, 4, false, [  -- TSL_FLAGS
    ⟨0, 0, .ro, 0, .none⟩, ⟨1, 1, .ro, 0, .none⟩, ⟨2, 2, .ro, 0, .none⟩, ⟨3, 3, .ro, 0, .none⟩,
    ⟨15, 8, .ro, 0, .none⟩, ⟨27, 16, .ro, 0, .none⟩]⟩,
  ⟨0x2c, 1, 4, false, [  -- TSL_LAST_UNIT
    ⟨3, 0, .ro, 0xf, .none⟩, ⟨6, 4, .ro, 0, .none⟩, ⟨16, 7, .ro, 0, .none⟩, ⟨31, 17, .ro, 0, .none⟩]⟩,
  ⟨0x30, 1, 4, false, [⟨31, 0, .ro, 0, .none⟩]⟩,  -- TSL_LAST_STEP
  ⟨0x34, 1, 4, false, [⟨13, 0, .ro, 0, .none⟩]⟩,  -- TSL_WAITERS
  ⟨0x38, 1, 4, false, [⟨13, 0, .rw, 0, .none⟩]⟩,  -- TSL_WSEL
  ⟨0x3c, 1, 4, false, [⟨30, 0, .ro, 0, .none⟩, ⟨31, 31, .ro, 0, .none⟩]⟩,  -- TSL_WAITER_N
  ⟨0x40, 1, 4, false, [  -- TSL_WAITER_ID
    ⟨3, 0, .ro, 0, .none⟩, ⟨6, 4, .ro, 0, .none⟩, ⟨16, 7, .ro, 0, .none⟩, ⟨31, 17, .ro, 0, .none⟩]⟩,
  ⟨0x48, 1, 4, false, [⟨31, 0, .rw, 0, .none⟩]⟩,  -- TSL_DUMP_ADDR_LO
  ⟨0x4c, 1, 4, false, [⟨31, 0, .rw, 0, .none⟩]⟩,  -- TSL_DUMP_ADDR_HI
  ⟨0x50, 1, 4, false, [⟨31, 0, .rw, 0, .none⟩]⟩,  -- TSL_DUMP_LEN
  ⟨0x54, 1, 4, false, [  -- TSL_DUMP_CTRL
    ⟨0, 0, .wo, 0, .none⟩, ⟨1, 1, .rw, 0, .none⟩, ⟨2, 2, .rw, 0, .none⟩, ⟨3, 3, .ro, 0, .none⟩,
    ⟨11, 4, .ro, 0, .none⟩]⟩,
  ⟨0x58, 1, 4, false, [⟨31, 0, .ro, 0, .none⟩]⟩,  -- TSL_DUMP_BYTES
  ⟨0x5c, 1, 4, false, [⟨0, 0, .wo, 0, .none⟩]⟩]  -- TSL_CNT_CLR

/-- DET_ registers (Table 11.8). -/
def detRows : List Row := [
  ⟨0x0, 1, 4, false, [  -- DET_CLASS_LO
    ⟨7, 0, .ro, 0, .none⟩, ⟨11, 8, .ro, 0, .none⟩, ⟨12, 12, .ro, 0, .none⟩, ⟨23, 16, .ro, 1, .none⟩]⟩,
  ⟨0x4, 1, 4, false, [⟨31, 0, .ro, 0, .none⟩]⟩,  -- DET_CLASS_HI
  ⟨0x8, 1, 4, false, [  -- DET_CONFIG
    ⟨1, 0, .ro, 3, .none⟩, ⟨3, 2, .ro, 0, .none⟩, ⟨4, 4, .ro, 0, .none⟩, ⟨15, 8, .ro, 0, .none⟩,
    ⟨17, 16, .ro, 0, .none⟩]⟩,
  ⟨0xc, 1, 4, false, [  -- DET_STATUS
    ⟨0, 0, .ro, 0, .none⟩, ⟨1, 1, .ro, 0, .none⟩, ⟨2, 2, .ro, 0, .none⟩, ⟨3, 3, .ro, 0, .none⟩,
    ⟨4, 4, .ro, 0, .none⟩]⟩,
  ⟨0x10, 1, 4, false, [⟨31, 0, .ro, 0, .none⟩]⟩,  -- DET_GSC_LO
  ⟨0x14, 1, 4, false, [⟨31, 0, .ro, 0, .none⟩]⟩,  -- DET_GSC_HI
  ⟨0x18, 1, 4, false, [⟨31, 0, .ro, 0, .none⟩]⟩,  -- DET_TIMING_LO
  ⟨0x1c, 1, 4, false, [⟨31, 0, .ro, 0, .none⟩]⟩,  -- DET_TIMING_HI
  ⟨0x20, 1, 4, false, [  -- DET_REC_CTRL
    ⟨0, 0, .rw, 0, .none⟩, ⟨1, 1, .rw, 0, .none⟩, ⟨3, 2, .rw, 0, .none⟩, ⟨4, 4, .rw, 0, .none⟩,
    ⟨5, 5, .rw, 0, .none⟩, ⟨6, 6, .rw, 0, .none⟩, ⟨7, 7, .rw, 1, .none⟩, ⟨23, 16, .rw, 8, .none⟩]⟩,
  ⟨0x24, 1, 4, false, [⟨31, 0, .rw, 0, .none⟩]⟩,  -- DET_REC_BASE_LO
  ⟨0x28, 1, 4, false, [⟨7, 0, .rw, 0, .none⟩]⟩,  -- DET_REC_BASE_HI
  ⟨0x2c, 1, 4, false, [⟨15, 0, .rw, 0, .none⟩]⟩,  -- DET_REC_SIZE
  ⟨0x30, 1, 4, false, [⟨31, 0, .ro, 0, .none⟩]⟩,  -- DET_REC_WPTR
  ⟨0x34, 1, 4, false, [⟨31, 0, .rw, 0, .none⟩]⟩,  -- DET_REC_RPTR
  ⟨0x38, 1, 4, false, [⟨31, 0, .ro, 0, .none⟩]⟩,  -- DET_REC_DROP
  ⟨0x3c, 1, 4, false, [⟨15, 0, .rw, 0x40, .none⟩]⟩,  -- DET_CKPT_CTRL
  ⟨0x40, 1, 4, false, [⟨31, 0, .ro, 0, .none⟩]⟩,  -- DET_CKPT_LAST_LO
  ⟨0x44, 1, 4, false, [⟨31, 0, .ro, 0, .none⟩]⟩,  -- DET_CKPT_LAST_HI
  ⟨0x48, 1, 4, false, [⟨31, 0, .ro, 0, .none⟩]⟩,  -- DET_MISMATCH
  ⟨0x4c, 1, 4, false, [  -- DET_EVT
    ⟨0, 0, .w1c, 0, .none⟩, ⟨1, 1, .w1c, 0, .none⟩, ⟨2, 2, .w1c, 0, .none⟩, ⟨3, 3, .w1c, 0, .none⟩,
    ⟨4, 4, .w1c, 0, .none⟩]⟩,
  ⟨0x50, 1, 4, false, [⟨4, 0, .rw, 0x1b, .none⟩]⟩,  -- DET_EVT_EN
  ⟨0x54, 1, 4, false, [⟨0, 0, .wo, 0, .none⟩]⟩]  -- DET_CNT_CLR

/-- HST_ device registers (Table 12.14). -/
def hstRows : List Row := [
  ⟨0x0, 1, 4, false, [⟨15, 0, .ro, 0, .none⟩, ⟨23, 16, .ro, 1, .none⟩, ⟨27, 24, .ro, 0, .none⟩]⟩,  -- HST_ID
  ⟨0x4, 1, 4, false, [⟨2, 0, .ro, 0, .none⟩, ⟨6, 3, .ro, 0, .none⟩, ⟨7, 7, .ro, 0, .none⟩]⟩,  -- HST_LINK
  ⟨0x8, 1, 4, false, [⟨18, 0, .ro, 0, .none⟩]⟩,  -- HST_QFREE
  ⟨0xc, 1, 4, false, [  -- HST_EVT
    ⟨0, 0, .w1c, 0, .none⟩, ⟨1, 1, .w1c, 0, .none⟩, ⟨2, 2, .w1c, 0, .none⟩, ⟨3, 3, .w1c, 0, .none⟩]⟩,
  ⟨0x10, 1, 4, false, [⟨3, 0, .rw, 7, .none⟩]⟩,  -- HST_EVT_EN
  ⟨0x14, 1, 4, false, [⟨31, 0, .ro, 0, .none⟩]⟩,  -- HST_EQ_LOST
  ⟨0x18, 1, 4, false, [⟨31, 0, .ro, 0, .none⟩]⟩,  -- HST_DB_DROP
  ⟨0x1c, 1, 4, false, [⟨0, 0, .wo, 0, .none⟩]⟩,  -- HST_CNT_CLR
  ⟨0x20, 8, 4, false, [⟨17, 0, .rw, 0, .none⟩, ⟨31, 31, .rw, 0, .none⟩]⟩,  -- HST_DIE_EQ
  ⟨0x40, 8, 4, false, [⟨5, 0, .rw, 0, .none⟩]⟩,  -- HST_HEAD_OWNER
  ⟨0x100, 64, 4, false, [⟨18, 0, .rw, 0, .none⟩, ⟨30, 30, .ro, 0, .none⟩, ⟨31, 31, .rw, 0, .none⟩]⟩]  -- HST_QUOTA

/-- HST_FN_ function page registers (Table 12.15). -/
def hstFnRows : List Row := [
  ⟨0x0, 1, 4, false, [⟨31, 0, .wo, 0, .none⟩]⟩,  -- HST_FN_DB
  ⟨0x4, 1, 4, false, [⟨5, 0, .ro, 0, .none⟩]⟩,  -- HST_FN_ID
  ⟨0x8, 1, 4, false, [⟨0, 0, .ro, 1, .none⟩, ⟨1, 1, .ro, 0, .none⟩, ⟨2, 2, .ro, 0, .none⟩]⟩,  -- HST_FN_STATUS
  ⟨0xc, 1, 4, false, [⟨18, 0, .ro, 0, .none⟩]⟩,  -- HST_FN_QUOTA
  ⟨0x10, 1, 4, false, [⟨3, 0, .rw, 0, .none⟩, ⟨31, 12, .rw, 0, .none⟩]⟩,  -- HST_FN_ASQ_LO
  ⟨0x14, 1, 4, false, [⟨31, 0, .rw, 0, .none⟩]⟩,  -- HST_FN_ASQ_HI
  ⟨0x18, 1, 4, false, [⟨3, 0, .rw, 0, .none⟩, ⟨31, 12, .rw, 0, .none⟩]⟩,  -- HST_FN_ACQ_LO
  ⟨0x1c, 1, 4, false, [⟨31, 0, .rw, 0, .none⟩]⟩,  -- HST_FN_ACQ_HI
  ⟨0x20, 1, 4, false, [⟨0, 0, .rw, 0, .none⟩, ⟨26, 16, .rw, 0, .none⟩]⟩,  -- HST_FN_AQ_CTRL
  ⟨0x24, 1, 4, false, [⟨31, 0, .ro, 0, .none⟩]⟩,  -- HST_FN_DB_DROP
  ⟨0x28, 1, 4, false, [⟨31, 0, .ro, 0, .none⟩]⟩,  -- HST_FN_CPL_LOST
  ⟨0x2c, 1, 4, false, [⟨0, 0, .wo, 0, .none⟩]⟩]  -- HST_FN_CNT_CLR

/-- SFN_ registers (Table 13.10). -/
def sfnRows : List Row := [
  ⟨0x0, 1, 4, false, [⟨7, 0, .ro, 1, .none⟩, ⟨8, 8, .ro, 0, .none⟩]⟩,  -- SFN_ID
  ⟨0x4, 1, 4, false, [  -- SFN_STATE
    ⟨1, 0, .ro, 0, .none⟩, ⟨2, 2, .ro, 0, .none⟩, ⟨3, 3, .ro, 0, .none⟩, ⟨4, 4, .ro, 0, .none⟩,
    ⟨5, 5, .ro, 0, .none⟩, ⟨6, 6, .ro, 0, .none⟩]⟩,
  ⟨0x8, 1, 4, false, [  -- SFN_EVT
    ⟨0, 0, .w1c, 0, .none⟩, ⟨1, 1, .w1c, 0, .none⟩, ⟨2, 2, .w1c, 0, .none⟩, ⟨3, 3, .w1c, 0, .none⟩,
    ⟨4, 4, .w1c, 0, .none⟩, ⟨5, 5, .w1c, 0, .none⟩, ⟨6, 6, .w1c, 0, .none⟩, ⟨7, 7, .w1c, 0, .none⟩,
    ⟨8, 8, .w1c, 0, .none⟩, ⟨9, 9, .w1c, 0, .none⟩, ⟨10, 10, .w1c, 0, .none⟩, ⟨11, 11, .w1c, 0, .none⟩,
    ⟨12, 12, .w1c, 0, .none⟩, ⟨13, 13, .w1c, 0, .none⟩, ⟨14, 14, .w1c, 0, .none⟩]⟩,
  ⟨0xc, 1, 4, false, [⟨14, 0, .rw, 0x5ffe, .none⟩]⟩,  -- SFN_EVT_EN
  ⟨0x10, 1, 4, false, [⟨15, 0, .rw, 0x600, .installer⟩]⟩,  -- SFN_T_MEAN
  ⟨0x14, 1, 4, false, [⟨15, 0, .rw, 0x1800, .installer⟩]⟩,  -- SFN_T_MAX
  ⟨0x18, 1, 4, false, [⟨15, 0, .rw, 0x800, .installer⟩, ⟨21, 16, .rw, 0xc, .installer⟩]⟩,  -- SFN_HF
  ⟨0x1c, 1, 4, false, [⟨15, 0, .rw, 0x2000, .installer⟩]⟩,  -- SFN_T_FLASH
  ⟨0x20, 1, 4, false, [⟨15, 0, .rw, 0xffff, .installer⟩, ⟨31, 16, .rw, 0xffff, .installer⟩]⟩,  -- SFN_CAP
  ⟨0x24, 1, 4, false, [⟨15, 0, .rw, 0x8000, .operator⟩]⟩,  -- SFN_BRIGHT
  ⟨0x28, 1, 4, false, [⟨15, 0, .ro, 0x1000, .none⟩, ⟨31, 16, .ro, 0x4000, .none⟩]⟩,  -- SFN_ENV0
  ⟨0x2c, 1, 4, false, [⟨15, 0, .ro, 0x2000, .none⟩, ⟨21, 16, .ro, 0x20, .none⟩]⟩,  -- SFN_ENV1
  ⟨0x30, 1, 4, false, [⟨15, 0, .ro, 0x3333, .none⟩, ⟨19, 16, .ro, 8, .none⟩]⟩,  -- SFN_ENV2
  ⟨0x34, 1, 4, false, [⟨15, 0, .ro, 0xffff, .none⟩, ⟨31, 16, .ro, 0xffff, .none⟩]⟩,  -- SFN_ENV3
  ⟨0x38, 1, 4, false, [⟨1, 0, .ro, 0, .none⟩, ⟨8, 2, .ro, 0, .none⟩]⟩,  -- SFN_WINDOW
  ⟨0x3c, 1, 4, false, [⟨31, 0, .ro, 0, .none⟩]⟩,  -- SFN_RESTART_CNT
  ⟨0x40, 1, 4, false, [  -- SFN_LAST_REJECT
    ⟨3, 0, .ro, 0, .none⟩, ⟨7, 4, .ro, 0, .none⟩, ⟨17, 8, .ro, 0, .none⟩, ⟨18, 18, .ro, 0, .none⟩]⟩,
  ⟨0x44, 1, 4, false, [⟨15, 0, .ro, 0, .none⟩, ⟨31, 16, .ro, 0, .none⟩]⟩,  -- SFN_LAST_M0
  ⟨0x48, 1, 4, false, [⟨15, 0, .ro, 0, .none⟩, ⟨31, 16, .ro, 0, .none⟩]⟩,  -- SFN_LAST_M1
  ⟨0x4c, 1, 4, false, [⟨15, 0, .ro, 0x8000, .none⟩]⟩,  -- SFN_GAIN
  ⟨0x50, 1, 4, false, [⟨31, 0, .ro, 0, .none⟩]⟩,  -- SFN_GUARD_CNT
  ⟨0x54, 1, 4, false, [⟨31, 0, .ro, 0, .none⟩]⟩,  -- SFN_VEC_GUARD_CNT
  ⟨0x58, 1, 4, false, [⟨31, 0, .ro, 0, .none⟩]⟩,  -- SFN_READ_CRC_CNT
  ⟨0x5c, 1, 4, false, [⟨31, 0, .ro, 0, .none⟩]⟩,  -- SFN_UNTRUSTED_CNT
  ⟨0x60, 1, 4, false, [⟨31, 0, .ro, 0, .none⟩]⟩,  -- SFN_SEAL_HOLD_CNT
  ⟨0x64, 1, 4, false, [  -- SFN_GOLDEN
    ⟨1, 0, .ro, 0, .none⟩, ⟨2, 2, .ro, 0, .none⟩, ⟨4, 3, .ro, 0, .none⟩, ⟨5, 5, .ro, 0, .none⟩]⟩,
  ⟨0x68, 1, 4, false, [⟨31, 0, .ro, 0, .none⟩]⟩,  -- SFN_GOLDEN_FAIL_CNT
  ⟨0x6c, 1, 4, false, [⟨12, 0, .ro, 0, .none⟩]⟩,  -- SFN_MON
  ⟨0x70, 1, 4, false, [  -- SFN_ECHO_CTRL
    ⟨0, 0, .rw, 0, .installer⟩, ⟨2, 1, .rw, 0, .installer⟩, ⟨5, 3, .rw, 0, .installer⟩,
    ⟨9, 6, .rw, 3, .installer⟩]⟩,
  ⟨0x74, 1, 4, false, [⟨31, 0, .ro, 0, .none⟩]⟩,  -- SFN_ECHO_MISS_CNT
  ⟨0x78, 1, 4, false, [⟨31, 0, .ro, 0, .none⟩]⟩,  -- SFN_ECHO_LOST_CNT
  ⟨0x80, 1, 4, false, [⟨4, 0, .rw, 0, .none⟩]⟩,  -- SFN_IG_SEL
  ⟨0x84, 1, 4, false, [  -- SFN_IG_CFG
    ⟨0, 0, .rw, 0, .installer⟩, ⟨3, 1, .rw, 0, .installer⟩, ⟨10, 4, .rw, 0, .installer⟩,
    ⟨18, 11, .rw, 0, .installer⟩, ⟨26, 19, .rw, 0, .installer⟩]⟩,
  ⟨0x88, 1, 4, false, [⟨15, 0, .rw, 0, .installer⟩, ⟨25, 16, .rw, 0x64, .installer⟩]⟩,  -- SFN_IG_LIMIT
  ⟨0x8c, 1, 4, false, [⟨15, 0, .ro, 0, .none⟩, ⟨16, 16, .ro, 0, .none⟩, ⟨17, 17, .ro, 0, .none⟩]⟩,  -- SFN_IG_STATUS
  ⟨0x90, 1, 4, false, [⟨7, 0, .rw, 0x40, .installer⟩]⟩,  -- SFN_IG_SAFE
  ⟨0x94, 1, 4, false, [⟨31, 0, .ro, 0, .none⟩]⟩,  -- SFN_IG_TRIP_CNT
  ⟨0x98, 1, 4, false, [⟨0, 0, .wo, 0, .none⟩, ⟨1, 1, .ro, 0, .none⟩, ⟨11, 4, .ro, 0, .none⟩]⟩,  -- SFN_INJ_CTRL
  ⟨0x9c, 1, 4, false, [⟨17, 0, .ro, 0, .none⟩]⟩,  -- SFN_INJ_FAIL
  ⟨0xa0, 1, 4, false, [⟨0, 0, .wo, 0, .installer⟩, ⟨1, 1, .wo, 0, .installer⟩]⟩,  -- SFN_CTRL
  ⟨0xa4, 1, 4, false, [⟨0, 0, .wo, 0, .none⟩]⟩]  -- SFN_CNT_CLR

/-- SEC_ registers (Table 14.11). -/
def secRows : List Row := [
  ⟨0x0, 1, 4, false, [⟨7, 0, .ro, 1, .none⟩, ⟨8, 8, .ro, 0, .none⟩]⟩,  -- SEC_ID
  ⟨0x4, 1, 4, false, [  -- SEC_BOOT
    ⟨2, 0, .ro, 0, .none⟩, ⟨10, 3, .ro, 0, .none⟩, ⟨12, 11, .ro, 0, .none⟩, ⟨18, 13, .ro, 0, .none⟩,
    ⟨24, 19, .ro, 0, .none⟩]⟩,
  ⟨0x8, 1, 4, false, [⟨1, 0, .ro, 0, .none⟩, ⟨3, 2, .ro, 0, .none⟩, ⟨27, 16, .ro, 0, .none⟩]⟩,  -- SEC_ROLE
  ⟨0xc, 1, 4, false, [  -- SEC_REQ_CTRL
    ⟨0, 0, .wo, 0, .none⟩, ⟨1, 1, .wo, 0, .none⟩, ⟨2, 2, .ro, 0, .none⟩, ⟨6, 3, .rw, 0, .none⟩,
    ⟨15, 8, .ro, 0, .none⟩]⟩,
  ⟨0x10, 1, 4, false, [⟨31, 0, .rw, 0, .none⟩]⟩,  -- SEC_REQ_ADDR_LO
  ⟨0x14, 1, 4, false, [⟨31, 0, .rw, 0, .none⟩]⟩,  -- SEC_REQ_ADDR_HI
  ⟨0x18, 1, 4, false, [⟨16, 0, .rw, 0, .none⟩]⟩,  -- SEC_REQ_LEN
  ⟨0x20, 8, 4, false, [⟨31, 0, .ro, 0, .none⟩]⟩,  -- SEC_NONCE
  ⟨0x40, 1, 4, false, [⟨4, 0, .ro, 0, .none⟩]⟩,  -- SEC_FEATURES
  ⟨0x44, 1, 4, false, [  -- SEC_RESET
    ⟨0, 0, .wo, 0, .installer⟩, ⟨7, 1, .wo, 0, .installer⟩, ⟨8, 8, .rw, 0, .installer⟩]⟩,
  ⟨0x48, 1, 4, false, [  -- SEC_EVT
    ⟨0, 0, .w1c, 0, .none⟩, ⟨1, 1, .w1c, 0, .none⟩, ⟨2, 2, .w1c, 0, .none⟩, ⟨3, 3, .w1c, 0, .none⟩,
    ⟨4, 4, .w1c, 0, .none⟩, ⟨5, 5, .w1c, 0, .none⟩, ⟨6, 6, .w1c, 0, .none⟩, ⟨7, 7, .w1c, 0, .none⟩]⟩,
  ⟨0x4c, 1, 4, false, [⟨7, 0, .rw, 0xfe, .none⟩]⟩,  -- SEC_EVT_EN
  ⟨0x50, 1, 4, false, [⟨31, 0, .ro, 0, .none⟩]⟩,  -- SEC_ROLE_DENY_CNT
  ⟨0x54, 1, 4, false, [⟨31, 0, .ro, 0, .none⟩]⟩,  -- SEC_AUTH_FAIL_CNT
  ⟨0x58, 1, 4, false, [⟨31, 0, .ro, 0, .none⟩]⟩,  -- SEC_CE_BT
  ⟨0x5c, 1, 4, false, [⟨31, 0, .ro, 0, .none⟩]⟩,  -- SEC_UE_BT
  ⟨0x60, 1, 4, false, [⟨31, 0, .ro, 0, .none⟩]⟩,  -- SEC_CE_DRAM
  ⟨0x64, 1, 4, false, [⟨31, 0, .ro, 0, .none⟩]⟩,  -- SEC_UE_DRAM
  ⟨0x68, 1, 4, false, [⟨31, 0, .ro, 0, .none⟩]⟩,  -- SEC_CE_OTHER
  ⟨0x6c, 1, 4, false, [⟨31, 0, .ro, 0, .none⟩]⟩,  -- SEC_UE_OTHER
  ⟨0x70, 1, 4, false, [⟨3, 0, .ro, 0, .none⟩, ⟨4, 4, .ro, 0, .none⟩, ⟨10, 5, .ro, 0, .none⟩]⟩,  -- SEC_ECC_LAST
  ⟨0x74, 1, 4, false, [⟨31, 0, .ro, 0, .none⟩]⟩,  -- SEC_ECC_ADDR
  ⟨0x78, 1, 4, false, [⟨12, 0, .ro, 0, .none⟩]⟩,  -- SEC_SCRUB
  ⟨0x7c, 1, 4, false, [⟨31, 0, .ro, 0, .none⟩]⟩,  -- SEC_SCRUB_PASS
  ⟨0x80, 1, 4, false, [⟨31, 0, .ro, 0, .none⟩]⟩,  -- SEC_DOWN_MS
  ⟨0x84, 1, 4, false, [⟨31, 0, .ro, 0, .none⟩]⟩,  -- SEC_DOWN_EVENTS
  ⟨0x88, 1, 4, false, [⟨0, 0, .wo, 0, .none⟩]⟩]  -- SEC_CNT_CLR

/-- NVM_ registers (Table 14.12). -/
def nvmRows : List Row := [
  ⟨0x0, 1, 4, false, [  -- NVM_ID
    ⟨8, 0, .ro, 0x100, .none⟩, ⟨15, 9, .ro, 0x40, .none⟩, ⟨23, 16, .ro, 1, .none⟩]⟩,
  ⟨0x4, 1, 4, false, [  -- NVM_CTRL
    ⟨0, 0, .wo, 0, .operator⟩, ⟨1, 1, .ro, 0, .none⟩, ⟨3, 2, .ro, 0, .none⟩, ⟨11, 4, .ro, 0, .none⟩]⟩,
  ⟨0x8, 1, 4, false, [⟨31, 0, .ro, 0, .none⟩]⟩,  -- NVM_SEQ
  ⟨0xc, 1, 4, false, [⟨16, 0, .ro, 0, .none⟩, ⟨20, 17, .ro, 0xf, .none⟩]⟩,  -- NVM_WEAR
  ⟨0x10, 1, 4, false, [  -- NVM_EVT
    ⟨0, 0, .w1c, 0, .none⟩, ⟨1, 1, .w1c, 0, .none⟩, ⟨2, 2, .w1c, 0, .none⟩, ⟨3, 3, .w1c, 0, .none⟩,
    ⟨4, 4, .w1c, 0, .none⟩]⟩,
  ⟨0x14, 1, 4, false, [⟨4, 0, .rw, 0x1e, .none⟩]⟩,  -- NVM_EVT_EN
  ⟨0x18, 1, 4, false, [⟨31, 0, .ro, 0, .none⟩]⟩,  -- NVM_AUDIT_HEAD
  ⟨0x1c, 1, 4, false, [⟨9, 0, .rw, 0, .none⟩]⟩,  -- NVM_AUDIT_SEL
  ⟨0x20, 16, 4, false, [⟨31, 0, .ro, 0, .none⟩]⟩,  -- NVM_AUDIT_DATA
  ⟨0x60, 1, 4, false, [⟨31, 0, .ro, 0, .none⟩]⟩,  -- NVM_CE_CNT
  ⟨0x64, 1, 4, false, [⟨31, 0, .ro, 0, .none⟩]⟩,  -- NVM_STORE_CNT
  ⟨0x68, 1, 4, false, [⟨0, 0, .wo, 0, .none⟩]⟩]  -- NVM_CNT_CLR

/-- CLK_ registers (Table 15.11). -/
def clkRows : List Row := [
  ⟨0x0, 1, 4, false, [⟨7, 0, .ro, 1, .none⟩, ⟨8, 8, .ro, 0, .none⟩]⟩,  -- CLK_ID
  ⟨0x4, 1, 4, false, [⟨0, 0, .ro, 0, .none⟩, ⟨5, 1, .ro, 0, .none⟩, ⟨9, 6, .ro, 0, .none⟩]⟩,  -- CLK_STATUS
  ⟨0x8, 1, 4, false, [  -- CLK_LOCK_CFG
    ⟨3, 0, .rw, 0, .installer⟩, ⟨5, 4, .rw, 0, .installer⟩, ⟨6, 6, .rw, 0, .installer⟩,
    ⟨20, 7, .rw, 0, .installer⟩]⟩,
  ⟨0xc, 1, 4, false, [⟨1, 0, .ro, 0, .none⟩, ⟨25, 2, .ro, 0, .none⟩]⟩,  -- CLK_LOCK_STATE
  ⟨0x10, 1, 4, false, [⟨16, 0, .ro, 0, .none⟩]⟩,  -- CLK_TRIM
  ⟨0x14, 1, 4, false, [⟨7, 0, .ro, 0, .none⟩, ⟨31, 8, .ro, 0, .none⟩]⟩,  -- CLK_PIX_DIV
  ⟨0x18, 1, 4, false, [  -- CLK_PTP_CTRL
    ⟨0, 0, .rw, 0, .installer⟩, ⟨3, 1, .rw, 0, .installer⟩, ⟨10, 4, .rw, 0x7f, .installer⟩,
    ⟨11, 11, .rw, 0, .installer⟩]⟩,
  ⟨0x1c, 1, 4, false, [⟨31, 0, .ro, 0, .none⟩]⟩,  -- CLK_PTP_OFFSET
  ⟨0x20, 1, 4, false, [  -- CLK_EVT
    ⟨0, 0, .w1c, 0, .none⟩, ⟨1, 1, .w1c, 0, .none⟩, ⟨2, 2, .w1c, 0, .none⟩, ⟨3, 3, .w1c, 0, .none⟩]⟩,
  ⟨0x24, 1, 4, false, [⟨3, 0, .rw, 7, .none⟩]⟩]  -- CLK_EVT_EN

/-- PWR_ registers (Table 15.12). -/
def pwrRows : List Row := [
  ⟨0x0, 1, 4, false, [⟨7, 0, .ro, 1, .none⟩]⟩,  -- PWR_ID
  ⟨0x4, 1, 4, false, [  -- PWR_CTRL
    ⟨1, 0, .rw, 0, .operator⟩, ⟨2, 2, .wo, 0, .none⟩, ⟨3, 3, .rw, 0, .operator⟩, ⟨5, 4, .rw, 0, .installer⟩]⟩,
  ⟨0x8, 1, 4, false, [  -- PWR_STATUS
    ⟨1, 0, .ro, 3, .none⟩, ⟨2, 2, .ro, 0, .none⟩, ⟨5, 3, .ro, 0, .none⟩, ⟨6, 6, .ro, 0, .none⟩,
    ⟨25, 16, .ro, 0, .none⟩]⟩,
  ⟨0xc, 1, 4, false, [⟨7, 0, .rw, 0, .installer⟩]⟩,  -- PWR_CAP
  ⟨0x10, 1, 4, false, [⟨15, 0, .ro, 0, .none⟩, ⟨31, 16, .ro, 0, .none⟩]⟩,  -- PWR_POWER
  ⟨0x14, 1, 4, false, [  -- PWR_PORT_EN
    ⟨0, 0, .rw, 0, .installer⟩, ⟨1, 1, .rw, 0, .installer⟩, ⟨2, 2, .rw, 0, .installer⟩]⟩,
  ⟨0x18, 1, 4, false, [  -- PWR_EVT
    ⟨0, 0, .w1c, 0, .none⟩, ⟨1, 1, .w1c, 0, .none⟩, ⟨2, 2, .w1c, 0, .none⟩, ⟨3, 3, .w1c, 0, .none⟩,
    ⟨4, 4, .w1c, 0, .none⟩, ⟨5, 5, .w1c, 0, .none⟩, ⟨6, 6, .w1c, 0, .none⟩, ⟨7, 7, .w1c, 0, .none⟩]⟩,
  ⟨0x1c, 1, 4, false, [⟨7, 0, .rw, 0xfe, .none⟩]⟩,  -- PWR_EVT_EN
  ⟨0x20, 1, 4, false, [⟨31, 0, .ro, 0, .none⟩]⟩,  -- PWR_THROTTLE_MS
  ⟨0x24, 1, 4, false, [⟨0, 0, .wo, 0, .none⟩]⟩,  -- PWR_CNT_CLR
  ⟨0x40, 16, 4, false, [⟨10, 0, .ro, 0, .none⟩]⟩]  -- PWR_TEMP

/-- SNS_ registers (Table 15.13). -/
def snsRows : List Row := [
  ⟨0x0, 1, 4, false, [⟨7, 0, .ro, 1, .none⟩]⟩,  -- SNS_ID
  ⟨0x4, 1, 4, false, [⟨31, 0, .rw, 0, .operator⟩]⟩,  -- SNS_GPIO_DIR
  ⟨0x8, 1, 4, false, [⟨31, 0, .rw, 0, .operator⟩]⟩,  -- SNS_GPIO_OUT
  ⟨0xc, 1, 4, false, [⟨31, 0, .rw, 0, .operator⟩]⟩,  -- SNS_GPIO_OD
  ⟨0x10, 1, 4, false, [⟨31, 0, .ro, 0, .none⟩]⟩,  -- SNS_GPIO_IN
  ⟨0x14, 1, 4, false, [⟨31, 0, .rw, 0, .installer⟩]⟩,  -- SNS_GPIO_WAKE
  ⟨0x18, 1, 4, false, [⟨0, 0, .w1c, 0, .none⟩, ⟨1, 1, .w1c, 0, .none⟩, ⟨2, 2, .w1c, 0, .none⟩]⟩,  -- SNS_EVT
  ⟨0x1c, 1, 4, false, [⟨2, 0, .rw, 3, .none⟩]⟩,  -- SNS_EVT_EN
  ⟨0x20, 8, 4, false, [  -- SNS_PWM
    ⟨7, 0, .rw, 0, .operator⟩, ⟨21, 8, .rw, 0x3e8, .operator⟩, ⟨24, 22, .rw, 0, .operator⟩,
    ⟨25, 25, .rw, 0, .operator⟩, ⟨26, 26, .rw, 0, .installer⟩, ⟨27, 27, .ro, 0, .none⟩]⟩,
  ⟨0x40, 1, 4, false, [⟨5, 0, .rw, 0, .none⟩]⟩,  -- SNS_TASK_SEL
  ⟨0x44, 4, 4, false, [⟨31, 0, .rw, 0, .operator⟩]⟩,  -- SNS_TASK_DATA
  ⟨0x54, 1, 4, false, [⟨1, 0, .ro, 0, .none⟩]⟩,  -- SNS_TASK_STATUS
  ⟨0x58, 2, 4, false, [⟨31, 0, .ro, 0, .none⟩]⟩,  -- SNS_TASK_RESULT
  ⟨0x60, 1, 4, false, [⟨31, 0, .ro, 0, .none⟩]⟩,  -- SNS_XFER_ERR
  ⟨0x64, 1, 4, false, [⟨31, 0, .ro, 0, .none⟩]⟩,  -- SNS_TASK_LATE
  ⟨0x68, 1, 4, false, [⟨0, 0, .wo, 0, .none⟩]⟩]  -- SNS_CNT_CLR

/-- GDE_ registers (Table 15.14). -/
def gdeRows : List Row := [
  ⟨0x0, 4, 4, false, [  -- GDE_LINK
    ⟨0, 0, .ro, 0, .none⟩, ⟨1, 1, .ro, 0, .none⟩, ⟨2, 2, .ro, 0, .none⟩, ⟨5, 3, .ro, 0, .none⟩]⟩,
  ⟨0x10, 4, 4, false, [⟨31, 0, .ro, 0, .none⟩]⟩,  -- GDE_RETRY
  ⟨0x20, 1, 4, false, [⟨0, 0, .wo, 0, .none⟩]⟩]  -- GDE_CNT_CLR

namespace Reg

def mxeId (e : EngIx) : Nat := 0x300000 + 0x1000 * e.val
def mxeStatus (e : EngIx) : Nat := 0x300004 + 0x1000 * e.val
def mxeEvt (e : EngIx) : Nat := 0x300008 + 0x1000 * e.val
def mxeEvtEn (e : EngIx) : Nat := 0x30000c + 0x1000 * e.val
def mxeSatLo (e : EngIx) : Nat := 0x300010 + 0x1000 * e.val
def mxeSatHi (e : EngIx) : Nat := 0x300014 + 0x1000 * e.val
def mxeNanLo (e : EngIx) : Nat := 0x300018 + 0x1000 * e.val
def mxeNanHi (e : EngIx) : Nat := 0x30001c + 0x1000 * e.val
def mxeAccCe (e : EngIx) : Nat := 0x300020 + 0x1000 * e.val
def mxeCntClr (e : EngIx) : Nat := 0x300024 + 0x1000 * e.val
def mxeSkewCnt (e : EngIx) : Nat := 0x300028 + 0x1000 * e.val
def mxeSkewLast (e : EngIx) : Nat := 0x30002c + 0x1000 * e.val
def mxeSkewWhere (e : EngIx) : Nat := 0x300030 + 0x1000 * e.val
def winId : Nat := 0x340000
def winStatus : Nat := 0x340004
def winEvt : Nat := 0x340008
def winEvtEn : Nat := 0x34000c
def winBoxBad : Nat := 0x340010
def winBoxTrunc : Nat := 0x340014
def winBoxStale : Nat := 0x340018
def winArgmaxNan : Nat := 0x34001c
def winSat : Nat := 0x340020
def winCntClr : Nat := 0x340024
def rmsPlaceId : Nat := 0x200000
def rmsAdmitOk : Nat := 0x200004
def rmsAdmitFail : Nat := 0x200008
def rmsRewrite : Nat := 0x20000c
def rmsLastFail : Nat := 0x200010
def rmsPoolFree : Nat := 0x200014
def rmsSlotPeak : Nat := 0x200018
def rmsPlaceGen : Nat := 0x20001c
def rmsPlaceEvt : Nat := 0x200020
def rmsPlaceEvtEn : Nat := 0x200024
def rmsCntClr : Nat := 0x200028
def crsId : Nat := 0x400000
def crsInflight : Nat := 0x400004
def crsEvt : Nat := 0x400008
def crsEvtEn : Nat := 0x40000c
def crsStallCnt : Nat := 0x400010
def crsStallWaiter : Nat := 0x400014
def crsStallHolder : Nat := 0x400018
def crsStallPool : Nat := 0x40001c
def crsCodecErr : Nat := 0x400020
def crsWindowErr : Nat := 0x400024
def crsCreditErr : Nat := 0x400028
def crsCntClr : Nat := 0x40002c
def crsStatus (c : CrsIx) : Nat := 0x401000 + 0x40 * c.val
def crsStream (c : CrsIx) (i : Nat) : Nat := 0x401004 + 0x40 * c.val + 4 * i
def crsBytesLo (c : CrsIx) : Nat := 0x401014 + 0x40 * c.val
def crsBytesHi (c : CrsIx) : Nat := 0x401018 + 0x40 * c.val
def crsCodedLo (c : CrsIx) : Nat := 0x40101c + 0x40 * c.val
def crsCodedHi (c : CrsIx) : Nat := 0x401020 + 0x40 * c.val
def jglId : Nat := 0x320000
def jglStatus : Nat := 0x320004
def jglEvt : Nat := 0x320008
def jglEvtEn : Nat := 0x32000c
def jglSatLo : Nat := 0x320010
def jglSatHi : Nat := 0x320014
def jglNanLo : Nat := 0x320018
def jglNanHi : Nat := 0x32001c
def jglTrackFull : Nat := 0x320020
def jglThreads (i : Nat) : Nat := 0x320024 + 4 * i
def jglCntClr : Nat := 0x320034
def motId : Nat := 0x360000
def motStatus : Nat := 0x360004
def motEvt : Nat := 0x360008
def motEvtEn : Nat := 0x36000c
def motBlocksLo : Nat := 0x360010
def motBlocksHi : Nat := 0x360014
def motLimit : Nat := 0x360018
def motCntClr : Nat := 0x36001c
def cmpId : Nat := 0x380000
def cmpCommit : Nat := 0x380004
def cmpBg : Nat := 0x380008
def cmpEvt : Nat := 0x38000c
def cmpEvtEn : Nat := 0x380010
def cmpCntSel : Nat := 0x380014
def cmpCntLo : Nat := 0x380018
def cmpCntHi : Nat := 0x38001c
def cmpLutAddr : Nat := 0x380020
def cmpLutData : Nat := 0x380024
def cmpCoefAddr : Nat := 0x380028
def cmpCoefData : Nat := 0x38002c
def cmpHoldLimit : Nat := 0x380030
def cmpRetime : Nat := 0x380034
def cmpWbCtrl : Nat := 0x380040
def cmpWbBaseLo : Nat := 0x380044
def cmpWbBaseHi : Nat := 0x380048
def cmpWbStride : Nat := 0x38004c
def cmpWbPitch : Nat := 0x380050
def cmpWbStatus : Nat := 0x380054
def cmpWbFrameLo : Nat := 0x380058
def cmpWbFrameHi : Nat := 0x38005c
def cmpWbDrop : Nat := 0x380060
def cmpCntClr : Nat := 0x380064
def cmpLayerCtrl (l : LayerIx) : Nat := 0x381000 + 0x80 * l.val
def cmpLayerSrcXy (l : LayerIx) : Nat := 0x381004 + 0x80 * l.val
def cmpLayerSrcWh (l : LayerIx) : Nat := 0x381008 + 0x80 * l.val
def cmpLayerDstXy (l : LayerIx) : Nat := 0x38100c + 0x80 * l.val
def cmpLayerDstWh (l : LayerIx) : Nat := 0x381010 + 0x80 * l.val
def cmpLayerBaseLo (l : LayerIx) : Nat := 0x381014 + 0x80 * l.val
def cmpLayerBaseHi (l : LayerIx) : Nat := 0x381018 + 0x80 * l.val
def cmpLayerPitch (l : LayerIx) : Nat := 0x38101c + 0x80 * l.val
def cmpLayerAlpha (l : LayerIx) : Nat := 0x381020 + 0x80 * l.val
def cmpLayerFill (l : LayerIx) : Nat := 0x381024 + 0x80 * l.val
def cmpLayerSource (l : LayerIx) : Nat := 0x381028 + 0x80 * l.val
def cmpLayerCsc0 (l : LayerIx) : Nat := 0x38102c + 0x80 * l.val
def cmpLayerCsc1 (l : LayerIx) : Nat := 0x381030 + 0x80 * l.val
def cmpLayerCsc2 (l : LayerIx) : Nat := 0x381034 + 0x80 * l.val
def cmpLayerCsc3 (l : LayerIx) : Nat := 0x381038 + 0x80 * l.val
def cmpLayerCsc4 (l : LayerIx) : Nat := 0x38103c + 0x80 * l.val
def cmpLayerOff (l : LayerIx) (i : Nat) : Nat := 0x381040 + 0x80 * l.val + 4 * i
def cmpLayerRt (l : LayerIx) : Nat := 0x38104c + 0x80 * l.val
def scnId : Nat := 0x3a0000
def scnStatus : Nat := 0x3a0004
def scnCtrl : Nat := 0x3a0008
def scnLine : Nat := 0x3a000c
def scnTeCtrl : Nat := 0x3a0010
def scnEvt : Nat := 0x3a0014
def scnEvtEn : Nat := 0x3a0018
def scnRepeatCnt : Nat := 0x3a001c
def scnRetrainCnt : Nat := 0x3a0020
def scnLineCrc : Nat := 0x3a0024
def scnCntClr : Nat := 0x3a0028
def scnIfCtrl : Nat := 0x3a0030
def scnIfData (i : Nat) : Nat := 0x3a0040 + 4 * i
def tslId : Nat := 0x440000
def tslStatus : Nat := 0x440004
def tslEvt : Nat := 0x440008
def tslEvtEn : Nat := 0x44000c
def tslOvfCnt : Nat := 0x440010
def tslUnderCnt : Nat := 0x440014
def tslMapErrCnt : Nat := 0x440018
def tslPoisonCnt : Nat := 0x44001c
def tslSel : Nat := 0x440020
def tslValue : Nat := 0x440024
def tslFlags : Nat := 0x440028
def tslLastUnit : Nat := 0x44002c
def tslLastStep : Nat := 0x440030
def tslWaiters : Nat := 0x440034
def tslWsel : Nat := 0x440038
def tslWaiterN : Nat := 0x44003c
def tslWaiterId : Nat := 0x440040
def tslDumpAddrLo : Nat := 0x440048
def tslDumpAddrHi : Nat := 0x44004c
def tslDumpLen : Nat := 0x440050
def tslDumpCtrl : Nat := 0x440054
def tslDumpBytes : Nat := 0x440058
def tslCntClr : Nat := 0x44005c
def detClassLo : Nat := 0x480000
def detClassHi : Nat := 0x480004
def detConfig : Nat := 0x480008
def detStatus : Nat := 0x48000c
def detGscLo : Nat := 0x480010
def detGscHi : Nat := 0x480014
def detTimingLo : Nat := 0x480018
def detTimingHi : Nat := 0x48001c
def detRecCtrl : Nat := 0x480020
def detRecBaseLo : Nat := 0x480024
def detRecBaseHi : Nat := 0x480028
def detRecSize : Nat := 0x48002c
def detRecWptr : Nat := 0x480030
def detRecRptr : Nat := 0x480034
def detRecDrop : Nat := 0x480038
def detCkptCtrl : Nat := 0x48003c
def detCkptLastLo : Nat := 0x480040
def detCkptLastHi : Nat := 0x480044
def detMismatch : Nat := 0x480048
def detEvt : Nat := 0x48004c
def detEvtEn : Nat := 0x480050
def detCntClr : Nat := 0x480054
def hstId : Nat := 0x100000
def hstLink : Nat := 0x100004
def hstQfree : Nat := 0x100008
def hstEvt : Nat := 0x10000c
def hstEvtEn : Nat := 0x100010
def hstEqLost : Nat := 0x100014
def hstDbDrop : Nat := 0x100018
def hstCntClr : Nat := 0x10001c
def hstDieEq (i : Nat) : Nat := 0x100020 + 4 * i
def hstHeadOwner (i : Nat) : Nat := 0x100040 + 4 * i
def hstQuota (i : Nat) : Nat := 0x100100 + 4 * i
def hstFnDb : Nat := 0x0
def hstFnId : Nat := 0x4
def hstFnStatus : Nat := 0x8
def hstFnQuota : Nat := 0xc
def hstFnAsqLo : Nat := 0x10
def hstFnAsqHi : Nat := 0x14
def hstFnAcqLo : Nat := 0x18
def hstFnAcqHi : Nat := 0x1c
def hstFnAqCtrl : Nat := 0x20
def hstFnDbDrop : Nat := 0x24
def hstFnCplLost : Nat := 0x28
def hstFnCntClr : Nat := 0x2c
def sfnId : Nat := 0x4c0000
def sfnState : Nat := 0x4c0004
def sfnEvt : Nat := 0x4c0008
def sfnEvtEn : Nat := 0x4c000c
def sfnTMean : Nat := 0x4c0010
def sfnTMax : Nat := 0x4c0014
def sfnHf : Nat := 0x4c0018
def sfnTFlash : Nat := 0x4c001c
def sfnCap : Nat := 0x4c0020
def sfnBright : Nat := 0x4c0024
def sfnEnv0 : Nat := 0x4c0028
def sfnEnv1 : Nat := 0x4c002c
def sfnEnv2 : Nat := 0x4c0030
def sfnEnv3 : Nat := 0x4c0034
def sfnWindow : Nat := 0x4c0038
def sfnRestartCnt : Nat := 0x4c003c
def sfnLastReject : Nat := 0x4c0040
def sfnLastM0 : Nat := 0x4c0044
def sfnLastM1 : Nat := 0x4c0048
def sfnGain : Nat := 0x4c004c
def sfnGuardCnt : Nat := 0x4c0050
def sfnVecGuardCnt : Nat := 0x4c0054
def sfnReadCrcCnt : Nat := 0x4c0058
def sfnUntrustedCnt : Nat := 0x4c005c
def sfnSealHoldCnt : Nat := 0x4c0060
def sfnGolden : Nat := 0x4c0064
def sfnGoldenFailCnt : Nat := 0x4c0068
def sfnMon : Nat := 0x4c006c
def sfnEchoCtrl : Nat := 0x4c0070
def sfnEchoMissCnt : Nat := 0x4c0074
def sfnEchoLostCnt : Nat := 0x4c0078
def sfnIgSel : Nat := 0x4c0080
def sfnIgCfg : Nat := 0x4c0084
def sfnIgLimit : Nat := 0x4c0088
def sfnIgStatus : Nat := 0x4c008c
def sfnIgSafe : Nat := 0x4c0090
def sfnIgTripCnt : Nat := 0x4c0094
def sfnInjCtrl : Nat := 0x4c0098
def sfnInjFail : Nat := 0x4c009c
def sfnCtrl : Nat := 0x4c00a0
def sfnCntClr : Nat := 0x4c00a4
def secId : Nat := 0x500000
def secBoot : Nat := 0x500004
def secRole : Nat := 0x500008
def secReqCtrl : Nat := 0x50000c
def secReqAddrLo : Nat := 0x500010
def secReqAddrHi : Nat := 0x500014
def secReqLen : Nat := 0x500018
def secNonce (i : Nat) : Nat := 0x500020 + 4 * i
def secFeatures : Nat := 0x500040
def secReset : Nat := 0x500044
def secEvt : Nat := 0x500048
def secEvtEn : Nat := 0x50004c
def secRoleDenyCnt : Nat := 0x500050
def secAuthFailCnt : Nat := 0x500054
def secCeBt : Nat := 0x500058
def secUeBt : Nat := 0x50005c
def secCeDram : Nat := 0x500060
def secUeDram : Nat := 0x500064
def secCeOther : Nat := 0x500068
def secUeOther : Nat := 0x50006c
def secEccLast : Nat := 0x500070
def secEccAddr : Nat := 0x500074
def secScrub : Nat := 0x500078
def secScrubPass : Nat := 0x50007c
def secDownMs : Nat := 0x500080
def secDownEvents : Nat := 0x500084
def secCntClr : Nat := 0x500088
def nvmId : Nat := 0x520000
def nvmCtrl : Nat := 0x520004
def nvmSeq : Nat := 0x520008
def nvmWear : Nat := 0x52000c
def nvmEvt : Nat := 0x520010
def nvmEvtEn : Nat := 0x520014
def nvmAuditHead : Nat := 0x520018
def nvmAuditSel : Nat := 0x52001c
def nvmAuditData (i : Nat) : Nat := 0x520020 + 4 * i
def nvmCeCnt : Nat := 0x520060
def nvmStoreCnt : Nat := 0x520064
def nvmCntClr : Nat := 0x520068
def clkId : Nat := 0x540000
def clkStatus : Nat := 0x540004
def clkLockCfg : Nat := 0x540008
def clkLockState : Nat := 0x54000c
def clkTrim : Nat := 0x540010
def clkPixDiv : Nat := 0x540014
def clkPtpCtrl : Nat := 0x540018
def clkPtpOffset : Nat := 0x54001c
def clkEvt : Nat := 0x540020
def clkEvtEn : Nat := 0x540024
def pwrId : Nat := 0x560000
def pwrCtrl : Nat := 0x560004
def pwrStatus : Nat := 0x560008
def pwrCap : Nat := 0x56000c
def pwrPower : Nat := 0x560010
def pwrPortEn : Nat := 0x560014
def pwrEvt : Nat := 0x560018
def pwrEvtEn : Nat := 0x56001c
def pwrThrottleMs : Nat := 0x560020
def pwrCntClr : Nat := 0x560024
def pwrTemp (i : Nat) : Nat := 0x560040 + 4 * i
def snsId : Nat := 0x580000
def snsGpioDir : Nat := 0x580004
def snsGpioOut : Nat := 0x580008
def snsGpioOd : Nat := 0x58000c
def snsGpioIn : Nat := 0x580010
def snsGpioWake : Nat := 0x580014
def snsEvt : Nat := 0x580018
def snsEvtEn : Nat := 0x58001c
def snsPwm (i : Nat) : Nat := 0x580020 + 4 * i
def snsTaskSel : Nat := 0x580040
def snsTaskData (i : Nat) : Nat := 0x580044 + 4 * i
def snsTaskStatus : Nat := 0x580054
def snsTaskResult (i : Nat) : Nat := 0x580058 + 4 * i
def snsXferErr : Nat := 0x580060
def snsTaskLate : Nat := 0x580064
def snsCntClr : Nat := 0x580068
def gdeLink (i : Nat) : Nat := 0x5a0000 + 4 * i
def gdeRetry (i : Nat) : Nat := 0x5a0010 + 4 * i
def gdeCntClr : Nat := 0x5a0020

end Reg

end Sys2Proof.Machine
end

