-- ==== Sys2Proof/Machine/RegReset.lean ====
section
/-! DEFINITION. Finding a register by its offset in a die window (Table 0.4), and its reset value (R8). -/

namespace Sys2Proof.Machine

/-- The row of a list that holds an offset of its block. -/
def findRow (rows : List Row) (off : Nat) : Option Row :=
  rows.find? fun r => decide (r.off ≤ off) && decide ((off - r.off) % r.stride = 0) &&
    decide ((off - r.off) / r.stride < r.count)

/-- The word that a list of fields has at reset. -/
def fieldsReset : List Field → Nat
  | [] => 0
  | f :: rest => f.reset * 2 ^ f.lo + fieldsReset rest

/-- Blocks of a die window at a fixed base: base, size and registers. -/
def fixedBlocks : List (Nat × Nat × List Row) := [
  (0x20_0000, 0x1000, rmsRows), (0x30_0000, 0x1000, mxeRows ++ mxeSideRows),
  (0x30_1000, 0x1000, mxeRows ++ mxeSideRows), (0x32_0000, 0x1000, jglRows), (0x34_0000, 0x1000, winRows),
  (0x36_0000, 0x1000, motRows), (0x38_0000, 0x1000, cmpRows), (0x3A_0000, 0x1000, scnRows),
  (0x40_0000, 0x1000, crsRows), (0x44_0000, 0x1000, tslRows), (0x48_0000, 0x1000, detRows),
  (0x4C_0000, 0x1000, sfnRows), (0x50_0000, 0x1000, secRows), (0x52_0000, 0x1000, nvmRows),
  (0x54_0000, 0x1000, clkRows), (0x56_0000, 0x1000, pwrRows), (0x58_0000, 0x1000, snsRows),
  (0x5A_0000, 0x1000, gdeRows)]

/-- The register at an offset of a die window, or none where every bit is Reserved (R9): the fixed blocks, a layer of
the Composer (0x381000 + 0x80 L, Table 9.11), or a Carousel (0x401000 + 0x40 n, Table 7.11). The HST_ registers of
die 0 are held apart, in `State.hostRegs`. -/
def dieRow (off : Nat) : Option Row :=
  if 0x38_1000 ≤ off ∧ off < 0x38_1800 then findRow cmpSubRows ((off - 0x38_1000) % 0x80)
  else if 0x40_1000 ≤ off ∧ off < 0x40_1C00 then findRow crsSubRows ((off - 0x40_1000) % 0x40)
  else match fixedBlocks.find? fun b => decide (b.1 ≤ off) && decide (off < b.1 + b.2.1) with
    | some (base, _, rows) => findRow rows (off - base)
    | none => none

/-- The reset values that depend on the instance: MXE_ID.ENGINE (Table 3.10), CMP_LAYER_CTRL.Z (Table 9.11) and
CRS_STATUS of the untrusted Carousels (Table 7.11). -/
def instanceReset (off : Nat) : Nat :=
  if off = 0x30_1000 then 1
  else if 0x38_1000 ≤ off ∧ off < 0x38_1800 ∧ (off - 0x38_1000) % 0x80 = 0 then 2 * ((off - 0x38_1000) / 0x80)
  else if 0x40_1000 + 0x40 * 12 ≤ off ∧ off < 0x40_1C00 ∧ (off - 0x40_1000) % 0x40 = 0 then 3
  else 0

/-- The reset value of the register at an offset of a die window (R8); 0 where no register lies. -/
def regReset (off : Nat) : Word :=
  match dieRow off with
  | some r => BitVec.ofNat 32 (fieldsReset r.fields + instanceReset off)
  | none => 0

/-- The reset value of an HST_ device register, by offset in its block (Table 12.14). -/
def hostReset (off : Nat) : Word :=
  if off = 0x100 then 0x4_0000
  else match findRow hstRows off with
    | some r => BitVec.ofNat 32 (fieldsReset r.fields)
    | none => 0

/-- The reset value of a register of a function page (Table 12.15). -/
def fnReset (off : Nat) : Word :=
  match findRow hstFnRows off with
  | some r => BitVec.ofNat 32 (fieldsReset r.fields)
  | none => 0

end Sys2Proof.Machine
end

