-- ==== Sys2Proof/Machine/SMap.lean ====
section
/-! DEFINITION. Sparse storage as plain data: a list of (key, value) pairs with keys strictly rising, in which no
entry equals what an unlisted key reads as. Memories, register files, tensors and Turnstile objects are held so,
so that equal contents are equal lists. -/

namespace Sys2Proof.Machine

/-- Entries of a sparse store. -/
abbrev SMap (α : Type) := List (Nat × α)

/-- The listed value of a key, if there is one. -/
def sLookup {α : Type} : SMap α → Nat → Option α
  | [], _ => none
  | (k, v) :: rest, key => if k = key then some v else sLookup rest key

/-- What a key reads as, where `dflt` says what an unlisted key reads as. -/
def sGet {α : Type} (dflt : Nat → α) (m : SMap α) (key : Nat) : α := (sLookup m key).getD (dflt key)

/-- The store without a key. -/
def sErase {α : Type} : SMap α → Nat → SMap α
  | [], _ => []
  | (k, v) :: rest, key => if k = key then sErase rest key else (k, v) :: sErase rest key

/-- The store with an entry at a key, in key order. -/
def sInsert {α : Type} : SMap α → Nat → α → SMap α
  | [], key, x => [(key, x)]
  | (k, v) :: rest, key, x =>
    if key < k then (key, x) :: (k, v) :: rest
    else if k = key then (key, x) :: rest
    else (k, v) :: sInsert rest key x

/-- A write: writing what an unlisted key reads as removes the entry. -/
def sSet {α : Type} [DecidableEq α] (dflt : Nat → α) (m : SMap α) (key : Nat) (x : α) : SMap α :=
  if x = dflt key then sErase m key else sInsert m key x

/-- Every key of a list is above a bound. -/
def sAbove {α : Type} (bound : Nat) : SMap α → Bool
  | [] => true
  | (k, _) :: rest => decide (bound < k) && sAbove bound rest

/-- The canonical form: keys strictly rising, and no entry equal to what an unlisted key reads as. -/
def sWf {α : Type} [DecidableEq α] (dflt : Nat → α) : SMap α → Bool
  | [] => true
  | (k, v) :: rest => decide (v ≠ dflt k) && sAbove k rest && sWf dflt rest

/-- Writes of consecutive values from a key upwards. -/
def sSetRange {α : Type} [DecidableEq α] (dflt : Nat → α) (m : SMap α) (key : Nat) : List α → SMap α
  | [] => m
  | x :: rest => sSetRange dflt (sSet dflt m key x) (key + 1) rest

/-- The values of consecutive keys. -/
def sGetRange {α : Type} (dflt : Nat → α) (m : SMap α) (key : Nat) : Nat → List α
  | 0 => []
  | n + 1 => sGet dflt m key :: sGetRange dflt m (key + 1) n

/-- What a byte of Big Top, of DRAM or of host memory that nothing has written reads as. Big Top is zeroed at
boot (R380, R388). DESIGN CHOICE for DRAM and host memory, entry 2. -/
def zeroByte : Nat → Byte := fun _ => 0

end Sys2Proof.Machine
end

