-- ==== Sys2Proof/Machine/State.lean ====
section
/-! DEFINITION. The state of the part as plain data: every register, FIFO, buffer, counter, mode and pin that the
spec gives it, the work in progress, and the queue of waiting commands. -/

namespace Sys2Proof.Machine

/-- Why a command stops the model. The manual leaves no result unspecified (R4), and a command that its rules turn
away completes with a status or without effect, so no meaning raises a fault: this constructor is raised by
nobody, and claims about faults hold vacuously (safe). -/
inductive Fault where
  | unspecified
deriving DecidableEq, Repr

/-- Why the model has no meaning for a command. `notModelled`: an arm of exec without a meaning yet (safe). -/
inductive Refusal where
  | notModelled (mnemonic : String)
deriving DecidableEq, Repr

/-- The status codes of Table 12.13, in the order of their values. -/
inductive Status where
  | ok | late | checkerReject | scaleSkew | accSlots | filterSize | creditStall | poisoned | aborted
  | funcDisabled | detMismatch | auth | opFormat | placement | rasterTiming | codec | layerConfig | badDesc
  | hostRange | noResource | notOwner | inUse | role
deriving DecidableEq, Repr

/-- Operating points (Table 1.5). -/
inductive OpPoint where
  | op0 | op1 | op2 | op3
deriving DecidableEq, Repr

/-- The causes of Table 2.2, and the separate count of degraded halos, coded as CMP_CNT_SEL.CAUSE (R257). -/
inductive Cause where
  | neural | late | reject | fault | forced | source | degraded
deriving DecidableEq, Repr

/-! ### Turnstiles -/

/-- A waiter record of an object (R264, Table 10.9). -/
structure Waiter where
  req : TslReq
deriving DecidableEq, Repr

/-- A Turnstile object (R259). VALUE is kept as a Nat of at most 2^31 − 1. -/
structure TslObj where
  value : Nat
  ovf : Bool
  poison : Bool
  last : Option TslReq         -- the last signaller; `step` holds what R282 records
  waiters : List Waiter
  retry : List Waiter          -- host queue heads that found no waiter record (R264)
  ctx : Nat                    -- owning context
  virt : Option (BitVec 12)
  bank : Option (Fin 8)
deriving DecidableEq, Repr

/-- A translation entry (Table 10.5) that is VALID. -/
structure TslEntry where
  base : Nat
  banked : Bool
  imported : Bool
deriving DecidableEq, Repr

/-- Who owns a context (R269). -/
inductive CtxOwner where
  | firmware
  | bundle (cv : CanvasId)
  | func (f : FnIx)
deriving DecidableEq, Repr

/-- A context on a die: its owner and its translation table. -/
structure TslCtx where
  owner : CtxOwner
  table : List (BitVec 12 × TslEntry)
deriving DecidableEq, Repr

/-- The capture that a write of TSL_SEL takes (R282), where one has been taken since reset. -/
structure TslCapture where
  obj : Option TslObj
deriving DecidableEq, Repr

/-- A Turnstile dump in progress (R283): the dies dumped, what is written, and how it ends. -/
structure TslDump where
  dies : List DieIx
  freeze : Bool
  addr : Nat
  bytes : List Byte
  status : Status
deriving DecidableEq, Repr

/-- A barrier (R280, R281) of an op of a canvas: its expected counts and objects per die, and its generation. -/
structure Barrier where
  id : Nat
  owner : CanvasId
  op : Nat
  expected : Vector Nat 8
  arr : Vector Nat 8
  rel : Vector Nat 8
  generation : Nat
  combining : List DieIx       -- nodes complete, whose combining delay runs
deriving DecidableEq, Repr

/-- The Turnstile memory of a die. -/
structure Tsl where
  objs : List (Nat × TslObj)           -- allocated objects by physical number, rising
  ctxs : List (Nat × TslCtx)           -- contexts in existence by number, rising
  capture : TslCapture
  dump : Option TslDump
  frozen : Bool                        -- operations of contexts other than 0 are held by a dump (R283)
  held : List (Nat × List TslReq)      -- held operations by physical number, oldest first
deriving DecidableEq, Repr

/-! ### Carousels -/

/-- An address generator (R167). `image`: its base is an offset into the admitted bundle, which every die keeps in
DRAM (R438). -/
structure AddrGen where
  space : Fin 8
  image : Bool
  die : DieIx
  base : Dword
  stride : Vector (BitVec 64) 4
  ring : Dword
deriving DecidableEq, Repr

/-- A count generator (R167). -/
structure CountGen where
  base : Dword
  step : Vector Dword 4
deriving DecidableEq, Repr

/-- What a running stream waits for (Table 7.11, STATE). -/
inductive StreamState where
  | idle | running | waitTsl | waitCredit
deriving DecidableEq, Repr

/-- A transfer in progress (R170): the source bytes already formed for the destination, and where they go. `source`: whether its first
source byte lies in DRAM, and its address, where it reads a memory of the die; `feeds`: its bytes are delivered to the op that its
stream serves. -/
structure Transfer where
  space : Fin 8
  die : DieIx
  writes : List (Nat × Byte)
  source : Option (Bool × Nat)
  feeds : Bool
  uncoded : Nat
  coded : Nat
deriving DecidableEq, Repr

/-- A window of a stream (R166): in the space of peer Big Tops, of the peer `die`. -/
structure SWindow where
  space : Fin 8
  die : DieIx
  lo : Nat
  hi : Nat
deriving DecidableEq, Repr

/-- A stream: identity of its run, program and the state of R167. -/
structure Stream where
  state : StreamState
  canvas : Option CanvasId
  prog : BitVec 16
  op : Option Nat                 -- the op whose weight-side stream this is
  program : List Dword
  pc : Nat
  gens : Vector AddrGen 4
  counts : Vector CountGen 2
  idx : Vector Nat 4
  loops : List (Fin 4 × Nat × Nat)     -- open levels, innermost first: level, start, passes
  limit : Vector Nat 4
  moves : List Transfer
  fencing : Option (Bool × DieIx × BitVec 12 × Nat)
  windows : List SWindow
  pool : BitVec 16
  stepSeq : Nat
  ended : Option Status
deriving DecidableEq, Repr

/-- A member of a credit pool: the stream of one program of the instance (R172, R195), and the place of its latest run. -/
structure Member where
  prog : BitVec 16
  stream : Option StreamId
  floor : Nat
  held : Nat
deriving DecidableEq, Repr

/-- A waiting credit request, in order of arrival. -/
structure CreditReq where
  stream : StreamId
  prog : BitVec 16
  units : Nat
deriving DecidableEq, Repr

/-- A credit pool (R172, R195). -/
structure Pool where
  canvas : Option CanvasId
  index : Nat                    -- bundle-relative number
  unitBytes : Nat
  capacity : Nat
  members : List Member
  waiting : List CreditReq
  stalled : Bool                 -- the watchdog fired: held returns to 0 at the next release (R175)
deriving DecidableEq, Repr

/-! ### Matrix Engines -/

/-- A weight-side block that passed its check and was loaded (R103). -/
structure Loaded where
  it : ItemId
  t : Nat
  b : Nat
  blocks : List WBlock
deriving DecidableEq, Repr

/-- Where a weight-side stream has put the bytes that it has delivered to its op in a stripe step, in order of delivery, as runs of
addresses of Big Top (R98, R103), and whether its program has ended (R105). -/
structure Feed where
  die : DieIx
  prog : BitVec 16
  op : Nat
  stepSeq : Nat
  runs : List (Nat × Nat)
  ended : Bool
deriving DecidableEq, Repr

/-- An accumulator slot: the tile it holds, the next K-block it folds, and its entries, as raw 32-bit words, by pixel
and column of the outputs that are not masked (R116, R120, R142). -/
structure Slot where
  it : ItemId
  tile : TileId
  next : Nat
  entries : List Word
deriving DecidableEq, Repr

/-- What the model keeps of a Matrix Engine beyond its registers: the two weight tiles of the array, latest first, the
codebooks and initial values in use, the 16 slots, the partial tiles in the spill areas (R137, R143), the finished tiles in the
converter's staging buffer, and the item that stands inside a level-0 block (R142). -/
structure Engine where
  loaded : List Loaded
  books : List Loaded             -- by span: b holds the span's number
  inits : List Loaded
  slots : List (Fin 16 × Slot)
  spill : List Slot
  golden : Option Slot            -- the tile of slot 15 spilled for the golden stripe (R143)
  staged : List Slot
  inBlock : Option ItemId
deriving DecidableEq, Repr

/-! ### Pictures, sources and heads -/

/-- A picture: its format (Table 0.8), size and raw samples by component, row and column. -/
structure Picture where
  pixfmt : Fin 14
  w : Nat
  h : Nat
  comps : List (List (List (BitVec 16)))
deriving DecidableEq, Repr

/-- A captured line with the tag of R361. -/
structure SrcLine where
  bytes : List Byte
  crc : Word
  counter : Word
  ts : Nat
deriving DecidableEq, Repr

/-- A source frame in the frame store (R57, R245). -/
structure SrcFrame where
  index : Nat                 -- number since the source started, counted over captured frames
  counter : Dword
  ts : Nat
  lastAt : Nat                -- device time at which the latest of its lines reached the port (R56)
  smoothed : Int
  lines : List (Nat × SrcLine)
  form : VideoForm
  bad : Bool                  -- a guard failed: taken as incomplete (R361)
  repeated : Bool             -- flagged as a repeat (R248)
deriving DecidableEq, Repr

/-- Cadence patterns (R248). -/
inductive Cadence where
  | none | threeTwo | twoTwo
deriving DecidableEq, Repr

/-- A source of a die: its form, the frame being captured, the frame store and the measurements of R245 to
R248. -/
structure Source where
  port : Fin 3
  stream : BitVec 6
  host : Option (CanvasId × Nat)      -- the host source entry this store serves, or none for a port
  form : VideoForm
  capturing : Option SrcFrame
  frames : List SrcFrame              -- at most 6 complete frames, oldest first
  nextIndex : Nat
  stamps : List (Nat × Bool)          -- timestamp and repeat flag of the frames captured since the start or the latest
                                      -- rate change, latest first, at most 24
  recorded : Nat                      -- frames since the recorder was enabled (R299)
  meanPeriod : Nat                    -- P̄
  cadence : Cadence
  oldLast : Option Nat                -- last complete frame of the old rate, by index, while a new one is measured (R68)
  newRateFrames : Option Nat          -- complete frames measured since a rate change (R68)
deriving DecidableEq, Repr

/-- The output mode of a head (R36). -/
structure Mode where
  w : Nat
  h : Nat
  vtotal : Nat
  htotal : Nat
  rate : Nat                  -- mHz
deriving DecidableEq, Repr

/-- The state of a layer's source and retiming on a head (CMP_LAYER_RT, R66 to R69, R228). -/
structure LayerRt where
  held : Bool
  fill : Bool
  holdFrom : Option Nat               -- device time at which the hold began
  fillNext : Option Bool              -- a fill that begins or ends at the next frame boundary
  phase : BitVec 6
  withheld : Bool                     -- content withheld under R244
  shown : Option Nat                  -- source frame j of the output frame, by index
  next : Option Nat                   -- source frame j + 1 (R246)
  heldAt : Option Nat                 -- the complete frame that a hold repeats, by index (R66, R68)
  blocked : Bool                      -- R66, R68, R245 or a fill holds it from the latest frame boundary on
  nearest : Bool                      -- the temporal stage takes the nearest frame (R29)
  holdNext : Option Nat               -- held under R66 until a frame from this index on is complete
  lateFrom : Option Nat               -- stripe from which the last complete frame is read instead (R66)
deriving DecidableEq, Repr

/-- A commit of a head (R238 to R241). -/
structure Commit where
  pending : Bool
  goAt : Nat                          -- device time of the GO write
  span : Bool
  status : Byte
  seq : BitVec 16
deriving DecidableEq, Repr

/-- Command mode (R251, R252). -/
structure TeState where
  waiting : Bool
  earlyEdge : Bool
  repeatFrame : Bool                  -- this frame repeats a write-back buffer
  good : Option Nat                   -- the latest write-back buffer both transmitted and complete
  edgeAt : Nat                        -- device time of the previous frame's edge
  cut : Bool                          -- a line of this frame was not transmitted (R256)
deriving DecidableEq, Repr

/-- Write-back of a head (R242, R243). -/
structure WriteBack where
  writing : Option Nat                -- buffer being written in this frame
  skip : Nat                          -- frames left before the next written frame
  incomplete : Bool
  step : Dword
deriving DecidableEq, Repr

/-- Receiver echo of a head (R363). -/
structure EchoState where
  digests : List Word                 -- digests of the last 8 frames, latest first
  lineCrcs : List Word                -- SCN_LINE_CRC values of the current frame, latest first
  lastSeq : Option (BitVec 16)
  sinceNew : Nat                      -- frame periods since a new sequence number
  bad : Nat
  good : Nat
  failing : Bool
deriving DecidableEq, Repr

/-- A composed line before the limiter: R, G, B of each pixel, and what write-back takes of it (R242, R244). -/
structure Fetched where
  line : Nat
  out : List (BitVec 16)
  wb : List (BitVec 16)
deriving DecidableEq, Repr

/-- A head. -/
structure Head where
  mode : Option Mode
  running : Bool                      -- runs a raster (R367)
  line : Nat
  vtotalNow : Nat                     -- vertical total of this frame (R63)
  frameStep : Dword
  linkUp : Bool
  trained : Bool                      -- has trained once
  hdcp : Option (Fin 2)               -- content type authenticated for (R244)
  commit : Commit
  te : TeState
  wb : WriteBack
  layers : Vector LayerRt 16
  gain : BitVec 16                    -- APL gain in force (R359)
  lumaSum : Nat
  lumaCount : Nat
  echo : EchoState
  fetched : List Fetched              -- composed lines that wait to be scanned (R41)
  opForced : Bool                     -- composes from fall-back alone for a change of operating point (R33)
  downSince : Option Nat              -- an interval counted in SEC_DOWN_MS (R382)
  lineZero : Nat                      -- S(k) of a head that carries no canvas, fixed at its frame boundary (R246)
deriving DecidableEq, Repr

/-! ### Safety Net -/

/-- SFN_STATE.STATE (R348). -/
inductive SfnPhase where
  | init | armed | safe
deriving DecidableEq, Repr

/-- Who holds FAULT_N low (R347). -/
inductive FaultCause where
  | safe | injection | rasterStall | heartbeat | echo
deriving DecidableEq, Repr

/-- The steps of a neural-domain restart (Table 13.5). -/
inductive RestartPhase where
  | gated | powered | restaged | injected
deriving DecidableEq, Repr

/-- A restart in progress: when it was triggered and how far it is. -/
structure Restart where
  at_ : Nat
  phase : RestartPhase
deriving DecidableEq, Repr

/-- A current-guard channel (R360, Table 13.10 0x084 to 0x08C). -/
structure IgChannel where
  cfg : Word
  limit : Word
  last : BitVec 16
  exceeded : Bool                -- the latest sample exceeded I_LIMIT
  tripped : Bool
  timeout : Bool
deriving DecidableEq, Repr

/-- Comparator history of one layer and stripe part (R350): means per 64-column cell. -/
structure History where
  part : PartId
  shown : List Nat
  fallback : List Nat
deriving DecidableEq, Repr

/-- The Safety Net of a die. -/
structure Sfn where
  phase : SfnPhase
  safeAt : Nat                   -- device time at which SAFE was entered (R380)
  restart : Option Restart
  latchedOff : Bool
  faults : List FaultCause
  injBusy : Bool
  frameBad : Bool                -- a reject or an untrusted-domain fault in the current frame
  window : List Bool             -- last 64 frames, latest first
  restarts : List Nat            -- device times of recent restarts, latest first
  goldenStarted : Bool
  goldenVariant : Fin 4
  goldenEngine : EngIx
  goldenDefer : Nat
  history : List History
  thresholds : List (Nat × Word) -- accepted writes that await the frame boundary, by `thresholdKey`
deriving DecidableEq, Repr

/-! ### Boot, power and links of a die -/

/-- SEC_BOOT.STATE (Table 14.11). -/
inductive BootPhase where
  | rom | waitHost | verifying | running | refused
deriving DecidableEq, Repr

/-- The last committed Composer and scan-out state of a head, which die 0 applies again after a die reset (R380). -/
structure Kept where
  force : SMap Word
  lut : SMap Word
  coef : SMap Word
  mode : Option Mode
  seq : BitVec 16
deriving DecidableEq, Repr

/-- How far a die has come out of reset (R379, R380, R388). -/
structure DieBoot where
  alone : Bool                   -- comes out of a die reset or of standby, while the part runs
  kept : Option Kept
  inReset : Bool                 -- held in reset
  pllLocked : Bool
  released : Bool                -- dividers released
  phase : BootPhase
  trained : Bool                 -- DDR5 trained
  resetAt : Nat
deriving DecidableEq, Repr

/-- A Gaide link (R21, R375). -/
structure GaideLink where
  up : Bool
  failed : Bool
  run : Nat                      -- consecutive retries of one flit
deriving DecidableEq, Repr

/-- Throttling and thermal state of a die (R411 to R414). -/
structure Thermal where
  level : Fin 5
  coolMs : Nat                   -- consecutive readings that satisfy the fall condition
  hotMs : Nat                    -- consecutive readings at level 4
  critical : Bool                -- the previous reading was at the critical temperature
  powers : List (BitVec 16)      -- package power of the last 10 readings
deriving DecidableEq, Repr

/-- A background task's debt (R376). -/
structure Debt where
  done : Nat                     -- units of work done since reset
  repaid : Nat                   -- units that repaid debt
  atLimit : Bool
deriving DecidableEq, Repr

/-- A record before it takes its SEQ: type, FLAGS, CANVAS, PORT and payload (Tables 11.3 and 11.4). -/
structure Rec where
  type : Nat
  flags : Nat
  canvas : Nat
  port : Nat
  payload : List Byte
deriving DecidableEq, Repr

/-- The Input Recorder of a die (R296 to R300). -/
structure Recorder where
  seq : Dword
  used : Nat                     -- bytes of unread records
  lost : Nat                     -- records lost since the last GAP record
  firstLost : Dword
  full : Bool
  batch : Option (List (Nat × Rec))   -- records of events of the cycle under way, each with its tick (R300)
deriving DecidableEq, Repr

/-- A die: its registers by offset in its window, the values in force of shadowed registers, its memories and its
units. -/
structure Die where
  regs : SMap Word               -- unlisted: the reset value of Tables 3.10 to 15.14
  latch : SMap Word              -- latched high words (R90), by the offset of the _HI register
  force : SMap Word              -- shadowed CMP_ and SCN_ registers, value in force; unlisted: the reset value
  lut : SMap Word                -- encode table, shadow
  lutForce : SMap Word
  coef : SMap Word               -- coefficients, shadow, by set × 512 + phase × 8 + tap
  coefForce : SMap Word
  choices : SMap Dword           -- choice counters of R50, by layer × 8 + cause
  bigTop : SMap Byte
  bigTopPoison : List Nat        -- poisoned 64-byte words
  dram : SMap Byte
  dramPoison : List Nat          -- poisoned 128-byte access units
  dramAlloc : List (Nat × Nat × FnIx)   -- allocations: address, length, function
  engines : Vector Engine 2
  tsl : Tsl
  streams : List (StreamId × Stream)     -- running streams
  pools : List (Nat × Pool)
  inflight : List ItemId         -- items in flight (R177), in order of entry
  head : Head
  sources : List Source
  sfn : Sfn
  boot : DieBoot
  links : Vector GaideLink 4
  thermal : Thermal
  scrub : Vector Debt 64
  patrol : Vector Debt 2
  ceRecent : List (Nat × Nat)    -- corrected errors of the last second: unit, device time
  calDone : Vector Nat 2         -- device time of the latest calibration of each channel
  recorder : Recorder
  poolUsedKib : Nat              -- bundle pool in use
deriving DecidableEq, Repr

/-! ### Host side -/

/-- Queue kinds (R318). -/
inductive QKind where
  | sq | cq | eq
deriving DecidableEq, Repr

/-- Queue states (Table 12.3). A FREE queue is not listed. -/
inductive QState where
  | idle | run | wait | hold | error | disabled
deriving DecidableEq, Repr

/-- What a completed descriptor reports (Tables 12.6 and 12.7): its status, its kind 0, 1 or 2, and bytes 24 to 34. -/
structure Completion where
  status : Status
  kind : Fin 3
  detail : List Byte
deriving DecidableEq, Repr

/-- What an SQ's descriptor in progress still waits for. -/
inductive Await where
  | turnstile (die : DieIx)
  | fence (die : DieIx) (virt : BitVec 12) (sub : Bool) (v : Nat)
  | boundary (cv : CanvasId)
  | save (cv : CanvasId)
  | release (cv : CanvasId)
  | transfer
deriving DecidableEq, Repr

/-- The descriptor in progress at the head of an SQ (R323). -/
structure Current where
  tag : Dword
  quiet : Bool
  await : Option Await
  done : Option Completion
deriving DecidableEq, Repr

/-- A created queue (R318, R327, R334). -/
structure Queue where
  id : Nat
  kind : QKind
  state : QState
  log2 : Nat
  base : Dword
  head : Nat
  tail : Nat
  phase : Bool                   -- PHASE of the next record
  home : DieIx
  cq : Nat
  vector : Option Nat
  count : Nat
  timer : Nat
  posted : Nat                   -- records since the vector last fired
  firstPost : Option Nat         -- device time of the first record since then
  seq : Word                     -- SEQ of the next event record
  lost : Nat                     -- event records lost since the last OVERFLOW
  lostFlag : Bool                -- the next record of the CQ has LOST set
  cur : Option Current
deriving DecidableEq, Repr

/-- An admitted bundle: its handle and its image, of which every die keeps a copy (R335). -/
structure Admitted where
  handle : Nat
  image : List Byte
deriving DecidableEq, Repr

/-- A vector of the MSI-X table as far as rules of the manual act on it (R334). -/
structure Msix where
  addr : Dword
  data : Word
  masked : Bool
  pendingBit : Bool
deriving DecidableEq, Repr

/-- A PCIe function (R314). -/
structure Fn where
  regs : SMap Word               -- function page (Table 12.15); unlisted: reset value
  ready : Bool
  disabled : Bool
  aqErr : Bool
  windows : Vector (Option (Dword × Dword)) 16
  queues : List Queue
  bundles : List Admitted
  msix : List (Nat × Msix)       -- listed vectors; unlisted: address 0, masked
  messages : List (Nat)          -- vectors whose message was sent, latest first
  vfEnabled : Bool               -- enabled in the SR-IOV capability
deriving DecidableEq, Repr

/-! ### Canvases -/

/-- A source entry of a binding (Table 12.10). -/
structure SourceEntry where
  tensor : Nat
  port : Nat
  die : Nat
  stream : Nat
  lockedBy : Nat
  width : Nat
  height : Nat
  pixfmt : Nat
  plane : Nat
deriving DecidableEq, Repr

/-- A layer entry of a binding. -/
structure LayerEntry where
  layer : Nat
  pixfmt : Nat
  op : Nat
  source : Nat
deriving DecidableEq, Repr

/-- An import entry of a binding. -/
structure ImportEntry where
  bundleVirt : Nat
  funcVirt : Nat
  die : Nat
deriving DecidableEq, Repr

/-- A tap of a binding (R307). -/
structure TapEntry where
  op : Nat
  step : Dword
  addr : Dword
  length : Nat
deriving DecidableEq, Repr

/-- A binding block (Table 12.10) as read. -/
structure Binding where
  bundle : Nat
  flags : Byte
  h : Nat
  head0 : Nat
  cols : Nat
  rows : Nat
  lock : Nat
  w : Nat
  a : Nat
  vtotal : Nat
  htotal : Nat
  rate : Nat
  rq : Nat
  coef : Nat
  fs : Nat
  btCap : Nat
  dram : Nat
  cq : Nat
  eq : Nat
  frec : Nat
  srcJ : Nat
  srcJ1 : Nat
  first : Dword
  last : Dword
  ckpt : Dword
  sources : List SourceEntry
  layers : List LayerEntry
  imports : List ImportEntry
  taps : List TapEntry
deriving DecidableEq, Repr

/-- Lock states (Table 2.6). -/
inductive LockState where
  | free | acquire | locked | holdover
deriving DecidableEq, Repr

/-- The lock of a canvas (R59 to R63). -/
structure Lock where
  state : LockState
  trim : Int                     -- 0.01 ppm
  phaseErr : Int                 -- pixel clocks
  good : Nat                     -- consecutive frames within 16 pixel clocks
  bad : Nat                      -- consecutive frames beyond 64
  edges : Nat                    -- good edges since HOLDOVER
  target : Option Int            -- place of the raster at a reference edge that stands for no error, in pixel clocks from line A;
                                 -- none: that of CLK_LOCK_CFG.OFFSET
  retarget : Bool                -- the next reference edge sets the target: the raster was placed for line mode (R56)
  lastRef : Nat                  -- device time of the latest reference edge, at first of the binding
deriving DecidableEq, Repr

/-- A stripe part of one frame (R40, R44). -/
structure PartSt where
  id : PartId
  frame : Nat
  computeDie : DieIx
  stepSeq : Nat
  released : Bool
  complete : Bool
  failed : Option Status
  abandoned : Bool
  fallbackStarted : Bool
  fallbackDone : Bool
  verdict : Option Bool
  degraded : Bool
  choice : Option Cause
  read : Bool                    -- the Composer has read its last row (R46, R352)
  carried : Option Bool          -- the transfer of its rows to the head's die: under way (false) or made (true) (R40, R45)
deriving DecidableEq, Repr

/-- A work item of a canvas (R177). -/
structure Item where
  id : ItemId
  frame : Nat
  stripe : Nat
  retired : Bool
  ended : Option Status
  rowsDone : Nat                 -- rows signalled (R153)
  tiles : List TileId            -- tiles converted
  nodes : List Nat               -- nodes of the split-K tree combined (R83)
  pos : Nat                      -- tiles folded so far, in the order of the op's loop nests (R103, R137)
deriving DecidableEq, Repr

/-- A tensor's contents: sizes as declared or derived (R436), and elements by linear index, unlisted 0. -/
structure TensorBuf where
  nb : Nat
  h : Nat
  w : Nat
  c : Nat
  fmt : Fin 8
  elems : SMap Word
deriving DecidableEq, Repr

/-- Rows and columns of a tensor whose producer was abandoned: their readers take the fall-back halo (R54, R157). -/
structure Hole where
  tensor : Nat
  frame : Nat
  y0 : Nat
  y1 : Nat
  x0 : Nat
  x1 : Nat
deriving DecidableEq, Repr

/-- A run of a Carousel program that a release asks for (R177). -/
structure Run where
  die : DieIx
  prog : BitVec 16
  op : Option Nat
  stepSeq : Nat
deriving DecidableEq, Repr

/-- What a saved context holds of one die (R278, R308): the objects of each entry by bank, its streams, its credit pools, and what
its items left in the engines. -/
structure SavedDie where
  die : DieIx
  entries : List (BitVec 12 × Bool × List TslObj)
  streams : List (StreamId × Stream)
  pools : List (Nat × Pool)
  engines : Vector Engine 2
deriving DecidableEq, Repr

/-- A saved context: the buffer's address, its items, and each die's share; or one discarded by the pause. -/
structure Saved where
  addr : Dword
  items : List Item
  dies : List SavedDie
  discarded : Bool
deriving DecidableEq, Repr

/-- A request to pause: its queue, its save buffer, and whether it discards. -/
structure PauseReq where
  queue : FnIx × Nat
  addr : Dword
  discard : Bool
deriving DecidableEq, Repr

/-- Where a canvas is in a pause (R278, R279, R310). -/
inductive PauseState where
  | running
  | saving (queue : FnIx × Nat) (addr : Dword) (ends : List ItemId)   -- `ends`: items that units bring to their end first (R308)
  | saved (s : Saved)
  | resuming (next : Option PauseReq)      -- a pause that waits for the resume to complete (R311)
deriving DecidableEq, Repr

/-- What a Replay canvas takes from the STEP record of a frame (R304, R305). -/
structure ReplayFrame where
  step : Dword
  counters : Word × Word         -- source frame counters of j and j + 1
  phase : BitVec 6
  flags : Word                   -- of the frame record (R247)
  choices : List (PartId × Cause)
  abandoned : List PartId
  reset : Bool
  commits : List DieIx           -- heads whose commit the live run latched at this frame
deriving DecidableEq, Repr

/-- A frame's retiming result (R246, R247). -/
structure Retiming where
  j : Option Nat              -- source frame j by index; none where no frame is shown
  next : Option Nat           -- frame j + 1
  phase : BitVec 6
  snapped : Bool
  late : Bool                 -- no phase is defined: the layer is held
deriving DecidableEq, Repr

/-- A source entry of a placed line-mode canvas (R56, R67): the output lines from its first row's arrival to line 0 of the raster,
and its consecutive frames out by more than h lines. -/
structure SourcePhase where
  entry : Nat
  lead : Nat
  out : Nat
deriving DecidableEq, Repr

/-- The fall-back picture of one layer on one head for one frame: the rows that the Resampler has written (R49). -/
structure FallPic where
  head : DieIx
  layer : LayerIx
  frame : Nat
  pic : Picture
deriving DecidableEq, Repr

/-- A bound canvas (R35, R336). -/
structure Canvas where
  id : CanvasId
  binding : Binding
  image : List Byte              -- the bundle
  ctx : Nat                      -- context number on every die of the instance
  dies : List DieIx              -- dies of the instance
  pool : List (DieIx × Nat × Nat)   -- bundle pool held on each die: Big Top address and KiB
  dramAt : List (DieIx × Nat)    -- address of the binding's DRAM allocation on each die
  kInner : List (DieIx × Nat × Nat) -- loop-order words rewritten to K-innermost at binding: die, level, op (R144, R152)
  feeds : List Feed              -- weight-side streams of the steps at work
  lineMode : Bool
  frameNo : Nat                  -- frames since binding
  frameStep : Dword
  stepSeq : Nat                  -- next stripe step
  deferred : List (DieIx × Nat)  -- stripe steps held behind step k − 8
  released : List (Nat × Nat)    -- stripe steps released: sequence number, frame
  steps : List (Nat × Dword)     -- frame steps of the latest frames
  parts : List PartSt
  items : List Item
  tensors : List (Nat × TensorBuf)   -- by 2 × tensor + frame mod 2: two frames are in flight at most (R55)
  inputTags : List (Nat × Nat × Nat) -- counter and timestamp of the source frame in an input tensor, by the same key
  guards : List (Nat × List Byte)    -- guard words of motion fields (R222), by the same key
  holes : List Hole
  resets : List Nat              -- frames whose recurrent state starts from its declared initial state
  runs : List Run                -- Carousel runs released that no stream has taken yet
  fallback : List FallPic        -- Resampler pictures: the share of each head, of two frames at most
  lock : Lock
  retimings : List Retiming      -- by source entry
  lineZero : Nat                 -- S(k), device time of line 0 of this frame (R246)
  due : List (Nat × Nat)         -- releases that wait for the first release: frame, stripe (R295)
  placed : Bool                  -- its raster stands where line mode places it (R56)
  phases : List SourcePhase      -- of its line-mode sources (R67)
  retimeNext : Bool              -- changes to retiming mode at the next frame boundary
  changing : Bool                -- this frame is the one at which it changes (R67)
  resetFlag : Bool               -- recurrent state was reset for this frame
  mismatch : List (DieIx × Nat)  -- the first stripe of this frame that mismatches, by head (R306)
  firstAt : Option Nat           -- S of a first release (R295)
  started : List DieIx           -- dies whose start barrier has begun for S
  unbinding : Bool
  unbindQueue : Option (FnIx × Nat)
  pause : PauseState
  replay : List ReplayFrame      -- frames still to replay
  copied : List (DieIx × Nat × Bool)   -- checkpoints taken: die, frame, and whether the record was written
  info : List Nat                -- ph, flags and the counters of j and j + 1 in the frame record of this frame
deriving DecidableEq, Repr

/-! ### Part-wide state -/

/-- OTP (R10, R387, R389, R392, R395, R397, Table 14.11). -/
structure Otp where
  stepBase : Byte
  stepMetal : Fin 16
  grade : Bool                       -- true: X
  thresholds : Option (List (Nat × Word)) -- programmed SFN defaults by register offset
  envelopes : List (Nat × Word)      -- SFN_ENV registers, where programmed
  floorBits : BitVec 63              -- rollback floor, a thermometer field
  features : BitVec 5
  keyHashes : Vector (BitVec 512) 4  -- firmware key slots
  revoked : BitVec 4
  makerHashes : Vector (BitVec 512) 4
  uds : BitVec 256
  fields : SMap (BitVec 512)         -- other programmed fields by identifier
deriving DecidableEq, Repr

/-- The value of a thermometer field: its set bits (R387). -/
def Otp.floor (o : Otp) : Nat := ((List.range 63).filter fun i => o.floorBits.getLsbD i).length

/-- A role session (R395): role 1 installer or 2 maker, and the device time at which it ends. -/
structure Session where
  role : Fin 3
  until_ : Nat
deriving DecidableEq, Repr

/-- An audit entry (Table 14.9). -/
structure AuditEntry where
  seq : Word
  tick : Dword
  kind : Byte
  role : Byte
  path : Byte
  key : Byte
  die : Byte
  offset : Word
  old : Word
  new : Word
  build : Word
deriving DecidableEq, Repr

/-- A change that starts only once its audit entry is programmed (R399), by the entry's SEQ. -/
inductive SecAction where
  | otp (field : BitVec 16) (value : BitVec 512)
  | key (slot : Fin 4) (hash : BitVec 512)
  | store
deriving DecidableEq, Repr

/-- Security and boot state of die 0 (R383 to R399). -/
structure Sec where
  pf : Option Session
  mctp : Option Session
  nonce : Option (BitVec 256)        -- current, unused
  failures : Nat                     -- consecutive failures of role requests
  lockedUntil : Option Nat
  log : List (Byte × BitVec 512)     -- measurement log: KIND, digest
  log63 : Option (BitVec 512)
  aliasSeed : List Byte
  identitySig : List Byte
  staging : List AuditEntry          -- audit entries not yet programmed, oldest first
  deferred : List (Word × Path × SecAction)
  loaded : Bool                      -- the stored settings of this boot are loaded (R401)
deriving DecidableEq, Repr

/-- A settings image (R400): the values it holds, by die and register offset. -/
structure Settings where
  seq : Word
  values : List (DieIx × Nat × Word)
  op : OpPoint
  modes : List (DieIx × Mode)
  igs : List (Word × Word)           -- CFG and LIMIT of each current-guard channel
  coefs : List (DieIx × SMap Word)   -- coefficient sets in force
  good : Bool                        -- commit mark and CRC good
deriving DecidableEq, Repr

/-- The settings memory of die 0 (R398 to R403). -/
structure Nvm where
  ring : List (Nat × AuditEntry)     -- by index
  auditHead : Word
  slots : Vector (Option Settings) 4
  inForce : Fin 4
  nextSlot : Fin 4
  storing : Option Settings
  erase : Vector Nat 64              -- erase count of each sector
  live : BitVec 4
  eraseDebt : Nat
  storeCount : Word
  installerHashes : Vector (BitVec 512) 4
  captured : Option AuditEntry
  srm : Nat                          -- version of the SRM held (R392)
deriving DecidableEq, Repr

/-- A task slot (Table 15.7) and its last issue (R426). -/
structure Task where
  words : Vector Word 4
  frames : Nat                       -- frames of the head since the slot was written
  dueSince : Option Nat              -- device time at which it fell due, while it waits for its bus
  running : Option (Vector Word 4)   -- the words of the transaction that it has under way
  status : Fin 4
  result : List Byte
deriving DecidableEq, Repr

/-- Sense and control (R425, R426, R433). -/
structure Sns where
  tasks : Vector Task 64
  data : Vector Word 4               -- SNS_TASK_DATA
  duty : Vector Byte 8               -- duty in force of each PWM output
  dutyNext : Vector (Option Byte) 8
  edgeTimes : List (Fin 32 × Nat)    -- device time of the latest edge of each GPIO
  telemetry : Debt                   -- sensor sampling of RM3 (R376)
deriving DecidableEq, Repr

/-- Operating-point and power state of the part (R30 to R33, R413 to R416). -/
structure Power where
  point : OpPoint
  target : Option OpPoint            -- a change in progress
  awaited : List DieIx               -- dies whose regulator has not acknowledged its new set-point
  ackAt : Option Nat                 -- device time of the acknowledgement that ended such a wait
  standby : Bool
  standbyReq : Bool
  standbyPoint : OpPoint
  held : Bool                        -- R369 holds the part in OP3
  stored : Option OpPoint            -- the point of the stored settings (R32)
deriving DecidableEq, Repr

/-- A Turnstile operation in flight over Gaide (R265). `part`: it is the fence over the transfer of the half of a stripe part to the
Big Top of its head's die, and carries no operation (R40, R45). -/
structure GaideMsg where
  src : DieIx
  dst : DieIx
  ref : TslRef
  req : TslReq
  part : Option (CanvasId × Nat × PartId) := none
  links : List (Fin 4) := []         -- the route that it takes (R22)
deriving DecidableEq, Repr

/-- The pins that the part drives (R347, R414). FAULT_N is low exactly while some die's Safety Net holds it. -/
structure Pins where
  hbOut : Bool
  tripN : Bool                       -- true: not asserted
  pkgLock : Bool
  pkgSync : Bool
  resetN : Bool
deriving DecidableEq, Repr

/-- PTP (R61, R422). -/
structure Ptp where
  grandmaster : Option Dword
  offsetNs : Int
deriving DecidableEq, Repr

/-- The state of the part. -/
structure State where
  straps : Straps
  otp : Otp
  gsc : Nat                          -- Global Step Counter (R292)
  clocks : Bool                      -- the release edge has passed
  dies : Vector Die 8                -- dies beyond the part's count are never reached
  fns : Vector Fn 64
  hostRegs : SMap Word               -- HST_ device registers (Table 12.14)
  canvases : List Canvas
  sec : Sec
  nvm : Nvm
  sns : Sns
  power : Power
  ptp : Ptp
  pins : Pins
  igs : Vector IgChannel 32
  gaide : List GaideMsg              -- oldest first
  packets : Nat                      -- packets that have set out over Gaide: the rotation of R22
  barriers : List Barrier
  image : Option (List Byte)         -- firmware image that die 0 keeps (R380)
  hostMem : SMap Byte                -- host memory as the device has written it
  free : Nat                         -- the model's own: counts free values drawn
  pending : List Instr               -- the model's own: commands waiting, first in first out
deriving DecidableEq, Repr

/-! ### Reset -/

/-- Objects 0 to 1,023 belong to the firmware context; every object is unallocated after a reset (R259). -/
def Tsl.reset : Tsl :=
  { objs := [], ctxs := [(0, { owner := .firmware, table := [] })],
    capture := { obj := none }, dump := none, frozen := false, held := [] }

/-- An engine after reset: nothing loaded, no live slot. -/
def Engine.reset : Engine := { loaded := [], books := [], inits := [], slots := [], spill := [], golden := none, staged := [], inBlock := none }

/-- A layer's source state after reset (CMP_LAYER_RT, Table 9.11). -/
def LayerRt.reset : LayerRt :=
  { held := false, fill := false, holdFrom := none, fillNext := none, phase := 0, withheld := false,
    shown := none, next := none, heldAt := none, blocked := false, nearest := false, holdNext := none, lateFrom := none }

/-- A head after reset: no committed mode, no raster. SEQ and STATUS of CMP_COMMIT are 0 (Table 9.11), the APL
gain is 0x8000 (SFN_GAIN, R359). -/
def Head.reset : Head :=
  { mode := none, running := false, line := 0, vtotalNow := 0, frameStep := 0, linkUp := false,
    trained := false, hdcp := none,
    commit := { pending := false, goAt := 0, span := false, status := 0, seq := 0 },
    te := { waiting := false, earlyEdge := false, repeatFrame := false, good := none, edgeAt := 0, cut := false },
    wb := { writing := none, skip := 0, incomplete := false, step := 0 },
    layers := Vector.replicate 16 LayerRt.reset, gain := 0x8000, lumaSum := 0, lumaCount := 0,
    echo := { digests := [], lineCrcs := [], lastSeq := none, sinceNew := 0, bad := 0, good := 0,
              failing := false },
    fetched := [], opForced := false, downSince := none, lineZero := 0 }

/-- The Safety Net after a reset of its die: INIT, with NEURAL_EN 0 (R348). -/
def Sfn.reset : Sfn :=
  { phase := .init, safeAt := 0, restart := none, latchedOff := false, faults := [], injBusy := false, frameBad := false,
    window := [], restarts := [], goldenStarted := false, goldenVariant := 0, goldenEngine := 0, goldenDefer := 0,
    history := [], thresholds := [] }

/-- A current-guard channel after reset (Table 13.10: period 0x064, all else 0). -/
def IgChannel.reset : IgChannel :=
  { cfg := 0, limit := 0x0064_0000, last := 0, exceeded := false, tripped := false, timeout := false }

/-- A die after reset: every register at its reset value, so none is listed. `otpRegs` are the fields that OTP
or a strap loads (R10). -/
def Die.reset (otpRegs : SMap Word) (now : Nat) : Die :=
  { regs := otpRegs, latch := [], force := [], lut := [], lutForce := [], coef := [], coefForce := [],
    choices := [], bigTop := [], bigTopPoison := [], dram := [], dramPoison := [], dramAlloc := [],
    engines := Vector.replicate 2 Engine.reset, tsl := Tsl.reset, streams := [], pools := [], inflight := [],
    head := Head.reset, sources := [], sfn := Sfn.reset,
    boot := { alone := false, kept := none, inReset := false, pllLocked := false, released := false, phase := .rom, trained := false,
              resetAt := now },
    links := Vector.replicate 4 { up := false, failed := false, run := 0 },
    thermal := { level := 0, coolMs := 0, hotMs := 0, critical := false, powers := [] },
    scrub := Vector.replicate 64 { done := 0, repaid := 0, atLimit := false },
    patrol := Vector.replicate 2 { done := 0, repaid := 0, atLimit := false },
    ceRecent := [], calDone := Vector.replicate 2 now,
    recorder := { seq := 0, used := 0, lost := 0, firstLost := 0, full := false, batch := none },
    poolUsedKib := 0 }

/-- A function after reset: READY, nothing created (Table 12.15). -/
def Fn.reset : Fn :=
  { regs := [], ready := true, disabled := false, aqErr := false, windows := Vector.replicate 16 none, queues := [],
    bundles := [], msix := [], messages := [], vfEnabled := false }

/-- A task slot after reset: inactive. -/
def Task.reset : Task :=
  { words := Vector.replicate 4 0, frames := 0, dueSince := none, running := none, status := 0, result := [] }

/-- Sense and control after reset. -/
def Sns.reset : Sns :=
  { tasks := Vector.replicate 64 Task.reset, data := Vector.replicate 4 0, duty := Vector.replicate 8 0,
    dutyNext := Vector.replicate 8 none, edgeTimes := [],
    telemetry := { done := 0, repaid := 0, atLimit := false } }

/-- Security state after a part reset: no session, no nonce, an empty log. -/
def Sec.reset : Sec :=
  { pf := none, mctp := none, nonce := none, failures := 0, lockedUntil := none, log := [], log63 := none,
    aliasSeed := [], identitySig := [], staging := [], deferred := [], loaded := false }

/-- A settings memory as manufactured: no image, no audit entry, no wear. DESIGN CHOICE, entry 3: the manual gives
its contents no reset value, for it survives resets. -/
def Nvm.blank : Nvm :=
  { ring := [], auditHead := 0, slots := Vector.replicate 4 none, inForce := 0, nextSlot := 0, storing := none,
    erase := Vector.replicate 64 0, live := 0xF, eraseDebt := 0, storeCount := 0,
    installerHashes := Vector.replicate 4 0, captured := none, srm := 0 }

/-- OTP of a part at stepping A1 and grade C in which the maker has programmed nothing else (R10). DESIGN CHOICE,
entry 3. -/
def Otp.unprogrammed : Otp :=
  { stepBase := 0x41, stepMetal := 1, grade := false, thresholds := none, envelopes := [], floorBits := 0,
    features := 0, keyHashes := Vector.replicate 4 0, revoked := 0, makerHashes := Vector.replicate 4 0, uds := 0,
    fields := [] }

/-- Operating-point state after any reset of the part: OP3, held there until injection passes (R32, R369). -/
def Power.reset : Power :=
  { point := .op3, target := none, awaited := [], ackAt := none, standby := false,
    standbyReq := false, standbyPoint := .op3, held := true, stored := none }

/-- The register fields that OTP loads on every die (R10): DET_CLASS_LO (stepping, grade, policy 0x01), SFN_ID with
ENV_SET, SFN_ENV0 to SFN_ENV3, the programmed thresholds, SEC_BOOT.FLOOR and, on die 0, SEC_FEATURES; and the strap that
makes die 0 the lead (RMS_PLACE_ID.LEAD, Table 6.8). -/
def otpRegs (o : Otp) (d : DieIx) : SMap Word :=
  let cls : Word := o.stepBase.setWidth 32 ||| ((BitVec.ofNat 32 o.stepMetal.val) <<< 8) |||
    (if o.grade then 0x1000 else 0) ||| 0x0001_0000
  let thr : List (Nat × Word) := match o.thresholds with
    | some l => (Reg.sfnId, (0x101 : Word)) :: l
    | none => []
  let feat : List (Nat × Word) := if d.val = 0 then
      [(Reg.secFeatures, o.features.setWidth 32), (Reg.rmsPlaceId, 0x101)] else []
  ([(Reg.detClassLo, cls)] ++ thr ++ o.envelopes ++ [(Reg.secBoot, (BitVec.ofNat 32 o.floor) <<< 19)] ++ feat).foldl
    (fun m e => sSet regReset m e.1 e.2) []

/-- The part right after a reset with given straps and OTP: every die in its boot ROM, the clocks not released, the
Global Step Counter at 0. What the settings memory and host memory hold survives. -/
def State.ofReset (st : Straps) (otp : Otp) (nvm : Nvm) (hostMem : SMap Byte) : State :=
  { straps := st, otp := otp, gsc := 0, clocks := false,
    dies := Vector.ofFn fun d => Die.reset (otpRegs otp d) 0,
    fns := Vector.replicate 64 Fn.reset, hostRegs := [], canvases := [], sec := Sec.reset,
    nvm := { nvm with storing := none, captured := none }, sns := Sns.reset, power := Power.reset,
    ptp := { grandmaster := none, offsetNs := 0 },
    pins := { hbOut := false, tripN := true, pkgLock := false, pkgSync := false, resetN := true },
    igs := Vector.replicate 32 IgChannel.reset, gaide := [], packets := 0, barriers := [], image := none, hostMem := hostMem,
    free := 0, pending := [] }

/-- The machine right after reset. The part number and the straps are fixed by the package and its board: the model
takes a PV-8800 with every strap low (DESIGN CHOICE, entry 3); every rule holds for any of them. -/
def State.reset : State :=
  State.ofReset { part := .pv8800, bootHost := false, refPcie := false, mgmtI3c := false, smbAddr := 0, dramGib := 16 }
    Otp.unprogrammed Nvm.blank []

end Sys2Proof.Machine
end

