-- ==== Sys2Proof/Machine/Ops.lean ====
section
/-! DEFINITION. The named operations over registers, dies and memories. -/

namespace Sys2Proof.Machine

/-! ### Dies -/

/-- Dies of a part (Table 0.1). -/
def partDies : Part → Nat
  | .pv2200 => 2
  | .pv4400 => 4
  | .pv8800 => 8

/-- Dies that the part contains. -/
def State.nDies (s : State) : Nat := partDies s.straps.part

/-- Whether the part contains a die. -/
def State.present (s : State) (d : DieIx) : Bool := decide (d.val < s.nDies)

/-- The dies that the part contains, in ascending order. -/
def State.dieList (s : State) : List DieIx := (List.finRange 8).filter fun d => s.present d

/-- A die. -/
def State.die (s : State) (d : DieIx) : Die := s.dies[d.val]

/-- The state with a die replaced; nothing changes where the part does not contain that die (R7). -/
def State.setDie (s : State) (d : DieIx) (x : Die) : State :=
  { s with dies := if s.present d then s.dies.set d.val x d.isLt else s.dies }

/-- The state with a die changed. -/
def State.onDie (s : State) (d : DieIx) (f : Die → Die) : State := s.setDie d (f (s.die d))

/-- The state with every die of the part changed in the same way. -/
def State.onDies (s : State) (ds : List DieIx) (f : DieIx → Die → Die) : State :=
  ds.foldl (fun t d => t.onDie d (f d)) s

/-- A die by a number, modulo 8. -/
def dieOf (n : Nat) : DieIx := Fin.ofNat 8 n

/-! ### Gaide links (R21 to R23) -/

/-- The die that a Gaide link of a die joins, where the link is bonded (Table 1.1). A link has the same number at both ends. -/
def linkPeer (p : Part) (d : DieIx) (k : Fin 4) : Option DieIx :=
  match p, k.val with
  | .pv2200, _ => some (dieOf (1 - d.val % 2))
  | .pv4400, 0 => some (dieOf (Nat.xor d.val 1))
  | .pv4400, 1 => some (dieOf (Nat.xor d.val 2))
  | .pv4400, 2 => some (dieOf (Nat.xor d.val 3))
  | .pv4400, _ => none
  | .pv8800, 0 => some (dieOf (Nat.xor d.val 1))
  | .pv8800, 1 => some (dieOf (Nat.xor d.val 2))
  | .pv8800, 2 => some (dieOf (Nat.xor d.val 4))
  | .pv8800, _ => some (dieOf (Nat.xor d.val 7))

/-- A link of a die works. -/
def State.linkUp (s : State) (d : DieIx) (k : Fin 4) : Bool :=
  (linkPeer s.straps.part d k).isSome && (s.die d).links[k.val].up && !(s.die d).links[k.val].failed

/-- Sequences of n link numbers in lexicographic order. -/
def linkPaths : Nat → List (List (Fin 4))
  | 0 => [[]]
  | n + 1 => (List.finRange 4).flatMap fun k => (linkPaths n).map fun p => k :: p

/-- The die where a sequence of links ends, if each of them works. -/
def State.follow (s : State) (d : DieIx) : List (Fin 4) → Option DieIx
  | [] => some d
  | k :: rest => if s.linkUp d k then (linkPeer s.straps.part d k).bind fun e => s.follow e rest else none

/-- The route of traffic between two dies (R22, R23): the first, in lexicographic order, of the shortest that cross no failed link. -/
def State.route (s : State) (a b : DieIx) : Option (List (Fin 4)) :=
  (List.range 8).findSome? fun n => (linkPaths n).find? fun p => s.follow a p == some b

/-- The links that the next packet from a die to another takes. On a PV-2200, whose links all join the same dies, packets go over the
working ones in rotation (entry 101). -/
def State.packetRoute (s : State) (a b : DieIx) : List (Fin 4) :=
  match s.straps.part with
  | .pv2200 =>
    let ws := (List.finRange 4).filter fun k => s.linkUp a k
    (ws[s.packets % max ws.length 1]?).toList
  | .pv4400 => (s.route a b).getD []
  | .pv8800 => (s.route a b).getD []

/-- Operations set out over Gaide, in order, each on its route. -/
def State.sendGaide (s : State) (ms : List GaideMsg) : State :=
  ms.foldl (fun s m => { s with gaide := s.gaide ++ [{ m with links := s.packetRoute m.src m.dst }], packets := s.packets + 1 }) s

/-! ### Registers -/

/-- The value a register holds. -/
def Die.reg (x : Die) (off : Nat) : Word := sGet regReset x.regs off

/-- A die with a register set. -/
def Die.setReg (x : Die) (off : Nat) (w : Word) : Die := { x with regs := sSet regReset x.regs off w }

/-- Bits [hi:lo] of a register. -/
def Die.field (x : Die) (off hi lo : Nat) : Nat := bits (x.reg off) hi lo

/-- A die with bits [hi:lo] of a register set. -/
def Die.setField (x : Die) (off hi lo v : Nat) : Die := x.setReg off (setBits (x.reg off) hi lo v)

/-- The value in force of a shadowed register (R238). -/
def Die.inForce (x : Die) (off : Nat) : Word := sGet regReset x.force off

/-- Bits [hi:lo] of a shadowed register's value in force. -/
def Die.fField (x : Die) (off hi lo : Nat) : Nat := bits (x.inForce off) hi lo

/-- A 32-bit counter after a number of increments: it holds at 0xFFFF_FFFF. -/
def satCount (w : Word) (n : Nat) : Word := BitVec.ofNat 32 (min (w.toNat + n) 0xFFFF_FFFF)

/-- A die with a 32-bit counter incremented. -/
def Die.count (x : Die) (off n : Nat) : Die := x.setReg off (satCount (x.reg off) n)

/-- The 64-bit counter at a LO register and the HI register after it. -/
def Die.wide (x : Die) (lo : Nat) : Nat := (x.reg lo).toNat + 2 ^ 32 * (x.reg (lo + 4)).toNat

/-- A die with a 64-bit counter set. -/
def Die.setWide (x : Die) (lo v : Nat) : Die :=
  (x.setReg lo (BitVec.ofNat 32 v)).setReg (lo + 4) (BitVec.ofNat 32 (v / 2 ^ 32))

/-- A die with a 64-bit counter incremented; it holds at its highest value. -/
def Die.countWide (x : Die) (lo n : Nat) : Die := x.setWide lo (min (x.wide lo + n) (2 ^ 64 - 1))

/-- The value that a register of a die holds. -/
def State.reg (s : State) (d : DieIx) (off : Nat) : Word := (s.die d).reg off

/-- Bits [hi:lo] of a register of a die. -/
def State.field (s : State) (d : DieIx) (off hi lo : Nat) : Nat := (s.die d).field off hi lo

/-- The state with a register of a die set. -/
def State.setReg (s : State) (d : DieIx) (off : Nat) (w : Word) : State := s.onDie d fun x => x.setReg off w

/-- The state with bits [hi:lo] of a register of a die set. -/
def State.setField (s : State) (d : DieIx) (off hi lo v : Nat) : State := s.onDie d fun x => x.setField off hi lo v

/-- The state with a 32-bit counter of a die incremented. -/
def State.count (s : State) (d : DieIx) (off n : Nat) : State := s.onDie d fun x => x.count off n

/-! ### Time -/

/-- One tick of the Global Step Counter, 10 ns (R292), once the release edge has passed. This is what a step does
when no command waits. DESIGN CHOICE, entry 1. -/
def State.tick (s : State) : State := if s.clocks then { s with gsc := s.gsc + 1 } else s

/-! ### Memories -/

/-- A die's DRAM with bytes written from an address. -/
def Die.writeDram (x : Die) (addr : Nat) (bs : List Byte) : Die :=
  { x with dram := sSetRange zeroByte x.dram addr bs }

/-- Bytes of a die's DRAM. -/
def Die.readDram (x : Die) (addr n : Nat) : List Byte := sGetRange zeroByte x.dram addr n

/-- A die's Big Top with bytes written from an address. -/
def Die.writeBigTop (x : Die) (addr : Nat) (bs : List Byte) : Die :=
  { x with bigTop := sSetRange zeroByte x.bigTop addr bs }

/-- Bytes of a die's Big Top. -/
def Die.readBigTop (x : Die) (addr n : Nat) : List Byte := sGetRange zeroByte x.bigTop addr n

/-- Host memory with bytes that the device writes (R317). -/
def State.writeHost (s : State) (addr : Nat) (bs : List Byte) : State :=
  { s with hostMem := sSetRange zeroByte s.hostMem addr bs }

/-! ### Lists of plain data -/

/-- Replace the first element that satisfies a test. -/
def updFirst {α : Type} (p : α → Bool) (f : α → α) : List α → List α
  | [] => []
  | x :: rest => if p x then f x :: rest else x :: updFirst p f rest

/-- Change every element that satisfies a test. -/
def updAll {α : Type} (p : α → Bool) (f : α → α) (l : List α) : List α := l.map fun x => if p x then f x else x

/-- A fold over the numbers 0 to n − 1. -/
def foldRange {σ : Type} (n : Nat) (f : σ → Nat → σ) (init : σ) : σ := (List.range n).foldl f init

/-- The lowest number from lo to hi that a list does not hold. -/
def lowestFree (lo hi : Nat) (used : List Nat) : Option Nat :=
  (List.range (hi + 1 - lo)).findSome? fun i => if used.contains (lo + i) then none else some (lo + i)

end Sys2Proof.Machine
end

