-- ==== Sys2Proof/Machine/Queue.lean ====
section
/-! DEFINITION. The host side: functions, queues, completion and event records, and interrupts (chapter "Host
attachment, queues and interrupts"). What these operations read and change is gathered in `HostSide`. -/

namespace Sys2Proof.Machine

/-- Numeric values of the status codes (Table 12.13, R341). -/
def Status.code : Status → Nat
  | .ok => 0x00 | .late => 0x01 | .checkerReject => 0x02 | .scaleSkew => 0x03 | .accSlots => 0x04
  | .filterSize => 0x05 | .creditStall => 0x06 | .poisoned => 0x07 | .aborted => 0x08 | .funcDisabled => 0x09
  | .detMismatch => 0x0A | .auth => 0x0B | .opFormat => 0x0C | .placement => 0x0D | .rasterTiming => 0x0E
  | .codec => 0x0F | .layerConfig => 0x10 | .badDesc => 0x11 | .hostRange => 0x12 | .noResource => 0x13
  | .notOwner => 0x14 | .inUse => 0x15 | .role => 0x16

/-- What the queues of the part consist of: the functions, the HST_ registers, host memory as the device writes it,
and the time that records carry. -/
structure HostSide where
  fns : Vector Fn 64
  hostRegs : SMap Word
  hostMem : SMap Byte
  gsc : Nat
deriving DecidableEq, Repr

/-- The host side of a state. -/
def State.host (s : State) : HostSide := { fns := s.fns, hostRegs := s.hostRegs, hostMem := s.hostMem, gsc := s.gsc }

/-- A state with its host side replaced. -/
def State.withHost (s : State) (h : HostSide) : State :=
  { s with fns := h.fns, hostRegs := h.hostRegs, hostMem := h.hostMem }

/-- The state with its host side changed. -/
def State.onHost (s : State) (f : HostSide → HostSide) : State := s.withHost (f s.host)

namespace HostSide

/-- A function. -/
def fn (h : HostSide) (f : FnIx) : Fn := h.fns[f.val]

/-- The host side with a function changed. -/
def onFn (h : HostSide) (f : FnIx) (g : Fn → Fn) : HostSide := { h with fns := h.fns.set f.val (g (h.fn f)) f.isLt }

/-- An HST_ register (Table 12.14), by offset in its block. -/
def reg (h : HostSide) (off : Nat) : Word := sGet hostReset h.hostRegs off

/-- The host side with an HST_ register set. -/
def setReg (h : HostSide) (off : Nat) (w : Word) : HostSide := { h with hostRegs := sSet hostReset h.hostRegs off w }

/-- The host side with a 32-bit counter incremented (R344). -/
def count (h : HostSide) (off n : Nat) : HostSide := h.setReg off (satCount (h.reg off) n)

/-- A register of a function page (Table 12.15). -/
def fnReg (h : HostSide) (f : FnIx) (off : Nat) : Word := sGet fnReset (h.fn f).regs off

/-- The host side with a register of a function page set. -/
def setFnReg (h : HostSide) (f : FnIx) (off : Nat) (w : Word) : HostSide :=
  h.onFn f fun x => { x with regs := sSet fnReset x.regs off w }

/-- The host side with a counter of a function page incremented (R344). -/
def countFn (h : HostSide) (f : FnIx) (off n : Nat) : HostSide := h.setFnReg f off (satCount (h.fnReg f off) n)

/-- The queue quota of a function (R318). -/
def quota (h : HostSide) (f : FnIx) : Nat := bits (h.reg (0x100 + 4 * f.val)) 18 0

/-- A created queue of a function; none where it is FREE. -/
def queue (h : HostSide) (f : FnIx) (q : Nat) : Option Queue := (h.fn f).queues.find? fun x => x.id == q

/-- The host side with a created queue changed. -/
def onQueue (h : HostSide) (f : FnIx) (q : Nat) (g : Queue → Queue) : HostSide :=
  h.onFn f fun x => { x with queues := updFirst (fun y => y.id == q) g x.queues }

/-- Bytes written by the device to host memory. -/
def write (h : HostSide) (addr : Nat) (bs : List Byte) : HostSide :=
  { h with hostMem := sSetRange zeroByte h.hostMem addr bs }

end HostSide

/-- Entries of a ring (R318). -/
def Queue.size (q : Queue) : Nat := 2 ^ q.log2

/-- Entries between head and tail. -/
def Queue.used (q : Queue) : Nat := (q.tail + q.size - q.head) % q.size

/-- A CQ or EQ accepts records: not in ERROR (R319). A queue that its function's disable put in DISABLED takes the
completions of R338. -/
def Queue.accepts (q : Queue) : Bool := q.state == .run || q.state == .disabled

/-! ### Interrupts (R334) -/

/-- A vector of a function: address 0 and masked where it is not listed. -/
def Fn.vector (x : Fn) (v : Nat) : Msix :=
  ((x.msix.find? fun e => e.1 == v).map Prod.snd).getD { addr := 0, data := 0, masked := true, pendingBit := false }

/-- A function with an MSI-X table entry set, entries rising by vector. -/
def Fn.setVector (x : Fn) (v : Nat) (m : Msix) : Fn := { x with msix := sInsert (sErase x.msix v) v m }

/-- A vector fires: it sends its message, or sets its pending bit where it is masked or its address is 0. -/
def Fn.fire (x : Fn) (v : Nat) : Fn :=
  let m := x.vector v
  if m.masked || m.addr == 0 then x.setVector v { m with pendingBit := true }
  else { x with messages := v :: x.messages }

/-- What a queue does about its vector after a record is posted (R334). -/
def HostSide.posted (h : HostSide) (f : FnIx) (q : Nat) : HostSide :=
  match h.queue f q with
  | none => h
  | some x =>
    match x.vector with
    | none => h
    | some v =>
      let n := x.posted + 1
      if max x.count 1 ≤ n then
        (h.onQueue f q fun y => { y with posted := 0, firstPost := none }).onFn f fun z => z.fire v
      else h.onQueue f q fun y => { y with posted := n, firstPost := some (x.firstPost.getD h.gsc) }

/-! ### Records -/

/-- Write one 64-byte record at the tail of a CQ or EQ and move the tail; PHASE inverts as the ring wraps (R328,
R331). `mk` builds the record from PHASE. -/
def HostSide.append (h : HostSide) (f : FnIx) (q : Nat) (mk : Bool → List Byte) : HostSide :=
  match h.queue f q with
  | none => h
  | some x =>
    let t := (x.tail + 1) % x.size
    let h1 := h.write (x.base.toNat + 64 * x.tail) (sliceBytes (mk x.phase) 0 64)
    let h2 := h1.onQueue f q fun y => { y with tail := t, phase := if t = 0 then !y.phase else y.phase }
    h2.posted f q

/-- Entries of a CQ that SQs in progress hold in reserve (R330). -/
def HostSide.reserved (h : HostSide) (f : FnIx) (cq : Nat) : Nat :=
  ((h.fn f).queues.filter fun q => q.kind == .sq && q.cq == cq && q.cur.isSome).length

/-- Free entries of a CQ or EQ: it holds at most its entry count minus 1 (R330). -/
def Queue.room (q : Queue) : Nat := q.size - 1 - q.used

/-- The bytes of a completion record (Table 12.6). -/
def cqRecord (tag : Dword) (sq sqHead : Nat) (st : Status) (kind : Nat) (die : Nat) (step : Nat)
    (detail : List Byte) (lost phase : Bool) : List Byte :=
  leBytes 8 tag.toNat ++ leBytes 4 (sq + 2 ^ 18 * sqHead) ++ [BitVec.ofNat 8 st.code, BitVec.ofNat 8 kind,
    BitVec.ofNat 8 (b2n phase + 2 * b2n lost), BitVec.ofNat 8 die] ++ leBytes 8 step ++ sliceBytes detail 0 40

/-- Settle the state of an SQ between descriptors (R319, R326, R330): IDLE with head equal to tail, HOLD while its CQ
has no entry free beyond those reserved, else RUN. -/
def HostSide.settle (h : HostSide) (f : FnIx) (q : Queue) : Queue :=
  if q.kind == .sq && q.cur.isNone && (q.state == .idle || q.state == .run || q.state == .hold) then
    if q.head = q.tail then { q with state := .idle }
    else match h.queue f q.cq with
      | some c => if h.reserved f q.cq < c.room then { q with state := .run } else { q with state := .hold }
      | none => { q with state := .hold }
  else q

/-- Settle every SQ of a function. -/
def HostSide.settleAll (h : HostSide) (f : FnIx) : HostSide :=
  h.onFn f fun x => { x with queues := x.queues.map fun q => h.settle f q }

/-- Post a record of kinds 3 to 5 to a CQ: it never waits, and is lost where no unreserved entry is free (R330). -/
def HostSide.postCpl (h : HostSide) (f : FnIx) (cq : Nat) (kind die step : Nat) (st : Status)
    (detail : List Byte) : HostSide :=
  match h.queue f cq with
  | none => h
  | some c =>
    if c.kind == .cq && c.accepts && decide (h.reserved f cq < c.room) then
      let lost := c.lostFlag
      ((h.append f cq fun ph => cqRecord 0 0 0 st kind die step detail lost ph).onQueue f cq
        fun y => { y with lostFlag := false }).settleAll f
    else (h.onQueue f cq fun y => { y with lostFlag := true }).countFn f 0x028 1

/-- The bytes of an event record (Table 12.8). -/
def eqRecord (type die : Nat) (seq : Word) (tick : Nat) (payload : List Byte) (phase : Bool) : List Byte :=
  leBytes 2 type ++ [BitVec.ofNat 8 die, BitVec.ofNat 8 (b2n phase)] ++ leBytes 4 seq.toNat ++ leBytes 8 tick ++
    sliceBytes payload 0 48

/-- Write one event record; SEQ counts it (R331). -/
def HostSide.appendEvent (h : HostSide) (f : FnIx) (q : Nat) (type die : Nat) (payload : List Byte) : HostSide :=
  match h.queue f q with
  | none => h
  | some x => (h.append f q fun ph => eqRecord type die x.seq h.gsc payload ph).onQueue f q
      fun y => { y with seq := y.seq + 1 }

/-- Lose a number of event records of an EQ: SEQ counts them (R331, R333). -/
def HostSide.loseEvents (h : HostSide) (f : FnIx) (q n : Nat) : HostSide :=
  h.onQueue f q fun y => { y with seq := y.seq + BitVec.ofNat 32 n, lost := y.lost + n }

/-- Post a group of event records to an EQ, whole or not at all; an OVERFLOW record comes first where records were
lost (R333). DEDUCED, entry 7: an EQ, like a CQ, holds at most its entry count minus 1. -/
def HostSide.postEvents (h : HostSide) (f : FnIx) (q : Nat) (rs : List (Nat × Nat × List Byte)) : HostSide :=
  match h.queue f q with
  | none => h
  | some x =>
    if x.kind != .eq then h
    else if !x.accepts then h.loseEvents f q rs.length
    else
      let h1 := if 0 < x.lost ∧ 0 < x.room then
          (h.appendEvent f q 0x0006 0 (leBytes 4 x.lost)).onQueue f q fun y => { y with lost := 0 }
        else h
      let free := match h1.queue f q with
        | some y => if 0 < y.lost then 0 else y.room
        | none => 0
      if rs.length ≤ free then rs.foldl (fun g r => g.appendEvent f q r.1 r.2.1 r.2.2) h1
      else h1.loseEvents f q rs.length

/-- The PF's EQ that HST_DIE_EQ names for a die, where a valid one is named (R333). -/
def HostSide.dieEq (h : HostSide) (d : DieIx) : Option Nat :=
  let w := h.reg (0x020 + 4 * d.val)
  if bit w 31 then
    match h.queue 0 (bits w 17 0) with
    | some q => if q.kind == .eq then some q.id else none
    | none => none
  else none

/-- Post an event of a die, or lose it and count it in HST_EQ_LOST (R333). The rise of HST_EVT.EQ_LOST posts a REG
record to the event queue of die 0 where HST_EVT_EN allows. -/
def HostSide.postDie (h : HostSide) (d : DieIx) (type : Nat) (payload : List Byte) : HostSide :=
  match h.dieEq d with
  | some q => h.postEvents 0 q [(type, d.val, payload)]
  | none =>
    let old := h.reg 0x00C
    let h1 := (h.count 0x014 1).setReg 0x00C (old ||| 4)
    if !bit old 2 && bit (h.reg 0x010) 2 then
      match h1.dieEq 0 with
      | some q => h1.postEvents 0 q [(0x0003, 0, leBytes 4 0x10_000C ++ leBytes 4 4)]
      | none => h1.count 0x014 1
    else h1

/-- Post an event of a canvas to the EQ that its binding names (R333). -/
def HostSide.postCanvas (h : HostSide) (c : Canvas) (d : DieIx) (kind layer value : Nat) : HostSide :=
  h.postEvents c.id.func c.binding.eq [(0x0004, d.val, leBytes 2 c.id.handle ++ [BitVec.ofNat 8 kind,
    BitVec.ofNat 8 layer] ++ leBytes 4 value)]

/-- Post a FUNC record to the event queue of die 0 (R333). -/
def HostSide.postFunc (h : HostSide) (f : FnIx) (kind : Nat) : HostSide :=
  h.postDie 0 0x0005 [BitVec.ofNat 8 f.val, BitVec.ofNat 8 kind]

/-- Put a queue in ERROR (R322): a completion record of kind QUEUE goes to the admin CQ, or, for queues 0 and 1,
HST_FN_STATUS.AQ_ERR is set. -/
def HostSide.queueError (h : HostSide) (f : FnIx) (q : Nat) (st : Status) : HostSide :=
  let h1 := h.onQueue f q fun x => { x with state := .error }
  if q = 0 ∨ q = 1 then h1.onFn f fun x => { x with aqErr := true }
  else h1.postCpl f 1 5 0 0 st (leBytes 4 q)

/-- Raise bits of HST_EVT; the bits that rise and are enabled post a REG record (Table 12.14). -/
def HostSide.raise (h : HostSide) (mask : Nat) : HostSide :=
  let old := h.reg 0x00C
  let rose := BitVec.ofNat 32 mask &&& ~~~ old
  let h1 := h.setReg 0x00C (old ||| BitVec.ofNat 32 mask)
  let en := rose &&& h.reg 0x010
  if en = 0 then h1 else h1.postDie 0 0x0003 (leBytes 4 0x10_000C ++ leBytes 4 en.toNat)

end Sys2Proof.Machine
end

