-- ==== Sys2Proof/Machine/Sha3.lean ====
section
/-! DEFINITION. SHA3-512 and SHA3-256 (FIPS 202), which the manual names for digests of images, bundles, keys and the
measurement log (R191, R385 to R395). PRESUMED, entry 9: the function is that of the standard. The sponge is one
number of 1,600 bits, read from the same little-endian bytes that the part keeps: bits 320 y + 64 x and up are lane
(x, y). -/

namespace Sys2Proof.Machine

/-- The 64 bits of lane (x, y). -/
def spongeLane (s x y : Nat) : Nat := (s >>> (320 * y + 64 * x)) % 2 ^ 64

/-- A lane turned n bits towards its high end, n below 64. -/
def spinLane (v n : Nat) : Nat := (v <<< n) % 2 ^ 64 ||| v >>> (64 - n)

/-- Every bit of a row of five lanes. -/
def rowMask : Nat := 0xFFFFFFFFFFFFFFFFFFFFFFFFFFFFFFFFFFFFFFFFFFFFFFFFFFFFFFFFFFFFFFFFFFFFFFFFFFFFFFFF

/-- A row of five lanes in which every lane is the one k places further on. -/
def rowShift (p k : Nat) : Nat := p >>> (64 * k) ||| ((p <<< (320 - 64 * k)) &&& rowMask)

/-- Bit 0 of each lane of a row. -/
def rowUnits : Nat := 1 + 2 ^ 64 + 2 ^ 128 + 2 ^ 192 + 2 ^ 256

/-- A row with each of its lanes turned one bit towards its high end. -/
def rowSpin (p : Nat) : Nat :=
  ((p <<< 1) &&& (rowMask ^^^ rowUnits)) ||| ((p >>> 63) &&& rowUnits)

/-- Each row of the sponge takes the parities of the columns beside it. -/
def mixColumns (s : Nat) : Nat :=
  let c := (s ^^^ s >>> 320 ^^^ s >>> 640 ^^^ s >>> 960 ^^^ s >>> 1280) &&& rowMask
  let d := rowShift c 4 ^^^ rowSpin (rowShift c 1)
  s ^^^ d ^^^ d <<< 320 ^^^ d <<< 640 ^^^ d <<< 960 ^^^ d <<< 1280

/-- Lanes (x, y), t and on along the standard's path, each turned by its triangular number and moved to its new
place. -/
def moveLanes (s : Nat) : Nat → Nat → Nat → Nat → Nat
  | 0, _, _, _ => 0
  | n + 1, t, x, y =>
    let to_ := (2 * x + 3 * y) % 5
    spinLane (spongeLane s x y) ((t + 1) * (t + 2) / 2 % 64) <<< (320 * to_ + 64 * y) ||| moveLanes s n (t + 1) y to_

/-- The non-linear part on the row that begins at bit 320 y. -/
def mixRow (s y : Nat) : Nat :=
  let p := (s >>> (320 * y)) &&& rowMask
  (p ^^^ ((rowMask ^^^ rowShift p 1) &&& rowShift p 2)) <<< (320 * y)

/-- The shift register that makes the round constants. -/
def roundShift (r : Nat) : Nat := if r < 128 then 2 * r else (2 * r) ^^^ 0x171

/-- The constant of a round, from n positions on, each one below a power of two. -/
def roundBits : Nat → Nat → Nat → Nat
  | 0, _, _ => 0
  | n + 1, at_, r => (r % 2) <<< (at_ - 1) ||| roundBits n (2 * at_) (roundShift r)

/-- The permutation: n rounds, the shift register at r before the first. -/
def permute : Nat → Nat → Nat → Nat
  | 0, _, s => s
  | n + 1, r, s =>
    let m := mixColumns s
    let b := spongeLane m 0 0 ||| moveLanes m 24 0 1 0
    permute n (Nat.repeat roundShift 7 r)
      ((mixRow b 0 ||| mixRow b 1 ||| mixRow b 2 ||| mixRow b 3 ||| mixRow b 4) ^^^ roundBits 7 1 r)

/-- The sponge after n blocks of `rate` bytes of a padded message. -/
def soak (rate : Nat) : Nat → Nat → List Byte → Nat
  | 0, s, _ => s
  | n + 1, s, m => soak rate n (permute 24 1 (s ^^^ leNat (m.take rate))) (m.drop rate)

/-- A SHA3 digest of bytes at a rate: its first `out` bytes of the sponge. The padding is 0x06 after the last byte and
0x80 in the last byte of the last block. -/
def sha3With (rate out : Nat) (m : List Byte) : List Byte :=
  let fill := rate - 1 - m.length % rate
  let tail := leBytes (fill + 1) (0x06 ||| 0x80 <<< (8 * fill))
  leBytes out (soak rate (m.length / rate + 1) 0 (m ++ tail))

/-- SHA3-512 of bytes: 64 bytes. -/
def sha3 (m : List Byte) : List Byte := sha3With 72 64 m

/-- SHA3-256 of bytes: 32 bytes (R191). -/
def sha3Short (m : List Byte) : List Byte := sha3With 136 32 m

/-- A digest as a number, its first byte lowest. -/
def digestOf (m : List Byte) : BitVec 512 := BitVec.ofNat 512 (leNat (sha3 m))

end Sys2Proof.Machine
end

