-- ==== Sys2Proof/Machine/Bundle.lean ====
section
/-! DEFINITION. The bundle as the device reads it: header, tensor, program, pool, Turnstile and op records (R191 to
R197), and the checks on them that need no other chapter. -/

namespace Sys2Proof.Machine

/-! ### Header (Table 8.1) -/

/-- Counts and offsets of the header. -/
structure BHeader where
  q : Nat
  size : Nat
  nops : Nat
  ntens : Nat
  nprog : Nat
  nblob : Nat
  ops : Nat
  tens : Nat
  prog : Nat
  blob : Nat
  npool : Nat
  ntsl : Nat
  pools : Nat
  tsls : Nat
deriving DecidableEq, Repr

/-- The header of a bundle. -/
def bHeader (b : List Byte) : BHeader :=
  { q := leAt b 6 2, size := leAt b 8 4, nops := leAt b 12 2, ntens := leAt b 14 2, nprog := leAt b 16 2,
    nblob := leAt b 18 2, ops := leAt b 20 4, tens := leAt b 24 4, prog := leAt b 28 4, blob := leAt b 32 4,
    npool := leAt b 36 2, ntsl := leAt b 38 2, pools := leAt b 40 4, tsls := leAt b 44 4 }

/-- HASH, bytes 64 to 95. -/
def bHash (b : List Byte) : List Byte := sliceBytes b 64 32

/-- Extents of the sections that occupy bytes: offset and length (R192). -/
def sectionExtents (h : BHeader) : List (Nat × Nat) :=
  [(h.ops, 128 * h.nops), (h.tens, 64 * h.ntens), (h.prog, 528 * h.nprog), (h.blob, 16 * h.nblob),
   (h.pools, 16 * h.npool), (h.tsls, 8 * h.ntsl)].filter fun e => e.2 != 0

/-- Offset and length of a blob. -/
def bBlobExtent (b : List Byte) (h : BHeader) (i : Nat) : Nat × Nat :=
  (leAt b (h.blob + 16 * i) 8, leAt b (h.blob + 16 * i + 8) 8)

/-- Extents of the blobs that occupy bytes. -/
def blobExtents (b : List Byte) (h : BHeader) : List (Nat × Nat) :=
  ((List.range h.nblob).map (bBlobExtent b h)).filter fun e => e.2 != 0

/-- The bytes of a blob; none beyond the directory. -/
def bBlob (b : List Byte) (i : Nat) : List Byte :=
  let h := bHeader b
  if i < h.nblob then
    let e := bBlobExtent b h i
    (b.drop e.1).take e.2
  else []

/-- The checks of R192 that precede the hash. -/
def headerReadable (b : List Byte) : Bool :=
  let h := bHeader b
  decide (128 ≤ b.length) && (leAt b 0 4 == 0x3142_5650) && (leAt b 4 2 == 1) && (h.size == b.length) &&
    (sectionExtents h ++ blobExtents b h).all fun e => decide (e.1 + e.2 ≤ h.size)

/-- The content hash matches (Table 6.4, step 1). -/
def hashMatches (b : List Byte) : Bool := sha3Short (b.take 64 ++ b.drop 128) == bHash b

/-- No two extents of a list overlap. -/
def disjointExtents : List (Nat × Nat) → Bool
  | [] => true
  | e :: rest => (rest.all fun x => decide (e.1 + e.2 ≤ x.1) || decide (x.1 + x.2 ≤ e.1)) && disjointExtents rest

/-- The remaining header checks of R192. -/
def headerSound (b : List Byte) : Bool :=
  let h := bHeader b
  let ex := sectionExtents h ++ blobExtents b h
  decide (h.q ≤ 24) && decide (1 ≤ h.nops) && decide (h.nops ≤ 4096) && decide (1 ≤ h.ntens) &&
    decide (h.ntens ≤ 4096) && decide (h.nprog ≤ 4095) && decide (h.npool ≤ 1024) && decide (h.ntsl ≤ 4096) &&
    (ex.all fun e => decide (e.1 % 64 = 0)) && disjointExtents ((0, 128) :: ex) &&
    (leNat (sliceBytes b 48 16) == 0) && (leNat (sliceBytes b 96 32) == 0)

/-! ### Records -/

/-- A tensor record (Table 8.2). -/
structure Tens where
  nb : Nat
  h : Nat
  w : Nat
  c : Nat
  fmt : Nat
  layout : Nat
  rowScale : Int
  imageClass : Bool
  recurrent : Bool
  inDram : Bool
  fixed : Bool
  codec : Nat
  init : Nat
deriving DecidableEq, Repr

/-- A tensor record of the table. -/
def bTens (b : List Byte) (i : Nat) : Tens :=
  let o := (bHeader b).tens + 64 * i
  let f := leAt b (o + 11) 1
  { nb := leAt b o 2, h := leAt b (o + 2) 2, w := leAt b (o + 4) 2, c := leAt b (o + 6) 2, fmt := leAt b (o + 8) 1,
    layout := leAt b (o + 9) 1, rowScale := signedOf 8 (leAt b (o + 10) 1), imageClass := f.testBit 0,
    recurrent := f.testBit 1, inDram := f.testBit 2, fixed := f.testBit 3, codec := leAt b (o + 12) 1,
    init := leAt b (o + 16) 4 }

/-- Reserved bits and ranges of a tensor record, and the FIXED size of a box list (R193, R440). -/
def tensRecordSound (b : List Byte) (i : Nat) : Bool :=
  let o := (bHeader b).tens + 64 * i
  let t := bTens b i
  decide (1 ≤ t.nb) && decide (t.nb ≤ 4096) && decide (1 ≤ t.c) && decide (t.c ≤ 16384) &&
    (if t.fixed then decide (1 ≤ t.h) && decide (1 ≤ t.w) else t.h == 0 && t.w == 0) &&
    decide (t.layout ≤ 4) && (if t.layout = 4 then decide (t.fmt ≤ 13) && t.nb == 1 && t.c == (if t.fmt = 13 then 4 else 3)
      else decide (t.fmt ≤ 7)) && (t.layout != 2 || t.fixed) &&
    decide (-3 ≤ t.rowScale) && decide (t.rowScale ≤ 4) && (leAt b (o + 11) 1 < 16) && decide (t.codec ≤ 4) &&
    (leAt b (o + 13) 3 == 0) && (leNat (sliceBytes b (o + 20) 44) == 0) &&
    (t.init == 0xFFFF_FFFF || decide (t.init < (bHeader b).nblob))

/-- A program record (R194). -/
structure Prog where
  count : Nat
  pool : Nat
  retention : Nat
  words : List Dword
deriving DecidableEq, Repr

/-- A program of the table. -/
def bProg (b : List Byte) (i : Nat) : Prog :=
  let o := (bHeader b).prog + 528 * i
  { count := leAt b o 2, pool := leAt b (o + 4) 2, retention := leAt b (o + 6) 2,
    words := (List.range (min (leAt b o 2) 64)).map fun k => BitVec.ofNat 64 (leAt b (o + 16 + 8 * k) 8) }

/-- Count and reserved bytes of a program record (R194). The instruction area beyond the count must be 0 (DESIGN CHOICE, entry 84). -/
def progRecordSound (b : List Byte) (i : Nat) : Bool :=
  let o := (bHeader b).prog + 528 * i
  let n := leAt b o 2
  decide (1 ≤ n) && decide (n ≤ 64) && (leAt b (o + 2) 2 == 0) && (leNat (sliceBytes b (o + 8) 8) == 0) &&
    (leNat (sliceBytes b (o + 16 + 8 * n) (512 - 8 * n)) == 0)

/-- A pool of the table (R195): UNIT and CAPACITY. -/
def bPool (b : List Byte) (i : Nat) : Nat × Nat :=
  let o := (bHeader b).pools + 16 * i
  (leAt b o 4, leAt b (o + 4) 2)

/-- Ranges of a pool record (R195). -/
def poolRecordSound (b : List Byte) (i : Nat) : Bool :=
  let (u, c) := bPool b i
  let o := (bHeader b).pools + 16 * i
  decide (64 ≤ u) && decide (u ≤ 16 * 2 ^ 20) && decide (u % 64 = 0) && decide (1 ≤ c) &&
    (leNat (sliceBytes b (o + 6) 10) == 0)

/-- A Turnstile declaration (R196). -/
structure TslDecl where
  virt : Nat
  kind : Nat
  dir : Nat
  tensor : Nat
deriving DecidableEq, Repr

/-- A declaration of the table. -/
def bTsl (b : List Byte) (i : Nat) : TslDecl :=
  let o := (bHeader b).tsls + 8 * i
  { virt := leAt b o 2, kind := leAt b (o + 2) 1, dir := leAt b (o + 3) 1, tensor := leAt b (o + 4) 2 }

/-- Every declaration. -/
def bTsls (b : List Byte) : List TslDecl := (List.range (bHeader b).ntsl).map (bTsl b)

/-- Ranges of a declaration (R196). -/
def tslRecordSound (b : List Byte) (i : Nat) : Bool :=
  let h := bHeader b
  let t := bTsl b i
  decide (t.virt < 4096) && decide (t.kind ≤ 3) && (if t.kind = 2 then decide (t.dir ≤ 3) else t.dir == 0) &&
    (if t.kind = 1 ∨ t.kind = 2 then decide (t.tensor < h.ntens) else t.tensor == 0xFFFF) &&
    (leAt b (h.tsls + 8 * i + 6) 2 == 0)

/-- An op record (Table 8.3). -/
structure Op where
  ix : Nat
  opcode : Nat
  form : Nat
  frameScope : Bool
  conv : Nat
  quant : Nat
  seed : Dword
  lo : Nat
  hi : Nat
  ins : List Nat               -- IN0 to IN3; 0xFFFF for none
  out0 : Nat
  out1 : Nat
  wprog : Nat
  cbprog : Nat
  scprog : Nat
  retPool : Nat
  retUnits : Nat
  ivprog : Nat
  order : List Byte
  params : List Byte           -- bytes 80 to 127
deriving DecidableEq, Repr

/-- An op of the table. -/
def bOp (b : List Byte) (i : Nat) : Op :=
  let r := sliceBytes b ((bHeader b).ops + 128 * i) 128
  { ix := i, opcode := leAt r 0 2, form := leAt r 2 1, frameScope := (leAt r 3 1).testBit 0, conv := leAt r 4 4,
    quant := leAt r 8 4, seed := BitVec.ofNat 64 (leAt r 16 8), lo := leAt r 24 4, hi := leAt r 28 4,
    ins := [leAt r 32 2, leAt r 34 2, leAt r 36 2, leAt r 38 2], out0 := leAt r 40 2, out1 := leAt r 42 2,
    wprog := leAt r 44 2, cbprog := leAt r 46 2, scprog := leAt r 48 2, retPool := leAt r 50 2,
    retUnits := leAt r 52 2, ivprog := leAt r 54 2, order := sliceBytes r 56 24, params := sliceBytes r 80 48 }

/-- Every op, in table order. -/
def bOps (b : List Byte) : List Op := (List.range (bHeader b).nops).map (bOp b)

/-- Byte n of an op record, for n from 80. -/
def Op.p8 (o : Op) (n : Nat) : Nat := leAt o.params (n - 80) 1

/-- u16 at byte n of an op record. -/
def Op.p16 (o : Op) (n : Nat) : Nat := leAt o.params (n - 80) 2

/-- u32 at byte n of an op record. -/
def Op.p32 (o : Op) (n : Nat) : Nat := leAt o.params (n - 80) 4

/-- Input k of an op, where it names a tensor. -/
def Op.inp (o : Op) (k : Nat) : Option Nat :=
  let t := o.ins.getD k 0xFFFF
  if t = 0xFFFF then none else some t

/-- Tensors that an op reads. -/
def Op.reads (o : Op) : List Nat := o.ins.filter fun t => t != 0xFFFF

/-- Tensors that an op writes. -/
def Op.writes (o : Op) : List Nat := [o.out0, o.out1].filter fun t => t != 0xFFFF

/-- Programs that an op names: weight, codebook, scale and initial-value streams. -/
def Op.progs (o : Op) : List Nat := [o.wprog, o.cbprog, o.scprog, o.ivprog].filter fun t => t != 0xFFFF

/-- The op that writes a tensor, if one does. -/
def writerOf (b : List Byte) (t : Nat) : Option Op := (bOps b).find? fun o => o.writes.contains t

/-- Opcodes of Table 8.5. -/
inductive OpName where
  | conv | pool | cropResize | argmax | resize | eltwise | lut | convert | concat | spaceDepth | warp | motion
  | input | output | track
deriving DecidableEq, Repr

/-- The name of an opcode; none where it is reserved (R200). -/
def opName : Nat → Option OpName
  | 0x0001 => some .conv
  | 0x0010 => some .pool
  | 0x0011 => some .cropResize
  | 0x0012 => some .argmax
  | 0x0013 => some .resize
  | 0x0020 => some .eltwise
  | 0x0021 => some .lut
  | 0x0022 => some .convert
  | 0x0023 => some .concat
  | 0x0024 => some .spaceDepth
  | 0x0025 => some .warp
  | 0x0030 => some .motion
  | 0x0040 => some .input
  | 0x0041 => some .output
  | 0x0050 => some .track
  | _ => none

/-- Whether Table 8.5 marks the CONV word used. -/
def OpName.usesConv : OpName → Bool
  | .conv | .eltwise | .lut | .convert | .warp | .input | .output => true
  | .pool | .cropResize | .argmax | .resize | .concat | .spaceDepth | .motion | .track => false

/-! ### Sizes and rows -/

/-- What is known of the height and width of each tensor: at admission only FIXED sizes, at binding all (R436). -/
abbrev Sizes := Nat → Option (Nat × Nat)

/-- Sizes at admission. -/
def fixedSizes (b : List Byte) : Sizes := fun i =>
  let t := bTens b i
  if t.fixed then some (t.h, t.w) else none

/-- A length scaled by 2^r, where it is whole (R436). -/
def scaleLen (n : Nat) (r : Int) : Option Nat :=
  if 0 ≤ r then some (n * 2 ^ r.toNat)
  else if n % 2 ^ (-r).toNat = 0 then some (n / 2 ^ (-r).toNat) else none

/-- Sizes at binding, for a region or half of w by h (R436). -/
def boundSizes (b : List Byte) (w h : Nat) : Sizes := fun i =>
  let t := bTens b i
  if t.fixed then some (t.h, t.w)
  else match scaleLen h t.rowScale, scaleLen w t.rowScale with
    | some y, some x => some (y, x)
    | _, _ => none

/-- Formats of EFMT that are integers: INT8, INT16 and INT32 (Table 7.5). -/
def fmtIsInt (f : Nat) : Bool := f == 0 || f == 3 || f == 6

/-- Bytes of an element of EFMT. -/
def fmtBytes : Nat → Nat
  | 0 => 1
  | 1 => 1
  | 2 => 1
  | 3 => 2
  | 4 => 2
  | 5 => 2
  | _ => 4

/-- A picture format with chroma planes: the YUV rows of Table 0.8. -/
def pixIsYuv (p : Nat) : Bool := decide (p < 10)

/-- Bits per component of a picture format (Table 0.8). -/
def pixDepth : Nat → Nat
  | 0 => 8 | 1 => 10 | 2 => 8 | 3 => 10 | 4 => 8 | 5 => 10 | 6 => 8 | 7 => 10 | 8 => 8 | 9 => 10
  | 10 => 8 | 11 => 10 | 12 => 12 | _ => 16

/-- Horizontal and vertical chroma subsampling of a picture format. -/
def pixSub (p : Nat) : Nat × Nat := if p < 4 then (2, 2) else if p < 8 then (2, 1) else (1, 1)

/-- Height and width of a component plane of a picture of h by w (R214). -/
def planeSize (p c h w : Nat) : Nat × Nat :=
  if c = 0 ∨ ¬ pixIsYuv p then (h, w) else (ceilDiv h (pixSub p).2, ceilDiv w (pixSub p).1)

end Sys2Proof.Machine
end

