-- ==== Sys2Proof/Machine/OpCheck.lean ====
section
/-! DEFINITION. Admission checks of the Juggler and Motion Engine ops (R193, R200, R208 to R222, R440), and their checks of sizes, with
those that are known at the time: FIXED ones at admission, all of them at binding (R436). -/

namespace Sys2Proof.Machine

/-- Bytes 80 to 127 outside the listed ranges (first byte, count) are 0 (R200). -/
def Op.restZero (o : Op) (used : List (Nat × Nat)) : Bool :=
  (List.range 48).all fun i =>
    (used.any fun u => decide (u.1 ≤ 80 + i) && decide (80 + i < u.1 + u.2)) || o.p8 (80 + i) == 0

/-- A relation of sizes holds where both are known. -/
def sizesRel (a b : Option (Nat × Nat)) (p : Nat × Nat → Nat × Nat → Bool) : Bool :=
  match a, b with
  | some x, some y => p x y
  | _, _ => true

/-- Equal sizes where both are known. -/
def sizesEq (a b : Option (Nat × Nat)) : Bool := sizesRel a b fun x y => x == y

/-- A size satisfies a test where it is known. -/
def sizeOk (a : Option (Nat × Nat)) (p : Nat × Nat → Bool) : Bool :=
  match a with
  | some x => p x
  | none => true

/-- A check that R436 makes where the size of every tensor of a list is known: at admission where they are FIXED, else at binding. -/
def whenKnown (sz : Sizes) (ts : List Nat) (ok : Bool) : Bool := !(ts.all fun t => (sz t).isSome) || ok

/-- The signed value of a byte. -/
def s8 (n : Nat) : Int := signedOf 8 n

/-- An op has its first n inputs and no others, some number of outputs, and an OUT0. -/
def Op.only (o : Op) (n outs : Nat) : Bool :=
  ((List.range 4).all fun k => (o.inp k).isSome == decide (k < n)) && o.writes.length == outs && (o.out0 != 0xFFFF)

/-- Elements that a track table needs: seven for each of 256 slots, and the identifier counter. DESIGN CHOICE, entry 83. -/
def trackElems : Nat := 256 * 7 + 1

/-- Checks at step 3 of one Juggler or Motion Engine op that no size decides; true for every other op. -/
def jugglerOpOk (b : List Byte) (o : Op) : Bool :=
  let t0 := bTens b (o.ins.getD 0 0xFFFF)
  let t1 := bTens b (o.ins.getD 1 0xFFFF)
  let u := bTens b o.out0
  match opName o.opcode with
  | some .eltwise =>
    o.only 2 1 && o.restZero [(80, 3)] && decide (o.p8 80 ≤ 4) && decide (-16 ≤ s8 (o.p8 81)) &&
      decide (s8 (o.p8 81) ≤ 15) && decide (-16 ≤ s8 (o.p8 82)) && decide (s8 (o.p8 82) ≤ 15) &&
      t0.nb == t1.nb && t0.c == t1.c
  | some .lut => o.only 2 1 && o.restZero [] && (t0.fmt == 0 || t0.fmt == 3) && t1.layout == 3 && t1.fmt == 6
  | some .convert => o.only 1 1 && o.restZero []
  | some .concat =>
    o.restZero [] && o.writes.length == 1 && !o.reads.isEmpty && o.reads.all fun t => (bTens b t).fmt == u.fmt
  | some .spaceDepth => o.only 1 1 && o.restZero [(80, 2)] && (o.p8 80 == 2 || o.p8 80 == 3 || o.p8 80 == 4) && decide (o.p8 81 ≤ 1)
  | some .warp => o.only 2 1 && o.restZero []
  | some .motion =>
    o.only 2 1 && o.restZero [(80, 3)] && decide (1 ≤ o.p16 80) && decide (o.p16 80 ≤ 256) && decide (o.p8 82 ≤ 1) &&
      t0.fmt == 3 && t1.fmt == 3 && t0.layout == 0 && t1.layout == 0 && t0.c == 1 && t1.c == 1 && t0.nb == t1.nb &&
      u.fmt == 3 && u.layout == 0
  | some .input =>
    let p := o.p8 80
    o.only 1 1 && o.restZero [(80, 4)] && decide (p ≤ 13) && decide (o.p8 81 ≤ 1) && (o.p8 81 == 0 || pixIsYuv p) &&
      t0.layout == 4 && t0.fmt == p && t0.nb == 1 && u.nb == 1
  | some .output =>
    let p := o.p8 80
    o.only (if pixIsYuv p then 2 else 1) 1 && o.restZero [(80, 1), (82, 2)] && decide (p ≤ 13) && u.layout == 4 &&
      u.fmt == p && t0.nb == 1 && u.nb == 1 && (o.conv % 16 == if p = 13 then 6 else 2) &&
      t0.c == (if pixIsYuv p then 1 else if p = 13 then 4 else 3) && (!pixIsYuv p || (t1.nb == 1 && t1.c == 2))
  | some .track =>
    o.only 2 2 && o.restZero [(80, 18)] && o.frameScope && t0.fmt == 7 && decide (5 ≤ t0.c) && o.ins.getD 1 0 == o.out1 &&
      t1.recurrent && t1.fixed && t1.fmt == 6 && u.layout == 2 && decide (o.p8 96 ≤ 8) && decide (1 ≤ o.p8 97)
  | some .conv => true
  | some .pool => true
  | some .cropResize => true
  | some .argmax => true
  | some .resize => true
  | none => false

/-- Size rules of one Juggler or Motion Engine op (R208, R209, R211 to R213, R215, R216, R219; R436, item 2); true for every other op. -/
def jugglerShapeOk (b : List Byte) (sz : Sizes) (o : Op) : Bool :=
  let i0 := o.ins.getD 0 0xFFFF
  let i1 := o.ins.getD 1 0xFFFF
  let t0 := bTens b i0
  let t1 := bTens b i1
  let u := bTens b o.out0
  let z0 := sz i0
  let z1 := sz i1
  let zu := sz o.out0
  match opName o.opcode with
  | some .eltwise => sizesRel z0 z1 fun x y => x == y || y == (1, 1)
  | some .lut => sizeOk z1 fun y => t1.nb * y.1 * y.2 * t1.c == if t0.fmt = 0 then 256 else 1025
  | some .concat => whenKnown sz (o.out0 :: o.reads) ((o.reads.all fun t => (bTens b t).nb == u.nb && sizesEq (sz t) zu) &&
      ((o.reads.map fun t => (bTens b t).c).sum == u.c))
  | some .spaceDepth =>
    let f := o.p8 80
    let down := o.p8 81 == 1
    let lg : Int := if f = 4 then 2 else 1
    whenKnown sz [i0, o.out0] (t0.nb == u.nb && t0.fmt == u.fmt &&
      (if down then u.c == t0.c * f * f && sizesRel z0 zu fun x y => x.1 == y.1 * f && x.2 == y.2 * f
       else t0.c == u.c * f * f && sizesRel z0 zu fun x y => y.1 == x.1 * f && y.2 == x.2 * f) &&
      (if f = 3 then t0.fixed && u.fixed else u.rowScale == if down then t0.rowScale - lg else t0.rowScale + lg))
  | some .warp => sizesRel z0 z1 fun x y => y == (ceilDiv x.1 8, ceilDiv x.2 8)
  | some .motion => sizesEq z0 z1 && sizeOk z0 fun x => decide (8 ≤ x.1) && decide (x.1 ≤ 8192) && decide (8 ≤ x.2) && decide (x.2 ≤ 8192)
  | some .output => !pixIsYuv (o.p8 80) || sizesRel z1 zu fun x y => x == planeSize (o.p8 80) 1 y.1 y.2
  | some .track => (sizeOk z0 fun x => decide (t0.nb * x.1 * x.2 ≤ 65536)) && sizeOk z1 fun x => decide (trackElems ≤ t1.nb * x.1 * x.2 * t1.c)
  | _ => true

/-- H, W, C and Nb of what a Juggler or Motion Engine op writes, as its rule gives them (R436, item 3); true for every other op. -/
def jugglerWrittenOk (b : List Byte) (sz : Sizes) (o : Op) : Bool :=
  let i0 := o.ins.getD 0 0xFFFF
  let t0 := bTens b i0
  let u := bTens b o.out0
  let z0 := sz i0
  let zu := sz o.out0
  let same : Bool := whenKnown sz [i0, o.out0] (u.nb == t0.nb && u.c == t0.c && sizesEq z0 zu)
  match opName o.opcode with
  | some .eltwise => same
  | some .lut => same
  | some .convert => same
  | some .warp => same
  | some .motion => whenKnown sz [i0, o.out0] (u.nb == t0.nb && u.c == 5 && sizesRel z0 zu fun x y => y == (ceilDiv x.1 8, ceilDiv x.2 8))
  | some .input =>
    let p := o.p8 80
    whenKnown sz [i0, o.out0] (u.c == (if pixIsYuv p then (if o.p8 81 = 0 then 1 else 2) else if p = 13 then 4 else 3) &&
      sizesRel z0 zu fun x y => y == planeSize p (o.p8 81) x.1 x.2)
  | some .output => sizesEq z0 zu
  | _ => true

/-- No op but INPUT reads a picture tensor, and none but OUTPUT writes one (R440). -/
def pictureUseOk (b : List Byte) (o : Op) : Bool :=
  let isPic (t : Nat) : Bool := (bTens b t).layout == 4
  match opName o.opcode with
  | some .input => o.writes.all fun t => !isPic t
  | some .output => o.reads.all fun t => !isPic t
  | _ => (o.reads ++ o.writes).all fun t => !isPic t

/-- Reserved fields of the op record, the fields that only CONV uses, and the FIXED outputs of a frame-scope op (R193, R197, R200). -/
def opRecordOk (b : List Byte) (o : Op) : Bool :=
  let r := sliceBytes b ((bHeader b).ops + 128 * o.ix) 128
  let h := bHeader b
  match opName o.opcode with
  | none => false
  | some n =>
    (leAt r 3 1 < 2) && (leAt r 12 4 == 0) && decide (o.retPool < 1024) &&
      ((o.reads ++ o.writes).all fun t => decide (t < h.ntens)) &&
      (o.progs.all fun p => decide (p < h.nprog)) &&
      (o.retUnits == 0 || decide (o.retPool < h.npool)) &&
      (n.usesConv || (o.conv == 0 && o.lo == 0 && o.hi == 0)) &&
      (n == .conv || (o.form == 0 && o.quant == 0 && o.progs.isEmpty)) &&
      (!o.frameScope || o.writes.all fun t => (bTens b t).fixed)

end Sys2Proof.Machine
end

