-- ==== Sys2Proof/Machine/Juggler.lean ====
section
/-! DEFINITION. What the Juggler ops and the Motion Engine compute (R207 to R222), element by element over readers of
their input tensors. -/

namespace Sys2Proof.Machine

/-- What an op reads: elements of a tensor by (n, y, x, c) as raw encodings, its size (Nb, H, W, C), and its format;
and the frame step that the stripe serves (R89). -/
structure OpEnv where
  rd : Nat → Nat → Nat → Nat → Nat → Nat
  dim : Nat → Nat × Nat × Nat × Nat
  fmt : Nat → Fmt
  step : Dword

/-- Element i of a tensor in linear order. -/
def OpEnv.rdLin (e : OpEnv) (t i : Nat) : Nat :=
  let (_, h, w, c) := e.dim t
  e.rd t (i / (h * w * c)) (i / (w * c) % h) (i / c % w) (i % c)

/-- The value of an element. -/
def OpEnv.val (e : OpEnv) (t n y x c : Nat) : Num := decodeNum (e.fmt t) (e.rd t n y x c)

/-- The op's CONV converter at an element of OUT0 (R207). -/
def Op.convertAt (o : Op) (step : Dword) (n c y x : Nat) (v : Num) : Conv :=
  converter o.conv o.lo o.hi (dither24 o.seed step o.ix n c y x) v

/-- A copied element. -/
def copied (raw : Nat) : Conv := { raw := raw, sat := false, nan := false }

/-! ### Element-wise ops -/

/-- MAX or MIN of two binary32 values: a NaN gives the canonical NaN, and +0 ranks above −0 (R208). -/
def maxMin32 (isMax : Bool) (a b : Nat) : Nat :=
  match f32 a, f32 b with
  | .nan, _ => 0x7FC0_0000
  | _, .nan => 0x7FC0_0000
  | x, y =>
    let aBelow := ltNum x y || (!ltNum y x && decide (2 ^ 31 ≤ a) && decide (b < 2 ^ 31))
    if isMax then (if aBelow then b else a) else (if aBelow then a else b)

/-- ELTWISE (R208): the result before conversion. -/
def eltwiseVal (o : Op) (fa fb : Fmt) (ra rb : Nat) : Num :=
  let fn := o.p8 80
  let sa := s8 (o.p8 81)
  let sb := s8 (o.p8 82)
  if fa.isInt && fb.isInt then
    let a := scaleNum (decodeNum fa ra) (-sa)
    let b := scaleNum (decodeNum fb rb) (-sb)
    match fn with
    | 0 => addNum a b
    | 1 => addNum a (negNum b)
    | 2 => mulNum a b
    | 3 => if ltNum a b then b else a
    | _ => if ltNum b a then b else a
  else
    let a := toF32 (scaleNum (f32 (widen fa ra)) (-sa))
    let b := toF32 (scaleNum (f32 (widen fb rb)) (-sb))
    f32 (match fn with
      | 0 => add32 a b
      | 1 => sub32 a b
      | 2 => mul32 a b
      | 3 => maxMin32 true a b
      | _ => maxMin32 false a b)

/-- LUT (R209). -/
def lutVal (e : OpEnv) (t0 t1 raw : Nat) : Num :=
  let entry (i : Nat) : Int := signedOf 32 (e.rdLin t1 i)
  if e.fmt t0 = .int8 then numOfInt (entry (signedOf 8 raw + 128).toNat)
  else
    let p := (signedOf 16 raw + 32768).toNat
    let i := p / 64
    let f := p % 64
    let v := entry i * 64 + (entry (i + 1) - entry i) * (f : Int)
    .fin (decide (v < 0)) v.natAbs 64

/-- The input of CONCAT that holds an output channel, and its channel there (R211). -/
def concatSource (e : OpEnv) : List Nat → Nat → Option (Nat × Nat)
  | [], _ => none
  | t :: rest, c =>
    let n := (e.dim t).2.2.2
    if c < n then some (t, c) else concatSource e rest (c - n)

/-- Bilinear weights and samples of a quarter-pel position (R213): the top-left sample and the fractions. -/
def quarterPos (p d : Int) : Int × Nat := ((4 * p + d) / 4, ((4 * p + d) % 4).toNat)

/-- A coordinate clamped to 0 .. n − 1. -/
def clampIx (n : Nat) (v : Int) : Nat := (clampInt 0 ((n : Int) - 1) v).toNat

/-- WARP (R213). -/
def warpVal (e : OpEnv) (t0 t1 n y x c : Nat) : Num :=
  let (_, h, w, _) := e.dim t0
  let dx := signedOf 16 (e.rd t1 n (y / 8) (x / 8) 0)
  let dy := signedOf 16 (e.rd t1 n (y / 8) (x / 8) 1)
  let (x0, ax) := quarterPos x dx
  let (y0, ay) := quarterPos y dy
  let s (j i : Int) : Nat := e.rd t0 n (clampIx h (y0 + j)) (clampIx w (x0 + i)) c
  let f := e.fmt t0
  let w00 := (4 - ax) * (4 - ay)
  let w01 := ax * (4 - ay)
  let w10 := (4 - ax) * ay
  let w11 := ax * ay
  if f.isInt then
    let g (raw : Nat) : Int := signedOf f.intBits raw
    let v := (w00 : Int) * g (s 0 0) + (w01 : Int) * g (s 0 1) + (w10 : Int) * g (s 1 0) + (w11 : Int) * g (s 1 1)
    .fin (decide (v < 0)) v.natAbs 16
  else
    let p (wk raw : Nat) : Nat := mul32 (toF32 (numOfInt wk)) (widen f raw)
    f32 (mul32 (add32 (add32 (p w00 (s 0 0)) (p w01 (s 0 1))) (add32 (p w10 (s 1 0)) (p w11 (s 1 1))))
      (toF32 (.fin false 1 16)))

/-- A picture sample of a plane as INPUT takes it (R214). -/
def inputVal (e : OpEnv) (o : Op) (t y x c : Nat) : Num :=
  let p := o.p8 80
  let comp := if pixIsYuv p ∧ o.p8 81 = 1 then c + 1 else c
  let raw := e.rd t 0 y x comp
  if p = 13 then f32 (widen .fp16 raw) else numOfInt ((raw : Int) - (o.p16 82 : Int))

/-- A picture sample that OUTPUT writes for component k at row y and column x of its plane (R215): the sample and
whether it counts as saturated. -/
def outputSample (e : OpEnv) (o : Op) (k y x : Nat) : Conv :=
  let p := o.p8 80
  let chroma := pixIsYuv p && decide (0 < k)
  let t := o.ins.getD (if chroma then 1 else 0) 0
  let c := if chroma then k - 1 else k
  let r := o.convertAt e.step 0 k y x (e.val t 0 y x c)
  if p = 13 then r
  else
    let v := signedOf 32 r.raw + (o.p16 82 : Int)
    let m := clampInt 0 (2 ^ pixDepth p - 1) v
    { raw := m.toNat, sat := r.sat || decide (m ≠ v), nan := r.nan }

/-- One output element of a Juggler op that computes element by element: OUT0 at (n, y, x, c). -/
def jugglerElem (e : OpEnv) (o : Op) (n y x c : Nat) : Conv :=
  let t0 := o.ins.getD 0 0
  let t1 := o.ins.getD 1 0
  match opName o.opcode with
  | some .eltwise =>
    let (_, h1, w1, _) := e.dim t1
    let (y1, x1) := if h1 = 1 ∧ w1 = 1 then (0, 0) else (y, x)
    o.convertAt e.step n c y x (eltwiseVal o (e.fmt t0) (e.fmt t1) (e.rd t0 n y x c) (e.rd t1 n y1 x1 c))
  | some .lut => o.convertAt e.step n c y x (lutVal e t0 t1 (e.rd t0 n y x c))
  | some .convert => o.convertAt e.step n c y x (e.val t0 n y x c)
  | some .concat =>
    match concatSource e o.reads c with
    | some (t, k) => copied (e.rd t n y x k)
    | none => copied 0
  | some .spaceDepth =>
    let f := o.p8 80
    if o.p8 81 = 0 then copied (e.rd t0 n (y / f) (x / f) (c * f * f + (y % f) * f + x % f))
    else copied (e.rd t0 n (y * f + (c % (f * f)) / f) (x * f + c % f) (c / (f * f)))
  | some .warp => o.convertAt e.step n c y x (warpVal e t0 t1 n y x c)
  | some .input => o.convertAt e.step n c y x (inputVal e o t0 y x c)
  | some .output => outputSample e o c y x
  | _ => copied 0

/-! ### The Motion Engine (R219 to R222) -/

/-- A plane of samples: height, width and a reader that clamps to the edge. -/
structure Plane where
  h : Nat
  w : Nat
  at_ : Int → Int → Int

/-- Level 0 of a tensor. -/
def basePlane (e : OpEnv) (t n : Nat) : Plane :=
  let (_, h, w, _) := e.dim t
  { h := h, w := w, at_ := fun y x => signedOf 16 (e.rd t n (clampIx h y) (clampIx w x) 0) }

/-- The next coarser level (R219). -/
def coarser (p : Plane) : Plane :=
  let h := ceilDiv p.h 2
  let w := ceilDiv p.w 2
  { h := h, w := w, at_ := fun y x =>
      let yy : Int := (clampIx h y : Int)
      let xx : Int := (clampIx w x : Int)
      (p.at_ (2 * yy) (2 * xx) + p.at_ (2 * yy) (2 * xx + 1) + p.at_ (2 * yy + 1) (2 * xx) +
        p.at_ (2 * yy + 1) (2 * xx + 1) + 2) / 4 }

/-- The sum of absolute differences of block (by, bx) over its 64 samples, with the reference sample of a current
position given. -/
def sad (cur : Plane) (blkY blkX : Nat) (ref : Int → Int → Int) : Nat :=
  (List.range 64).foldl (fun acc i =>
    let y : Int := (8 * blkY + i / 8 : Nat)
    let x : Int := (8 * blkX + i % 8 : Nat)
    acc + (cur.at_ y x - ref y x).natAbs) 0

/-- A full-pel reference sample. -/
def fullPel (ref : Plane) (v : Int × Int) (y x : Int) : Int := ref.at_ (y + v.2) (x + v.1)

/-- A quarter-pel reference sample, with the weights of R213 rounded by 8 (R220). -/
def quarterPel (ref : Plane) (v : Int × Int) (y x : Int) : Int :=
  let (x0, ax) := quarterPos x v.1
  let (y0, ay) := quarterPos y v.2
  (((4 - ax) * (4 - ay) : Nat) * ref.at_ y0 x0 + ((ax * (4 - ay) : Nat) : Int) * ref.at_ y0 (x0 + 1) +
    (((4 - ax) * ay : Nat) : Int) * ref.at_ (y0 + 1) x0 + ((ax * ay : Nat) : Int) * ref.at_ (y0 + 1) (x0 + 1) + 8) / 16

/-- A vector with each component clamped. -/
def clampVec (m : Int) (v : Int × Int) : Int × Int := (clampInt (-m) m v.1, clampInt (-m) m v.2)

/-- Whether a costed vector is preferred to another (R220): least cost, then smaller |vx| + |vy|, then smaller vy, then
smaller vx. -/
def preferred (a b : Nat × (Int × Int)) : Bool :=
  let na := a.2.1.natAbs + a.2.2.natAbs
  let nb := b.2.1.natAbs + b.2.2.natAbs
  if a.1 ≠ b.1 then decide (a.1 < b.1)
  else if na ≠ nb then decide (na < nb)
  else if a.2.2 ≠ b.2.2 then decide (a.2.2 < b.2.2) else decide (a.2.1 < b.2.1)

/-- The best of candidate vectors under a cost; (0, 0) at no cost for an empty list. -/
def bestVec (cost : Int × Int → Nat) : List (Int × Int) → Nat × (Int × Int)
  | [] => (0, (0, 0))
  | v :: rest => rest.foldl (fun acc u => let c := (cost u, u); if preferred c acc then c else acc) (cost v, v)

/-- The integers from −m to m. -/
def span (m : Nat) : List Int := (List.range (2 * m + 1)).map fun (i : Nat) => (i : Int) - (m : Int)

/-- Vectors within ±m of a start in each component, clamped. -/
def around (start : Int × Int) (m : Nat) (bound : Int) : List (Int × Int) :=
  (span m).flatMap fun dy => (span m).map fun dx => clampVec bound (start.1 + dx, start.2 + dy)

/-- The search of one level-0 block (R220): the level-0 vector and cost, and the final vector in quarter pels with its
cost. -/
def motionSearch (cur ref : Plane) (r : Nat) (subpel : Bool) (blkY blkX : Nat) :
    (Nat × (Int × Int)) × (Nat × (Int × Int)) :=
  let c1 := coarser cur
  let c2 := coarser c1
  let r1 := coarser ref
  let r2 := coarser r1
  let m2 := ceilDiv r 4
  let v2 := (bestVec (fun v => sad c2 (blkY / 4) (blkX / 4) (fullPel r2 v)) (around (0, 0) m2 m2)).2
  let v1 := (bestVec (fun v => sad c1 (blkY / 2) (blkX / 2) (fullPel r1 v))
    (around (2 * v2.1, 2 * v2.2) 2 (ceilDiv r 2))).2
  let v0 := bestVec (fun v => sad cur blkY blkX (fullPel ref v)) (around (2 * v1.1, 2 * v1.2) 2 r)
  if subpel then
    (v0, bestVec (fun v => sad cur blkY blkX (quarterPel ref v)) (around (4 * v0.2.1, 4 * v0.2.2) 3 (4 * r)))
  else (v0, (v0.1, (4 * v0.2.1, 4 * v0.2.2)))

/-- The confidence of R221: the greatest cost among the eight full-pel neighbours of the level-0 vector. -/
def motionConf (cur ref : Plane) (r blkY blkX : Nat) (v0 : Int × Int) (c1 : Nat) : Nat :=
  let ns := (around v0 1 r).zipIdx.filter fun p => p.2 != 4
  let c2 := ns.foldl (fun m p => max m (sad cur blkY blkX (fullPel ref p.1))) 0
  if c2 = 0 ∨ c2 ≤ c1 then 0 else (255 * (c2 - c1)) / c2

/-- Any reference sample of the final vector lies outside the frame (FLAGS bit 0, R222). A sample is read at a second
column or row only where its weight is not 0. -/
def motionOut (ref : Plane) (blkY blkX : Nat) (v : Int × Int) : Bool :=
  (List.range 64).any fun i =>
    let y : Int := (8 * blkY + i / 8 : Nat)
    let x : Int := (8 * blkX + i % 8 : Nat)
    let (x0, ax) := quarterPos x v.1
    let (y0, ay) := quarterPos y v.2
    decide (x0 < 0) || decide (y0 < 0) || decide ((ref.w : Int) ≤ x0 + (if ax = 0 then 0 else 1)) ||
      decide ((ref.h : Int) ≤ y0 + (if ay = 0 then 0 else 1))

/-- The five channels of one block of the field (R222), and whether its LIMIT flag is set. -/
def motionBlock (e : OpEnv) (o : Op) (n blkY blkX : Nat) : List Nat × Bool :=
  let cur := basePlane e (o.ins.getD 0 0) n
  let ref := basePlane e (o.ins.getD 1 0) n
  let r := o.p16 80
  let (v0, fin) := motionSearch cur ref r (o.p8 82 == 1) blkY blkX
  let v := fin.2
  let conf := motionConf cur ref r blkY blkX v0.2 fin.1
  let limit := decide (v.1.natAbs = 4 * r) || decide (v.2.natAbs = 4 * r)
  let flags := b2n (motionOut ref blkY blkX v) + 2 * b2n limit
  ([bitsOfInt 16 v.1, bitsOfInt 16 v.2, conf, min fin.1 32767, flags], limit)

/-! ### TRACK (R216 to R218) -/

/-- A box: X0, Y0, X1, Y1 in binary32. -/
structure Box where
  x0 : Nat
  y0 : Nat
  x1 : Nat
  y1 : Nat
deriving DecidableEq, Repr

/-- A live track. -/
structure Track where
  id : Int
  age : Int
  miss : Int
  box : Box
deriving DecidableEq, Repr

/-- Area of a box in binary32. -/
def Box.area (b : Box) : Nat := mul32 (sub32 b.x1 b.x0) (sub32 b.y1 b.y0)

/-- IoU of two boxes (R217). -/
def iou (a b : Box) : Nat :=
  let ext (hi1 hi0 lo1 lo0 : Nat) : Nat := maxMin32 true 0 (sub32 (maxMin32 false hi1 hi0) (maxMin32 true lo1 lo0))
  let inter := mul32 (ext a.x1 b.x1 a.x0 b.x0) (ext a.y1 b.y1 a.y0 b.y0)
  let union := sub32 (add32 a.area b.area) inter
  if ltNum (f32 0) (f32 union) then div32 inter union else 0

/-- a ≥ b in binary32. -/
def ge32 (a b : Nat) : Bool := leNum (f32 b) (f32 a)

/-- Insert into a list kept in an order, after equal elements. -/
def insertBy {α : Type} (before : α → α → Bool) (x : α) : List α → List α
  | [] => [x]
  | y :: rest => if before x y then x :: y :: rest else y :: insertBy before x rest

/-- A stable sort. -/
def sortBy {α : Type} (before : α → α → Bool) (l : List α) : List α :=
  l.foldl (fun acc x => insertBy before x acc) []

/-- Suppression (R216, step 2): candidates in order, each kept unless it overlaps one already kept. -/
def suppress (tNms : Nat) (l : List (Nat × Box)) : List (Nat × Box) :=
  l.foldl (fun kept c =>
    if kept.length < 256 && !(kept.any fun k => ge32 (iou c.2 k.2) tNms) then kept ++ [c] else kept) []

/-- Greedy matching (R216, step 3) of slots and kept candidates. -/
def matchTracks (tMatch : Nat) (slots : List (Option Track)) (kept : List (Nat × Box)) : List (Nat × Nat) :=
  let pairs := (slots.zipIdx).flatMap fun s => match s.1 with
    | some t => (kept.zipIdx).filterMap fun k =>
        let v := iou t.box k.1.2
        if ge32 v tMatch then some (v, s.2, k.2) else none
    | none => []
  let sorted := sortBy (fun a b => ltNum (f32 b.1) (f32 a.1)) pairs
  sorted.foldl (fun acc p =>
    if acc.any fun q => q.1 == p.2.1 || q.2 == p.2.2 then acc else acc ++ [(p.2.1, p.2.2)]) []

/-- A coordinate moved toward a detection (R216, step 4). -/
def smooth32 (shift b d : Nat) : Nat := add32 b (mul32 (sub32 d b) (toF32 (.fin false 1 (2 ^ shift))))

/-- Steps 4 and 5 of R216 for one slot. An age counts the frames of a track. -/
def trackStep (o : Op) (kept : List (Nat × Box)) (m : Option Nat) (t : Track) : Option Track :=
  match m with
  | some k =>
    let d := (kept.getD k (0, ⟨0, 0, 0, 0⟩)).2
    let a := o.p8 96
    some { t with age := t.age + 1, miss := 0,
                  box := ⟨smooth32 a t.box.x0 d.x0, smooth32 a t.box.y0 d.y0, smooth32 a t.box.x1 d.x1,
                    smooth32 a t.box.y1 d.y1⟩ }
  | none => if (o.p8 97 : Int) < t.miss + 1 then none else some { t with age := t.age + 1, miss := t.miss + 1 }

/-- Step 6 of R216: unmatched kept candidates start tracks in the lowest free slots, at age 0 (DESIGN CHOICE, entry 83). Answers the slots, the next
identifier and the number dropped. -/
def startTracks (tStart : Nat) : List (Nat × Box) → List (Option Track) → Int → Nat →
    List (Option Track) × Int × Nat
  | [], slots, next, dropped => (slots, next, dropped)
  | c :: rest, slots, next, dropped =>
    if ge32 c.1 tStart then
      match slots.findIdx? (·.isNone) with
      | some i => startTracks tStart rest (slots.set i (some { id := next, age := 0, miss := 0, box := c.2 })) (next + 1) dropped
      | none => startTracks tStart rest slots next (dropped + 1)
    else startTracks tStart rest slots next dropped

/-- What TRACK makes of its candidates (score and box, in raster order, those that are valid boxes) and its slots. -/
def trackAll (o : Op) (cands : List (Nat × Box)) (slots : List (Option Track)) (next : Int) :
    List (Option Track) × Int × Nat :=
  let taken := (sortBy (fun a b => ltNum (f32 b.1) (f32 a.1)) (cands.filter fun c => ge32 c.1 (o.p32 80))).take 4096
  let kept := suppress (o.p32 84) taken
  let ms := matchTracks (o.p32 88) slots kept
  let moved := (slots.zipIdx).map fun s => match s.1 with
    | some t => trackStep o kept ((ms.find? fun p => p.1 == s.2).map Prod.snd) t
    | none => none
  let left := ((kept.zipIdx).filter fun k => !(ms.any fun p => p.2 == k.2)).map Prod.fst
  startTracks (o.p32 92) left moved next 0

end Sys2Proof.Machine
end

