-- ==== Sys2Proof/Machine/Prog.lean ====
section
/-! DEFINITION. Carousel programs: the instructions of Table 7.5, the state that they act on (R167), and the evaluation
of a bundle program over its loops that admission and binding make (R169, R438). -/

namespace Sys2Proof.Machine

/-- The instructions of Table 7.5. -/
inductive CInstr where
  | nop
  | setb (g : Fin 4) (space : Fin 8) (die : DieIx) (base : Nat)
  | sets (g lvl : Fin 4) (stride : Int)
  | setm (g : Fin 4) (rsize : Nat)
  | setc (c : Fin 2) (sel : Nat) (value : Nat)
  | loop (lvl : Fin 4) (count : Nat)
  | endl (lvl : Fin 4)
  | move (src dst : Fin 4) (codec rate efmt istr len : Nat)
  | wait (sub : Bool) (c : Fin 2) (tsl : BitVec 12)
  | sig (remote : Bool) (die : DieIx) (tsl : BitVec 12) (value : Nat)
  | cred (pool units : Nat)
  | ret (pool units : Nat)
  | endp
deriving DecidableEq, Repr

/-- The instruction that a word encodes. Reserved bits are not looked at here. None for a reserved opcode. -/
def decodeC (w : Dword) : Option CInstr :=
  let n := w.toNat
  let f := natBits n
  let g : Fin 4 := Fin.ofNat 4 (f 59 58)
  let lvl : Fin 4 := Fin.ofNat 4 (f 57 56)
  match f 63 60 with
  | 0 => some .nop
  | 1 => some (.setb g (Fin.ofNat 8 (f 57 55)) (Fin.ofNat 8 (f 54 52)) (f 39 0))
  | 2 => some (.sets g lvl (signedOf 40 (f 39 0)))
  | 3 => some (.setm g (f 39 0))
  | 4 => some (.setc (Fin.ofNat 2 (f 59 59)) (f 58 56) (f 30 0))
  | 5 => some (.loop g (f 23 0 + 1))
  | 6 => some (.endl g)
  | 7 => some (.move g lvl (f 55 53) (f 52 51) (f 50 48) (f 47 38 + 1) (f 15 0))
  | 8 => some (.wait (f 59 59 == 1) (Fin.ofNat 2 (f 58 58)) (BitVec.ofNat 12 (f 55 44)))
  | 9 => some (.sig (f 59 59 == 1) (Fin.ofNat 8 (f 58 56)) (BitVec.ofNat 12 (f 55 44)) (f 15 0))
  | 10 => some (.cred (f 59 50) (f 15 0))
  | 11 => some (.ret (f 59 50) (f 15 0))
  | 12 => some .endp
  | _ => none

/-- Bytes of an element of EFMT as a codec takes it. -/
def elemBytes (efmt : Nat) : Nat := fmtBytes efmt

/-- Reserved bits of a word are 0, and every field lies in its range (R168, R169). -/
def wordOk (w : Dword) : Bool :=
  let n := w.toNat
  let z (hi lo : Nat) : Bool := natBits n hi lo == 0
  match decodeC w with
  | none => false
  | some .nop => z 59 0
  | some (.setb _ space die base) =>
    z 51 40 && decide (space.val ≤ 4) && (space.val == 2 || die.val == 0) && base % 64 == 0
  | some (.sets _ _ stride) => z 55 40 && stride % 64 == 0
  | some (.setm _ rsize) => z 57 40 && rsize % 64 == 0
  | some (.setc _ sel _) => z 55 31 && decide (sel ≤ 4)
  | some (.loop _ _) => z 57 24
  | some (.endl _) => z 57 0
  | some (.move _ _ codec rate efmt istr _) =>
    z 37 16 && decide (codec ≤ 5) && (if codec = 3 ∨ codec = 4 then decide (rate ≤ 2) && efmt == 0 else rate == 0) &&
      (codec != 0 || efmt == 0) && (codec == 5 || istr == 1)
  | some (.wait _ _ _) => z 57 56 && z 43 0
  | some (.sig remote die _ value) => z 43 16 && (remote || die.val == 0) && value != 0
  | some (.cred _ units) => z 49 16 && units != 0
  | some (.ret _ units) => z 49 16 && units != 0
  | some .endp => z 59 0

/-! ### The state of a stream (R167) -/

/-- An address generator at launch. -/
def AddrGen.zero : AddrGen :=
  { space := 0, image := false, die := 0, base := 0, stride := Vector.replicate 4 0, ring := 0 }

/-- A count generator at launch. -/
def CountGen.zero : CountGen := { base := 0, step := Vector.replicate 4 0 }

/-- A stream at launch of a program: all state zero (R167). -/
def Stream.launch (cv : Option CanvasId) (prog : BitVec 16) (op : Option Nat) (words : List Dword) (pool : BitVec 16)
    (windows : List SWindow) (stepSeq : Nat) : Stream :=
  { state := .running, canvas := cv, prog := prog, op := op, program := words, pc := 0,
    gens := Vector.replicate 4 AddrGen.zero, counts := Vector.replicate 2 CountGen.zero, idx := Vector.replicate 4 0,
    loops := [], limit := Vector.replicate 4 0, moves := [], fencing := none, windows := windows, pool := pool,
    stepSeq := stepSeq, ended := none }

/-- The instruction at the PC; none beyond the program or for a reserved opcode. -/
def Stream.instr (x : Stream) : Option CInstr := (x.program[x.pc]?).bind decodeC

/-- The stream at its next instruction. -/
def Stream.advance (x : Stream) : Stream := { x with pc := x.pc + 1 }

/-- SETB (Table 7.5). The ring size becomes 0. Bit 39 of a bundle program's base selects the extent (R438), which
relocation adds: `image` where the base names the bundle image, `at_` the start of the extent. -/
def Stream.setb (x : Stream) (g : Fin 4) (space : Fin 8) (die : DieIx) (base : Nat) (image : Bool) (at_ : Nat) : Stream :=
  let a := x.gens[g.val]
  { x with pc := x.pc + 1,
           gens := x.gens.set g.val { a with space := space, image := image, die := die,
                                             base := BitVec.ofNat 64 (at_ + base), ring := 0 } }

/-- SETS. -/
def Stream.sets (x : Stream) (g lvl : Fin 4) (stride : Int) : Stream :=
  let a := x.gens[g.val]
  { x with pc := x.pc + 1, gens := x.gens.set g.val { a with stride := a.stride.set lvl.val (BitVec.ofInt 64 stride) } }

/-- SETM. -/
def Stream.setm (x : Stream) (g : Fin 4) (rsize : Nat) : Stream :=
  let a := x.gens[g.val]
  { x with pc := x.pc + 1, gens := x.gens.set g.val { a with ring := BitVec.ofNat 64 rsize } }

/-- SETC: SEL 0 the base, 1 to 4 the step of levels 0 to 3. -/
def Stream.setc (x : Stream) (c : Fin 2) (sel value : Nat) : Stream :=
  let a := x.counts[c.val]
  let b := if sel = 0 then { a with base := BitVec.ofNat 64 value }
    else { a with step := a.step.set ((sel - 1) % 4) (BitVec.ofNat 64 value) (Nat.mod_lt _ (by decide)) }
  { x with pc := x.pc + 1, counts := x.counts.set c.val b }

/-- LOOP: opens a level with its index at 0. -/
def Stream.loop (x : Stream) (lvl : Fin 4) (count : Nat) : Stream :=
  { x with pc := x.pc + 1, idx := x.idx.set lvl.val 0, limit := x.limit.set lvl.val count,
           loops := (lvl, x.pc + 1, count) :: x.loops }

/-- ENDL: the next pass, or the way out with the index at 0. -/
def Stream.endl (x : Stream) (lvl : Fin 4) : Stream :=
  match x.loops with
  | [] => x.advance
  | (l, start, count) :: rest =>
    if l = lvl ∧ x.idx[lvl.val] + 1 < count then { x with pc := start, idx := x.idx.set lvl.val (x.idx[lvl.val] + 1) }
    else { x with pc := x.pc + 1, idx := x.idx.set lvl.val 0, loops := rest }

/-- The offset of a generator before its ring is taken, a signed 64-bit number (R167). -/
def AddrGen.off (a : AddrGen) (idx : Vector Nat 4) : Int :=
  (BitVec.ofInt 64 ((List.finRange 4).foldl (fun acc n => acc + ((idx[n.val] : Nat) : Int) * (a.stride[n.val]).toInt) 0)).toInt

/-- The address of byte k of a transfer: every byte's address is taken modulo RSIZE on its own (R171), in 64-bit
arithmetic. -/
def AddrGen.byteAddr (a : AddrGen) (idx : Vector Nat 4) (k : Nat) : Nat :=
  let o : Int := a.off idx + (k : Int)
  let r : Int := if a.ring = 0 then o else o % (a.ring.toNat : Int)
  bitsOfInt 64 ((a.base.toNat : Int) + r)

/-- count(C) (R167). -/
def CountGen.value (c : CountGen) (idx : Vector Nat 4) : Nat :=
  ((List.finRange 4).foldl (fun acc n => acc + idx[n.val] * (c.step[n.val]).toNat) c.base.toNat) % 2 ^ 64

/-- Blocks per coded word under Mode F (R182). -/
def modeFBw (rate : Nat) : Nat := rate + 2

/-- Coded bytes of a line of n bytes under a codec: the whole slots of Mode Z, the words of Mode F. -/
def codedBytes (codec rate n : Nat) : Nat :=
  if codec = 1 ∨ codec = 2 then ceilDiv n 4096 * 4160 else ceilDiv (ceilDiv n 64) (modeFBw rate) * 64

/-- Bytes that a MOVE reads at its source. -/
def moveReads (codec rate efmt len : Nat) : Nat :=
  match codec with
  | 0 => (len + 1) * 64
  | 1 => (len + 1) * 16
  | 3 => (len + 1) * 16
  | 5 => (len + 1) * elemBytes efmt
  | _ => codedBytes codec rate ((len + 1) * 16)

/-- Offsets, from the destination address, of the bytes that a MOVE writes, in order. -/
def moveWrites (codec rate efmt istr len : Nat) : List Nat :=
  match codec with
  | 0 => List.range ((len + 1) * 64)
  | 2 => List.range ((len + 1) * 16)
  | 4 => List.range ((len + 1) * 16)
  | 5 => (List.range (len + 1)).flatMap fun j => (List.range (elemBytes efmt)).map fun i => j * istr * 16 * elemBytes efmt + i
  | _ => List.range (codedBytes codec rate ((len + 1) * 16))

/-! ### Evaluation over the loops -/

/-- What a program does that admission and binding look at. -/
inductive CAccess where
  | reads (g : AddrGen) (addrs : List Nat)
  | writes (g : AddrGen) (addrs : List Nat)
  | count (n : Nat)
deriving DecidableEq, Repr

/-- What an instruction does, and the stream after it. Relocation gives for a base whether it names the bundle image and
where its extent starts. -/
def Stream.trace (reloc : Fin 8 → DieIx → Nat → Bool × Nat) (x : Stream) : CInstr → Stream × List CAccess
  | .nop => (x.advance, [])
  | .setb g space die base =>
    let r := reloc space die base
    (x.setb g space die (base % 2 ^ 39) r.1 r.2, [])
  | .sets g lvl stride => (x.sets g lvl stride, [])
  | .setm g rsize => (x.setm g rsize, [])
  | .setc c sel value => (x.setc c sel value, [])
  | .loop lvl count => (x.loop lvl count, [])
  | .endl lvl => (x.endl lvl, [])
  | .move src dst codec rate efmt istr len =>
    let a := x.gens[src.val]
    let b := x.gens[dst.val]
    (x.advance, [.reads a ((List.range (moveReads codec rate efmt len)).map (a.byteAddr x.idx)),
      .writes b ((moveWrites codec rate efmt istr len).map (b.byteAddr x.idx))])
  | .wait _ c _ => (x.advance, [.count ((x.counts[c.val]).value x.idx)])
  | .sig _ _ _ _ => (x.advance, [])
  | .cred _ _ => (x.advance, [])
  | .ret _ _ => (x.advance, [])
  | .endp => (x, [])

/-- Every access of a program, in order. `fuel` bounds the instructions executed. -/
def traceAll (reloc : Fin 8 → DieIx → Nat → Bool × Nat) : Nat → Stream → List CAccess
  | 0, _ => []
  | fuel + 1, x =>
    match x.instr with
    | none => []
    | some .endp => []
    | some i =>
      let (y, l) := x.trace reloc i
      l ++ traceAll reloc fuel y

/-- Instructions that a program can execute at most: each LOOP multiplies by its passes. -/
def progFuel (words : List Dword) : Nat :=
  words.foldl (fun n w => match decodeC w with
    | some (.loop _ c) => n * (c + 1)
    | _ => n) (words.length + 1)

/-- Relocation before binding: bases stay relative (R438). -/
def unbound (space : Fin 8) (_ : DieIx) (base : Nat) : Bool × Nat := (space.val == 1 && base < 2 ^ 39, 0)

/-- The accesses of a bundle program, unbound. -/
def progTrace (words : List Dword) : List CAccess :=
  traceAll unbound (progFuel words) (Stream.launch none 0 none words 0xFFFF [] 0)

/-- LOOPs nest: an ENDL closes the innermost open level, no level opens twice, and none is open at END. -/
def loopsOk : List (Fin 4) → List Dword → Bool
  | _, [] => true
  | opened, w :: rest =>
    match decodeC w with
    | some (.loop l _) => !opened.contains l && loopsOk (l :: opened) rest
    | some (.endl l) => match opened with
      | [] => false
      | o :: more => o == l && loopsOk more rest
    | some .endp => opened.isEmpty && loopsOk opened rest
    | _ => loopsOk opened rest

/-- A MOVE of a bundle program uses its codec and spaces as R168, R169 and Table 7.4 allow a neural program. -/
def moveOk (codec efmt : Nat) (src dst : Nat) : Bool :=
  (src == 0 || src == 1) && (dst == 0 || dst == 1 || dst == 2) && (!(codec == 1 || codec == 3) || dst == 1) &&
    (!(codec == 2 || codec == 4) || src == 1) &&
    (!(codec == 1 || codec == 2) || elemBytes efmt == 1 || elemBytes efmt == 2 || elemBytes efmt == 4)

/-- The spaces that each MOVE meets, in the program's order of execution. -/
def movesOk (l : List CAccess) (words : List Dword) : Bool :=
  words.all (fun w => match decodeC w with
    | some (.setb _ space _ _) => decide (space.val ≤ 2)
    | _ => true) &&
  l.all fun a => match a with
    | .reads g _ => g.space.val == 0 || g.space.val == 1
    | .writes g _ => g.space.val ≤ 2
    | .count _ => true

/-- The MOVEs of a program with the spaces of their generators, in order of execution. -/
def codecsOk : Nat → Stream → Bool
  | 0, _ => true
  | fuel + 1, x =>
    match x.instr with
    | none => true
    | some .endp => true
    | some (.move src dst codec rate efmt istr len) =>
      moveOk codec efmt (x.gens[src.val]).space.val (x.gens[dst.val]).space.val &&
        codecsOk fuel (x.trace unbound (.move src dst codec rate efmt istr len)).1
    | some i => codecsOk fuel (x.trace unbound i).1

/-- A neural program passes admission (R169, R195, R196, R438), given the declared Turnstile numbers and the counts of
pools and image bytes. -/
def progOk (p : Prog) (declared : List Nat) (npool size : Nat) : Bool :=
  let ws := p.words
  let tr := progTrace ws
  (match ws.getLast? with
    | some w => decodeC w == some .endp
    | none => false) &&
  ws.all wordOk && loopsOk [] ws && movesOk tr ws &&
  codecsOk (progFuel ws) (Stream.launch none 0 none ws 0xFFFF [] 0) &&
  (ws.all fun w => match decodeC w with
    | some (.wait _ _ t) => declared.contains t.toNat
    | some (.sig _ _ t _) => declared.contains t.toNat
    | some (.cred pool _) => pool == p.pool
    | some (.ret pool _) => decide (pool < npool)
    | _ => true) &&
  (p.pool == 0xFFFF || decide (p.pool < npool)) &&
  tr.all fun a => match a with
    | .reads g l => !g.image || l.all fun x => decide (x < size)
    | .writes g _ => !g.image
    | .count n => decide (n ≤ 2 ^ 31 - 1)

/-- The largest UNITS of a CRED of a program (R173). -/
def progMaxCred (p : Prog) : Nat :=
  p.words.foldl (fun m w => match decodeC w with
    | some (.cred _ u) => max m u
    | _ => m) 0

/-- The bytes of a weight-side stream: what the MOVEs of its program read from the image, in order; none where a MOVE
takes its source elsewhere (R438). -/
def streamBytes (b : List Byte) (p : Prog) : Option (List Byte) :=
  (progTrace p.words).foldl (fun acc a => match acc, a with
    | some l, .reads g addrs => if g.image then some (l ++ addrs.map fun x => b.getD x 0) else none
    | some l, .writes _ _ => some l
    | some l, .count _ => some l
    | none, _ => none) (some [])

end Sys2Proof.Machine
end

