-- ==== Sys2Proof/Machine/Conv.lean ====
section
/-! DEFINITION. Convolution: limits, the reduction order, padding, tiles and groups (R113 to R124), weight-side streams
and their blocks (R93 to R105), and the fold of a K-block (R77, R123). -/

namespace Sys2Proof.Machine

/-! ### Parameters (Table 8.4) -/

/-- Parameters of a convolution or pooling op. -/
structure ConvP where
  kh : Nat
  kw : Nat
  sy : Nat
  sx : Nat
  dy : Nat
  dx : Nat
  pt : Nat
  pb : Nat
  pl : Nat
  pr : Nat
  mode : Nat
  g : Nat
  pv : Nat
deriving DecidableEq, Repr

/-- The parameters of a CONV op. -/
def Op.convP (o : Op) : ConvP :=
  { kh := o.p8 80, kw := o.p8 81, sy := o.p8 82, sx := o.p8 83, dy := o.p8 84, dx := o.p8 85, pt := o.p8 86,
    pb := o.p8 87, pl := o.p8 88, pr := o.p8 89, mode := o.p8 90, g := o.p16 92, pv := o.p32 96 }

/-- One output length (R114). -/
def outLen (n before after k d s : Nat) : Int :=
  Int.fdiv ((n + before + after : Nat) - (((k - 1) * d + 1 : Nat) : Int)) (s : Int) + 1

/-- Hout and Wout (R114). -/
def ConvP.out (p : ConvP) (h w : Nat) : Int × Int :=
  (outLen h p.pt p.pb p.kh p.dy p.sy, outLen w p.pl p.pr p.kw p.dx p.sx)

/-- Channel block of a layout (R110). -/
def layoutBlock (layout : Nat) : Nat := if layout = 1 then 32 else 16

/-- Padded channel count (R110). -/
def paddedC (layout c : Nat) : Nat := layoutBlock layout * ceilDiv c (layoutBlock layout)

/-- Where a convolution runs (Table 5.4). -/
inductive ConvEngine where
  | dense | special | general | grouped | block | refused
deriving DecidableEq, Repr

/-- Table 5.4, first row that matches. `b` is the channel block of the input tensor. -/
def ConvP.engine (p : ConvP) (cin cout b : Nat) : ConvEngine :=
  let gw := cin / p.g
  let ng := cout / p.g
  if p.g = 1 then .dense
  else if gw = 1 ∧ ng = 1 ∧ p.kh = p.kw ∧ (p.kh = 3 ∨ p.kh = 5 ∨ p.kh = 7) ∧ 1 ≤ p.sy ∧ p.sy ≤ 2 ∧ 1 ≤ p.sx ∧
      p.sx ≤ 2 ∧ p.dy = 1 ∧ p.dx = 1 then .special
  else if gw = 1 then .general
  else if gw < 16 then .grouped
  else if gw % b = 0 then .block
  else .refused

/-! ### Fetch (R117) -/

/-- Mirror folding of R117. -/
def reflectIx (n : Nat) (i : Int) : Nat :=
  if n = 1 then 0
  else
    let period : Int := 2 * ((n : Int) - 1)
    let m := i % period
    if m < (n : Int) then m.toNat else (period - m).toNat

/-- fetch of R117: the raw element, 0 for a padding channel, the pad value or a neighbour beyond the image. -/
def fetchRaw (e : OpEnv) (mode pv t n : Nat) (y x : Int) (c : Nat) : Nat :=
  let (_, h, w, ch) := e.dim t
  if ch ≤ c then 0
  else if 0 ≤ y ∧ y < (h : Int) ∧ 0 ≤ x ∧ x < (w : Int) then e.rd t n y.toNat x.toNat c
  else match mode with
    | 2 => e.rd t n (clampIx h y) (clampIx w x) c
    | 3 => e.rd t n (reflectIx h y) (reflectIx w x) c
    | _ => pv

/-! ### The reduction and the N-tiles (R115, R116, R122, R123) -/

/-- Groups packed into an N-tile (R122). -/
def ConvP.gp (p : ConvP) (cout : Nat) : Nat :=
  let ng := cout / p.g
  if 512 < ng then 1 else min p.g (512 / ng)

/-- N-tiles of an op; on the Juggler paths those of its weight-side streams (R98, R116, R122). -/
def ConvP.nt (p : ConvP) (cin cout b : Nat) : Nat :=
  match p.engine cin cout b with
  | .block =>
    let ng := cout / p.g
    if 512 < ng then p.g * ceilDiv ng 512 else ceilDiv p.g (p.gp cout)
  | _ => ceilDiv cout 512

/-- Reduction lanes before padding (R115, R122, R123). -/
def ConvP.lanes (p : ConvP) (cin cout b : Nat) : Nat :=
  let gw := cin / p.g
  match p.engine cin cout b with
  | .dense => ceilDiv cin b * p.kh * p.kw * b
  | .block => if 512 < cout / p.g then p.kh * p.kw * gw else p.gp cout * (p.kh * p.kw * gw)
  | _ => p.kh * p.kw * gw

/-- K-blocks of the reduction. -/
def ConvP.nb (p : ConvP) (cin cout b : Nat) : Nat := ceilDiv (p.lanes cin cout b) 128

/-- The output channel that a column of an N-tile holds; none where it is masked (R116, R120, R122). -/
def ConvP.outCh (p : ConvP) (cin cout b t col : Nat) : Option Nat :=
  let ng := cout / p.g
  match p.engine cin cout b with
  | .block =>
    if 512 < ng then
      let g := t / ceilDiv ng 512
      let u := t % ceilDiv ng 512
      if 512 * u + col < ng then some (g * ng + 512 * u + col) else none
    else
      let gp := p.gp cout
      let ch := t * gp * ng + col
      if col < gp * ng ∧ ch < cout then some ch else none
  | _ => if 512 * t + col < cout then some (512 * t + col) else none

/-- The tap of a run of blocks of b channels: k_index of R115 inverted. -/
def tapOf (b kh kw k : Nat) : Nat × Nat × Nat :=
  let c := (k / (kh * kw * b)) * b + k % b
  let i := (k / b) % (kh * kw)
  (i / kw, i % kw, c)

/-- ky, kx and input channel of reduction position k for output channel o in N-tile t; none for a padding lane. -/
def ConvP.tap (p : ConvP) (cin cout b t o k : Nat) : Option (Nat × Nat × Nat) :=
  let gw := cin / p.g
  let ng := cout / p.g
  if p.lanes cin cout b ≤ k then none
  else match p.engine cin cout b with
    | .dense => some (tapOf b p.kh p.kw k)
    | .block =>
      if 512 < ng then
        let (ky, kx, c) := tapOf b p.kh p.kw k
        some (ky, kx, (t / ceilDiv ng 512) * gw + c)
      else
        let per := p.kh * p.kw * gw
        let (ky, kx, c) := tapOf b p.kh p.kw (k % per)
        some (ky, kx, (t * p.gp cout + k / per) * gw + c)
    | _ =>
      let (ky, kx, c) := tapOf gw p.kh p.kw k
      some (ky, kx, (o / ng) * gw + c)

/-! ### The quantisation word and weight-side blocks (R94 to R102) -/

/-- Group size of a quantisation word; 0 for none. -/
def quantGroup (q : Nat) : Nat :=
  match q % 4 with
  | 1 => 32
  | 2 => 64
  | 3 => 128
  | _ => 0

/-- Codebook span in K-blocks. -/
def quantSpan (q nb : Nat) : Nat := if natBits q 6 4 = 0 then nb else 2 ^ (natBits q 6 4 - 1)

/-- Bytes of a stored scale. -/
def scaleBytes (q : Nat) : Nat :=
  match natBits q 3 2 with
  | 0 => 4
  | 3 => 1
  | _ => 2

/-- A legal quantisation word for a form (R94, R95). -/
def quantOk (q form : Nat) : Bool :=
  decide (natBits q 6 4 ≤ 5) && decide (q < 128) && (q % 4 != 0 || natBits q 3 2 == 0) &&
    (form == 1 || form == 2 || natBits q 6 4 == 0)

/-- A stored scale widened to binary32 (Table 4.4). -/
def scaleWiden (q raw : Nat) : Nat :=
  match natBits q 3 2 with
  | 0 => raw
  | 1 => raw * 65536
  | 2 => widen .fp16 raw
  | _ => if raw = 0 then 0x0040_0000 else raw * 2 ^ 23

/-- Exponent of binary32 all ones: a NaN or an infinity. -/
def f32Special (raw : Nat) : Bool := natBits raw 30 23 == 255

/-- A stored scale is legal (R95). -/
def scaleOk (q raw : Nat) : Bool :=
  if natBits q 3 2 = 3 then raw != 0xFF else !f32Special (scaleWiden q raw)

/-- KIND of the weight stream of a form (Table 4.2). -/
def weightKind (form : Nat) : Nat :=
  match form with
  | 1 => 1
  | 2 => 2
  | 7 => 4
  | _ => 3

/-- Payload bytes of a block (Table 4.3). -/
def payloadBytes (kind form q : Nat) : Nat :=
  match kind with
  | 1 => 32768
  | 2 => 65536
  | 3 => 65536
  | 4 => 131072
  | 5 => if form = 1 then 8192 else 131072
  | 6 => if quantGroup q = 0 then 0 else 512 * (128 / quantGroup q) * scaleBytes q
  | _ => 2048

/-- Programs, KINDs and required block counts of the weight-side streams of a CONV op (R96, R98). -/
def Op.streams (o : Op) (nt nb : Nat) : List (Nat × Nat × Nat) :=
  [(o.wprog, weightKind o.form, nt * nb),
   (o.cbprog, 5, if o.form = 1 ∨ o.form = 2 then nt * ceilDiv nb (quantSpan o.quant nb) else 0),
   (o.scprog, 6, if quantGroup o.quant = 0 then 0 else nt * nb),
   (o.ivprog, 7, if o.ivprog = 0xFFFF then 0 else nt)]

/-- The block at a place of a stream's bytes; none where less than a whole block is present (R105). -/
def blockAt (bytes : List Byte) (size i : Nat) : Option WBlock :=
  let l := bytes.drop (i * (64 + size))
  if l.length < 64 + size then none
  else some { tag := BitVec.ofNat 16 (leAt l 0 2), kind := BitVec.ofNat 8 (leAt l 2 1), fmt := BitVec.ofNat 8 (leAt l 3 1),
              op := BitVec.ofNat 16 (leAt l 4 2), form := BitVec.ofNat 8 (leAt l 6 1), payload := (l.drop 64).take size }

/-- Whole blocks that a stream of some bytes holds. -/
def blocksIn (bytes : List Byte) (size : Nat) : Nat := bytes.length / (64 + size)

/-- The scales of a block are legal (R95): 512 columns of 128 / G scales. -/
def scalesOk (q : Nat) (payload : List Byte) : Bool :=
  let z := scaleBytes q
  (List.range (payload.length / z)).all fun i => scaleOk q (leAt payload (i * z) z)

/-- The FP32 initial values of a block are finite (R95). -/
def initsOk (payload : List Byte) : Bool :=
  (List.range (payload.length / 4)).all fun i => !f32Special (leAt payload (i * 4) 4)

/-- The accumulator of an op is INT32 (Table 3.4). -/
def accIsInt (o : Op) : Bool := decide (o.form < 3) && quantGroup o.quant == 0

/-- The weight-side streams of an op pass admission (R95, R438). Block counts are compared where the op's groups give them (`shaped`);
where G divides no channel count or no engine takes the groups, step 4 refuses the op. -/
def streamsOk (b : List Byte) (o : Op) (shaped : Bool) (nt nb : Nat) : Bool :=
  (o.streams nt nb).all fun s =>
    if s.1 = 0xFFFF then !shaped || s.2.2 == 0
    else match streamBytes b (bProg b s.1) with
      | none => false
      | some bytes =>
        let size := payloadBytes s.2.1 o.form o.quant
        let n := blocksIn bytes size
        (!shaped || n == s.2.2) && decide (n ≤ 65536) &&
          (if s.2.1 = 6 then (List.range n).all fun i => match blockAt bytes size i with
              | some blk => scalesOk o.quant blk.payload
              | none => true
           else if s.2.1 = 7 ∧ accIsInt o = false then (List.range n).all fun i => match blockAt bytes size i with
              | some blk => initsOk blk.payload
              | none => true
           else true)

/-- The weight that the array sees at a lane of a column (R97, R99). -/
def weightAt (form : Nat) (blk cb : List Byte) (c i : Nat) : Nat :=
  match form with
  | 1 =>
    let byte := leAt blk (c * 64 + i / 2) 1
    leAt cb (c * 16 + (if i % 2 = 0 then byte % 16 else byte / 16)) 1
  | 2 => leAt cb (c * 256 + leAt blk (c * 128 + i) 1) 1
  | 7 => leAt blk (c * 256 + 2 * i) 2
  | _ => leAt blk (c * 128 + i) 1

/-- The binary32 scales of a column of a K-block, ascending (R101); empty without group scales. -/
def columnScales (q : Nat) (payload : List Byte) (c : Nat) : List Nat :=
  let g := quantGroup q
  if g = 0 then []
  else (List.range (128 / g)).map fun i =>
    scaleWiden q (leAt payload ((c * (128 / g) + i) * scaleBytes q) (scaleBytes q))

/-- The initial value of a column (R77, R97). -/
def columnInit (payload : Option (List Byte)) (c : Nat) : Nat :=
  match payload with
  | some l => leAt l (4 * c) 4
  | none => 0

/-! ### Products and folds -/

/-- The activation of reduction position k of an output element (R117); none for a padding lane. -/
def laneRaw (e : OpEnv) (p : ConvP) (t0 cin cout b t o n yo xo k : Nat) : Option Nat :=
  match p.tap cin cout b t o k with
  | none => none
  | some (ky, kx, c) =>
    some (fetchRaw e p.mode p.pv t0 n (((yo * p.sy + ky * p.dy : Nat) : Int) - (p.pt : Int))
      (((xo * p.sx + kx * p.dx : Nat) : Int) - (p.pl : Int)) c)

/-- An integer product (R74). -/
def prodInt (a : Option Nat) (w : Nat) : Int :=
  match a with
  | some r => signedOf 8 r * signedOf 8 w
  | none => 0

/-- A float product (R74). -/
def prodF32 (fa fw : Fmt) (a : Option Nat) (w : Nat) : Nat :=
  match a with
  | some r => mul32 (widen fa r) (widen fw w)
  | none => 0

/-- Fold one K-block of an output element into its accumulator (R77). `act` gives the activation of a lane and `wt` its
weight. -/
def foldBlock (o : Op) (act : Nat → Option Nat) (wt : Nat → Nat) (scales : List Nat) (acc : Nat) : Nat :=
  match formFmts o.form with
  | none => acc
  | some (fa, fw) =>
    if o.form < 3 then
      foldInt acc ((List.range 128).map fun i => prodInt (act i) (wt i)) (quantGroup o.quant) scales
    else foldF32 acc ((List.range 128).map fun i => prodF32 fa fw (act i) (wt i)) (quantGroup o.quant) scales

/-- The least power of two, as an exponent, that is at least n and at least 2^lo. -/
def padLog (lo n : Nat) : Nat := if n ≤ 2 ^ lo then lo else Nat.log2 (n - 1) + 1

/-- The accumulator of an output element on a depth-wise path: one tree over the taps in raster order (R76, R123). -/
def foldDepth (o : Op) (taps : Nat) (act : Nat → Option Nat) (wt : Nat → Nat) (init : Nat) : Nat :=
  let k := padLog 1 taps
  match formFmts o.form with
  | none => init
  | some (fa, fw) =>
    if o.form < 3 then
      addWrap init (bitsOfInt 32 (treeInt k ((List.range (2 ^ k)).map fun i =>
        if i < taps then prodInt (act i) (wt i) else 0)))
    else add32 init (treeF32 k ((List.range (2 ^ k)).map fun i => if i < taps then prodF32 fa fw (act i) (wt i) else 0))

/-- The weight-side streams of an op as a Juggler path reads them: the payload of a block by KIND and position. -/
abbrev SideReader := Nat → Nat → List Byte

/-- The accumulator of an output element on a Juggler convolution path (R76, R98, R123). -/
def jugglerConvAcc (e : OpEnv) (o : Op) (side : SideReader) (cin cout b n yo xo ch : Nat) : Nat :=
  let p := o.convP
  let nb := p.nb cin cout b
  let t := ch / 512
  let col := ch % 512
  let s := quantSpan o.quant nb
  let wt (blk i : Nat) : Nat :=
    weightAt o.form (side (weightKind o.form) (t * nb + blk)) (side 5 (t * ceilDiv nb s + blk / s)) col i
  let act (k : Nat) : Option Nat := laneRaw e p (o.ins.getD 0 0) cin cout b t ch n yo xo k
  let init := if o.ivprog = 0xFFFF then 0 else columnInit (some (side 7 t)) col
  match p.engine cin cout b with
  | .grouped => (List.range nb).foldl (fun acc blk =>
      foldBlock o (fun i => act (128 * blk + i)) (wt blk) (columnScales o.quant (side 6 (t * nb + blk)) col) acc) init
  | _ => foldDepth o (p.kh * p.kw) act (fun i => wt (i / 128) (i % 128)) init

/-- A finished accumulator converted at its element (R86). -/
def Op.convertAcc (o : Op) (step : Dword) (n c y x acc : Nat) : Conv :=
  o.convertAt step n c y x (accNum (decide (o.form < 3)) (quantGroup o.quant != 0) acc)

/-! ### Admission checks -/

/-- Limits of Table 5.1 (step 4): none where they hold, else whether the filter size is what fails. -/
def convLimits (b : List Byte) (sz : Sizes) (o : Op) : Option Bool :=
  let t0 := bTens b (o.ins.getD 0 0xFFFF)
  let u := bTens b o.out0
  let p := o.convP
  if 16 ≤ p.kh ∨ 16 ≤ p.kw then some true
  else if decide (1 ≤ p.kh) && decide (1 ≤ p.kw) && decide (1 ≤ p.sy) && decide (p.sy ≤ 16) && decide (1 ≤ p.sx) &&
      decide (p.sx ≤ 16) && decide (1 ≤ p.dy) && decide (p.dy ≤ 16) && decide (1 ≤ p.dx) && decide (p.dx ≤ 16) &&
      decide (1 ≤ p.g) && t0.c % p.g == 0 && u.c % p.g == 0 &&
      (p.engine t0.c u.c (layoutBlock t0.layout) != .refused) &&
      (sizeOk (sz (o.ins.getD 0 0xFFFF)) fun x => decide (x.1 ≤ 16384) && decide (x.2 ≤ 16384) &&
        decide (1 ≤ (p.out x.1 x.2).1) && decide (1 ≤ (p.out x.1 x.2).2)) then none
  else some false

/-- Checks of a CONV op at step 3 of Table 6.4 (R71, R85, R95, R110, R124, R200). -/
def convFormatOk (b : List Byte) (o : Op) : Bool :=
  let t0 := bTens b (o.ins.getD 0 0xFFFF)
  let u := bTens b o.out0
  let p := o.convP
  let blk := layoutBlock t0.layout
  let e := p.engine t0.c u.c blk
  ((List.range 4).all fun k => (o.inp k).isSome == decide (k < 1)) && o.writes.length == 1 && o.out0 != 0xFFFF &&
    decide (o.form < 8) && decide (t0.layout ≤ 1) && decide (u.layout ≤ 1) &&
    (match formFmts o.form with
      | some (fa, _) => t0.fmt == fa.code
      | none => false) &&
    o.restZero [(80, 11), (92, 2), (96, fmtBytes t0.fmt)] && decide (1 ≤ p.mode) && decide (p.mode ≤ 3) &&
    quantOk o.quant o.form && ((e != .special && e != .general) || o.quant % 4 == 0) &&
    streamsOk b o (decide (1 ≤ p.g) && t0.c % p.g == 0 && u.c % p.g == 0 && e != .refused) (p.nt t0.c u.c blk) (p.nb t0.c u.c blk)

/-- H, W and Nb of OUT0 are those that the op's rule gives (R114; R436, item 3). -/
def convWrittenOk (b : List Byte) (sz : Sizes) (o : Op) : Bool :=
  let i0 := o.ins.getD 0 0xFFFF
  opName o.opcode != some .conv || whenKnown sz [i0, o.out0] ((bTens b o.out0).nb == (bTens b i0).nb &&
    sizesRel (sz i0) (sz o.out0) fun x y => o.convP.out x.1 x.2 == ((y.1 : Int), (y.2 : Int)))

end Sys2Proof.Machine
end

