-- ==== Sys2Proof/Machine/Window.lean ====
section
/-! DEFINITION. The Window Engine: pooling, crop-and-resize, arg-max over channels and feature resize (R125 to R134). -/

namespace Sys2Proof.Machine

/-- OUT_FMT code of a format (Table 3.5). -/
def Fmt.outCode : Fmt → Nat
  | .int8 => 0 | .int16 => 1 | .int32 => 2 | .e4m3 => 3 | .e5m2 => 4 | .bf16 => 5 | .fp16 => 6 | .fp32 => 7

/-- Conversion by the Window Engine: half-even, then saturation; it counts no NaN. -/
def winConvert (f : Fmt) (v : Num) : Conv := { converter f.outCode 0 0 0 v with nan := false }

/-! ### Pooling (R125, R126) -/

/-- The taps of a pooling window in raster order, as raw elements; under EXCLUDE those inside the image alone. -/
def poolTaps (e : OpEnv) (o : Op) (n yo xo c : Nat) : List Nat :=
  let p := o.convP
  let t := o.ins.getD 0 0
  let (_, h, w, _) := e.dim t
  (List.range (p.kh * p.kw)).filterMap fun i =>
    let y : Int := ((yo * p.sy + i / p.kw : Nat) : Int) - (p.pt : Int)
    let x : Int := ((xo * p.sx + i % p.kw : Nat) : Int) - (p.pl : Int)
    if p.mode = 0 ∧ ¬ (0 ≤ y ∧ y < (h : Int) ∧ 0 ≤ x ∧ x < (w : Int)) then none
    else some (fetchRaw e p.mode 0 t n y x c)

/-- Whether raw a ranks below raw b for a maximum: by value, with +0 above −0. -/
def poolBelow (f : Fmt) (a b : Nat) : Bool :=
  let x := decodeNum f a
  let y := decodeNum f b
  ltNum x y || (!ltNum y x && !f.isInt && decide (b < a))

/-- One pooled element (R126). In a float class the tree of an average has the least power of two of at least two places, and under
EXCLUDE it takes the taps inside the image closed up: DESIGN CHOICE, entry 91. -/
def poolElem (e : OpEnv) (o : Op) (n yo xo c : Nat) : Conv :=
  let f := e.fmt (o.ins.getD 0 0)
  let l := poolTaps e o n yo xo c
  if o.p8 91 = 0 then
    if l.any fun r => decodeNum f r == .nan then copied f.nan
    else copied (l.tail.foldl (fun m r => if poolBelow f m r then r else m) (l.headD 0))
  else
    let cnt := l.length
    if f.isInt then
      let v : Int := (l.map fun r => signedOf f.intBits r).sum
      winConvert f (.fin (decide (v < 0)) v.natAbs (max cnt 1))
    else
      let k := padLog 1 cnt
      let s := treeF32 k ((l.map (widen f)) ++ List.replicate (2 ^ k - cnt) 0)
      winConvert f (divNum (f32 s) (numOfInt cnt))

/-! ### Crop-and-resize (R127 to R131) -/

/-- An entry of a box list (Table 5.5). -/
structure BoxEntry where
  box : Box
  batch : Nat
  skip : Bool
deriving DecidableEq, Repr

/-- A box list as bytes: COUNT, STEP and the entries. -/
def boxCount (l : List Byte) : Nat := leAt l 0 4

/-- Entry i of a box list. -/
def boxEntry (l : List Byte) (i : Nat) : BoxEntry :=
  let o := 64 + 32 * i
  { box := { x0 := leAt l o 4, y0 := leAt l (o + 4) 4, x1 := leAt l (o + 8) 4, y1 := leAt l (o + 12) 4 },
    batch := leAt l (o + 16) 2, skip := (leAt l (o + 18) 2).testBit 0 }

/-- A coordinate that no valid entry has: NaN, infinite, or of magnitude above 2^20 (R129). -/
def coordBad (raw : Nat) : Bool :=
  match f32 raw with
  | .nan => true
  | .inf _ => true
  | .fin _ n d => decide (2 ^ 20 * d < n)

/-- An invalid entry (R129). -/
def BoxEntry.bad (x : BoxEntry) (nb : Nat) : Bool :=
  coordBad x.box.x0 || coordBad x.box.y0 || coordBad x.box.x1 || coordBad x.box.y1 ||
    ltNum (f32 x.box.x1) (f32 x.box.x0) || ltNum (f32 x.box.y1) (f32 x.box.y0) || decide (nb ≤ x.batch)

/-- How a list is handled: entries used, and the counts of stale lists, long lists and invalid entries (R129). -/
structure BoxPlan where
  used : Nat
  stale : Nat
  trunc : Nat
  bad : Nat
deriving DecidableEq, Repr

/-- R129 for one list. -/
def boxPlan (l : List Byte) (maxBoxes nb : Nat) (check : Bool) (step : Dword) : BoxPlan :=
  if check && decide (leAt l 8 8 ≠ step.toNat) then { used := 0, stale := 1, trunc := 0, bad := 0 }
  else
    let n := min (boxCount l) maxBoxes
    { used := n, stale := 0, trunc := b2n (decide (maxBoxes < boxCount l)),
      bad := ((List.range n).filter fun i => let x := boxEntry l i; !x.skip && x.bad nb).length }

/-- 1/2 and 1 in binary32. -/
def f32Half : Nat := 0x3F00_0000

/-- 1 in binary32. -/
def f32One : Nat := 0x3F80_0000

/-- A whole number in binary32. -/
def f32OfNat (n : Nat) : Nat := toF32 (numOfInt (n : Int))

/-- A sample position of a crop in one axis (R130). -/
def cropPos (align lo hi n i : Nat) : Nat :=
  if align = 0 then
    let st := div32 (sub32 hi lo) (f32OfNat n)
    sub32 (add32 lo (mul32 (toF32 (.fin false (2 * i + 1) 2)) st)) f32Half
  else if 1 < n then add32 lo (mul32 (f32OfNat i) (div32 (sub32 hi lo) (f32OfNat (n - 1))))
  else mul32 (add32 lo hi) f32Half

/-- floor of a finite binary32 value. -/
def floor32 (raw : Nat) : Int :=
  let r := (f32 raw).ratio
  Int.fdiv r.1 (r.2 : Int)

/-- A sample lies outside the extended image (R131). -/
def cropOutside (pos n : Nat) : Bool :=
  ltNum (f32 pos) (.fin true 1 1) || ltNum (numOfInt (n : Int)) (f32 pos)

/-- Fraction of a position above its floor: exact in binary32. -/
def frac32 (pos : Nat) : Nat := sub32 pos (toF32 (numOfInt (floor32 pos)))

/-- Bilinear interpolation of R131 at positions sy and sx, in binary32. -/
def bilinear (e : OpEnv) (t n c sy sx : Nat) : Nat :=
  let (_, h, w, _) := e.dim t
  let y0 := floor32 sy
  let x0 := floor32 sx
  let wy := frac32 sy
  let wx := frac32 sx
  let v (y x : Int) : Nat := widen (e.fmt t) (e.rd t n (clampIx h y) (clampIx w x) c)
  let row (y : Int) : Nat := add32 (mul32 (sub32 f32One wx) (v y x0)) (mul32 wx (v y (x0 + 1)))
  add32 (mul32 (sub32 f32One wy) (row y0)) (mul32 wy (row (y0 + 1)))

/-- One sample of a crop, where EXTRAP gives the low bytes of its field, as many as an element of the output has (DESIGN CHOICE,
entry 85): box slot n, position (i, j), channel c (R129 to R131). -/
def cropElem (e : OpEnv) (o : Op) (l : List Byte) (plan : BoxPlan) (n i j c : Nat) : Conv :=
  let t := o.ins.getD 0 0
  let (nb, h, w, _) := e.dim t
  let x := boxEntry l n
  let sy := cropPos (o.p8 86) x.box.y0 x.box.y1 (o.p16 80) i
  let sx := cropPos (o.p8 86) x.box.x0 x.box.x1 (o.p16 82) j
  if plan.used ≤ n ∨ x.skip = true ∨ x.bad nb = true ∨ cropOutside sy h = true ∨ cropOutside sx w = true then
    copied (o.p32 88 % 2 ^ (8 * fmtBytes (e.fmt t).code))
  else winConvert (e.fmt t) (f32 (bilinear e t x.batch c sy sx))

/-! ### Arg-max (R132) -/

/-- The index of the greatest channel, and whether every channel is NaN. -/
def argmax (e : OpEnv) (t n y x : Nat) : Nat × Bool :=
  let (_, _, _, c) := e.dim t
  let best := (List.range c).foldl (fun (m : Option Nat) i =>
    let v := e.val t n y x i
    if v = .nan then m
    else match m with
      | none => some i
      | some j => if ltNum (e.val t n y x j) v then some i else some j) none
  (best.getD 0, best.isNone)

/-! ### Feature resize (R133, R134) -/

/-- Nearest source index. -/
def nearestIx (o n on : Nat) : Nat := ((2 * o + 1) * n) / (2 * on)

/-- A bicubic weight at a distance num/den from 0 to 2, with a = −0.5, rounded once to binary32 (R134). -/
def cubicWeight (num den : Nat) : Nat :=
  let d : Int := (den : Int)
  let x : Int := (num : Int)
  let v : Int := if num ≤ den then 3 * x * x * x - 5 * x * x * d + 2 * d * d * d
    else -(x * x * x) + 5 * x * x * d - 8 * x * d * d + 4 * d * d * d
  toF32 (.fin (decide (v < 0)) v.natAbs (2 * den * den * den))

/-- The four weights of a fraction. -/
def cubicWeights (frac : Nat) : List Nat :=
  let r := (f32 frac).ratio
  let n := r.1.toNat
  let d := r.2
  [cubicWeight (d + n) d, cubicWeight n d, cubicWeight (d - n) d, cubicWeight (2 * d - n) d]

/-- The four-tap sum of R134. -/
def cubicSum (w v : List Nat) : Nat :=
  let m (i : Nat) : Nat := mul32 (w.getD i 0) (v.getD i 0)
  add32 (add32 (m 0) (m 1)) (add32 (m 2) (m 3))

/-- One resized element: the whole input onto the whole output, which is OH by OW in each region (entry 86). -/
def resizeElem (e : OpEnv) (o : Op) (n y x c : Nat) : Conv :=
  let t := o.ins.getD 0 0
  let (_, h, w, _) := e.dim t
  let (_, oh, ow, _) := e.dim o.out0
  let f := e.fmt t
  let sy := cropPos 0 0 (f32OfNat h) oh y
  let sx := cropPos 0 0 (f32OfNat w) ow x
  match o.p8 84 with
  | 0 => copied (e.rd t n (nearestIx y h oh) (nearestIx x w ow) c)
  | 1 => winConvert f (f32 (bilinear e t n c sy sx))
  | _ =>
    let wx := cubicWeights (frac32 sx)
    let row (k : Nat) : Nat := cubicSum wx ((List.range 4).map fun (i : Nat) =>
      widen f (e.rd t n (clampIx h (floor32 sy - 1 + (k : Int))) (clampIx w (floor32 sx - 1 + (i : Int))) c))
    winConvert f (f32 (cubicSum (cubicWeights (frac32 sy)) ((List.range 4).map row)))

/-! ### Admission checks -/

/-- Checks of a Window Engine op at step 3 of Table 6.4 that no size decides (R110, R125, R127, R132, R200). EXTRAP is the whole of
bytes 88 to 91 (DESIGN CHOICE, entry 85). -/
def windowFormatOk (b : List Byte) (o : Op) : Bool :=
  let t0 := bTens b (o.ins.getD 0 0xFFFF)
  let t1 := bTens b (o.ins.getD 1 0xFFFF)
  let u := bTens b o.out0
  let same : Bool := decide (t0.layout ≤ 1) && u.layout == t0.layout && u.fmt == t0.fmt
  match opName o.opcode with
  | some .pool => o.only 1 1 && same && o.restZero [(80, 4), (86, 6)] && decide (o.convP.mode ≤ 3) && decide (o.p8 91 ≤ 1)
  | some .cropResize => o.only 2 1 && same && t1.layout == 2 && o.restZero [(80, 12)]
  | some .argmax => o.only 1 1 && decide (t0.layout ≤ 1) && u.layout == 0 && u.fmt == 3 && o.restZero []
  | some .resize => o.only 1 1 && same && o.restZero [(80, 5)] && decide (o.p8 84 ≤ 2)
  | _ => true

/-- H, W, C and Nb of what a Window Engine op writes (R114, R125, R127, R132, R133; R436, item 3). -/
def windowWrittenOk (b : List Byte) (sz : Sizes) (o : Op) : Bool :=
  let i0 := o.ins.getD 0 0xFFFF
  let t0 := bTens b i0
  let u := bTens b o.out0
  let z0 := sz i0
  let zu := sz o.out0
  match opName o.opcode with
  | some .pool =>
    let p := o.convP
    whenKnown sz [i0, o.out0] (u.nb == t0.nb && u.c == t0.c && sizesRel z0 zu fun x y =>
      (outLen x.1 p.pt p.pb p.kh 1 p.sy, outLen x.2 p.pl p.pr p.kw 1 p.sx) == ((y.1 : Int), (y.2 : Int)))
  | some .cropResize => whenKnown sz [i0, o.out0] (u.nb == o.p16 84 && u.c == t0.c && sizeOk zu fun y => y == (o.p16 80, o.p16 82))
  | some .argmax => whenKnown sz [i0, o.out0] (u.nb == t0.nb && u.c == 1 && sizesEq z0 zu)
  | some .resize => whenKnown sz [i0, o.out0] (u.nb == t0.nb && u.c == t0.c && sizeOk zu fun y => y == (o.p16 80, o.p16 82))
  | _ => true

/-- The parameters of step 4 (R125, R127, R132, R133): none where they hold, else whether the filter size fails. -/
def windowLimits (b : List Byte) (sz : Sizes) (o : Op) : Option Bool :=
  let t0 := bTens b (o.ins.getD 0 0xFFFF)
  let z0 := sz (o.ins.getD 0 0xFFFF)
  match opName o.opcode with
  | some .pool =>
    let p := o.convP
    if 16 ≤ p.kh ∨ 16 ≤ p.kw then some true
    else if decide (1 ≤ p.kh) && decide (1 ≤ p.kw) && decide (1 ≤ p.sy) && decide (p.sy ≤ 16) && decide (1 ≤ p.sx) &&
        decide (p.sx ≤ 16) && decide (p.pt < p.kh) && decide (p.pb < p.kh) && decide (p.pl < p.kw) &&
        decide (p.pr < p.kw) && (sizeOk z0 fun x => decide (1 ≤ outLen x.1 p.pt p.pb p.kh 1 p.sy) &&
          decide (1 ≤ outLen x.2 p.pl p.pr p.kw 1 p.sx)) then none
    else some false
  | some .cropResize =>
    if decide (1 ≤ o.p16 80) && decide (o.p16 80 ≤ 256) && decide (1 ≤ o.p16 82) && decide (o.p16 82 ≤ 256) &&
        decide (1 ≤ o.p16 84) && decide (o.p16 84 ≤ 4096) && decide (o.p8 86 ≤ 1) && decide (o.p8 87 ≤ 1) then none
    else some false
  | some .argmax => if 1 ≤ t0.c ∧ t0.c ≤ 4096 then none else some false
  | some .resize =>
    if decide (1 ≤ o.p16 80) && decide (o.p16 80 ≤ 16384) && decide (1 ≤ o.p16 82) && decide (o.p16 82 ≤ 16384) &&
        (sizeOk z0 fun x => decide (x.1 ≤ 16 * o.p16 80) && decide (o.p16 80 ≤ 16 * x.1) &&
          decide (x.2 ≤ 16 * o.p16 82) && decide (o.p16 82 ≤ 16 * x.2)) then none
    else some false
  | _ => none

end Sys2Proof.Machine
end

