-- ==== Sys2Proof/Machine/Admit.lean ====
section
/-! DEFINITION. Admission of a bundle: the checks of Table 6.4, steps 1 to 7, loop-order records and slot demand (R137
to R141, R145, R192, R196). -/

namespace Sys2Proof.Machine

/-- A check that fails: its status, the op concerned or 0xFFFF, the loop level, and the step of Table 6.4. -/
structure CheckFail where
  status : Status
  op : Nat
  level : Nat
  step : Nat
deriving DecidableEq, Repr

/-- The first failing check of a list. -/
def firstFail : List (Option CheckFail) → Option CheckFail
  | [] => none
  | some f :: _ => some f
  | none :: rest => firstFail rest

/-- A check of an op. -/
def checkOp (ok : Bool) (st : Status) (op level step : Nat) : Option CheckFail :=
  if ok then none else some { status := st, op := op, level := level, step := step }

/-- A check of the bundle as a whole. -/
def checkAll (ok : Bool) (st : Status) (step : Nat) : Option CheckFail := checkOp ok st 0xFFFF 0 step

/-! ### Loop-order records (R138 to R141) -/

/-- The loop-order word of a level. -/
def Op.order64 (o : Op) (level : Nat) : Nat := leAt o.order (8 * level) 8

/-- The loops of a word, outermost first: 0 Y, 1 M, 2 N, 3 K. -/
def orderLoops (w : Nat) : List Nat := [natBits w 7 6, natBits w 5 4, natBits w 3 2, natBits w 1 0]

/-- Whether a word is binding. -/
def orderBinding (w : Nat) : Bool := w.testBit 8

/-- The extent of a loop. -/
def orderExtent (w loop : Nat) : Nat := natBits w (27 + 12 * loop) (16 + 12 * loop)

/-- R139 for one level. -/
def orderOk (w level : Nat) : Bool :=
  ([0, 1, 2, 3].all fun l => (orderLoops w).contains l) && natBits w 15 9 == 0 &&
    [0, 1, 2, 3].all fun l => if level = 2 then orderExtent w l == 0 else orderExtent w l != 0

/-- The output loops that lie inside K. -/
def insideK (w : Nat) : List Nat := ((orderLoops w).dropWhile fun l => l != 3).drop 1

/-- The product of extents of the output loops inside K: the demand of a word (R140). -/
def orderDemand (w : Nat) : Nat := (insideK w).foldl (fun n l => n * orderExtent w l) 1

/-- The word with K moved to D3 (R141). -/
def orderKInner (w : Nat) : Nat :=
  let l := (orderLoops w).filter fun x => x != 3
  natSetBits w 7 0 (l.foldl (fun n x => n * 4 + x) 0 * 4 + 3)

/-- Whether an op runs on a Matrix Engine (R121). -/
def onMatrix (b : List Byte) (o : Op) : Bool :=
  let t0 := bTens b (o.ins.getD 0 0xFFFF)
  let u := bTens b o.out0
  opName o.opcode == some .conv &&
    (match o.convP.engine t0.c u.c (layoutBlock t0.layout) with
      | .dense => true
      | .block => true
      | _ => false)

/-- The level-0 order of an op is rewritten at admission (R141). -/
def rewrites0 (b : List Byte) (o : Op) : Bool :=
  onMatrix b o && !orderBinding (o.order64 0) && decide (16 < orderDemand (o.order64 0))

/-- The slot demand of an op as it runs (R140, R141). -/
def slotDemand (b : List Byte) (o : Op) : Nat := if rewrites0 b o then 1 else orderDemand (o.order64 0)

/-- Ops whose level-0 order is rewritten. -/
def rewritten0 (b : List Byte) : List Nat := ((bOps b).filter (rewrites0 b)).map Op.ix

/-! ### Step 2: the op table's order (R145, R150, R439) -/

/-- A tensor that an op reads comes from a lower-numbered op, from the previous frame, or from outside, and no
frame-scope output is read in its own frame. -/
def readOk (b : List Byte) (o : Op) (t : Nat) : Bool :=
  (bTens b t).recurrent ||
    match writerOf b t with
    | none => true
    | some w => decide (w.ix < o.ix) && !w.frameScope

/-! ### Step 3 -/

/-- The FMT of OUT0 names the format of OUT_FMT, and the conversion word is legal (R85). -/
def convWordUse (b : List Byte) (o : Op) : Bool :=
  match opName o.opcode with
  | none => false
  | some n => !n.usesConv || (convWordOk o.conv o.lo o.hi && (n == .output || (bTens b o.out0).fmt == (outFmt (o.conv % 16)).code))

/-- Every check of step 3 that concerns one op and no size. -/
def opFormatOk (b : List Byte) (o : Op) : Bool :=
  opRecordOk b o && convWordUse b o && pictureUseOk b o && jugglerOpOk b o && windowFormatOk b o &&
    (opName o.opcode != some .conv || convFormatOk b o)

/-- The sizes of what an op writes (R436, item 3). -/
def writtenOk (b : List Byte) (sz : Sizes) (o : Op) : Bool := convWrittenOk b sz o && windowWrittenOk b sz o && jugglerWrittenOk b sz o

/-- Declared Turnstile numbers. -/
def declaredVirts (b : List Byte) : List Nat := (bTsls b).map TslDecl.virt

/-- No number twice. -/
def distinct : List Nat → Bool
  | [] => true
  | x :: rest => !rest.contains x && distinct rest

/-- Every tensor that an op writes has exactly one row declaration (R196). -/
def rowDeclsOk (b : List Byte) : Bool :=
  ((bOps b).flatMap Op.writes).all fun t => ((bTsls b).filter fun d => d.kind == 1 && d.tensor == t).length == 1

/-- A virtual number that a bundle declares banked: a halo object, or the row object of a tensor that no frame-scope op
writes (R196, R271). -/
def bankedDecl (b : List Byte) (v : BitVec 12) : Bool :=
  (bTsls b).any fun d => d.virt == v.toNat && (d.kind == 2 || (d.kind == 1 && match writerOf b d.tensor with
    | some w => !w.frameScope
    | none => true))

/-- No program that a frame-scope op names waits on a banked object or signals one (R271). -/
def bankedUseOk (b : List Byte) : Bool :=
  (bOps b).all fun o => !o.frameScope || o.progs.all fun p => (bProg b p).words.all fun w =>
    match decodeC w with
    | some (.wait _ _ v) => !bankedDecl b v
    | some (.sig _ _ v _) => !bankedDecl b v
    | _ => true

/-- Tables other than the op table (R193 to R196). -/
def tablesOk (b : List Byte) : Bool :=
  let h := bHeader b
  ((List.range h.ntens).all (tensRecordSound b)) && ((List.range h.nprog).all fun i => progRecordSound b i &&
    progOk (bProg b i) (declaredVirts b) h.npool h.size) &&
  ((List.range h.npool).all fun p => poolRecordSound b p &&
    decide (((List.range h.nprog).filter fun i => (bProg b i).pool == p).length ≤ 16)) &&
  ((List.range h.ntsl).all (tslRecordSound b)) && distinct (declaredVirts b) && rowDeclsOk b && bankedUseOk b

/-! ### Step 4 -/

/-- The parameters of step 4, with the sizes known. -/
def opLimits (b : List Byte) (sz : Sizes) (o : Op) : Option Bool :=
  if opName o.opcode = some .conv then convLimits b sz o else windowLimits b sz o

/-- R113 or R125 as a check. -/
def limitCheck (b : List Byte) (sz : Sizes) (step : Nat) (o : Op) : Option CheckFail :=
  match opLimits b sz o with
  | none => none
  | some size => some { status := if size then .filterSize else .opFormat, op := o.ix, level := 0, step := step }

/-! ### Step 7 -/

/-- Turnstile objects that a declaration needs on a die (R196). -/
def TslDecl.need (b : List Byte) (d : TslDecl) : Nat :=
  match d.kind with
  | 0 => 1
  | 1 => match writerOf b d.tensor with
    | some w => if w.frameScope then 1 else 8
    | none => 8
  | 2 => 8
  | _ => 0

/-- Objects that an instance needs on a die. -/
def tslNeed (b : List Byte) : Nat := ((bTsls b).map fun d => d.need b).sum

/-- The checks of admission in order (R335, items 3 and 4), after the request's own. -/
def admitChecks (b : List Byte) : Option CheckFail :=
  if headerReadable b = false then some { status := .auth, op := 0xFFFF, level := 0, step := 0 }
  else if hashMatches b = false then some { status := .auth, op := 0xFFFF, level := 0, step := 1 }
  else if headerSound b = false then some { status := .opFormat, op := 0xFFFF, level := 0, step := 2 }
  else
    let ops := bOps b
    let sz := fixedSizes b
    firstFail (
      (ops.map fun o => checkOp (o.reads.all (readOk b o)) .opFormat o.ix 0 2) ++
      (ops.map fun o => checkOp (opFormatOk b o) .opFormat o.ix 0 3) ++
      [checkAll (tablesOk b) .opFormat 3] ++
      (ops.map fun o => checkOp (jugglerShapeOk b sz o && writtenOk b sz o) .opFormat o.ix 0 3) ++
      ops.map (limitCheck b sz 4) ++
      ((ops.filter (onMatrix b)).flatMap fun o => [0, 1, 2].map fun l => checkOp (orderOk (o.order64 l) l) .opFormat o.ix l 5) ++
      ((ops.filter (onMatrix b)).map fun o =>
        checkOp (!orderBinding (o.order64 0) || decide (orderDemand (o.order64 0) ≤ 16)) .accSlots o.ix 0 6) ++
      [checkAll (decide (tslNeed b ≤ 4096)) .placement 7])

/-- A mask of ops, one bit each, as a report of n bytes (R335). -/
def opMask (ops : List Nat) (n : Nat) : List Byte :=
  (List.range n).map fun i => BitVec.ofNat 8 ((ops.filter fun o => o / 8 == i).foldl (fun m o => m ||| 2 ^ (o % 8)) 0)

end Sys2Proof.Machine
end

