-- ==== Sys2Proof/Machine/Place.lean ====
section
/-! DEFINITION. Placement at binding: regions, derived sizes, lookahead, spill, footprint, and the checks of Table 6.4,
steps 8 to 12 (R35, R36, R40, R43, R65, R144 to R152, R436, R437). -/

namespace Sys2Proof.Machine

/-! ### Big Top of a die (R160) -/

/-- The areas of Table 7.1. -/
inductive BtArea where
  | staging | golden | save | gaide | scratch | pool
deriving DecidableEq, Repr

/-- The lowest address of an area, and the one after its last. What the staging, golden, save and scratch areas hold stands in State under
its own names (fall-back rows, the golden stripe, spilled tiles, saved and dumped records): no rule gives it an address inside them. -/
def BtArea.range : BtArea → Nat × Nat
  | .staging => (0x0000_0000, 0x00C0_0000)
  | .golden => (0x00C0_0000, 0x0100_0000)
  | .save => (0x0100_0000, 0x0140_0000)
  | .gaide => (0x0140_0000, 0x0160_0000)
  | .scratch => (0x0160_0000, 0x0180_0000)
  | .pool => (0x0180_0000, 0x0A00_0000)

/-- Bytes of Big Top of a die. -/
def bigTopBytes : Nat := 0x0A00_0000

/-- The rectangle of the canvas that a die computes: its column range and rows. -/
structure Region where
  die : DieIx
  head : DieIx
  half : Fin 2
  x0 : Nat
  y0 : Nat
  w : Nat
  h : Nat
deriving DecidableEq, Repr

/-- The 7680×4320 mode at 60 Hz (R26). -/
def Binding.wide (bd : Binding) : Bool := decide (bd.w = 7680 * bd.cols)

/-- Width and height of a head region (R35). -/
def Binding.regionW (bd : Binding) : Nat := bd.w / bd.cols

/-- Height of a head region. -/
def Binding.regionH (bd : Binding) : Nat := bd.a / bd.rows

/-- The heads of a canvas, with grid column and row (R35). -/
def Binding.heads (bd : Binding) : List (DieIx × Nat × Nat) :=
  (List.range (bd.cols * bd.rows)).map fun k => (dieOf (bd.head0 + k), k % bd.cols, k / bd.cols)

/-- Die n XOR 1. -/
def pairDie (d : DieIx) : DieIx := dieOf (d.val ^^^ 1)

/-- The regions that the dies of a canvas compute (R35, R40). -/
def Binding.regions (bd : Binding) : List Region :=
  bd.heads.flatMap fun (hd, c, r) =>
    if bd.wide then
      [⟨hd, hd, 0, c * bd.regionW, r * bd.regionH, 3840, bd.regionH⟩,
       ⟨pairDie hd, hd, 1, c * bd.regionW + 3840, r * bd.regionH, 3840, bd.regionH⟩]
    else [⟨hd, hd, 0, c * bd.regionW, r * bd.regionH, bd.regionW, bd.regionH⟩]

/-- Stripe height (R38). -/
def Binding.stripeH (bd : Binding) : Nat := if bd.h = 0 then 32 else bd.h

/-- Stripes of a region (R39). -/
def Binding.stripes (bd : Binding) : Nat := max 1 (ceilDiv bd.regionH bd.stripeH)

/-- Sizes at binding over one die's region (R436). -/
def Binding.sizes (bd : Binding) (b : List Byte) : Sizes :=
  boundSizes b (if bd.wide then 3840 else bd.regionW) bd.regionH

/-- Sizes over the whole canvas: what an op's edges see (R118). -/
def Binding.canvasSizes (bd : Binding) (b : List Byte) : Sizes := boundSizes b bd.w bd.a

/-! ### Modes (R36, R43) -/

/-- Line period of at most 17.5 µs: 1 / (VTOTAL × rate). -/
def linePeriodOk (vtotal rate : Nat) : Bool := decide (10_000_000_000 ≤ 175 * vtotal * rate)

/-- Blanking of at least 20 µs. -/
def blankTimeOk (a vtotal rate : Nat) : Bool := decide (20 * (vtotal * rate) ≤ (vtotal - a) * 1_000_000_000)

/-- Limits of R36 on a mode of a head. -/
def headModeOk (w a vtotal htotal rate : Nat) : Bool :=
  decide (a ≤ 4320) && decide (w ≤ 3840) && w % 64 == 0 && decide (1 ≤ w) && decide (1 ≤ a) && decide (w ≤ htotal) &&
    decide (a ≤ vtotal) && decide (htotal * vtotal * rate ≤ 2_116_800_000_000) && decide (29_970 ≤ rate) &&
    decide (rate ≤ 240_000) && linePeriodOk vtotal rate && blankTimeOk a vtotal rate

/-- Step 8 of Table 6.4 apart from blanking: grid, heads, modes and the line-mode request (R26, R35, R36, R65). 7680×4320 is bound
in the one mode of Tables 2.1 and 9.10. -/
def gridOk (bd : Binding) : Bool :=
  decide (bd.w % bd.cols = 0) && decide (bd.a % bd.rows = 0) &&
    (if bd.wide then bd.regionH == 4320 && bd.rate == 60_000 && bd.vtotal == 4500 && bd.htotal == 8000 &&
        bd.heads.all fun h => h.1.val % 2 == 0
      else headModeOk bd.regionW bd.regionH bd.vtotal bd.htotal bd.rate) &&
    (!bd.flags.getLsbD 4 || bd.sources.all fun s =>
      match s.lockedBy with
      | 1 => bd.lock == 0
      | 2 => bd.lock == 1 && s.port == 2
      | 3 => true
      | _ => false)

/-! ### Rows that an op reads (R117, R133, R212, R213, R219, R437) -/

/-- A tap line folded into a tensor of n lines; none for padding that reads nothing. -/
def foldLine (mode n : Nat) (i : Int) : Option Nat :=
  if 0 ≤ i ∧ i < (n : Int) then some i.toNat
  else match mode with
    | 2 => some (clampIx n i)
    | 3 => some (reflectIx n i)
    | _ => none

/-- Lines of a sliding window at output line y. -/
def windowLines (mode n k s d before y : Nat) : List Nat :=
  (List.range k).filterMap fun i => foldLine mode n (((y * s + i * d : Nat) : Int) - (before : Int))

/-- Lines of a resize. -/
def resizeLines (method n on y : Nat) : List Nat :=
  let p := floor32 (cropPos 0 0 (f32OfNat n) on y)
  match method with
  | 0 => [nearestIx y n on]
  | 1 => [clampIx n p, clampIx n (p + 1)]
  | _ => (List.range 4).map fun (k : Nat) => clampIx n (p - 1 + (k : Int))

/-- RANGE of the MOTION op that wrote a vector field; the greatest RANGE where none did. -/
def rangeOf (b : List Byte) (t : Nat) : Nat :=
  match writerOf b t with
  | some w => if opName w.opcode = some .motion then w.p16 80 else 256
  | none => 256

/-- Lines from y − r to y + r of a tensor of n lines. -/
def reachLines (n y r : Nat) : List Nat := [clampIx n ((y : Int) - (r : Int)), clampIx n ((y + r : Nat) : Int)]

/-- Lines of input k that an op reads for line y of its output: rows, or columns where `cols` holds. Only the extremes of
a contiguous range are listed. `n` and `on` are the lengths of the input and the output. Row y of the plane that INPUT reads lies
under the rows of the picture that its samples stand for (R437). DEDUCED, entry 15, for MOTION and CROP_RESIZE: every row that the
search or a valid box can reach. -/
def linesRead (b : List Byte) (o : Op) (cols : Bool) (k n on y : Nat) : List Nat :=
  let p := o.convP
  let same : List Nat := if n = 1 then [0] else [y * n / on]
  match opName o.opcode with
  | some .conv =>
    if cols then windowLines p.mode n p.kw p.sx p.dx p.pl y else windowLines p.mode n p.kh p.sy p.dy p.pt y
  | some .pool =>
    if cols then windowLines p.mode n p.kw p.sx 1 p.pl y else windowLines p.mode n p.kh p.sy 1 p.pt y
  | some .resize => resizeLines (o.p8 84) n on y
  | some .input =>
    let f := if o.p8 81 = 1 then (if cols then (pixSub (o.p8 80)).1 else (pixSub (o.p8 80)).2) else 1
    [clampIx n (f * y : Nat), clampIx n (f * y + f - 1 : Nat)]
  | some .cropResize => [0, n - 1]
  | some .spaceDepth => if o.p8 81 = 1 then [y * o.p8 80, y * o.p8 80 + o.p8 80 - 1] else [y / o.p8 80]
  | some .warp => if k = 0 then reachLines n y (rangeOf b (o.ins.getD 1 0)) else [y / 8]
  | some .motion =>
    let r := if k = 0 then 0 else 4 * ceilDiv (o.p16 80) 4
    [clampIx n ((32 * (y / 4) : Nat) - (r : Int)), clampIx n ((32 * (y / 4) + 31 + r : Nat) : Int)]
  | _ => same

/-- The lines of input k that lines y0 to y1 − 1 of OUT0 read: the lowest, and one past the highest; (0, 0) where they read none.
Any row of a window that mirrors can read furthest; of the other operations the first and the last do. -/
def spanRead (b : List Byte) (o : Op) (cols : Bool) (k n on y0 y1 : Nat) : Nat × Nat :=
  let ys := if opName o.opcode = some .conv ∨ opName o.opcode = some .pool then (List.range (y1 - y0)).map fun i => y0 + i
    else if y1 ≤ y0 then [] else [y0, y1 - 1]
  match ys.flatMap (linesRead b o cols k n on) with
  | [] => (0, 0)
  | l => (l.foldl min n, l.foldl max 0 + 1)

/-- Whether an op reads a line of input k for line y of its output: a tap of a window or a resize, or a line of the range that
another operation reads. -/
def readsLine (b : List Byte) (o : Op) (cols : Bool) (k n on y line : Nat) : Bool :=
  let l := linesRead b o cols k n on y
  match opName o.opcode with
  | some .conv => l.contains line
  | some .pool => l.contains line
  | some .resize => l.contains line
  | _ => decide (l.foldl min n ≤ line) && decide (line ≤ l.foldl max 0) && !l.isEmpty

/-! ### Lookahead (R148) -/

/-- Rows of a tensor in n lines of the region: n × r, where it is whole. -/
def rowsOf (b : List Byte) (t n : Nat) : Option Nat := scaleLen n (bTens b t).rowScale

/-- Rows of the region times r, rounded down. -/
def rowsFloor (b : List Byte) (t n : Nat) : Nat :=
  let r := (bTens b t).rowScale
  if 0 ≤ r then n * 2 ^ r.toNat else n / 2 ^ (-r).toNat

/-- A tensor that the binding names as an input (R439). -/
def Binding.names (bd : Binding) (t : Nat) : Bool :=
  (bd.sources.any fun s => s.tensor == t) || bd.frec == t || bd.srcJ == t || bd.srcJ1 == t

/-- Whether an op's read of input k of a tensor bounds the lookahead of that tensor in the same frame. -/
def boundsLook (b : List Byte) (bd : Binding) (o : Op) (t : Nat) : Bool :=
  !o.frameScope && !(bTens b t).recurrent &&
    match writerOf b t with
    | some w => decide (w.ix < o.ix) && !w.frameScope && ((bTens b t).layout ≤ 1)
    | none => bd.names t

/-- Lookahead of a tensor, given what is known of the lookahead of the ops that read it (by op index). -/
def lookOf (b : List Byte) (bd : Binding) (la : List (Nat × Nat)) (t : Nat) : Nat :=
  let sz := bd.sizes b
  (bOps b).foldl (fun best o =>
    (o.ins.zipIdx).foldl (fun best (x, k) =>
      if x = t ∧ boundsLook b bd o t = true then
        match sz t, sz o.out0 with
        | some zt, some zo =>
          let a := ((la.find? fun e => e.1 == o.ix).map Prod.snd).getD 0
          foldRange (bd.stripes - 1) (fun best s =>
            let y0 := if s = 0 then 0 else rowsFloor b o.out0 (s * bd.stripeH) + a
            let y1 := min (rowsFloor b o.out0 ((s + 1) * bd.stripeH) + a) zo.1
            max best ((spanRead b o false k zt.1 zo.1 y0 y1).2 - rowsFloor b t ((s + 1) * bd.stripeH))) best
        | _, _ => best
      else best) best) 0

/-- A_j of every op, from the last op to the first. -/
def lookaheads (b : List Byte) (bd : Binding) : List (Nat × Nat) :=
  (bOps b).reverse.foldl (fun la o =>
    if o.frameScope then la
    else (o.ix, o.writes.foldl (fun m t => max m (lookOf b bd la t)) 0) :: la) []

/-- A_j of an op. -/
def lookaheadOf (la : List (Nat × Nat)) (ix : Nat) : Nat := ((la.find? fun e => e.1 == ix).map Prod.snd).getD 0

/-- The lookahead of an input tensor in source-aligned lines: divided by r and rounded up. -/
def lookLines (b : List Byte) (t n : Nat) : Nat :=
  let r := (bTens b t).rowScale
  if 0 ≤ r then ceilDiv n (2 ^ r.toNat) else n * 2 ^ (-r).toNat

/-! ### Engines and participants (R149, R150) -/

/-- Active Matrix Engines (Table 1.5). -/
def OpPoint.engines : OpPoint → Nat
  | .op0 => 2
  | .op1 => 2
  | .op2 => 1
  | .op3 => 0

/-- Participants of a split reduction (R150). At OP3 no engine runs; placement is then made as for one. -/
def participants (nb e dies : Nat) : Nat := max 1 (min 16 (min nb (e * dies)))

/-- K-blocks of a Matrix Engine op. -/
def opNb (b : List Byte) (o : Op) : Nat :=
  let t0 := bTens b (o.ins.getD 0 0xFFFF)
  o.convP.nb t0.c (bTens b o.out0).c (layoutBlock t0.layout)

/-- N-tiles of a CONV op. -/
def opNt (b : List Byte) (o : Op) : Nat :=
  let t0 := bTens b (o.ins.getD 0 0xFFFF)
  o.convP.nt t0.c (bTens b o.out0).c (layoutBlock t0.layout)

/-- Dies that run a frame-scope op: those of its participants, or die 0. -/
def frameDies (b : List Byte) (o : Op) (e dies : Nat) : List DieIx :=
  if onMatrix b o then
    let p := participants (opNb b o) e dies
    (List.finRange 8).filter fun d => (List.range p).any fun i => i / max e 1 == d.val
  else [0]

/-- Dies of an instance: those of its regions, and those that run its frame-scope ops. -/
def instanceDies (b : List Byte) (bd : Binding) (e dies : Nat) : List DieIx :=
  let r := bd.regions.map Region.die
  let f := ((bOps b).filter Op.frameScope).flatMap fun o => frameDies b o e dies
  (List.finRange 8).filter fun d => r.contains d || f.contains d

/-! ### Spill (R144) -/

/-- Output rows, M-tiles, N-tiles and K-blocks of an op in a stripe part; a frame-scope op computes its whole output at once. -/
def opCounts (b : List Byte) (bd : Binding) (o : Op) : Nat → Nat
  | 0 => if o.frameScope then max 1 (bTens b o.out0).h else rowsFloor b o.out0 bd.stripeH
  | 1 => match bd.sizes b o.out0 with
    | some z => ceilDiv z.2 64
    | none => 1
  | 2 => opNt b o
  | _ => opNb b o

/-- Spill tiles at level 1 or 2 with a given word: slot demand of level 0 times the extents inside K; 0 where no output
loop lies inside K. -/
def spillTiles (b : List Byte) (bd : Binding) (o : Op) (level w : Nat) : Nat :=
  let ins := insideK w
  if ins.isEmpty then 0
  else slotDemand b o * ins.foldl (fun n l => n * (if level = 1 then orderExtent w l else
    ceilDiv (ceilDiv (opCounts b bd o l) (orderExtent (o.order64 0) l)) (orderExtent (o.order64 1) l))) 1

/-- Bytes of a spilled tile. -/
def spillBytes (n : Nat) : Nat := 131_072 * n

/-! ### Footprint (R152) -/

/-- Line pitch of a tensor over w columns (R110). -/
def linePitch (t : Tens) (w : Nat) : Nat := ceilDiv (w * paddedC t.layout t.c * fmtBytes t.fmt) 64 * 64

/-- Bytes of one picture row over w columns, all planes (R229, Table 9.2). -/
def pictureRow (p w : Nat) : Nat :=
  let bytes := if p = 13 then 8 * w else if p = 12 then 6 * w else if p = 11 then 4 * w else if p = 10 then 3 * w
    else if pixDepth p = 8 then w else 2 * w
  let pitch := ceilDiv bytes 64 * 64
  if p < 4 then pitch + ceilDiv pitch 2 else if p < 8 then 2 * pitch else if p < 10 then 3 * pitch else pitch

/-- Whole bytes of a tensor of h by w. -/
def tensorBytes (t : Tens) (h w : Nat) : Nat :=
  if t.layout ≤ 1 then t.nb * h * (w * paddedC t.layout t.c * fmtBytes t.fmt) else t.nb * h * w * t.c * fmtBytes t.fmt

/-- Rows that the consumers of a tensor read above and below what its producer computes in a step (R152). -/
def rowsBeyond (b : List Byte) (bd : Binding) (la : List (Nat × Nat)) (t : Nat) : Nat × Nat :=
  let sz := bd.sizes b
  let aj := match writerOf b t with
    | some w => lookaheadOf la w.ix
    | none => 0
  (bOps b).foldl (fun best o =>
    (o.ins.zipIdx).foldl (fun best (x, k) =>
      if x = t ∧ o.frameScope = false ∧ (bTens b t).recurrent = false then
        match sz t, sz o.out0 with
        | some zt, some zo =>
          foldRange bd.stripes (fun (best : Nat × Nat) s =>
            let y0 := if s = 0 then 0 else rowsFloor b o.out0 (s * bd.stripeH) + lookaheadOf la o.ix
            let y1 := min (rowsFloor b o.out0 ((s + 1) * bd.stripeH) + lookaheadOf la o.ix) zo.1
            let (lo, hi) := spanRead b o false k zt.1 zo.1 y0 y1
            let first := if s = 0 then 0 else rowsFloor b t (s * bd.stripeH) + aj
            let last := rowsFloor b t ((s + 1) * bd.stripeH) + aj
            if hi = 0 then best else (max best.1 (first - lo), max best.2 (hi - last))) best
        | _, _ => best
      else best) best) (0, 0)

/-- Columns, or rows, that consumers read beyond the two edges of a region (R118, R152). -/
def edgeBeyond (b : List Byte) (bd : Binding) (cols : Bool) (t : Nat) (r : Region) : Nat × Nat :=
  let csz := bd.canvasSizes b
  let at_ (t : Nat) : Nat × Nat := if cols then (rowsFloor b t r.x0, rowsFloor b t (r.x0 + r.w))
    else (rowsFloor b t r.y0, rowsFloor b t (r.y0 + r.h))
  (bOps b).foldl (fun best o =>
    (o.ins.zipIdx).foldl (fun (best : Nat × Nat) (x, k) =>
      if x = t ∧ o.frameScope = false ∧ (bTens b t).fixed = false then
        match csz t, csz o.out0 with
        | some zt, some zo =>
          let u := at_ o.out0
          let (lo, hi) := spanRead b o cols k (if cols then zt.2 else zt.1) (if cols then zo.2 else zo.1) u.1 u.2
          if hi = 0 then best else (max best.1 ((at_ t).1 - lo), max best.2 (hi - (at_ t).2))
        | _, _ => best
      else best) best) (0, 0)

/-- Rows of the stripe buffer of a tensor: two stripes and what its consumers read above and below (R152). -/
def bufferRows (b : List Byte) (bd : Binding) (la : List (Nat × Nat)) (i : Nat) : Nat :=
  let (up, dn) := rowsBeyond b bd la i
  2 * rowsFloor b i bd.stripeH + up + dn

/-- Bytes of stripe, halo, constant and recurrent buffers of a tensor on a die with a region (R152). `scaled` says that the picture
is that of a vertically scaled layer. A boundary to the left or right takes the rows of the stripe buffer by the columns read beyond
it; one above or below takes the rows read beyond it at the line pitch (DEDUCED, entry 81). -/
def tensorFoot (b : List Byte) (bd : Binding) (la : List (Nat × Nat)) (scaled : Nat → Bool) (r : Region) (i : Nat) : Nat :=
  let t := bTens b i
  let written := (writerOf b i).isSome
  let size := if t.fixed then (t.h, t.w) else (((bd.sizes b) i).getD (0, 0))
  if t.layout = 4 then
    if written then (2 * rowsFloor b i bd.stripeH + (if scaled i then 7 else 0)) * pictureRow t.fmt size.2 else 0
  else if 2 ≤ t.layout ∨ (!written && !bd.names i) = true then tensorBytes t size.1 size.2
  else
    let n := bufferRows b bd la i
    let (lf, rt) := if written then edgeBeyond b bd true i r else (0, 0)
    let (ab, be) := if written then edgeBeyond b bd false i r else (0, 0)
    (n + ab + be) * linePitch t size.2 * t.nb + n * (lf + rt) * paddedC t.layout t.c * fmtBytes t.fmt * t.nb +
      (if t.recurrent ∧ t.inDram = false then tensorBytes t size.1 size.2 else 0)

/-- Bytes of a weight-side stream in Big Top, and of its staging buffer where it is moved to DRAM. -/
structure StreamFoot where
  prog : Nat
  op : Nat
  bytes : Nat
  staged : Nat
deriving DecidableEq, Repr

/-- The streams of the ops of a bundle, one entry per program. -/
def streamFeet (b : List Byte) : List StreamFoot :=
  (bOps b).foldl (fun acc o =>
    let nt := opNt b o
    let nb := opNb b o
    let ext (l : Nat) : Nat := orderExtent (o.order64 0) l * orderExtent (o.order64 1) l
    let nN := if onMatrix b o then min nt (ext 2) else nt
    let nK := if onMatrix b o then min nb (ext 3) else nb
    (o.streams nt nb).foldl (fun acc s =>
      if s.1 = 0xFFFF ∨ (acc.any fun e => e.prog == s.1) = true then acc
      else
        let size := 64 + payloadBytes s.2.1 o.form o.quant
        let blocks := if s.2.1 = 7 then nN else if s.2.1 = 5 then nN * ceilDiv nK (quantSpan o.quant nb) else nN * nK
        acc ++ [{ prog := s.1, op := o.ix, bytes := ((streamBytes b (bProg b s.1)).getD []).length,
                  staged := 2 * blocks * size }]) acc) []

/-- Move streams to DRAM, largest first with ties to the lower op index, until a footprint fits (R152, step 2). -/
def moveStreams (cap : Nat) : List StreamFoot → Nat → Nat → Nat × Nat
  | [], foot, moved => (foot, moved)
  | x :: rest, foot, moved =>
    if foot ≤ cap then (foot, moved) else moveStreams cap rest (foot - x.bytes + x.staged) (moved + 1)

/-- Streams by size, largest first. -/
def feetSorted (l : List StreamFoot) : List StreamFoot :=
  sortBy (fun x y => decide (y.bytes < x.bytes) || (x.bytes == y.bytes && decide (x.op < y.op))) l

/-- What placement on one die comes to: footprint in bytes, level-1 and level-2 words rewritten, streams moved, and the greatest
level-0 slot demand placed on each Matrix Engine. -/
structure DiePlace where
  die : DieIx
  foot : Nat
  rew1 : List Nat
  rew2 : List Nat
  moved : Nat
  peak : Nat × Nat
deriving DecidableEq, Repr

/-- Bytes of tensors that a bundle holds in DRAM on a die. -/
def dramTensors (b : List Byte) (bd : Binding) : Nat :=
  ((List.range (bHeader b).ntens).map fun i =>
    let t := bTens b i
    let z := if t.fixed then (t.h, t.w) else ((bd.sizes b) i).getD (0, 0)
    if t.recurrent ∧ t.inDram = true then
      match t.codec with
      | 0 => tensorBytes t z.1 z.2
      | 1 => t.nb * z.1 * codedBytes 1 0 (z.2 * paddedC t.layout t.c * fmtBytes t.fmt)
      | k => t.nb * z.1 * codedBytes 3 (k - 2) (z.2 * paddedC t.layout t.c * fmtBytes t.fmt)
    else 0).sum

end Sys2Proof.Machine
end

