-- ==== Sys2Proof/Machine/Flags.lean ====
section
/-! DEFINITION. Event flags: the _EVT registers, in which hardware events set bits that software clears by writing
1 (R8, R11), and the REG records that their rises post (R331, R333). An enable register lies 4 bytes after its
_EVT register in every block. -/

namespace Sys2Proof.Machine

/-- The state after bits of an _EVT register of a die are set by an event. The bits that rise and whose enable bit is
1 are reported in one REG record to the die's event queue (Table 12.8). -/
def State.raise (s : State) (d : DieIx) (evt mask : Nat) : State :=
  let old := s.reg d evt
  let rose := BitVec.ofNat 32 mask &&& ~~~ old &&& s.reg d (evt + 4)
  let s1 := s.setReg d evt (old ||| BitVec.ofNat 32 mask)
  s1.withHost (if rose = 0 then s.host else s.host.postDie d 0x0003 (leBytes 4 evt ++ leBytes 4 rose.toNat))

/-- Raise what a mask names, if anything. -/
def State.raiseSome (s : State) (d : DieIx) (evt mask : Nat) : State := if mask = 0 then s else s.raise d evt mask

/-- The flags of the counters of a list that count in the cycle of their clear: bit k of `co` stands for the k-th mask. -/
def coFlags (co : Nat) (masks : List Nat) : Nat := (masks.zipIdx.map fun e => if co.testBit e.2 then e.1 else 0).foldl (· ||| ·) 0

/-- Raise bits of HST_EVT on die 0. -/
def State.raiseHost (s : State) (mask : Nat) : State := s.onHost fun h => h.raise mask

/-- A counted event: a 32-bit counter that holds at its highest value, and its flag. -/
def State.countRaise (s : State) (d : DieIx) (cnt evt mask : Nat) : State := (s.count d cnt 1).raise d evt mask

end Sys2Proof.Machine
end

