-- ==== Sys2Proof/Machine/TslCore.lean ====
section
/-! DEFINITION. Turnstile objects, contexts and translation as the memory of one die holds them (chapter "Turnstiles,
fences and barriers"). -/

namespace Sys2Proof.Machine

/-- The highest VALUE, 2^31 − 1 (R259). -/
def tslMax : Nat := 2 ^ 31 - 1

/-- A fresh object: VALUE as given, flags clear, never signalled (R259, R274). -/
def TslObj.fresh (ctx : Nat) (virt : Option (BitVec 12)) (bank : Option (Fin 8)) (value : Nat) : TslObj :=
  { value := value, ovf := false, poison := false, last := none, waiters := [], retry := [], ctx := ctx, virt := virt,
    bank := bank }

/-! ### One cycle of an object (R261) -/

/-- What an operation or waiter receives. -/
inductive TslResult where
  | proceeds (st : Status)     -- a wait is satisfied or released
  | applied                    -- ADD, SUB or SET took effect
  | saturated                  -- an ADD held VALUE at its highest value (R262)
  | refused                    -- a SUB below zero (R263)
  | poisoned                   -- an ADD, SUB or SET on a poisoned object (R273)
  | queued                     -- a wait joined the list
  | full                       -- a host wait found no waiter record (R264)
deriving DecidableEq, Repr

/-- The order of issuer identifiers: class, die, instance, queue (R264). -/
def issuerKey (i : Issuer) : Nat := ((i.cls.val * 8 + i.die.val) * 65536 + i.inst) * 2 ^ 32 + i.queue

/-- Operations in ascending order of issuer; of one issuer, in the order sent (R261, R265). -/
def insertReq (q : TslReq) : List TslReq → List TslReq
  | [] => [q]
  | x :: rest => if issuerKey q.iss < issuerKey x.iss then q :: x :: rest else x :: insertReq q rest

/-- Sort the operations of a cycle. -/
def sortReqs (l : List TslReq) : List TslReq := l.foldl (fun acc q => insertReq q acc) []

/-- Whether an operation changes VALUE. -/
def opChanges : TslOp → Bool
  | .waitGe _ => false
  | .waitSub _ => false
  | .add _ => true
  | .sub _ => true
  | .set _ => true

/-- Step 2 of R261 for one ADD, SUB or SET (R262, R263). The last signaller records the GSC for classes 0 and 8
(R282). -/
def TslObj.change (o : TslObj) (q : TslReq) (gsc : Nat) : TslObj × TslResult :=
  let last := some { q with step := if q.iss.cls.val = 0 ∨ q.iss.cls.val = 8 then BitVec.ofNat 64 gsc else q.step }
  match q.op with
  | .add v =>
    if tslMax < o.value + v then ({ o with value := tslMax, ovf := true, last := last }, .saturated)
    else ({ o with value := o.value + v, last := last }, .applied)
  | .sub v => if o.value < v then (o, .refused) else ({ o with value := o.value - v, last := last }, .applied)
  | .set v => ({ o with value := v, last := last }, .applied)
  | .waitGe _ => (o, .applied)
  | .waitSub _ => (o, .applied)

/-- Step 2 of R261. -/
def TslObj.changeAll (gsc : Nat) : TslObj → List TslReq → TslObj × List (TslReq × TslResult)
  | o, [] => (o, [])
  | o, q :: rest =>
    let (o1, r) := o.change q gsc
    let (o2, rs) := TslObj.changeAll gsc o1 rest
    (o2, (q, r) :: rs)

/-- Whether a waiting request is a WAIT_GE that a VALUE satisfies (step 3 of R261). -/
def reqGeFits (q : TslReq) (value : Nat) : Bool :=
  match q.op with
  | .waitGe n => decide (n ≤ value)
  | .waitSub _ => false
  | .add _ => false
  | .sub _ => false
  | .set _ => false

/-- Step 4 of R261 over waiting requests, each tagged with whether it is new: WAIT_SUB requests are taken in order until
the first that does not fit. Answers the VALUE left, those that proceed, and those that keep waiting. -/
def takeSubs : Nat → Bool → List (Bool × TslReq) → Nat × List TslReq × List (Bool × TslReq)
  | v, _, [] => (v, [], [])
  | v, stopped, q :: rest =>
    match q.2.op with
    | .waitSub n =>
      if !stopped && decide (n ≤ v) then
        let (v', p, w) := takeSubs (v - n) false rest
        (v', q.2 :: p, w)
      else
        let (v', p, w) := takeSubs v true rest
        (v', p, q :: w)
    | .waitGe _ | .add _ | .sub _ | .set _ =>
      let (v', p, w) := takeSubs v stopped rest
      (v', p, q :: w)

/-- A wait for 0 proceeds in the cycle in which it arrives and changes nothing (R260). -/
def opWaitsForZero : TslOp → Bool
  | .waitGe n => n == 0
  | .waitSub n => n == 0
  | .add _ => false
  | .sub _ => false
  | .set _ => false

/-- The outcome of one cycle of an object: the object, and what each operation or waiter receives. -/
structure Resolution where
  obj : TslObj
  results : List (TslReq × TslResult)
deriving DecidableEq, Repr

/-- One fabric cycle of an object (R261), poisoning having been applied. `hostFree` is the number of host waiter
records that the die has free (R264): a host wait that finds none stays at its head. -/
def TslObj.resolve (o : TslObj) (ops : List TslReq) (gsc hostFree : Nat) : Resolution :=
  if o.poison then
    { obj := o, results := ops.map fun q => (q, if opChanges q.op then .poisoned else .proceeds .poisoned) }
  else
    let arr := sortReqs ops
    let chg := arr.filter fun q => opChanges q.op
    let zero := arr.filter fun q => opWaitsForZero q.op
    let again := chg.any fun q => match q.op with
      | .add _ => true
      | .set _ => true
      | .sub _ => false
      | .waitGe _ => false
      | .waitSub _ => false
    let tried := if again then o.retry.map Waiter.req else []
    let wait := sortReqs (tried ++ arr.filter fun q => !(opChanges q.op) && !(opWaitsForZero q.op))
    let (o1, rs) := TslObj.changeAll gsc o chg
    let all := o1.waiters.map (fun w => (false, w.req)) ++ wait.map fun q => (true, q)
    let ge := (all.filter fun q => reqGeFits q.2 o1.value).map Prod.snd
    let (v, subs, rest) := takeSubs o1.value false (all.filter fun q => !(reqGeFits q.2 o1.value))
    let kept := (rest.filter fun q => !q.1).map Prod.snd
    let fresh := (rest.filter fun q => q.1).map Prod.snd
    let (lst, rty) := fresh.foldl (fun (acc : List TslReq × List TslReq) q =>
      if q.iss.cls.val = 8 ∧ hostFree ≤ (acc.1.filter fun x => x.iss.cls.val == 8).length then (acc.1, acc.2 ++ [q])
      else (acc.1 ++ [q], acc.2)) ([], [])
    { obj := { o1 with value := v, waiters := (kept ++ lst).map Waiter.mk,
                       retry := (if again then [] else o1.retry) ++ rty.map Waiter.mk },
      results := rs ++ zero.map (fun q => (q, .proceeds .ok)) ++ ge.map (fun q => (q, .proceeds .ok)) ++
        subs.map (fun q => (q, .proceeds .ok)) ++ lst.map (fun q => (q, .queued)) ++
        rty.map fun q => (q, .full) }

/-! ### The memory of a die -/

/-- An allocated object by physical number. -/
def Tsl.obj (t : Tsl) (n : Nat) : Option TslObj := sLookup t.objs n

/-- The memory with an object set. -/
def Tsl.setObj (t : Tsl) (n : Nat) (o : TslObj) : Tsl := { t with objs := sInsert t.objs n o }

/-- The memory with objects freed. -/
def Tsl.freeObjs (t : Tsl) (ns : List Nat) : Tsl := { t with objs := ns.foldl sErase t.objs }

/-- A context in existence. -/
def Tsl.ctx (t : Tsl) (c : Nat) : Option TslCtx := sLookup t.ctxs c

/-- A VALID translation entry (Table 10.5). -/
def TslCtx.entry (c : TslCtx) (v : BitVec 12) : Option TslEntry := (c.table.find? fun e => e.1 == v).map Prod.snd

/-- The physical object that a virtual number resolves to for a stripe step (R270, R271). An imported entry resolves
while the object it names is allocated. -/
def Tsl.translate (t : Tsl) (ctx : Nat) (v : BitVec 12) (stepSeq : Nat) : Option Nat :=
  match t.ctx ctx with
  | none => none
  | some c =>
    match c.entry v with
    | none => none
    | some e =>
      let n := if e.banked then e.base + stepSeq % 8 else e.base
      if (t.obj n).isSome then some n else none

/-- Physical objects that an entry owns. -/
def TslEntry.owns (e : TslEntry) : List Nat :=
  if e.imported then [] else if e.banked then (List.range 8).map fun i => e.base + i else [e.base]

/-- Physical objects that a context owns on the die. -/
def TslCtx.owned (c : TslCtx) : List Nat := c.table.flatMap fun e => e.2.owns

/-- Free objects outside context 0 (TSL_STATUS.FREE). -/
def Tsl.free (t : Tsl) : Nat := 15360 - (t.objs.filter fun e => decide (1024 ≤ e.1)).length

/-- The lowest n consecutive free physical numbers from lo below hi: a banked entry takes 8 (Table 10.5). DESIGN
CHOICE, entry 8: the manual does not say which free object is taken. `fuel` bounds the search. -/
def findRun (objs : SMap TslObj) (n hi : Nat) : Nat → Nat → Option Nat
  | 0, _ => none
  | fuel + 1, p =>
    if hi < p + n then none
    else match (List.range n).find? fun i => (sLookup objs (p + n - 1 - i)).isSome with
      | none => some p
      | some i => findRun objs n hi fuel (p + n - i)

/-- Objects of context 0 lie below 1,024, all others above (R259, R269). -/
def Tsl.findFree (t : Tsl) (ctx n : Nat) : Option Nat :=
  if ctx = 0 then findRun t.objs n 1024 (t.objs.length + 1) 0 else findRun t.objs n 16384 (t.objs.length + 1) 1024

/-- Allocate an entry of a context: a banked one takes 8 objects, all with the given VALUE. None without room: a
context owns at most 4,096 objects on a die (R269). -/
def Tsl.map (t : Tsl) (ctx : Nat) (v : BitVec 12) (banked : Bool) (value : Nat) : Option Tsl :=
  match t.ctx ctx with
  | none => none
  | some c =>
    let n := if banked then 8 else 1
    if 4096 < c.owned.length + n then none
    else match t.findFree ctx n with
      | none => none
      | some b =>
        let objs := (List.range n).foldl (fun m i =>
          sInsert m (b + i) (TslObj.fresh ctx (some v) (if banked then some (Fin.ofNat 8 i) else none) value)) t.objs
        some { t with objs := objs,
                      ctxs := sInsert t.ctxs ctx
                        { c with table := c.table ++ [(v, { base := b, banked := banked, imported := false })] } }

/-- An imported entry: it names an object of the owning function's context on the same die (R270). -/
def Tsl.importEntry (t : Tsl) (ctx : Nat) (v : BitVec 12) (base : Nat) : Tsl :=
  match t.ctx ctx with
  | none => t
  | some c => { t with ctxs := sInsert t.ctxs ctx
                        { c with table := c.table ++ [(v, { base := base, banked := false, imported := true })] } }

/-- Waiters, and retried host heads, of some objects, in ascending physical order. -/
def Tsl.waitersOf (t : Tsl) (ns : List Nat) : List TslReq :=
  (t.objs.filter fun e => ns.contains e.1).flatMap fun e => (e.2.waiters ++ e.2.retry).map Waiter.req

/-- Mark the objects of a context with POISON and release their waiters (R273). Answers the released waiters. -/
def Tsl.poison (t : Tsl) (ctx : Nat) : Tsl × List TslReq :=
  match t.ctx ctx with
  | none => (t, [])
  | some c =>
    let own := c.owned
    ({ t with objs := t.objs.map fun e =>
        if own.contains e.1 then (e.1, { e.2 with poison := true, waiters := [], retry := [] }) else e },
      t.waitersOf own)

/-- Free every object of a context and remove it (R277). Answers the waiters that its objects still had. -/
def Tsl.destroy (t : Tsl) (ctx : Nat) : Tsl × List TslReq :=
  match t.ctx ctx with
  | none => (t, [])
  | some c =>
    let own := c.owned
    ({ t.freeObjs own with ctxs := sErase t.ctxs ctx }, t.waitersOf own)

/-- Set every banked object of one bank of a context to 0 (R272). Waiters that WAIT_GE 0 or WAIT_SUB 0 never join the
list, so none is released. -/
def Tsl.bankReset (t : Tsl) (ctx k : Nat) : Tsl :=
  { t with objs := t.objs.map fun e =>
      if e.2.ctx = ctx ∧ e.2.bank = some (Fin.ofNat 8 k) then (e.1, { e.2 with value := 0 }) else e }

/-- Set every object of a context to 0 (R275). -/
def Tsl.zero (t : Tsl) (ctx : Nat) : Tsl :=
  { t with objs := t.objs.map fun e => if e.2.ctx = ctx then (e.1, { e.2 with value := 0 }) else e }

/-- Host waiter records in use on the die (R264). -/
def Tsl.hostWaiters (t : Tsl) : Nat :=
  (t.objs.map fun e => (e.2.waiters.filter fun w => w.req.iss.cls.val == 8).length).sum

/-- Remove the waiters of an issuer, whose work was cancelled (R275, R326). -/
def Tsl.cancel (t : Tsl) (p : TslReq → Bool) : Tsl :=
  { t with objs := t.objs.map fun e => (e.1, { e.2 with waiters := e.2.waiters.filter fun w => !p w.req,
                                                         retry := e.2.retry.filter fun w => !p w.req }) }

/-! ### Capture and dump (R282, R283) -/

/-- The object that TSL_SEL selects: by physical number, or by context, virtual number and bank. -/
def Tsl.select (t : Tsl) (w : Word) : Option TslObj :=
  if bit w 31 then
    match t.ctx (bits w 27 20) with
    | none => none
    | some c =>
      match c.entry (BitVec.ofNat 12 (bits w 11 0)) with
      | none => none
      | some e => t.obj (if e.banked then e.base + bits w 30 28 else e.base)
  else t.obj (bits w 13 0)

/-- Whether an object is named by an import in some context of the die. -/
def Tsl.isImported (t : Tsl) (n : Nat) : Bool :=
  t.ctxs.any fun c => c.2.table.any fun e => e.2.imported && e.2.base == n

/-- KIND and N of a waiter. -/
def opWaitKind : TslOp → Nat × Nat
  | .waitGe n => (0, n)
  | .waitSub n => (1, n)
  | .add v => (0, v)
  | .sub v => (0, v)
  | .set v => (0, v)

/-- A waiter record of a dump (16 bytes). -/
def waiterRecord (q : TslReq) : List Byte :=
  leBytes 4 (opWaitKind q.op).2 ++ [BitVec.ofNat 8 (opWaitKind q.op).1, BitVec.ofNat 8 q.iss.cls.val,
    BitVec.ofNat 8 q.iss.die.val, 0] ++ leBytes 2 q.iss.inst ++ leBytes 2 q.opIx.toNat ++ leBytes 4 q.iss.queue

/-- An object record of a dump (Table 10.9). -/
def objRecord (n : Nat) (o : TslObj) (imported : Bool) : List Byte :=
  let (lc, ld, li, lo, lq, ls) := match o.last with
    | some q => (q.iss.cls.val, q.iss.die.val, q.iss.inst, q.opIx.toNat, q.iss.queue, q.step.toNat)
    | none => (0xFF, 0, 0, 0xFFFF, 0xFFFF_FFFF, 0)
  leBytes 2 n ++ [BitVec.ofNat 8 o.ctx,
    BitVec.ofNat 8 (b2n o.ovf + 2 * b2n o.poison + 4 * b2n o.bank.isSome + 8 * b2n imported)] ++
    leBytes 2 ((o.virt.map BitVec.toNat).getD 0xFFFF) ++
    [BitVec.ofNat 8 ((o.bank.map Fin.val).getD 0xFF), 0] ++ leBytes 4 o.value ++
    leBytes 2 o.waiters.length ++ [BitVec.ofNat 8 lc, BitVec.ofNat 8 ld] ++ leBytes 2 li ++
    leBytes 2 lo ++ leBytes 4 lq ++ leBytes 8 ls

/-- The records of a die's dump, each with whether it is an object record. -/
def Tsl.records (t : Tsl) : List (Bool × List Byte) :=
  t.objs.flatMap fun e => (true, objRecord e.1 e.2 (t.isImported e.1)) ::
    e.2.waiters.map fun w => (false, waiterRecord w.req)

/-- The records that fit a buffer, and whether all do. -/
def takeRecords : Nat → List (Bool × List Byte) → List (Bool × List Byte) × Bool
  | _, [] => ([], false)
  | room, r :: rest =>
    if r.2.length ≤ room then
      let (l, t) := takeRecords (room - r.2.length) rest
      (r :: l, t)
    else ([], true)

/-- One die's part of a dump in a buffer, and whether it was cut short (Table 10.8). -/
def Tsl.dumpDie (t : Tsl) (die : DieIx) (freeze : Bool) (step : Dword) (room : Nat) : List Byte × Bool :=
  if room < 64 then ([], true)
  else
    let (rs, cut) := takeRecords (room - 64) t.records
    let objs := (rs.filter fun r => r.1).length
    let body := rs.flatMap Prod.snd
    (leBytes 4 0x4C53_5444 ++ leBytes 2 1 ++ [BitVec.ofNat 8 die.val, BitVec.ofNat 8 (b2n freeze + 2 * b2n cut)] ++
      leBytes 8 step.toNat ++ leBytes 4 objs ++ leBytes 4 (rs.length - objs) ++ leBytes 4 (64 + body.length) ++
      List.replicate 36 0 ++ body, cut)

end Sys2Proof.Machine
end

