-- ==== Sys2Proof/Machine/BindCheck.lean ====
section
/-! DEFINITION. Reading a binding block, and the checks of Table 6.4, steps 8 to 12, with the placement that a binding
which passes them takes (R144 to R152, R336, R436). -/

namespace Sys2Proof.Machine

/-! ### The block (Table 12.10) -/

/-- A source entry. -/
def readSource (l : List Byte) (o : Nat) : SourceEntry :=
  { tensor := leAt l o 2, port := leAt l (o + 2) 1, die := leAt l (o + 3) 1, stream := leAt l (o + 4) 1,
    lockedBy := leAt l (o + 5) 1, width := leAt l (o + 8) 2, height := leAt l (o + 10) 2, pixfmt := leAt l (o + 12) 1,
    plane := leAt l (o + 13) 1 }

/-- A layer entry. -/
def readLayer (l : List Byte) (o : Nat) : LayerEntry :=
  { layer := leAt l o 1, pixfmt := leAt l (o + 1) 1, op := leAt l (o + 2) 2, source := leAt l (o + 4) 1 }

/-- An import entry. -/
def readImport (l : List Byte) (o : Nat) : ImportEntry :=
  { bundleVirt := leAt l o 2, funcVirt := leAt l (o + 2) 2, die := leAt l (o + 4) 1 }

/-- A tap. -/
def readTap (l : List Byte) (o : Nat) : TapEntry :=
  { op := leAt l o 2, step := BitVec.ofNat 64 (leAt l (o + 8) 8), addr := BitVec.ofNat 64 (leAt l (o + 16) 8),
    length := leAt l (o + 24) 4 }

/-- A binding block. -/
def readBinding (l : List Byte) : Binding :=
  let ns := leAt l 54 1
  let nl := leAt l 55 1
  let ni := leAt l 56 1
  let nt := leAt l 57 1
  let lo := 128 + 16 * ns
  let im := lo + 16 * nl
  let tp := im + 8 * ni
  { bundle := leAt l 0 2, flags := BitVec.ofNat 8 (leAt l 2 1), h := leAt l 3 1, head0 := leAt l 4 1, cols := leAt l 5 1,
    rows := leAt l 6 1, lock := leAt l 7 1, w := leAt l 8 2, a := leAt l 10 2, vtotal := leAt l 12 2,
    htotal := leAt l 14 2, rate := leAt l 16 4, rq := leAt l 20 1, coef := leAt l 21 1, fs := leAt l 22 1,
    btCap := leAt l 24 4, dram := leAt l 32 8, cq := leAt l 40 4, eq := leAt l 44 4, frec := leAt l 48 2,
    srcJ := leAt l 50 2, srcJ1 := leAt l 52 2, first := BitVec.ofNat 64 (leAt l 64 8),
    last := BitVec.ofNat 64 (leAt l 72 8), ckpt := BitVec.ofNat 64 (leAt l 80 8),
    sources := (List.range ns).map fun i => readSource l (128 + 16 * i),
    layers := (List.range nl).map fun i => readLayer l (lo + 16 * i),
    imports := (List.range ni).map fun i => readImport l (im + 8 * i),
    taps := (List.range nt).map fun i => readTap l (tp + 32 * i) }

/-- Bytes of a range are 0. -/
def zeroAt (l : List Byte) (o n : Nat) : Bool := leAt l o n == 0

/-- Format and ranges of a block (R336, item 1). -/
def bindingFormatOk (l : List Byte) (dies : Nat) : Bool :=
  let bd := readBinding l
  let ns := leAt l 54 1
  let nl := leAt l 55 1
  let ni := leAt l 56 1
  let nt := leAt l 57 1
  let lo := 128 + 16 * ns
  let im := lo + 16 * nl
  let tp := im + 8 * ni
  let replay := bd.flags.getLsbD 0
  decide (128 ≤ l.length) && l.length == tp + 32 * nt && decide (bd.flags.toNat < 32) &&
    (bd.h == 0 || bd.h == 8 || bd.h == 16 || bd.h == 32 || bd.h == 64) && decide (1 ≤ bd.cols) && decide (1 ≤ bd.rows) &&
    decide (bd.head0 + bd.cols * bd.rows ≤ dies) && decide (bd.lock ≤ 2) && decide (bd.rq ≤ 2) && decide (bd.coef ≤ 3) &&
    decide (bd.fs ≤ 8) && bd.dram % 65536 == 0 && zeroAt l 23 1 && zeroAt l 28 4 && zeroAt l 58 6 && zeroAt l 88 40 &&
    decide (ns ≤ 8) && decide (1 ≤ nl) && decide (nl ≤ 16) && decide (ni ≤ 64) && decide (nt ≤ 8) &&
    (replay || (!bd.flags.getLsbD 1 && nt == 0 && bd.first == 0 && bd.last == 0 && bd.ckpt == 0)) &&
    (bd.sources.all fun s => decide (s.port ≤ 3) && decide (s.die < dies) && decide (s.lockedBy ≤ 3) &&
      decide (s.pixfmt ≤ 13) && decide (s.plane ≤ 1) && decide (s.stream < 64)) &&
    ((List.range ns).all fun i => zeroAt l (128 + 16 * i + 6) 2 && zeroAt l (128 + 16 * i + 14) 2) &&
    (bd.layers.all fun x => decide (x.layer ≤ 15) && decide (x.pixfmt ≤ 13)) && distinct (bd.layers.map LayerEntry.layer) &&
    ((List.range nl).all fun i => zeroAt l (lo + 16 * i + 5) 11) &&
    (bd.imports.all fun x => decide (x.bundleVirt < 4096) && decide (x.funcVirt < 4096) && decide (x.die < dies)) &&
    ((List.range ni).all fun i => zeroAt l (im + 8 * i + 5) 3) &&
    (List.range nt).all fun i => zeroAt l (tp + 32 * i + 2) 6 && zeroAt l (tp + 32 * i + 28) 4

/-- Agreement of a block with its bundle (R336, item 3). -/
def bindingAgrees (b : List Byte) (bd : Binding) (dies : List DieIx) : Bool :=
  let nt := (bHeader b).ntens
  let isIn (t : Nat) : Bool := decide (t < nt) && (bTens b t).layout == 4 && (writerOf b t).isNone
  let named (t : Nat) : Bool := t == 0xFFFF || decide (t < nt)
  let imports := (bTsls b).filter fun d => d.kind == 3
  (bd.sources.all fun s => isIn s.tensor) &&
    ((List.range nt).all fun t => !isIn t || bd.sources.any fun s => s.tensor == t) &&
    (bd.layers.all fun x => decide (x.op < (bHeader b).nops) && opName (bOp b x.op).opcode == some .output &&
      (bOp b x.op).p8 80 == x.pixfmt && (x.source == 0xFF || decide (x.source < bd.sources.length))) &&
    named bd.frec && named bd.srcJ && named bd.srcJ1 &&
    (bd.imports.all fun x => (imports.any fun d => d.virt == x.bundleVirt) && dies.contains (dieOf x.die)) &&
    imports.all fun d => bd.imports.any fun x => x.bundleVirt == d.virt

/-! ### Placement -/

/-- What binding finds on the part. -/
structure PlaceEnv where
  dies : Nat
  engines : Nat
  poolFree : List Nat            -- KiB free of the bundle pool, by die
  dramFree : List Nat            -- bytes of DRAM outside every allocation, by die
  tsl : List Tsl                 -- Turnstile memories, by die
  poolNums : List Nat            -- free numbers of credit pools, by die
  ctxFree : Option Nat           -- the lowest context number free on every die of the instance
  reach : List Nat               -- V of each layer entry, the greatest over the heads (R41)
  linkOk : Bool                  -- the link settings in force carry the mode on every head (R255)
deriving DecidableEq, Repr

/-- Ops that a die computes: those of stripe parts where it has a region, and its frame-scope ops. -/
def dieOps (b : List Byte) (bd : Binding) (e : PlaceEnv) (d : DieIx) : List Op :=
  let region := bd.regions.any fun r => r.die == d
  (bOps b).filter fun o => if o.frameScope then (frameDies b o e.engines e.dies).contains d else region

/-- A weight-side stream or tensor of the ops of a die. -/
def dieTensors (ops : List Op) : List Nat :=
  (ops.flatMap fun o => o.reads ++ o.writes).foldl (fun acc t => if acc.contains t then acc else acc ++ [t]) []

/-- Level-1 or level-2 spill of an op on a die that a word other than a rewritten one asks for. -/
def opSpill (b : List Byte) (bd : Binding) (o : Op) (level : Nat) (rew : List Nat) : Nat :=
  if onMatrix b o = false ∨ rew.contains o.ix = true then 0 else spillBytes (spillTiles b bd o level (o.order64 level))

/-- Words of a level that spill beyond a resource: the advisory ones, and a binding one that fails (R144). -/
def spillCheck (b : List Byte) (bd : Binding) (ops : List Op) (level cap : Nat) : List Nat × Option Nat :=
  let big := ops.filter fun o => decide (cap < opSpill b bd o level [])
  ((big.filter fun o => !orderBinding (o.order64 level)).map Op.ix,
   (big.find? fun o => orderBinding (o.order64 level)).map Op.ix)

/-- Big Top cap of an instance on a die in bytes (R152). -/
def PlaceEnv.cap (e : PlaceEnv) (bd : Binding) (d : DieIx) : Nat :=
  let free := 1024 * e.poolFree.getD d.val 0
  if bd.btCap = 0 then free else min free (bd.btCap * 2 ^ 20)

/-- Step 11 of Table 6.4 on a die: a binding word of level 1 that spills beyond the pool or cap, then one of level 2 that spills
beyond the binding's DRAM (R144). -/
def spillFails (b : List Byte) (bd : Binding) (e : PlaceEnv) (d : DieIx) : Option CheckFail :=
  let ops := dieOps b bd e d
  let fail (level : Nat) (o : Nat) : CheckFail := { status := .placement, op := o, level := level, step := 11 }
  ((spillCheck b bd ops 1 (e.cap bd d)).2.map (fail 1)).or ((spillCheck b bd ops 2 bd.dram).2.map (fail 2))

/-- Matrix Engines of a die on which an op is placed (R149, R150). -/
def opEngines (b : List Byte) (bd : Binding) (e : PlaceEnv) (la : List (Nat × Nat)) (d : DieIx) (o : Op) : List Nat :=
  let all := List.range (max e.engines 1)
  if o.frameScope then all.filter fun i => decide (d.val * max e.engines 1 + i < participants (opNb b o) e.engines e.dies)
  else
    let z := (bd.sizes b o.out0).getD (0, 0)
    let rows := min (rowsFloor b o.out0 bd.stripeH + lookaheadOf la o.ix) z.1
    if e.engines ≤ max (ceilDiv z.2 64) (max (opNt b o) rows) then all else [0]

/-- The greatest level-0 slot demand placed on a Matrix Engine of a die (R159). -/
def enginePeak (b : List Byte) (bd : Binding) (e : PlaceEnv) (la : List (Nat × Nat)) (d : DieIx) (i : Nat) : Nat :=
  (((dieOps b bd e d).filter fun o => onMatrix b o && (opEngines b bd e la d o).contains i).map (slotDemand b)).foldl max 0

/-- The footprint of an instance on a die, with the words rewritten and the streams moved that make it fit (R152). None where it does
not fit, or where the binding's DRAM allocation does not hold what lies there. -/
def placeDie (b : List Byte) (bd : Binding) (e : PlaceEnv) (la : List (Nat × Nat)) (d : DieIx) : Option DiePlace :=
  let ops := dieOps b bd e d
  let cap := e.cap bd d
  let r1 := (spillCheck b bd ops 1 cap).1
  let r2 := (spillCheck b bd ops 2 bd.dram).1
  let region := (bd.regions.find? fun r => r.die == d).getD ⟨d, d, 0, 0, 0, 0, 0⟩
  let scaled (t : Nat) : Bool := (bd.layers.zip e.reach).any fun x => x.2 != 0 && (bOp b x.1.op).out0 == t
  let tens := ((dieTensors ops).map (tensorFoot b bd la scaled region)).sum
  let feet := (streamFeet b).filter fun s => ops.any fun o => o.ix == s.op
  let base := tens + (feet.map StreamFoot.bytes).sum
  let spill (rew : List Nat) : Nat := (ops.map fun o => opSpill b bd o 1 rew).sum
  let adv := r1 ++ ((ops.filter fun o => !r1.contains o.ix && !orderBinding (o.order64 1) &&
    decide (0 < opSpill b bd o 1 [])).map Op.ix)
  let foot0 := base + spill r1
  let (rew, foot1) := if foot0 ≤ cap then (r1, foot0) else (adv, base + spill adv)
  let (foot2, moved) := if bd.flags.getLsbD 3 then moveStreams cap (feetSorted feet) foot1 0 else (foot1, 0)
  let dram := (ops.map fun o => opSpill b bd o 2 r2).sum + dramTensors b bd
  if cap < foot2 ∨ bd.dram < dram then none
  else some { die := d, foot := foot2, rew1 := rew, rew2 := r2, moved := moved,
              peak := (enginePeak b bd e la d 0, enginePeak b bd e la d 1) }

/-- Bytes of a frame store on the die that captures a source: 7 frames of the source's size (R57). -/
def storeBytes (s : SourceEntry) : Nat := 7 * s.height * pictureRow s.pixfmt s.width

/-- Whether the region of a die has a boundary with another region on a side (R196). -/
def haloSide (bd : Binding) (d : DieIx) (dir : Nat) : Bool :=
  match bd.regions.find? fun r => r.die == d with
  | none => false
  | some r =>
    match dir with
    | 0 => decide (0 < r.x0)
    | 1 => decide (r.x0 + r.w < bd.w)
    | 2 => decide (0 < r.y0)
    | _ => decide (r.y0 + r.h < bd.a)

/-- Whether a die produces a tensor, or receives a frame-scope output that its ops read (R196). -/
def rowOn (b : List Byte) (bd : Binding) (e : PlaceEnv) (d : DieIx) (t : Nat) : Bool :=
  (dieOps b bd e d).any fun o => o.writes.contains t ||
    (o.reads.contains t && match writerOf b t with
      | some w => w.frameScope
      | none => false)

/-- A declaration of a bundle as an entry of a context on a die (R196, R270); imports are made apart. None where no room is left. -/
def Tsl.declare (b : List Byte) (bd : Binding) (e : PlaceEnv) (d : DieIx) (ctx : Nat) (t : Tsl) (x : TslDecl) : Option Tsl :=
  let v := BitVec.ofNat 12 x.virt
  match x.kind with
  | 0 => t.map ctx v false 0
  | 1 =>
    if rowOn b bd e d x.tensor = false then some t
    else t.map ctx v (match writerOf b x.tensor with
      | some w => !w.frameScope
      | none => true) 0
  | 2 => if haloSide bd d x.dir then t.map ctx v true 0 else some t
  | _ => some t

/-- Every declaration of a bundle in a new context of an instance on a die. None where the objects do not fit (R269). -/
def Tsl.declareAll (b : List Byte) (bd : Binding) (e : PlaceEnv) (d : DieIx) (ctx : Nat) (cv : CanvasId) (t : Tsl) : Option Tsl :=
  (bTsls b).foldl (fun acc x => acc.bind fun t => t.declare b bd e d ctx x)
    (some { t with ctxs := sInsert t.ctxs ctx { owner := .bundle cv, table := [] } })

/-- Programs that a die of an instance runs: those that its ops name, and on the dies of its regions those that no op names. -/
def dieProgs (b : List Byte) (bd : Binding) (e : PlaceEnv) (d : DieIx) : List Nat :=
  let mine := (dieOps b bd e d).flatMap Op.progs
  let named := (bOps b).flatMap Op.progs
  (List.range (bHeader b).nprog).filter fun p => mine.contains p || (!named.contains p && bd.regions.any fun r => r.die == d)

/-- Credit pools of an instance on a die: those with a member there (R195). -/
def diePools (b : List Byte) (bd : Binding) (e : PlaceEnv) (d : DieIx) : List Nat :=
  (List.range (bHeader b).npool).filter fun i => (dieProgs b bd e d).any fun p => (bProg b p).pool == i

/-- The floor of the member of a pool that runs a program: u + v under the binding's floor scale (R173, R175). -/
def memberFloor (bd : Binding) (p : Prog) : Nat :=
  let f := progMaxCred p + p.retention
  let k := if bd.fs = 0 then 8 else bd.fs
  if k = 8 then f else max 1 (f * k / 8)

/-- The loop-order words that a placement rewrites to K-innermost: die, level and op (R144, R152). -/
def kInnerOf (ps : List DiePlace) : List (DieIx × Nat × Nat) :=
  ps.flatMap fun p => p.rew1.map (fun o => (p.die, 1, o)) ++ p.rew2.map fun o => (p.die, 2, o)

/-- The floors of every pool sum to at most its capacity (R173). -/
def floorsOk (b : List Byte) (bd : Binding) : Bool :=
  let h := bHeader b
  (List.range h.npool).all fun i =>
    let ps := ((List.range h.nprog).map (bProg b)).filter fun p => p.pool == i
    decide ((ps.map (memberFloor bd)).sum ≤ (bPool b i).2)

/-- Steps 8 to 10 of Table 6.4 in order; step 9 in the order of R436. -/
def bindChecks (b : List Byte) (bd : Binding) (e : PlaceEnv) : Option CheckFail :=
  let ops := bOps b
  let sz := bd.sizes b
  let csz := bd.canvasSizes b
  let la := lookaheads b bd
  let nt := (bHeader b).ntens
  let looks := (List.range nt).filter fun t => (writerOf b t).isNone && bd.names t
  firstFail (
    [checkAll (gridOk bd && e.linkOk && decide (bd.regionH + 22 + e.reach.foldl max 0 ≤ bd.vtotal)) .rasterTiming 8] ++
    [checkAll ((List.range nt).all fun t => (sz t).isSome && (csz t).isSome) .rasterTiming 9] ++
    (ops.map fun o => checkOp (jugglerShapeOk b sz o) .opFormat o.ix 0 9) ++
    ops.map (limitCheck b sz 9) ++
    (ops.map fun o => checkOp (writtenOk b sz o) .opFormat o.ix 0 9) ++
    [checkAll ((List.range nt).all fun t => (bTens b t).fixed || (rowsOf b t bd.stripeH).isSome) .rasterTiming 9] ++
    [checkAll (looks.all fun t => decide (lookLines b t (lookOf b bd la t) ≤ (bHeader b).q)) .rasterTiming 10])

/-- What step 12 of Table 6.4 asks of a die beside the footprint: Turnstile objects, numbers of credit pools (entry 82), and the
frame stores and the binding's allocation in its DRAM. -/
def dieFits (b : List Byte) (bd : Binding) (e : PlaceEnv) (ds : List DieIx) (d : DieIx) : Bool :=
  let stores := ((bd.sources.filter fun s => s.die == d.val).map storeBytes).sum
  decide (stores + (if ds.contains d then bd.dram else 0) ≤ e.dramFree.getD d.val 0) &&
    (!ds.contains d || (decide ((diePools b bd e d).length ≤ e.poolNums.getD d.val 0) && match e.ctxFree, e.tsl[d.val]? with
      | some ctx, some t => (t.declareAll b bd e d ctx ⟨0, 0⟩).isSome
      | _, _ => false))

/-- Steps 8 to 12 of Table 6.4, each made on every die before the next, and the placement on each die. -/
def bindPlace (b : List Byte) (bd : Binding) (e : PlaceEnv) : Except CheckFail (List DiePlace) :=
  let ds := instanceDies b bd e.engines e.dies
  match (bindChecks b bd e).or (ds.findSome? (spillFails b bd e)) with
  | some f => .error f
  | none =>
    match ds.mapM (placeDie b bd e (lookaheads b bd)) with
    | none => .error { status := .placement, op := 0xFFFF, level := 0, step := 12 }
    | some places =>
      if ((List.finRange 8).all fun d => decide (e.dies ≤ d.val) || dieFits b bd e ds d) && floorsOk b bd then .ok places
      else .error { status := .placement, op := 0xFFFF, level := 0, step := 12 }

/-! ### Relocation and windows (R166, R169, R438) -/

/-- Where an instance lies on its dies: pool extents in Big Top address and KiB, and the DRAM allocation. -/
structure Extents where
  pool : List (DieIx × Nat × Nat)
  dramAt : List (DieIx × Nat)
deriving DecidableEq, Repr

/-- Where a base of a program of an instance lies on a die: whether it names the bundle image, and the start of the extent. -/
def Extents.reloc (x : Extents) (d : DieIx) (space : Fin 8) (die : DieIx) (base : Nat) : Bool × Nat :=
  let at_ (d : DieIx) : Nat := if base.testBit 39 then BtArea.gaide.range.1 else ((x.pool.find? fun e => e.1 == d).map fun e => e.2.1).getD 0
  match space.val with
  | 1 => if base.testBit 39 then (false, ((x.dramAt.find? fun e => e.1 == d).map Prod.snd).getD 0) else (true, 0)
  | 0 => (false, at_ d)
  | 2 => (false, at_ die)
  | _ => (false, 0)

/-- Stream windows of a neural run on a die: of each Big Top, its own and each peer's, the instance's pool extents and the Gaide
receive area, and its DRAM allocation of `n` bytes. A space, or a peer, has at most four windows (R166). -/
def Extents.windows (x : Extents) (dies : List DieIx) (n : Nat) (d : DieIx) : List SWindow :=
  let top (sp : Fin 8) (k : DieIx) : List SWindow :=
    { space := sp, die := k, lo := BtArea.gaide.range.1, hi := BtArea.gaide.range.2 } ::
      ((x.pool.filter fun e => e.1 == k).take 3).map fun e => { space := sp, die := k, lo := e.2.1, hi := e.2.1 + 1024 * e.2.2 }
  top 0 d ++ (dies.filter fun k => k != d).flatMap (top 2) ++
    (x.dramAt.filter fun e => e.1 == d).map fun e => { space := 1, die := d, lo := e.2, hi := e.2 + n }

/-- An address of a space, in the peer's Big Top of the peer `die`, lies in one of some windows. -/
def inWindows (l : List SWindow) (space : Fin 8) (die : DieIx) (a : Nat) : Bool :=
  l.any fun w => w.space == space && (space.val != 2 || w.die == die) && decide (w.lo ≤ a) && decide (a < w.hi)

/-- No access of a program on a die can fall outside the stream's windows, as relocated. -/
def Extents.progFits (x : Extents) (b : List Byte) (bd : Binding) (dies : List DieIx) (d : DieIx) (p : Nat) : Bool :=
  let ws := (bProg b p).words
  let l := x.windows dies bd.dram d
  (traceAll (x.reloc d) (progFuel ws) (Stream.launch none 0 none ws 0xFFFF [] 0)).all fun a => match a with
    | .reads g as => g.image || as.all (inWindows l g.space g.die)
    | .writes g as => as.all (inWindows l g.space g.die)
    | .count _ => true

/-- Whether every program of an instance keeps to its windows on every die that runs it (R169). -/
def Extents.fits (x : Extents) (b : List Byte) (bd : Binding) (e : PlaceEnv) : Bool :=
  let ds := instanceDies b bd e.engines e.dies
  ds.all fun d => (dieProgs b bd e d).all (x.progFits b bd ds d)

/-- Ops whose words of level 1 and of level 2 a binding rewrites, those of level 0 being counted at admission, and streams that it moves,
each counted once on every die that moves it (R146). DESIGN CHOICE, entry 99. -/
def placeCounts (ps : List DiePlace) : List Nat × List Nat × Nat :=
  let union (l : List (List Nat)) : List Nat := l.flatten.foldl (fun acc x => if acc.contains x then acc else acc ++ [x]) []
  (union (ps.map DiePlace.rew1), union (ps.map DiePlace.rew2), (ps.map DiePlace.moved).sum)

end Sys2Proof.Machine
end

