-- ==== Sys2Proof/Machine/Canvas.lean ====
section
/-! DEFINITION. Bound canvases at work: finding one, the rows, columns and tiles of an op in a stripe step, the shares of
its engines, its Turnstile declarations, and the contents of its tensors as an op reads them (R40, R54, R116, R118, R148 to
R155, R196, R436, R439). -/

namespace Sys2Proof.Machine

/-- A bound canvas. -/
def State.canvas (s : State) (cv : CanvasId) : Option Canvas := s.canvases.find? fun c => c.id == cv

/-- The state with a canvas changed. -/
def State.onCanvas (s : State) (cv : CanvasId) (f : Canvas → Canvas) : State :=
  { s with canvases := updFirst (fun c => c.id == cv) f s.canvases }

/-- The canvas whose bundle instance owns a context on a die (R269). -/
def State.ctxCanvas (s : State) (d : DieIx) (ctx : Nat) : Option CanvasId :=
  match (s.die d).tsl.ctx ctx with
  | some c => match c.owner with
    | .bundle cv => some cv
    | .firmware => none
    | .func _ => none
  | none => none

/-- Matrix Engines active at the operating point; at least one for the arithmetic of shares. -/
def State.engines (s : State) : Nat := max 1 s.power.point.engines

/-! ### Rows and columns (R35, R40, R148) -/

/-- The region that a die computes. -/
def Canvas.region (c : Canvas) (d : DieIx) : Option Region := c.binding.regions.find? fun r => r.die == d

/-- Lookahead of an op. -/
def Canvas.look (c : Canvas) (ix : Nat) : Nat := lookaheadOf (lookaheads c.image c.binding) ix

/-- Lines of a canvas length in a tensor: a FIXED tensor has the same lines everywhere. -/
def Canvas.base (c : Canvas) (t n : Nat) : Nat := if (bTens c.image t).fixed then 0 else rowsFloor c.image t n

/-- What one stripe step computes of a tensor on a die: rows y0 to y1 − 1 and columns x0 to x1 − 1 of the whole canvas. -/
structure Band where
  y0 : Nat
  y1 : Nat
  x0 : Nat
  x1 : Nat
deriving DecidableEq, Repr

/-- The band of a tensor that an op with lookahead a computes on a die in a stripe (R148). -/
def Canvas.bandWith (c : Canvas) (t a : Nat) (d : DieIx) (stripe : Nat) : Band :=
  let b := c.image
  let bd := c.binding
  let sz := (bd.sizes b t).getD (0, 0)
  match c.region d with
  | none => { y0 := 0, y1 := sz.1, x0 := 0, x1 := sz.2 }
  | some r =>
    let lo := if stripe = 0 then 0 else min (rowsFloor b t (stripe * bd.stripeH) + a) sz.1
    let hi := if stripe + 1 = bd.stripes then sz.1 else min (rowsFloor b t ((stripe + 1) * bd.stripeH) + a) sz.1
    { y0 := c.base t r.y0 + lo, y1 := c.base t r.y0 + hi, x0 := c.base t r.x0, x1 := c.base t r.x0 + sz.2 }

/-- The head that gives the frame boundaries and releases of a canvas: its lowest that runs a raster (R37). -/
def State.leadHead (s : State) (c : Canvas) : DieIx :=
  ((c.binding.heads.find? fun h => (s.die h.1).head.running).map fun h => h.1).getD (dieOf c.binding.head0)

/-- The whole of a tensor. -/
def Canvas.wholeBand (c : Canvas) (t : Nat) : Band :=
  let z := (c.binding.canvasSizes c.image t).getD (0, 0)
  { y0 := 0, y1 := z.1, x0 := 0, x1 := z.2 }

/-- The band of OUT0 that an item of an op computes. -/
def Canvas.opBand (c : Canvas) (o : Op) (d : DieIx) (stripe : Nat) : Band :=
  if o.frameScope then c.wholeBand o.out0 else c.bandWith o.out0 (c.look o.ix) d stripe

/-- The op of an item. -/
def Canvas.opOf (c : Canvas) (ix : Nat) : Op := bOp c.image ix

/-! ### Units and shares (R149, R150) -/

/-- M-tiles of a row, N-tiles and output rows of an op over a band. -/
def Canvas.tileCounts (c : Canvas) (o : Op) (bnd : Band) : Nat × Nat × Nat :=
  (max 1 (ceilDiv (bnd.x1 - bnd.x0) 64), max 1 (opNt c.image o), bnd.y1 - bnd.y0)

/-- Items 0 to n − 1 that fall to engine i of e. -/
def dealtPart (e i n : Nat) : List Nat := (List.range n).filter fun x => decide (i * n / e ≤ x) && decide (x < (i + 1) * n / e)

/-- What a block of a loop nest covers: rows of tiles, M-tiles, N-tiles and K-blocks (R137). -/
structure Nest where
  ys : List Nat
  ms : List Nat
  ns : List Nat
  ks : List Nat
deriving DecidableEq, Repr

/-- The rows, M-tiles and N-tiles that engine i of e takes of counts nm, nt and ny, with some K-blocks (R149). -/
def dealt (e i nm nt ny : Nat) (ks : List Nat) : Nest :=
  if e ≤ nm then { ys := List.range ny, ms := dealtPart e i nm, ns := List.range nt, ks := ks }
  else if e ≤ nt then { ys := List.range ny, ms := List.range nm, ns := dealtPart e i nt, ks := ks }
  else if e ≤ ny then { ys := dealtPart e i ny, ms := List.range nm, ns := List.range nt, ks := ks }
  else if i = 0 then { ys := List.range ny, ms := List.range nm, ns := List.range nt, ks := ks }
  else { ys := [], ms := [], ns := [], ks := ks }

/-- The units that run an op over a band, one per signalling share. -/
def Canvas.units (c : Canvas) (o : Op) (bnd : Band) (e : Nat) : List UnitIx :=
  if onMatrix c.image o then
    let (nm, nt, ny) := c.tileCounts o bnd
    if e ≤ nm ∨ e ≤ nt ∨ e ≤ ny then (List.finRange 2).filterMap fun i => if i.val < e then some (.me i) else none
    else [.me 0]
  else match opName o.opcode with
    | some .pool => [.win]
    | some .cropResize => [.win]
    | some .argmax => [.win]
    | some .resize => [.win]
    | some .motion => [.mot]
    | _ => [.jgl]

/-- Participants of a frame-scope Matrix Engine op and where each runs (R150). -/
def Canvas.partics (c : Canvas) (o : Op) (e dies : Nat) : List (Nat × DieIx × UnitIx) :=
  (List.range (participants (opNb c.image o) e dies)).map fun p => (p, dieOf (p / max e 1), .me (Fin.ofNat 2 (p % max e 1)))

/-- The share of engine i of an op over a band, its rows counted from the top of the band; a participant of a frame-scope op takes
every tile. -/
def Canvas.share (c : Canvas) (o : Op) (bnd : Band) (e i : Nat) (ks : List Nat) : Nest :=
  let (nm, nt, ny) := c.tileCounts o bnd
  if o.frameScope then dealt 1 0 nm nt ny ks else dealt e i nm nt ny ks

/-- The tiles of row y that a share holds, in every batch entry. -/
def Canvas.rowTiles (c : Canvas) (o : Op) (bnd : Band) (e i y : Nat) : List TileId :=
  let x := c.share o bnd e i []
  let h := (c.wholeBand o.out0).y1
  if x.ys.contains (y - bnd.y0) then
    (List.range (bTens c.image o.out0).nb).flatMap fun n => x.ms.flatMap fun m => x.ns.map fun t => { row := n * h + y, m := m, t := t }
  else []

/-- Engine number of a unit. -/
def unitIndex : UnitIx → Nat
  | .me i => i.val
  | .jgl => 0
  | .win => 0
  | .mot => 0

/-- The rows of a band. -/
def Band.rows (b : Band) : List Nat := (List.range (b.y1 - b.y0)).map fun k => b.y0 + k

/-! ### Declarations (R196) -/

/-- The row Turnstile of a tensor. -/
def Canvas.rowVirt (c : Canvas) (t : Nat) : Option (BitVec 12) :=
  ((bTsls c.image).find? fun d => d.kind == 1 && d.tensor == t).map fun d => BitVec.ofNat 12 d.virt

/-- The halo Turnstile of a tensor on a side. -/
def Canvas.haloVirt (c : Canvas) (t side : Nat) : Option (BitVec 12) :=
  ((bTsls c.image).find? fun d => d.kind == 2 && d.tensor == t && d.dir == side).map fun d => BitVec.ofNat 12 d.virt

/-- The neighbours of a region: the other regions that touch it, each with the side of the neighbour on which this region
lies (0 left, 1 right, 2 above, 3 below). -/
def Canvas.neighbours (c : Canvas) (r : Region) : List (DieIx × Nat) :=
  c.binding.regions.filterMap fun q =>
    let cols := decide (q.x0 < r.x0 + r.w) && decide (r.x0 < q.x0 + q.w)
    let rows := decide (q.y0 < r.y0 + r.h) && decide (r.y0 < q.y0 + q.h)
    if rows && decide (r.x0 + r.w = q.x0) then some (q.die, 0)
    else if rows && decide (q.x0 + q.w = r.x0) then some (q.die, 1)
    else if cols && decide (r.y0 + r.h = q.y0) then some (q.die, 2)
    else if cols && decide (q.y0 + q.h = r.y0) then some (q.die, 3)
    else none

/-! ### Tensor contents -/

/-- An unlisted element of a tensor is 0. -/
def zeroWord : Nat → Word := fun _ => 0

/-- The index of an element. -/
def TensorBuf.ix (t : TensorBuf) (n y x c : Nat) : Nat := ((n * t.h + y) * t.w + x) * t.c + c

/-- An element as a raw encoding. -/
def TensorBuf.rd (t : TensorBuf) (n y x c : Nat) : Nat := (sGet zeroWord t.elems (t.ix n y x c)).toNat

/-- A tensor with an element written. -/
def TensorBuf.wr (t : TensorBuf) (n y x c raw : Nat) : TensorBuf :=
  { t with elems := sSet zeroWord t.elems (t.ix n y x c) (BitVec.ofNat 32 raw) }

/-- The bytes of a tensor, elements in linear order. -/
def TensorBuf.bytes (t : TensorBuf) : List Byte :=
  (List.range (t.nb * t.h * t.w * t.c)).flatMap fun i => leBytes (fmtBytes t.fmt.val) (sGet zeroWord t.elems i).toNat

/-- A tensor with bytes written from its start. -/
def TensorBuf.ofBytes (t : TensorBuf) (bs : List Byte) : TensorBuf :=
  let z := fmtBytes t.fmt.val
  let n := min (t.nb * t.h * t.w * t.c) (ceilDiv bs.length z)
  { t with elems := sSetRange zeroWord t.elems 0 ((List.range n).map fun i => BitVec.ofNat 32 (leAt bs (i * z) z)) }

/-- A tensor of zeros. -/
def Canvas.blank (c : Canvas) (t : Nat) : TensorBuf :=
  let r := bTens c.image t
  let z := c.wholeBand t
  { nb := r.nb, h := z.y1, w := z.x1, c := r.c, fmt := Fin.ofNat 8 r.fmt, elems := [] }

/-- An element of the blob that INIT names (R439). -/
def Canvas.initElem (c : Canvas) (t n y x k : Nat) : Nat :=
  let r := bTens c.image t
  let z := fmtBytes r.fmt
  let u := c.blank t
  if r.init = 0xFFFF_FFFF then 0
  else if r.layout ≤ 1 then
    let cp := paddedC r.layout r.c
    leAt (bBlob c.image r.init) (((n * u.h + y) * u.w + x) * cp * z + k * z) z
  else leAt (bBlob c.image r.init) (u.ix n y x k * z) z

/-- The place of a tensor of a frame among the buffers. -/
def bufKey (t frame : Nat) : Nat := 2 * t + frame % 2

/-- The buffer of a tensor in a frame, where something wrote it. -/
def Canvas.buf (c : Canvas) (t frame : Nat) : Option TensorBuf := sLookup c.tensors (bufKey t frame)

/-- A canvas with a buffer changed; one that nothing has written starts blank. -/
def Canvas.onBuf (c : Canvas) (t frame : Nat) (f : TensorBuf → TensorBuf) : Canvas :=
  { c with tensors := sInsert c.tensors (bufKey t frame) (f ((c.buf t frame).getD (c.blank t))) }

/-- The frame from whose buffer a read of a tensor in a frame takes it: the previous one for a recurrent tensor, none where
it takes the declared initial state (R55). -/
def Canvas.readFrame (c : Canvas) (t frame : Nat) : Option Nat :=
  if (bTens c.image t).recurrent then
    if frame = 0 ∨ c.resets.contains frame = true then none else some (frame - 1)
  else some frame

/-! ### The fall-back halo (R54) -/

/-- Whether an element of a tensor lies in a hole that abandoned work left. -/
def Canvas.inHole (c : Canvas) (t frame y x : Nat) : Bool :=
  c.holes.any fun h => h.tensor == t && h.frame == frame && decide (h.y0 ≤ y) && decide (y < h.y1) && decide (h.x0 ≤ x) &&
    decide (x < h.x1)

/-- The OUTPUT op that writes a layer. -/
def Canvas.layerOp (c : Canvas) (x : LayerEntry) : Op := c.opOf x.op

/-- Rows y0 to y1 − 1 and columns x0 to x1 − 1 of component k of a layer's picture that rows r0 to r1 − 1 and columns c0 to
c1 − 1 of the canvas become. -/
def Canvas.planeBand (c : Canvas) (x : LayerEntry) (k r0 r1 c0 c1 : Nat) : Band :=
  let t := (c.layerOp x).out0
  let (sv, sh) := if k = 0 ∨ pixIsYuv x.pixfmt = false then (1, 1) else ((pixSub x.pixfmt).2, (pixSub x.pixfmt).1)
  { y0 := ceilDiv (rowsFloor c.image t r0) sv, y1 := ceilDiv (rowsFloor c.image t r1) sv,
    x0 := ceilDiv (rowsFloor c.image t c0) sh, x1 := ceilDiv (rowsFloor c.image t c1) sh }

/-- The share of a head of component k of a layer's picture (R227). -/
def Canvas.headBand (c : Canvas) (x : LayerEntry) (k col row : Nat) : Band :=
  let b := c.binding
  c.planeBand x k (row * b.regionH) ((row + 1) * b.regionH) (col * b.regionW) ((col + 1) * b.regionW)

/-- The fall-back picture of a layer on a head in a frame. -/
def Canvas.fallPic (c : Canvas) (h : DieIx) (l : LayerIx) (frame : Nat) : Option Picture :=
  (c.fallback.find? fun e => e.head == h && e.layer == l && e.frame == frame).map FallPic.pic

/-- A sample of a component of a fall-back picture of the canvas in a frame. -/
def Canvas.fallbackSample (c : Canvas) (l : LayerEntry) (frame comp y x : Nat) : Nat :=
  match c.binding.heads.findSome? fun (hd, col, row) =>
      let b := c.headBand l comp col row
      if b.y0 ≤ y ∧ y < b.y1 ∧ b.x0 ≤ x ∧ x < b.x1 then
        (c.fallPic hd (Fin.ofNat 16 l.layer) frame).map fun e => (e, y - b.y0, x - b.x0)
      else none with
  | some (p, py, px) => (((p.comps.getD comp []).getD py []).getD px 0).toNat
  | none => 0

/-- A fall-back element of an image-class or output tensor: the sample of the layer less its BIAS, rounded half-even and
saturated to the tensor's format. R54 names "the chroma tensor" without saying which of the bundle's image-class tensors that
is: DESIGN CHOICE, entry 78, it is the OUTPUT op's IN1, and every other tensor of two channels but its IN0. -/
def Canvas.fallbackElem (c : Canvas) (x : LayerEntry) (frame t y xc k : Nat) : Nat :=
  let o := c.layerOp x
  let p := o.p8 80
  let r := bTens c.image t
  let chroma := pixIsYuv p && (o.ins.getD 1 0xFFFF == t || (o.ins.getD 0 0xFFFF != t && r.c == 2))
  let comp := if chroma then k + 1 else k
  let comps := if pixIsYuv p then (if chroma then 2 else 1) else if p = 13 then 4 else 3
  if comps ≤ k then 0
  else
    let z := c.wholeBand t
    let u := c.wholeBand o.out0
    let (ph, pw) := planeSize p comp u.y1 u.x1
    let raw := c.fallbackSample x frame comp (y * ph / max z.y1 1) (xc * pw / max z.x1 1)
    if r.layout = 4 then raw
    else
      let v : Num := if p = 13 then f32 (widen .fp16 raw) else numOfInt ((raw : Int) - (o.p16 82 : Int))
      (winConvert (fmtOf r.fmt) v).raw

/-- An element of a recurrent tensor that the bundle holds in DRAM under Mode F: its line passes the codec over the columns
of the region that holds it (R178, R182, R184). Mode Z and the uncoded form change no bits. -/
def Canvas.throughCodec (c : Canvas) (t : Nat) (elem : Nat → Nat → Nat) (x k : Nat) : Nat :=
  let r := bTens c.image t
  if r.recurrent ∧ r.inDram ∧ 2 ≤ r.codec ∧ r.layout ≤ 1 then
    let all := c.wholeBand t
    let (x0, x1) := if r.fixed then (0, all.x1) else
      ((c.binding.regions.map fun q => (rowsFloor c.image t q.x0, rowsFloor c.image t (q.x0 + q.w))).find? fun e =>
        decide (e.1 ≤ x) && decide (x < e.2)).getD (0, all.x1)
    let cp := paddedC r.layout r.c
    let z := fmtBytes r.fmt
    let line := (List.range (x1 - x0)).flatMap fun i => (List.range cp).flatMap fun kk =>
      leBytes z (if kk < r.c then elem (x0 + i) kk else 0)
    leAt (fDecodeLine (r.codec - 2) line.length (fEncodeLine (r.codec - 2) line)) (((x - x0) * cp + k) * z) z
  else elem x k

/-- The layer whose fall-back part fills an image-class or output tensor: the one whose OUTPUT op reads or writes it; of a
tensor that no layer's OUTPUT op reads, the first layer entry. DESIGN CHOICE, entry 78: R54 does not say which where a canvas has
several layers. -/
def Canvas.haloLayer (c : Canvas) (w : Op) (t : Nat) : Option LayerEntry :=
  if (bTens c.image t).imageClass = true ∨ opName w.opcode = some .output then
    (c.binding.layers.find? fun l => (c.layerOp l).ins.contains t || l.op == w.ix).or c.binding.layers.head?
  else none

/-- What reads of one op on one die in one stripe take of a tensor: the element, or the fall-back halo in its place. -/
def Canvas.readElem (c : Canvas) (d : DieIx) (stripe frame : Nat) (step : Dword) (t n y x k : Nat) : Nat :=
  match c.readFrame t frame with
  | none => c.throughCodec t (fun x k => c.initElem t n y x k) x k
  | some f =>
    let raw (y x : Nat) : Nat :=
      c.throughCodec t (fun x k => match c.buf t f with
        | some u => u.rd n y x k
        | none => c.initElem t n y x k) x k
    if c.inHole t f y x = false then raw y x
    else match writerOf c.image t with
      | none => raw y x
      | some w =>
        if opName w.opcode = some .input then
          let e : OpEnv := { rd := fun t n y x k => match c.buf t f with
                               | some u => u.rd n y x k
                               | none => 0,
                             dim := fun t => let u := c.blank t; (u.nb, u.h, u.w, u.c), fmt := fun t => fmtOf (bTens c.image t).fmt,
                             step := step }
          (jugglerElem e w n y x k).raw
        else match c.haloLayer w t with
          | some l => c.fallbackElem l f t y x k
          | none =>
            let bnd := c.bandWith t (c.look w.ix) d stripe
            raw (clampInt bnd.y0 ((bnd.y1 : Int) - 1) y).toNat (clampInt bnd.x0 ((bnd.x1 : Int) - 1) x).toNat

/-- The environment in which an item reads its inputs. -/
def Canvas.env (c : Canvas) (d : DieIx) (stripe frame : Nat) (step : Dword) : OpEnv :=
  { rd := c.readElem d stripe frame step,
    dim := fun t => let u := c.blank t; (u.nb, u.h, u.w, u.c),
    fmt := fun t => fmtOf (bTens c.image t).fmt,
    step := step }

/-- The frame step that work of a frame serves (R89): that of its output frame. -/
def Canvas.stepOf (c : Canvas) (frame : Nat) : Dword :=
  if frame = c.frameNo then c.frameStep else (c.steps.find? fun e => e.1 == frame).elim c.frameStep Prod.snd

/-! ### What an item reads -/

/-- Lengths of input k of an op and of OUT0 over the whole canvas: rows, or columns where `cols` holds. -/
def Canvas.lineCounts (c : Canvas) (o : Op) (cols : Bool) (k : Nat) : Nat × Nat :=
  let zi := c.wholeBand (o.ins.getD k 0)
  let zo := c.wholeBand o.out0
  if cols then (zi.x1, zo.x1) else (zi.y1, zo.y1)

/-- An op reads the whole of an input: a box list, a raw blob, or any input of a frame-scope op. -/
def Canvas.readsWhole (c : Canvas) (o : Op) (k : Nat) : Bool :=
  let l := (bTens c.image (o.ins.getD k 0)).layout
  l == 2 || l == 3 || o.frameScope

/-- The lines of an input that rows y0 to y1 − 1 (or columns, where `cols` holds) of OUT0 read: lowest and one past the
highest. -/
def Canvas.readSpan (c : Canvas) (o : Op) (cols : Bool) (k y0 y1 : Nat) : Nat × Nat :=
  let (n, on) := c.lineCounts o cols k
  if y1 ≤ y0 then (0, 0) else if c.readsWhole o k then (0, n) else spanRead c.image o cols k n on y0 y1

/-- The box list that a CROP_RESIZE op reads in a frame. -/
def Canvas.boxList (c : Canvas) (o : Op) (frame : Nat) : List Byte :=
  let t1 := o.ins.getD 1 0
  match (c.readFrame t1 frame).bind (c.buf t1) with
  | some u => u.bytes
  | none => bBlob c.image (bTens c.image t1).init

/-- The rows, or columns, of IN0 that the valid boxes of a CROP_RESIZE op's list read (R129). -/
def Canvas.boxLines (c : Canvas) (o : Op) (cols : Bool) (frame : Nat) (step : Dword) : List Nat :=
  let l := c.boxList o frame
  let nb := (bTens c.image (o.ins.getD 0 0)).nb
  let n := (c.lineCounts o cols 0).1
  let len := if cols then o.p16 82 else o.p16 80
  let plan := boxPlan l (o.p16 84) nb (o.p8 87 == 1) step
  ((List.range plan.used).map (boxEntry l)).flatMap fun x =>
    if x.skip || x.bad nb then []
    else (List.range len).flatMap fun i =>
      let p := if cols then cropPos (o.p8 86) x.box.x0 x.box.x1 len i else cropPos (o.p8 86) x.box.y0 x.box.y1 len i
      if cropOutside p n then [] else [clampIx n (floor32 p), clampIx n (floor32 p + 1)]

/-- One past the highest row of input k that rows y0 to y1 − 1 of an op wait for in a frame: that which a tap reads, or any valid
box (R119, R129). -/
def Canvas.rowsAwaited (c : Canvas) (o : Op) (k frame : Nat) (step : Dword) (y0 y1 : Nat) : Nat :=
  if opName o.opcode = some .cropResize ∧ k = 0 then ((c.boxLines o false frame step).map (· + 1)).foldl max 0
  else (c.readSpan o false k y0 y1).2

/-- Whether line `line` of input k is read for any of some lines of OUT0 in a frame. -/
def Canvas.lineRead (c : Canvas) (o : Op) (cols : Bool) (k frame : Nat) (step : Dword) (y0 y1 line : Nat) : Bool :=
  let (n, on) := c.lineCounts o cols k
  if opName o.opcode = some .cropResize ∧ k = 0 then (c.boxLines o cols frame step).contains line
  else c.readsWhole o k || (List.range (y1 - y0)).any fun i => readsLine c.image o cols k n on (y0 + i) line

/-- The holes that rows y0 to y1 − 1 of an op read in a frame: those with a row and a column that a tap reads (R54, R119). -/
def Canvas.holesRead (c : Canvas) (o : Op) (bnd : Band) (frame : Nat) (step : Dword) (y0 y1 : Nat) : List Hole :=
  (o.ins.zipIdx).flatMap fun (t, k) =>
    match (if t = 0xFFFF then none else c.readFrame t frame) with
    | none => []
    | some f => c.holes.filter fun h => h.tensor == t && h.frame == f &&
        ((List.range (h.y1 - h.y0)).any fun i => c.lineRead o false k frame step y0 y1 (h.y0 + i)) &&
        (List.range (h.x1 - h.x0)).any fun i => c.lineRead o true k frame step bnd.x0 bnd.x1 (h.x0 + i)

/-- Whether rows y0 to y1 − 1 of an item read a hole. -/
def Canvas.readsHole (c : Canvas) (o : Op) (bnd : Band) (frame : Nat) (step : Dword) (y0 y1 : Nat) : Bool :=
  !(c.holesRead o bnd frame step y0 y1).isEmpty

/-- The fall-back rows that stand in for a hole are there: every fall-back part of its layer and frame over rows of the hole has been
computed (R54). A hole that is filled otherwise needs nothing. -/
def Canvas.holeFilled (c : Canvas) (h : Hole) : Bool :=
  match (writerOf c.image h.tensor).bind fun w => if opName w.opcode = some .input then none else c.haloLayer w h.tensor with
  | none => true
  | some l => c.parts.all fun p =>
      let top := (c.region p.computeDie).elim 0 Region.y0
      let y0 := top + p.id.stripe * c.binding.stripeH
      !(p.frame == h.frame && p.id.layer.val == l.layer && decide (rowsFloor c.image h.tensor y0 < h.y1) &&
        decide (h.y0 < rowsFloor c.image h.tensor (y0 + c.binding.stripeH))) || p.fallbackDone

/-! ### Places of elements in Big Top (R110, R152) -/

/-- The buffer of a tensor on a die. `rows`: a ring of so many rows of each batch entry; `lp` and `cols`: line pitch and columns held;
`cp` and `z`: padded channels and bytes of an element. -/
structure Buffer where
  tensor : Nat
  base : Nat
  nb : Nat
  rows : Nat
  lp : Nat
  cols : Nat
  cp : Nat
  z : Nat
deriving DecidableEq, Repr

/-- The buffer of a tensor in the instance's share of the bundle pool of a die, at a place that the model leaves open (entry 89). None
of a picture, of a tensor in DRAM, or where the instance has no share. -/
def Canvas.buffer (c : Canvas) (d : DieIx) (t : Nat) : Option Buffer :=
  let r := bTens c.image t
  let size := if r.fixed then (r.h, r.w) else ((c.binding.sizes c.image) t).getD (0, 0)
  match c.pool.find? fun e => e.1 == d with
  | none => none
  | some (_, at_, _) =>
    let base := at_ + 64 * Config.bufferWord c.ctx d.val t
    if 4 ≤ r.layout ∨ (bHeader c.image).ntens ≤ t then none
    else if 2 ≤ r.layout then
      some { tensor := t, base := base, nb := r.nb, rows := size.1, lp := size.2 * r.c * fmtBytes r.fmt, cols := size.2, cp := r.c,
             z := fmtBytes r.fmt }
    else
      let whole := r.fixed || ((writerOf c.image t).isNone && !c.binding.names t)
      some { tensor := t, base := base, nb := r.nb, lp := linePitch r size.2, cols := size.2, cp := paddedC r.layout r.c, z := fmtBytes r.fmt,
             rows := if whole then size.1 else bufferRows c.image c.binding (lookaheads c.image c.binding) t }

/-- Where a byte of a buffer lies: batch entry, row of the ring, column, channel, and byte of the element. None beyond the buffer, and
beyond the elements of a line. -/
def Buffer.place (u : Buffer) (a : Nat) : Option (Nat × Nat × Nat × Nat × Nat) :=
  if a < u.base ∨ u.base + u.nb * u.rows * u.lp ≤ a then none
  else
    let o := a - u.base
    let x := o % u.lp
    if u.cols * u.cp * u.z ≤ x then none
    else some (o / (u.rows * u.lp), o % (u.rows * u.lp) / u.lp, x / (u.cp * u.z), x % (u.cp * u.z) / u.z, x % u.z)

/-- The row of the whole canvas that a row of a ring holds in a stripe: the highest one that the step reaches. -/
def Canvas.ringRow (c : Canvas) (d : DieIx) (stripe : Nat) (u : Buffer) (r : Nat) : Nat :=
  let la := lookaheads c.image c.binding
  let a := match writerOf c.image u.tensor with
    | some w => lookaheadOf la w.ix
    | none => lookOf c.image c.binding la u.tensor
  let bnd := c.bandWith u.tensor a d stripe
  let top := (c.region d).elim 0 fun q => c.base u.tensor q.y0
  let hi := max (bnd.y1 - top) u.rows
  top + (hi - 1 - (hi - 1 - r) % max u.rows 1)

/-- The element of the canvas that an address of a die holds in a stripe: tensor, batch entry, row, column, channel, byte. -/
def Canvas.elemAt (c : Canvas) (d : DieIx) (stripe a : Nat) : Option (Nat × Nat × Nat × Nat × Nat × Nat) :=
  (List.range (bHeader c.image).ntens).findSome? fun t => (c.buffer d t).bind fun u => (u.place a).map fun (n, r, x, k, i) =>
    (t, n, c.ringRow d stripe u r, (c.region d).elim 0 (fun q => c.base t q.x0) + x, k, i)

/-- A byte of Big Top that an op has written as an element; none where no tensor of the canvas holds it. Padding channels read as 0. -/
def Canvas.tensorByte (c : Canvas) (d : DieIx) (stripe frame a : Nat) : Option Byte :=
  (c.elemAt d stripe a).bind fun (t, n, y, x, k, i) => (c.buf t frame).map fun u =>
    if k < u.c then BitVec.ofNat 8 (u.rd n y x k / 2 ^ (8 * i)) else 0

/-- A canvas with a byte of Big Top written: the element that lies there takes it (R110, R112). -/
def Canvas.writeByte (c : Canvas) (d : DieIx) (stripe frame a : Nat) (v : Byte) : Canvas :=
  match c.elemAt d stripe a with
  | none => c
  | some (t, n, y, x, k, i) => if (bTens c.image t).c ≤ k then c
    else c.onBuf t frame fun u => u.wr n y x k (natSetBits (u.rd n y x k) (8 * i + 7) (8 * i) v.toNat)

/-- Whether a poisoned word of a die's Big Top holds an element of rows r0 to r1 − 1 of a tensor in a stripe (R164). -/
def Canvas.rowsPoisoned (c : Canvas) (d : DieIx) (stripe : Nat) (words : List Nat) (t r0 r1 : Nat) : Bool :=
  words.any fun w => (List.range 64).any fun i => (c.elemAt d stripe (64 * w + i)).any fun e =>
    e.1 == t && decide (r0 ≤ e.2.2.1) && decide (e.2.2.1 < r1)

/-! ### Dependence between ops -/

/-- Ops of a frame that read, directly or through others, what an op writes. -/
def Canvas.dependents (c : Canvas) (ix : Nat) : List Nat :=
  (bOps c.image).foldl (fun acc o =>
    if o.ix = ix ∨ (acc.any fun p => o.reads.any fun t => !(bTens c.image t).recurrent && (c.opOf p).writes.contains t) = true
    then acc ++ [o.ix] else acc) []

/-- Ops whose output, directly or through others, an op reads in the same frame, itself included. -/
def Canvas.sourcesOf (c : Canvas) (ix : Nat) : List Nat :=
  ((bOps c.image).filter fun o => (c.dependents o.ix).contains ix).map Op.ix

end Sys2Proof.Machine
end

