-- ==== Sys2Proof/Machine/Record.lean ====
section
/-! DEFINITION. The Input Recorder of a die: its ring, records, loss and recovery, and reading a ring back (R296 to
R300). -/

namespace Sys2Proof.Machine

/-- The CANVAS of a record: function × 256 + handle. DESIGN CHOICE, entry 23: Table 11.3 asks for an identifier of the
part, and a handle is a function's own. -/
def recCanvas (cv : CanvasId) : Nat := 256 * cv.func.val + cv.handle

/-- The bytes of a record: header, payload and zeros up to a multiple of 64 (Table 11.3). -/
def recordBytes (d : DieIx) (seq tick : Nat) (r : Rec) : List Byte :=
  let h := leBytes 2 r.type ++ [BitVec.ofNat 8 d.val, BitVec.ofNat 8 r.flags] ++ leBytes 4 r.payload.length ++
    leBytes 8 seq ++ leBytes 8 tick ++ leBytes 2 r.canvas ++ leBytes 2 r.port
  let l := h ++ leBytes 4 (crc32c (h ++ r.payload)).toNat ++ r.payload
  sliceBytes l 0 (64 * ceilDiv l.length 64)

/-- Base and size in bytes of the ring of a die. -/
def Die.ring (x : Die) : Nat × Nat :=
  ((x.reg Reg.detRecBaseLo).toNat + 2 ^ 32 * x.field Reg.detRecBaseHi 7 0, 65536 * x.field Reg.detRecSize 15 0)

/-- The recorder writes (DET_STATUS.REC_ON). -/
def Die.recording (x : Die) : Bool := x.field Reg.detStatus 2 2 == 1

/-- Bytes written at the write pointer, which moves past them and returns to 0 at the end. -/
def Die.ringWrite (x : Die) (bs : List Byte) : Die :=
  let (base, size) := x.ring
  let w := (x.reg Reg.detRecWptr).toNat
  let n := x.recorder.used + bs.length
  let y := x.writeDram (base + w) bs
  let z := { y with recorder := { y.recorder with seq := y.recorder.seq + 1, used := min size n } }
  let w2 := w + bs.length
  (z.setReg Reg.detRecWptr (BitVec.ofNat 32 (if size ≤ w2 then 0 else w2))).setField Reg.detStatus 4 4
    (max (z.field Reg.detStatus 4 4) (b2n (decide (size < n))))

/-- A record is lost: counted, flagged, and its SEQ not reused (R297, R300). -/
def State.loseRecord (s : State) (d : DieIx) : State :=
  (s.onDie d fun x => { x with recorder := { x.recorder with
    seq := x.recorder.seq + 1, lost := x.recorder.lost + 1,
    firstLost := if x.recorder.lost = 0 then x.recorder.seq else x.recorder.firstLost } }).countRaise d Reg.detRecDrop
    Reg.detEvt 0x01

/-- The ring takes a record now: recording runs, DRAM is trained, and it has room or overwrites. -/
def State.takesRecord (s : State) (d : DieIx) (r : Rec) : Bool :=
  let x := s.die d
  let size := x.ring.2
  let n := (recordBytes d 0 0 r).length
  let w := (x.reg Reg.detRecWptr).toNat
  let pad := if size < w + n then size - w else 0
  x.recording && x.boot.trained && decide (n ≤ size) &&
    (x.field Reg.detRecCtrl 1 1 == 1 || decide (x.recorder.used + pad + n ≤ size))

/-- One record into the ring (R297, R300). DRAM accepts no record while it is not trained. -/
def State.recordOne (s : State) (d : DieIx) (tick : Nat) (r : Rec) : State :=
  let x := s.die d
  let (_, size) := x.ring
  let bs (seq : Dword) (r : Rec) : List Byte := recordBytes d seq.toNat tick r
  let n := (bs x.recorder.seq r).length
  if x.recording = false then s
  else if x.boot.trained = false ∨ size < n then s.loseRecord d
  else
    let w := (x.reg Reg.detRecWptr).toNat
    let pad := if size < w + n then size - w else 0
    if x.field Reg.detRecCtrl 1 1 = 0 ∧ size < x.recorder.used + pad + n then
      (s.onDie d fun y => { (y.setField Reg.detStatus 2 2 0) with recorder := { y.recorder with full := true } }).raise d
        Reg.detEvt 0x02
    else
      let s1 := if 0 < pad then s.onDie d fun y => y.ringWrite (bs y.recorder.seq
          { type := 0, flags := 0, canvas := 0xFFFF, port := 0xFFFF, payload := List.replicate (pad - 32) 0 }) else s
      s1.onDie d fun y => y.ringWrite (bs y.recorder.seq r)

/-- A GAP record for the records lost so far (R300). Its payload: count, first and last SEQ lost. -/
def State.recordGap (s : State) (d : DieIx) (tick : Nat) : State :=
  let x := s.die d
  if x.recording = false ∨ x.boot.trained = false ∨ x.recorder.lost = 0 then s
  else
    let n := x.recorder.lost
    (s.onDie d fun y => { y with recorder := { y.recorder with lost := 0 } }).recordOne d tick
      { type := 9, flags := 0, canvas := 0xFFFF, port := 0xFFFF,
        payload := leBytes 4 n ++ leBytes 8 x.recorder.firstLost.toNat ++ leBytes 8 (x.recorder.seq.toNat - 1) }

/-- A record goes into the ring, with a GAP record for those lost as soon as one can be written (R300). -/
def State.recordNow (s : State) (d : DieIx) (tick : Nat) (r : Rec) : State :=
  ((s.recordGap d tick).recordOne d tick r).recordGap d tick

/-- Write a record of an event at a tick. While a cycle gathers its records, it waits for the end of the cycle. -/
def State.record (s : State) (d : DieIx) (tick : Nat) (r : Rec) : State :=
  match (s.die d).recorder.batch with
  | some l => s.onDie d fun x => { x with recorder := { x.recorder with batch := some (l ++ [(tick, r)]) } }
  | none => s.recordNow d tick r

/-- The records that a die gathered take SEQ in TYPE order (R300). -/
def State.endBatch (s : State) (d : DieIx) : State :=
  match (s.die d).recorder.batch with
  | none => s
  | some l =>
    (sortBy (fun a b => decide (a.2.type < b.2.type)) l).foldl (fun s e => s.recordNow d e.1 e.2)
      (s.onDie d fun x => { x with recorder := { x.recorder with batch := none } })

/-- Events of one fabric cycle: their records take SEQ in TYPE order once all of them are there (R300). A cycle within a cycle is one. -/
def State.inOneCycle (s : State) (f : State → State) : State :=
  if (s.die 0).recorder.batch.isSome then f s
  else s.dieList.foldl (fun s d => s.endBatch d)
    (f (s.onDies s.dieList fun _ x => { x with recorder := { x.recorder with batch := some [] } }))

/-- The digest of a bound canvas's binding and of the installer's checker thresholds (R298), over the binding as the model
holds it: entry 23. The bundle's handle, its queues, and what only a Replay binding gives (the two REPLAY flags, the range, the
checkpoint and the taps) are left out: a Replay binding of a recorded canvas has the digest of the recorded one. -/
def Canvas.configDigest (c : Canvas) (x : Die) : List Byte :=
  let b := c.binding
  let body := [b.flags &&& 0xFC] ++ leBytes 1 b.h ++ leBytes 1 b.head0 ++ leBytes 1 b.cols ++ leBytes 1 b.rows ++
    leBytes 1 b.lock ++ leBytes 2 b.w ++ leBytes 2 b.a ++ leBytes 2 b.vtotal ++ leBytes 2 b.htotal ++ leBytes 4 b.rate ++
    leBytes 1 b.rq ++ leBytes 1 b.coef ++ leBytes 1 b.fs ++ leBytes 4 b.btCap ++ leBytes 8 b.dram ++ leBytes 2 b.frec ++
    leBytes 2 b.srcJ ++ leBytes 2 b.srcJ1 ++
    (b.sources.flatMap fun e => leBytes 2 e.tensor ++ leBytes 1 e.port ++ leBytes 1 e.die ++ leBytes 1 e.stream ++
      leBytes 1 e.lockedBy ++ leBytes 2 e.width ++ leBytes 2 e.height ++ leBytes 1 e.pixfmt ++ leBytes 1 e.plane) ++
    (b.layers.flatMap fun e => leBytes 1 e.layer ++ leBytes 1 e.pixfmt ++ leBytes 2 e.op ++ leBytes 1 e.source) ++
    (b.imports.flatMap fun e => leBytes 2 e.bundleVirt ++ leBytes 2 e.funcVirt ++ leBytes 1 e.die)
  sha3Short (body ++ ([Reg.sfnTMean, Reg.sfnTMax, Reg.sfnHf, Reg.sfnTFlash, Reg.sfnCap].flatMap fun o =>
    leBytes 4 (x.reg o).toNat))

/-- DET_CLASS and DET_CONFIG of the part as die 0 holds them. -/
def State.classConfig (s : State) : List Byte :=
  leBytes 4 (s.reg 0 Reg.detClassLo).toNat ++ leBytes 4 (s.reg 0 Reg.detClassHi).toNat ++
    leBytes 4 (s.reg 0 Reg.detConfig).toNat

/-- A CONFIG record: class and configuration, the bundle HASH, and the digest; zeros where it concerns no canvas. -/
def State.configRec (s : State) (c : Option Canvas) : Rec :=
  { type := 1, flags := 0, canvas := c.elim 0xFFFF fun k => recCanvas k.id, port := 0xFFFF,
    payload := s.classConfig ++ match c with
      | some k => bHash k.image ++ k.configDigest (s.die 0)
      | none => List.replicate 64 0 }

/-- CONFIG records of die 0 at enabling or at a change of DET_CONFIG (R298): one for each bound canvas, or one that concerns
none. DEDUCED, entry 23. -/
def State.recordConfigs (s : State) : State :=
  match s.canvases with
  | [] => s.record 0 s.gsc (s.configRec none)
  | cs => cs.foldl (fun s c => s.record 0 s.gsc (s.configRec (some c))) s

/-- An EVENT record on die 0 (R298): kind, frame step and the kind's fields. Kinds: 0 commit latch, 1 operating-point
change, 2 neural-domain restart, 3 function reset, 4 lock state change, 5 re-anchoring. DESIGN CHOICE, entry 23: the manual
lists the kinds without numbers. -/
def State.recordEvent (s : State) (kind : Nat) (cv : Option CanvasId) (step : Dword) (w : List Byte) : State :=
  if kind = 0 ∧ s.field 0 Reg.detRecCtrl 5 5 = 0 then s
  else
    let pl := leBytes 4 kind ++ leBytes 8 step.toNat ++ w
    s.record 0 s.gsc { type := 0x0A, flags := 0, canvas := cv.elim 0xFFFF recCanvas, port := 0xFFFF, payload := pl }

/-- A DOORBELL record (R298): function, queue and value. -/
def State.recordDoorbell (s : State) (f : FnIx) (q : Nat) (value : Word) : State :=
  if s.field 0 Reg.detRecCtrl 5 5 = 0 then s
  else
    let pl := leBytes 4 f.val ++ leBytes 4 q ++ leBytes 4 value.toNat
    s.record 0 s.gsc { type := 6, flags := 0, canvas := 0xFFFF, port := f.val, payload := pl }

/-- A SENSOR record (R298): port, device address and the bytes read. -/
def State.recordSensor (s : State) (port addr : Nat) (bs : List Byte) : State :=
  if s.field 0 Reg.detRecCtrl 4 4 = 0 then s
  else
    let pl := leBytes 2 port ++ leBytes 2 addr ++ bs
    s.record 0 s.gsc { type := 5, flags := 0, canvas := 0xFFFF, port := port, payload := pl }

/-- Count timing events (R290) in DET_TIMING of die 0. -/
def State.timing (s : State) (n : Nat) : State := s.onDie 0 fun x => x.countWide Reg.detTimingLo n

/-! ### Reading a ring back (R303) -/

/-- A record found in a ring. -/
structure RingRec where
  rec_ : Rec
  seq : Nat
  tick : Nat
  crcOk : Bool
deriving DecidableEq, Repr

/-- The record at the head of some bytes: a header of a known type whose payload fits, and whether its CRC holds. -/
def parseRec (l : List Byte) : Option (RingRec × Nat) :=
  let n := leAt l 4 4
  if l.length < 64 ∨ 0x0A < leAt l 0 2 ∨ l.length < 32 + n then none
  else
    let payload := sliceBytes l 32 n
    some ({ rec_ := { type := leAt l 0 2, flags := leAt l 3 1, canvas := leAt l 24 2, port := leAt l 26 2, payload := payload },
            seq := leAt l 8 8, tick := leAt l 16 8, crcOk := leAt l 28 4 == (crc32c (l.take 28 ++ payload)).toNat },
          64 * ceilDiv (32 + n) 64)

/-- The records of some bytes, in order, each found at a multiple of 64. -/
def parseRing : Nat → List Byte → List RingRec
  | 0, _ => []
  | fuel + 1, l =>
    match parseRec l with
    | some (r, n) => r :: parseRing fuel (l.drop n)
    | none => if l.length ≤ 64 then [] else parseRing fuel (l.drop 64)

/-- The records that a die's ring holds: those of the lap before behind its write pointer, from the first whole one on, then those up
to the pointer. -/
def Die.ringRecords (x : Die) : List RingRec :=
  let (base, size) := x.ring
  let w := (x.reg Reg.detRecWptr).toNat
  let old := if x.field Reg.detStatus 4 4 = 1 then parseRing (size / 64) (x.readDram (base + w) (size - w)) else []
  (old.dropWhile fun r => !r.crcOk) ++ parseRing (size / 64) (x.readDram base w)

end Sys2Proof.Machine
end

