-- ==== Sys2Proof/Machine/Roles.lean ====
section
/-! DEFINITION. Roles and the audit ring (R393 to R399), and role checks on register writes (R396). -/

namespace Sys2Proof.Machine

/-- The session of a path, if one is open. -/
def State.session (s : State) : Path → Option Session
  | .pf => s.sec.pf
  | .mctp => s.sec.mctp

/-- The role that a path holds: 0 operator, 1 installer, 2 maker (R393). A session that ends in this cycle holds no
right any more (R407). -/
def State.role (s : State) (p : Path) : Nat :=
  match s.session p with
  | some x => if s.gsc < x.until_ then x.role.val else 0
  | none => 0

/-- The role that a guard asks for. -/
def Guard.level : Guard → Nat
  | .none => 0
  | .operator => 0
  | .installer => 1

/-- A path in an audit entry (Table 14.9). -/
def pathCode : Path → Byte
  | .pf => 0
  | .mctp => 1

/-- An audit entry as this moment makes it. Its SEQ is given as it is staged. -/
def State.auditEntry (s : State) (kind role path key die : Nat) (off : Nat) (old new : Word) : AuditEntry :=
  { seq := s.nvm.auditHead, tick := BitVec.ofNat 64 s.gsc, kind := BitVec.ofNat 8 kind, role := BitVec.ofNat 8 role,
    path := BitVec.ofNat 8 path, key := BitVec.ofNat 8 key, die := BitVec.ofNat 8 die, offset := BitVec.ofNat 32 off,
    old := old, new := new, build := s.reg 0 Reg.detClassHi }

/-- The 64 bytes of an audit entry (Table 14.9). -/
def AuditEntry.bytes (e : AuditEntry) : List Byte :=
  let b := leBytes 4 e.seq.toNat ++ leBytes 4 0 ++ leBytes 8 e.tick.toNat ++ [e.kind, e.role, e.path, e.key, e.die,
    0, 0, 0] ++ leBytes 4 e.offset.toNat ++ leBytes 4 e.old.toNat ++ leBytes 4 e.new.toNat ++
    leBytes 4 e.build.toNat ++ List.replicate 20 0
  b ++ leBytes 4 (crc32c b).toNat

/-- Whether the staging buffer of 16 entries has room (R399). -/
def State.auditRoom (s : State) : Bool := decide (s.sec.staging.length < 16)

/-- The state with an entry in the staging buffer. NVM_AUDIT_HEAD is the SEQ of the next entry (R398). -/
def State.stage (s : State) (e : AuditEntry) : State :=
  { s with sec := { s.sec with staging := s.sec.staging ++ [e] },
           nvm := { s.nvm with auditHead := s.nvm.auditHead + 1 } }

/-- A change that R398 records: it takes effect once its entry is staged, and is discarded with SEC_EVT.AUDIT_BUSY
where the buffer is full (R399). -/
def State.audited (s : State) (e : AuditEntry) (change : State → State) : State :=
  if s.auditRoom then change (s.stage e) else s.raise 0 Reg.secEvt 0x80

/-- A write refused for its role (R396). -/
def State.roleDenied (s : State) : State := s.countRaise 0 Reg.secRoleDenyCnt Reg.secEvt 0x01

/-! ### Writes by access code -/

/-- What a write makes of one field (R8, R9, R11): `hw` are bits that an event sets in the same fabric cycle. -/
def Field.write (f : Field) (old value hw : Nat) : Nat :=
  match f.access with
  | .rw => natSetBits old f.hi f.lo (natBits value f.hi f.lo)
  | .ro => old
  | .wo => old
  | .w1c =>
    let cur := natBits old f.hi f.lo ||| natBits hw f.hi f.lo
    let clr := natBits value f.hi f.lo &&& (natBits hw f.hi f.lo ^^^ (2 ^ (f.hi + 1 - f.lo) - 1))
    natSetBits old f.hi f.lo (cur &&& (clr ^^^ (2 ^ (f.hi + 1 - f.lo) - 1)))

/-- The word that a write leaves in a register. -/
def writeWord (fields : List Field) (old value hw : Word) : Word :=
  BitVec.ofNat 32 (fields.foldl (fun acc f => f.write acc value.toNat hw.toNat) old.toNat)

/-- Whether a write would change a field that software may set, or acts on it. -/
def Field.touches (f : Field) (old value : Nat) : Bool :=
  match f.access with
  | .rw => natBits old f.hi f.lo != natBits value f.hi f.lo
  | .wo => natBits value f.hi f.lo != 0
  | .w1c => false
  | .ro => false

/-- The role that a write needs (R394, R396). A register whose every writable field is an installer's needs that role
whatever is written; in a register of mixed fields a write needs the role of the fields it changes. DEDUCED,
entry 10. -/
def roleNeeded (fields : List Field) (old value : Word) : Nat :=
  let w := fields.filter fun f => f.access == .rw || f.access == .wo
  if !w.isEmpty && w.all fun f => f.guard == .installer then 1
  else if w.any fun f => f.guard == .installer && f.touches old.toNat value.toNat then 1 else 0

/-- A guarded write of a register of a die over the PF path: refused for its role, or applied by `apply`, after its
audit entry where it is an installer's or maker's change (R396, R398, R399). -/
def State.guardedWrite (s : State) (d : DieIx) (off : Nat) (fields : List Field) (old value : Word)
    (apply : State → State) : State :=
  let need := roleNeeded fields old value
  if s.role .pf < need then s.roleDenied
  else if need = 0 then apply s
  else s.audited (s.auditEntry 1 (s.role .pf) 0 0xFF d.val off old (writeWord fields old value 0)) apply

/-- The fields of a register of a die window; empty where no register lies (R9). -/
def fieldsAt (off : Nat) : List Field :=
  match dieRow off with
  | some r => r.fields
  | none => []

/-- A guarded write of a register whose value is all there is to it. -/
def State.storeReg (s : State) (d : DieIx) (off : Nat) (value : Word) : State :=
  s.guardedWrite d off (fieldsAt off) (s.reg d off) value fun t =>
    t.setReg d off (writeWord (fieldsAt off) (s.reg d off) value 0)

end Sys2Proof.Machine
end

