-- ==== Sys2Proof/Machine/Sec.lean ====
section
/-! DEFINITION. Role sessions, requests of the security block, the audit ring and stored settings (R387 to R407). -/

namespace Sys2Proof.Machine

/-- Device time in ticks of 10 ns for a number of seconds. -/
def ticksOfSeconds (n : Nat) : Nat := n * 100_000_000

/-- An address range lies wholly inside one window of a function (R316). -/
def HostSide.inWindow (h : HostSide) (f : FnIx) (base len : Nat) : Bool :=
  (h.fn f).windows.toList.any fun w => match w with
    | some (b, l) => decide (b.toNat ≤ base) && decide (base + len ≤ l.toNat)
    | none => false

/-- The result of a request on its path: STATUS of SEC_REQ_CTRL for the PF; over MCTP it travels in the answering
message (R404). -/
def State.reqStatus (s : State) (p : Path) (st : Status) : State :=
  match p with
  | .pf => (s.setField 0 Reg.secReqCtrl 15 8 st.code).setField 0 Reg.secReqCtrl 2 2 0
  | .mctp => s

/-- Base and length of the PF's request buffer. -/
def State.reqBuffer (s : State) : Nat × Nat :=
  ((s.reg 0 Reg.secReqAddrLo).toNat + 2 ^ 32 * (s.reg 0 Reg.secReqAddrHi).toNat, s.field 0 Reg.secReqLen 16 0)

/-- A request of Table 14.7 starts (R404). A GO while BUSY is 1 has no effect; a PF buffer outside the window ends with
ST_HOST_RANGE, request 7 excepted; a path without the role ends with ST_ROLE (R396). OP takes the number of the
request. -/
def State.request (s : State) (p : Path) (op role : Nat) (run : State → State) : State :=
  if p = .pf ∧ s.field 0 Reg.secReqCtrl 2 2 = 1 then s
  else
    let s1 := if p = .pf then s.setField 0 Reg.secReqCtrl 6 3 op else s
    let (b, n) := s.reqBuffer
    if p = .pf ∧ op ≠ 7 ∧ ¬ (64 ≤ n ∧ n ≤ 65536 ∧ s.host.inWindow 0 b n) then s1.reqStatus p .hostRange
    else if s.role p < role then s1.reqStatus p .role
    else run s1

/-- Bytes that a request writes into its buffer from an offset; over MCTP they travel in the answering message. -/
def State.reqWrite (s : State) (p : Path) (off : Nat) (bs : List Byte) : State :=
  match p with
  | .pf => s.writeHost (s.reqBuffer.1 + off) bs
  | .mctp => s

/-- Whether a PF buffer holds bytes up to an end. -/
def State.reqFits (s : State) (p : Path) (n : Nat) : Bool :=
  match p with
  | .pf => decide (n ≤ s.reqBuffer.2)
  | .mctp => true

/-! ### Sessions -/

/-- Set the session of a path. -/
def State.setSession (s : State) (p : Path) (x : Option Session) : State :=
  match p with
  | .pf => { s with sec := { s.sec with pf := x } }
  | .mctp => { s with sec := { s.sec with mctp := x } }

/-- A session ends, with its audit entry (R395, R398). -/
def State.endSession (s : State) (p : Path) : State :=
  match s.session p with
  | none => s
  | some x => s.audited (s.auditEntry 9 x.role.val (pathCode p).toNat 0xFF 0 0 0 0) fun t => t.setSession p none

/-- Whether a role request is granted (R395). -/
def State.authGranted (s : State) (p : Path) (data : List Byte) : Bool :=
  let hd := sliceBytes data 0 64
  let role := leAt hd 0 1
  let slot := leAt hd 1 1
  let secs := leAt hd 4 4
  let key := sliceBytes data 64 2592
  let sig := sliceBytes data 2656 4627
  let zeros := (leAt hd 3 1 == 0) && (leNat (sliceBytes hd 40 24) == 0)
  let hash := if role = 1 then s.nvm.installerHashes[slot % 4] else s.otp.makerHashes[slot % 4]
  decide (data.length = 7283) && (role == 1 || role == 2) && decide (slot < 4) && (leAt hd 2 1 == (pathCode p).toNat) &&
    decide (1 ≤ secs) && decide (secs ≤ 3600) && zeros &&
    (s.sec.nonce == some (BitVec.ofNat 256 (leAt hd 8 32))) && (digestOf key == hash) &&
    Config.mlDsaVerify key (sha3 hd) sig

/-- A role request is refused (R395): counted, flagged and recorded; the eighth consecutive failure locks role
requests out for 60 s. -/
def State.authRefused (s : State) (p : Path) (key : Nat) (locked : Bool) : State :=
  let s1 := s.audited (s.auditEntry 6 (s.role p) (pathCode p).toNat key 0 0 0 0) id
  let s2 := s1.countRaise 0 Reg.secAuthFailCnt Reg.secEvt 0x02
  let n := s.sec.failures + 1
  let s3 := if locked then s2
    else if 8 ≤ n then
      ({ s2 with sec := { s2.sec with failures := 0, lockedUntil := some (s.gsc + ticksOfSeconds 60) } }).raise 0
        Reg.secEvt 0x04
    else { s2 with sec := { s2.sec with failures := n } }
  s3.reqStatus p .auth

/-- The role request (request 1, R395). -/
def State.authRequest (s : State) (p : Path) (data : List Byte) : State :=
  s.request p 1 0 fun s =>
    let key := leAt data 1 1
    let locked := match s.sec.lockedUntil with
      | some t => decide (s.gsc < t)
      | none => false
    let used := s.sec.nonce == some (BitVec.ofNat 256 (leAt data 8 32))
    let s1 := if used then { s with sec := { s.sec with nonce := none } } else s
    if !locked && s.authGranted p data then
      if s1.auditRoom then
        let role := leAt data 0 1
        let s2 := s1.stage (s1.auditEntry 5 role (pathCode p).toNat key 0 0 0 0)
        let s3 := s2.setSession p (some { role := Fin.ofNat 3 role, until_ := s.gsc + ticksOfSeconds (leAt data 4 4) })
        ({ s3 with sec := { s3.sec with failures := 0 } }).reqStatus p .ok
      else (s1.raise 0 Reg.secEvt 0x80).reqStatus p .noResource
    else s1.authRefused p key locked

/-- SESSION_DROP (R395): SEC_REQ_CTRL.DROP ends the PF session. -/
def fxSessionDrop (s : State) : State := s.endSession .pf

/-- SESSION_EXPIRY (R395): a session whose SECONDS have passed ends. -/
def fxSessionExpiry (p : Path) (s : State) : State :=
  match s.session p with
  | some x => if x.until_ ≤ s.gsc then s.endSession p else s
  | none => s

/-- NONCE_DRAW (R395): a read of SEC_NONCE(0) draws a new nonce, a free value (entry 5). -/
def fxNonceDraw (s : State) : State :=
  { s with sec := { s.sec with nonce := some (Config.nonce s.free) }, free := s.free + 1 }

/-- AUTH_LOCKOUT_END (R395): the lockout ends after 60 s. -/
def fxAuthLockoutEnd (s : State) : State :=
  match s.sec.lockedUntil with
  | some t => if t ≤ s.gsc then { s with sec := { s.sec with lockedUntil := none } } else s
  | none => s

/-! ### Attestation, OTP, key store, audit, SRM, boot -/

/-- The measurement log as R390 lays it out: 80 bytes an entry. -/
def Sec.logBytes (x : Sec) : List Byte :=
  let es := x.log ++ (match x.log63 with
    | some g => [((4 : Byte), g)]
    | none => [])
  (es.zipIdx).flatMap fun e => leBytes 2 e.2 ++ [e.1.1] ++ List.replicate 13 0 ++ leBytes 64 e.1.2.toNat

/-- A successful admission measured (R390): entries 4 to 62 in order, then folded into entry 63. -/
def Sec.measure (x : Sec) (hash : List Byte) : Sec :=
  let padded := sliceBytes hash 0 64
  if x.log.length < 63 then { x with log := x.log ++ [(4, BitVec.ofNat 512 (leNat padded))] }
  else { x with log63 := some (digestOf (leBytes 64 (x.log63.getD 0).toNat ++ padded)) }

/-- The attestation request (request 2, R391). A PF buffer that the response does not fit is refused with ST_BAD_DESC (entry 11). -/
def State.attestRequest (s : State) (p : Path) (data : List Byte) : State :=
  s.request p 2 0 fun s =>
    let log := s.sec.logBytes
    let pub := Config.mlDsaPublic s.sec.aliasSeed
    let sig := Config.mlDsaSign s.sec.aliasSeed (sha3 (sliceBytes data 0 32 ++ log ++ pub))
    let out := leBytes 4 (log.length / 80) ++ log ++ sliceBytes pub 0 2592 ++ sliceBytes s.sec.identitySig 0 4627 ++
      sliceBytes sig 0 4627
    if s.reqFits p (64 + out.length) then (s.reqWrite p 64 out).reqStatus p .ok else s.reqStatus p .badDesc

/-- What OTP holds in a field of request 3. -/
def Otp.read (o : Otp) (field : BitVec 16) : BitVec 512 :=
  match Config.otpField field with
  | 0 => o.floorBits.setWidth 512
  | 1 => o.features.setWidth 512
  | 2 => o.revoked.setWidth 512
  | n =>
    if 3 ≤ n ∧ n < 7 then o.keyHashes[(n - 3) % 4]
    else if 7 ≤ n ∧ n < 11 then
      (((o.envelopes.find? fun e => e.1 == Reg.sfnEnv0 + 4 * (n - 7)).map Prod.snd).getD 0).setWidth 512
    else sGet (fun _ => 0) o.fields field.toNat

/-- OTP with a field programmed: a set bit stays set. -/
def Otp.program (o : Otp) (field : BitVec 16) (value : BitVec 512) : Otp :=
  let v := o.read field ||| value
  match Config.otpField field with
  | 0 => { o with floorBits := v.setWidth 63 }
  | 1 => { o with features := v.setWidth 5 }
  | 2 => { o with revoked := v.setWidth 4 }
  | n =>
    if 3 ≤ n ∧ n < 7 then { o with keyHashes := o.keyHashes.set ((n - 3) % 4) v }
    else if 7 ≤ n ∧ n < 11 then
      let off := Reg.sfnEnv0 + 4 * (n - 7)
      { o with envelopes := sInsert (sErase o.envelopes off) off (v.setWidth 32) }
    else { o with fields := sSet (fun _ => 0) o.fields field.toNat v }

/-- A change that starts once its entry is programmed (R399): BUSY stays 1 until then. -/
def State.defer (s : State) (p : Path) (e : AuditEntry) (a : SecAction) : State :=
  if s.auditRoom then
    let s1 := s.stage e
    let s2 := { s1 with sec := { s1.sec with deferred := s1.sec.deferred ++ [(e.seq, p, a)] } }
    if p = .pf ∧ a ≠ .store then s2.setField 0 Reg.secReqCtrl 2 2 1 else s2
  else if a = .store then s.raise 0 Reg.secEvt 0x80
  else (s.raise 0 Reg.secEvt 0x80).reqStatus p .noResource

/-- The OTP request (request 3, Table 14.7): refused where it would clear a set bit. -/
def State.otpRequest (s : State) (p : Path) (data : List Byte) : State :=
  s.request p 3 2 fun s =>
    let field := BitVec.ofNat 16 (leAt data 0 2)
    let v := BitVec.ofNat 512 (leAt data 8 64)
    let old := s.otp.read field
    if old &&& ~~~ v ≠ 0 then s.reqStatus p .badDesc
    else s.defer p (s.auditEntry 2 (s.role p) (pathCode p).toNat 0xFF 0 field.toNat (old.setWidth 32) (v.setWidth 32))
      (.otp field v)

/-- The key-store request (request 4, Table 14.7). -/
def State.keystoreRequest (s : State) (p : Path) (data : List Byte) : State :=
  s.request p 4 2 fun s =>
    let slot := leAt data 0 1
    if 4 ≤ slot then s.reqStatus p .badDesc
    else
      let hash := BitVec.ofNat 512 (leAt data 64 64)
      s.defer p (s.auditEntry 3 (s.role p) (pathCode p).toNat slot 0 slot
        ((s.nvm.installerHashes[slot % 4]).setWidth 32) (hash.setWidth 32)) (.key (Fin.ofNat 4 slot) hash)

/-- The programmed entries of a range of SEQ that the ring still holds. -/
def Nvm.entries (n : Nvm) (first count : Nat) : List AuditEntry :=
  (List.range (min count 1024)).filterMap fun i =>
    match sLookup n.ring ((first + i) % 1024) with
    | some e => if e.seq.toNat = first + i then some e else none
    | none => none

/-- The audit request (request 5, Table 14.7): entries of the ring are written from byte 64, as many as the buffer holds. -/
def State.auditRequest (s : State) (p : Path) (data : List Byte) : State :=
  s.request p 5 0 fun s =>
    let es := s.nvm.entries (leAt data 0 4) (leAt data 8 4)
    let room := match p with
      | .pf => (s.reqBuffer.2 - 64) / 64
      | .mctp => 1024
    (s.reqWrite p 64 ((es.take room).flatMap AuditEntry.bytes)).reqStatus p .ok

/-- The SRM request (request 6, R392): kept when its signature verifies and its version is greater than the one held. -/
def State.srmRequest (s : State) (p : Path) (data : List Byte) : State :=
  s.request p 6 0 fun s =>
    match Config.srmVersion data with
    | some v => if s.nvm.srm < v then ({ s with nvm := { s.nvm with srm := v } }).reqStatus p .ok
                else s.reqStatus p .auth
    | none => s.reqStatus p .auth

/-! ### The settings memory -/

/-- A persistent register of the settings image (R400) and whether its value in force is that of a shadow. -/
def persistentRegs : List (Nat × Bool) :=
  [(Reg.sfnTMean, false), (Reg.sfnTMax, false), (Reg.sfnHf, false), (Reg.sfnTFlash, false), (Reg.sfnCap, false),
   (Reg.sfnBright, false), (Reg.sfnEchoCtrl, false), (Reg.sfnIgSafe, false), (Reg.cmpHoldLimit, false),
   (Reg.cmpRetime, false), (Reg.clkLockCfg, false), (Reg.clkPtpCtrl, false), (Reg.pwrPortEn, false),
   (Reg.scnCtrl, true), (Reg.scnTeCtrl, true), (Reg.cmpBg, true)] ++
  (List.finRange 16).flatMap fun l =>
    [Reg.cmpLayerCtrl l, Reg.cmpLayerSrcXy l, Reg.cmpLayerSrcWh l, Reg.cmpLayerDstXy l, Reg.cmpLayerDstWh l,
     Reg.cmpLayerBaseLo l, Reg.cmpLayerBaseHi l, Reg.cmpLayerPitch l, Reg.cmpLayerAlpha l, Reg.cmpLayerFill l,
     Reg.cmpLayerSource l, Reg.cmpLayerCsc0 l, Reg.cmpLayerCsc1 l, Reg.cmpLayerCsc2 l, Reg.cmpLayerCsc3 l,
     Reg.cmpLayerCsc4 l, Reg.cmpLayerOff l 0, Reg.cmpLayerOff l 1, Reg.cmpLayerOff l 2].map fun o => (o, true)

/-- A layer is stored where it has SRC 0 or 2 (R400): bundle layers and the write-back source are bound anew. -/
def Die.storesLayer (x : Die) (off : Nat) : Bool :=
  if 0x38_1000 ≤ off ∧ off < 0x38_1800 then
    let src := bits (x.inForce (off - (off - 0x38_1000) % 0x80)) 10 9
    src == 0 || src == 2
  else true

/-- The persistent values in force of one die that differ from their reset values. -/
def Die.persistent (x : Die) (d : DieIx) : List (DieIx × Nat × Word) :=
  persistentRegs.filterMap fun r =>
    let v := if r.2 then x.inForce r.1 else x.reg r.1
    if x.storesLayer r.1 && v != regReset r.1 then some (d, r.1, v) else none

/-- The settings that a STORE captures (R402). -/
def State.captureSettings (s : State) : Settings :=
  { seq := s.reg 0 Reg.nvmSeq + 1,
    values := s.dieList.flatMap (fun d => (s.die d).persistent d) ++
      (if s.field 0 Reg.secReset 8 8 = 1 then [(0, Reg.secReset, 0x100)] else []),
    op := s.power.point,
    modes := s.dieList.filterMap fun d => (s.die d).head.mode.map fun m => (d, m),
    igs := s.igs.toList.map fun c => (c.cfg, c.limit),
    coefs := s.dieList.filterMap fun d => if (s.die d).coefForce.isEmpty then none else some (d, (s.die d).coefForce),
    good := false }

/-- The sectors of a settings slot (Table 14.10). -/
def slotSectors (k : Nat) : List Nat := (List.range 8).map fun i => 16 + 8 * k + i

/-- The next slot of the rotation that is still live. -/
def Nvm.pickSlot (n : Nvm) : Option (Fin 4) :=
  (List.range 4).findSome? fun i =>
    let k : Fin 4 := Fin.ofNat 4 (n.nextSlot.val + i)
    if n.live.getLsbD k.val then some k else none

/-- The highest erase count of any sector (NVM_WEAR.MAX). -/
def Nvm.maxWear (n : Nvm) : Nat := n.erase.toList.foldl max 0

/-- NVM with one sector erased once more; a slot with a sector at 100,000 leaves the rotation (R403). -/
def Nvm.eraseSector (n : Nvm) (i : Nat) : Nvm :=
  let e := n.erase.set (i % 64) (n.erase[i % 64] + 1) (Nat.mod_lt _ (by decide))
  let n1 := { n with erase := e }
  if 16 ≤ i ∧ i < 48 ∧ 100_000 ≤ e[i % 64] then
    { n1 with live := n1.live &&& ~~~ ((1 : BitVec 4) <<< ((i - 16) / 8)) }
  else n1

/-- A store of settings (R402): the persistent values in force are captured; a STORE while BUSY is 1 has no effect. It starts once its
audit entry is programmed (R399). With no slot in the rotation it completes with ST_NO_RESOURCE (R403). -/
def State.storeSettings (s : State) (p : Path) : State :=
  if s.field 0 Reg.nvmCtrl 1 1 = 1 then s
  else match s.nvm.pickSlot with
    | none => (s.setField 0 Reg.nvmCtrl 11 4 Status.noResource.code).raise 0 Reg.nvmEvt 0x06
    | some _ =>
      if s.auditRoom then
        let e := s.auditEntry 4 (s.role p) (pathCode p).toNat 0xFF 0 0 0 0
        let s1 := (s.defer p e .store).setField 0 Reg.nvmCtrl 1 1 1
        { s1 with nvm := { s1.nvm with storing := some s.captureSettings, eraseDebt := s1.nvm.eraseDebt + 1 } }
      else s.raise 0 Reg.secEvt 0x80

/-- STORE_COMPLETE (R402, R403): the captured image is programmed into the next slot, its commit mark last. -/
def fxStoreComplete (s : State) : State :=
  let waits := s.sec.deferred.any fun x => x.2.2 == .store
  match s.nvm.storing, s.nvm.pickSlot with
  | some img, some k =>
    if waits then s
    else
      let n1 := (slotSectors k.val).foldl Nvm.eraseSector s.nvm
      let n2 := { n1 with slots := n1.slots.set k.val (some { img with good := true }) k.isLt, inForce := k,
                          nextSlot := Fin.ofNat 4 (k.val + 1), storing := none,
                          storeCount := satCount n1.storeCount 1 }
      let s1 := { s with nvm := n2 }
      let s2 := ((s1.setField 0 Reg.nvmCtrl 1 1 0).setField 0 Reg.nvmCtrl 3 2 k.val).setField 0 Reg.nvmCtrl 11 4 0
      (s2.setReg 0 Reg.nvmSeq img.seq).raise 0 Reg.nvmEvt 0x01
  | some _, none =>
    let s1 := { s with nvm := { s.nvm with storing := none } }
    ((s1.setField 0 Reg.nvmCtrl 1 1 0).setField 0 Reg.nvmCtrl 11 4 Status.noResource.code).raise 0 Reg.nvmEvt 0x06
  | none, _ => s

/-- SECTOR_ERASE (R376, R403): wear management erases one sector and repays one erase of its debt. -/
def fxSectorErase (sector : Fin 64) (s : State) : State :=
  { s with nvm := { s.nvm.eraseSector sector.val with eraseDebt := s.nvm.eraseDebt - 1 } }

/-- What a deferred change does once its entry is programmed. -/
def State.runAction (s : State) (p : Path) : SecAction → State
  | .otp field v => ({ s with otp := s.otp.program field v }).reqStatus p .ok
  | .key slot hash =>
    ({ s with nvm := { s.nvm with installerHashes := s.nvm.installerHashes.set slot.val hash slot.isLt } }).reqStatus p
      .ok
  | .store => s

/-- AUDIT_PROGRAM (R398, R399): the oldest staged entry is programmed at index SEQ mod 1,024, over the oldest one, and
the change that waited for it starts. Every 64 entries add an erase to the wear debt (Table 14.2). -/
def fxAuditProgram (s : State) : State :=
  match s.sec.staging with
  | [] => s
  | e :: rest =>
    let debt := if e.seq.toNat % 64 = 63 then 1 else 0
    let s1 := { s with nvm := { s.nvm with ring := sInsert (sErase s.nvm.ring (e.seq.toNat % 1024)) (e.seq.toNat % 1024) e,
                                           eraseDebt := s.nvm.eraseDebt + debt },
                       sec := { s.sec with staging := rest,
                                           deferred := s.sec.deferred.filter fun x => x.1 != e.seq } }
    (s.sec.deferred.filter fun x => x.1 == e.seq).foldl (fun t x => t.runAction x.2.1 x.2.2) s1

/-- NVM_AUDIT_SEL_WRITE (R406): INDEX takes the value, and the entry of that index is captured. -/
def fxNvmAuditSelWrite (value : Word) (s : State) : State :=
  let s1 := s.setField 0 Reg.nvmAuditSel 9 0 value.toNat
  { s1 with nvm := { s1.nvm with captured := sLookup s.nvm.ring (bits value 9 0) } }

/-- AUTH: request 1 of Table 14.7. -/
def fxAuth (p : Path) (data : List Byte) (s : State) : State := s.authRequest p data

/-- ATTEST: request 2 of Table 14.7. -/
def fxAttest (p : Path) (data : List Byte) (s : State) : State := s.attestRequest p data

/-- OTP: request 3 of Table 14.7. -/
def fxOtp (p : Path) (data : List Byte) (s : State) : State := s.otpRequest p data

/-- KEYSTORE: request 4 of Table 14.7. -/
def fxKeystore (p : Path) (data : List Byte) (s : State) : State := s.keystoreRequest p data

/-- AUDIT: request 5 of Table 14.7. -/
def fxAudit (p : Path) (data : List Byte) (s : State) : State := s.auditRequest p data

/-- SRM: request 6 of Table 14.7. -/
def fxSrm (p : Path) (data : List Byte) (s : State) : State := s.srmRequest p data

/-- STORE (R402). -/
def fxStore (p : Path) (s : State) : State := s.storeSettings p

def execAuth (p : Path) (data : List Byte) (s : State) : Host.Outcome State Fault Refusal := .next (fxAuth p data s)
def execAttest (p : Path) (data : List Byte) (s : State) : Host.Outcome State Fault Refusal :=
  .next (fxAttest p data s)
def execOtp (p : Path) (data : List Byte) (s : State) : Host.Outcome State Fault Refusal := .next (fxOtp p data s)
def execKeystore (p : Path) (data : List Byte) (s : State) : Host.Outcome State Fault Refusal :=
  .next (fxKeystore p data s)
def execAudit (p : Path) (data : List Byte) (s : State) : Host.Outcome State Fault Refusal := .next (fxAudit p data s)
def execSrm (p : Path) (data : List Byte) (s : State) : Host.Outcome State Fault Refusal := .next (fxSrm p data s)
def execSessionDrop (s : State) : Host.Outcome State Fault Refusal := .next (fxSessionDrop s)
def execSessionExpiry (p : Path) (s : State) : Host.Outcome State Fault Refusal := .next (fxSessionExpiry p s)
def execNonceDraw (s : State) : Host.Outcome State Fault Refusal := .next (fxNonceDraw s)
def execAuthLockoutEnd (s : State) : Host.Outcome State Fault Refusal := .next (fxAuthLockoutEnd s)
def execStore (p : Path) (s : State) : Host.Outcome State Fault Refusal := .next (fxStore p s)
def execStoreComplete (s : State) : Host.Outcome State Fault Refusal := .next (fxStoreComplete s)
def execSectorErase (sector : Fin 64) (s : State) : Host.Outcome State Fault Refusal := .next (fxSectorErase sector s)
def execAuditProgram (s : State) : Host.Outcome State Fault Refusal := .next (fxAuditProgram s)
def execNvmAuditSelWrite (value : Word) (s : State) : Host.Outcome State Fault Refusal :=
  .next (fxNvmAuditSelWrite value s)

end Sys2Proof.Machine
end

