-- ==== Sys2Proof/Machine/Ecc.lean ====
section
/-! DEFINITION. Errors of stored bits: their counters, the record of the latest, and poisoned words (R163, R164, R373,
R374). -/

namespace Sys2Proof.Machine

/-- Where an error of stored bits lies, as far as rows 1 and 8 of Table 14.1 have units and addresses. -/
inductive EccAt where
  | bigTop (addr : Nat)
  | dram (addr : Nat)
deriving DecidableEq, Repr

/-- The Big Top bank of a byte address (R161). -/
def bigTopBank (a : Nat) : Nat :=
  let w := a / 64
  (w ^^^ (w / 64) ^^^ (w / 4096)) % 64

/-- The DRAM channel of a byte address (R187). -/
def dramChannel (a : Nat) : Nat := (a / 2 ^ 8 % 2 + a / 2 ^ 16 % 2 + a / 2 ^ 24 % 2) % 2

/-- The unit number under which corrected errors of the last second are kept: banks 0 to 63, then channels. -/
def EccAt.key : EccAt → Nat
  | .bigTop a => bigTopBank a
  | .dram a => 64 + dramChannel a

/-- ROW, UNIT and address for SEC_ECC_LAST and SEC_ECC_ADDR. -/
def EccAt.place : EccAt → Nat × Nat × Nat
  | .bigTop a => (1, bigTopBank a, a)
  | .dram a => (8, dramChannel a, a)

/-- The counter of a corrected error, and of an uncorrectable one. -/
def EccAt.counters : EccAt → Nat × Nat
  | .bigTop _ => (Reg.secCeBt, Reg.secUeBt)
  | .dram _ => (Reg.secCeDram, Reg.secUeDram)

/-- An error is counted and recorded; more than 64 corrected errors of one unit in 1 s set SEC_EVT.CE_STORM (R374). SEC_EVT is that
of die 0 (entry 49). -/
def State.eccError (s : State) (d : DieIx) (w : EccAt) (ue : Bool) : State :=
  let (row, un, addr) := w.place
  let s1 := (s.onDie d fun x => ((x.count (if ue then w.counters.2 else w.counters.1) 1).setReg Reg.secEccLast
    (BitVec.ofNat 32 (row + 16 * b2n ue + 32 * (un % 64)))).setReg Reg.secEccAddr (BitVec.ofNat 32 addr))
  if ue then s1.raise 0 Reg.secEvt 0x10
  else
    let recent := (w.key, s.gsc) :: (s.die d).ceRecent.filter fun e => decide (s.gsc < e.2 + 100_000_000)
    let s2 := s1.onDie d fun x => { x with ceRecent := recent }
    if 64 < (recent.filter fun e => e.1 == w.key).length then s2.raise 0 Reg.secEvt 0x08 else s2

/-- A number added to a list that does not hold it. -/
def addNew (l : List Nat) (n : Nat) : List Nat := if l.contains n then l else l ++ [n]

/-- The unit of a memory of a die that holds an address is poisoned (R164, R188). -/
def EccAt.poison (w : EccAt) (x : Die) : Die :=
  match w with
  | .bigTop a => { x with bigTopPoison := addNew x.bigTopPoison (a / 64) }
  | .dram a => { x with dramPoison := addNew x.dramPoison (a / 128) }

/-- Bytes of Big Top from an address lie in a poisoned word. -/
def Die.bigTopBad (x : Die) (addrs : List Nat) : Bool := addrs.any fun a => x.bigTopPoison.contains (a / 64)

/-- Bytes of DRAM lie in a poisoned access unit. -/
def Die.dramBad (x : Die) (addrs : List Nat) : Bool := addrs.any fun a => x.dramPoison.contains (a / 128)

end Sys2Proof.Machine
end

