-- ==== Sys2Proof/Machine/Work.lean ====
section
/-! DEFINITION. Work in progress: Turnstile operations as the running machine carries them out, the completion of stripe
parts, abandonment with its fall-back halo, streams that end, and entry into the queues (R45, R52 to R54, R153 to R157, R172,
R177, R259 to R281, R329). -/

namespace Sys2Proof.Machine

/-! ### The Safety Net's untrusted faults (R166, R262, R270, R355) -/

/-- A fault of the untrusted domain on a die: counted, flagged, and the frame becomes a rejection frame. -/
def State.untrusted (s : State) (d : DieIx) : State :=
  (s.onDie d fun x => { x with sfn := { x.sfn with frameBad := true } }).countRaise d Reg.sfnUntrustedCnt Reg.sfnEvt 0x4000

/-! ### Streams of a die -/

/-- A stream. -/
def Die.stream (x : Die) (st : StreamId) : Option Stream := (x.streams.find? fun e => e.1 == st).map Prod.snd

/-- The state with a stream changed. -/
def State.onStream (s : State) (st : StreamId) (f : Stream → Stream) : State :=
  s.onDie st.die fun x => { x with streams := updFirst (fun e => e.1 == st) (fun e => (e.1, f e.2)) x.streams }

/-- The stream that an issuer of class 5 is: its instance is 4 × Carousel + stream. -/
def issuerStream (i : Issuer) : StreamId := { die := i.die, crs := Fin.ofNat 48 (i.inst / 4), idx := Fin.ofNat 4 i.inst }

/-- The queue of an issuer that has none (Table 10.9). -/
def noQueue : Nat := 0xFFFF_FFFF

/-- The issuer identifier of a stream. -/
def streamIssuer (st : StreamId) : Issuer :=
  { cls := 5, die := st.die, inst := 4 * st.crs.val + st.idx.val, queue := noQueue }

/-- The 32-bit stream identifier (Table 7.3). -/
def streamWord (st : StreamId) (prog : BitVec 16) : Nat :=
  st.idx.val + 4 * st.crs.val + 256 * st.die.val + 65536 * prog.toNat

/-- A pool whose members hold nothing and on which no request waits. -/
def Pool.emptied (p : Pool) : Pool :=
  { p with members := p.members.map fun m => { m with stream := none, held := 0 }, waiting := [], stalled := false }

/-- Streams leave their Carousels: their requests and their waits on Turnstiles go with them (R264, R275). -/
def Die.removeStreams (x : Die) (p : StreamId → Stream → Bool) : Die :=
  let gone := (x.streams.filter fun e => p e.1 e.2).map Prod.fst
  { x with streams := x.streams.filter fun e => !p e.1 e.2,
           pools := x.pools.map fun e => (e.1, { e.2 with waiting := e.2.waiting.filter fun q => !gone.contains q.stream }),
           tsl := x.tsl.cancel fun q => q.iss.cls.val == 5 && gone.contains (issuerStream q.iss) }

/-! ### Barriers (R280, R281) -/

/-- The parent of a die in the barrier tree (Table 10.6). -/
def barrierParent (p : Part) (d : DieIx) : Option DieIx :=
  match p, d.val with
  | _, 0 => none
  | .pv8800, 3 => some 1
  | .pv8800, 6 => some 2
  | .pv8800, 5 => some 4
  | _, _ => some 0

/-- A node whose arrivals reach its expected count subtracts it in the same cycle; its combining delay begins. -/
def State.barrierArrive (s : State) (d : DieIx) (n : Nat) : State :=
  match s.barriers.find? fun b => b.arr[d.val] == n && decide (0 < b.expected[d.val]) with
  | none => s
  | some b =>
    match (s.die d).tsl.obj n with
    | none => s
    | some o =>
      if o.value < b.expected[d.val] then s
      else { (s.onDie d fun x => { x with tsl := x.tsl.setObj n { o with value := o.value - b.expected[d.val] } }) with
        barriers := updFirst (fun x => x.id == b.id) (fun x => { x with combining := x.combining ++ [d] }) s.barriers }

/-! ### One operation on an object -/

/-- What a wait that proceeds lets go: the descriptor of a host queue, or a stream at its WAIT. -/
def State.released (s : State) (q : TslReq) (st : Status) : State :=
  if q.iss.cls.val = 8 then
    s.onHost fun h => h.onQueue (Fin.ofNat 64 q.iss.inst) q.iss.queue fun x =>
      { x with state := if x.state == .wait then .run else x.state,
               cur := x.cur.map fun c => match c.await with
                 | some (.turnstile _) => { c with await := none, done := some { status := st, kind := 0, detail := [] } }
                 | _ => c }
  else if q.iss.cls.val = 5 ∧ st = .ok then
    s.onStream (issuerStream q.iss) fun x => if x.state == .waitTsl then { x with state := .running, pc := x.pc + 1 } else x
  else s

/-- The flags and counters that the results of one cycle raise on the die (R262, R263, R264). -/
def State.tslFlags (s : State) (d : DieIx) (bundle : Bool) (r : TslResult) : State :=
  match r with
  | .saturated =>
    let t := s.countRaise d Reg.tslOvfCnt Reg.tslEvt 0x01
    if bundle then t.untrusted d else t
  | .refused => s.countRaise d Reg.tslUnderCnt Reg.tslEvt 0x02
  | .full => s.raise d Reg.tslEvt 0x10
  | .proceeds _ => s
  | .applied => s
  | .poisoned => s
  | .queued => s

/-- One cycle of an object of a die, with what its released waiters do (R261). Answers what each operation received. -/
def State.tslCycle (s : State) (d : DieIx) (n : Nat) (ops : List TslReq) : State × List (TslReq × TslResult) :=
  let t := (s.die d).tsl
  match t.obj n with
  | none => (s, [])
  | some o =>
    let r := o.resolve ops s.gsc (4096 - t.hostWaiters)
    let bundle := match t.ctx o.ctx with
      | some c => match c.owner with
        | .bundle _ => true
        | .firmware => false
        | .func _ => false
      | none => false
    let s1 := s.onDie d fun x => { x with tsl := x.tsl.setObj n r.obj }
    let s2 := r.results.foldl (fun s e => match e.2 with
      | .proceeds st => s.released e.1 st
      | x => s.tslFlags d bundle x) s1
    (s2.barrierArrive d n, r.results)

/-! ### Completion of stripe parts (R45) -/

/-- VALUE of a tensor's row Turnstile on a die for a stripe step. -/
def State.rowValue (s : State) (c : Canvas) (d : DieIx) (t seq : Nat) : Option Nat :=
  match c.rowVirt t with
  | none => none
  | some v =>
    match (s.die d).tsl.translate c.ctx v seq with
    | none => none
    | some n => ((s.die d).tsl.obj n).map TslObj.value

/-- Signalling shares of an op on a die in a stripe. -/
def State.shares (s : State) (c : Canvas) (o : Op) (d : DieIx) (stripe : Nat) : Nat :=
  if o.frameScope then 1 else (c.units o (c.opBand o d stripe) s.engines).length

/-- The OUTPUT op of a layer of a canvas. -/
def Canvas.partOp (c : Canvas) (p : PartSt) : Option Op :=
  (c.binding.layers.find? fun x => x.layer == p.id.layer.val).map c.layerOp

/-- Whether the rows of a part have been signalled. -/
def State.partSignalled (s : State) (c : Canvas) (p : PartSt) : Bool :=
  match c.partOp p with
  | none => false
  | some o =>
    let bnd := c.opBand o p.computeDie p.id.stripe
    match s.rowValue c p.computeDie o.out0 p.stepSeq with
    | none => false
    | some v => decide (s.shares c o p.computeDie p.id.stripe * (bnd.y1 - bnd.y0) ≤ v)

/-- A part that neural work can still complete. -/
def PartSt.open_ (p : PartSt) : Bool := p.released && !p.complete && !p.abandoned && p.failed.isNone

/-- A part whose rows the die of its head does not compute has to be carried there (R40). -/
def PartSt.remote (p : PartSt) : Bool := p.computeDie != p.id.head

/-- The fence over the transfer of the rows of a part to the die of its head. -/
def PartSt.transfer (cv : CanvasId) (p : PartSt) : GaideMsg :=
  { src := p.computeDie, dst := p.id.head, ref := .phys 0, part := some (cv, p.frame, p.id),
    req := { iss := { cls := 5, die := p.computeDie, inst := 0, queue := noQueue }, op := .add 0, opIx := 0xFFFF, step := 0, seq := p.stepSeq } }

/-- Parts of a canvas whose rows have all been signalled become complete (R45). Those that another die computed are first carried to the
die of their head, and are complete once that transfer has arrived. -/
def State.settleParts (s : State) (cv : CanvasId) : State :=
  match s.canvas cv with
  | none => s
  | some c =>
    let ready (p : PartSt) : Bool := p.open_ && s.partSignalled c p
    let goes (p : PartSt) : Bool := ready p && p.remote && p.carried.isNone
    let settle (p : PartSt) : PartSt :=
      if goes p then { p with carried := some false }
      else if ready p && (!p.remote || p.carried == some true) then { p with complete := true } else p
    let s1 := s.onCanvas cv fun k => { k with parts := k.parts.map settle }
    s1.sendGaide ((c.parts.filter goes).map (PartSt.transfer cv))

/-- The transfer of the rows of a part has arrived at the die of its head. -/
def State.partArrived (s : State) (cv : CanvasId) (frame : Nat) (id : PartId) : State :=
  (s.onCanvas cv fun k => { k with parts := k.parts.map fun p =>
    if p.frame == frame && p.id == id then { p with carried := some true } else p }).settleParts cv

/-! ### Records of items (R329, Table 12.7) -/

/-- Post the record of an item that its own failure ended: `w` are the words at bytes 32 to 43. -/
def State.postItem (s : State) (c : Canvas) (d : DieIx) (op stripe : Nat) (step : Dword) (st : Status) (w : List Nat) :
    State :=
  if st = .scaleSkew ∨ st = .creditStall ∨ st = .codec ∨ st = .aborted then
    s.onHost fun h => h.postCpl c.id.func c.binding.cq 4 d.val step.toNat st
      (leBytes 2 c.id.handle ++ leBytes 2 op ++ leBytes 2 stripe ++ [0, 0] ++ w.flatMap (leBytes 4))
  else s

/-! ### Entry into queues (R177) -/

/-- Neural streams that run on a die: each is an item in flight. -/
def Die.neuralRuns (x : Die) : Nat := (x.streams.filter fun e => decide (12 ≤ e.1.crs.val)).length

/-- Items in flight on a die. -/
def Die.flight (x : Die) : Nat := x.inflight.length + x.neuralRuns

/-- CRS_INFLIGHT after a change of the items in flight; CRS_EVT.FULL where 8,192 of them hold back the next. -/
def State.syncInflight (s : State) (d : DieIx) : State :=
  let cur := (s.die d).flight
  let s1 := s.onDie d fun x => (x.setField Reg.crsInflight 13 0 cur).setField Reg.crsInflight 29 16
    (max cur (x.field Reg.crsInflight 29 16))
  if 8192 ≤ cur then s1.raise d Reg.crsEvt 0x10 else s1

/-- Whether an item still has work to do. -/
def Item.live (i : Item) : Bool := !i.retired && i.ended.isNone

/-- A work key (R155): frame step, stripe step and op. -/
structure WorkKey where
  step : Nat
  seq : Nat
  op : Nat
deriving DecidableEq, Repr

/-- Ascending work key. -/
def WorkKey.before (a b : WorkKey) : Bool :=
  decide (a.step < b.step) || (a.step == b.step && (decide (a.seq < b.seq) || (a.seq == b.seq && decide (a.op < b.op))))

/-- The key of an item of a canvas. -/
def Canvas.itemKey (c : Canvas) (i : Item) : WorkKey := { step := (c.stepOf i.frame).toNat, seq := i.id.stepSeq, op := i.id.op }

/-- What waits to enter a queue of a die: an item of an engine, or a run of a stream. -/
inductive Entrant where
  | item (i : ItemId)
  | run (cv : CanvasId) (r : Run)
deriving DecidableEq, Repr

/-- What waits on a die, in ascending key (R155, R177). The work of a canvas that is being paused does not enter. A run comes with the
items of its op; one that no op names, after the items of its step. -/
def State.entrants (s : State) (d : DieIx) : List (WorkKey × Entrant) :=
  let cur := (s.die d).inflight
  sortBy (fun a b => a.1.before b.1) (s.canvases.flatMap fun c =>
    if c.pause != .running then []
    else ((c.items.filter fun i => i.id.die == d && i.live && !cur.contains i.id).map fun i => (c.itemKey i, Entrant.item i.id)) ++
      (c.runs.filter fun r => r.die == d).map fun r =>
        let frame := ((c.released.find? fun e => e.1 == r.stepSeq).map Prod.snd).getD c.frameNo
        ({ step := (c.stepOf frame).toNat, seq := r.stepSeq, op := r.op.getD 0xFFFF }, Entrant.run c.id r))

/-- Stream windows of a neural run (R166). -/
def Canvas.windows (c : Canvas) (d : DieIx) : List SWindow :=
  ({ pool := c.pool, dramAt := c.dramAt : Extents }).windows c.dies c.binding.dram d

/-- The lowest free neural stream of a die. -/
def Die.freeStream (x : Die) (d : DieIx) : Option StreamId :=
  (List.range 144).findSome? fun i =>
    let st : StreamId := { die := d, crs := Fin.ofNat 48 (12 + i / 4), idx := Fin.ofNat 4 i }
    if (x.stream st).isNone then some st else none

/-- The member of a program runs on a stream. -/
def Pool.launched (p : Pool) (prog : BitVec 16) (st : StreamId) : Pool :=
  { p with members := updFirst (fun m => m.prog == prog) (fun m => { m with stream := some st }) p.members }

/-- Launch a run on a stream (R165, R167). -/
def State.launch (s : State) (c : Canvas) (r : Run) (st : StreamId) : State :=
  let p := bProg c.image r.prog.toNat
  s.onDie r.die fun x =>
    { x with streams := x.streams ++ [(st, Stream.launch (some c.id) r.prog r.op p.words (BitVec.ofNat 16 p.pool)
               (c.windows r.die) r.stepSeq)],
             pools := x.pools.map fun e => if e.2.canvas == some c.id && e.2.index == p.pool then
               (e.1, e.2.launched r.prog st) else e }

/-- One entrant takes its place, where fewer than 8,192 items are in flight; a run also needs a free stream. -/
def State.enter (s : State) (d : DieIx) (e : Entrant) : State :=
  if 8192 ≤ (s.die d).flight then s
  else match e with
    | .item i => s.onDie d fun x => { x with inflight := x.inflight ++ [i] }
    | .run cv r =>
      match (s.die d).freeStream d, s.canvas cv with
      | some st, some c => (s.launch c r st).onCanvas cv fun k => { k with runs := k.runs.erase r }
      | _, _ => s

/-- Places in flight are free: the items and runs that wait enter in ascending key (R177). -/
def State.refill (s : State) (d : DieIx) : State :=
  ((s.entrants d).foldl (fun s e => s.enter d e.2) s).syncInflight d

/-! ### Abandonment (R54, R157, R275) -/

/-- An operation of the Ringmaster. -/
def ringmaster (d : DieIx) (op : TslOp) (seq : Nat) : TslReq :=
  { iss := { cls := 0, die := d, inst := 0, queue := noQueue }, op := op, opIx := 0xFFFF, step := 0, seq := seq }

/-- The Ringmaster sets a virtual number of a context on a die for a stripe step. -/
def State.ringSet (s : State) (d : DieIx) (ctx : Nat) (v : Option (BitVec 12)) (seq value : Nat) : State :=
  match v with
  | none => s
  | some v =>
    match (s.die d).tsl.translate ctx v seq with
    | none => s
    | some n => (s.tslCycle d n [ringmaster d (.set value) seq]).1

/-- Rows that every share of an op has finished in a stripe step on a die. -/
def Canvas.doneRows (c : Canvas) (op : Nat) (d : DieIx) (seq : Nat) : Nat :=
  match c.items.filter fun i => i.id.op == op && i.id.die == d && i.id.stepSeq == seq with
  | [] => 0
  | i :: rest => rest.foldl (fun n j => min n j.rowsDone) i.rowsDone

/-- Release the waits on the rows of an abandoned op: holes for its readers, and its row and halo Turnstiles at their
targets. -/
def State.fillHalo (s : State) (cv : CanvasId) (d : DieIx) (frame stripe seq op : Nat) : State :=
  match s.canvas cv with
  | none => s
  | some c =>
    let o := c.opOf op
    let bnd := c.opBand o d stripe
    let rows := bnd.y1 - bnd.y0
    let from_ := bnd.y0 + min rows (c.doneRows op d seq)
    let holes := o.writes.map fun t =>
      let w := if t = o.out0 then bnd else c.wholeBand t
      { tensor := t, frame := frame, y0 := if t = o.out0 then from_ else 0, y1 := w.y1, x0 := w.x0, x1 := w.x1 : Hole }
    let s1 := s.onCanvas cv fun k => { k with holes := k.holes ++ holes.filter fun h => decide (h.y0 < h.y1) }
    let s2 := o.writes.foldl (fun s t => s.ringSet d c.ctx (c.rowVirt t) seq (s.shares c o d stripe * rows)) s1
    match c.region d with
    | none => s2
    | some r => o.writes.foldl (fun s t => (c.neighbours r).foldl (fun s e =>
        s.ringSet e.1 c.ctx (c.haloVirt t e.2) seq rows) s) s2

/-- The slots, tiles and blocks that an engine keeps for items, discarded. -/
def Engine.drop (e : Engine) (p : ItemId → Bool) : Engine :=
  { loaded := e.loaded.filter fun l => !p l.it, books := e.books.filter fun l => !p l.it,
    inits := e.inits.filter fun l => !p l.it, slots := e.slots.filter fun x => !p x.2.it,
    spill := e.spill.filter fun x => !p x.it, golden := e.golden.filter fun x => !p x.it,
    staged := e.staged.filter fun x => !p x.it, inBlock := e.inBlock.filter fun i => !p i }

/-- Remove items from the queues and engines of a die. -/
def Die.dropItems (x : Die) (p : ItemId → Bool) : Die :=
  { x with inflight := x.inflight.filter fun i => !p i, engines := x.engines.map fun e => e.drop p }

/-- Cancel the waits of the items of some ops of a stripe step on the objects that their context names, its own and those it
imports, and on those of the firmware, which hold the barriers (R275, R281). -/
def Tsl.cancelItems (t : Tsl) (ctx : Nat) (d : DieIx) (seq : Nat) (ops : List Nat) : Tsl :=
  let imported : List Nat := match t.ctx ctx with
    | some k => (k.table.filter fun e => e.2.imported).map fun e => e.2.base
    | none => []
  let gone (w : Waiter) : Bool := decide (1 ≤ w.req.iss.cls.val) && decide (w.req.iss.cls.val ≤ 4) && w.req.iss.die == d &&
    w.req.seq == seq && ops.contains w.req.opIx.toNat
  { t with objs := t.objs.map fun e => if e.2.ctx = ctx ∨ e.2.ctx = 0 ∨ imported.contains e.1 = true then (e.1, { e.2 with waiters := e.2.waiters.filter fun w => !gone w })
                                       else e }

/-- The barrier of an abandoned frame-scope op starts over: no arrival counts, and none is under way (R275, R281). -/
def State.resetBarrier (s : State) (cv : CanvasId) (op : Nat) : State :=
  match s.barriers.find? fun b => b.owner == cv && b.op == op with
  | none => s
  | some b =>
    let s1 := s.onDies s.dieList fun d x => match x.tsl.obj b.arr[d.val] with
      | some o => if 0 < b.expected[d.val] then { x with tsl := x.tsl.setObj b.arr[d.val] { o with value := 0 } } else x
      | none => x
    { s1 with
      gaide := s1.gaide.filter fun m => match m.ref with
        | .phys n => m.part.isSome || n.val != b.arr[m.dst.val]
        | .virt _ _ => true,
      barriers := updFirst (fun x => x.id == b.id) (fun x => { x with combining := [] }) s1.barriers }

/-- Abandon the work of a stripe step on a die from an op onward: the items of the op and of those that read what it writes
end, its streams stop, the parts that they lead to fail, and readers get the fall-back halo. -/
def State.abandonOp (s : State) (cv : CanvasId) (d : DieIx) (frame stripe seq op : Nat) (st : Status) : State :=
  match s.canvas cv with
  | none => s
  | some c =>
    let ops := if (c.opOf op).frameScope then [op] else (c.dependents op).filter fun i => !(c.opOf i).frameScope
    let whole := (c.opOf op).frameScope
    let hit (i : ItemId) : Bool := i.canvas == cv && (whole || i.die == d) && i.stepSeq == seq && ops.contains i.op
    let live := ops.filter fun o => c.items.any fun i => hit i.id && i.id.op == o && i.live
    let s1 := s.onCanvas cv fun k =>
      { k with items := k.items.map fun i => if hit i.id && i.live then { i with ended := some st } else i,
               parts := k.parts.map fun p =>
                 if p.computeDie == d && p.stepSeq == seq && !p.complete && p.failed.isNone && !p.abandoned &&
                     ((c.partOp p).any fun o => ops.contains o.ix) then { p with failed := some st } else p }
    let ds := if whole then s.dieList else [d]
    let s2 := s1.onDies ds fun e x => { x.dropItems hit with tsl := x.tsl.cancelItems c.ctx e seq ops }
    let s3 := s2.onDies ds fun _ x => x.removeStreams fun _ y =>
      y.canvas == some cv && y.stepSeq == seq && y.op.any fun o => ops.contains o
    let s4 := if whole then s3.resetBarrier cv op else s3
    ds.foldl (fun s e => s.refill e) (live.foldl (fun s o => s.fillHalo cv d frame stripe seq o) s4)

/-- End an item by its own failure (R103, R263, R270): its op is abandoned on the die, and a record tells of it. -/
def State.failItem (s : State) (id : ItemId) (st : Status) (w : List Nat) : State :=
  match s.canvas id.canvas with
  | none => s
  | some c =>
    match c.items.find? fun i => i.id == id with
    | none => s
    | some i =>
      if i.live = false then s
      else (s.abandonOp id.canvas id.die i.frame i.stripe id.stepSeq id.op st).postItem c id.die id.op i.stripe
        (c.stepOf i.frame) st w

/-- The stripe and frame of a stripe step that is still known. -/
def Canvas.stepPlace (c : Canvas) (seq : Nat) : Option (Nat × Nat) :=
  (c.items.find? fun i => i.id.stepSeq == seq).map fun i => (i.frame, i.stripe)

/-- End a stream with a status (R166, R172, R181, R263, R270): it leaves its Carousel. A weight-side stream that ends so
ends the op that it serves. Its MOVEs still under way never land (DESIGN CHOICE, entry 100). -/
def State.endStream (s : State) (st : StreamId) (why : Status) (w : List Nat) : State :=
  match (s.die st.die).stream st with
  | none => s
  | some x =>
    let s1 := s.onDie st.die fun y => y.removeStreams fun k _ => k == st
    let s2 := match x.canvas with
      | none => s1
      | some cv =>
        match s.canvas cv with
        | none => s1
        | some c =>
          let place := (c.stepPlace x.stepSeq).getD (c.frameNo, 0)
          let s2 := match x.op with
            | some o => s1.abandonOp cv st.die place.1 place.2 x.stepSeq o why
            | none => s1
          s2.postItem c st.die (x.op.getD 0xFFFF) place.2 (c.stepOf place.1) why w
    s2.refill st.die

/-! ### Operations by reference (R265, R270, R271) -/

/-- The item of a canvas that a request of class 1 to 4 stands for. -/
def Canvas.itemOf (c : Canvas) (q : TslReq) : Option ItemId :=
  (c.items.find? fun i => i.id.die == q.iss.die && i.id.op == q.opIx.toNat && i.id.stepSeq == q.seq && i.live).map Item.id

/-- An operation that ends its issuer: the item, stream or descriptor takes the status. -/
def State.failIssuer (s : State) (cv : Option CanvasId) (q : TslReq) (st : Status) : State :=
  if q.iss.cls.val = 8 then s.released q st
  else if q.iss.cls.val = 5 then s.endStream (issuerStream q.iss) st []
  else if 1 ≤ q.iss.cls.val ∧ q.iss.cls.val ≤ 4 then
    match (match cv with
      | some cv => (s.canvas cv).bind fun c => c.itemOf q
      | none => s.canvases.findSome? fun c => c.itemOf q) with
    | some i => s.failItem i st []
    | none => s
  else s

/-- What a refused, poisoned or released request does to its issuer. -/
def State.applyResult (s : State) (cv : Option CanvasId) (e : TslReq × TslResult) : State :=
  match e.2 with
  | .refused => s.failIssuer cv e.1 .aborted
  | .poisoned => s.failIssuer cv e.1 .poisoned
  | .proceeds st => if st = .ok ∨ e.1.iss.cls.val = 8 then s else s.failIssuer cv e.1 st
  | .applied => if e.1.iss.cls.val = 8 then s.released e.1 .ok else s
  | .saturated => if e.1.iss.cls.val = 8 then s.released e.1 .ok else s
  | .queued => s
  | .full => s

/-- Operations of one cycle on a physical object, with all that follows from them. Those of contexts other than 0 are held
while a dump with FREEZE runs (R283). -/
def State.tslOps (s : State) (d : DieIx) (n : Nat) (ops : List TslReq) : State :=
  let t := (s.die d).tsl
  match t.obj n with
  | none => s
  | some o =>
    if t.frozen ∧ o.ctx ≠ 0 then
      s.onDie d fun x => { x with tsl := { x.tsl with held := x.tsl.held ++ [(n, ops)] } }
    else
      let cv := s.ctxCanvas d o.ctx
      let (s1, rs) := s.tslCycle d n ops
      let s2 := rs.foldl (fun s e => s.applyResult cv e) s1
      match cv with
      | some c => s2.settleParts c
      | none => s2

/-- The canvas in whose context a reference is named. -/
def State.refCanvas (s : State) (d : DieIx) : TslRef → Option CanvasId
  | .phys _ => none
  | .virt ctx _ => s.ctxCanvas d ctx

/-- An operation that names an unmapped number is refused (R270). -/
def State.mapError (s : State) (d : DieIx) (cv : Option CanvasId) (q : TslReq) : State :=
  let s1 := s.countRaise d Reg.tslMapErrCnt Reg.tslEvt 0x04
  (if cv.isSome then s1.untrusted d else s1).failIssuer cv q .aborted

/-- Operations on the object that a reference names, in one cycle. Each is translated in the issuer's context. -/
def State.tslDo (s : State) (d : DieIx) (r : TslRef) (q : TslReq) (cycle : List TslReq) : State :=
  match r with
  | .phys n => s.tslOps d n.val (q :: cycle)
  | .virt ctx v =>
    match (s.die d).tsl.translate ctx.val v q.seq with
    | none => s.mapError d (s.refCanvas d r) q
    | some n => s.tslOps d n (q :: cycle)

/-! ### Row signals and halo pushes (R153, R154) -/

/-- Work queues of a unit. -/
def unitQueues : UnitIx → Nat
  | .me _ => 8
  | .jgl => 32
  | .win => 1
  | .mot => 1

/-- The queue of its unit that an item enters. -/
def itemQueue (i : ItemId) : Nat := Config.workQueue i.op i.stepSeq % unitQueues i.unit

/-- The class of a unit as an issuer (Table 10.2). -/
def unitClass : UnitIx → Fin 9
  | .me _ => 1
  | .jgl => 2
  | .win => 3
  | .mot => 4

/-- The engine number of a unit within its class. -/
def unitInst : UnitIx → Nat
  | .me i => i.val
  | .jgl => 0
  | .win => 0
  | .mot => 0

/-- An item as an issuer: its unit, and the queue of that unit that it entered. -/
def itemIssuer (i : ItemId) : Issuer := { cls := unitClass i.unit, die := i.die, inst := unitInst i.unit, queue := itemQueue i }

/-- The Carousel stream that pushes halo rows of a tensor to a side (R154). Which one the manual does not say: entry 90. -/
def haloIssuer (d : DieIx) (t side : Nat) : Issuer :=
  { cls := 5, die := d, inst := Config.haloStream d.val t side % 192, queue := noQueue }

/-- Signal the rows by which a share's finished prefix has grown: its row Turnstile, and, where every share has finished
them, a push by a Carousel to each neighbour that reads them, carried over Gaide. -/
def State.signalRows (s : State) (c : Canvas) (id : ItemId) (before after allBefore allAfter : Nat) : State :=
  let o := c.opOf id.op
  let step := match c.items.find? fun i => i.id == id with
    | some i => c.stepOf i.frame
    | none => c.frameStep
  let req (iss : Issuer) (v : Nat) : TslReq := { iss := iss, op := .add v, opIx := BitVec.ofNat 16 id.op, step := step, seq := id.stepSeq }
  let s1 := if before < after then
      o.writes.foldl (fun s t => match c.rowVirt t with
        | some v => s.tslDo id.die (.virt (Fin.ofNat 256 c.ctx) v) (req (itemIssuer id) (after - before)) []
        | none => s) s
    else s
  if allBefore < allAfter ∧ o.frameScope = false then
    match c.region id.die with
    | none => s1
    | some r => s1.sendGaide <| o.writes.flatMap fun t => (c.neighbours r).filterMap fun e =>
        (c.haloVirt t e.2).map fun v => { src := id.die, dst := e.1, ref := .virt (Fin.ofNat 256 c.ctx) v,
                                          req := req (haloIssuer id.die t e.2) (allAfter - allBefore) : GaideMsg }
  else s1

/-! ### When an item may run (R153, R155, R156) -/

/-- A wait for a VALUE of an object that a virtual number names. -/
structure Need where
  virt : BitVec 12
  value : Nat
deriving DecidableEq, Repr

/-- What an item waits for before it reads rows `lo` to `hi` − 1 of input k over its columns: the row Turnstile of its own stripe step,
and the halo Turnstiles of the sides from which it reads. Rows of the regions above and below are of this step where a region is one
stripe; else they are of an earlier step, or of a later one, for which nothing waits (R155; DESIGN CHOICE, entry 87). -/
def State.rowWaits (s : State) (c : Canvas) (i : Item) (bnd : Band) (k lo hi : Nat) : List Need :=
  let o := c.opOf i.id.op
  let t := o.ins.getD k 0xFFFF
  match writerOf c.image t with
  | none => []
  | some w =>
    if (bTens c.image t).recurrent = true ∨ o.frameScope = true then []
    else
      let d := i.id.die
      let own := c.bandWith t (c.look w.ix) d i.stripe
      let need := min hi own.y1 - own.y0
      let (q0, q1) := c.readSpan o true k bnd.x0 bnd.x1
      let one := c.binding.stripes == 1
      let wait (v : Option (BitVec 12)) (n : Nat) : List Need := (v.map fun v => { virt := v, value := n }).toList
      let side (p : Bool) (sd n : Nat) : List Need := if p then wait (c.haloVirt t sd) n else []
      wait (c.rowVirt t) (s.shares c w d i.stripe * need) ++ side (decide (q0 < own.x0)) 0 need ++ side (decide (own.x1 < q1)) 1 need ++
        side (one && decide (lo < own.y0)) 2 (own.y1 - own.y0) ++ side (one && decide (own.y1 < hi)) 3 (hi - own.y1)

/-- The object that an item waits on, where its number is mapped. -/
def State.needObj (s : State) (c : Canvas) (i : Item) (n : Need) : Option (Nat × TslObj) :=
  ((s.die i.id.die).tsl.translate c.ctx n.virt i.id.stepSeq).bind fun k => ((s.die i.id.die).tsl.obj k).map fun o => (k, o)

/-- A wait is met: its VALUE is reached, or its object is poisoned, on which it proceeds at once (R260, R273). -/
def State.needMet (s : State) (c : Canvas) (i : Item) (n : Need) : Bool :=
  match s.needObj c i n with
  | some (_, o) => o.poison || decide (n.value ≤ o.value)
  | none => true

/-- The writer of an input has finished what an item reads of earlier steps, of the whole frame where its op is of frame scope, or of
the frame before for recurrent state. -/
def Canvas.writerDone (c : Canvas) (i : Item) (k : Nat) : Bool :=
  let o := c.opOf i.id.op
  let t := o.ins.getD k 0xFFFF
  match writerOf c.image t with
  | none => true
  | some w =>
    let busy (p : Item → Bool) : Bool := c.items.any fun j => j.id.op == w.ix && j.live && p j
    if (bTens c.image t).recurrent then i.frame = 0 || c.resets.contains i.frame || !(busy fun j => j.frame + 1 == i.frame)
    else if o.frameScope then !(busy fun j => j.frame == i.frame)
    else !(busy fun j => j.frame == i.frame && decide (j.id.stepSeq < i.id.stepSeq))

/-- Every Turnstile wait of rows y0 to y1 − 1 of an item. -/
def State.needs (s : State) (c : Canvas) (i : Item) (bnd : Band) (y0 y1 : Nat) : List Need :=
  let o := c.opOf i.id.op
  (o.ins.zipIdx).flatMap fun (t, k) => if t = 0xFFFF then [] else
    s.rowWaits c i bnd k (c.readSpan o false k y0 y1).1 (c.rowsAwaited o k i.frame (c.stepOf i.frame) y0 y1)

/-- Whether the inputs of rows y0 to y1 − 1 of an item are there; the fall-back rows that stand in for holes it reads among them. -/
def State.inputsReady (s : State) (c : Canvas) (i : Item) (bnd : Band) (y0 y1 : Nat) : Bool :=
  let o := c.opOf i.id.op
  ((o.ins.zipIdx).all fun (t, k) => t == 0xFFFF || c.writerDone i k) && (s.needs c i bnd y0 y1).all (s.needMet c i) &&
    (c.holesRead o bnd i.frame (c.stepOf i.frame) y0 y1).all c.holeFilled

/-- Whether an item waits on a poisoned object for rows y0 to y1 − 1: it ends with ST_POISONED (R273). -/
def State.needsPoisoned (s : State) (c : Canvas) (i : Item) (bnd : Band) (y0 y1 : Nat) : Bool :=
  (s.needs c i bnd y0 y1).any fun n => (s.needObj c i n).any fun e => e.2.poison

/-- Whether rows y0 to y1 − 1 of an item read a poisoned word of its die's Big Top (R164). -/
def State.inputsPoisoned (s : State) (c : Canvas) (i : Item) (y0 y1 : Nat) : Bool :=
  let o := c.opOf i.id.op
  let words := (s.die i.id.die).bigTopPoison
  (o.ins.zipIdx).any fun (t, k) => t != 0xFFFF && c.rowsPoisoned i.id.die i.stripe words t (c.readSpan o false k y0 y1).1
    (c.rowsAwaited o k i.frame (c.stepOf i.frame) y0 y1)

/-! ### Work queues (R156, R204) -/

/-- The heads of the queues of a unit of a die. -/
def Die.heads (x : Die) (u : UnitIx) : List ItemId :=
  (x.inflight.filter fun i => i.unit == u).foldl (fun acc i => if acc.any fun j => itemQueue j == itemQueue i then acc else acc ++ [i]) []

/-! ### Loop nests (R137 to R144) -/

/-- A loop of a nest: 0 rows, 1 M-tiles, 2 N-tiles, 3 K-blocks. -/
def Nest.get (x : Nest) : Nat → List Nat
  | 0 => x.ys
  | 1 => x.ms
  | 2 => x.ns
  | _ => x.ks

/-- A nest with one loop set. -/
def Nest.put (x : Nest) (l : List Nat) : Nat → Nest
  | 0 => { x with ys := l }
  | 1 => { x with ms := l }
  | 2 => { x with ns := l }
  | _ => { x with ks := l }

/-- A list in pieces of n, the last one cut short. -/
def pieces (n : Nat) (l : List Nat) : List (List Nat) :=
  if n = 0 then [l] else (List.range (ceilDiv l.length n)).map fun i => (l.drop (i * n)).take n

/-- The blocks of given sizes that a nest falls into, in the order of a loop-order word. -/
def Nest.split (w : Nat) (size : Nat → Nat) (x : Nest) : List Nest :=
  (orderLoops w).foldl (fun acc l => acc.flatMap fun v => (pieces (size l) (v.get l)).map fun p => v.put p l) [x]

/-- The loop-order word of a level of an op in force on a die (R141, R144, R152). -/
def Canvas.orderWord (c : Canvas) (o : Op) (d : DieIx) (level : Nat) : Nat :=
  if (level = 0 ∧ rewrites0 c.image o = true) ∨ c.kInner.contains (d, level, o.ix) = true then orderKInner (o.order64 level)
  else o.order64 level

/-- A step of a loop nest: a tile, and the K-blocks that one load folds into it: under form 1 two of them, where they are there. -/
structure Visit where
  tile : TileId
  ks : List Nat
deriving DecidableEq, Repr

/-- The tiles of a share in the order of its nest, by level-0 block. Rows of the batch entries follow one another (DEDUCED, entry 92). -/
def Canvas.blocks0 (c : Canvas) (o : Op) (d : DieIx) (bnd : Band) (x : Nest) : List (List Visit) :=
  let w := c.orderWord o d
  let ny := max 1 (bnd.y1 - bnd.y0)
  let h := (c.wholeBand o.out0).y1
  let all := { x with ys := (List.range (bTens c.image o.out0).nb).flatMap fun n => x.ys.map fun y => n * ny + y }
  (((all.split (w 2) fun l => orderExtent (w 0) l * orderExtent (w 1) l).flatMap fun v => v.split (w 1) (orderExtent (w 0))).map fun v =>
    (v.split (w 0) fun l => if l = 3 ∧ o.form = 1 then 2 else 1).map fun q =>
      { tile := { row := q.ys.headD 0 / ny * h + bnd.y0 + q.ys.headD 0 % ny, m := q.ms.headD 0, t := q.ns.headD 0 }, ks := q.ks })

/-- The participant that an item of a frame-scope op is, and how many take part; (0, 1) for a per-stripe op. -/
def State.participant (s : State) (c : Canvas) (o : Op) (id : ItemId) : Nat × Nat :=
  if o.frameScope then
    let e := s.engines
    (id.die.val * e + unitIndex id.unit, participants (opNb c.image o) e s.nDies)
  else (0, 1)

/-- First K-block of a participant, and one past its last (R83). -/
def kRange (p n nb : Nat) : Nat × Nat := (p * nb / n, (p + 1) * nb / n)

/-- An item of a canvas. -/
def Canvas.item (c : Canvas) (id : ItemId) : Option Item := c.items.find? fun i => i.id == id

/-- The band that an item computes. -/
def Canvas.itemBand (c : Canvas) (i : Item) : Band := c.opBand (c.opOf i.id.op) i.id.die i.stripe

/-- The level-0 blocks of an item of a Matrix Engine, in order (R137, R149, R150). -/
def State.schedule (s : State) (c : Canvas) (i : Item) : List (List Visit) :=
  let o := c.opOf i.id.op
  let bnd := c.itemBand i
  let (p, n) := s.participant c o i.id
  let (lo, hi) := kRange p n (opNb c.image o)
  c.blocks0 o i.id.die bnd (c.share o bnd s.engines (unitIndex i.id.unit) ((List.range (hi - lo)).map fun k => lo + k))

/-- The level-0 block in which a place of a schedule lies: the visits of the block, and the place in it. -/
def blockAtPos : List (List Visit) → Nat → Option (List Visit × Nat)
  | [], _ => none
  | b :: rest, n => if n < b.length then some (b, n) else blockAtPos rest (n - b.length)

/-- Batch entry and row of a tile. -/
def Canvas.tileRow (c : Canvas) (o : Op) (t : TileId) : Nat × Nat :=
  let h := max (c.wholeBand o.out0).y1 1
  (t.row / h, t.row % h)

/-- The rows that an item has to do next: of a Matrix Engine those of its next tile, of another unit its whole band. None where it
has folded its last tile. -/
def State.nextRows (s : State) (c : Canvas) (i : Item) : Option (Nat × Nat) :=
  match i.id.unit with
  | .me _ => (blockAtPos (s.schedule c i) i.pos).bind fun b => b.1[b.2]?.map fun v =>
      let y := (c.tileRow (c.opOf i.id.op) v.tile).2
      (y, y + 1)
  | _ => let bnd := c.itemBand i; some (bnd.y0, bnd.y1)

/-- Whether an item could go on now: its next rows find their inputs. -/
def State.itemReady (s : State) (c : Canvas) (i : Item) : Bool :=
  i.live && c.pause == .running && (s.nextRows c i).any fun r => s.inputsReady c i (c.itemBand i) r.1 r.2

/-- Whether a unit serves an item: it is the head of its queue, and no head of lower key is ready (R156, R204). -/
def State.served (s : State) (c : Canvas) (i : Item) : Bool :=
  let hs := (s.die i.id.die).heads i.id.unit
  hs.contains i.id && hs.all fun h => h == i.id ||
    match (s.canvas h.canvas).bind fun k => (k.item h).map fun j => (k, j) with
    | some (k, j) => !((k.itemKey j).before (c.itemKey i) && s.itemReady k j)
    | none => true

/-! ### Waiter records of items (R264, R282, R283) -/

/-- The waiter record that a queue head holds: the first of its waits that is not met, on its object. -/
def State.headWait (s : State) (c : Canvas) (i : Item) : Option (Nat × TslReq) :=
  (s.nextRows c i).bind fun r => ((s.needs c i (c.itemBand i) r.1 r.2).find? fun n => !s.needMet c i n).bind fun n =>
    (s.needObj c i n).map fun e => (e.1, { iss := itemIssuer i.id, op := .waitGe n.value, opIx := BitVec.ofNat 16 i.id.op,
                                            step := c.stepOf i.frame, seq := i.id.stepSeq })

/-- The waiter records of the heads of every work queue of a die, by object. -/
def State.headWaits (s : State) (d : DieIx) : List (Nat × TslReq) :=
  let x := s.die d
  ([.me 0, .me 1, .jgl, .win, .mot] : List UnitIx).flatMap fun u => (x.heads u).filterMap fun h =>
    (s.canvas h.canvas).bind fun c => (c.item h).bind fun i => if i.live && c.pause == .running then s.headWait c i else none

/-- The Turnstile memory of a die with the waiter records of its queue heads in their objects' lists. -/
def State.tslSeen (s : State) (d : DieIx) : Tsl :=
  let l := s.headWaits d
  let t := (s.die d).tsl
  { t with objs := t.objs.map fun e =>
      (e.1, { e.2 with waiters := e.2.waiters ++ (l.filter fun w => w.1 == e.1).map fun w => { req := w.2 }, retry := [] }) }

/-! ### Barriers of frame-scope ops (R150, R281) -/

/-- The barrier of an op. -/
def State.barrierOf (s : State) (cv : CanvasId) (op : Nat) : Option Barrier := s.barriers.find? fun b => b.owner == cv && b.op == op

/-- A participant arrives: ADD ARR, 1 on its die, then WAIT_GE REL, g (R281). -/
def State.arrive (s : State) (c : Canvas) (i : Item) : State :=
  match s.barrierOf c.id i.id.op with
  | none => s
  | some b =>
    let d := i.id.die
    let req (op : TslOp) : TslReq :=
      { iss := itemIssuer i.id, op := op, opIx := BitVec.ofNat 16 i.id.op, step := c.stepOf i.frame, seq := i.id.stepSeq }
    (s.tslOps d b.arr[d.val] [req (.add 1)]).tslOps d b.rel[d.val] [req (.waitGe b.generation)]

/-- A participant still waits for its barrier's release. -/
def State.atBarrier (s : State) (i : Item) : Bool :=
  match s.barrierOf i.id.canvas i.id.op with
  | none => false
  | some b => ((s.die i.id.die).tsl.obj b.rel[i.id.die.val]).any fun o =>
      o.waiters.any fun w => w.req.iss == itemIssuer i.id && w.req.opIx.toNat == i.id.op && w.req.seq == i.id.stepSeq

/-! ### Weight-side streams (R98, R103, R105) -/

/-- The addresses of bytes `from` to `from + n − 1` of what a stream has delivered; fewer where it has delivered less. -/
def feedAddrs : List (Nat × Nat) → Nat → Nat → List Nat
  | [], _, _ => []
  | (a, len) :: rest, start, n =>
    if len ≤ start then feedAddrs rest (start - len) n
    else
      let k := min n (len - start)
      (List.range k).map (fun i => a + start + i) ++ if k < n then feedAddrs rest 0 (n - k) else []

/-- Bytes that a stream has delivered. -/
def Feed.size (f : Feed) : Nat := (f.runs.map Prod.snd).sum

/-- What a stream of an instance delivers in a stripe step on a die. -/
def Canvas.feed (c : Canvas) (d : DieIx) (prog seq : Nat) : Option Feed :=
  c.feeds.find? fun f => f.die == d && f.prog.toNat == prog && f.stepSeq == seq

/-- The place of a block in Big Top: the addresses of its header and payload of `size` bytes; none where the stream has not delivered
the whole of it. -/
def Canvas.blockPlace (c : Canvas) (d : DieIx) (prog seq size pos : Nat) : Option (List Nat) :=
  (c.feed d prog seq).bind fun f =>
    if f.size < (pos + 1) * (64 + size) then none else some (feedAddrs f.runs (pos * (64 + size)) (64 + size))

/-- The block that lies at the place of a position now (R103). -/
def State.blockIn (s : State) (c : Canvas) (d : DieIx) (prog seq size pos : Nat) : Option WBlock :=
  (c.blockPlace d prog seq size pos).bind fun as => blockAt (as.map fun a => sGet zeroByte (s.die d).bigTop a) size 0

/-- Whether some of those bytes are poisoned (R164). -/
def State.blockPoisoned (s : State) (c : Canvas) (d : DieIx) (prog seq size pos : Nat) : Bool :=
  (c.blockPlace d prog seq size pos).any fun as => as.any fun a => (s.die d).bigTopPoison.contains (a / 64)

/-- A weight-side stream of an op still runs, or waits for a stream, in a stripe step. -/
def State.streamLive (s : State) (c : Canvas) (d : DieIx) (prog seq : Nat) : Bool :=
  ((s.die d).streams.any fun e => e.2.canvas == some c.id && e.2.prog.toNat == prog && e.2.stepSeq == seq) ||
    c.runs.any fun r => r.die == d && r.prog.toNat == prog && r.stepSeq == seq

end Sys2Proof.Machine
end

