-- ==== Sys2Proof/Machine/Credits.lean ====
section
/-! DEFINITION. Credit pools: requests, grants, returns and the stall watchdog (R172 to R175). -/

namespace Sys2Proof.Machine

/-- A pool of a die by its number there. -/
def Die.pool (x : Die) (n : Nat) : Option Pool := sLookup x.pools n

/-- A pool of an instance on a die: its number there and its state. -/
def Die.bundlePool (x : Die) (cv : CanvasId) (index : Nat) : Option (Nat × Pool) :=
  x.pools.find? fun e => e.2.canvas == some cv && e.2.index == index

/-- What the stream of a program holds and its floor; neither for one that is no member. -/
def Pool.member (p : Pool) (prog : BitVec 16) : Member :=
  (p.members.find? fun m => m.prog == prog).getD { prog := prog, stream := none, floor := 0, held := 0 }

/-- need of R172. -/
def Member.need (m : Member) (n : Nat) : Nat := max (m.held + n) m.floor - max m.held m.floor

/-- free of R172. -/
def Pool.free (p : Pool) : Nat := p.capacity - (p.members.map fun m => max m.held m.floor).sum

/-- A grant. -/
def Pool.grant (p : Pool) (prog : BitVec 16) (n : Nat) : Pool :=
  { p with members := updFirst (fun m => m.prog == prog) (fun m => { m with held := m.held + n }) p.members }

/-- Grant waiting requests in order until the first that does not fit; one whose need has fallen to 0 is granted wherever
it stands. Answers the streams granted. -/
def Pool.serve : Bool → List CreditReq → Pool → Pool × List StreamId
  | _, [], p => ({ p with waiting := [] }, [])
  | stopped, q :: rest, p =>
    let need := (p.member q.prog).need q.units
    if need = 0 ∨ (stopped = false ∧ need ≤ p.free) then
      let (p2, l) := Pool.serve stopped rest (p.grant q.prog q.units)
      (p2, q.stream :: l)
    else
      let (p2, l) := Pool.serve true rest p
      ({ p2 with waiting := q :: p2.waiting }, l)

/-- The state with a pool changed. -/
def State.onPool (s : State) (d : DieIx) (n : Nat) (f : Pool → Pool) : State :=
  s.onDie d fun x => { x with pools := updFirst (fun e => e.1 == n) (fun e => (e.1, f e.2)) x.pools }

/-- Grants that a pool can make now: the streams proceed past their CRED. -/
def State.servePool (s : State) (d : DieIx) (n : Nat) : State :=
  match (s.die d).pool n with
  | none => s
  | some p =>
    let (p2, l) := Pool.serve false p.waiting p
    l.foldl (fun s st => s.onStream st fun x => { x with state := .running, pc := x.pc + 1 }) (s.onPool d n fun _ => p2)

/-- Units taken from the members, in ascending order of stream identifier, whose upper half is the program (Table 7.3); those of the
returning stream's own program first. DESIGN CHOICE, entry 19: the manual does not say whose units a return of a consumer lowers. -/
def takeUnits (first : Option (BitVec 16)) : Nat → List Member → List Member
  | n, l =>
    let order := sortBy (fun (a b : Member) => decide (a.prog.toNat < b.prog.toNat)) l
    let order := (order.filter fun m => some m.prog == first) ++ order.filter fun m => some m.prog != first
    (order.foldl (fun (acc : Nat × List Member) m =>
      let k := min acc.1 m.held
      (acc.1 - k, acc.2 ++ [{ m with held := m.held - k }])) (n, [])).2

/-- A return of units: refused where the members hold fewer. -/
def Pool.giveBack (p : Pool) (first : Option (BitVec 16)) (n : Nat) : Option Pool :=
  if (p.members.map Member.held).sum < n then none else some { p with members := takeUnits first n p.members }

/-- A return that would take held below 0 leaves the pool unchanged and is counted. -/
def State.creditError (s : State) (d : DieIx) : State := s.countRaise d Reg.crsCreditErr Reg.crsEvt 0x08

/-- Return units to a pool of an instance by an engine (R198); an engine whose return is refused ends its op. -/
def State.engineReturn (s : State) (id : ItemId) (pool units : Nat) : State :=
  if units = 0 then s
  else match (s.die id.die).bundlePool id.canvas pool with
    | none => s
    | some (n, p) => match p.giveBack none units with
      | some q => (s.onPool id.die n fun _ => q).servePool id.die n
      | none => (s.creditError id.die).failItem id .aborted []

/-- Whether a program returns units to a pool. -/
def Prog.returns (g : Prog) (pool : Nat) : Bool :=
  g.words.any fun w => match decodeC w with
    | some (.ret p _) => p == pool
    | _ => false

/-- Whether some consumer of a pool of an instance has a released and unretired item: an op that returns units to it, or a run of a
program that does (R195). Then its timers run; those of a paused context do not. -/
def State.poolConsumed (s : State) (d : DieIx) (p : Pool) : Bool :=
  match p.canvas.bind s.canvas with
  | none => true
  | some c =>
    let returns (g : BitVec 16) : Bool := (bProg c.image g.toNat).returns p.index
    c.pause == .running &&
      ((c.items.any fun i => i.id.die == d && i.live && (c.opOf i.id.op).retUnits != 0 && (c.opOf i.id.op).retPool == p.index) ||
        (c.runs.any fun r => r.die == d && returns r.prog) ||
        (s.die d).streams.any fun e => e.2.canvas == some c.id && returns e.2.prog)

/-- The member that holds most beyond its floor; ties to the lowest stream identifier. -/
def Pool.stallHolder (p : Pool) : Option Member :=
  (p.members.filter fun m => decide (m.floor < m.held)).foldl (fun best m =>
    match best with
    | none => some m
    | some b => if b.held < m.held ∨ (b.held = m.held ∧ m.prog.toNat < b.prog.toNat) then some m else some b) none

/-- The identifier of a member (Table 7.3): with the place of its latest run; place 0 of the die where it never ran. -/
def Member.word (m : Member) (d : DieIx) : Nat := streamWord (m.stream.getD { die := d, crs := 0, idx := 0 }) m.prog

/-- The stream of a member, where it still runs the member's program for the instance. -/
def State.holderStream (s : State) (p : Pool) (m : Member) : Option StreamId :=
  m.stream.filter fun st => match (s.die st.die).stream st with
    | some x => x.canvas == p.canvas && x.prog == m.prog
    | none => false

/-- The identifier of a stream with the program that it runs. -/
def State.streamIdWord (s : State) (st : StreamId) : Nat :=
  streamWord st (match (s.die st.die).stream st with
    | some x => x.prog
    | none => 0xFFFF)

/-- CREDIT_STALL_EXPIRY (R175). Nothing happens where no request waits on the pool, or no consumer of it has work, for then
no timer runs; or where a grant takes effect in the same cycle. -/
def fxCreditStallExpiry (d : DieIx) (n : Fin 1024) (s : State) : State :=
  match (s.die d).pool n.val with
  | none => s
  | some p =>
    match p.waiting with
    | [] => s
    | w :: _ =>
      if s.poolConsumed d p = false then s
      else
        let h := p.stallHolder
        let ww := streamWord w.stream w.prog
        let hw := match h with
          | some m => m.word d
          | none => 0xFFFF_FFFF
        let s1 := s.countRaise d Reg.crsStallCnt Reg.crsEvt 0x01
        let s2 := ((s1.setReg d Reg.crsStallWaiter (BitVec.ofNat 32 ww)).setReg d Reg.crsStallHolder (BitVec.ofNat 32 hw)).setReg d
          Reg.crsStallPool (BitVec.ofNat 32 (n.val + 65536 * w.units))
        let cv := p.canvas.bind s.canvas
        let s3 := match cv with
          | some c => if c.binding.fs != 0 && c.binding.fs != 8 then s2.onDie 0 fun x => x.countWide Reg.detTimingLo 1 else s2
          | none => s2
        let words := [ww, hw, n.val + 65536 * w.units]
        let ended := p.waiting.map CreditReq.stream ++ (h.bind (s.holderStream p)).toList
        let s4 := ended.foldl (fun s st => s.endStream st .creditStall words) s3
        match cv with
        | none => s4
        | some c =>
          let s4 := s4.onPool d n.val fun q => { q with stalled := true }
          -- the items of the instance in its current stripe step on the die that work through the pool
          let ops := (bOps c.image).filter fun o => o.retUnits != 0 && o.retPool == p.index ||
            o.progs.any fun g => (bProg c.image g).pool == p.index
          let cur := c.items.filter fun i => i.id.die == d && i.live && ops.any fun o => o.ix == i.id.op
          let now := cur.foldl (fun m i => max m i.id.stepSeq) 0
          (cur.filter fun i => i.id.stepSeq == now).foldl (fun s i => s.failItem i.id .creditStall words) s4

def execCreditStallExpiry (d : DieIx) (pool : Fin 1024) (s : State) : Host.Outcome State Fault Refusal :=
  .next (fxCreditStallExpiry d pool s)

end Sys2Proof.Machine
end

