-- ==== Sys2Proof/Machine/Engine.lean ====
section
/-! DEFINITION. The work of the engines: weight-side loads and their checks, folds, conversion, the split-K tree, and the
retirement of items of every unit (R72 to R92, R103 to R106, R113 to R134, R142, R150, R153, R198, R203 to R226). -/

namespace Sys2Proof.Machine

/-! ### Shapes -/

/-- N-tiles, K-blocks, and input and output channels of a Matrix Engine op, with the channel block of its input. -/
structure MShape where
  nt : Nat
  nb : Nat
  cin : Nat
  cout : Nat
  blk : Nat
deriving DecidableEq, Repr

/-- The shape of an op. -/
def Canvas.shape (c : Canvas) (o : Op) : MShape :=
  let t0 := bTens c.image (o.ins.getD 0 0xFFFF)
  let u := bTens c.image o.out0
  { nt := opNt c.image o, nb := opNb c.image o, cin := t0.c, cout := u.c, blk := layoutBlock t0.layout }

/-- The entries of a tile: pixel columns and the columns of the N-tile that are not masked, with their output channels, in
order (R116, R120). -/
def Canvas.tileEntries (c : Canvas) (o : Op) (bnd : Band) (t : TileId) : List (Nat × Nat × Nat) :=
  let m := c.shape o
  (List.range 64).flatMap fun px =>
    let x := bnd.x0 + 64 * t.m + px
    if bnd.x1 ≤ x then []
    else (List.range 512).filterMap fun col =>
      (o.convP.outCh m.cin m.cout m.blk t.t col).map fun ch => (x, col, ch)

/-! ### Loads (R96, R98, R103) -/

/-- A block that a load reads: KIND, position, and whether it is an expected first of its span. -/
structure Expect where
  kind : Nat
  pos : Nat
deriving DecidableEq, Repr

/-- The blocks that a load of K-blocks `bs` of N-tile t reads, in the order of the load plan: weights, codebooks at the first
K-block of a span (or of the participant's range), scales, and initial values as the N-tile's first tile starts. -/
def loadPlan (o : Op) (nb t : Nat) (bs : List Nat) (lo : Nat) (init : Bool) : List Expect :=
  let span := max 1 (quantSpan o.quant nb)
  bs.map (fun k => { kind := weightKind o.form, pos := t * nb + k }) ++
    (if o.form = 1 ∨ o.form = 2 then (bs.filter fun k => k % span == 0 || k == lo).map fun k =>
      { kind := 5, pos := t * ceilDiv nb span + k / span } else []) ++
    (if quantGroup o.quant = 0 then [] else bs.map fun k => { kind := 6, pos := t * nb + k }) ++
    (if init then [{ kind := 7, pos := t }] else [])

/-- How a block fails its check: none where it passes. Got TAG, whether the header differs, and whether it is missing. -/
def blockFault (o : Op) (e : Expect) (b : Option WBlock) : Option (Nat × Bool × Bool) :=
  match b with
  | none => some (0, false, true)
  | some x =>
    let hdr := x.kind.toNat != e.kind || x.fmt.toNat != o.quant % 256 || x.op.toNat != o.ix || x.form.toNat != o.form
    if hdr || x.tag.toNat != e.pos % 65536 then some (x.tag.toNat, hdr, false) else none

/-- A skew: the expected block, the TAG found, HDR and END. -/
structure Skew where
  exp : Expect
  got : Nat
  hdr : Bool
  fin : Bool
deriving DecidableEq, Repr

/-- The failure of a load that is recorded: the lowest position, then the lowest KIND (R104). -/
def firstSkew (o : Op) (plan : List Expect) (blocks : List (Option WBlock)) : Option Skew :=
  ((plan.zip (blocks ++ List.replicate plan.length none)).filterMap fun e => (blockFault o e.1 e.2).map fun f =>
      { exp := e.1, got := f.1, hdr := f.2.1, fin := f.2.2 : Skew }).foldl (fun best k =>
    match best with
    | none => some k
    | some x => if k.exp.pos < x.exp.pos ∨ (k.exp.pos = x.exp.pos ∧ k.exp.kind < x.exp.kind) then some k else some x) none

/-- End an op with ST_SCALE_SKEW: the engine's registers and the record (R103, R105, R109). -/
def State.skew (s : State) (id : ItemId) (e : EngIx) (k : Skew) : State :=
  let last := k.exp.pos % 65536 + 65536 * k.got
  let s1 := s.count id.die (Reg.mxeSkewCnt e) 1
  let s2 := (s1.setReg id.die (Reg.mxeSkewLast e) (BitVec.ofNat 32 last)).setReg id.die (Reg.mxeSkewWhere e)
    (BitVec.ofNat 32 (id.op % 65536 + 65536 * k.exp.kind + 2 ^ 19 * b2n k.hdr + 2 ^ 20 * b2n k.fin))
  s2.failItem id .scaleSkew [last, k.exp.kind + 8 * b2n k.hdr + 16 * b2n k.fin + 32 * e.val, 0]

/-- The program that carries a KIND of an op. -/
def Op.kindProg (o : Op) (kind : Nat) : Nat :=
  match kind with
  | 5 => o.cbprog
  | 6 => o.scprog
  | 7 => o.ivprog
  | _ => o.wprog

/-! ### Folds (R72 to R81, R97 to R102, R115 to R123) -/

/-- The payload that an engine holds of a KIND at a position. -/
def heldPayload (l : List Loaded) (id : ItemId) (t b kind : Nat) : List Byte :=
  match l.find? fun x => x.it == id && x.t == t && x.b == b with
  | some x => ((x.blocks.find? fun w => w.kind.toNat == kind).map WBlock.payload).getD []
  | none => []

/-- Fold one K-block into the entries of a tile. -/
def Canvas.foldTile (c : Canvas) (env : OpEnv) (o : Op) (bnd : Band) (tile : TileId) (b : Nat) (wt cb sc : List Byte)
    (entries : List Word) : List Word :=
  let m := c.shape o
  let (n, y) := c.tileRow o tile
  (c.tileEntries o bnd tile).zip entries |>.map fun ((x, col, ch), acc) =>
    BitVec.ofNat 32 (foldBlock o
      (fun i => laneRaw env o.convP (o.ins.getD 0 0) m.cin m.cout m.blk tile.t ch n y x (128 * b + i))
      (fun i => weightAt o.form wt cb col i) (columnScales o.quant sc col) acc.toNat)

/-- The first entries of a tile: the initial values for participant 0, zeros for the others (R77, R83). -/
def Canvas.startTile (c : Canvas) (o : Op) (bnd : Band) (tile : TileId) (p : Nat) (init : List Byte) : List Word :=
  (c.tileEntries o bnd tile).map fun e =>
    if p = 0 ∧ o.ivprog ≠ 0xFFFF then BitVec.ofNat 32 (columnInit (some init) e.2.1) else 0

/-- Every tile that an engine holds: in its slots, the spill areas and the staging buffer. -/
def Engine.tiles (e : Engine) : List Slot := (e.slots.map Prod.snd) ++ e.spill ++ e.golden.toList ++ e.staged

/-- What an engine holds of a tile of an item. -/
def Engine.partial_ (e : Engine) (id : ItemId) (t : TileId) : Option Slot := e.tiles.find? fun x => x.it == id && x.tile == t

/-- An engine without a tile. -/
def Engine.without (e : Engine) (id : ItemId) (t : TileId) : Engine :=
  let other (x : Slot) : Bool := !(x.it == id && x.tile == t)
  { e with slots := e.slots.filter fun x => other x.2, spill := e.spill.filter other, golden := e.golden.filter other,
           staged := e.staged.filter other }

/-- The state with an engine changed. -/
def State.onEngine (s : State) (d : DieIx) (e : EngIx) (f : Engine → Engine) : State :=
  s.onDie d fun x => { x with engines := x.engines.set e.val (f x.engines[e.val]) e.isLt }

/-- An engine after it has folded into a tile. The tile keeps its slot, or takes the lowest free one, while its level-0 block returns to
it (`again`); else it moves to the staging buffer where its fold is whole, and to the spill area where it is not (R142, R144). -/
def Engine.fold (e : Engine) (sl : Slot) (again whole : Bool) : Engine :=
  let old := (e.slots.find? fun x => x.2.it == sl.it && x.2.tile == sl.tile).map Prod.fst
  let g := e.without sl.it sl.tile
  if again then
    let free := (List.finRange 16).find? fun n => g.slots.all fun x => x.1 != n
    { g with slots := ((old.or free).getD 0, sl) :: g.slots }
  else if whole then { g with staged := g.staged ++ [sl] }
  else { g with spill := g.spill ++ [sl] }

/-- Slot 15 of an engine. -/
def Engine.slot15 (e : Engine) : Option Slot := (e.slots.find? fun x => x.1.val == 15).map Prod.snd

/-- The golden stripe has an engine: its run is due there and slot 15 holds no live tile (R143, R365). -/
def State.goldenHolds (s : State) (d : DieIx) (e : EngIx) : Bool :=
  (s.die d).sfn.goldenStarted && (s.die d).sfn.goldenEngine == e && ((s.die d).engines[e.val]).slot15.isNone

/-- The next steps of an item that a load takes: as many as it names tiles, all of one N-tile and of the same K-blocks, and in one
level-0 block; with what is left of that block. -/
def State.loadVisits (s : State) (c : Canvas) (i : Item) (l : TileLoad) : Option (List Visit × List Visit) :=
  (blockAtPos (s.schedule c i) i.pos).bind fun (b, n) =>
    let vs := (b.drop n).take l.tiles.length
    if vs.map Visit.tile = l.tiles ∧ (vs.all fun v => v.tile.t == l.t && v.ks.head? == some l.b && v.ks == (vs.headD ⟨⟨0, 0, 0⟩, []⟩).ks) = true
    then some (vs, b.drop (n + l.tiles.length)) else none

/-- Whether an engine can make a load now: it serves the item or stands inside a level-0 block of it (R142, R156), the golden stripe
does not hold it, the load takes the next steps of the item's loop nest (R103), and the rows that its tiles read are there. -/
def State.loadOk (s : State) (c : Canvas) (i : Item) (e : EngIx) (l : TileLoad) : Bool :=
  let o := c.opOf i.id.op
  let bnd := c.itemBand i
  let eng := (s.die i.id.die).engines[e.val]
  i.live && c.pause == .running && (s.die i.id.die).inflight.contains i.id && onMatrix c.image o &&
    decide (e.val < s.power.point.engines) && !s.goldenHolds i.id.die e && !l.tiles.isEmpty && decide (l.tiles.length ≤ 16) &&
    (match eng.inBlock with
      | some k => k == i.id
      | none => s.served c i) && (s.loadVisits c i l).isSome &&
    l.tiles.all fun x => s.inputsReady c i bnd (c.tileRow o x).2 ((c.tileRow o x).2 + 1)

/-- The K-blocks of a load. -/
def State.loadKs (s : State) (c : Canvas) (i : Item) (l : TileLoad) : List Nat :=
  ((s.loadVisits c i l).bind fun v => v.1.head?).elim [] Visit.ks

/-- What becomes of a load that an engine makes. -/
inductive LoadEnd where
  | waits                                             -- a block is still to come from a running stream
  | poisoned                                          -- a wait on a poisoned object (R273)
  | aborted                                           -- poison, or a double-bit error of an entry (R82, R164)
  | skewed (k : Skew)                                 -- a block fails its check (R103)
  | folds (plan : List Expect) (blocks : List WBlock)
deriving DecidableEq, Repr

/-- The blocks that a load expects. -/
def State.planOf (s : State) (c : Canvas) (i : Item) (e : EngIx) (l : TileLoad) : List Expect :=
  let o := c.opOf i.id.op
  let m := c.shape o
  let (p, n) := s.participant c o i.id
  let lo := (kRange p n m.nb).1
  let eng := (s.die i.id.die).engines[e.val]
  let init := decide (o.ivprog ≠ 0xFFFF) && p == 0 && l.b == lo && !(eng.inits.any fun x => x.it == i.id && x.t == l.t)
  loadPlan o m.nb l.t (s.loadKs c i l) lo init

/-- The block at the place of each expected one. -/
def State.blocksAt (s : State) (c : Canvas) (i : Item) (plan : List Expect) : List (Option WBlock) :=
  let o := c.opOf i.id.op
  plan.map fun x => s.blockIn c i.id.die (o.kindProg x.kind) i.id.stepSeq (payloadBytes x.kind o.form o.quant) x.pos

/-- How a load ends. Of several causes in one cycle, a poisoned object comes before an abort, and that before a skew (R106). -/
def State.loadEnd (s : State) (c : Canvas) (i : Item) (e : EngIx) (l : TileLoad) : LoadEnd :=
  let o := c.opOf i.id.op
  let d := i.id.die
  let plan := s.planOf c i e l
  let blocks := s.blocksAt c i plan
  let bad := (plan.any fun x => s.blockPoisoned c d (o.kindProg x.kind) i.id.stepSeq (payloadBytes x.kind o.form o.quant) x.pos) ||
    l.acc.uncorrectable || l.tiles.any fun x => s.inputsPoisoned c i (c.tileRow o x).2 ((c.tileRow o x).2 + 1)
  if l.tiles.any fun x => s.needsPoisoned c i (c.itemBand i) (c.tileRow o x).2 ((c.tileRow o x).2 + 1) then .poisoned
  else if (plan.zip blocks).any fun x => x.2.isNone && s.streamLive c d (o.kindProg x.1.kind) i.id.stepSeq then .waits
  else if bad then .aborted
  else match firstSkew o plan blocks with
    | some k => .skewed k
    | none => .folds plan (blocks.filterMap fun x => x)

/-- Corrected errors of accumulator entries that an engine has read are counted (R82). -/
def State.countAcc (s : State) (d : DieIx) (e : EngIx) (n : Nat) : State :=
  if n = 0 then s else (s.count d (Reg.mxeAccCe e) n).raise d (Reg.mxeEvt e) 4

/-- What an engine holds once the blocks of a checked load have come: per K-block its weights and scales, the codebooks that begin, and
the initial values (R96, R98, R108). -/
structure LoadIn where
  load : List Loaded
  books : List Loaded
  inits : List Loaded
deriving DecidableEq, Repr

/-- The blocks of a checked load as its engine holds them. -/
def State.loadIn (s : State) (c : Canvas) (i : Item) (e : EngIx) (l : TileLoad) (plan : List Expect) (blocks : List WBlock) : LoadIn :=
  let o := c.opOf i.id.op
  let nb := (c.shape o).nb
  let bs := s.loadKs c i l
  let span := max 1 (quantSpan o.quant nb)
  let eng := (s.die i.id.die).engines[e.val]
  let at_ (kind pos : Nat) : Option WBlock := ((plan.zip blocks).find? fun x => x.1.kind == kind && x.1.pos == pos).map Prod.snd
  { load := bs.map fun k =>
      { it := i.id, t := l.t, b := k,
        blocks := Option.toList (at_ (weightKind o.form) (l.t * nb + k)) ++ Option.toList (at_ 6 (l.t * nb + k)) : Loaded },
    books := (bs.filterMap fun k => (at_ 5 (l.t * ceilDiv nb span + k / span)).map fun w =>
      { it := i.id, t := l.t, b := k / span, blocks := [w] : Loaded }) ++ eng.books,
    inits := ((Option.toList (at_ 7 l.t)).map fun w => { it := i.id, t := l.t, b := 0, blocks := [w] : Loaded }) ++ eng.inits }

/-- A tile of a checked load, with the K-blocks of the load folded into what it held or into its first entries (R77). -/
def State.foldedTile (s : State) (c : Canvas) (i : Item) (e : EngIx) (l : TileLoad) (w : LoadIn) (x : TileId) : Slot :=
  let o := c.opOf i.id.op
  let bnd := c.itemBand i
  let bs := s.loadKs c i l
  let span := max 1 (quantSpan o.quant (c.shape o).nb)
  let start := match ((s.die i.id.die).engines[e.val]).partial_ i.id x with
    | some sl => sl.entries
    | none => c.startTile o bnd x (s.participant c o i.id).1 (heldPayload w.inits i.id l.t 0 7)
  { it := i.id, tile := x, next := l.b + bs.length,
    entries := bs.foldl (fun acc k => c.foldTile (c.env i.id.die i.stripe i.frame (c.stepOf i.frame)) o bnd x k
      (heldPayload w.load i.id l.t k (weightKind o.form)) (heldPayload w.books i.id l.t (k / span) 5)
      (heldPayload w.load i.id l.t k 6) acc) start }

/-- What a checked load does: the blocks enter the array, and the tiles fold them. -/
def State.foldLoad (s : State) (c : Canvas) (i : Item) (e : EngIx) (l : TileLoad) (plan : List Expect) (blocks : List WBlock) : State :=
  let o := c.opOf i.id.op
  let (p, n) := s.participant c o i.id
  let hi := (kRange p n (c.shape o).nb).2
  let left := ((s.loadVisits c i l).map Prod.snd).getD []
  let w := s.loadIn c i e l plan blocks
  let fold (g : Engine) (x : TileId) : Engine :=
    g.fold (s.foldedTile c i e l w x) (left.any fun v => v.tile == x) (l.b + (s.loadKs c i l).length == hi)
  let s0 := s.onEngine i.id.die e fun g => l.tiles.foldl fold
    { g with loaded := (w.load ++ g.loaded).take 2, books := w.books, inits := w.inits,
             inBlock := if left.isEmpty then none else some i.id }
  let s1 := (s0.countAcc i.id.die e l.acc.corrected).onCanvas c.id fun k =>
    { k with items := updFirst (fun j => j.id == i.id) (fun j => { j with pos := j.pos + l.tiles.length }) k.items }
  if o.frameScope ∧ ((s.schedule c i).map List.length).sum = i.pos + l.tiles.length then s1.arrive c i else s1

/-- How a load ends, where its engine can make it. -/
def State.judgeLoad (s : State) (l : TileLoad) : Option LoadEnd :=
  match s.canvas l.it.canvas, l.it.unit with
  | some c, .me e => (c.item l.it).bind fun i => if s.loadOk c i e l then some (s.loadEnd c i e l) else none
  | _, _ => none

/-- An accumulator entry with a double-bit error ends its op (R82). -/
def State.accLost (s : State) (id : ItemId) : State :=
  match id.unit with
  | .me e => (s.raise id.die (Reg.mxeEvt e) 8).failItem id .aborted []
  | _ => s

/-- The end of a load takes effect. An engine records its own skew even where its op has ended in the same cycle (R104). -/
def State.endLoad (s : State) (l : TileLoad) (r : Option LoadEnd) : State :=
  match s.canvas l.it.canvas, l.it.unit with
  | some c, .me e =>
    match c.item l.it, r with
    | some _, some (.skewed k) => s.skew l.it e k
    | some _, some .poisoned => s.failItem l.it .poisoned []
    | some _, some .aborted => if l.acc.uncorrectable then s.accLost l.it else s.failItem l.it .aborted []
    | some i, some (.folds plan blocks) => if i.live then s.foldLoad c i e l plan blocks else s
    | _, _ => s
  | _, _ => s

/-- TILE_LOAD (R103, R104): loads of one fabric cycle, that of ME0 first. A block that has not arrived while its stream still runs is
waited for: the load does not take place. -/
def fxTileLoad (l : TileLoad) (other : Option TileLoad) (s : State) : State :=
  let ls := match other with
    | none => [l]
    | some k => if unitIndex k.it.unit < unitIndex l.it.unit then [k, l] else [l, k]
  (ls.map fun x => (x, s.judgeLoad x)).foldl (fun s x => s.endLoad x.1 x.2) s

/-! ### Conversion (R82, R86, R91, R120) -/

/-- Converted elements of a tile: element coordinates and results. -/
def Canvas.convertTile (c : Canvas) (i : Item) (bnd : Band) (tile : TileId) (entries : List Word) :
    List ((Nat × Nat × Nat × Nat) × Conv) :=
  let o := c.opOf i.id.op
  let (n, y) := c.tileRow o tile
  (c.tileEntries o bnd tile).zip entries |>.map fun ((x, _, ch), acc) =>
    ((n, y, x, ch), o.convertAcc (c.stepOf i.frame) n ch y x acc.toNat)

/-- Elements written to a tensor of a frame. -/
def Canvas.writeElems (c : Canvas) (t frame : Nat) (l : List ((Nat × Nat × Nat × Nat) × Nat)) : Canvas :=
  c.onBuf t frame fun u => l.foldl (fun u e => u.wr e.1.1 e.1.2.1 e.1.2.2.1 e.1.2.2.2 e.2) u

/-- Rows of a band that a share has finished from its top, given the tiles converted (R153). A row of which the share computes nothing
counts as finished with the rows above it: DEDUCED, entry 93, for shares by rows. -/
def Canvas.prefixRows (c : Canvas) (o : Op) (bnd : Band) (e unit : Nat) (tiles : List TileId) : Nat :=
  (bnd.rows.takeWhile fun y => (c.rowTiles o bnd e unit y).all tiles.contains).length

/-- IN0 rows that have retired once n rows of the band are finished (R198). -/
def Canvas.retiredRows (c : Canvas) (o : Op) (bnd : Band) (n : Nat) : Nat :=
  let first := (c.readSpan o false 0 bnd.y0 bnd.y1).1
  let last := (c.readSpan o false 0 bnd.y0 bnd.y1).2
  if bnd.y1 ≤ bnd.y0 + n then last - first else (c.readSpan o false 0 (bnd.y0 + n) (bnd.y0 + n + 1)).1 - first

/-- Mark as degraded the parts that an op leads to, where its rows read a hole (R54). -/
def Canvas.degrade (c : Canvas) (i : Item) : Canvas :=
  let ops := c.dependents i.id.op
  { c with parts := c.parts.map fun p =>
      if p.computeDie == i.id.die && p.stepSeq == i.id.stepSeq && (c.partOp p).any (fun o => ops.contains o.ix)
      then { p with degraded := true } else p }

/-- Rows of an item go from `before` to `after`: signals, halo pushes, credit returns, and degraded parts. -/
def State.rowsFinished (s : State) (cv : CanvasId) (id : ItemId) (after : Nat) : State :=
  match s.canvas cv with
  | none => s
  | some c =>
    match c.item id with
    | none => s
    | some i =>
      let o := c.opOf id.op
      let bnd := c.itemBand i
      let all0 := c.doneRows id.op id.die id.stepSeq
      let s1 := s.onCanvas cv fun k => { k with items := updFirst (fun j => j.id == id) (fun j => { j with rowsDone := after }) k.items }
      let all1 := match s1.canvas cv with
        | some k => k.doneRows id.op id.die id.stepSeq
        | none => all0
      let s2 := if c.readsHole o bnd i.frame (c.stepOf i.frame) (bnd.y0 + i.rowsDone) (bnd.y0 + max after (i.rowsDone + 1)) then
          s1.onCanvas cv fun k => k.degrade i else s1
      let s3 := s2.signalRows c id i.rowsDone after all0 all1
      s3.engineReturn id o.retPool (o.retUnits * (c.retiredRows o bnd all1 - c.retiredRows o bnd all0))

/-- A count of saturated and NaN results of an engine (R91). -/
def State.countMxe (s : State) (d : DieIx) (e : EngIx) (sat nan : Nat) : State :=
  let s1 := if sat = 0 then s else (s.onDie d fun x => x.countWide (Reg.mxeSatLo e) sat).raise d (Reg.mxeEvt e) 1
  if nan = 0 then s1 else (s1.onDie d fun x => x.countWide (Reg.mxeNanLo e) nan).raise d (Reg.mxeEvt e) 2

/-- The first weight-side stream of an op that still holds a block once the op's last fold is done (R105), on a die in a stripe
step. -/
def State.longStream (s : State) (c : Canvas) (o : Op) (d : DieIx) (seq : Nat) : Option Skew :=
  let m := c.shape o
  (o.streams m.nt m.nb).findSome? fun st =>
    if st.1 = 0xFFFF then none
    else (s.blockIn c d st.1 seq (payloadBytes st.2.1 o.form o.quant) st.2.2).map fun blk =>
      { exp := { kind := st.2.1, pos := st.2.2 }, got := blk.tag.toNat, hdr := false, fin := true }

/-- The last fold of an op is done on a die in a stripe step: every share has taken every step of its nest. -/
def State.allFolded (s : State) (c : Canvas) (op : Nat) (d : DieIx) (seq : Nat) : Bool :=
  c.items.all fun j => !(j.id.op == op && j.id.die == d && j.id.stepSeq == seq && j.live) ||
    decide (((s.schedule c j).map List.length).sum ≤ j.pos)

/-- Nodes of the combine tree of n results, in order: level and place (R83). -/
def combineNodes : Nat → Nat → Nat → List (Nat × Nat)
  | 0, _, _ => []
  | fuel + 1, level, n =>
    if n ≤ 1 then [] else (List.range (n / 2)).map (fun i => (level, i)) ++ combineNodes fuel (level + 1) ((n + 1) / 2)

/-- Whether the op of an item has been folded in full in a tile: its last K-block, and every node of a split reduction. -/
def State.tileFinished (s : State) (c : Canvas) (i : Item) (sl : Slot) : Bool :=
  let o := c.opOf i.id.op
  let (p, n) := s.participant c o i.id
  sl.next == (kRange p n (c.shape o).nb).2 &&
    (n == 1 || (p == 0 && (List.range (combineNodes 8 0 n).length).all i.nodes.contains))

/-- TILE_CONVERT (R86): a finished tile leaves the staging buffer, is converted element by element and written, and its rows are
signalled. Corrected errors of its entries are counted; an uncorrectable one ends the op (R82). After the op's last fold a stream
that still holds a block ends the op (R105). -/
def fxTileConvert (id : ItemId) (tile : TileId) (acc : AccRead) (s : State) : State :=
  match s.canvas id.canvas, id.unit with
  | some c, .me e =>
    match c.item id, ((s.die id.die).engines[e.val]).partial_ id tile with
    | some i, some sl =>
      if i.live = false ∨ c.pause ≠ .running ∨ s.tileFinished c i sl = false then s
      else if acc.uncorrectable then s.accLost id
      else
        let o := c.opOf id.op
        let bnd := c.itemBand i
        let s0 := s.countAcc id.die e acc.corrected
        match if s.allFolded c id.op id.die id.stepSeq then s.longStream c o id.die id.stepSeq else none with
        | some k => s0.skew id e k
        | none =>
          let l := c.convertTile i bnd tile sl.entries
          let tiles := tile :: i.tiles
          let s1 := s0.onEngine id.die e fun g => g.without id tile
          let s2 := s1.onCanvas c.id fun k =>
            { (k.writeElems o.out0 i.frame (l.map fun x => (x.1, x.2.raw))) with
              items := updFirst (fun j => j.id == id) (fun j => { j with tiles := tiles }) k.items }
          let s3 := s2.countMxe id.die e (l.filter fun x => x.2.sat).length (l.filter fun x => x.2.nan).length
          let after := c.prefixRows o bnd s.engines e.val tiles
          if i.rowsDone < after then s3.rowsFinished c.id id after else s3
    | _, _ => s
  | _, _ => s

/-- The entries that a participant holds of every tile of an op. -/
def State.partials (s : State) (id : ItemId) : List Slot :=
  match id.unit with
  | .me e => (((s.die id.die).engines[e.val]).tiles).filter fun x => x.it == id
  | .jgl => []
  | .win => []
  | .mot => []

/-- An addition of the combine tree: modulo 2^32 for an INT32 accumulator, add32 otherwise. -/
def combineAdd (o : Op) (a b : Word) : Word :=
  if accIsInt o then a + b else BitVec.ofNat 32 (add32 a.toNat b.toNat)

/-- The state with the tiles that an item holds changed. -/
def State.onPartials (s : State) (id : ItemId) (f : Slot → Slot) : State :=
  match id.unit with
  | .me e => s.onEngine id.die e fun g =>
      { g with slots := g.slots.map fun x => if x.2.it = id then (x.1, f x.2) else x,
               spill := g.spill.map (fun x => if x.it = id then f x else x),
               golden := g.golden.map (fun x => if x.it = id then f x else x),
               staged := g.staged.map fun x => if x.it = id then f x else x }
  | .jgl => s
  | .win => s
  | .mot => s

/-- Corrected errors of the entries of an item are counted on its engine. -/
def State.countItemAcc (s : State) (id : ItemId) (n : Nat) : State :=
  match id.unit with
  | .me e => s.countAcc id.die e n
  | _ => s

/-- SPLIT_K_COMBINE (R83, R84): node `k` of the tree of a frame-scope op adds, once both operands have arrived. Errors of the entries
of either operand are those of their engines (R82). -/
def fxSplitKCombine (id : ItemId) (k : Nat) (left right : AccRead) (s : State) : State :=
  match s.canvas id.canvas with
  | none => s
  | some c =>
    let o := c.opOf id.op
    let n := participants (opNb c.image o) s.engines s.nDies
    let nodes := combineNodes 8 0 n
    match nodes[k]?, c.item id with
    | some (lev, i), some it =>
      let pl := 2 * i * 2 ^ lev
      let pr := (2 * i + 1) * 2 ^ lev
      let find (p : Nat) : Option Item := c.items.find? fun j => j.id.op == id.op && j.id.stepSeq == id.stepSeq &&
        (s.participant c o j.id).1 == p
      match find pl, find pr with
      | some a, some b =>
        let done (p lim : Nat) (x : Item) : Bool :=
          -- every tile folded, and every node below this one on its side combined
          (let (_, hi) := kRange p n (c.shape o).nb
           let t := s.partials x.id
           !s.atBarrier x && t.length == (((c.wholeBand o.out0).rows).map fun y => (c.rowTiles o (c.wholeBand o.out0) s.engines 0 y).length).sum && t.all fun q => q.next == hi) &&
          (nodes.zipIdx).all fun q => !(decide (q.1.1 < lim) && decide (p ≤ 2 * q.1.2 * 2 ^ q.1.1) &&
            decide (2 * q.1.2 * 2 ^ q.1.1 < p + 2 ^ lim)) || it.nodes.contains q.2
        if !(o.frameScope && it.live && (s.participant c o id).1 == 0 && !it.nodes.contains k && done pl lev a && done pr lev b) then s
        else if left.uncorrectable then s.accLost a.id
        else if right.uncorrectable then s.accLost b.id
        else
          let rs := s.partials b.id
          let s0 := (s.countItemAcc a.id left.corrected).countItemAcc b.id right.corrected
          let s1 := s0.onPartials a.id fun x => match rs.find? fun y => y.tile == x.tile with
            | some y => { x with entries := (x.entries.zip y.entries).map fun e => combineAdd o e.1 e.2 }
            | none => x
          let s2 := rs.foldl (fun s y => match b.id.unit with
            | .me e => s.onEngine b.id.die e fun g => g.without b.id y.tile
            | _ => s) s1
          s2.onCanvas c.id fun q => { q with items := updFirst (fun j => j.id == id) (fun j => { j with nodes := j.nodes ++ [k] }) q.items }
      | _, _ => s
    | _, _ => s

/-! ### Items of the other units, and retirement (R177, R201 to R226) -/

/-- What an item computes: elements of OUT0 and OUT1, and what it counts. -/
structure Work where
  out0 : List ((Nat × Nat × Nat × Nat) × Nat)
  out1 : List ((Nat × Nat × Nat × Nat) × Nat)
  bytes0 : Option (List Byte)
  sat : Nat
  nan : Nat
  extra : List Nat        -- Window Engine: bad, truncated, stale, all-NaN; Motion Engine: blocks, limits; TRACK: dropped
deriving DecidableEq, Repr

/-- Elements of a band of a tensor. -/
def bandElems (nb ch : Nat) (b : Band) : List (Nat × Nat × Nat × Nat) :=
  (List.range nb).flatMap fun n => (List.range (b.y1 - b.y0)).flatMap fun y => (List.range (b.x1 - b.x0)).flatMap fun x =>
    (List.range ch).map fun k => (n, b.y0 + y, b.x0 + x, k)

/-- Work of conversions element by element. -/
def Work.ofConvs (l : List ((Nat × Nat × Nat × Nat) × Conv)) : Work :=
  { out0 := l.map fun e => (e.1, e.2.raw), out1 := [], bytes0 := none, sat := (l.filter fun e => e.2.sat).length,
    nan := (l.filter fun e => e.2.nan).length, extra := [] }

/-- Elements of a picture that OUTPUT writes: each component over its plane. -/
def pictureElems (p : Nat) (b : Band) : List (Nat × Nat × Nat × Nat) :=
  (List.range (if p = 13 then 4 else 3)).flatMap fun k =>
    let (sv, sh) := if k = 0 ∨ pixIsYuv p = false then (1, 1) else ((pixSub p).2, (pixSub p).1)
    let y0 := ceilDiv b.y0 sv
    let x0 := ceilDiv b.x0 sh
    (List.range (ceilDiv b.y1 sv - y0)).flatMap fun y => (List.range (ceilDiv b.x1 sh - x0)).map fun x => (0, y0 + y, x0 + x, k)

/-- A track as its OUT1 slot holds it (R218). A free slot is one of identifier 0 (DESIGN CHOICE, entry 83). -/
def trackOfSlot (l : List Nat) : Option Track :=
  let g (i : Nat) : Nat := l.getD i 0
  if g 0 = 0 then none
  else some { id := signedOf 32 (g 0), age := signedOf 32 (g 1), miss := signedOf 32 (g 2), box := ⟨g 3, g 4, g 5, g 6⟩ }

/-- The words of a slot. -/
def slotOfTrack : Option Track → List Nat
  | none => [0, 0, 0, 0, 0, 0, 0]
  | some t => [bitsOfInt 32 t.id, bitsOfInt 32 t.age, bitsOfInt 32 t.miss, t.box.x0, t.box.y0, t.box.x1, t.box.y1]

/-- The box list that TRACK writes (R218, Table 5.5). -/
def trackList (slots : List (Option Track)) (next : Nat) : List Byte :=
  let live := slots.filterMap fun x => x
  leBytes 4 live.length ++ leBytes 4 0 ++ leBytes 8 next ++ List.replicate 48 0 ++ live.flatMap fun t =>
    leBytes 4 t.box.x0 ++ leBytes 4 t.box.y0 ++ leBytes 4 t.box.x1 ++ leBytes 4 t.box.y1 ++ leBytes 2 0 ++
      leBytes 2 (b2n (decide (0 < t.miss))) ++ List.replicate 12 0

/-- TRACK (R216 to R218): candidates in raster order, the slots of the previous frame, and the identifier counter, which the
slot tensor keeps in the element after its 256 slots. -/
def trackWork (e : OpEnv) (o : Op) : Work :=
  let t0 := o.ins.getD 0 0
  let t1 := o.ins.getD 1 0
  let (nb, h, w, _) := e.dim t0
  let cands := (List.range (min 65536 (nb * h * w))).filterMap fun i =>
    let g (k : Nat) : Nat := e.rd t0 (i / (h * w)) (i / w % h) (i % w) k
    let b : BoxEntry := { box := ⟨g 1, g 2, g 3, g 4⟩, batch := 0, skip := false }
    if b.bad 1 then none else some (g 0, b.box)
  let slots := (List.range 256).map fun i => trackOfSlot ((List.range 7).map fun k => e.rdLin t1 (7 * i + k))
  let next0 := signedOf 32 (e.rdLin t1 (7 * 256))
  let (out, next, dropped) := trackAll o cands slots (if next0 = 0 then 1 else next0)
  let words := out.flatMap slotOfTrack ++ [bitsOfInt 32 next]
  let (_, h1, w1, c1) := e.dim t1
  { out0 := [], bytes0 := some (trackList out (e.step.toNat)),
    out1 := (words.zipIdx).map fun (v, i) => ((i / (h1 * w1 * c1), i / (w1 * c1) % h1, i / c1 % w1, i % c1), v),
    sat := 0, nan := 0, extra := [dropped] }

/-- What an item of a unit other than a Matrix Engine computes. -/
def Canvas.unitWork (c : Canvas) (i : Item) (nextStep : Dword) (side : SideReader) : Work :=
  let o := c.opOf i.id.op
  let bnd := c.itemBand i
  let u := bTens c.image o.out0
  let env := c.env i.id.die i.stripe i.frame (c.stepOf i.frame)
  let els := bandElems u.nb u.c bnd
  match opName o.opcode with
  | some .conv =>
    let m := c.shape o
    Work.ofConvs (els.map fun (n, y, x, k) =>
      ((n, y, x, k), o.convertAcc env.step n k y x (jugglerConvAcc env o side m.cin m.cout m.blk n y x k)))
  | some .pool => Work.ofConvs (els.map fun (n, y, x, k) => ((n, y, x, k), poolElem env o n y x k))
  | some .cropResize =>
    let list := c.boxList o i.frame
    let plan := boxPlan list (o.p16 84) (bTens c.image (o.ins.getD 0 0)).nb (o.p8 87 == 1) env.step
    { (Work.ofConvs (els.map fun (n, y, x, k) => ((n, y, x, k), cropElem env o list plan n y x k))) with
      extra := [plan.bad, plan.trunc, plan.stale, 0] }
  | some .argmax =>
    let l := els.map fun (n, y, x, k) => ((n, y, x, k), argmax env (o.ins.getD 0 0) n y x)
    { out0 := l.map fun e => (e.1, e.2.1), out1 := [], bytes0 := none, sat := 0, nan := 0,
      extra := [0, 0, 0, (l.filter fun e => e.2.2).length] }
  | some .resize => Work.ofConvs (els.map fun (n, y, x, k) => ((n, y, x, k), resizeElem env o n y x k))
  | some .motion =>
    let blocks := (List.range u.nb).flatMap fun n => (List.range (bnd.y1 - bnd.y0)).flatMap fun y =>
      (List.range (bnd.x1 - bnd.x0)).map fun x => (n, bnd.y0 + y, bnd.x0 + x, motionBlock env o n (bnd.y0 + y) (bnd.x0 + x))
    { out0 := blocks.flatMap fun (n, y, x, b) => (b.1.zipIdx).map fun (v, k) => ((n, y, x, k), v),
      out1 := [], bytes0 := none, sat := 0, nan := 0,
      extra := [blocks.length, (blocks.filter fun b => b.2.2.2.2).length] }
  | some .track =>
    let w := trackWork { env with step := nextStep } o
    w
  | some .output => Work.ofConvs ((pictureElems u.fmt bnd).map fun (n, y, x, k) => ((n, y, x, k), outputSample env o k y x))
  | _ => Work.ofConvs (els.map fun (n, y, x, k) => ((n, y, x, k), jugglerElem env o n y x k))

/-- The counters of a unit (R91, R129, R132, R135, R223, R225). -/
def State.countWork (s : State) (d : DieIx) (u : UnitIx) (name : Option OpName) (w : Work) : State :=
  let one (s : State) (cnt evt mask n : Nat) : State := if n = 0 then s else (s.count d cnt n).raise d evt mask
  let two (s : State) (cnt evt mask n : Nat) : State :=
    if n = 0 then s else (s.onDie d fun x => x.countWide cnt n).raise d evt mask
  let g (i : Nat) : Nat := w.extra.getD i 0
  match u with
  | .me e => s.countMxe d e w.sat w.nan
  | .win => one (one (one (one (one s Reg.winBoxBad Reg.winEvt 1 (g 0)) Reg.winBoxTrunc Reg.winEvt 2 (g 1))
      Reg.winBoxStale Reg.winEvt 4 (g 2)) Reg.winArgmaxNan Reg.winEvt 8 (g 3)) Reg.winSat Reg.winEvt 16 w.sat
  | .mot => one (s.onDie d fun x => x.countWide Reg.motBlocksLo (g 0)) Reg.motLimit Reg.motEvt 1 (g 1)
  | .jgl => one (two (two s Reg.jglSatLo Reg.jglEvt 1 w.sat) Reg.jglNanLo Reg.jglEvt 2 w.nan) Reg.jglTrackFull Reg.jglEvt 4
      (if name = some .track then g 0 else 0)

/-! ### Weight-side blocks of a Juggler convolution (R98, R103, R105) -/

/-- Every block that a Juggler convolution takes, by program, KIND and position. -/
def Canvas.sidePlan (c : Canvas) (o : Op) : List Expect :=
  let m := c.shape o
  (o.streams m.nt m.nb).flatMap fun st => if st.1 = 0xFFFF then [] else (List.range st.2.2).map fun k => { kind := st.2.1, pos := k }

/-- The payload of a weight-side block on a Juggler path. -/
def State.sideReader (s : State) (c : Canvas) (i : Item) : SideReader := fun kind pos =>
  let o := c.opOf i.id.op
  match s.blockIn c i.id.die (o.kindProg kind) i.id.stepSeq (payloadBytes kind o.form o.quant) pos with
  | some b => b.payload
  | none => []

/-- How the blocks of a Juggler convolution pass their check. The manual has no registers for a skew here, and no order of the loads:
all blocks are checked before the first element, in ascending position, then KIND, and the record names engine 0 (DESIGN CHOICE,
entry 94). -/
def State.sideEnd (s : State) (c : Canvas) (i : Item) : LoadEnd :=
  let o := c.opOf i.id.op
  let plan := if opName o.opcode = some .conv then c.sidePlan o else []
  let blocks := s.blocksAt c i plan
  if (plan.zip blocks).any fun x => x.2.isNone && s.streamLive c i.id.die (o.kindProg x.1.kind) i.id.stepSeq then .waits
  else if plan.any fun x => s.blockPoisoned c i.id.die (o.kindProg x.kind) i.id.stepSeq (payloadBytes x.kind o.form o.quant) x.pos then .aborted
  else match (firstSkew o plan blocks).or (if plan.isEmpty then none else s.longStream c o i.id.die i.id.stepSeq) with
    | some k => .skewed k
    | none => .folds plan (blocks.filterMap fun x => x)

/-! ### Records that follow an item -/

/-- The frame step of the output frame after the one that an item serves, which TRACK writes into its list (R218). It is not known
before that frame begins, and is then put into the list (entry 21). -/
def Canvas.nextStepOf (c : Canvas) (frame : Nat) : Dword :=
  (c.steps.find? fun e => e.1 == frame + 1).elim 0 Prod.snd

/-- The step of a frame that begins, in the lists that TRACK has written in the frame before (R218). -/
def Canvas.stampTracks (c : Canvas) (frame : Nat) (step : Dword) : Canvas :=
  ((bOps c.image).filter fun o => opName o.opcode == some .track).foldl (fun c o =>
    if frame = 0 ∨ (c.buf o.out0 (frame - 1)).isNone = true then c
    else c.onBuf o.out0 (frame - 1) fun u => u.ofBytes (u.bytes.take 8 ++ leBytes 8 step.toNat)) c

/-- The bytes of a motion field: blocks of 16 channels of INT16, five of them in use (R222). -/
def Canvas.fieldBytes (c : Canvas) (t frame : Nat) : List Byte :=
  let u := (c.buf t frame).getD (c.blank t)
  (List.range u.nb).flatMap fun n => (List.range u.h).flatMap fun y => (List.range u.w).flatMap fun x => (List.range 16).flatMap fun k =>
    leBytes 2 (if k < u.c then u.rd n y x k else 0)

/-- Counter and timestamp of the source frame from which an op reads its IN0, directly or through other ops. -/
def Canvas.sourceTag (c : Canvas) (o : Op) (frame : Nat) : Nat × Nat :=
  let ts := o.ins.getD 0 0xFFFF :: (c.sourcesOf o.ix).flatMap fun i => (c.opOf i).reads
  (ts.findSome? fun t => sLookup c.inputTags (bufKey t frame)).getD (0, 0)

/-- The guard word of a motion field (R222): in the form of a line's tag (R361), zeros after it. DESIGN CHOICE, entry 95. -/
def Canvas.guardWord (c : Canvas) (o : Op) (frame : Nat) : List Byte :=
  let tag := c.sourceTag o frame
  leBytes 4 (crc32c (c.fieldBytes o.out0 frame)).toNat ++ leBytes 4 tag.1 ++ leBytes 8 tag.2 ++ List.replicate 48 0

/-- After the last row of a field the Motion Engine writes its guard word. -/
def Canvas.guardField (c : Canvas) (i : Item) : Canvas :=
  let o := c.opOf i.id.op
  if opName o.opcode = some .motion ∧ (o.frameScope = true ∨ i.stripe + 1 = c.binding.stripes) then
    { c with guards := sInsert c.guards (bufKey o.out0 i.frame) (c.guardWord o i.frame) }
  else c

/-- A held write to a sealed row counts in SFN_SEAL_HOLD_CNT (R352): the picture rows of two stripe steps before share the
buffer of this step's. It changes timing only. -/
def State.sealHold (s : State) (c : Canvas) (i : Item) : State :=
  if opName (c.opOf i.id.op).opcode = some .output ∧ (c.parts.any fun p => p.computeDie == i.id.die && p.stepSeq + 2 == i.id.stepSeq &&
      p.complete && p.fallbackDone && !p.read && (c.partOp p).any fun o => o.ix == i.id.op) = true
  then s.count i.id.die Reg.sfnSealHoldCnt 1 else s

/-- An item leaves its queue, and the next enters (R177). -/
def State.retire (s : State) (id : ItemId) : State :=
  let s1 := s.onCanvas id.canvas fun c => { c with items := updFirst (fun j => j.id == id) (fun j => { j with retired := true }) c.items }
  (s1.onDie id.die fun x => x.dropItems fun i => i == id).refill id.die

/-- An item may retire: its context runs, or is being saved once this item has ended (R308). -/
def Canvas.mayEnd (c : Canvas) (i : Item) : Bool :=
  match c.pause with
  | .running => true
  | .saving _ _ l => l.contains i.id
  | _ => false

/-- ITEM_RETIRE (R177). A share of a Matrix Engine retires once its last tile is converted (a participant of a split
reduction once its result has been taken); an item of another unit computes, writes and signals its rows and retires. -/
def fxItemRetire (id : ItemId) (s : State) : State :=
  match s.canvas id.canvas with
  | none => s
  | some c =>
    match c.item id with
    | none => s
    | some i =>
      let o := c.opOf id.op
      let bnd := c.itemBand i
      if i.live = false ∨ (s.die id.die).inflight.contains id = false ∨ c.mayEnd i = false then s
      else match id.unit with
        | .me e =>
          let folded := decide (((s.schedule c i).map List.length).sum ≤ i.pos)
          if (s.participant c o id).1 != 0 && o.frameScope then
            if (s.partials id).isEmpty && folded then s.retire id else s
          else if folded && decide (bnd.y1 - bnd.y0 ≤ max i.rowsDone (c.prefixRows o bnd s.engines e.val i.tiles)) then s.retire id else s
        | u =>
          if s.inputsReady c i bnd bnd.y0 bnd.y1 = false ∨ s.served c i = false then s
          else if s.needsPoisoned c i bnd bnd.y0 bnd.y1 then s.failItem id .poisoned []
          else if s.inputsPoisoned c i bnd.y0 bnd.y1 then s.failItem id .aborted []
          else match s.sideEnd c i with
            | .waits => s
            | .poisoned => s.failItem id .poisoned []
            | .aborted => s.failItem id .aborted []
            | .skewed k => s.failItem id .scaleSkew [k.exp.pos % 65536 + 65536 * k.got, k.exp.kind + 8 * b2n k.hdr + 16 * b2n k.fin, 0]
            | .folds _ _ =>
              let w := c.unitWork i (c.nextStepOf i.frame) (s.sideReader c i)
              let s0 := s.sealHold c i
              let s1 := s0.onCanvas c.id fun k =>
                let k1 := match w.bytes0 with
                  | some bs => k.onBuf o.out0 i.frame fun u => u.ofBytes bs
                  | none => k.writeElems o.out0 i.frame w.out0
                (if o.out1 = 0xFFFF then k1 else k1.writeElems o.out1 i.frame w.out1).guardField i
              ((s1.countWork id.die u (opName o.opcode) w).rowsFinished c.id id (bnd.y1 - bnd.y0)).retire id

def execTileLoad (it : ItemId) (t b : Nat) (run : TileRun) (other : Option TileLoad) (s : State) : Host.Outcome State Fault Refusal :=
  .next (fxTileLoad ⟨it, t, b, run.tiles, run.acc⟩ other s)
def execTileConvert (it : ItemId) (tile : TileId) (acc : AccRead) (s : State) : Host.Outcome State Fault Refusal :=
  .next (fxTileConvert it tile acc s)
def execSplitKCombine (it : ItemId) (c : Combine) (s : State) : Host.Outcome State Fault Refusal :=
  .next (fxSplitKCombine it c.node c.left c.right s)
def execItemRetire (it : ItemId) (s : State) : Host.Outcome State Fault Refusal := .next (fxItemRetire it s)

end Sys2Proof.Machine
end

