-- ==== Sys2Proof/Machine/Release.lean ====
section
/-! DEFINITION. Release of stripe steps and of frame-scope ops (R48, R55, R150, R174, R177, R196, R271, R272). -/

namespace Sys2Proof.Machine

/-- Stripe parts of a stripe of a canvas: one per layer and region (R40). -/
def Canvas.partsOf (c : Canvas) (frame stripe seq : Nat) : List PartSt :=
  c.binding.regions.flatMap fun r => c.binding.layers.map fun l =>
    { id := { head := r.head, layer := Fin.ofNat 16 l.layer, stripe := stripe, half := r.half }, frame := frame,
      computeDie := r.die, stepSeq := seq, released := false, complete := false, failed := none, abandoned := false,
      fallbackStarted := false, fallbackDone := false, verdict := none, degraded := false, choice := none, read := false, carried := none }

/-- The step number of a part whose stripe has not been released. -/
def unreleased : Nat := 2 ^ 64

/-- The parts of a stripe, added where the canvas does not have them yet; parts that await their release take the step's
sequence number. -/
def Canvas.withParts (c : Canvas) (frame stripe seq : Nat) : Canvas :=
  if c.parts.any fun p => p.frame == frame && p.id.stripe == stripe then
    { c with parts := c.parts.map fun p => if p.frame == frame && p.id.stripe == stripe && !p.released then { p with stepSeq := seq } else p }
  else { c with parts := c.parts ++ c.partsOf frame stripe seq }

/-- An item as it is entered. -/
def Item.fresh (id : ItemId) (frame stripe : Nat) : Item :=
  { id := id, frame := frame, stripe := stripe, retired := false, ended := none, rowsDone := 0, tiles := [], pos := 0,
    nodes := [] }

/-- The items of a stripe step on a die, in key order. -/
def Canvas.stepItems (c : Canvas) (e : Nat) (d : DieIx) (frame stripe seq : Nat) : List Item :=
  ((bOps c.image).filter fun o => !o.frameScope).flatMap fun o =>
    (c.units o (c.opBand o d stripe) e).map fun u =>
      Item.fresh { canvas := c.id, die := d, unit := u, op := o.ix, stepSeq := seq } frame stripe

/-- Programs named by ops that run per stripe, one run per program. -/
def Canvas.stepRuns (c : Canvas) (d : DieIx) (seq : Nat) : List Run :=
  (((bOps c.image).filter fun o => !o.frameScope).flatMap fun o => o.progs.map fun p => (p, o.ix)).foldl (fun acc e =>
    if acc.any fun r => r.prog.toNat == e.1 then acc
    else acc ++ [{ die := d, prog := BitVec.ofNat 16 e.1, op := some e.2, stepSeq := seq }]) []

/-- Programs that no op names: they run once per frame. DESIGN CHOICE, entry 17. -/
def Canvas.frameRuns (c : Canvas) (d : DieIx) (seq : Nat) : List Run :=
  let named := (bOps c.image).flatMap Op.progs
  ((List.range (bHeader c.image).nprog).filter fun p => !named.contains p).map fun p =>
    { die := d, prog := BitVec.ofNat 16 p, op := none, stepSeq := seq }

/-- The neural domain of a die takes work: not in OP3, not in a restart, not latched off. -/
def State.neuralOn (s : State) (d : DieIx) : Bool :=
  s.power.point != .op3 && (s.die d).sfn.restart.isNone && !(s.die d).sfn.latchedOff && (s.die d).sfn.phase == .armed

/-- The ops of a stripe step that a die whose neural domain takes no work does not compute: readers get the fall-back halo
(R54, R356). Its parts fail. -/
def State.skipStep (s : State) (cv : CanvasId) (d : DieIx) (frame stripe seq : Nat) : State :=
  match s.canvas cv with
  | none => s
  | some c =>
    let s1 := ((bOps c.image).filter fun o => !o.frameScope).foldl (fun s o => s.fillHalo cv d frame stripe seq o.ix) s
    s1.onCanvas cv fun k =>
      let ps := k.parts.map fun p => if p.stepSeq == seq && p.computeDie == d && !p.released then { p with failed := some .aborted } else p
      { k with parts := ps }

/-- A die did not enter a stripe step and never will. -/
def Canvas.skipped (c : Canvas) (d : DieIx) (seq : Nat) : Bool :=
  c.parts.any fun p => p.stepSeq == seq && p.computeDie == d && !p.released && p.failed.isSome

/-- The halo Turnstiles of a die that a neighbour which skipped a stripe step would have signalled. -/
def State.haloOf (s : State) (c : Canvas) (d e : DieIx) (stripe seq : Nat) : State :=
  match c.region e with
  | none => s
  | some r => ((bOps c.image).filter fun o => !o.frameScope).foldl (fun s o =>
      let bnd := c.opBand o e stripe
      o.writes.foldl (fun s t => (c.neighbours r).foldl (fun s n =>
        if n.1 = d then s.ringSet d c.ctx (c.haloVirt t n.2) seq (bnd.y1 - bnd.y0) else s) s) s) s

/-- Ops of a stripe step that lead only to parts of a die that are to be abandoned as they are released (R305). -/
def Canvas.markedOps (c : Canvas) (d : DieIx) (seq : Nat) : List Nat :=
  let marked (e : LayerEntry) : Bool := c.parts.any fun p => p.stepSeq == seq && p.computeDie == d && p.id.layer.val == e.layer && p.abandoned
  ((bOps c.image).filter fun o => !o.frameScope).filterMap fun o =>
    let ls := c.binding.layers.filter fun e => (c.dependents o.ix).contains e.op
    if !ls.isEmpty && ls.all marked then some o.ix else none

/-- Those ops are abandoned. -/
def State.abandonMarked (s : State) (cv : CanvasId) (d : DieIx) (frame stripe seq : Nat) : State :=
  match s.canvas cv with
  | none => s
  | some c => (c.markedOps d seq).foldl (fun s o => s.abandonOp cv d frame stripe seq o .aborted) s

/-- Bank k mod 8 of the context is set to 0, and the items and runs of step k are entered on a die (R272). A pool on which
the watchdog fired returns to held 0. -/
def State.enterStep (s : State) (cv : CanvasId) (d : DieIx) (seq : Nat) : State :=
  match s.canvas cv with
  | none => s
  | some c =>
    match c.released.find? fun e => e.1 == seq with
    | none => s
    | some (_, frame) =>
      match c.parts.find? fun p => p.stepSeq == seq with
      | none => s
      | some p0 =>
        let stripe := p0.id.stripe
        let s1 := s.onDie d fun x =>
          { x with tsl := x.tsl.bankReset c.ctx seq,
                   pools := x.pools.map fun e => if e.2.canvas == some cv && e.2.stalled then
                     (e.1, { e.2 with stalled := false, members := e.2.members.map fun m => { m with held := 0 } }) else e }
        let s2 := s1.onCanvas cv fun k =>
          { k with items := k.items ++ c.stepItems s.engines d frame stripe seq,
                   runs := k.runs ++ c.stepRuns d seq ++ (if stripe = 0 then c.frameRuns d seq else []),
                   parts := k.parts.map fun p => if p.stepSeq == seq && p.computeDie == d then { p with released := true } else p,
                   deferred := k.deferred.erase (d, seq) }
        let off := ((c.binding.regions.map Region.die).filter fun e => e != d && c.skipped e seq)
        ((off.foldl (fun s e => s.haloOf c d e stripe seq) s2).abandonMarked cv d frame stripe seq).refill d

/-- Every item of step k − 8 on a die has retired or been abandoned, its Carousel runs among them (R177), and it is not itself held. -/
def State.stepFree (s : State) (c : Canvas) (d : DieIx) (seq : Nat) : Bool :=
  seq < 8 || !((c.items.any fun i => i.id.die == d && i.id.stepSeq + 8 == seq && i.live) ||
    (c.runs.any fun r => r.die == d && r.stepSeq + 8 == seq) ||
    ((s.die d).streams.any fun e => e.2.canvas == some c.id && e.2.stepSeq + 8 == seq) || c.deferred.contains (d, seq - 8))

/-- Abandon the work of a canvas that a predicate picks (R54, R55): its items end with a status, parts not complete are
abandoned, streams stop, and readers get the fall-back halo. -/
def State.abandonWork (s : State) (cv : CanvasId) (st : Status) (p : Item → Bool) : State :=
  match s.canvas cv with
  | none => s
  | some c =>
    let gone := c.items.filter fun i => i.live && p i
    gone.foldl (fun s i => match (s.canvas cv).bind fun k => k.item i.id with
      | some j => if j.live then s.abandonOp cv i.id.die i.frame i.stripe i.id.stepSeq i.id.op st else s
      | none => s) s

/-- As stripe 0 of frame f + 2 of a live canvas is released, work of frame f or before that still runs is abandoned, and the recurrent
state of frame f + 2 is set to its declared initial state (R55, R310). DET_TIMING counts the reset (R290). -/
def State.abandonLate (s : State) (cv : CanvasId) (frame : Nat) : State :=
  match s.canvas cv with
  | none => s
  | some c =>
    if (c.items.any fun i => decide (i.frame + 2 ≤ frame) && i.live) = false then s
    else ((s.abandonWork cv .aborted fun i => decide (i.frame + 2 ≤ frame)).onDie 0 fun x =>
      x.countWide Reg.detTimingLo 1).onCanvas cv fun k => { k with resets := k.resets ++ [frame] }

/-- What frames before the last two left is let go as stripe 0 of a frame is released; their buffers are the new frame's (R55). -/
def State.pruneFrame (s : State) (cv : CanvasId) (frame : Nat) : State :=
    s.onCanvas cv fun k =>
      { k with items := k.items.filter fun i => decide (frame ≤ i.frame + 1),
               runs := k.runs.filter fun r => !(k.released.any fun e => e.1 == r.stepSeq && decide (e.2 + 2 ≤ frame)),
               holes := k.holes.filter fun h => decide (frame ≤ h.frame + 1),
               released := k.released.filter fun e => decide (frame ≤ e.2 + 1),
               tensors := k.tensors.filter fun e => e.1 % 2 != frame % 2,
               inputTags := k.inputTags.filter fun e => e.1 % 2 != frame % 2,
               guards := k.guards.filter fun e => e.1 % 2 != frame % 2,
               feeds := k.feeds.filter fun e => k.items.any fun i => decide (frame ≤ i.frame + 1) && i.id.stepSeq == e.stepSeq,
               resets := k.resets.filter fun f => decide (frame ≤ f + 1),
               resetFlag := k.resets.contains frame }

/-- Release a stripe of a frame of a canvas (R48): its step takes the next sequence number; on a die where step k − 8 still
works, it is held (R272). -/
def State.releaseStripe (s : State) (cv : CanvasId) (frame stripe : Nat) : State :=
  let s0 := if stripe = 0 then s.pruneFrame cv frame else s
  match s0.canvas cv with
  | none => s0
  | some c =>
    let seq := c.stepSeq
    let s1 := s0.onCanvas cv fun k =>
      { (k.withParts frame stripe seq) with stepSeq := seq + 1, released := k.released ++ [(seq, frame)] }
    let ds := c.binding.regions.map Region.die
    let s2 := (ds.filter fun d => !s.neuralOn d).foldl (fun s d => s.skipStep cv d frame stripe seq) s1
    (ds.filter fun d => s.neuralOn d).foldl (fun s d =>
      if s.stepFree c d seq then s.enterStep cv d seq
      else s.onCanvas cv fun k => { k with deferred := k.deferred ++ [(d, seq)] }) s2

/-- DEFERRED_RELEASE (R272): the earliest step of the canvas held on the die, once its condition is met. -/
def fxDeferredRelease (d : DieIx) (cv : CanvasId) (s : State) : State :=
  match s.canvas cv with
  | none => s
  | some c =>
    match c.deferred.find? fun e => e.1 == d with
    | none => s
    | some (_, seq) => if c.pause = .running ∧ s.stepFree c d seq = true then s.enterStep cv d seq else s

/-- The number that stands for the sequence number in items of the frame-scope ops of a frame, which serve no stripe step: no stripe step
takes it. -/
def frameSeq (frame : Nat) : Nat := 2 ^ 60 + frame

/-- A die passed over a stripe of a frame. -/
def Canvas.passedOver (c : Canvas) (d : DieIx) (frame stripe : Nat) : Bool :=
  c.parts.any fun p => p.frame == frame && p.id.stripe == stripe && p.computeDie == d && !p.released && p.failed.isSome

/-- An op has run in a frame on every die and in every stripe that has it, and none of its items is at work. -/
def Canvas.opDone (c : Canvas) (o : Op) (frame : Nat) : Bool :=
  let at_ (p : Item → Bool) : Bool := c.items.any fun i => i.id.op == o.ix && i.frame == frame && p i
  !(at_ Item.live) && if o.frameScope then at_ fun _ => true
    else c.binding.regions.all fun r => (List.range c.binding.stripes).all fun st =>
      c.passedOver r.die frame st || at_ fun i => i.id.die == r.die && i.stripe == st

/-- The latest frame of a canvas in which every stripe of an op's inputs is complete and the op has not run. -/
def Canvas.scopeFrame (c : Canvas) (o : Op) : Option Nat :=
  let writers := (o.reads.filter fun t => !(bTens c.image t).recurrent).filterMap (writerOf c.image)
  let complete (f : Nat) : Bool :=
    ((List.range c.binding.stripes).all fun st => c.parts.any fun p => p.frame == f && p.id.stripe == st && p.stepSeq != unreleased) &&
      writers.all fun w => c.opDone w f
  ((List.range 2).map fun k => c.frameNo - k).find? fun f => complete f && !(c.items.any fun i => i.id.op == o.ix && i.frame == f)

/-- FRAME_SCOPE_RELEASE (R150): once the inputs of a frame are complete and the readers of its previous run in that frame
have retired. Its row objects are set to 0 first (R196). -/
def fxFrameScopeRelease (cv : CanvasId) (op : Nat) (s : State) : State :=
  match s.canvas cv with
  | none => s
  | some c =>
    let o := c.opOf op
    if (bHeader c.image).nops ≤ op ∨ o.frameScope = false ∨ c.pause ≠ .running ∨ (s.die (dieOf c.binding.head0)).head.opForced = true then s
    else match c.scopeFrame o with
      | none => s
      | some f =>
        let readers := (bOps c.image).filter fun r => r.ix != o.ix && r.reads.any o.writes.contains
        if readers.all (fun r => c.opDone r f) = false then s
        else
          let units : List (DieIx × UnitIx) := if onMatrix c.image o then
              (c.partics o s.engines s.nDies).map fun e => e.2
            else (c.units o (c.wholeBand o.out0) 1).map fun u => (0, u)
          if units.any fun u => !s.neuralOn u.1 then s
          else
            let s1 := c.dies.foldl (fun s d => o.writes.foldl (fun s t => s.ringSet d c.ctx (c.rowVirt t) 0 0) s) s
            let s2 := s1.onCanvas cv fun k =>
              { k with items := k.items ++ units.map fun u =>
                         Item.fresh { canvas := cv, die := u.1, unit := u.2, op := op, stepSeq := frameSeq f } f 0,
                       runs := k.runs ++ (units.map Prod.fst).eraseDups.flatMap fun d => o.progs.eraseDups.map fun p =>
                         { die := d, prog := BitVec.ofNat 16 p, op := some op, stepSeq := frameSeq f } }
            ((units.map Prod.fst).eraseDups).foldl (fun s d => s.refill d) s2

def execDeferredRelease (d : DieIx) (cv : CanvasId) (s : State) : Host.Outcome State Fault Refusal :=
  .next (fxDeferredRelease d cv s)
def execFrameScopeRelease (cv : CanvasId) (op : Nat) (s : State) : Host.Outcome State Fault Refusal :=
  .next (fxFrameScopeRelease cv op s)

end Sys2Proof.Machine
end

