-- ==== Sys2Proof/Machine/Carousel.lean ====
section
/-! DEFINITION. The Carousel instructions as rows: the instruction at the PC of a running stream issues (R105, R154, R164 to
R173, R178 to R185, R189, R438). A command whose instruction is not the one at the PC changes nothing. -/

namespace Sys2Proof.Machine

/-- The stream of a command, where it runs, its context is in no pause, and the instruction at its PC satisfies a test. -/
def State.issuing (s : State) (st : StreamId) : Option (Stream × CInstr) :=
  match (s.die st.die).stream st with
  | none => none
  | some x =>
    let paused := (x.canvas.bind s.canvas).any fun c => c.pause != .running
    if x.state = .running ∧ x.fencing = none ∧ paused = false then x.instr.map fun i => (x, i) else none

/-- Windows of a firmware stream: the whole of each space (R166, Table 7.4; entry 98). -/
def State.firmwareWindows (s : State) (d : DieIx) : List SWindow :=
  [{ space := 0, die := d, lo := 0, hi := bigTopBytes }, { space := 1, die := d, lo := 0, hi := s.straps.dramGib * 2 ^ 30 },
   { space := 3, die := d, lo := 0, hi := 2 ^ 64 }, { space := 4, die := d, lo := 0, hi := 2 ^ 64 }] ++
    (s.dieList.filter fun k => k != d).map fun k => { space := 2, die := k, lo := 0, hi := bigTopBytes }

/-- The state in which a command finds its stream. A stream of the picture domain that runs nothing starts its firmware program with the
first instruction that is issued on it (R165; DESIGN CHOICE, entry 98). -/
def State.started (s : State) (st : StreamId) : State :=
  if decide (st.crs.val < 12) && ((s.die st.die).stream st).isNone && (s.die st.die).sfn.phase == .armed then
    s.onDie st.die fun x => { x with streams := x.streams ++ [(st, Stream.launch none 0xFFFF none
      (Config.firmwareProgram (s.reg st.die Reg.detClassHi) (4 * st.crs.val + st.idx.val)) 0xFFFF (s.firmwareWindows st.die) 0)] }
  else s

/-- The instruction of a row, where it is the one that its stream issues: with the state in which the stream runs. -/
def State.issue (s : State) (st : StreamId) : Option (State × Stream × CInstr) :=
  ((s.started st).issuing st).map fun e => (s.started st, e.1, e.2)

/-- CAROUSEL_NOP. -/
def fxCarouselNop (st : StreamId) (s : State) : State :=
  match s.issue st with
  | some (s, _, .nop) => s.onStream st Stream.advance
  | _ => s

/-- Where a base of a program lies (R438). Firmware programs use absolute addresses. -/
def State.reloc (s : State) (x : Stream) (st : StreamId) (space : Fin 8) (die : DieIx) (base : Nat) : Bool × Nat :=
  match x.canvas.bind s.canvas with
  | none => (false, 0)
  | some c => ({ pool := c.pool, dramAt := c.dramAt : Extents }).reloc st.die space die base

/-- SETB. -/
def fxSetb (st : StreamId) (s : State) : State :=
  match s.issue st with
  | some (s, x, .setb g space die base) =>
    let r := s.reloc x st space die base
    let b := if x.canvas.isSome then base % 2 ^ 39 else base
    s.onStream st fun y => y.setb g space die b r.1 r.2
  | _ => s

/-- SETS. -/
def fxSets (st : StreamId) (s : State) : State :=
  match s.issue st with
  | some (s, _, .sets g lvl stride) => s.onStream st fun y => y.sets g lvl stride
  | _ => s

/-- SETM. -/
def fxSetm (st : StreamId) (s : State) : State :=
  match s.issue st with
  | some (s, _, .setm g rsize) => s.onStream st fun y => y.setm g rsize
  | _ => s

/-- SETC. -/
def fxSetc (st : StreamId) (s : State) : State :=
  match s.issue st with
  | some (s, _, .setc c sel value) => s.onStream st fun y => y.setc c sel value
  | _ => s

/-- LOOP. -/
def fxLoop (st : StreamId) (s : State) : State :=
  match s.issue st with
  | some (s, _, .loop lvl count) => s.onStream st fun y => y.loop lvl count
  | _ => s

/-- ENDL. -/
def fxEndl (st : StreamId) (s : State) : State :=
  match s.issue st with
  | some (s, _, .endl lvl) => s.onStream st fun y => y.endl lvl
  | _ => s

/-! ### MOVE (R166, R171, R178 to R185) -/

/-- Every address of a side lies in a window; reads of the bundle image lie below its size. -/
def State.addrsOk (s : State) (x : Stream) (g : AddrGen) (l : List Nat) : Bool :=
  if g.image then match x.canvas.bind s.canvas with
    | some c => l.all fun a => decide (a < c.image.length)
    | none => false
  else l.all (inWindows x.windows g.space g.die)

/-- The accesses of a side of a MOVE are those that Table 7.4 allows: no space reads Big Top of another die, none writes a capture FIFO,
the bundle image may only be read (R438), and every address lies in a window. -/
def State.sideOk (s : State) (x : Stream) (write : Bool) (g : AddrGen) (l : List Nat) : Bool :=
  (if write then g.space.val != 4 && !g.image else g.space.val != 2) && s.addrsOk x g l

/-- The canvas of a stream, and the stripe and frame of its step. -/
def State.streamCanvas (s : State) (x : Stream) : Option (Canvas × Nat × Nat) :=
  (x.canvas.bind s.canvas).map fun c =>
    let place := (c.stepPlace x.stepSeq).getD (c.frameNo, 0)
    (c, place.2, place.1)

/-- A byte that an earlier MOVE of the stream, not yet complete, writes to a memory of the die: accesses of one requester take effect in
the order in which it issues them (R163, R170). -/
def Stream.pendingByte (x : Stream) (space : Fin 8) (d : DieIx) (a : Nat) : Option Byte :=
  (x.moves.flatMap fun t => if t.space = space ∧ t.die = d then t.writes else []).foldl (fun r w => if w.1 = a then some w.2 else r) none

/-- A byte of Big Top as a stream reads it: what a tensor of its canvas holds there, else the byte itself. -/
def State.topByte (s : State) (x : Stream) (d : DieIx) (a : Nat) : Byte :=
  ((s.streamCanvas x).bind fun (c, stripe, frame) => c.tensorByte d stripe frame a).getD (sGet zeroByte (s.die d).bigTop a)

/-- The byte that a stream reads at an address of a side. Bytes of the host and of a capture FIFO come with the command, by their number
in the reading. -/
def State.sideByte (s : State) (x : Stream) (st : StreamId) (g : AddrGen) (captured : List Byte) (i a : Nat) : Byte :=
  if g.image then ((x.canvas.bind s.canvas).elim [] Canvas.image).getD a 0
  else match g.space.val with
    | 0 => (x.pendingByte g.space st.die a).getD (s.topByte x st.die a)
    | 1 => (x.pendingByte g.space st.die a).getD (sGet zeroByte (s.die st.die).dram a)
    | _ => captured.getD i 0

/-- Where an address of a side lies in the memories of the die: whether in DRAM, and the address there. A bundle image is read from the
die's copy in DRAM (R438). -/
def State.sidePlace (s : State) (x : Stream) (st : StreamId) (g : AddrGen) (a : Nat) : Option (Bool × Nat) :=
  if g.image then (x.canvas.bind s.canvas).map fun c => (true, 128 * Config.bundleUnit c.binding.bundle st.die.val + a)
  else match g.space.val with
    | 0 => some (false, a)
    | 1 => some (true, a)
    | _ => none

/-- Whether the bytes that a side reads are poisoned (R164, R188). -/
def State.sidePoisoned (s : State) (x : Stream) (st : StreamId) (g : AddrGen) (l : List Nat) : Bool :=
  let at_ := l.filterMap (s.sidePlace x st g)
  (s.die st.die).bigTopBad ((at_.filter fun e => !e.1).map Prod.snd) || (s.die st.die).dramBad ((at_.filter Prod.fst).map Prod.snd)

/-- A coded line of n bytes of which some have been read: zeros elsewhere. -/
def sliceOf (l : List (Nat × Byte)) (n : Nat) : List Byte :=
  (l.foldl (fun (v : Array Byte) e => v.setIfInBounds e.1 e.2) (Array.replicate n 0)).toList

/-- What a MOVE makes of its source: bytes in destination order with their offsets, coded bytes moved, and whether a Mode Z
page failed. -/
def moveResult (codec rate efmt istr len : Nat) (src : List Byte) : List (Nat × Byte) × Nat × Bool :=
  let plain (l : List Byte) : List (Nat × Byte) := (l.zipIdx).map fun e => (e.2, e.1)
  let n := (len + 1) * 16
  match codec with
  | 1 => let l := zEncodeLine (elemBytes efmt) src
         (l, l.length, false)
  | 2 => let (l, bad) := zDecodeLine (elemBytes efmt) n src
         (plain l, zMoved n src, bad)
  | 3 => let l := fEncodeLine rate src
         (plain l, l.length, false)
  | 4 => (plain (fDecodeLine rate n src), src.length, false)
  | 5 => ((moveWrites 5 rate efmt istr len).zip src, 0, false)
  | _ => (plain src, 0, false)

/-- An access outside every window (R166). -/
def State.windowError (s : State) (st : StreamId) : State :=
  ((s.countRaise st.die Reg.crsWindowErr Reg.crsEvt 0x04).untrusted st.die).endStream st .aborted []

/-- Offsets of the bytes that a MOVE reads at its source, in order. -/
def State.moveOffsets (s : State) (x : Stream) (st : StreamId) (g : AddrGen) (captured : List Byte) (codec rate efmt len : Nat) : List Nat :=
  if codec = 2 then zReads ((len + 1) * 16) fun k => s.sideByte x st g captured k (g.byteAddr x.idx k)
  else List.range (moveReads codec rate efmt len)

/-- Bytes landing at the destination of a transfer: the elements of its canvas's tensors that lie there take them too (R110, R112). A
write of a whole poisoned word clears its mark. -/
def State.land (s : State) (x : Stream) (t : Transfer) : State :=
  let addrs := t.writes.map Prod.fst
  let full (unit u : Nat) : Bool := (List.range unit).all fun i => addrs.contains (u * unit + i)
  match t.space.val with
  | 1 => s.onDie t.die fun y =>
      { y with dram := t.writes.foldl (fun m e => sSet zeroByte m e.1 e.2) y.dram, dramPoison := y.dramPoison.filter fun u => !full 128 u }
  | 3 => s.onHost fun h => { h with hostMem := t.writes.foldl (fun m e => sSet zeroByte m e.1 e.2) h.hostMem }
  | _ =>
    let s1 := s.onDie t.die fun y =>
      { y with bigTop := t.writes.foldl (fun m e => sSet zeroByte m e.1 e.2) y.bigTop, bigTopPoison := y.bigTopPoison.filter fun u => !full 64 u }
    match s.streamCanvas x with
    | none => s1
    | some (c, stripe, frame) => s1.onCanvas c.id fun k => t.writes.foldl (fun k e => k.writeByte t.die stripe frame e.1 e.2) k

/-- The bytes that a transfer moved are counted on its Carousel (Table 7.11). -/
def State.countMoved (s : State) (st : StreamId) (t : Transfer) : State :=
  s.onDie st.die fun y => (y.countWide (Reg.crsBytesLo st.crs) t.uncoded).countWide (Reg.crsCodedLo st.crs) t.coded

/-- MOVE (R171): the transfer begins; what it writes is formed from its source, and lands at MOVE_COMPLETE. A MOVE of which any byte lies
outside every window is suppressed whole (R166; DESIGN CHOICE, entry 96). Bytes that a weight-side stream brings from the bundle image
into Big Top are delivered to its op. A page that fails ends the stream with ST_CODEC, after the pages before it (R181). -/
def fxMove (st : StreamId) (captured : List Byte) (s : State) : State :=
  match s.issue st with
  | some (s, x, .move src dst codec rate efmt istr len) =>
    let a := x.gens[src.val]
    let b := x.gens[dst.val]
    let offs := s.moveOffsets x st a captured codec rate efmt len
    let reads := offs.map (a.byteAddr x.idx)
    let coded := (offs.zip reads).map fun e => (e.1, s.sideByte x st a captured e.1 e.2)
    let bytes := if codec = 2 then sliceOf coded (moveReads codec rate efmt len) else coded.map Prod.snd
    let (l, n, bad) := moveResult codec rate efmt istr len bytes
    let writes := l.map fun e => (b.byteAddr x.idx e.1, e.2)
    if s.sideOk x false a reads = false ∨ s.sideOk x true b (writes.map Prod.fst) = false then s.windowError st
    else if s.sidePoisoned x st a reads then s.endStream st .aborted []
    else
      let tr : Transfer := { space := b.space, die := if b.space.val = 2 then b.die else st.die, writes := writes,
                             source := reads.head?.bind (s.sidePlace x st a), feeds := x.op.isSome && a.image && b.space.val == 0,
                             uncoded := if codec = 0 ∨ codec = 5 then bytes.length else if bad then l.length else (len + 1) * 16,
                             coded := if bad then zMoved l.length bytes else n }
      if bad then
        (((s.countRaise st.die Reg.crsCodecErr Reg.crsEvt 0x02).land x tr).countMoved st tr).endStream st .codec [s.streamIdWord st, 0, 0]
      else s.onStream st fun y => { y with pc := y.pc + 1, moves := y.moves ++ [tr] }
  | _ => s

/-- A Turnstile as a stream names it: in the context of its instance, or in that of the firmware. -/
def State.streamRef (s : State) (x : Stream) (v : BitVec 12) : TslRef :=
  .virt (Fin.ofNat 256 ((x.canvas.bind s.canvas).elim 0 Canvas.ctx)) v

/-- An operation of a stream on a Turnstile. -/
def State.streamReq (s : State) (st : StreamId) (x : Stream) (op : TslOp) : TslReq :=
  { iss := streamIssuer st, op := op, opIx := BitVec.ofNat 16 (x.op.getD 0xFFFF),
    step := (s.streamCanvas x).elim 0 (fun e => e.1.stepOf e.2.2), seq := x.stepSeq }

/-- A fence whose earlier MOVEs have all completed lets its SIG add (R170). An add on another die travels over Gaide. -/
def State.sigAdd (s : State) (st : StreamId) : State :=
  match (s.die st.die).stream st with
  | none => s
  | some x =>
    match x.fencing, x.moves with
    | some (remote, die, tsl, v), [] =>
      let ref := s.streamRef x tsl
      let req := s.streamReq st x (.add v)
      let s1 := s.onStream st fun y => { y with fencing := none, pc := y.pc + 1 }
      if remote && die != st.die then s1.sendGaide [{ src := st.die, dst := die, ref := ref, req := req, part := none }]
      else s1.tslDo st.die ref req []
    | _, _ => s

/-- Addresses in ascending runs. -/
def addrRuns : List Nat → List (Nat × Nat)
  | [] => []
  | a :: rest => match addrRuns rest with
    | (b, n) :: more => if a + 1 = b then (a, n + 1) :: more else (a, 1) :: (b, n) :: more
    | [] => [(a, 1)]

/-- Bytes that a weight-side stream has put into Big Top are delivered to its op (R98, R105); `fin`: its program has ended. -/
def Canvas.deliver (c : Canvas) (d : DieIx) (x : Stream) (addrs : List Nat) (fin : Bool) : Canvas :=
  match x.op with
  | none => c
  | some o =>
    let here (f : Feed) : Bool := f.die == d && f.prog == x.prog && f.stepSeq == x.stepSeq
    let grow (f : Feed) : Feed := { f with runs := f.runs ++ addrRuns addrs, ended := f.ended || fin }
    let fresh : Feed := { die := d, prog := x.prog, op := o, stepSeq := x.stepSeq, runs := [], ended := false }
    { c with feeds := if c.feeds.any here then updFirst here grow c.feeds else c.feeds ++ [grow fresh] }

/-- What a stream has brought is noted for the ops of its canvas. -/
def State.deliver (s : State) (st : StreamId) (x : Stream) (addrs : List Nat) (fin : Bool) : State :=
  match x.canvas with
  | none => s
  | some cv => s.onCanvas cv fun c => c.deliver st.die x addrs fin

/-- An uncorrectable error of the source of a transfer: counted, and its unit is poisoned (R164, R188). A source that is no memory of the
die has none. -/
def State.sourceError (s : State) (st : StreamId) (t : Transfer) : State :=
  match t.source with
  | none => s
  | some (inDram, a) =>
    let w : EccAt := if inDram then .dram a else .bigTop a
    (s.eccError st.die w true).onDie st.die w.poison

/-- MOVE_COMPLETE (R170): the earliest transfer of the stream in progress lands, or ends on an uncorrectable error
(R164, R374). -/
def fxMoveComplete (st : StreamId) (r : MoveEnd) (s : State) : State :=
  match (s.die st.die).stream st with
  | none => s
  | some x =>
    match x.moves with
    | [] => s
    | t :: rest =>
      match r with
      | .done =>
        let s1 := (s.land x t).countMoved st t
        let s2 := if t.feeds then s1.deliver st x (t.writes.map Prod.fst) false else s1
        (s2.onStream st fun y => { y with moves := rest }).sigAdd st
      | .poisoned => (s.sourceError st t).endStream st .aborted []

/-! ### Turnstiles and credits -/

/-- CAROUSEL_WAIT: WAIT_GE, or WAIT_SUB with SUB, on a local Turnstile with n = count(C) (R260). -/
def fxCarouselWait (st : StreamId) (s : State) : State :=
  match s.issue st with
  | some (s, x, .wait sub c tsl) =>
    let n := (x.counts[c.val]).value x.idx
    (s.onStream st fun y => { y with state := .waitTsl }).tslDo st.die (s.streamRef x tsl)
      (s.streamReq st x (if sub then .waitSub n else .waitGe n)) []
  | _ => s

/-- SIG (R170): a fence over every earlier MOVE, then the add. -/
def fxSig (st : StreamId) (s : State) : State :=
  match s.issue st with
  | some (s, _, .sig remote die tsl v) =>
    (s.onStream st fun y => { y with fencing := some (remote, if remote then die else st.die, tsl, v) }).sigAdd st
  | _ => s

/-- CRED (R172): granted whole at once, or kept in order of arrival. -/
def fxCred (st : StreamId) (s : State) : State :=
  match s.issue st with
  | some (s, x, .cred pool units) =>
    match x.canvas.bind fun cv => (s.die st.die).bundlePool cv pool with
    | none => s.onStream st Stream.advance
    | some (n, _) =>
      let s1 := s.onStream st fun y => { y with state := .waitCredit }
      (s1.onPool st.die n fun p => { p with waiting := p.waiting ++ [{ stream := st, prog := x.prog, units := units }] }).servePool st.die n
  | _ => s

/-- RET (R172): the units return, or the stream ends with ST_ABORTED where they would take held below 0. -/
def fxRet (st : StreamId) (s : State) : State :=
  match s.issue st with
  | some (s, x, .ret pool units) =>
    match x.canvas.bind fun cv => (s.die st.die).bundlePool cv pool with
    | none => s.onStream st Stream.advance
    | some (n, p) =>
      match p.giveBack (some x.prog) units with
      | some q => ((s.onPool st.die n fun _ => q).onStream st Stream.advance).servePool st.die n
      | none => (s.creditError st.die).endStream st .aborted []
  | _ => s

/-- The block that a stream is short of for an op, once its program has ended (R105): the position expected next and the KIND. -/
def Canvas.shortStream (c : Canvas) (d : DieIx) (x : Stream) (o : Op) : Option Skew :=
  let m := c.shape o
  ((o.streams m.nt m.nb).find? fun e => e.1 == x.prog.toNat).bind fun e =>
    let n := ((c.feed d x.prog.toNat x.stepSeq).elim 0 Feed.size) / (64 + payloadBytes e.2.1 o.form o.quant)
    if n < e.2.2 then some { exp := { kind := e.2.1, pos := n }, got := 0, hdr := false, fin := true } else none

/-- An op whose stream ended short ends with ST_SCALE_SKEW (R105). -/
def State.endShort (s : State) (c : Canvas) (d : DieIx) (x : Stream) (o : Op) : State :=
  match c.shortStream d x o, c.items.find? fun i => i.id.op == o.ix && i.id.die == d && i.id.stepSeq == x.stepSeq && i.live with
  | some k, some i => match i.id.unit with
    | .me e => s.skew i.id e k
    | _ => s.failItem i.id .scaleSkew [k.exp.pos % 65536, k.exp.kind + 16, 0]
  | _, _ => s

/-- END: the stream's run retires; an op of which it delivers a stream too short ends with ST_SCALE_SKEW (R105). A stream ends
only once its transfers have completed. -/
def fxEndp (st : StreamId) (s : State) : State :=
  match s.issue st with
  | some (s, x, .endp) =>
    if x.moves.isEmpty = false then s
    else
      let s1 := s.onDie st.die fun y => { y with streams := y.streams.filter fun e => e.1 != st }
      match x.canvas.bind s.canvas with
      | none => s1
      | some c => (((bOps c.image).filter fun o => o.progs.contains x.prog.toNat).foldl (fun s o => s.endShort c st.die x o)
          (s1.deliver st x [] true)).refill st.die
  | _ => s

def execCarouselNop (st : StreamId) (s : State) : Host.Outcome State Fault Refusal := .next (fxCarouselNop st s)
def execSetb (st : StreamId) (s : State) : Host.Outcome State Fault Refusal := .next (fxSetb st s)
def execSets (st : StreamId) (s : State) : Host.Outcome State Fault Refusal := .next (fxSets st s)
def execSetm (st : StreamId) (s : State) : Host.Outcome State Fault Refusal := .next (fxSetm st s)
def execSetc (st : StreamId) (s : State) : Host.Outcome State Fault Refusal := .next (fxSetc st s)
def execLoop (st : StreamId) (s : State) : Host.Outcome State Fault Refusal := .next (fxLoop st s)
def execEndl (st : StreamId) (s : State) : Host.Outcome State Fault Refusal := .next (fxEndl st s)
def execMove (st : StreamId) (captured : List Byte) (s : State) : Host.Outcome State Fault Refusal :=
  .next (fxMove st captured s)
def execMoveComplete (st : StreamId) (r : MoveEnd) (s : State) : Host.Outcome State Fault Refusal :=
  .next (fxMoveComplete st r s)
def execCarouselWait (st : StreamId) (s : State) : Host.Outcome State Fault Refusal := .next (fxCarouselWait st s)
def execSig (st : StreamId) (s : State) : Host.Outcome State Fault Refusal := .next (fxSig st s)
def execCred (st : StreamId) (s : State) : Host.Outcome State Fault Refusal := .next (fxCred st s)
def execRet (st : StreamId) (s : State) : Host.Outcome State Fault Refusal := .next (fxRet st s)
def execEndp (st : StreamId) (s : State) : Host.Outcome State Fault Refusal := .next (fxEndp st s)

end Sys2Proof.Machine
end

