-- ==== Sys2Proof/Machine/TslRows.lean ====
section
/-! DEFINITION. Turnstile operations, barriers, capture and dump as rows (R260 to R284). -/

namespace Sys2Proof.Machine

/-! ### Operations (R260, R264, R265) -/

/-- An operand lies in the range of Table 10.1. -/
def tslInRange : TslOp → Bool
  | .waitGe n => decide (n ≤ tslMax)
  | .waitSub n => decide (n ≤ tslMax)
  | .add v => decide (1 ≤ v) && decide (v ≤ tslMax)
  | .sub v => decide (1 ≤ v) && decide (v ≤ tslMax)
  | .set v => decide (v ≤ tslMax)

/-- Whether an issuer of a class has an operation on an object (Table 10.2): `firmware`, an object of context 0. -/
def classOp (cls : Nat) (firmware : Bool) (op : TslOp) : Bool :=
  match op with
  | .waitGe _ => if cls = 0 ∨ cls = 7 then firmware else cls != 6
  | .waitSub _ => if cls = 0 then firmware else cls == 2 || cls == 5 || cls == 8
  | .add _ => if cls = 6 then firmware else cls != 7
  | .sub _ => cls == 0 || cls == 2 || cls == 8
  | .set _ => cls == 0

/-- Whether an operation may reach an object of a die: its operand in range, an operation of its class, and a wait on the issuer's own
die (R260, R264, R265). -/
def reqAllowed (q : TslReq) (d : DieIx) (firmware : Bool) : Bool :=
  tslInRange q.op && classOp q.iss.cls.val firmware q.op && match q.op with
    | .waitGe _ => q.iss.die == d
    | .waitSub _ => q.iss.die == d
    | .add _ => true
    | .sub _ => true
    | .set _ => true

/-- A reference names an object of context 0. -/
def State.firmwareRef (s : State) (d : DieIx) : TslRef → Bool
  | .phys n => ((s.die d).tsl.obj n.val).any fun o => o.ctx == 0
  | .virt ctx _ => ctx.val == 0

/-- An operation with the others of its object's cycle; those that may not reach the object take no part. One whose issuer is on another
die goes over Gaide, and takes effect as it arrives, after what that die has sent before (R265). -/
def State.tslRow (s : State) (d : DieIx) (r : TslRef) (q : TslReq) (cycle : List TslReq) : State :=
  let ok (x : TslReq) : Bool := reqAllowed x d (s.firmwareRef d r)
  if ok q = false then s
  else if q.iss.die = d then s.tslDo d r q (cycle.filter fun x => ok x && x.iss.die == d)
  else s.sendGaide [{ src := q.iss.die, dst := d, ref := r, req := q }]

/-- WAIT_GE. -/
def fxWaitGe (d : DieIx) (r : TslRef) (q : TslReq) (cycle : List TslReq) (s : State) : State :=
  match q.op with
  | .waitGe _ => s.tslRow d r q cycle
  | _ => s

/-- WAIT_SUB. -/
def fxWaitSub (d : DieIx) (r : TslRef) (q : TslReq) (cycle : List TslReq) (s : State) : State :=
  match q.op with
  | .waitSub _ => s.tslRow d r q cycle
  | _ => s

/-- ADD. -/
def fxAdd (d : DieIx) (r : TslRef) (q : TslReq) (cycle : List TslReq) (s : State) : State :=
  match q.op with
  | .add _ => s.tslRow d r q cycle
  | _ => s

/-- SUB. -/
def fxSub (d : DieIx) (r : TslRef) (q : TslReq) (cycle : List TslReq) (s : State) : State :=
  match q.op with
  | .sub _ => s.tslRow d r q cycle
  | _ => s

/-- SET. -/
def fxSet (d : DieIx) (r : TslRef) (q : TslReq) (cycle : List TslReq) (s : State) : State :=
  match q.op with
  | .set _ => s.tslRow d r q cycle
  | _ => s

/-! ### Barriers and operations over Gaide (R265, R280, R281) -/

/-- An add of 1 that a barrier node sends to a physical object. -/
def barrierMsg (src dst : DieIx) (n : Nat) : GaideMsg :=
  { src := src, dst := dst, ref := .phys (Fin.ofNat 16384 n), req := ringmaster src (.add 1) 0 }

/-- Children of a die that take part in a barrier. -/
def State.barrierChildren (s : State) (b : Barrier) (d : DieIx) : List DieIx :=
  s.dieList.filter fun k => barrierParent s.straps.part k == some d && decide (0 < b.expected[k.val])

/-- Messages that forward a release to the children of a node. -/
def State.releaseMsgs (s : State) (b : Barrier) (d : DieIx) : List GaideMsg :=
  (s.barrierChildren b d).map fun k => barrierMsg d k b.rel[k.val]

/-- GAIDE_TURNSTILE_ARRIVAL (R265): the earliest operation under way from one die to another takes effect. A node that
receives a barrier's release forwards it in the same cycle (R281). -/
def fxGaideTurnstileArrival (src dst : DieIx) (s : State) : State :=
  match s.gaide.find? fun m => m.src == src && m.dst == dst with
  | none => s
  | some m =>
    let s1 := { s with gaide := s.gaide.erase m }
    let s2 := match m.part with
      | some (cv, frame, id) => s1.partArrived cv frame id
      | none => s1.tslDo dst m.ref m.req []
    match m.ref, m.part with
    | .virt _ _, _ => s2
    | _, some _ => s2
    | .phys n, none => match s.barriers.find? fun b => b.rel[dst.val] == n.val && src != dst with
      | some b => s2.sendGaide (s2.releaseMsgs b dst)
      | none => s2

/-- BARRIER_COMBINE (R281): the combining delay of a node ends: it tells its parent, or, at the root, releases. -/
def fxBarrierCombine (d : DieIx) (barrier : Nat) (s : State) : State :=
  match s.barriers.find? fun b => b.id == barrier && b.combining.contains d with
  | none => s
  | some b =>
    let s1 := { s with barriers := updFirst (fun x => x.id == barrier) (fun x => { x with combining := x.combining.erase d }) s.barriers }
    match barrierParent s.straps.part d with
    | some p => s1.sendGaide [barrierMsg d p b.arr[p.val]]
    | none =>
      let s2 := { s1.tslDo d (.phys (Fin.ofNat 16384 b.rel[d.val])) (ringmaster d (.add 1) 0) [] with
        barriers := updFirst (fun x => x.id == barrier) (fun x => { x with generation := x.generation + 1 }) s1.barriers }
      s2.sendGaide (s2.releaseMsgs b d)

/-! ### Capture (R282) -/

/-- TSL_WAITER_N and TSL_WAITER_ID of waiter i of a capture. -/
def captureWaiter (o : Option TslObj) (i : Nat) : Word × Word :=
  match o.bind fun o => o.waiters[i]? with
  | none => (0, 0)
  | some w => (BitVec.ofNat 32 ((opWaitKind w.req.op).2 + 2 ^ 31 * (opWaitKind w.req.op).1),
      BitVec.ofNat 32 (w.req.iss.cls.val + 16 * w.req.iss.die.val + 128 * (w.req.iss.inst % 1024) + 2 ^ 17 * (w.req.iss.queue % 2 ^ 15)))

/-- The registers that return a capture. -/
def Die.showCapture (x : Die) : Die :=
  let o := x.tsl.capture.obj
  let i := x.field Reg.tslWsel 13 0
  let w := captureWaiter o i
  let (value, flags, unit, step, cnt) := match o with
    | none => (0, 0, 0, 0, 0)
    | some o =>
      let u := match o.last with
        | none => 15
        | some q => q.iss.cls.val + 16 * q.iss.die.val + 128 * (q.iss.inst % 1024) + 2 ^ 17 * (q.iss.queue % 2 ^ 15)
      (o.value, 1 + 2 * b2n o.ovf + 4 * b2n o.poison + 8 * b2n o.bank.isSome + 256 * (o.ctx % 256) +
        65536 * (o.virt.elim 0 BitVec.toNat), u, (o.last.elim 0 fun q => q.step.toNat % 2 ^ 32), o.waiters.length)
  ((((((x.setReg Reg.tslValue (BitVec.ofNat 32 value)).setReg Reg.tslFlags (BitVec.ofNat 32 flags)).setReg Reg.tslLastUnit
    (BitVec.ofNat 32 unit)).setReg Reg.tslLastStep (BitVec.ofNat 32 step)).setReg Reg.tslWaiters (BitVec.ofNat 32 cnt)).setReg
    Reg.tslWaiterN w.1).setReg Reg.tslWaiterId w.2

/-- TSL_SEL_WRITE (R282): the selection is stored, and the object captured in one cycle. -/
def fxTslSelWrite (d : DieIx) (value : Word) (s : State) : State :=
  s.onDie d fun x =>
    let w := writeWord (fieldsAt Reg.tslSel) (x.reg Reg.tslSel) value 0
    ({ (x.setReg Reg.tslSel w) with tsl := { x.tsl with capture := { obj := (s.tslSeen d).select w } } }).showCapture

/-! ### Dump (R283) -/

/-- A range of bytes lies in a window of a function (R316). -/
def Fn.inWindow (x : Fn) (addr n : Nat) : Bool :=
  x.windows.toList.any fun w => match w with
    | some (base, limit) => decide (base.toNat ≤ addr) && decide (addr + n ≤ limit.toNat)
    | none => false

/-- The dump of dies in order in a buffer: its bytes, and whether it was cut short. -/
def State.dumpBytes (s : State) (freeze : Bool) : Nat → List DieIx → List Byte × Bool
  | _, [] => ([], false)
  | room, d :: rest =>
    let (b, cut) := (s.tslSeen d).dumpDie d freeze (s.die d).head.frameStep room
    if cut then (b, true)
    else
      let (b2, cut2) := s.dumpBytes freeze (room - b.length) rest
      (b ++ b2, cut2)

/-- TSL_DUMP_GO: a write of TSL_DUMP_CTRL (R283). GO while a dump runs has no effect. What the dump holds is taken at GO
(DESIGN CHOICE, entry 22); a buffer outside the PF's windows gives ST_HOST_RANGE. -/
def fxTslDumpGo (d : DieIx) (value : Word) (s : State) : State :=
  let busy := s.field d Reg.tslDumpCtrl 3 3 == 1
  let s0 := s.onDie d fun x => x.setReg Reg.tslDumpCtrl (writeWord (fieldsAt Reg.tslDumpCtrl) (x.reg Reg.tslDumpCtrl) value 0)
  if bit value 0 = false ∨ busy = true then s0
  else
    let dies := if bit value 1 && d == 0 then s.dieList else [d]
    let freeze := bit value 2
    let addr := (s.reg d Reg.tslDumpAddrLo).toNat + 2 ^ 32 * (s.reg d Reg.tslDumpAddrHi).toNat
    let room := (s.reg d Reg.tslDumpLen).toNat
    let (bytes, cut) := s.dumpBytes freeze room dies
    let bad := !((s.host.fn 0).inWindow addr (max room 1))
    let st : Status := if bad then .hostRange else if cut then .aborted else .ok
    let s1 := s0.onDies (if freeze && !bad then dies else []) fun _ x => { x with tsl := { x.tsl with frozen := true } }
    s1.onDie d fun x => { (x.setField Reg.tslDumpCtrl 3 3 1) with
      tsl := { x.tsl with dump := some { dies := dies, freeze := freeze && !bad, addr := addr, bytes := if bad then [] else bytes, status := st } } }

/-- The operations that a dump held on a die take effect in order. -/
def State.unfreeze (s : State) (d : DieIx) : State :=
  let l := (s.die d).tsl.held
  let s1 := s.onDie d fun x => { x with tsl := { x.tsl with frozen := false, held := [] } }
  l.foldl (fun s e => s.tslOps d e.1 e.2) s1

/-- DUMP_DONE (R283): the last record is written. -/
def fxDumpDone (d : DieIx) (s : State) : State :=
  match (s.die d).tsl.dump with
  | none => s
  | some p =>
    let s1 := s.onHost fun h => h.write p.addr p.bytes
    let s2 := s1.onDie d fun x =>
      { ((x.setField Reg.tslDumpCtrl 11 3 (2 * p.status.code)).setReg Reg.tslDumpBytes (BitVec.ofNat 32 p.bytes.length)) with
        tsl := { x.tsl with dump := none } }
    let other (e : DieIx) : Bool := s2.dieList.any fun k => (s2.die k).tsl.dump.any fun q => q.freeze && q.dies.contains e
    (p.dies.foldl (fun s e => if (s.die e).tsl.frozen && !other e then s.unfreeze e else s) s2).raise d Reg.tslEvt 0x20

def execWaitGe (d : DieIx) (r : TslRef) (q : TslReq) (cycle : List TslReq) (s : State) :
    Host.Outcome State Fault Refusal := .next (fxWaitGe d r q cycle s)
def execWaitSub (d : DieIx) (r : TslRef) (q : TslReq) (cycle : List TslReq) (s : State) :
    Host.Outcome State Fault Refusal := .next (fxWaitSub d r q cycle s)
def execAdd (d : DieIx) (r : TslRef) (q : TslReq) (cycle : List TslReq) (s : State) :
    Host.Outcome State Fault Refusal := .next (fxAdd d r q cycle s)
def execSub (d : DieIx) (r : TslRef) (q : TslReq) (cycle : List TslReq) (s : State) :
    Host.Outcome State Fault Refusal := .next (fxSub d r q cycle s)
def execSet (d : DieIx) (r : TslRef) (q : TslReq) (cycle : List TslReq) (s : State) :
    Host.Outcome State Fault Refusal := .next (fxSet d r q cycle s)
def execGaideTurnstileArrival (src dst : DieIx) (s : State) : Host.Outcome State Fault Refusal :=
  .next (fxGaideTurnstileArrival src dst s)
def execBarrierCombine (d : DieIx) (barrier : Nat) (s : State) : Host.Outcome State Fault Refusal :=
  .next (fxBarrierCombine d barrier s)
def execTslSelWrite (d : DieIx) (value : Word) (s : State) : Host.Outcome State Fault Refusal :=
  .next (fxTslSelWrite d value s)
def execTslDumpGo (d : DieIx) (value : Word) (s : State) : Host.Outcome State Fault Refusal :=
  .next (fxTslDumpGo d value s)
def execDumpDone (d : DieIx) (s : State) : Host.Outcome State Fault Refusal := .next (fxDumpDone d s)

end Sys2Proof.Machine
end

