-- ==== Sys2Proof/Machine/HostFn.lean ====
section
/-! DEFINITION. Functions: doorbells, admin rings, quotas, heads and event queues, disabling and resetting (R318 to R322,
R333, R334, R337 to R340, R342), and poisoning and destruction of contexts (R273, R277). -/

namespace Sys2Proof.Machine

/-! ### Poisoning and destruction of contexts (R273, R277) -/

/-- Poison a context on a die: its waiters are released with ST_POISONED, which ends the items that waited. -/
def State.poisonCtx (s : State) (d : DieIx) (ctx : Nat) : State :=
  match (s.die d).tsl.ctx ctx with
  | none => s
  | some k =>
    let cv := s.ctxCanvas d ctx
    let (t, ws) := (s.die d).tsl.poison ctx
    let heads := (s.headWaits d).filterMap fun w => if k.owned.contains w.1 then some w.2 else none
    let s1 := (s.onDie d fun x => { x with tsl := t }).countRaise d Reg.tslPoisonCnt Reg.tslEvt 0x08
    (ws ++ heads).foldl (fun s q => s.failIssuer cv q .poisoned) s1

/-- The context of a function on a die (R269). -/
def Tsl.funcCtx (t : Tsl) (f : FnIx) : Option Nat :=
  (t.ctxs.find? fun e => e.2.owner == CtxOwner.func f).map Prod.fst

/-- The context of a canvas's instance is poisoned on every die that it uses. -/
def State.poisonCanvas (s : State) (cv : CanvasId) : State :=
  match s.canvas cv with
  | none => s
  | some c => c.dies.foldl (fun s d => s.poisonCtx d c.ctx) s

/-- Whether an instance imports from its function's context on a die. -/
def Canvas.importsOn (c : Canvas) (d : DieIx) : Bool := c.binding.imports.any fun i => i.die == d.val

/-- The contexts of a function that is reset or disabled are poisoned on every die: its own, every instance that imports
from it, and those of its canvases (R273). -/
def State.poisonFn (s : State) (f : FnIx) : State :=
  let s1 := s.dieList.foldl (fun s d => match (s.die d).tsl.funcCtx f with
    | some c => s.poisonCtx d c
    | none => s) s
  (s.canvases.filter fun c => c.id.func == f).foldl (fun s c => s.poisonCanvas c.id) s1

/-- Destroy a context on a die: waiters still there are released with ST_POISONED, and its objects are freed. -/
def State.destroyCtx (s : State) (d : DieIx) (ctx : Nat) : State :=
  match (s.die d).tsl.ctx ctx with
  | none => s
  | some c =>
    let s1 := if ((s.tslSeen d).waitersOf c.owned).isEmpty && ((s.die d).tsl.waitersOf c.owned).isEmpty then s else s.poisonCtx d ctx
    s1.onDie d fun x => { x with tsl := (x.tsl.destroy ctx).1 }

/-! ### Unbinding (R337) -/

/-- Every stripe part of a canvas meets the forced condition from the request to unbind it on. -/
def State.requestUnbind (s : State) (cv : CanvasId) (q : Option (FnIx × Nat)) : State :=
  s.onCanvas cv fun c => { c with unbinding := true, unbindQueue := c.unbindQueue.or q }

/-- A descriptor in progress that awaits something is done. -/
def Current.finish (k : Current) (a : Await) (c : Completion) : Current :=
  if k.await = some a then { k with await := none, done := some c } else k

/-- The descriptor at a queue's head that awaits something is done. -/
def State.finish (s : State) (q : FnIx × Nat) (a : Await) (c : Completion) : State :=
  s.onHost fun h => h.onQueue q.1 q.2 fun x =>
    { x with state := if x.state == .wait && x.cur.bind Current.await == some a then .run else x.state,
             cur := x.cur.map fun k => k.finish a c }

/-- A completion of kind 0 without a result. -/
def Completion.plain (st : Status) : Completion := { status := st, kind := 0, detail := [] }

/-- RMS_POOL_FREE shows what is left of the bundle pool of 136 MiB (Table 6.5). -/
def Die.syncPool (x : Die) : Die := x.setReg Reg.rmsPoolFree (BitVec.ofNat 32 (139_264 - x.poolUsedKib))

/-- KiB of the bundle pool that a canvas holds on a die. -/
def Canvas.poolKib (c : Canvas) (d : DieIx) : Nat := ((c.pool.filter fun e => e.1 == d).map fun e => e.2.2).sum

/-- A die shows in DET_STATUS.REPLAY whether a Replay canvas is bound on it. -/
def State.syncReplay (s : State) (ds : List DieIx) : State :=
  s.onDies ds fun d x => x.setField Reg.detStatus 3 3
    (b2n (s.canvases.any fun c => c.binding.flags.getLsbD 0 && c.dies.contains d))

/-- The pool, DRAM and credit pools that a canvas's placement holds are freed on every die of its instance. -/
def State.releasePlaces (s : State) (c : Canvas) : State :=
  s.onDies c.dies fun d x =>
    let y : Die := { x with pools := x.pools.filter (fun e => e.2.canvas != some c.id),
                            dramAlloc := x.dramAlloc.filter (fun a => !(c.dramAt.contains (d, a.1))),
                            poolUsedKib := x.poolUsedKib - c.poolKib d }
    y.syncPool

/-- The barriers of a canvas and their objects are freed. -/
def State.freeBarriers (s : State) (cv : CanvasId) : State :=
  let gone := s.barriers.filter fun b => b.owner == cv
  let s1 := s.onDies s.dieList fun d x =>
    { x with tsl := x.tsl.freeObjs (gone.flatMap fun b => [b.arr[d.val], b.rel[d.val]].filter fun _ => decide (0 < b.expected[d.val])) }
  { s1 with barriers := s1.barriers.filter fun b => b.owner != cv }

/-- A save in progress ends with ST_ABORTED (R311). -/
def State.abortSave (s : State) (cv : CanvasId) : State :=
  match s.canvas cv with
  | none => s
  | some c => match c.pause with
    | .saving q _ _ => (s.onCanvas cv fun k => { k with pause := .running }).finish q (.save cv) (.plain .aborted)
    | _ => s

/-! ### Events of heads and canvases -/

/-- The canvas that a head carries. -/
def State.headCanvas (s : State) (h : DieIx) : Option Canvas :=
  s.canvases.find? fun c => c.binding.heads.any fun e => e.1 == h

/-- Bits of CMP_EVT or SCN_EVT of a head are set: their rises are posted to the event queue of the head's canvas, or of the
die where the head carries none. DESIGN CHOICE for the latter, entry 30. -/
def State.raiseHead (s : State) (h : DieIx) (evt mask : Nat) : State :=
  match s.headCanvas h with
  | none => s.raise h evt mask
  | some c =>
    let old := s.reg h evt
    let rose := BitVec.ofNat 32 mask &&& ~~~ old &&& s.reg h (evt + 4)
    let s1 := s.setReg h evt (old ||| BitVec.ofNat 32 mask)
    if rose = 0 then s1
    else s1.onHost fun x => x.postEvents c.id.func c.binding.eq
      [(0x0003, h.val, leBytes 4 evt ++ leBytes 4 rose.toNat)]

/-- A CANVAS record (Table 12.8). -/
def State.canvasEvent (s : State) (c : Canvas) (kind layer value : Nat) : State :=
  s.onHost fun h => h.postCanvas c (dieOf c.binding.head0) kind layer value

/-- The bundle layers of an unbound canvas show their absent-source fill (R337): those that did not yet enter it. -/
def State.fillUnbound (s : State) (c : Canvas) : State :=
  c.binding.heads.foldl (fun s h => c.binding.layers.foldl (fun s e =>
    let r := (s.die h.1).head.layers[(Fin.ofNat 16 e.layer : LayerIx)]
    if r.fill || r.withheld then s else (s.raiseHead h.1 Reg.cmpEvt 0x20).canvasEvent c 5 e.layer 0) s) s

/-- The unbinding takes effect: contexts are destroyed, items, streams and pools end, and Big Top, DRAM and Turnstiles are
freed. The frame store of its host sources goes with it. -/
def State.unbindNow (s : State) (cv : CanvasId) : State :=
  match s.canvas cv with
  | none => s
  | some c =>
    let busy := (c.items.any fun i => i.live) || s.dieList.any fun d => (s.die d).streams.any fun e => e.2.canvas == some cv
    let s0 := (if busy then s.poisonCanvas cv else s).fillUnbound c
    let s1 := c.dies.foldl (fun s d => s.destroyCtx d c.ctx) s0
    let s2 := (s1.onDies c.dies fun _ x =>
      let y := x.dropItems fun i => i.canvas == cv
      y.removeStreams fun _ k => k.canvas == some cv).releasePlaces c
    let s3 := s2.onDies s2.dieList fun _ x => { x with sources := x.sources.filter fun q => match q.host with
      | some (k, _) => k != cv
      | none => true }
    let pairs := if c.binding.wide then c.binding.heads.map fun e => pairDie e.1 else []
    let s4 := (s3.freeBarriers cv).onDies pairs fun _ x => x.setField Reg.scnStatus 2 2 0
    let s4 := { s4 with canvases := s4.canvases.filter fun k => k.id != cv }
    let s5 := (c.dies.foldl (fun s d => s.refill d) s4).syncReplay c.dies
    match c.unbindQueue with
    | some q => s5.finish q (.boundary cv) (.plain .ok)
    | none => s5

/-! ### Doorbells (R321, R322) -/

/-- A doorbell that names no queue of the function. -/
def HostSide.dropDoorbell (h : HostSide) (f : FnIx) : HostSide := ((h.countFn f 0x024 1).count 0x018 1).raise 0x8

/-- What an accepted doorbell does to its queue. -/
def HostSide.ring (h : HostSide) (f : FnIx) (x : Queue) (ix : Nat) : HostSide :=
  let n := x.size
  if x.state == .error then h
  else if n ≤ ix then h.queueError f x.id .badDesc
  else if x.kind == .sq then
    if (ix + n - x.head) % n < (x.tail + n - x.head) % n then h.queueError f x.id .badDesc
    else (h.onQueue f x.id fun y => { y with tail := ix }).settleAll f
  else if (x.tail + n - x.head) % n < (ix + n - x.head) % n then h.queueError f x.id .badDesc
  else (h.onQueue f x.id fun y => { y with head := ix }).settleAll f

/-- DOORBELL: a write to HST_FN_DB. A function in a reset takes none (R339); each accepted one is recorded (R298). -/
def fxDoorbell (f : FnIx) (value : Word) (s : State) : State :=
  let q := bits value 17 0
  if (s.host.fn f).ready = false then s
  else match s.host.queue f q with
    | none => s.onHost fun h => h.dropDoorbell f
    | some x =>
      if s.host.quota f ≤ q then s.onHost fun h => h.dropDoorbell f
      else (s.onHost fun h => h.ring f x (bits value 31 18)).recordDoorbell f q value

/-- HOST_READ_ERROR (R317, R322): a failed ring read puts an SQ that has entries in ERROR; a failed data read ends the
descriptor that caused it with ST_HOST_RANGE. -/
def fxHostReadError (f : FnIx) (q : Nat) (ring : Bool) (s : State) : State :=
  match s.host.queue f q with
  | none => s
  | some x =>
    if ring then
      if x.kind == .sq && x.head != x.tail && x.cur.isNone && x.state != .error && (s.host.fn f).ready then
        s.onHost fun h => h.queueError f q .hostRange
      else s
    else match x.cur with
      | some _ => s.finish (f, q) .transfer (.plain .hostRange)
      | none => s

/-! ### Completion (R323, R328, R330) -/

/-- HST_QUOTA.DISABLED of a VF: disabled, with every SQ drained (Table 12.14). -/
def HostSide.syncDisabled (h : HostSide) (f : FnIx) : HostSide :=
  let x := h.fn f
  let idle := x.queues.all fun q => q.kind != .sq || (q.cur.isNone && q.head == q.tail)
  let w := h.reg (0x100 + 4 * f.val)
  h.setReg (0x100 + 4 * f.val) (setBits w 30 30 (b2n (x.disabled && idle)))

/-- The completed descriptor leaves its SQ: its record is posted unless QUIET keeps it back, and the next may start. -/
def HostSide.complete (h : HostSide) (f : FnIx) (q : Nat) : HostSide :=
  match h.queue f q with
  | none => h
  | some x =>
    match x.cur with
    | none => h
    | some c =>
      match c.done with
      | none => h
      | some e =>
        let hd := (x.head + 1) % x.size
        let h1 := h.onQueue f q fun y => { y with head := hd, cur := none }
        let h2 := if c.quiet && e.status == .ok then h1
          else match h1.queue f x.cq with
            | none => h1
            | some cq =>
              if cq.accepts then
                (h1.append f x.cq fun ph => cqRecord c.tag q hd e.status e.kind.val 0 0 e.detail cq.lostFlag ph).onQueue f x.cq
                  fun y => { y with lostFlag := false }
              else h1
        (h2.settleAll f).syncDisabled f

/-- DESCRIPTOR_COMPLETION. -/
def fxDescriptorCompletion (f : FnIx) (q : Nat) (s : State) : State := s.onHost fun h => h.complete f q

/-! ### Admin rings (R320) -/

/-- A queue as it is created. -/
def Queue.fresh (id : Nat) (kind : QKind) (log2 base : Nat) (home : DieIx) (cq : Nat) (vector : Option Nat)
    (count timer : Nat) : Queue :=
  { id := id, kind := kind, state := if kind == .sq then .idle else .run, log2 := log2, base := BitVec.ofNat 64 base,
    head := 0, tail := 0, phase := true, home := home, cq := cq, vector := vector, count := count, timer := timer,
    posted := 0, firstPost := none, seq := 0, lost := 0, lostFlag := false, cur := none }

/-- Base of an admin ring whose LO register stands at an offset. -/
def HostSide.adminBase (h : HostSide) (f : FnIx) (off : Nat) : Nat :=
  bits (h.fnReg f off) 31 12 * 4096 + 2 ^ 32 * (h.fnReg f (off + 4)).toNat

/-- HST_FN_AQ_CTRL with its fields. -/
def aqCtrl (en : Bool) (vector : BitVec 11) : Word := BitVec.ofNat 32 (b2n en + 65536 * vector.toNat)

/-- AQ_ENABLE: a write of 1 to EN. With EN already 1 it stores VECTOR alone. -/
def fxAqEnable (f : FnIx) (vector : BitVec 11) (s : State) : State :=
  let h := s.host
  let ls := bits (h.fnReg f 0x010) 3 0
  let lc := bits (h.fnReg f 0x018) 3 0
  if (h.fn f).ready = false then s
  else if bit (h.fnReg f 0x020) 0 then
    s.onHost fun h => (h.setFnReg f 0x020 (aqCtrl true vector)).onQueue f 1 fun x => { x with vector := some vector.toNat }
  else if h.quota f < 2 ∨ ls < 4 ∨ 12 < ls ∨ lc < 4 ∨ 12 < lc then
    s.onHost fun h => (h.setFnReg f 0x020 (aqCtrl false vector)).onFn f fun x => { x with aqErr := true }
  else
    let sq := Queue.fresh 0 .sq ls (h.adminBase f 0x010) 0 1 none 0 0
    let cq := Queue.fresh 1 .cq lc (h.adminBase f 0x018) 0 0 (some vector.toNat) 1 0
    let mark (q : Queue) : Queue := if (h.fn f).disabled then { q with state := .disabled } else q
    s.onHost fun h => (h.setFnReg f 0x020 (aqCtrl true vector)).onFn f fun x =>
      { x with queues := [mark sq, mark cq] ++ x.queues }

/-- An admin ring that a write of 0 to EN may free. -/
def Queue.quiet (q : Queue) : Bool :=
  q.state == .error || (match q.kind with
    | .sq => q.state == .idle
    | .cq => q.state == .run && q.head == q.tail
    | .eq => false)

/-- AQ_DISABLE: a write of 0 to EN, discarded unless every other queue is FREE and the admin rings are quiet. -/
def fxAqDisable (f : FnIx) (vector : BitVec 11) (s : State) : State :=
  if (s.host.fn f).queues.all fun q => (q.id == 0 || q.id == 1) && q.quiet then
    s.onHost fun h => (h.setFnReg f 0x020 (aqCtrl false vector)).onFn f fun x => { x with queues := [], aqErr := false }
  else s

/-! ### Disabling and enabling a VF (R338) -/

/-- A descriptor in progress as its function is disabled. -/
def Current.disable (c : Current) : Current :=
  if c.done.isNone then { c with await := none, done := some (Completion.plain .funcDisabled) } else c

/-- A queue of a function that is disabled: a descriptor in progress completes with ST_FUNC_DISABLED. -/
def Queue.disable (q : Queue) : Queue :=
  { q with state := .disabled,
           cur := q.cur.map Current.disable }

/-- Waits of a function's queues leave the objects of every die. -/
def State.cancelFnWaits (s : State) (f : FnIx) : State :=
  s.onDies s.dieList fun _ x => { x with tsl := x.tsl.cancel fun q => q.iss.cls.val == 8 && q.iss.inst == f.val }

/-- Disable a VF that is not disabled. -/
def State.disableVf (s : State) (f : FnIx) : State :=
  if f.val = 0 ∨ (s.host.fn f).disabled then s
  else
    let s1 := s.onHost fun h =>
      (h.onFn f fun x => { x with disabled := true, queues := x.queues.map Queue.disable }).setReg (0x100 + 4 * f.val)
        (setBits (h.reg (0x100 + 4 * f.val)) 31 31 1)
    let s2 := ((s1.cancelFnWaits f).poisonFn f)
    let s3 := (s2.canvases.filter fun c => c.id.func == f).foldl (fun s c => (s.abortSave c.id).requestUnbind c.id none) s2
    (s3.onHost fun h => (h.syncDisabled f).postFunc f 1).raiseHost 0x2

/-- Enable a VF that is disabled: its queues return to IDLE or RUN. -/
def State.enableVf (s : State) (f : FnIx) : State :=
  if (s.host.fn f).disabled = false then s
  else s.onHost fun h =>
    let w := h.reg (0x100 + 4 * f.val)
    let h1 := (h.onFn f fun x => { x with disabled := false, queues := x.queues.map fun q => { q with state := .run } }).setReg
      (0x100 + 4 * f.val) (setBits w 31 30 0)
    (h1.settleAll f).postFunc f 2

/-- VF_DISABLE: HST_QUOTA(f).DISABLE is set. -/
def fxVfDisable (f : FnIx) (s : State) : State := s.disableVf f

/-- VF_ENABLE: HST_QUOTA(f).DISABLE is cleared. -/
def fxVfEnable (f : FnIx) (s : State) : State := s.enableVf f

/-! ### Device registers (R342) -/

/-- The sum of all quotas with that of one function replaced. -/
def HostSide.quotaSum (h : HostSide) (f : FnIx) (n : Nat) : Nat :=
  ((List.finRange 64).map fun g => if g = f then n else h.quota g).sum

/-- HST_QUOTA_WRITE: QUEUES is stored or discarded as R342 gives, and a change of DISABLE has its effect. -/
def fxHstQuotaWrite (f : FnIx) (value : Word) (s : State) : State :=
  let n := bits value 18 0
  let h := s.host
  let off := 0x100 + 4 * f.val
  let busy := (h.fn f).queues.any fun q => decide (n ≤ q.id)
  let on := f.val != 0 && (h.fn f).vfEnabled && !bit (h.reg off) 31
  let s1 := if 262144 < h.quotaSum f n ∨ busy = true ∨ on = true then s
    else s.onHost fun h => (h.setReg off (setBits (h.reg off) 18 0 n)).setReg 0x008 (BitVec.ofNat 32 (262144 - h.quotaSum f n))
  if f.val = 0 then s1
  else if bit value 31 then s1.disableVf f
  else s1.enableVf f

/-- HST_HEAD_OWNER_WRITE. -/
def fxHstHeadOwnerWrite (h : DieIx) (value : Word) (s : State) : State :=
  if (s.headCanvas h).isSome then s
  else s.onHost fun x => x.setReg (0x040 + 4 * h.val) (BitVec.ofNat 32 (bits value 5 0))

/-- HST_DIE_EQ_WRITE: VALID clears where QUEUE names no EQ of the PF. -/
def fxHstDieEqWrite (d : DieIx) (value : Word) (s : State) : State :=
  let q := bits value 17 0
  let eq := match s.host.queue 0 q with
    | some x => x.kind == .eq
    | none => false
  s.onHost fun x => x.setReg (0x020 + 4 * d.val) (BitVec.ofNat 32 (q + 2 ^ 31 * b2n (bit value 31 && eq)))

/-! ### Resets of functions (R339, R340) -/

/-- A function in a reset: nothing created, and not READY. SR-IOV and disabling are the PF's. -/
def Fn.inReset (x : Fn) (vf : Bool) : Fn :=
  { Fn.reset with ready := false, disabled := x.disabled, vfEnabled := vf && x.vfEnabled }

/-- Steps 1 to 4 of R339 for a function. -/
def State.resetFn (s : State) (f : FnIx) (vf : Bool) : State :=
  let s1 := s.onHost fun h => h.onFn f fun x => x.inReset vf
  let s2 := (s1.cancelFnWaits f).poisonFn f
  let s3 := (s2.canvases.filter fun c => c.id.func == f).foldl (fun s c => (s.abortSave c.id).requestUnbind c.id none) s2
  let s4 := s3.dieList.foldl (fun s d => match (s.die d).tsl.funcCtx f with
    | some c => s.destroyCtx d c
    | none => s) s3
  let held (d : DieIx) (a : Nat) : Bool := s4.canvases.any fun c => c.dramAt.contains (d, a)
  let s5 := s4.onDies s4.dieList fun d x => { x with dramAlloc := x.dramAlloc.filter fun a => a.2.2 != f || held d a.1 }
  s5.recordEvent 3 none (BitVec.ofNat 64 s.gsc) (leBytes 4 f.val)

/-- FUNCTION_LEVEL_RESET of a VF. -/
def fxFunctionLevelReset (f : FnIx) (s : State) : State := if f.val = 0 then s else s.resetFn f true

/-- PF_FUNCTION_LEVEL_RESET (R340): every VF, VF Enable, and the PF's own host-facing state. The PF's role session ends
with it (R395). -/
def fxPfFunctionLevelReset (_cause : PfResetCause) (s : State) : State :=
  let s1 := (List.finRange 64).foldl (fun s f => s.resetFn f false) s
  let offs := (List.range 8).map (fun d => 0x020 + 4 * d) ++ [0x00C, 0x014, 0x018]
  let s2 := s1.onHost fun h => { h with hostRegs := offs.foldl sErase h.hostRegs }
  s2.endSession .pf

/-- FUNCTION_RESET_DONE. -/
def fxFunctionResetDone (f : FnIx) (s : State) : State :=
  if (s.host.fn f).ready then s
  else (s.onHost fun h => (h.onFn f fun x => { x with ready := true }).postFunc f 0).raiseHost 0x1

/-! ### Interrupts (R334) -/

/-- MSIX_TIMER_EXPIRY: TIMER µs after the first record posted since the vector last fired for the queue. -/
def fxMsixTimerExpiry (f : FnIx) (q : Nat) (s : State) : State :=
  match s.host.queue f q with
  | none => s
  | some x =>
    match x.vector, x.firstPost with
    | some v, some t =>
      if x.timer = 0 ∨ s.gsc < t + 100 * x.timer then s
      else s.onHost fun h => (h.onQueue f q fun y => { y with posted := 0, firstPost := none }).onFn f fun z => z.fire v
    | _, _ => s

def execDoorbell (f : FnIx) (value : Word) (s : State) : Host.Outcome State Fault Refusal := .next (fxDoorbell f value s)
def execHostReadError (f : FnIx) (q : Nat) (ring : Bool) (s : State) : Host.Outcome State Fault Refusal :=
  .next (fxHostReadError f q ring s)
def execDescriptorCompletion (f : FnIx) (q : Nat) (s : State) : Host.Outcome State Fault Refusal :=
  .next (fxDescriptorCompletion f q s)
def execMsixTimerExpiry (f : FnIx) (q : Nat) (s : State) : Host.Outcome State Fault Refusal :=
  .next (fxMsixTimerExpiry f q s)
def execAqEnable (f : FnIx) (vector : BitVec 11) (s : State) : Host.Outcome State Fault Refusal :=
  .next (fxAqEnable f vector s)
def execAqDisable (f : FnIx) (vector : BitVec 11) (s : State) : Host.Outcome State Fault Refusal :=
  .next (fxAqDisable f vector s)
def execVfDisable (f : FnIx) (s : State) : Host.Outcome State Fault Refusal := .next (fxVfDisable f s)
def execVfEnable (f : FnIx) (s : State) : Host.Outcome State Fault Refusal := .next (fxVfEnable f s)
def execHstQuotaWrite (f : FnIx) (value : Word) (s : State) : Host.Outcome State Fault Refusal :=
  .next (fxHstQuotaWrite f value s)
def execHstHeadOwnerWrite (h : DieIx) (value : Word) (s : State) : Host.Outcome State Fault Refusal :=
  .next (fxHstHeadOwnerWrite h value s)
def execHstDieEqWrite (d : DieIx) (value : Word) (s : State) : Host.Outcome State Fault Refusal :=
  .next (fxHstDieEqWrite d value s)
def execFunctionLevelReset (f : FnIx) (s : State) : Host.Outcome State Fault Refusal := .next (fxFunctionLevelReset f s)
def execPfFunctionLevelReset (cause : PfResetCause) (s : State) : Host.Outcome State Fault Refusal :=
  .next (fxPfFunctionLevelReset cause s)
def execFunctionResetDone (f : FnIx) (s : State) : Host.Outcome State Fault Refusal := .next (fxFunctionResetDone f s)

end Sys2Proof.Machine
end

