-- ==== Sys2Proof/Machine/Descr.lean ====
section
/-! DEFINITION. Descriptors that need no bundle: NOP, WAIT, SIGNAL, COPY, EVICT, UNBIND, ALLOC, FREE, queues, windows and
the Turnstiles of a function (R315 to R327), and the end of a fence (R267, R268). -/

namespace Sys2Proof.Machine

/-! ### Starting a descriptor (R323 to R325, R338) -/

/-- What a descriptor comes to when it starts: it is done, or awaits something. -/
inductive DescEnd where
  | done (c : Completion)
  | await (a : Await)
deriving DecidableEq, Repr

/-- A descriptor that ends with a status and no detail. -/
def DescEnd.st (x : Status) : DescEnd := .done (.plain x)

/-- The SQ at whose head a descriptor may start: its function in no reset, an entry between head and tail, none in progress,
and an entry of its CQ to hold in reserve. -/
def HostSide.startable (h : HostSide) (d : DescHdr) : Option Queue :=
  match h.queue d.func d.sq with
  | none => none
  | some q =>
    let room := match h.queue d.func q.cq with
      | some c => decide (h.reserved d.func q.cq < c.room)
      | none => false
    if (h.fn d.func).ready && q.kind == .sq && q.cur.isNone && q.head != q.tail && (q.state == .run || q.state == .disabled) && room
    then some q else none

/-- The detail of an admission or binding that fails before any check of Table 6.4: OP reads 0xFFFF (Table 12.7). -/
def failDetail (kind : Fin 3) : List Byte := if kind = 0 then [] else leBytes 2 0 ++ leBytes 2 0xFFFF

/-- The descriptor in progress of an SQ is set. -/
def HostSide.begin_ (h : HostSide) (d : DescHdr) (e : DescEnd) : HostSide :=
  h.onQueue d.func d.sq fun q =>
    let c : Current := match e with
      | .done c => { tag := d.tag, quiet := d.quiet, await := none, done := some c }
      | .await a => { tag := d.tag, quiet := d.quiet, await := some a, done := none }
    { q with cur := some c }

/-- A descriptor: turned away where it cannot start; ended with ST_FUNC_DISABLED or ST_BAD_DESC; else carried out by `act`.
`admin` says that its opcode is for queue 0 alone, `ok` that its fields lie in their ranges. -/
def State.descriptor (s : State) (d : DescHdr) (kind : Fin 3) (admin ok : Bool) (act : State → Queue → State × DescEnd) :
    State :=
  match s.host.startable d with
  | none => s
  | some q =>
    let fail (st : Status) : State := s.onHost fun h => h.begin_ d (.done { status := st, kind := kind, detail := failDetail kind })
    if q.state = .disabled then fail .funcDisabled
    else if d.resv ∨ ok = false ∨ (admin = true ∧ d.sq ≠ 0) then fail .badDesc
    else
      let (t, e) := act s q
      t.onHost fun h => h.begin_ d e

/-- A descriptor whose effect is a status, or a change of the state. -/
def State.simple (s : State) (d : DescHdr) (admin ok : Bool) (act : State → Queue → Except Status State) : State :=
  s.descriptor d 0 admin ok fun t q => match act t q with
    | .error st => (t, .st st)
    | .ok t => (t, .st .ok)

/-- NOP: it completes at once. -/
def fxNop (h : DescHdr) (s : State) : State :=
  match s.host.startable h with
  | none => s
  | some _ => (s.descriptor h 0 false true fun t _ => (t, .st .ok)).onHost fun x => x.complete h.func h.sq

/-! ### Turnstile operations of queues (R260, R263, R268) -/

/-- The Turnstile that a function's virtual number names on a die. -/
def State.fnTsl (s : State) (f : FnIx) (d : DieIx) (v : BitVec 12) : Option (Fin 256 × Nat) :=
  match (s.die d).tsl.funcCtx f with
  | none => none
  | some c => ((s.die d).tsl.translate c v 0).map fun n => (Fin.ofNat 256 c, n)

/-- A queue as an issuer (class 8), with no op and no stripe step. -/
def queueReq (d : DescHdr) (home : DieIx) (op : TslOp) : TslReq :=
  { iss := { cls := 8, die := home, inst := d.func.val, queue := d.sq }, op := op, opIx := 0xFFFF, step := 0, seq := 0 }

/-- WAIT: the SQ waits on its home die until the wait is satisfied or released. -/
def fxWait (h : DescHdr) (tsl : BitVec 16) (kind : Byte) (n : Word) (s : State) : State :=
  let v : BitVec 12 := tsl.setWidth 12
  match s.host.startable h with
  | none => s
  | some q =>
    let op : TslOp := if kind = 0 then .waitGe n.toNat else .waitSub n.toNat
    let s1 := s.descriptor h 0 false (decide (tsl.toNat ≤ 4095) && decide (kind.toNat ≤ 1)) fun t _ =>
      if tslMax < n.toNat then (t, .st .opFormat)
      else match t.fnTsl h.func q.home v with
        | none => (t, .st .notOwner)
        | some _ => (t.onHost fun x => x.onQueue h.func h.sq fun y => { y with state := .wait }, .await (.turnstile q.home))
    match (s1.host.queue h.func h.sq).bind Queue.cur, s1.fnTsl h.func q.home v with
    | some c, some (ctx, _) =>
      if c.await = some (.turnstile q.home) then s1.tslDo q.home (.virt ctx v) (queueReq h q.home op) [] else s1
    | _, _ => s1

/-- A SIGNAL's operation leaves its queue: to its home die at once, to another die over Gaide (R265). -/
def State.sendSignal (s : State) (h : DescHdr) (home die : DieIx) (v : BitVec 12) (op : TslOp) : State :=
  match s.fnTsl h.func die v with
  | none => s.finish (h.func, h.sq) (.turnstile die) (.plain .notOwner)
  | some (ctx, _) =>
    if die = home then s.tslDo die (.virt ctx v) (queueReq h home op) []
    else s.sendGaide [{ src := home, dst := die, ref := .virt ctx v, req := queueReq h home op }]

/-- ADD or SUB of a SIGNAL. -/
def signalOp (sub : Bool) (v : Nat) : TslOp := if sub then .sub v else .add v

/-- SIGNAL: completes when the operation takes effect on DIE. With FENCE it first awaits the writes of its SQ. -/
def fxSignal (h : DescHdr) (tsl : BitVec 16) (act die : Byte) (v : Word) (s : State) : State :=
  let virt : BitVec 12 := tsl.setWidth 12
  let d := dieOf die.toNat
  let sub := act == 1
  match s.host.startable h with
  | none => s
  | some q =>
    let ok := decide (tsl.toNat ≤ 4095) && decide (act.toNat ≤ 1) && decide (die.toNat < s.nDies)
    let s1 := s.descriptor h 0 false ok fun t _ =>
      if v.toNat = 0 ∨ tslMax < v.toNat then (t, .st .opFormat)
      else match t.fnTsl h.func d virt with
        | none => (t, .st .notOwner)
        | some _ => (t, .await (if h.fence then .fence d virt sub v.toNat else .turnstile d))
    match (s1.host.queue h.func h.sq).bind Queue.cur with
    | some c => if c.await = some (.turnstile d) then s1.sendSignal h q.home d virt (signalOp sub v.toNat) else s1
    | none => s1

/-- FENCE_COMPLETE (R267): every earlier write of the issuer is visible. A stream's SIG adds; a queue's SIGNAL takes effect.
An engine's row signal has its fence in the step that signals the row. -/
def fxFenceComplete (iss : Issuer) (s : State) : State :=
  if iss.cls.val = 5 then s.sigAdd (issuerStream iss)
  else if iss.cls.val = 8 then
    let f : FnIx := Fin.ofNat 64 iss.inst
    match s.host.queue f iss.queue with
    | none => s
    | some q =>
      match q.cur.bind Current.await with
      | some (.fence d virt sub v) =>
        let h : DescHdr := { func := f, sq := iss.queue, tag := 0, fence := true, quiet := false, resv := false }
        let s1 := s.onHost fun x => x.onQueue f iss.queue fun y =>
          { y with cur := y.cur.map fun c => { c with await := some (.turnstile d) } }
        s1.sendSignal h q.home d virt (signalOp sub v)
      | _ => s
  else s

/-! ### Memory (R325, R326) -/

/-- A range lies inside one allocation of a function on a die. -/
def Die.allocated (x : Die) (f : FnIx) (addr len : Nat) : Bool :=
  x.dramAlloc.any fun a => a.2.2 == f && decide (a.1 ≤ addr) && decide (addr + len ≤ a.1 + a.2.1)

/-- Access units that a range touches. -/
def unitsOf (addr len : Nat) : List Nat :=
  (List.range (ceilDiv (addr + len) 128 - addr / 128)).map fun i => addr / 128 + i

/-- Bytes written to DRAM by a host queue: a unit written whole loses its mark of poison. -/
def Die.copyIn (x : Die) (addr : Nat) (bs : List Byte) : Die :=
  { (x.writeDram addr bs) with
      dramPoison := x.dramPoison.filter fun u => !(decide (addr ≤ 128 * u) && decide (128 * u + 128 ≤ addr + bs.length)) }

/-- COPY: checks in the order ST_BAD_DESC, ST_HOST_RANGE, ST_NOT_OWNER; poisoned DRAM ends it with ST_ABORTED, nothing
written. Data that the host has not answered yet keeps it in progress. -/
def fxCopy (h : DescHdr) (host dev : Dword) (die dir : Byte) (len : Word) (data : List Byte) (s : State) : State :=
  let d := dieOf die.toNat
  let n := len.toNat
  let a := dev.toNat
  s.descriptor h 0 false (decide (die.toNat < s.nDies) && decide (dir.toNat ≤ 1) && n % 64 == 0) fun t _ =>
    if t.host.inWindow h.func host.toNat n = false then (t, .st .hostRange)
    else if (t.die d).allocated h.func a n = false then (t, .st .notOwner)
    else if dir = 0 then
      if data.length = n then (t.onDie d fun x => x.copyIn a data, .st .ok) else (t, .await .transfer)
    else if (unitsOf a n).any fun u => (t.die d).dramPoison.contains u then (t, .st .aborted)
    else (t.writeHost host.toNat ((t.die d).readDram a n), .st .ok)

/-- Dies that a mask names. -/
def maskDies (m : Byte) : List DieIx := (List.finRange 8).filter fun d => m.getLsbD d.val

/-- A mask names at least one die, and only dies that the part has. -/
def State.maskOk (s : State) (m : Byte) : Bool := m != 0 && (maskDies m).all s.present

/-- Bytes of DRAM of a die outside every allocation, bundle copy and frame store (R57, R335). -/
def State.dramFree (s : State) (d : DieIx) : Nat :=
  let alloc := ((s.die d).dramAlloc.map fun a => a.2.1).sum
  let copies := ((s.fns.toList.flatMap Fn.bundles).map fun b => b.image.length).sum
  let stores := ((s.canvases.flatMap fun c => c.binding.sources.filter fun e => e.die == d.val).map storeBytes).sum
  s.straps.dramGib * 2 ^ 30 - (alloc + copies + stores)

/-- Whether a range is free of allocations on a die and lies in its DRAM. -/
def State.rangeFree (s : State) (addr len : Nat) (d : DieIx) : Bool :=
  decide (addr + len ≤ s.straps.dramGib * 2 ^ 30) &&
    (s.die d).dramAlloc.all fun a => decide (addr + len ≤ a.1) || decide (a.1 + a.2.1 ≤ addr)

/-- The lowest 64 KiB-aligned address at which a range is free on every die of a list. DESIGN CHOICE, entry 8: the manual
does not say which address is taken. -/
def State.allocAt (s : State) (ds : List DieIx) (len : Nat) : Option Nat :=
  if ds.any fun d => decide (s.dramFree d < len) then none
  else
    let cand := 0 :: ds.flatMap fun d => (s.die d).dramAlloc.map fun a => ceilDiv (a.1 + a.2.1) 65536 * 65536
    ((sortBy (fun x y => decide (x < y)) cand).find? fun a => ds.all (s.rangeFree a len))

/-- ALLOC: one die-local address on every die of the mask, returned in RESULT. -/
def fxAlloc (h : DescHdr) (dies : Byte) (len : Dword) (s : State) : State :=
  let n := len.toNat
  s.descriptor h 0 true (s.maskOk dies && n % 65536 == 0 && n != 0) fun t _ =>
    match t.allocAt (maskDies dies) n with
    | none => (t, .st .noResource)
    | some a => (t.onDies (maskDies dies) fun _ x => { x with dramAlloc := x.dramAlloc ++ [(a, n, h.func)] },
        .done { status := .ok, kind := 0, detail := leBytes 8 a })

/-- Whether a region of a die is named by a binding or by a pending save. -/
def State.regionUsed (s : State) (d : DieIx) (addr len : Nat) : Bool :=
  s.canvases.any fun c => c.dies.contains d && ((c.dramAt.any fun e => e.1 == d && e.2 == addr) || match c.pause with
    | .saving _ a _ => decide (addr ≤ a.toNat) && decide (a.toNat < addr + len)
    | .saved v => !v.discarded && decide (addr ≤ v.addr.toNat) && decide (v.addr.toNat < addr + len)
    | .running => false
    | .resuming _ => false)

/-- FREE. -/
def fxFree (h : DescHdr) (dies : Byte) (addr : Dword) (s : State) : State :=
  let a := addr.toNat
  s.simple h true (s.maskOk dies) fun t _ =>
    let find (d : DieIx) : Option (Nat × Nat × FnIx) := (t.die d).dramAlloc.find? fun e => e.1 == a && e.2.2 == h.func
    if (maskDies dies).any fun d => (find d).isNone then .error .notOwner
    else if (maskDies dies).any fun d => (find d).any fun e => t.regionUsed d e.1 e.2.1 then .error .inUse
    else .ok (t.onDies (maskDies dies) fun _ x => { x with dramAlloc := x.dramAlloc.filter fun e => !(e.1 == a && e.2.2 == h.func) })

/-- EVICT. -/
def fxEvict (h : DescHdr) (handle : BitVec 16) (s : State) : State :=
  let n := handle.toNat
  s.simple h true true fun t _ =>
    if (t.host.fn h.func).bundles.all fun b => b.handle != n then .error .notOwner
    else if t.canvases.any fun c => c.id.func == h.func && c.binding.bundle == n then .error .inUse
    else .ok (t.onHost fun x => x.onFn h.func fun y => { y with bundles := y.bundles.filter fun b => b.handle != n })

/-- Whether a canvas has a frame boundary to come: its lowest head runs a raster, or frames of its replay are left. -/
def State.hasBoundary (s : State) (c : Canvas) : Bool :=
  if c.binding.flags.getLsbD 0 then !c.replay.isEmpty else (s.die (dieOf c.binding.head0)).head.running

/-- UNBIND: at the canvas's next frame boundary, or at once where none is to come (DESIGN CHOICE, entry 24). -/
def fxUnbind (h : DescHdr) (canvas : BitVec 16) (s : State) : State :=
  let cv : CanvasId := { func := h.func, handle := canvas.toNat }
  let s1 := s.descriptor h 0 true true fun t _ =>
    match t.canvas cv with
    | none => (t, .st .notOwner)
    | some _ => (t.requestUnbind cv (some (h.func, h.sq)), .await (.boundary cv))
  match s.host.startable h, (s1.host.queue h.func h.sq).bind Queue.cur, s1.canvas cv with
  | some _, some k, some c => if k.await = some (.boundary cv) ∧ s1.hasBoundary c = false then s1.unbindNow cv else s1
  | _, _, _ => s1

/-! ### Queues and windows (R316, R327) -/

/-- Kind of a queue as CREATE_Q codes it. -/
def qKindOf (k : Byte) : QKind := if k = 0 then .sq else if k = 1 then .cq else .eq

/-- CREATE_Q: ST_BAD_DESC, then ST_HOST_RANGE, ST_NOT_OWNER and ST_IN_USE. -/
def fxCreateQ (h : DescHdr) (queue : Word) (kind log2 home : Byte) (base : Dword) (cq : Word) (vector : BitVec 16)
    (count : Byte) (timer : BitVec 16) (s : State) : State :=
  let q := queue.toNat
  let sq := kind == 0
  let cqOk := match s.host.queue h.func cq.toNat with
    | some x => x.kind == .cq
    | none => false
  let ok := decide (2 ≤ q) && decide (kind.toNat ≤ 2) && decide (4 ≤ log2.toNat) && decide (log2.toNat ≤ 14) &&
    base.toNat % 4096 == 0 && (if sq then decide (home.toNat < s.nDies) && cqOk
      else decide (vector.toNat ≤ 2047) || vector == 0xFFFF)
  let v := if sq || vector == 0xFFFF then none else some vector.toNat
  s.simple h true ok fun t _ =>
    if t.host.inWindow h.func base.toNat (64 * 2 ^ log2.toNat) = false then .error .hostRange
    else if t.host.quota h.func ≤ q then .error .notOwner
    else if (t.host.queue h.func q).isSome then .error .inUse
    else
      let x := Queue.fresh q (qKindOf kind) log2.toNat base.toNat (if sq then dieOf home.toNat else 0) (if sq then cq.toNat else 0) v
        count.toNat timer.toNat
      .ok (t.onHost fun g => g.onFn h.func fun y => { y with queues := y.queues ++ [x] })

/-- Whether a queue is still named: a CQ by an SQ, an EQ by a binding or by HST_DIE_EQ (R326). -/
def State.queueNamed (s : State) (f : FnIx) (q : Queue) : Bool :=
  match q.kind with
  | .sq => false
  | .cq => (s.host.fn f).queues.any fun x => x.kind == .sq && x.cq == q.id
  | .eq => (s.canvases.any fun c => c.id.func == f && c.binding.eq == q.id) ||
      (f == 0 && (List.finRange 8).any fun d => s.host.dieEq d == some q.id)

/-- DELETE_Q: the descriptor in progress of an SQ completes with ST_ABORTED, its wait cancelled, and those not started are
dropped and counted in RESULT. -/
def fxDeleteQ (h : DescHdr) (queue : Word) (s : State) : State :=
  let n := queue.toNat
  s.descriptor h 0 true (decide (2 ≤ n)) fun t _ =>
    match t.host.queue h.func n with
    | none => (t, .st .notOwner)
    | some q =>
      if t.queueNamed h.func q then (t, .st .inUse)
      else
        let abort (c : Current) : Current := { c with await := none, done := c.done.or (some (.plain .aborted)) }
        let t1 := t.onDies t.dieList fun _ x =>
          { x with tsl := x.tsl.cancel fun r => r.iss.cls.val == 8 && r.iss.inst == h.func.val && r.iss.queue == n }
        let t2 := t1.onHost fun g => ((g.onQueue h.func n fun y => { y with cur := y.cur.map abort }).complete h.func n).onFn h.func
          fun y => { y with queues := y.queues.filter fun x => x.id != n }
        let dropped := q.used - b2n q.cur.isSome
        (t2, .done { status := .ok, kind := 0, detail := leBytes 8 (if q.kind == .sq then dropped else 0) })

/-- WINDOW: LIMIT 0 clears it. -/
def fxWindow (h : DescHdr) (index : Byte) (base limit : Dword) (s : State) : State :=
  s.simple h true (decide (index.toNat ≤ 15) && base.toNat % 4096 == 0 && limit.toNat % 4096 == 0) fun t _ =>
    .ok (t.onHost fun g => g.onFn h.func fun y =>
      { y with windows := y.windows.setIfInBounds index.toNat (if limit = 0 then none else some (base, limit)) })

/-! ### Turnstiles of a function (R269, R277, R327) -/

/-- The memory of a die with a function's context, created on the lowest free number where it has none. -/
def Tsl.withFuncCtx (t : Tsl) (f : FnIx) : Option (Tsl × Nat) :=
  match t.funcCtx f with
  | some c => some (t, c)
  | none => (lowestFree 1 255 (t.ctxs.map Prod.fst)).map fun c =>
      ({ t with ctxs := sInsert t.ctxs c { owner := .func f, table := [] } }, c)

/-- TSL_CREATE. -/
def fxTslCreate (h : DescHdr) (die : Byte) (virt : BitVec 16) (value : Word) (s : State) : State :=
  let d := dieOf die.toNat
  let v : BitVec 12 := virt.setWidth 12
  s.simple h true (decide (die.toNat < s.nDies) && decide (virt.toNat ≤ 4095) && decide (value.toNat ≤ tslMax)) fun t _ =>
    let m := (t.die d).tsl
    match (m.funcCtx h.func).bind fun c => (m.ctx c).bind fun x => x.entry v with
    | some _ => .error .inUse
    | none =>
      match (m.withFuncCtx h.func).bind fun e => e.1.map e.2 v false value.toNat with
      | none => .error .placement
      | some m1 => .ok (t.onDie d fun x => { x with tsl := m1 })

/-- An object of a function's context is freed: its waiters are released with ST_POISONED, and the context goes with its last
object (R277). -/
def State.freeTsl (s : State) (d : DieIx) (c : Nat) (v : BitVec 12) (e : TslEntry) : State :=
  -- the last object of a context takes the context with it, which its waiters poison (R273)
  let last := ((s.die d).tsl.ctx c).any fun x => x.table.all fun k => k.1 == v
  let s := if last && !((s.die d).tsl.waitersOf e.owns).isEmpty then s.poisonCtx d c else s
  let t := (s.die d).tsl
  let ws := t.waitersOf e.owns
  let t1 := t.freeObjs e.owns
  let t2 := match t1.ctx c with
    | none => t1
    | some x =>
      let tab := x.table.filter fun k => k.1 != v
      { t1 with ctxs := if tab.isEmpty then sErase t1.ctxs c else sInsert t1.ctxs c { x with table := tab } }
  ws.foldl (fun s q => s.failIssuer none q .poisoned) (s.onDie d fun x => { x with tsl := t2 })

/-- TSL_DESTROY. -/
def fxTslDestroy (h : DescHdr) (die : Byte) (virt : BitVec 16) (s : State) : State :=
  let d := dieOf die.toNat
  let v : BitVec 12 := virt.setWidth 12
  s.simple h true (decide (die.toNat < s.nDies) && decide (virt.toNat ≤ 4095)) fun t _ =>
    let m := (t.die d).tsl
    match m.funcCtx h.func with
    | none => .error .notOwner
    | some c => match (m.ctx c).bind fun x => x.entry v with
      | none => .error .notOwner
      | some e => .ok (t.freeTsl d c v e)

/-- CTX_DESTROY: refused on a die where a bound instance imports from the context; dies without one are passed over. -/
def fxCtxDestroy (h : DescHdr) (dies : Byte) (s : State) : State :=
  s.simple h true ((maskDies dies).all s.present) fun t _ =>
    let named (d : DieIx) : Bool := ((t.die d).tsl.funcCtx h.func).isSome &&
      t.canvases.any fun c => c.id.func == h.func && c.importsOn d
    if (maskDies dies).any named then .error .inUse
    else .ok ((maskDies dies).foldl (fun t d => match (t.die d).tsl.funcCtx h.func with
      | some c => t.destroyCtx d c
      | none => t) t)

def execNop (h : DescHdr) (s : State) : Host.Outcome State Fault Refusal := .next (fxNop h s)
def execWait (h : DescHdr) (tsl : BitVec 16) (kind : Byte) (n : Word) (s : State) : Host.Outcome State Fault Refusal :=
  .next (fxWait h tsl kind n s)
def execSignal (h : DescHdr) (tsl : BitVec 16) (act die : Byte) (v : Word) (s : State) :
    Host.Outcome State Fault Refusal := .next (fxSignal h tsl act die v s)
def execFenceComplete (iss : Issuer) (s : State) : Host.Outcome State Fault Refusal := .next (fxFenceComplete iss s)
def execCopy (h : DescHdr) (host dev : Dword) (die dir : Byte) (len : Word) (data : List Byte) (s : State) :
    Host.Outcome State Fault Refusal := .next (fxCopy h host dev die dir len data s)
def execAlloc (h : DescHdr) (dies : Byte) (len : Dword) (s : State) : Host.Outcome State Fault Refusal :=
  .next (fxAlloc h dies len s)
def execFree (h : DescHdr) (dies : Byte) (addr : Dword) (s : State) : Host.Outcome State Fault Refusal :=
  .next (fxFree h dies addr s)
def execEvict (h : DescHdr) (handle : BitVec 16) (s : State) : Host.Outcome State Fault Refusal :=
  .next (fxEvict h handle s)
def execUnbind (h : DescHdr) (canvas : BitVec 16) (s : State) : Host.Outcome State Fault Refusal :=
  .next (fxUnbind h canvas s)
def execCreateQ (h : DescHdr) (queue : Word) (kind log2 home : Byte) (base : Dword) (cq : Word) (vector : BitVec 16)
    (count : Byte) (timer : BitVec 16) (s : State) : Host.Outcome State Fault Refusal :=
  .next (fxCreateQ h queue kind log2 home base cq vector count timer s)
def execDeleteQ (h : DescHdr) (queue : Word) (s : State) : Host.Outcome State Fault Refusal := .next (fxDeleteQ h queue s)
def execWindow (h : DescHdr) (index : Byte) (base limit : Dword) (s : State) : Host.Outcome State Fault Refusal :=
  .next (fxWindow h index base limit s)
def execTslCreate (h : DescHdr) (die : Byte) (virt : BitVec 16) (value : Word) (s : State) :
    Host.Outcome State Fault Refusal := .next (fxTslCreate h die virt value s)
def execTslDestroy (h : DescHdr) (die : Byte) (virt : BitVec 16) (s : State) : Host.Outcome State Fault Refusal :=
  .next (fxTslDestroy h die virt s)
def execCtxDestroy (h : DescHdr) (dies : Byte) (s : State) : Host.Outcome State Fault Refusal :=
  .next (fxCtxDestroy h dies s)

end Sys2Proof.Machine
end

