-- ==== Sys2Proof/Machine/Pixel.lean ====
section
/-! DEFINITION. Samples of pictures: where Table 9.2 puts them, their composition values, and the polyphase filter
(R229 to R233, R242, R349). -/

namespace Sys2Proof.Machine

/-! ### Where a sample lies (Table 9.2) -/

/-- A sample in a plane row: plane, byte offset, container bytes, low bit and bits. -/
structure SampleLoc where
  plane : Nat
  off : Nat
  bytes : Nat
  lo : Nat
  bits : Nat
deriving DecidableEq, Repr

/-- Where component k of column x of its plane lies, in format p. -/
def sampleLoc (p k x : Nat) : SampleLoc :=
  let z := if pixDepth p = 8 then 1 else 2
  let lo := if z = 2 then 6 else 0
  if p = 10 then ⟨0, 3 * x + k, 1, 0, 8⟩
  else if p = 11 then ⟨0, 4 * x, 4, 10 * k, 10⟩
  else if p = 12 then ⟨0, 6 * x + 2 * k, 2, 4, 12⟩
  else if 13 ≤ p then ⟨0, 8 * x + 2 * k, 2, 0, 16⟩
  else if k = 0 then ⟨0, z * x, z, lo, pixDepth p⟩
  else if p % 4 < 2 ∧ p < 8 then ⟨1, z * (2 * x + (k - 1)), z, lo, pixDepth p⟩
  else ⟨k, z * x, z, lo, pixDepth p⟩

/-- Planes of a format. -/
def pixPlanes (p : Nat) : Nat := if 10 ≤ p then 1 else if p % 4 < 2 ∧ p < 8 then 2 else 3

/-- Bytes of one row of a plane of a picture w columns wide. -/
def planeRowBytes (p plane w : Nat) : Nat :=
  let z := if pixDepth p = 8 then 1 else 2
  let cw := ceilDiv w (pixSub p).1
  if p = 10 then 3 * w else if p = 11 then 4 * w else if p = 12 then 6 * w else if 13 ≤ p then 8 * w
  else if plane = 0 then z * w else if pixPlanes p = 2 then 2 * z * cw else z * cw

/-- Rows of a plane of a picture h lines tall. -/
def planeRows (p plane h : Nat) : Nat := if plane = 0 then h else ceilDiv h (pixSub p).2

/-- Components of a format: 4 with alpha. -/
def pixComps (p : Nat) : Nat := if p = 13 then 4 else 3

/-- The sample that a container holds. -/
def SampleLoc.get (l : SampleLoc) (container : Nat) : Nat := container / 2 ^ l.lo % 2 ^ l.bits

/-- Offset of a plane in a picture whose planes share a pitch (R229). -/
def planeOffset (p plane pitch h : Nat) : Nat :=
  if plane = 0 then 0 else pitch * h + (plane - 1) * pitch * planeRows p 1 h

/-! ### Composition values (R231, R242, R250) -/

/-- Normalisation of an integer sample of depth d (R231, step 1). -/
def norm16 (d s : Nat) : Nat := (s * 2 ^ (16 - d) + s / 2 ^ (2 * d - 16)) % 65536

/-- round-half-even(x × m) of a value clamped to [0, 1], NaN taken as 0. -/
def unitTimes (v : Num) (m : Nat) : Nat :=
  match v with
  | .nan => 0
  | .inf neg => if neg then 0 else m
  | .fin neg num den => if neg then 0 else if den ≤ num then m else roundGrid .even (num * m) den

/-- An FP16 component as U16 without an encode table (R250, R349). -/
def half16 (raw : Nat) : Nat := unitTimes (decodeNum .fp16 raw) 65535

/-- A raw sample as the U16 value that the Resampler and the comparator take. -/
def sample16 (p raw : Nat) : Nat := if p = 13 then half16 raw else norm16 (pixDepth p) raw

/-- A U16 value as an integer sample of depth d (R242). -/
def toDepth (d x : Nat) : Nat := if 16 ≤ d then x else min ((x + 2 ^ (15 - d)) / 2 ^ (16 - d)) (2 ^ d - 1)

/-- A U16 value over 65,535, rounded half-even to FP16. -/
def toHalf (x : Nat) : Nat :=
  let (q, u) := roundFloat .fp16 .even x 65535
  (encodeFloat .fp16 false q u).1

/-- A U16 value as a raw sample of a format. -/
def raw16 (p x : Nat) : Nat := if p = 13 then toHalf x else toDepth (pixDepth p) x

/-- The luma value of R349 from three components in U16. -/
def lumaOf (p c0 c1 c2 : Nat) : Nat :=
  if pixIsYuv p then c0 else (19595 * c0 + 38470 * c1 + 7471 * c2 + 32768) / 65536

/-! ### Scaling (R232, R233) -/

/-- tap_pos of R232; `half` takes 32 from p (R249). -/
def tapPos (o d0 : Int) (dw s0 sw : Nat) (half : Bool) : Int × Nat :=
  let num : Int := (2 * (o - d0) + 1) * sw - dw
  let p : Int := floorDiv (num * 64) (2 * dw) - (if half then 32 else 0)
  ((s0 : Int) + floorDiv p 64, (p % 64).toNat)

/-- A coefficient of R233: what a set holds, by phase and tap. -/
abbrev Coefs := Nat → Nat → Int

/-- The bilinear filter that every set holds at reset. -/
def coefBilinear : Coefs := fun phase tap =>
  if tap = 3 then 256 - 4 * (phase : Int) else if tap = 4 then 4 * (phase : Int) else 0

/-- The reset content of a coefficient entry, 10 bits in two's complement. -/
def coefReset (i : Nat) : Word := BitVec.ofNat 32 (bitsOfInt 10 (coefBilinear (i / 8 % 64) (i % 8)))

/-- A coefficient set of a store. -/
def coefSet (m : SMap Word) (set : Nat) : Coefs := fun phase tap =>
  signedOf 10 (sGet coefReset m (set * 512 + phase * 8 + tap)).toNat

/-- One axis of the filter of R232 at output coordinate o: copied where the sizes are equal and no field is shifted. -/
def filterAxis (c : Coefs) (o d0 : Int) (dw s0 sw : Nat) (half : Bool) (x : Nat → Nat) : Nat :=
  let clampSrc (i : Int) : Nat := (clampInt s0 ((s0 + sw : Nat) - 1 : Int) i).toNat
  if dw = sw ∧ half = false then x (clampSrc (s0 + (o - d0)))
  else
    let (base, phase) := tapPos o d0 dw s0 sw half
    let acc := (List.range 8).foldl (fun (a : Int) k => a + c phase k * (x (clampSrc (base - 3 + k)) : Int)) 0
    (clampInt 0 65535 (floorDiv (acc + 128) 256)).toNat

/-- The encode table at reset (R231). -/
def lutReset (i : Nat) : Word := BitVec.ofNat 32 (min (64 * i) 65535)

/-- An RGB component in FP16 through an encode table (R231, step 4). -/
def encodeHalf (lut : SMap Word) (raw : Nat) : Nat :=
  let p := unitTimes (decodeNum .fp16 raw) (2 ^ 20)
  let i := p / 1024
  let f := p % 1024
  let e (i : Nat) : Nat := (sGet lutReset lut i).toNat
  (e i * (1024 - f) + e (min (i + 1) 1024) * f + 512) / 1024

/-- A picture as its samples are read: format, luma size, and raw samples by component, row and column of its plane. -/
structure View where
  p : Nat
  w : Nat
  h : Nat
  raw : Nat → Nat → Nat → Nat

/-- Chroma upsampling, vertical and horizontal, and normalisation (R231, steps 1 to 4): component k at luma (y, x), indices
clamped to the plane. -/
def View.comp16 (v : View) (lut : SMap Word) (k y x : Nat) : Nat :=
  let (ph, pw) := planeSize v.p k v.h v.w
  let c (y x : Int) : Nat :=
    let r := v.raw k (clampIx ph y) (clampIx pw x)
    if v.p = 13 then (if k = 3 then half16 r else encodeHalf lut r) else norm16 (pixDepth v.p) r
  if v.p = 13 ∨ k = 0 ∨ 8 ≤ v.p then (if k = 3 ∧ v.p ≠ 13 then 65535 else c y x)
  else
    let y2 : Int := (y / 2 : Nat)
    let up (x : Int) : Nat :=
      if v.p < 4 then
        let (near, far) : Int × Int := if y % 2 = 0 then (y2, y2 - 1) else (y2, y2 + 1)
        (3 * c near x + c far x + 2) / 4
      else c y x
    let x2 : Int := (x / 2 : Nat)
    if k = 3 then 65535 else if x % 2 = 0 then up x2 else (up x2 + up (x2 + 1) + 1) / 2

end Sys2Proof.Machine
end

