-- ==== Sys2Proof/Machine/Resample.lean ====
section
/-! DEFINITION. Source frames as pictures and their guard, and the temporal and spatial stages of the Resampler (R29, R66,
R232, R249, R250, R361). -/

namespace Sys2Proof.Machine

/-! ### Source frames -/

/-- A line of a source frame, where it was captured. -/
def SrcFrame.line (f : SrcFrame) (n : Nat) : Option SrcLine := (f.lines.find? fun e => e.1 == n).map Prod.snd

/-- Bytes of a captured line before a plane: line n carries luma row n and, where n is a multiple of the vertical
subsampling, the chroma rows beside it. DESIGN CHOICE, entry 25. -/
def linePlaneOff (p w plane : Nat) : Nat := ((List.range plane).map fun q => planeRowBytes p q w).sum

/-- The captured line that holds row y of a component. -/
def lineOfRow (p k y : Nat) : Nat := if k = 0 ∨ pixIsYuv p = false then y else y * (pixSub p).2

/-- A raw sample of a source frame; 0 where the line was not captured. -/
def SrcFrame.raw (f : SrcFrame) (k y x : Nat) : Nat :=
  let p := f.form.pixfmt.val
  let l := sampleLoc p k x
  match f.line (lineOfRow p k y) with
  | none => 0
  | some s => l.get (leAt s.bytes (linePlaneOff p f.form.width l.plane + l.off) l.bytes)

/-- A source frame as a picture. -/
def SrcFrame.view (f : SrcFrame) : View := { p := f.form.pixfmt.val, w := f.form.width, h := f.form.height, raw := f.raw }

/-- A bottom field, whose vertical tap positions R249 shifts. -/
def SrcFrame.bottom (f : SrcFrame) : Bool := f.form.interlaced && f.form.bottomField

/-- The guard of a source line as the Resampler checks it (Table 13.6): CRC, frame counter and timestamp. -/
def SrcFrame.lineGood (f : SrcFrame) (l : SrcLine) : Bool :=
  crc32c l.bytes == l.crc && l.counter == f.counter.setWidth 32 && l.ts == f.ts

/-! ### The temporal stage (R250) -/

/-- A U16 sample of a component, indices clamped to its plane. -/
def View.at16 (v : View) (k : Nat) (y x : Int) : Nat :=
  let (h, w) := planeSize v.p k v.h v.w
  if k = 3 ∧ v.p ≠ 13 then 65535 else sample16 v.p (v.raw k (clampIx h y) (clampIx w x))

/-- A U16 sample at a displacement in quarter pels, with the weights of R213. -/
def View.quarter16 (v : View) (k : Nat) (y x oy ox : Int) : Int :=
  let (x0, ax) := quarterPos x ox
  let (y0, ay) := quarterPos y oy
  let s (j i : Int) : Int := (v.at16 k (y0 + j) (x0 + i) : Int)
  ((((4 - ax) * (4 - ay) : Nat) : Int) * s 0 0 + ((ax * (4 - ay) : Nat) : Int) * s 0 1 +
    (((4 - ax) * ay : Nat) : Int) * s 1 0 + ((ax * ay : Nat) : Int) * s 1 1 + 8) / 16

/-- Luma as the firmware's MOTION op takes it: raw Y samples; for RGB a free value, entry 31. -/
def View.motionPlane (v : View) : Plane :=
  { h := v.h, w := v.w, at_ := fun y x =>
      let r (k : Nat) : Nat := v.raw k (clampIx v.h y) (clampIx v.w x)
      if pixIsYuv v.p then (r 0 : Int) else (Config.motionLuma v.p (r 0) (r 1) (r 2)).toInt }

/-- The vector of a block of frame j + 1 in quarter pels: 0 below level 2, and where its confidence is too low or a flag
is set. -/
def blendVec (level confMin : Nat) (a b : View) (blkY blkX : Nat) : Int × Int :=
  if level ≠ 2 then (0, 0)
  else
    let cur := b.motionPlane
    let ref := a.motionPlane
    let (v0, fin) := motionSearch cur ref 64 true blkY blkX
    let v := fin.2
    if motionConf cur ref 64 blkY blkX v0.2 fin.1 < confMin ∨ motionOut ref blkY blkX v = true ∨
        v.1.natAbs = 256 ∨ v.2.natAbs = 256 then (0, 0)
    else v

/-- What the temporal stage reads: frame j, and frame j + 1 with the phase and the vectors where it blends. -/
structure Blend where
  a : View
  b : Option View
  ph : Nat
  vec : Nat → Nat → Int × Int

/-- A U16 sample after the temporal stage, with its clamp. -/
def Blend.at_ (t : Blend) (k : Nat) (y x : Int) : Nat :=
  match t.b with
  | none => t.a.at16 k y x
  | some b =>
    let (sv, sh) : Nat × Nat := if k = 0 ∨ pixIsYuv t.a.p = false then (1, 1) else ((pixSub t.a.p).2, (pixSub t.a.p).1)
    let v0 := t.vec (y.toNat * sv / 8) (x.toNat * sh / 8)
    let vx : Int := if sh = 2 then v0.1 / 2 else v0.1
    let vy : Int := if sv = 2 then v0.2 / 2 else v0.2
    let o (v : Int) : Int := (t.ph * v + 32) / 64
    let va := t.a.quarter16 k y x (o vy) (o vx)
    let vb := b.quarter16 k y x (o vy - vy) (o vx - vx)
    let out := ((64 - (t.ph : Int)) * va + t.ph * vb + 32) / 64
    let near := (List.range 9).flatMap fun i =>
      let dy : Int := (i / 3 : Nat) - 1
      let dx : Int := (i % 3 : Nat) - 1
      [t.a.at16 k (y + dy) (x + dx), b.at16 k (y + dy) (x + dx)]
    (clampInt (near.foldl min 65535 : Nat) (near.foldl max 0 : Nat) out).toNat

/-- The temporal stage of a layer: quality level, whether the nearest frame is forced (R29), frames j and j + 1. -/
def temporal (level confMin ph : Nat) (nearest : Bool) (j : SrcFrame) (j1 : Option SrcFrame) : Blend × Bool :=
  let only (f : SrcFrame) : Blend × Bool := ({ a := f.view, b := none, ph := 0, vec := fun _ _ => (0, 0) }, f.bottom)
  match j1 with
  | none => only j
  | some n =>
    if ph = 0 then only j
    else if nearest ∨ level = 0 then (if ph ≤ 32 then only j else only n)
    else ({ a := j.view, b := some n.view, ph := ph, vec := blendVec level confMin j.view n.view }, j.bottom)

/-! ### The spatial stage -/

/-- A U16 result of the Resampler at (y, x) of component k, whose destination plane is dh by dw. -/
def resampleAt (cf : Coefs) (t : Blend) (bottom : Bool) (k dh dw y x : Nat) : Nat :=
  let (sh, sw) := planeSize t.a.p k t.a.h t.a.w
  filterAxis cf y 0 dh 0 sh bottom fun sy => filterAxis cf x 0 dw 0 sw false fun sx => t.at_ k sy sx

/-- Rows of a source plane of sh rows that row y of a destination of dh rows reads. -/
def tapRows (sh dh y : Nat) (bottom : Bool) : List Nat :=
  if dh = sh ∧ bottom = false then [y]
  else (List.range 8).map fun (k : Nat) => clampIx sh ((tapPos y 0 dh 0 sh bottom).1 - 3 + k)

/-- How far beyond its taps the temporal stage reads: nothing, the neighbours of the clamp, or the reach of a vector. DESIGN
CHOICE, entry 32: the manual does not say which lines are fetched for a vector. -/
def Blend.reach (t : Blend) (level : Nat) : Nat := if t.b.isNone then 0 else if level = 2 then 66 else 1

/-- Captured lines that a band of destination rows of a component reads. -/
def bandLines (p sh dh k reach y0 y1 : Nat) (bottom : Bool) : List Nat :=
  ((List.range (y1 - y0)).flatMap fun i => (tapRows sh dh (y0 + i) bottom).flatMap fun (r : Nat) =>
    (List.range (2 * reach + 1)).map fun (q : Nat) => lineOfRow p k (clampIx sh ((r : Int) - reach + q))).eraseDups

/-- Rows put into a list of rows from a place. -/
def putRows (l : List (List (BitVec 16))) (at_ : Nat) (rows : List (List (BitVec 16))) : List (List (BitVec 16)) :=
  let m := l ++ List.replicate (at_ - l.length) []
  m.take at_ ++ rows ++ m.drop (at_ + rows.length)

/-- Rows of the canvas that a stripe of a grid row covers (R39). -/
def Canvas.stripeRows (c : Canvas) (row stripe : Nat) : Nat × Nat :=
  let b := c.binding
  let r0 := row * b.regionH
  (r0 + stripe * b.stripeH, min (r0 + (stripe + 1) * b.stripeH) (r0 + b.regionH))

/-- The place of a head in the grid. -/
def Canvas.headPlace (c : Canvas) (h : DieIx) : Nat × Nat :=
  ((c.binding.heads.find? fun e => e.1 == h).map fun e => e.2).getD (0, 0)

/-- The band of component k of a layer that a stripe of a head covers. -/
def Canvas.stripeBand (c : Canvas) (x : LayerEntry) (h : DieIx) (stripe k : Nat) : Band :=
  let (col, row) := c.headPlace h
  let (r0, r1) := c.stripeRows row stripe
  c.planeBand x k r0 r1 (col * c.binding.regionW) ((col + 1) * c.binding.regionW)

/-- A canvas with the fall-back rows of a stripe of a layer on a head written for the current frame: `f` gives the raw sample of a
component at a row and column of its plane. The pictures of the frame before stay. -/
def Canvas.setFallback (c : Canvas) (x : LayerEntry) (h : DieIx) (stripe : Nat) (f : Nat → Nat → Nat → Nat) : Canvas :=
  let l : LayerIx := Fin.ofNat 16 x.layer
  let (col, row) := c.headPlace h
  let u := c.wholeBand (c.layerOp x).out0
  let old : Picture := (c.fallPic h l c.frameNo).getD
    { pixfmt := Fin.ofNat 14 x.pixfmt, w := u.x1, h := u.y1, comps := List.replicate (pixComps x.pixfmt) [] }
  let comps := old.comps.zipIdx.map fun (rows, k) =>
    let b := c.stripeBand x h stripe k
    let new := (List.range (b.y1 - b.y0)).map fun i => (List.range (b.x1 - b.x0)).map fun q =>
      BitVec.ofNat 16 (f k (b.y0 + i) (b.x0 + q))
    putRows rows (b.y0 - (c.headBand x k col row).y0) new
  let keep (e : FallPic) : Bool := decide (c.frameNo ≤ e.frame + 1) && !(e.head == h && e.layer == l && e.frame == c.frameNo)
  { c with fallback := c.fallback.filter keep ++ [{ head := h, layer := l, frame := c.frameNo, pic := { old with comps := comps } }] }

/-! ### Sources of a canvas and of a port layer -/

/-- The frame store of a port and stream of a die. -/
def Die.portSource (x : Die) (port : Nat) (stream : Nat) : Option Source :=
  x.sources.find? fun q => q.host.isNone && q.port.val == port && (port != 2 || q.stream.toNat == stream)

/-- The frame store that a source entry of a canvas uses. -/
def State.entrySource (s : State) (c : Canvas) (i : Nat) : Option Source :=
  match c.binding.sources[i]? with
  | none => none
  | some e =>
    let x := s.die (dieOf e.die)
    if e.port = 3 ∨ c.binding.flags.getLsbD 0 = true then x.sources.find? fun q => q.host == some (c.id, i)
    else x.portSource e.port e.stream

/-- A frame of a store by its index, complete or being captured. -/
def Source.frame (q : Source) (j : Nat) : Option SrcFrame := (q.frames ++ q.capturing.toList).find? fun f => f.index == j

/-- The last complete source frame. -/
def Source.lastComplete (q : Source) : Option SrcFrame := (q.frames.filter fun f => !f.bad).getLast?

/-- Frames that take part in retiming: in cadence lock, those that are no repeats (R248). -/
def Source.timed (q : Source) : List SrcFrame :=
  if q.cadence = .none then q.frames else q.frames.filter fun f => !f.repeated

/-- The good frame after frame j that takes part. -/
def Source.after (q : Source) (j : Nat) : Option SrcFrame := q.timed.find? fun f => !f.bad && decide (j < f.index)

/-- The frame that a hold repeats: the one it took as it began at a frame boundary or a late stripe, while it is good. -/
def Source.repeats (q : Source) (l : LayerRt) : Option SrcFrame :=
  ((l.heldAt.bind q.frame).filter fun f => !f.bad).or q.lastComplete

/-- Frames j and j + 1 of a layer, and the phase: one complete frame alone where the layer is held, or reads older rows from a
stripe on (R66). -/
def Source.layerFrames (q : Source) (l : LayerRt) (stripe : Nat) : Option (SrcFrame × Option SrcFrame × Nat) :=
  let old := l.held || match l.lateFrom with
    | some n => decide (n ≤ stripe)
    | none => false
  if old then (q.repeats l).map fun f => (f, none, 0)
  else match l.shown.bind q.frame with
    | some f => some (f, l.next.bind q.frame, l.phase.toNat)
    | none => (q.repeats l).map fun f => (f, none, 0)

end Sys2Proof.Machine
end

