-- ==== Sys2Proof/Machine/Source.lean ====
section
/-! DEFINITION. Sources: capture, the frame store, smoothed time, cadence, rate changes and drift, host frames, and the hold
limit of a layer (R57, R66 to R69, R228, R245, R248, R249, R299, R361, R420). -/

namespace Sys2Proof.Machine

/-! ### Lines, time and layers -/

/-- Device ticks of n line periods, rounded up (R246). -/
def lineTicksUp (rate vtotal n : Nat) : Nat := ceilDiv (n * 10 ^ 11) (rate * vtotal)

/-- The vertical reach of a bundle layer on a head (R41), from the geometry in force. -/
def Die.vReach (x : Die) (l : LayerIx) : Nat :=
  let sh := x.fField (Reg.cmpLayerSrcWh l) 31 16
  let dh := x.fField (Reg.cmpLayerDstWh l) 31 16
  if dh = sh then 0 else ceilDiv (4 * dh) sh

/-- The greatest vertical reach of a canvas's layers. -/
def State.vMax (s : State) (c : Canvas) : Nat :=
  (c.binding.heads.flatMap fun h => c.binding.layers.map fun l => (s.die h.1).vReach (Fin.ofNat 16 l.layer)).foldl max 0

/-- The source in force of a layer. -/
def Die.layerSrc (x : Die) (l : LayerIx) : Nat := x.fField (Reg.cmpLayerCtrl l) 10 9

/-! ### Stores and canvases -/

/-- The source entries of a canvas that a store of a die serves. -/
def Canvas.entriesOf (c : Canvas) (d : DieIx) (q : Source) : List Nat :=
  (c.binding.sources.zipIdx.filter fun (e, i) => dieOf e.die == d &&
    (if e.port = 3 ∨ c.binding.flags.getLsbD 0 = true then q.host == some (c.id, i)
     else q.host.isNone && q.port.val == e.port && (e.port != 2 || q.stream.toNat == e.stream))).map Prod.snd

/-- Canvases with a source entry that a store serves, each with the lowest layer whose fall-back comes from it; 0xFF where no
layer's does. -/
def State.usersOf (s : State) (d : DieIx) (q : Source) : List (Canvas × Nat) :=
  s.canvases.filterMap fun c =>
    let mine := c.entriesOf d q
    if mine.isEmpty then none
    else some (c, ((c.binding.layers.find? fun l => mine.contains l.source).map LayerEntry.layer).getD 0xFF)

/-- Canvases on whose event queues the retiming of a store is reported (R245, R248): those that use it, and the one whose head
shows it in a port layer, with that layer. -/
def State.listeners (s : State) (d : DieIx) (q : Source) : List (Canvas × Nat) :=
  let users := s.usersOf d q
  let x := s.die d
  let port := (List.finRange 16).find? fun l => q.host.isNone && x.layerSrc l == 2 &&
    x.fField (Reg.cmpLayerSource l) 1 0 == q.port.val && (q.port.val != 2 || x.fField (Reg.cmpLayerSource l) 7 2 == q.stream.toNat)
  match port, s.headCanvas d with
  | some l, some c => if users.any fun e => e.1.id == c.id then users else users ++ [(c, l.val)]
  | _, _ => users

/-! ### Timing of a source (R245, R248) -/

/-- Timestamps of the frames that take part in R245, latest first. -/
def Source.times (q : Source) : List Nat :=
  (if q.cadence = .none then q.stamps else q.stamps.filter fun e => !e.2).map Prod.fst

/-- Differences of neighbouring timestamps, latest first. -/
def gaps (l : List Nat) : List Nat := (l.zip l.tail).map fun e => e.1 - e.2

/-- The last min(m, 8) measured periods. -/
def Source.periods (q : Source) : List Nat := (gaps q.times).take 8

/-- P̄. -/
def Source.meanOf (q : Source) : Nat := q.periods.sum / max q.periods.length 1

/-- Rotations of a pattern of repeat flags. -/
def rotations (p : List Bool) : List (List Bool) := (List.range p.length).map fun k => p.drop k ++ p.take k

/-- Two whole periods of a pattern match the latest flags. -/
def twoPeriods (p : List Bool) (flags : List Bool) : Bool :=
  (rotations p).any fun r => flags.take (2 * p.length) == (r ++ r).reverse

/-- The 3:2 pattern N R R N R, and 2:2, N R. -/
def cadencePattern : Cadence → List Bool
  | .threeTwo => [false, true, true, false, true]
  | .twoTwo => [false, true]
  | .none => []

/-- The cadence after a new flag: a locked pattern stays while it matches; else it unlocks at that frame. A lock takes two
whole periods, of 3:2 first. -/
def nextCadence (c : Cadence) (flags : List Bool) : Cadence :=
  match c with
  | .none => if twoPeriods (cadencePattern .threeTwo) flags then .threeTwo
             else if twoPeriods (cadencePattern .twoTwo) flags then .twoTwo else .none
  | c => if twoPeriods (cadencePattern c) flags then c else .none

/-- The code of CMP_LAYER_RT.CADENCE. -/
def Cadence.code : Cadence → Nat
  | .none => 0
  | .threeTwo => 1
  | .twoTwo => 2

/-- Every line has the CRC of the same line of another frame. -/
def SrcFrame.repeats (f g : SrcFrame) : Bool :=
  f.lines.map (fun e => (e.1, e.2.crc)) == g.lines.map fun e => (e.1, e.2.crc)

/-- A store after a frame is complete: its repeat flag, the cadence, P̄ and the smoothed time; and whether it was
re-anchored. Each newly complete frame releases the oldest of six (R57). -/
def Source.complete (q : Source) (f : SrcFrame) : Source × Bool :=
  let rep := !f.form.interlaced && match q.frames.getLast? with
    | some g => g.index + 1 == f.index && f.repeats g
    | none => false
  let stamps := ((f.ts, rep) :: q.stamps).take 24
  let cad := if f.form.interlaced then .none else nextCadence q.cadence (stamps.map Prod.snd)
  let unlocked := q.cadence != .none && cad == .none
  let q1 := { q with stamps := stamps, cadence := cad, capturing := none,
                     newRateFrames := q.newRateFrames.map fun n => n + 1 }
  let prev := if q.stamps.isEmpty then none else (q1.timed.filter fun g => decide (g.index < f.index)).getLast?
  let mean := q1.meanOf
  let takesPart := cad == .none || !rep
  let (sm, re) : Int × Bool := match prev with
    | none => ((f.ts : Int), false)
    | some g =>
      let sm := g.smoothed + (mean : Int)
      if takesPart = false then ((f.ts : Int), false)
      else if unlocked = true ∨ mean < 16 * ((f.ts : Int) - sm).natAbs then ((f.ts : Int), true)
      else (sm, false)
  let frames := q.frames ++ [{ f with smoothed := sm, repeated := rep }]
  ({ q1 with meanPeriod := if takesPart then mean else q.meanPeriod, frames := frames.drop (frames.length - 6) }, re)

/-! ### Records of source frames (R298, R299) -/

/-- The video mode of a FRAME record: width, height, format and, in one byte, interlaced and bottom field. -/
def modeBytes (f : VideoForm) : List Byte :=
  leBytes 2 f.width ++ leBytes 2 f.height ++ leBytes 1 f.pixfmt.val ++ leBytes 1 (b2n f.interlaced + 2 * b2n f.bottomField) ++ [0, 0]

/-- FRAME and STRIPE records of a complete frame, by FRAME_MODE. Stripes are those of the canvas that uses the source, else
of 32 lines; entry 23. -/
def State.recordFrame (s : State) (d : DieIx) (q : Source) (f : SrcFrame) : State :=
  let x := s.die d
  let mode := x.field Reg.detRecCtrl 3 2
  let users := s.usersOf d q
  let cv := (users.head?.map fun e => recCanvas e.1.id).getD 0xFFFF
  let port := if q.host.isSome then 3 else q.port.val
  if mode = 0 ∨ x.recording = false then s
  else
    let body := leBytes 4 (f.counter.toNat % 2 ^ 32) ++ leBytes 8 f.ts ++ leBytes 4 f.lines.length ++ modeBytes f.form ++
      f.lines.flatMap fun e => leBytes 4 e.2.crc.toNat
    let raw := if mode = 3 then f.lines.flatMap fun e => e.2.bytes else []
    let s1 := s.record d s.gsc { type := 2, flags := 0, canvas := cv, port := port, payload := body ++ raw }
    if mode ≠ 2 then s1
    else
      let h := (users.head?.map fun e => e.1.binding.stripeH).getD 32
      let m := max 1 (x.field Reg.detRecCtrl 23 16)
      (List.range (ceilDiv f.form.height h)).foldl (fun s k =>
        if (k + q.recorded) % m ≠ 0 then s
        else
          let rows := f.lines.filter fun e => decide (k * h ≤ e.1) && decide (e.1 < (k + 1) * h)
          let pl := leBytes 4 (f.counter.toNat % 2 ^ 32) ++ leBytes 4 (k * h) ++ leBytes 4 rows.length ++ rows.flatMap fun e => e.2.bytes
          s.record d s.gsc { type := 3, flags := 0, canvas := cv, port := port, payload := pl }) s1

/-! ### Capture -/

/-- The state with a store of a die replaced. -/
def State.onSource (s : State) (d : DieIx) (same : Source → Bool) (f : Source → Source) : State :=
  s.onDie d fun x => { x with sources := updFirst same f x.sources }

/-- The store of a port's stream, or of a host source entry. -/
def sameSource (p : Source) (q : Source) : Bool := q.host == p.host && q.port == p.port && q.stream == p.stream

/-- A store that has captured nothing. -/
def Source.fresh (port : Fin 3) (stream : BitVec 6) (host : Option (CanvasId × Nat)) (form : VideoForm) : Source :=
  { port := port, stream := stream, host := host, form := form, capturing := none, frames := [], nextIndex := 0,
    stamps := [], recorded := 0, meanPeriod := 0, cadence := .none, oldLast := none, newRateFrames := none }

/-- Canvases that take a frame's completion: re-anchoring and cadence are reported, and the frame is recorded. -/
def State.sourceComplete (s : State) (d : DieIx) (q : Source) (f : SrcFrame) : State :=
  let (q1, re) := q.complete f
  let s1 := (s.onSource d (sameSource q) fun _ => { q1 with recorded := q1.recorded + 1 }).recordFrame d q f
  let users := s1.listeners d q
  let s2 := if re then users.foldl (fun s e =>
      (s.canvasEvent e.1 1 e.2 0).recordEvent 5 (some e.1.id) e.1.frameStep (leBytes 4 e.2)) s1 else s1
  if q1.cadence = q.cadence then s2 else users.foldl (fun s e => s.canvasEvent e.1 2 e.2 q1.cadence.code) s2

/-- A change of rate (R68): measurement starts again, layers repeat the last frame complete at the old rate, and a line-mode canvas
that uses the source becomes a retiming-mode canvas. -/
def State.rateChange (s : State) (d : DieIx) (q : Source) : State :=
  let s1 := s.onSource d (sameSource q) fun x =>
    { x with newRateFrames := some 0, oldLast := x.lastComplete.map SrcFrame.index, stamps := [], meanPeriod := 0, cadence := .none }
  let s2 := (s1.listeners d q).foldl (fun s e => s.canvasEvent e.1 6 e.2 0) s1
  (s2.usersOf d q).foldl (fun s e => s.onCanvas e.1.id fun c => { c with retimeNext := c.retimeNext || c.lineMode }) s2

/-- A period differs from the mean of the previous eight by more than 0.1 % (R68). -/
def Source.periodOff (q : Source) (now : Nat) : Bool :=
  let p := (gaps (q.stamps.map Prod.fst)).take 8
  match q.stamps.head? with
  | some (t, _) => decide (p.length = 8) && decide (p.sum < 1000 * ((8 * (now - t) : Nat) - (p.sum : Int)).natAbs)
  | none => false

/-- A port delivers lines only while its bit of PWR_PORT_EN is set (Table 15.12). -/
def Die.portOn (x : Die) (port : Fin 3) : Bool := x.field Reg.pwrPortEn port.val port.val == 1

/-! ### The phase of a line-mode source (R56, R58, R67) -/

/-- A difference of places on a circle of n, from −n/2 on. -/
def wrapped (n : Nat) (v : Int) : Int := (v + (n / 2 : Nat)) % (max n 1 : Nat) - (n / 2 : Nat)

/-- Ticks from the arrival of a source's first row to that of row n, as its last complete frame came in. -/
def Source.arrival (q : Source) (n : Nat) : Option Nat :=
  q.lastComplete.map fun f => ceilDiv (n * (f.lastAt - f.ts)) (max 1 (f.form.height - 1))

/-- The last row of a source of some height that stripe `st` of grid row g depends on: the rows under its lines, with the bundle's
vertical halo below them (R47, R56). -/
def Canvas.lastRow (c : Canvas) (height g st : Nat) : Nat :=
  let b := c.binding
  let bottom := g * b.regionH + min ((st + 1) * b.stripeH) b.regionH
  min height (ceilDiv (bottom * height) (max 1 b.a) + (bHeader c.image).q) - 1

/-- Ticks from the arrival of a source's first row to output line 0, at which no output line is scanned sooner than h + 64 lines after
the last source line it depends on, and some line exactly so (R56). Every grid row scans at once, so the lowest gives it (R58). A
layer scaled with reach V reads a stripe V lines before its first. DESIGN CHOICE, entry 79: the arrival of a row within a frame is
as in the source's last complete frame. -/
def State.sourceLag (s : State) (c : Canvas) (i : Nat) : Option Int :=
  let b := c.binding
  let v := s.vMax c
  match s.entrySource c i with
  | none => none
  | some q =>
    let height := ((b.sources[i]?).map fun e => e.height).getD 0
    let each := (List.range b.rows).flatMap fun g => (List.range b.stripes).map fun st =>
      (q.arrival (c.lastRow height g st)).map fun (t : Nat) =>
        (t : Int) + lineTicksUp b.rate b.vtotal (b.stripeH + 64 + v) - (lineTicksUp b.rate b.vtotal (st * b.stripeH) : Int)
    each.foldl (fun m x => match m, x with
      | some a, some t => some (max a t)
      | none, x => x
      | m, none => m) none

/-- The latest start of a frame of a store. -/
def Source.started (q : Source) : Option Nat := ((q.frames ++ q.capturing.toList).getLast?).map SrcFrame.ts

/-- The device time at which line 0 of a line-mode canvas is to fall, up to whole frames: after every source entry's lag. DESIGN CHOICE,
entry 79: with several sources, the latest of them counts. None while a source has delivered no complete frame. -/
def State.rasterPlace (s : State) (c : Canvas) : Option Int :=
  let ts := (List.range c.binding.sources.length).map fun i =>
    match s.sourceLag c i, (s.entrySource c i).bind Source.started with
    | some l, some t => some (l + t)
    | _, _ => none
  if ts.isEmpty ∨ ts.any Option.isNone = true then none else ts.foldl (fun m x => match m, x with
    | some a, some b => some (max a b)
    | none, x => x
    | m, none => m) none

/-- A frame of a source begins: its phase against the raster of a placed line-mode canvas, in lines, and how many frames in a row it
has been out by more than h. -/
def State.measurePhase (s : State) (c : Canvas) (i : Nat) : Canvas :=
  let b := c.binding
  let line := (s.die (s.leadHead c)).head.line
  let one (p : SourcePhase) : SourcePhase :=
    let err := wrapped b.vtotal (((b.vtotal : Int) - line) - p.lead)
    { p with out := if b.stripeH < err.natAbs then p.out + 1 else 0 }
  let ps := c.phases.map fun p => if p.entry == i then one p else p
  { c with phases := ps, retimeNext := c.retimeNext || (c.lineMode && ps.any fun p => decide (2 ≤ p.out)) }

/-- SOURCE_FRAME_START: the first active line of a frame. A form that Table 15.4 does not support is not captured (R420). -/
def fxSourceFrameStart (d : DieIx) (port : Fin 3) (stream : BitVec 6) (counter : Word) (supported : Bool) (form : VideoForm) (s : State) :
    State :=
  let x := s.die d
  if x.portOn port = false then s
  else
    let key := if port.val = 2 then stream else 0
    let q0 := (x.portSource port.val key.toNat).getD (Source.fresh port key none form)
    let s0 := if (x.portSource port.val key.toNat).isSome then s
      else s.onDie d fun x => { x with sources := x.sources ++ [q0] }
    if supported = false then s0.onSource d (sameSource q0) fun q => { q with capturing := none }
    else
      let f : SrcFrame := { index := q0.nextIndex, counter := counter.setWidth 64, ts := s.gsc, lastAt := s.gsc, smoothed := 0,
                            lines := [], form := form, bad := false, repeated := false }
      let s1 := if q0.periodOff s.gsc then s0.rateChange d q0 else s0
      let s2 := s1.onSource d (sameSource q0) fun q => { q with capturing := some f, nextIndex := q0.nextIndex + 1, form := form }
      (s2.usersOf d q0).foldl (fun s e => s.onCanvas e.1.id fun c => (c.entriesOf d q0).foldl (fun k i => s.measurePhase k i) c) s2

/-- SOURCE_LINE_ARRIVAL: a line of the frame being captured, with its tag (R361). `counter` is the frame counter that the line
carries. A line number beyond the frame is not captured. -/
def fxSourceLineArrival (d : DieIx) (port : Fin 3) (stream : BitVec 6) (line : Nat) (counter : Word) (bytes : List Byte)
    (s : State) : State :=
  let x := s.die d
  let key := if port.val = 2 then stream.toNat else 0
  match x.portOn port, x.portSource port.val key with
  | true, some q =>
    match q.capturing with
    | none => s
    | some f =>
      if f.form.height ≤ line then s
      else
        let l : SrcLine := { bytes := bytes, crc := crc32c bytes, counter := counter, ts := f.ts }
        s.onSource d (sameSource q) fun y => { y with capturing := some { f with lines := sInsert f.lines line l, lastAt := s.gsc } }
  | _, _ => s

/-- SOURCE_FRAME_COMPLETE. A frame that lacks a line is not complete, and is dropped. -/
def fxSourceFrameComplete (d : DieIx) (port : Fin 3) (stream : BitVec 6) (s : State) : State :=
  let key := if port.val = 2 then stream.toNat else 0
  match (s.die d).portSource port.val key with
  | none => s
  | some q =>
    match q.capturing with
    | none => s
    | some f =>
      if f.lines.length = f.form.height then s.sourceComplete d q f
      else s.onSource d (sameSource q) fun y => { y with capturing := none }

/-- SOURCE_RATE_CHANGE: the receiver reports a new video mode. -/
def fxSourceRateChange (d : DieIx) (port : Fin 3) (stream : BitVec 6) (s : State) : State :=
  match (s.die d).portSource port.val (if port.val = 2 then stream.toNat else 0) with
  | none => s
  | some q => s.rateChange d q

/-! ### FRAME (R326) -/

/-- Bytes of a captured line n (entry 25). -/
def lineBytes (p w n : Nat) : Nat :=
  ((List.range (pixPlanes p)).map fun q => if q = 0 ∨ n % (pixSub p).2 = 0 then planeRowBytes p q w else 0).sum

/-- FRAME: a frame of a host source entry. `lines` are what the host's memory answers, line by line; none while the reads have
not returned. -/
def fxFrame (h : DescHdr) (canvas : BitVec 16) (source : Byte) (pitch : Word) (plane0 plane1 plane2 counter : Dword)
    (lines : List (List Byte)) (s : State) : State :=
  s.descriptor h 0 false true fun t _ =>
    match t.canvas { func := h.func, handle := canvas.toNat } with
    | none => (t, .st .notOwner)
    | some c =>
      match c.binding.sources[source.toNat]? with
      | none => (t, .st .badDesc)
      | some e =>
        let planes := [plane0, plane1, plane2].zipIdx.take (pixPlanes e.pixfmt)
        if e.port ≠ 3 ∧ c.binding.flags.getLsbD 0 = false then (t, .st .badDesc)
        else if !(planes.all fun (a, k) => (t.host.fn h.func).inWindow a.toNat (pitch.toNat * planeRows e.pixfmt k e.height)) then
          (t, .st .hostRange)
        else if lines.length ≠ e.height then (t, .await .transfer)
        else
          let d := dieOf e.die
          let form : VideoForm := { width := e.width, height := e.height, pixfmt := Fin.ofNat 14 e.pixfmt, interlaced := false,
                                    bottomField := false, protect := none }
          let q := (t.entrySource c source.toNat).getD (Source.fresh 0 0 (some (c.id, source.toNat)) form)
          let t1 := if (t.entrySource c source.toNat).isSome then t
            else t.onDie d fun x => { x with sources := x.sources ++ [q] }
          let ls := lines.zipIdx.map fun (bs, n) =>
            let bs := sliceBytes bs 0 (lineBytes e.pixfmt e.width n)
            (n, ({ bytes := bs, crc := crc32c bs, counter := counter.setWidth 32, ts := t.gsc } : SrcLine))
          let f : SrcFrame := { index := q.nextIndex, counter := counter, ts := t.gsc, lastAt := t.gsc, smoothed := 0, lines := ls, form := form,
                                bad := false, repeated := false }
          let t2 := if q.periodOff t.gsc then t1.rateChange d q else t1
          let q2 := ((t2.entrySource c source.toNat).getD q)
          let q3 := { q2 with nextIndex := q.nextIndex + 1 }
          ((t2.onSource d (sameSource q) fun _ => q3).sourceComplete d q3 f, .st .ok)

/-! ### The hold limit (R69, R228) -/

/-- HOLD_LIMIT_EXPIRY: a layer has been held for longer than CMP_HOLD_LIMIT; its fill begins at the next frame boundary. -/
def fxHoldLimitExpiry (h : DieIx) (layer : LayerIx) (s : State) : State :=
  let x := s.die h
  let l := x.head.layers[layer.val]
  match l.holdFrom with
  | none => s
  | some t =>
    if l.held ∧ l.fill = false ∧ 100_000 * x.field Reg.cmpHoldLimit 15 0 ≤ s.gsc - t then
      s.onDie h fun y => { y with head := { y.head with
        layers := y.head.layers.set layer.val { l with fillNext := some true } layer.isLt } }
    else s

def execSourceLineArrival (d : DieIx) (port : Fin 3) (stream : BitVec 6) (line : Nat) (counter : Word) (bytes : List Byte)
    (s : State) : Host.Outcome State Fault Refusal := .next (fxSourceLineArrival d port stream line counter bytes s)
def execSourceFrameStart (d : DieIx) (port : Fin 3) (stream : BitVec 6) (counter : Word) (supported : Bool) (form : VideoForm) (s : State) :
    Host.Outcome State Fault Refusal := .next (fxSourceFrameStart d port stream counter supported form s)
def execSourceFrameComplete (d : DieIx) (port : Fin 3) (stream : BitVec 6) (s : State) : Host.Outcome State Fault Refusal :=
  .next (fxSourceFrameComplete d port stream s)
def execSourceRateChange (d : DieIx) (port : Fin 3) (stream : BitVec 6) (s : State) : Host.Outcome State Fault Refusal :=
  .next (fxSourceRateChange d port stream s)
def execFrame (h : DescHdr) (canvas : BitVec 16) (source : Byte) (pitch : Word) (plane0 plane1 plane2 counter : Dword)
    (lines : List (List Byte)) (s : State) : Host.Outcome State Fault Refusal :=
  .next (fxFrame h canvas source pitch plane0 plane1 plane2 counter lines s)
def execHoldLimitExpiry (h : DieIx) (layer : LayerIx) (s : State) : Host.Outcome State Fault Refusal :=
  .next (fxHoldLimitExpiry h layer s)

end Sys2Proof.Machine
end

