-- ==== Sys2Proof/Machine/Checker.lean ====
section
/-! DEFINITION. The Plausibility Comparator, its history and verdict, and the choice at the deadline (R44, R46, R50, R52,
R290, R349 to R352). -/

namespace Sys2Proof.Machine

/-! ### Values of a stripe part (R349) -/

/-- The layer entry of a stripe part. -/
def Canvas.layerEntry (c : Canvas) (l : LayerIx) : Option LayerEntry := c.binding.layers.find? fun x => x.layer == l.val

/-- A raw neural sample of a component of a layer's picture. -/
def Canvas.neuralRaw (c : Canvas) (x : LayerEntry) (frame k y xx : Nat) : Nat :=
  match c.buf (c.layerOp x).out0 frame with
  | some u => u.rd 0 y xx k
  | none => 0

/-- The region of a stripe part. -/
def Canvas.partRegion (c : Canvas) (p : PartId) : Option Region :=
  c.binding.regions.find? fun r => r.head == p.head && r.half == p.half

/-- The luma rows and columns of a stripe part in its layer's picture. -/
def Canvas.partBand (c : Canvas) (x : LayerEntry) (p : PartId) : Band :=
  match c.partRegion p with
  | none => { y0 := 0, y1 := 0, x0 := 0, x1 := 0 }
  | some r =>
    let (r0, r1) := c.stripeRows (c.headPlace p.head).2 p.stripe
    c.planeBand x 0 r0 r1 r.x0 (r.x0 + r.w)

/-- The comparator's value of a sample: luma, or alpha for the second value set of RGBA-F16. -/
def checkValue (p : Nat) (alpha : Bool) (raw : Nat → Nat) : Nat :=
  if alpha then half16 (raw 3) else lumaOf p (sample16 p (raw 0)) (sample16 p (raw 1)) (sample16 p (raw 2))

/-- The neural and fall-back values of a stripe part, by row and column of the part. -/
structure PartView where
  h : Nat
  w : Nat
  n : Nat → Nat → Nat
  f : Nat → Nat → Nat

/-- A stripe part as the comparator reads it. -/
def Canvas.partView (c : Canvas) (x : LayerEntry) (p : PartSt) (alpha : Bool) : PartView :=
  let b := c.partBand x p.id
  { h := b.y1 - b.y0, w := b.x1 - b.x0,
    n := fun y q => checkValue x.pixfmt alpha fun k => c.neuralRaw x p.frame k (b.y0 + y) (b.x0 + q),
    f := fun y q => checkValue x.pixfmt alpha fun k => c.fallbackSample x p.frame k (b.y0 + y) (b.x0 + q) }

/-! ### Metrics (R350) -/

/-- The valid samples of block (by, bx) of 8×8. -/
def PartView.block (v : PartView) (blkY blkX : Nat) : List (Nat × Nat) :=
  (List.range (min 8 (v.h - 8 * blkY))).flatMap fun i => (List.range (min 8 (v.w - 8 * blkX))).map fun q => (8 * blkY + i, 8 * blkX + q)

/-- The floor of a mean. -/
def meanNat (l : List Nat) : Nat := l.sum / max l.length 1

/-- |a − b|. -/
def absDiff (a b : Nat) : Nat := (a - b) + (b - a)

/-- e_X(b): differences of horizontally and vertically adjacent pairs inside a block. -/
def edgeSum (l : List (Nat × Nat)) (f : Nat → Nat → Nat) : Nat :=
  (l.map fun (y, x) =>
    (if l.contains (y, x + 1) then absDiff (f y x) (f y (x + 1)) else 0) +
      (if l.contains (y + 1, x) then absDiff (f y x) (f (y + 1) x) else 0)).sum

/-- The means of the cells of 64 columns. -/
def PartView.cells (v : PartView) (f : Nat → Nat → Nat) : List Nat :=
  (List.range (ceilDiv v.w 64)).map fun c =>
    meanNat ((List.range v.h).flatMap fun y => (List.range (min 64 (v.w - 64 * c))).map fun q => f y (64 * c + q))

/-- MEAN, MAX and HF of a part. -/
def PartView.metrics (v : PartView) (kHf : Nat) : Nat × Nat × Nat :=
  let bs := (List.range (ceilDiv v.h 8)).flatMap fun blkY => (List.range (ceilDiv v.w 8)).map fun blkX => v.block blkY blkX
  let rs := bs.map fun l =>
    let d := absDiff (meanNat (l.map fun e => v.n e.1 e.2)) (meanNat (l.map fun e => v.f e.1 e.2))
    (l.length, d, edgeSum l v.n - kHf * edgeSum l v.f / 4)
  let total := max 1 (rs.map fun r => r.1).sum
  ((rs.map fun r => r.2.1 * r.1).sum / total, rs.foldl (fun m r => max m r.2.1) 0, (rs.map fun r => r.2.2).sum / total)

/-- FLASH of the means of a part against its history; 0 for a cell without one. -/
def flash (mn mf shown fallback : List Nat) : Nat :=
  ((mn.zip mf).zip (shown.zip fallback)).foldl (fun m e =>
    max m (absDiff e.1.1 e.2.1 - absDiff e.1.2 e.2.2)) 0

/-- The history of a part: means of the luma cells, then of the alpha cells where the format has alpha. -/
def Sfn.historyOf (x : Sfn) (p : PartId) : Option History := x.history.find? fun e => e.part == p

/-- The cells of both value sets of a part. -/
def Canvas.partCells (c : Canvas) (x : LayerEntry) (p : PartSt) (neural : Bool) : List Nat :=
  let one (alpha : Bool) : List Nat :=
    let v := c.partView x p alpha
    v.cells (if neural then v.n else v.f)
  one false ++ if x.pixfmt = 13 then one true else []

/-- MEAN, MAX, HF and FLASH of one value set of a part. -/
def Canvas.judge (c : Canvas) (sfn : Sfn) (kHf : Nat) (x : LayerEntry) (p : PartSt) (alpha : Bool) : List Nat :=
  let v := c.partView x p alpha
  let (mean, mx, hf) := v.metrics kHf
  let n := ceilDiv v.w 64
  let fl := match sfn.historyOf p.id with
    | none => 0
    | some e => flash (v.cells v.n) (v.cells v.f) (if alpha then e.shown.drop n else e.shown)
        (if alpha then e.fallback.drop n else e.fallback)
  [mean, mx, hf, fl]

/-- The metrics that exceed their bounds, as SFN_LAST_REJECT.METRICS codes them (R351). -/
def Die.failedMetrics (x : Die) (m : List Nat) : Nat :=
  let bound (i : Nat) : Nat := match i with
    | 0 => x.field Reg.sfnTMean 15 0
    | 1 => x.field Reg.sfnTMax 15 0
    | 2 => x.field Reg.sfnHf 15 0
    | _ => x.field Reg.sfnTFlash 15 0
  (m.zipIdx.map fun (v, i) => if v ≤ bound i then 0 else 2 ^ i).sum

/-! ### The choice at the deadline (R44) -/

/-- The code of a cause in CMP_CNT_SEL. -/
def Cause.code : Cause → Nat
  | .neural => 0
  | .late => 1
  | .reject => 2
  | .fault => 3
  | .forced => 4
  | .source => 5
  | .degraded => 6

/-- A cause by its code. -/
def causeOf (n : Nat) : Cause :=
  match n with
  | 0 => .neural
  | 1 => .late
  | 2 => .reject
  | 3 => .fault
  | 4 => .forced
  | _ => .source

/-- A forced condition holds for a part: OP3, a change of operating point, a restart, latched off or SAFE of the die that
computes it, SAFE of the die that judges it, an unbinding, or a pause (R30, R33, R310, R337, R346, R348, R356, R357). -/
def State.forcedPart (s : State) (c : Canvas) (p : PartSt) : Bool :=
  s.power.point == .op3 || (s.die p.id.head).head.opForced || !s.neuralOn p.computeDie ||
    (s.die p.id.head).sfn.phase != .armed || c.unbinding || c.pause != .running

/-- A source condition holds for a part (R66 to R69, R244). A layer without a source meets only the last. -/
def State.sourcePart (s : State) (c : Canvas) (p : PartSt) : Bool :=
  let l := (s.die p.id.head).head.layers[p.id.layer.val]
  let has := (c.layerEntry p.id.layer).any fun x => x.source != 0xFF
  l.withheld || (has && (l.held || l.fill || c.changing || match l.lateFrom with
    | some n => decide (n ≤ p.id.stripe)
    | none => false))

/-- The first row of Table 2.2 that applies. -/
def State.choose (s : State) (c : Canvas) (p : PartSt) : Cause :=
  if s.forcedPart c p then .forced
  else if s.sourcePart c p then .source
  else if p.failed.isSome ∨ p.abandoned = true then .fault
  else if p.complete = false then .late
  else match p.verdict with
    | none => .late
    | some false => .reject
    | some true => .neural

/-- The status that a stripe completion carries (R52). -/
def stripeStatus (p : PartSt) (cause : Cause) : Status :=
  match cause with
  | .neural => .ok
  | .late => .late
  | .reject => .checkerReject
  | .fault => p.failed.getD .aborted
  | .forced => .aborted
  | .source => .aborted
  | .degraded => .ok

/-- The state with a part of a canvas changed. -/
def State.onPart (s : State) (cv : CanvasId) (frame : Nat) (id : PartId) (f : PartSt → PartSt) : State :=
  s.onCanvas cv fun c => { c with parts := updFirst (fun p => p.id == id && p.frame == frame) f c.parts }

/-- A 64-bit choice counter of a head counts one. It never wraps (R50): a full one stays full. -/
def Die.countChoice (x : Die) (l : LayerIx) (cause : Cause) : Die :=
  let k := l.val * 8 + cause.code
  let n := sGet (fun _ => 0) x.choices k
  { x with choices := sSet (fun _ => 0) x.choices k (if n = BitVec.allOnes 64 then n else n + 1) }

/-- The history that follows a latched stripe (R350). -/
def Canvas.newHistory (c : Canvas) (x : LayerEntry) (p : PartSt) (cause : Cause) : History :=
  { part := p.id, shown := c.partCells x p (cause == .neural), fallback := c.partCells x p false }

/-- A stripe part's choice is latched: counted, reported where the binding asks for it, and taken into the history. -/
def State.latchPart (s : State) (c : Canvas) (p : PartSt) (cause : Cause) : State :=
  let h := p.id.head
  let s1 := s.onPart c.id p.frame p.id fun q => { q with choice := some cause }
  let s2 := s1.onDie h fun x =>
    let y := x.countChoice p.id.layer cause
    if cause = .neural ∧ p.degraded = true then y.countChoice p.id.layer .degraded else y
  let s3 := if cause = .late then s2.timing 1 else s2
  let s4 := match c.layerEntry p.id.layer with
    | none => s3
    | some x => s3.onDie h fun d => { d with sfn := { d.sfn with
        history := (d.sfn.history.filter fun e => e.part != p.id) ++ [c.newHistory x p cause] } }
  if c.binding.flags.getLsbD 2 then
    s4.onHost fun o => o.postCpl c.id.func c.binding.cq 3 h.val (c.stepOf p.frame).toNat (stripeStatus p cause)
      (leBytes 2 c.id.handle ++ leBytes 1 h.val ++ leBytes 1 p.id.layer.val ++ leBytes 2 p.id.stripe ++
        leBytes 1 p.id.half.val ++ leBytes 1 cause.code)
  else s4

/-! ### Replay (R304, R305) -/

/-- A canvas bound in Replay mode, and its policy. -/
def Canvas.replays (c : Canvas) : Bool := c.binding.flags.getLsbD 0

/-- FOLLOW, where FLAGS asks for no recomputation. -/
def Canvas.follows (c : Canvas) : Bool := c.replays && !c.binding.flags.getLsbD 1

/-- The choice of a part of a Replay canvas by its policy, and whether FOLLOW finds a mismatch. A part whose work ended with a failing
status keeps the status (R306). -/
def State.replayChoice (s : State) (c : Canvas) (p : PartSt) : Cause × Bool :=
  let own : Cause := if s.forcedPart c p then .forced
    else if p.failed.isSome ∨ p.abandoned = true then .fault
    else match p.verdict with
      | some true => .neural
      | _ => .reject
  if c.follows = false then (own, false)
  else match (c.replay.head?.bind fun r => r.choices.find? fun e => e.1 == p.id).map Prod.snd with
    | some .neural => if own = .neural then (.neural, false) else (own, true)
    | some x => if p.failed.isSome then (.fault, false) else (x, false)
    | none => (own, false)

/-- A part of a Replay canvas is chosen once it is complete and judged, or will never be. -/
def State.replayReady (s : State) (c : Canvas) (p : PartSt) : Bool :=
  p.choice.isNone && p.fallbackDone &&
    (p.verdict.isSome || p.failed.isSome || p.abandoned || s.forcedPart c p)

/-- A mismatch of a head's stripe: a frame summary shows the first of its head (R306). -/
def Canvas.noteMismatch (c : Canvas) (h : DieIx) (stripe : Nat) : Canvas :=
  if c.mismatch.any fun m => m.1 == h then c else { c with mismatch := c.mismatch ++ [(h, stripe)] }

/-- Latch every part of a Replay canvas's frame that can be chosen. -/
def State.replayLatch (s : State) (cv : CanvasId) : State :=
  match s.canvas cv with
  | none => s
  | some c =>
    if c.replays = false then s
    else (c.parts.filter fun p => p.frame == c.frameNo && s.replayReady c p).foldl (fun s p =>
      let (cause, bad) := s.replayChoice c p
      let s1 := s.latchPart c p cause
      if bad then (s1.countRaise p.id.head Reg.detMismatch Reg.detEvt 0x08).onCanvas cv fun k =>
          k.noteMismatch p.id.head p.id.stripe else s1) s

/-! ### VERDICT -/

/-- The verdict on a part: SFN_LAST_ registers show a reject, and the frame becomes a rejection frame (R351, R355). -/
def State.judgePart (s : State) (c : Canvas) (x : LayerEntry) (p : PartSt) : State :=
  let d := s.die p.id.head
  let k := d.field Reg.sfnHf 21 16
  let m0 := c.judge d.sfn k x p false
  let m1 := if x.pixfmt = 13 then c.judge d.sfn k x p true else [0, 0, 0, 0]
  let f0 := d.failedMetrics m0
  let f1 := d.failedMetrics m1
  let ok := f0 == 0 && f1 == 0
  let s1 := s.onPart c.id p.frame p.id fun q => { q with verdict := some ok }
  if ok then s1
  else
    let m := if f0 = 0 then m1 else m0
    let v (i : Nat) : Nat := min 0xFFFF (m.getD i 0)
    let where_ := (f0 ||| f1) + 16 * p.id.layer.val + 256 * (p.id.stripe % 1024) + 2 ^ 18 * p.id.half.val
    (s1.onDie p.id.head fun y =>
      let z := ((y.setReg Reg.sfnLastReject (BitVec.ofNat 32 where_)).setReg Reg.sfnLastM0
        (BitVec.ofNat 32 (v 0 + 65536 * v 1))).setReg Reg.sfnLastM1 (BitVec.ofNat 32 (v 2 + 65536 * v 3))
      { z with sfn := { z.sfn with frameBad := true } }).raise p.id.head Reg.sfnEvt 0x0001

/-- VERDICT: the Safety Net of the head's die judges a complete part whose fall-back stripe is done. A part that ended with a
failing status gets none. -/
def fxVerdict (p : PartId) (s : State) : State :=
  match s.headCanvas p.head with
  | none => s
  | some c =>
    match c.parts.find? fun q => q.id == p && q.frame == c.frameNo, c.layerEntry p.layer with
    | some q, some x =>
      if q.complete = false ∨ q.fallbackDone = false ∨ q.verdict.isSome = true ∨ q.failed.isSome = true ∨
          q.abandoned = true ∨ (s.die p.head).sfn.phase ≠ .armed then s
      else (s.judgePart c x q).replayLatch c.id
    | _, _ => s

def execVerdict (p : PartId) (s : State) : Host.Outcome State Fault Refusal := .next (fxVerdict p s)

end Sys2Proof.Machine
end

