-- ==== Sys2Proof/Machine/Retime.lean ====
section
/-! DEFINITION. What a source gives the frames of a head: holds and fills at frame boundaries, the frames j and j + 1 with
their phase at the release of stripe 0, the bundle's input tensors and frame record, and the Resampler's stripes (R28, R29,
R41, R48, R49, R66 to R69, R228, R244 to R250, R361, R362). -/

namespace Sys2Proof.Machine

/-! ### Lines and time -/

/-- The compute window W (R47). -/
def Canvas.computeLines (c : Canvas) : Nat := 57 - (bHeader c.image).q

/-- The deadline line of a stripe under a vertical reach, counted from line 0 of its frame (R41). -/
def deadline (h stripe v : Nat) : Int := (stripe * h : Nat) - 6 - (v : Int)

/-- L of R246. -/
def leadLines (h v w : Nat) : Nat := max (h + 64) (6 + v + w)

/-! ### Layers and their sources -/

/-- The frame store that serves a layer of a head: that of its binding's source entry, or that of the port it names. -/
def State.layerSource (s : State) (h : DieIx) (l : LayerIx) : Option Source :=
  let x := s.die h
  if x.layerSrc l = 1 then
    match s.headCanvas h with
    | none => none
    | some c => match c.layerEntry l with
      | none => none
      | some e => if e.source = 0xFF then none else s.entrySource c e.source
  else if x.layerSrc l = 2 then x.portSource (x.fField (Reg.cmpLayerSource l) 1 0) (x.fField (Reg.cmpLayerSource l) 7 2)
  else none

/-- Whether a layer takes its pixels from a source, and follows the source rules. In Replay mode none does (R304). -/
def State.layerSourced (s : State) (h : DieIx) (l : LayerIx) : Bool :=
  let x := s.die h
  if x.layerSrc l = 1 then
    match s.headCanvas h with
    | none => false
    | some c => !c.replays && (c.layerEntry l).any fun e => e.source != 0xFF
  else x.layerSrc l == 2

/-- Whether a layer's source is taken line by line: a bundle layer of a line-mode canvas. -/
def State.layerByLine (s : State) (h : DieIx) (l : LayerIx) : Bool :=
  (s.die h).layerSrc l == 1 && (s.headCanvas h).any fun c => c.lineMode

/-- The state with a layer's source state on a head changed. -/
def State.onLayer (s : State) (h : DieIx) (l : LayerIx) (f : LayerRt → LayerRt) : State :=
  s.onDie h fun x => { x with head := { x.head with layers := x.head.layers.set l.val (f x.head.layers[l.val]) l.isLt } }

/-- A layer's source state. -/
def State.layer (s : State) (h : DieIx) (l : LayerIx) : LayerRt := (s.die h).head.layers[l.val]

/-- A layer shows its absent-source fill: under a fill, for content that its head may not carry (R244), and as a bundle layer that
no binding fills. -/
def State.showsFill (s : State) (h : DieIx) (l : LayerIx) : Bool :=
  let r := s.layer h l
  let unbound := (s.die h).layerSrc l == 1 && ((s.headCanvas h).bind fun c => c.layerEntry l).isNone
  ((s.die h).layerSrc l == 1 || (s.die h).layerSrc l == 2) && (r.fill || r.withheld || unbound)

/-- CMP_LAYER_RT: a layer's source state. -/
def State.layerRtWord (s : State) (h : DieIx) (l : LayerIx) : Nat :=
  let r := s.layer h l
  let q := s.layerSource h l
  let cad := (q.map fun q => q.cadence.code).getD 0
  let fields := (q.map fun q => q.form.interlaced).getD false
  cad + 4 * r.phase.toNat + 256 * b2n r.held + 512 * b2n (s.showsFill h l) + 1024 * b2n fields

/-! ### Holds and fills at a frame boundary -/

/-- The store has delivered a complete frame from an index on. -/
def Source.delivered (q : Source) (n : Option Nat) : Bool :=
  q.frames.any fun f => !f.bad && match n with
    | none => true
    | some k => decide (k ≤ f.index)

/-- The index after the last complete frame. -/
def Source.afterLast (q : Source) : Nat := (q.frames.getLast?.map fun f => f.index + 1).getD 0

/-- A layer's state at a frame boundary. `q` is none while its source has never delivered a line. The frame that a hold repeats
over the output frame is chosen here: the last complete one, and while a new rate is measured that of the old rate (R66, R68). -/
def LayerRt.atBoundary (r : LayerRt) (q : Option Source) (byLine : Bool) (now : Nat) : LayerRt :=
  let has := q.any fun q => q.delivered none
  let done := q.any fun q => q.delivered r.holdNext
  let fill := !has || r.fillNext == some true || (r.fill && !done)
  let next := if r.fillNext = some true then q.map Source.afterLast else if done then none else r.holdNext
  let blocked := fill || next.isSome || q.any fun q =>
    (match q.newRateFrames with
      | some n => decide (n < 2)
      | none => false) || (!byLine && decide (q.stamps.length < 2))
  let held := blocked || (r.held && !byLine)
  let old := q.bind fun q => if q.newRateFrames.any fun n => decide (n < 2) then q.oldLast else none
  let begun := (held && !r.held) || (held && r.fill && !fill)
  { r with held := held, fill := fill, blocked := blocked, fillNext := none, holdNext := next, lateFrom := none, shown := none, next := none,
           nearest := false, heldAt := if held then old.or (q.bind fun q => q.lastComplete.map SrcFrame.index) else none,
           holdFrom := if begun then some now else if held then r.holdFrom else none }

/-- Reports a layer that enters a hold or a fill: CMP_EVT.HOLD and CANVAS records. -/
def State.reportHold (s : State) (h : DieIx) (l : LayerIx) (old new : LayerRt) : State :=
  let hold := new.held && !old.held
  let fill := (new.fill || new.withheld) && !(old.fill || old.withheld)
  let s1 := if hold ∨ fill then s.raiseHead h Reg.cmpEvt 0x20 else s
  match s.headCanvas h with
  | none => s1
  | some c =>
    let s2 := if hold then s1.canvasEvent c 4 l.val 0 else s1
    if fill then s2.canvasEvent c 5 l.val 0 else s2

/-- The recurrent state of a canvas is reset for its current frame. -/
def State.resetRecurrent (s : State) (cv : CanvasId) : State :=
  s.onCanvas cv fun c => if c.resets.contains c.frameNo then c else { c with resets := c.resets ++ [c.frameNo] }

/-- A layer's state is replaced; a bundle layer that returns to neural work has its recurrent state reset (R66, R68). -/
def State.setLayer (s : State) (h : DieIx) (l : LayerIx) (new : LayerRt) : State :=
  let old := s.layer h l
  let s1 := (s.onLayer h l fun _ => new).reportHold h l old new
  if old.held && !new.held && (s.die h).layerSrc l == 1 then
    match s.headCanvas h with
    | some c => s1.resetRecurrent c.id
    | none => s1
  else s1

/-- HDCP-protected input that a layer carries: the highest content type of its source, or of every source of its canvas. -/
def State.protection (s : State) (h : DieIx) (l : LayerIx) : Option Nat :=
  let forms : List VideoForm :=
    if (s.die h).layerSrc l = 1 then
      match s.headCanvas h with
      | none => []
      | some c => (List.range c.binding.sources.length).filterMap fun i => (s.entrySource c i).map Source.form
    else (s.layerSource h l).toList.map Source.form
  forms.foldl (fun m f => match f.protect with
    | none => m
    | some t => some (max (m.getD 0) t.val)) none

/-- Content that a head's link may not carry (R244). -/
def State.withheld (s : State) (h : DieIx) (l : LayerIx) : Bool :=
  match s.protection h l, (s.die h).head.hdcp with
  | none, _ => false
  | some _, none => true
  | some t, some u => decide (u.val < t)

/-- The source rules of a layer at a frame boundary of its head. -/
def State.layerBoundary (s : State) (h : DieIx) (l : LayerIx) : State :=
  let r := { s.layer h l with withheld := s.withheld h l }
  s.setLayer h l (if s.layerSourced h l then r.atBoundary (s.layerSource h l) (s.layerByLine h l) s.gsc else r)

/-- The layers of a head that a binding sets, or those that it does not. -/
def State.layersOf (s : State) (h : DieIx) (bundle : Bool) : List LayerIx :=
  (List.finRange 16).filter fun l => ((s.die h).layerSrc l == 1) == bundle

/-! ### Frames j and j + 1 (R246) -/

/-- No frame to show. -/
def Retiming.none_ : Retiming := { j := none, next := none, phase := 0, snapped := false, late := true }

/-- The result of R246 at a moment. -/
def Source.retime (q : Source) (tau : Int) : Retiming :=
  let l := q.timed.filter fun f => !f.bad
  match l with
  | [] => Retiming.none_
  | f :: _ =>
    if tau < f.smoothed then { j := some f.index, next := (q.after f.index).map SrcFrame.index, phase := 0, snapped := false, late := false }
    else
      match ((l.zip l.tail).filter fun e => decide (e.1.smoothed ≤ tau) && decide (tau < e.2.smoothed)).getLast? with
      | none => Retiming.none_
      | some (a, b) =>
        let ph := (64 * (tau - a.smoothed) / (b.smoothed - a.smoothed)).toNat
        if 62 ≤ ph then
          { j := some b.index, next := (q.after b.index).map SrcFrame.index, phase := 0, snapped := true, late := false }
        else { j := some a.index, next := some b.index, phase := if ph ≤ 1 then 0 else BitVec.ofNat 6 ph, snapped := ph == 1, late := false }

/-- The frame of a line-mode source: the newest that has begun since the one shown before. -/
def Source.byLine (q : Source) (before : Option Nat) : Retiming :=
  let l := ((q.frames ++ q.capturing.toList).filter fun f => !f.bad && match before with
    | some n => decide (n < f.index)
    | none => true).getLast?
  match l with
  | some f => { j := some f.index, next := none, phase := 0, snapped := false, late := false }
  | none => { j := before, next := none, phase := 0, snapped := false, late := true }

/-- τ of an output frame whose line 0 falls at S, for a source with mean period P̄. -/
def tauOf (s0 lambda mean : Nat) : Int := (s0 : Int) - lambda - 2 * mean

/-- A layer's state once its source's frame is chosen; `last` is the store's last complete frame. A layer blocked at the boundary
stays held. -/
def LayerRt.withFrame (l : LayerRt) (r : Retiming) (byLine : Bool) (last : Option Nat) (now : Nat) : LayerRt :=
  if l.blocked then l
  else if byLine then { l with held := false, shown := if r.late then none else r.j, next := none, phase := 0 }
  else if r.late then { l with held := true, shown := none, next := none, phase := 0, heldAt := if l.held then l.heldAt else last,
                               holdFrom := if l.held then l.holdFrom else some now }
  else { l with held := false, shown := r.j, next := r.next, phase := r.phase, heldAt := none, holdFrom := none }

/-- The frame of a source entry at the current frame of its canvas. -/
def State.entryFrame (s : State) (c : Canvas) (i : Nat) : Retiming :=
  let b := c.binding
  match s.entrySource c i with
  | none => Retiming.none_
  | some q =>
    if c.lineMode then q.byLine ((c.retimings[i]?).bind Retiming.j)
    else
      q.retime (tauOf c.lineZero (lineTicksUp b.rate b.vtotal (leadLines b.stripeH (s.vMax c) c.computeLines)) q.meanPeriod)

/-- Frames of a canvas's source entries and the states of its layers (R246). In line mode, only where `again` is not asked or
the entry had no frame yet. -/
def State.retimeCanvas (s : State) (cv : CanvasId) (again : Bool) : State :=
  match s.canvas cv with
  | none => s
  | some c =>
    let old (i : Nat) : Retiming := (c.retimings[i]?).getD Retiming.none_
    let rs := (List.range c.binding.sources.length).map fun i =>
      if again && !(old i).late then old i else s.entryFrame c i
    let s1 := s.onCanvas cv fun k => { k with retimings := rs }
    c.binding.heads.foldl (fun s h => c.binding.layers.foldl (fun s e =>
      if e.source = 0xFF then s
      else
        let l : LayerIx := Fin.ofNat 16 e.layer
        let last := (s.entrySource c e.source).bind fun q => q.lastComplete.map SrcFrame.index
        s.setLayer h.1 l ((s.layer h.1 l).withFrame (rs.getD e.source Retiming.none_) c.lineMode last s.gsc)) s) s1

/-- S(k) of a head: the device time of line 0 that its latest frame boundary fixed (R246). -/
def State.lineZero (s : State) (h : DieIx) : Nat :=
  match s.headCanvas h with
  | some c => c.lineZero
  | none => (s.die h).head.lineZero

/-- Frames of the port layers of a head (R228, R246). On a head that carries no canvas, h is 32, V 0 and W 57: entry 30. -/
def State.retimePorts (s : State) (h : DieIx) : State :=
  let x := s.die h
  match x.head.mode with
  | none => s
  | some m =>
    let lead := match s.headCanvas h with
      | some c => leadLines c.binding.stripeH (s.vMax c) c.computeLines
      | none => leadLines 32 0 57
    let t := m.vtotal
    let start := s.lineZero h
    (s.layersOf h false).foldl (fun s l =>
      match s.layerSourced h l, s.layerSource h l with
      | true, some q => s.setLayer h l ((s.layer h l).withFrame (q.retime (tauOf start (lineTicksUp m.rate t lead) q.meanPeriod)) false
          (q.lastComplete.map SrcFrame.index) s.gsc)
      | _, _ => s) s

/-! ### Input tensors and the frame record (R247, R439) -/

/-- A canvas with a tensor's picture replaced by a source frame: every captured sample. -/
def Canvas.takePicture (c : Canvas) (t frame : Nat) (f : SrcFrame) : Canvas :=
  let p := (bTens c.image t).fmt
  let k := c.onBuf t frame fun u => (List.range (pixComps p)).foldl (fun u k =>
    let (ph, pw) := planeSize p k (min u.h f.form.height) (min u.w f.form.width)
    (List.range ph).foldl (fun u y => (List.range pw).foldl (fun u x => u.wr 0 y x k (f.raw k y x)) u) u) { u with elems := [] }
  { k with inputTags := sInsert k.inputTags (bufKey t frame) (f.counter.toNat, f.ts) }

/-- The primary source entry: the one whose tensor is SRC_J, else entry 0. DESIGN CHOICE, entry 29. -/
def Canvas.primary (c : Canvas) : Nat :=
  ((c.binding.sources.zipIdx.find? fun e => e.1.tensor == c.binding.srcJ).map Prod.snd).getD 0

/-- The frame j of an entry as the bundle's tensors take it: the last complete frame while none is chosen. -/
def Source.taken (q : Source) (r : Retiming) : Option SrcFrame :=
  match r.late, r.j.bind q.frame with
  | false, some f => some f
  | _, _ => q.lastComplete

/-- The bundle's input tensors take their frames at a release. -/
def State.fillInputs (s : State) (cv : CanvasId) (frame : Nat) : State :=
  match s.canvas cv with
  | none => s
  | some c =>
    let b := c.binding
    let put (k : Canvas) (t : Nat) (f : Option SrcFrame) : Canvas :=
      match f with
      | some f => if t = 0xFFFF then k else k.takePicture t frame f
      | none => k
    let each := (List.range b.sources.length).foldl (fun k i =>
      match s.entrySource c i, c.retimings[i]?, b.sources[i]? with
      | some q, some r, some e => put k e.tensor (q.taken r)
      | _, _, _ => k) c
    let i := c.primary
    let done := match s.entrySource c i, c.retimings[i]? with
      | some q, some r =>
        let f := q.taken r
        let n := (r.next.bind q.frame).or f
        put (if b.sources.any fun e => e.tensor == b.srcJ then each else put each b.srcJ f) b.srcJ1 n
      | _, _ => each
    s.onCanvas cv fun k => { k with tensors := done.tensors, inputTags := done.inputTags }

/-- R29 forces the nearest frame on a die. -/
def State.forceNearest (s : State) (d : DieIx) : Bool := s.power.point == .op3 || (s.die d).sfn.restart.isSome

/-- Flags and counters of a canvas's frame record. -/
def State.frameFlags (s : State) (c : Canvas) : Nat × Nat × Nat :=
  let i := c.primary
  match s.entrySource c i, c.retimings[i]? with
  | some q, some r =>
    let ctr (f : Option SrcFrame) : Nat := (f.map fun f => f.counter.toNat).getD 0
    (b2n r.snapped + 2 * b2n (s.forceNearest (dieOf c.binding.head0)) + 4 * q.cadence.code, ctr (q.taken r), ctr (r.next.bind q.frame))
  | _, _ => (0, 0, 0)

/-- The 64-byte frame record (R247). -/
def frameRecord (step ph flags ctrJ ctrJ1 : Nat) : List Byte :=
  leBytes 8 step ++ leBytes 4 ph ++ leBytes 4 flags ++ leBytes 8 ctrJ ++ leBytes 8 ctrJ1 ++ List.replicate 32 0

/-- The phase of the primary entry. -/
def Canvas.phaseNow (c : Canvas) : Nat := ((c.retimings[c.primary]?).map fun r => r.phase.toNat).getD 0

/-- ph, flags and the counters of j and j + 1 of a canvas's frame. -/
def State.frameInfo (s : State) (c : Canvas) : List Nat :=
  let (fl, a, b) := s.frameFlags c
  [c.phaseNow, fl, a, b]

/-- The frame record is written into the tensor that the binding names, where it names one. -/
def State.writeFrec (s : State) (cv : CanvasId) (frame : Nat) (info : List Nat) : State :=
  s.onCanvas cv fun c =>
    let k := { c with info := info }
    if c.binding.frec = 0xFFFF then k
    else k.onBuf c.binding.frec frame fun u =>
      u.ofBytes (frameRecord (c.stepOf frame).toNat (info.getD 0 0) (info.getD 1 0) (info.getD 2 0) (info.getD 3 0))

/-! ### The Resampler (R27, R49, R66, R361) -/

/-- Captured lines of a source that the fall-back band of a stripe reads. -/
def Canvas.stripeLines (c : Canvas) (x : LayerEntry) (h : DieIx) (stripe : Nat) (t : Blend) (bottom : Bool) (level : Nat) : List Nat :=
  let u := c.wholeBand (c.layerOp x).out0
  ((List.range (pixComps x.pixfmt)).flatMap fun k =>
    let b := c.stripeBand x h stripe k
    let (dh, _) := planeSize x.pixfmt k u.y1 u.x1
    let (sh, _) := planeSize t.a.p k t.a.h t.a.w
    bandLines t.a.p sh dh k (t.reach level) b.y0 b.y1 bottom).eraseDups

/-- A raw fall-back sample: what the Resampler gives component k of the layer's format. A component that the source lacks is
opaque alpha: entry 27. -/
def Canvas.resampled (c : Canvas) (cf : Coefs) (x : LayerEntry) (t : Blend) (bottom : Bool) (k y xx : Nat) : Nat :=
  let u := c.wholeBand (c.layerOp x).out0
  let (dh, dw) := planeSize x.pixfmt k u.y1 u.x1
  raw16 x.pixfmt (if pixComps t.a.p ≤ k then 65535 else resampleAt cf t bottom k dh dw y xx)

/-- A raw sample of the fill of a layer without a source: CMP_LAYER_FILL, opaque. -/
def Die.fillRaw (d : Die) (l : LayerIx) (p k : Nat) : Nat :=
  if k = 3 then raw16 p 65535 else raw16 p (norm16 10 (natBits (d.inForce (Reg.cmpLayerFill l)).toNat (10 * k + 9) (10 * k)))

/-- Frames that a layer's Resampler reads in a stripe, with the temporal stage. -/
def State.stageFor (s : State) (h : DieIx) (l : LayerIx) (rq stripe : Nat) (q : Source) :
    Option (SrcFrame × Option SrcFrame × Blend × Bool) :=
  let x := s.die h
  (q.layerFrames (s.layer h l) stripe).map fun e =>
    let nearest := (s.layer h l).nearest || s.forceNearest h
    let t := temporal rq (x.field Reg.cmpRetime 7 0) e.2.2 nearest e.1 e.2.1
    (e.1, if t.1.b.isSome then e.2.1 else none, t)

/-- The temporal stage alone. -/
def State.blendFor (s : State) (h : DieIx) (l : LayerIx) (rq stripe : Nat) (q : Option Source) : Option (Blend × Bool) :=
  match q with
  | none => none
  | some q => (s.stageFor h l rq stripe q).map fun e => e.2.2

/-- A source frame of a store is taken as incomplete (R361). -/
def State.spoil (s : State) (d : DieIx) (q : Source) (j : Nat) : State :=
  s.onSource d (sameSource q) fun y =>
    { y with frames := y.frames.map fun f => if f.index == j then { f with bad := true } else f,
             capturing := y.capturing.map fun f => if f.index == j then { f with bad := true } else f }

/-- From a stripe on, a layer reads one complete frame, on every head of the canvas: it is held until a later one is complete
(R66). -/
def State.layerLate (s : State) (c : Canvas) (l : LayerIx) (stripe : Nat) (q : Source) : State :=
  c.binding.heads.foldl (fun s h => s.onLayer h.1 l fun r =>
    { r with lateFrom := some (min stripe (r.lateFrom.getD stripe)), holdNext := some (r.holdNext.getD q.afterLast),
             heldAt := r.heldAt.or (q.lastComplete.map SrcFrame.index) }) s

/-- Guard failures that the Resampler finds among the lines it reads of a frame. -/
def SrcFrame.failures (f : SrcFrame) (lines : List Nat) : Nat :=
  (lines.filter fun n => match f.line n with
    | some l => !f.lineGood l
    | none => false).length

/-- The Resampler writes the fall-back rows of one layer of a head for a stripe (R49), after its checks of the lines and of the
vector field that it reads. -/
def State.resampleStripe (s : State) (cv : CanvasId) (h : DieIx) (e : LayerEntry) (stripe : Nat) (inp : LineIn) : State :=
  match s.canvas cv with
  | none => s
  | some c =>
    let l : LayerIx := Fin.ofNat 16 e.layer
    let b := c.binding
    let cf := coefSet (s.die h).coefForce b.coef
    let write (s : State) (f : Nat → Nat → Nat → Nat) : State := s.onCanvas cv fun k => k.setFallback e h stripe f
    let src := if e.source = 0xFF then none else s.entrySource c e.source
    let d := ((b.sources[e.source]?).map fun y => dieOf y.die).getD h
    let done := match src with
      | none => write s fun k _ _ => (s.die h).fillRaw l e.pixfmt k
      | some q =>
        let late0 := c.lineMode && !(s.layer h l).held && (s.layer h l).shown.isNone
        let s0 := if late0 then s.layerLate c l stripe q else s
        match s0.stageFor h l b.rq stripe q with
        | none => write s0 fun k _ _ => (s.die h).fillRaw l e.pixfmt k
        | some (j, j1, t) =>
          let badVec := inp.badVector.contains l && b.rq == 2 && t.1.b.isSome
          let s1 := if badVec then
              ((s0.onLayer h l fun r => { r with nearest := true }).countRaise h Reg.sfnVecGuardCnt Reg.sfnEvt 0x0008)
            else s0
          let t1 := (s1.blendFor h l b.rq stripe (some q)).getD t
          let lines := c.stripeLines e h stripe t1.1 t1.2 b.rq
          let missing := lines.any fun n => (j.line n).isNone
          let bad := j.failures lines + (match j1 with
            | some f => f.failures lines
            | none => 0) + (if inp.badSource.contains e.source then 1 else 0)
          let s2 := if bad = 0 then s1
            else
              let out := if 0 < j.failures lines ∨ inp.badSource.contains e.source = true then j.index else (j1.map SrcFrame.index).getD j.index
              (((s1.count h Reg.sfnGuardCnt bad).raise h Reg.sfnEvt 0x0008).spoil d q out).layerLate c l stripe q
          let s3 := if missing then s2.layerLate c l stripe q else s2
          match s3.blendFor h l b.rq stripe (s3.entrySource c e.source) with
          | none => write s3 fun k _ _ => (s.die h).fillRaw l e.pixfmt k
          | some t2 => write s3 fun k y x => c.resampled cf e t2.1 t2.2 k y x
    let mine (p : PartSt) : Bool := p.frame == c.frameNo && p.id.head == h && p.id.layer == l && p.id.stripe == stripe
    done.onCanvas cv fun k =>
      let ps := k.parts.map fun p => if mine p then { p with fallbackStarted := true } else p
      { k with parts := ps }

end Sys2Proof.Machine
end

