-- ==== Sys2Proof/Machine/Compose.lean ====
section
/-! DEFINITION. The Composer and scan-out of a line: layers as pictures, scaling, colour, blending, the limiter, the line CRC and
write-back (R46, R227 to R237, R242 to R244, R252, R353, R358, R359). -/

namespace Sys2Proof.Machine

/-! ### Layers as pictures (R227) -/

/-- A signed field of 16 bits in force. -/
def Die.sField (x : Die) (off hi lo : Nat) : Int := signedOf 16 (x.fField off hi lo)

/-- A picture in DRAM: base, pitch, format, width and plane height. -/
def Die.dramView (x : Die) (base pitch p w h : Nat) : View :=
  { p := p, w := w, h := h, raw := fun k y c =>
      let l := sampleLoc p k c
      l.get (leNat (x.readDram (base + planeOffset p l.plane pitch h + y * pitch + l.off) l.bytes)) }

/-- A layer's DRAM picture. Its planes are those of a picture as tall as its source rectangle reaches: entry 26. -/
def Die.pictureView (x : Die) (l : LayerIx) : View :=
  let f (o : LayerIx → Nat) (hi lo : Nat) : Nat := x.fField (o l) hi lo
  x.dramView (f Reg.cmpLayerBaseLo 31 0 + 2 ^ 32 * f Reg.cmpLayerBaseHi 7 0) (f Reg.cmpLayerPitch 23 0) (f Reg.cmpLayerCtrl 8 5)
    (f Reg.cmpLayerSrcXy 15 0 + f Reg.cmpLayerSrcWh 15 0) (f Reg.cmpLayerSrcXy 31 16 + f Reg.cmpLayerSrcWh 31 16)

/-- The stripe part of a layer that holds a sample of a component of its picture. -/
def Canvas.partAt (c : Canvas) (x : LayerEntry) (k y xx : Nat) : Option PartSt :=
  let r := c.binding.regions.find? fun r =>
    let b := c.planeBand x k r.y0 (r.y0 + r.h) r.x0 (r.x0 + r.w)
    decide (b.y0 ≤ y) && decide (y < b.y1) && decide (b.x0 ≤ xx) && decide (xx < b.x1)
  r.bind fun r => c.parts.find? fun p => p.frame == c.frameNo && p.id.head == r.head && p.id.half == r.half &&
    p.id.layer.val == x.layer &&
    (let b := c.stripeBand x r.head p.id.stripe k
     decide (b.y0 ≤ y) && decide (y < b.y1))

/-- A bundle layer's picture as the Composer reads it: the stripe latched at the deadline, part by part. -/
def Canvas.bundleView (c : Canvas) (e : LayerEntry) : View :=
  let u := c.wholeBand (c.layerOp e).out0
  { p := e.pixfmt, w := u.x1, h := u.y1, raw := fun k y x =>
      match (c.partAt e k y x).bind PartSt.choice with
      | some .neural => c.neuralRaw e c.frameNo k y x
      | _ => c.fallbackSample e c.frameNo k y x }

/-- A port layer's picture: the temporal stage of the Resampler in the layer's format, each component from the source component
of its number; entry 27. -/
def State.portView (s : State) (h : DieIx) (l : LayerIx) : Option View :=
  let p := (s.die h).fField (Reg.cmpLayerCtrl l) 8 5
  let rq := ((s.headCanvas h).map fun c => c.binding.rq).getD 0
  (s.blendFor h l rq 0 (s.layerSource h l)).map fun t =>
    { p := p, w := t.1.a.w, h := t.1.a.h, raw := fun k y x =>
        raw16 p (if pixComps t.1.a.p ≤ k then 65535 else t.1.at_ k y x) }

/-- A port layer shows a bottom field, whose vertical tap positions R249 shifts. -/
def State.portBottom (s : State) (h : DieIx) (l : LayerIx) : Bool :=
  (s.die h).layerSrc l == 2 && ((s.blendFor h l (((s.headCanvas h).map fun c => c.binding.rq).getD 0) 0
    (s.layerSource h l)).map Prod.snd).getD false

/-- What a layer shows: a picture, its fill colour, or nothing. -/
inductive Shown where
  | view (v : View)
  | colour
  | nothing

/-- The absent-source fill of a layer, with what it shows where ABSENT is 2 (R228). -/
def Die.absentFill (x : Die) (l : LayerIx) (hold : Shown) : Shown :=
  match x.fField (Reg.cmpLayerCtrl l) 12 11 with
  | 0 => .nothing
  | 2 => hold
  | _ => .colour

/-- What a layer of a head shows; `wb` for write-back, which carries no protected layer (R244). A held fill has no meaning for
withheld content, which is then transparent: entry 30. -/
def State.shows (s : State) (h : DieIx) (l : LayerIx) (wb : Bool) : Shown :=
  let x := s.die h
  let r := s.layer h l
  let content : Shown :=
    if x.layerSrc l = 0 then .view (x.pictureView l)
    else if x.layerSrc l = 1 then
      match s.headCanvas h with
      | none => .colour
      | some c => match c.layerEntry l with
        | some e => .view (c.bundleView e)
        | none => .colour
    else match s.portView h l with
      | some v => .view v
      | none => .colour
  if x.layerSrc l = 0 then content
  else if r.withheld ∨ (wb = true ∧ (s.protection h l).isSome = true) then x.absentFill l .nothing
  else if r.fill ∨ (x.layerSrc l = 1 ∧ ((s.headCanvas h).bind fun c => c.layerEntry l).isNone) then x.absentFill l content
  else content

/-! ### Scaling, colour and blending (R232, R236, R237) -/

/-- Scaled components R, G, B or Y, Cb, Cr and alpha of a layer at a place of the canvas; `bottom` for a bottom field (R249). -/
def Die.scaled (x : Die) (l : LayerIx) (bottom : Bool) (v : View) (cx cy : Int) : List Nat :=
  let f (o : LayerIx → Nat) (hi lo : Nat) : Nat := x.fField (o l) hi lo
  let ch := coefSet x.coefForce (f Reg.cmpLayerCtrl 15 14)
  let cv := coefSet x.coefForce (f Reg.cmpLayerCtrl 17 16)
  (List.range 4).map fun k =>
    filterAxis cv cy (x.sField (Reg.cmpLayerDstXy l) 31 16) (f Reg.cmpLayerDstWh 31 16) (f Reg.cmpLayerSrcXy 31 16)
      (f Reg.cmpLayerSrcWh 31 16) bottom fun sy =>
        filterAxis ch cx (x.sField (Reg.cmpLayerDstXy l) 15 0) (f Reg.cmpLayerDstWh 15 0) (f Reg.cmpLayerSrcXy 15 0)
          (f Reg.cmpLayerSrcWh 15 0) false fun sx => v.comp16 x.lutForce k sy sx

/-- The matrix of a layer, in rows. -/
def Die.matrix (x : Die) (l : LayerIx) (i j : Nat) : Int :=
  let w (n : Nat) : Nat := (x.inForce (Reg.cmpLayerCsc0 l + 4 * (n / 2))).toNat / 2 ^ (16 * (n % 2))
  signedOf 16 (w (3 * i + j) % 65536)

/-- R236. -/
def Die.colour (x : Die) (l : LayerIx) (px : List Nat) : List Nat :=
  (List.range 3).map fun i =>
    let o := signedOf 20 (x.fField (Reg.cmpLayerOff l i) 19 0)
    let acc := (List.range 3).foldl (fun a j => a + x.matrix l i j * (px.getD j 0 : Int)) (o * 4096 + 2048)
    (clampInt 0 65535 (floorDiv acc 4096)).toNat

/-- R237, one component. -/
def blend1 (premul : Bool) (s a pa d : Nat) : Nat :=
  let aa := (a * pa + 32767) / 65535
  if premul then min 65535 ((s * pa + 32767) / 65535 + (d * (65535 - aa) + 32767) / 65535)
  else (s * aa + d * (65535 - aa) + 32767) / 65535

/-- A 10-bit colour field as U16. -/
def tenBits (w : Word) (k : Nat) : Nat := norm16 10 (bits w (10 * k + 9) (10 * k))

/-- Whether a place of the canvas lies in a layer's destination rectangle. -/
def Die.inDest (x : Die) (l : LayerIx) (cx cy : Int) : Bool :=
  let dx := x.sField (Reg.cmpLayerDstXy l) 15 0
  let dy := x.sField (Reg.cmpLayerDstXy l) 31 16
  decide (dx ≤ cx) && decide (cx < dx + x.fField (Reg.cmpLayerDstWh l) 15 0) && decide (dy ≤ cy) &&
    decide (cy < dy + x.fField (Reg.cmpLayerDstWh l) 31 16)

/-- One layer blended over a pixel. -/
def Die.blendLayer (x : Die) (l : LayerIx) (bottom : Bool) (v : Shown) (cx cy : Int) (d : List Nat) : List Nat :=
  if x.inDest l cx cy = false then d
  else match v with
    | .nothing => d
    | .colour => (List.range 3).map fun k => tenBits (x.inForce (Reg.cmpLayerFill l)) k
    | .view v =>
      let px := x.scaled l bottom v cx cy
      let col := x.colour l px
      let pa := x.fField (Reg.cmpLayerAlpha l) 15 0
      let pm := x.fField (Reg.cmpLayerCtrl l) 13 13 == 1
      (List.range 3).map fun k => blend1 pm (col.getD k 0) (px.getD 3 65535) pa (d.getD k 0)

/-- Enabled layers of a head in ascending Z. -/
def Die.zOrder (x : Die) : List LayerIx :=
  (List.range 16).flatMap fun z => (List.finRange 16).filter fun l =>
    x.fField (Reg.cmpLayerCtrl l) 0 0 == 1 && x.fField (Reg.cmpLayerCtrl l) 4 1 == z

/-- The origin of a head's region in the canvas. -/
def State.headOrigin (s : State) (h : DieIx) : Nat × Nat :=
  match s.headCanvas h with
  | none => (0, 0)
  | some c => let (col, row) := c.headPlace h; (col * c.binding.regionW, row * c.binding.regionH)

/-- R, G, B of every pixel of a line of a head, layers of `skip` left out. -/
def State.composeLine (s : State) (h : DieIx) (line : Nat) (skip : List LayerIx) (wb : Bool) : List (BitVec 16) :=
  let x := s.die h
  let w := (x.head.mode.map fun m => m.w).getD 0
  let (ox, oy) := s.headOrigin h
  let ls := (x.zOrder.filter fun l => !skip.contains l).map fun l => (l, s.portBottom h l, s.shows h l wb)
  (List.range w).flatMap fun i =>
    let px := ls.foldl (fun d e => x.blendLayer e.1 e.2.1 e.2.2 ((ox + i : Nat) : Int) ((oy + line : Nat) : Int) d)
      ((List.range 3).map fun k => tenBits (x.inForce Reg.cmpBg) k)
    px.map (BitVec.ofNat 16)

/-! ### The fetch of a line (R41, R46, R353) -/

/-- A bundle layer's luma rows that the lines from one on of its head read no more: the parts wholly above them are read. -/
def State.partsRead (s : State) (h : DieIx) (line : Nat) : State :=
  let x := s.die h
  match s.headCanvas h, x.head.mode with
  | some c, some m =>
    let (_, oy) := s.headOrigin h
    let last := decide (m.h ≤ line + 1)
    let gone (p : PartSt) : Bool := p.id.head == h && p.frame == c.frameNo && match c.layerEntry p.id.layer with
      | none => true
      | some e =>
        let l := p.id.layer
        let (sh, dh) := (x.fField (Reg.cmpLayerSrcWh l) 31 16, x.fField (Reg.cmpLayerDstWh l) 31 16)
        let dy := x.sField (Reg.cmpLayerDstXy l) 31 16
        let o : Int := ((oy + line + 1 : Nat) : Int)
        let low : Int := if dh = sh then o - dy else (tapPos o dy dh 0 sh false).1 - 3
        last || decide (((c.stripeBand e h p.id.stripe 0).y1 : Int) ≤ low)
    s.onCanvas c.id fun k =>
      let ps := k.parts.map fun p => if gone p then { p with read := true } else p
      { k with parts := ps }
  | _, _ => s

/-- The vector field of a port layer that blends at level 2 fails its guard: its temporal stage takes the nearest frame from then
on (R29, R361). -/
def State.portVectors (s : State) (h : DieIx) (badVector : List LayerIx) : State :=
  let rq := ((s.headCanvas h).map fun c => c.binding.rq).getD 0
  let hit := badVector.filter fun l => (s.die h).layerSrc l == 2 && rq == 2 &&
    (s.blendFor h l rq 0 (s.layerSource h l)).any fun t => t.1.b.isSome
  hit.foldl (fun s l => (s.onLayer h l fun r => { r with nearest := true }).countRaise h Reg.sfnVecGuardCnt Reg.sfnEvt 0x0008) s

/-- The Composer fetches and composes a line. A bundle or port layer whose row fails its CRC takes no part (R353). -/
def State.fetchLine (s : State) (h : DieIx) (line : Nat) (badRows badVector : List LayerIx) : State :=
  let x := s.die h
  let bad := badRows.filter fun l => x.fField (Reg.cmpLayerCtrl l) 0 0 == 1 && x.layerSrc l != 0
  let s0 := s.portVectors h badVector
  let s1 := if bad.isEmpty then s0 else (s0.count h Reg.sfnReadCrcCnt bad.length).raise h Reg.sfnEvt 0x0010
  let f : Fetched := { line := line, out := s1.composeLine h line bad false, wb := s1.composeLine h line bad true }
  let s2 := s1.onDie h fun y => { y with head := { y.head with fetched := y.head.fetched ++ [f] } }
  s2.partsRead h line

/-! ### Scan-out (R242, R243, R252, R358, R359) -/

/-- Bits per component of the link. -/
def Die.linkDepth (x : Die) : Nat :=
  match x.fField Reg.scnCtrl 2 1 with
  | 0 => 8
  | 1 => 10
  | _ => 12

/-- (c × G + 16384) >> 15. -/
def gainOf (c g : Nat) : Nat := (c * g + 16384) / 32768

/-- A component after the first two steps of R358. -/
def Die.capped (x : Die) (c : Nat) : Nat := min (gainOf c (x.field Reg.sfnBright 15 0)) (x.field Reg.sfnCap 15 0)

/-- Triples of a list of components. -/
def pixels : List (BitVec 16) → List (Nat × Nat × Nat)
  | r :: g :: b :: t => (r.toNat, g.toNat, b.toNat) :: pixels t
  | _ => []

/-- A pixel of write-back in its format (R242). -/
def wbPixel (p : Nat) (px : Nat × Nat × Nat) : List Byte :=
  let (r, g, b) := px
  if p = 10 then leBytes 1 (toDepth 8 r) ++ leBytes 1 (toDepth 8 g) ++ leBytes 1 (toDepth 8 b)
  else if p = 11 then leBytes 4 (toDepth 10 r + 2 ^ 10 * toDepth 10 g + 2 ^ 20 * toDepth 10 b)
  else if p = 12 then leBytes 2 (16 * toDepth 12 r) ++ leBytes 2 (16 * toDepth 12 g) ++ leBytes 2 (16 * toDepth 12 b)
  else leBytes 2 (toHalf r) ++ leBytes 2 (toHalf g) ++ leBytes 2 (toHalf b) ++ leBytes 2 0x3C00

/-- Address of a write-back buffer. -/
def Die.wbBase (x : Die) (b : Nat) : Nat :=
  x.fField Reg.cmpWbBaseLo 31 0 + 2 ^ 32 * x.fField Reg.cmpWbBaseHi 7 0 + b * x.fField Reg.cmpWbStride 31 0

/-- A line of a frame that is written back: written, or dropped where DRAM cannot accept it. -/
def State.wbLine (s : State) (h : DieIx) (line : Nat) (px : List (BitVec 16)) (accept : Bool) : State :=
  let x := s.die h
  match x.head.wb.writing with
  | none => s
  | some b =>
    if accept then s.onDie h fun y => y.copyIn (y.wbBase b + line * y.fField Reg.cmpWbPitch 23 0)
      ((pixels px).flatMap (wbPixel (y.fField Reg.cmpWbCtrl 4 1)))
    else
      ((s.count h Reg.cmpWbDrop 1).raiseHead h Reg.cmpEvt 0x10).onDie h fun y =>
        { y with head := { y.head with wb := { y.head.wb with incomplete := true } } }

/-- A line of a write-back buffer as R, G, B in U16. -/
def Die.wbRead (x : Die) (b line w : Nat) : List (BitVec 16) :=
  let p := x.fField Reg.cmpWbCtrl 4 1
  let v := x.dramView (x.wbBase b) (x.fField Reg.cmpWbPitch 23 0) p w (line + 1)
  (List.range w).flatMap fun i => (List.range 3).map fun k => BitVec.ofNat 16 (sample16 p (v.raw k line i))

/-- A line is scanned: limited, summed for the APL limiter, and its CRC at link depth taken. -/
def State.scanLine (s : State) (h : DieIx) (line : Nat) (accept : Bool) : State :=
  let x := s.die h
  match x.head.fetched.find? fun f => f.line == line with
  | none => s
  | some f =>
    let w := (x.head.mode.map fun m => m.w).getD 0
    let out := match x.head.te.repeatFrame, x.head.te.good with
      | true, some b => x.wbRead b line w
      | _, _ => f.out
    let caps := (pixels out).map fun px => (x.capped px.1, x.capped px.2.1, x.capped px.2.2)
    let g := x.head.gain.toNat
    let d := x.linkDepth
    let one (c : Nat) : List Byte := leBytes 2 (toDepth d (gainOf c g))
    let crc := crc32c (caps.flatMap fun px => one px.1 ++ one px.2.1 ++ one px.2.2)
    let sum := (caps.map fun px => lumaOf 10 px.1 px.2.1 px.2.2).sum
    let s1 := (s.setReg h Reg.scnLineCrc crc).onDie h fun y =>
      let e := { y.head.echo with lineCrcs := crc :: y.head.echo.lineCrcs }
      { y with head := { y.head with fetched := y.head.fetched.filter (fun f => f.line != line), lumaSum := y.head.lumaSum + sum,
                                     lumaCount := y.head.lumaCount + caps.length, echo := e } }
    s1.wbLine h line f.wb accept

/-- The APL gain of the next frame, and whether the limiter acts (R359). -/
def aplNext (cap sum count a : Nat) : Nat × Bool :=
  let m := sum / max count 1
  let target := if m = 0 then 32768 else min 32768 (cap * 32768 / m)
  (if target < a then target else min target (a + 512), decide (target < 32768))

/-- APL_GAIN_UPDATE at a frame boundary. -/
def State.aplUpdate (s : State) (h : DieIx) : State :=
  let x := s.die h
  let (a, act) := aplNext (x.field Reg.sfnCap 31 16) x.head.lumaSum x.head.lumaCount x.head.gain.toNat
  let s1 := (s.onDie h fun y => { y with head := { y.head with gain := BitVec.ofNat 16 a, lumaSum := 0, lumaCount := 0 } }).setReg h
    Reg.sfnGain (BitVec.ofNat 32 a)
  if act then s1.raise h Reg.sfnEvt 0x2000 else s1

/-- CRC-32C of some line CRCs in order. -/
def crcOfCrcs (l : List Word) : Word := crc32c (l.flatMap fun w => leBytes 4 w.toNat)

/-- The CRCs of a frame's output stripes (Table 11.4, OUTPUT). -/
def stripeCrcs (h : Nat) (lines : List Word) : List Word :=
  (List.range (ceilDiv lines.length (max h 1))).map fun k => crcOfCrcs ((lines.drop (k * h)).take h)

end Sys2Proof.Machine
end

