-- ==== Sys2Proof/Machine/Commit.lean ====
section
/-! DEFINITION. Commits: the shadows, the checks of Table 9.5, GO, a spanning GO, the latch, the loads of the encode table and of
the coefficient sets, and what a latch does to the link (R231, R233 to R243, R251, R253 to R257, R363, R397). -/

namespace Sys2Proof.Machine

/-! ### Shadows -/

/-- Offsets of the registers of some rows that are shadowed. -/
def shadowIn (base : Nat) (rows : List Row) : List Nat :=
  (rows.filter fun r => r.shadow).flatMap fun r => (List.range r.count).map fun i => base + r.off + r.stride * i

/-- Offsets of every shadowed register of a head. -/
def shadowOffs : List Nat :=
  shadowIn 0x38_0000 cmpRows ++ ((List.range 16).flatMap fun l => shadowIn (0x38_1000 + 0x80 * l) cmpSubRows) ++
    shadowIn 0x3A_0000 scnRows

/-- A die with every shadow of its head in force. -/
def Die.latched (x : Die) : Die :=
  { x with force := shadowOffs.foldl (fun m o => sSet regReset m o (x.reg o)) x.force, lutForce := x.lut, coefForce := x.coef }

/-- CMP_COMMIT shows the head's commit; VIEW keeps its value. -/
def Die.showCommit (x : Die) : Die :=
  let c := x.head.commit
  x.setReg Reg.cmpCommit (BitVec.ofNat 32 (4 * x.field Reg.cmpCommit 2 2 + 8 * b2n c.pending + 16 * c.status.toNat + 4096 * c.seq.toNat))

/-- SCN_STATUS shows the link, the command mode and the compression in force. -/
def Die.showLink (x : Die) : Die :=
  ((x.setField Reg.scnStatus 1 1 (x.fField Reg.scnCtrl 0 0)).setField Reg.scnStatus 3 3 (x.fField Reg.scnTeCtrl 0 0)).setField
    Reg.scnStatus 6 6 (x.fField Reg.scnCtrl 3 3)

/-- The state with a head's commit changed. -/
def State.onCommit (s : State) (h : DieIx) (f : Commit → Commit) : State :=
  s.onDie h fun x => ({ x with head := { x.head with commit := f x.head.commit } } : Die).showCommit

/-! ### The checks of Table 9.5, over the shadows as they would be in force -/

/-- Enabled layers. -/
def Die.enabled (x : Die) : List LayerIx := (List.finRange 16).filter fun l => x.fField (Reg.cmpLayerCtrl l) 0 0 == 1

/-- Source width and height that a head fetches of a layer: its share of a bundle layer (R227). -/
def Die.fetchSize (x : Die) (c : Option Canvas) (l : LayerIx) : Nat × Nat :=
  let w := x.fField (Reg.cmpLayerSrcWh l) 15 0
  let h := x.fField (Reg.cmpLayerSrcWh l) 31 16
  match c with
  | some c => if x.layerSrc l = 1 then (w / max c.binding.cols 1, h / max c.binding.rows 1) else (w, h)
  | none => (w, h)

/-- Bytes of one source row over all planes. -/
def rowBytes (p w : Nat) : Nat := ((List.range (pixPlanes p)).map fun q => planeRowBytes p q w).sum

/-- Check 1. The values of BPC and DSC_SLICES that name no option of Tables 9.8 and 9.9 are check 6. -/
def Die.commitCheck1 (x : Die) : Bool :=
  ((List.finRange 16).all fun l => decide (x.fField (Reg.cmpLayerCtrl l) 8 5 ≤ 13) && x.layerSrc l != 3 &&
    x.fField (Reg.cmpLayerCtrl l) 12 11 != 3 && x.fField (Reg.cmpLayerSource l) 1 0 != 3) &&
  (List.range 16).all fun z => decide ((x.enabled.filter fun l => x.fField (Reg.cmpLayerCtrl l) 4 1 == z).length ≤ 1)

/-- Check 2. -/
def Die.commitCheck2 (x : Die) : Bool :=
  (List.finRange 16).all fun l =>
    let p := x.fField (Reg.cmpLayerCtrl l) 8 5
    let sx := x.fField (Reg.cmpLayerSrcXy l) 15 0
    let sy := x.fField (Reg.cmpLayerSrcXy l) 31 16
    let w := x.fField (Reg.cmpLayerSrcWh l) 15 0
    let h := x.fField (Reg.cmpLayerSrcWh l) 31 16
    let pitch := x.fField (Reg.cmpLayerPitch l) 23 0
    let aligned := x.layerSrc l != 0 || (x.fField (Reg.cmpLayerBaseLo l) 5 0 == 0 && pitch % 64 == 0 &&
      (List.range (pixPlanes p)).all fun q => decide (planeRowBytes p q (sx + w) ≤ pitch))
    aligned && (!(decide (p < 8)) || (sx % 2 == 0 && w % 2 == 0)) && (!(decide (p < 4)) || (sy % 2 == 0 && h % 2 == 0))

/-- Check 3 (R234). -/
def Die.commitCheck3 (x : Die) (c : Option Canvas) : Bool :=
  x.enabled.all fun l =>
    let w := x.fField (Reg.cmpLayerSrcWh l) 15 0
    let h := x.fField (Reg.cmpLayerSrcWh l) 31 16
    let dw := x.fField (Reg.cmpLayerDstWh l) 15 0
    let dh := x.fField (Reg.cmpLayerDstWh l) 31 16
    let (fw, fh) := x.fetchSize c l
    let least := if fw ≤ 3840 then 4 else 2
    decide (1 ≤ dw) && decide (1 ≤ dh) && decide (1 ≤ fw) && decide (fw ≤ 7680) && decide (1 ≤ fh) && decide (fh ≤ 8640) &&
      decide (w ≤ least * dw) && decide (h ≤ least * dh) && decide (dw ≤ 16 * w) && decide (dh ≤ 16 * h)

/-- Check 4 (R233). -/
def Die.commitCheck4 (x : Die) : Bool :=
  (List.range 4).all fun set => (List.range 64).all fun ph =>
    ((List.range 8).map fun tap => coefSet x.coefForce set ph tap).sum == 256

/-- Bytes of a write-back row. -/
def Die.wbRowBytes (x : Die) (p : Nat) : Nat := rowBytes p ((x.head.mode.map fun m => m.w).getD 0)

/-- Check 5 (R242, R251, R363). `echo` says that SFN_ECHO_CTRL.EN is set for the head. -/
def Die.commitCheck5 (x : Die) (c : Option Canvas) (echo : Bool) : Bool :=
  let p := x.fField Reg.cmpWbCtrl 4 1
  let pitch := x.fField Reg.cmpWbPitch 23 0
  let wb := x.fField Reg.cmpWbCtrl 0 0 == 1
  (!wb || (decide (10 ≤ p) && decide (p ≤ 13) && x.fField Reg.cmpWbBaseLo 5 0 == 0 && x.fField Reg.cmpWbStride 31 0 % 64 == 0 &&
    pitch % 64 == 0 && decide (x.wbRowBytes p ≤ pitch))) &&
  (x.fField Reg.scnTeCtrl 0 0 == 0 || ((c.any fun c => c.binding.heads.length == 1) && wb && x.fField Reg.cmpWbCtrl 11 8 == 0 &&
    decide (1 ≤ x.fField Reg.cmpWbCtrl 7 5))) &&
  !(echo && x.fField Reg.scnCtrl 3 3 == 1)

/-- A rate that the link of a head carries: at most what Table 9.10 shows accepted, or less than what it shows refused and
accepted by a payload rate that the manual does not give (entry 36). `rate` is in thousandths of a bit per second. -/
def linkFits (hdmi : Bool) (rate : Nat) : Bool :=
  let yes := if hdmi then 38_880_000_000_000 else 64_800_000_000_000
  let no := if hdmi then 50_803_200_000_000 else 76_204_800_000_000
  decide (rate ≤ yes) || (decide (rate < no) && Config.linkCarries hdmi (rate / 1000))

/-- The link settings in force carry a mode (R255). -/
def Die.linkCarries (x : Die) (m : Mode) : Bool :=
  let clk := m.htotal * m.vtotal * m.rate
  linkFits (x.fField Reg.scnCtrl 0 0 == 1)
    (if x.fField Reg.scnCtrl 3 3 == 1 then clk * x.fField Reg.scnCtrl 11 4 / 16 else clk * 3 * x.linkDepth)

/-- Check 6 (R253 to R255). -/
def Die.commitCheck6 (x : Die) : Bool :=
  let hdmi := x.fField Reg.scnCtrl 0 0 == 1
  let dsc := x.fField Reg.scnCtrl 3 3 == 1
  let bpp := x.fField Reg.scnCtrl 11 4
  x.fField Reg.scnCtrl 2 1 != 3 && x.fField Reg.scnCtrl 13 12 != 3 && (!dsc || (!hdmi && decide (128 ≤ bpp))) && match x.head.mode with
    | none => true
    | some m => x.linkCarries m

/-- Check 7 (R235), with the source size of the head's share (R227). -/
def Die.commitCheck7 (x : Die) (c : Option Canvas) : Bool :=
  let bytes (l : LayerIx) : Nat :=
    let (fw, fh) := x.fetchSize c l
    max 1 (ceilDiv fh (x.fField (Reg.cmpLayerDstWh l) 31 16)) *
      rowBytes (x.fField (Reg.cmpLayerCtrl l) 8 5) fw
  decide ((x.enabled.map bytes).sum ≤ 256 * 1024) &&
    decide (((x.enabled.filter fun l => x.layerSrc l == 0).map bytes).sum ≤ 96 * 1024)

/-- Check 8 (R36, R43). -/
def Die.commitCheck8 (x : Die) (c : Option Canvas) : Bool :=
  match x.head.mode with
  | none => true
  | some m =>
    (m.w == 7680 || headModeOk m.w m.h m.vtotal m.htotal m.rate) && match c with
      | none => true
      | some c => c.binding.layers.all fun e => decide (m.h + 22 + x.vReach (Fin.ofNat 16 e.layer) ≤ m.vtotal)

/-- The status of the first check that fails. A feature that OTP does not enable comes before them (R397). DEDUCED, entry 36:
the manual places the refusal at no point of the order. -/
def State.commitStatus (s : State) (h : DieIx) : Status :=
  let x := (s.die h).latched
  let c := s.headCanvas h
  let echo := h.val == 0 && s.field 0 Reg.sfnEchoCtrl 0 0 == 1
  if (x.fField Reg.scnCtrl 14 14 = 1 ∧ s.otp.features.getLsbD 0 = false) ∨
      (x.fField Reg.scnCtrl 3 3 = 1 ∧ s.otp.features.getLsbD 3 = false) then .role
  else if !x.commitCheck1 || !x.commitCheck2 || !x.commitCheck3 c || !x.commitCheck4 || !x.commitCheck5 c echo then .layerConfig
  else if !x.commitCheck6 || !x.commitCheck7 c || !x.commitCheck8 c then .rasterTiming
  else .ok

/-! ### GO (R238, R240, R241) -/

/-- A commit that is refused or cancelled: STATUS, PENDING 0 and CMP_EVT.REFUSED. -/
def State.refuseCommit (s : State) (h : DieIx) (st : Status) : State :=
  (s.onCommit h fun c => { c with pending := false, span := false, status := BitVec.ofNat 8 st.code }).raiseHead h Reg.cmpEvt 0x02

/-- A commit that is accepted: PENDING until the latch. -/
def State.acceptCommit (s : State) (h : DieIx) (span : Bool) : State :=
  s.onCommit h fun c => { c with pending := true, span := span, goAt := s.gsc }

/-- COMMIT: a GO without SPAN. -/
def fxCommit (h : DieIx) (s : State) : State :=
  if (s.die h).head.commit.pending then s
  else
    let st := s.commitStatus h
    if st = .ok then s.acceptCommit h false else s.refuseCommit h st

/-- COMMIT_SPAN: a GO with SPAN, on the lowest head of a canvas. A head of the canvas whose own commit is pending locks it too:
the GO has no effect. -/
def fxCommitSpan (h : DieIx) (s : State) : State :=
  if (s.die h).head.commit.pending then s
  else match s.headCanvas h with
    | none => s.refuseCommit h .layerConfig
    | some c =>
      let hs := c.binding.heads.map fun e => e.1
      if dieOf c.binding.head0 ≠ h then s.refuseCommit h .layerConfig
      else if hs.any fun g => (s.die g).head.commit.pending then s
      else match (hs.map s.commitStatus).find? fun st => st != .ok with
        | some st => s.refuseCommit h st
        | none => hs.foldl (fun s g => s.acceptCommit g true) s

/-! ### Loads of the encode table and the coefficients -/

/-- A write to a shadow while PENDING is 1 is discarded (R240). -/
def State.lockedWrite (s : State) (d : DieIx) (apply : Die → Die) : State :=
  if (s.die d).head.commit.pending then s.raiseHead d Reg.cmpEvt 0x04 else s.onDie d apply

/-- CMP_LUT_DATA_WRITE. No entry lies above index 1,024: entry 36. -/
def fxCmpLutDataWrite (d : DieIx) (value : Word) (s : State) : State :=
  s.lockedWrite d fun x =>
    let i := x.field Reg.cmpLutAddr 10 0
    let y := if i ≤ 1024 then { x with lut := sSet lutReset x.lut i (BitVec.ofNat 32 (bits value 15 0)) } else x
    y.setField Reg.cmpLutAddr 10 0 (i + 1)

/-- CMP_COEF_DATA_WRITE. -/
def fxCmpCoefDataWrite (d : DieIx) (value : Word) (s : State) : State :=
  s.lockedWrite d fun x =>
    let i := x.field Reg.cmpCoefAddr 10 0
    let y := { x with coef := sSet coefReset x.coef i (BitVec.ofNat 32 (bits value 9 0)) }
    y.setField Reg.cmpCoefAddr 10 0 (i + 1)

/-! ### The latch (R239, R256) -/

/-- The link goes down and is trained again. -/
def State.dropLink (s : State) (h : DieIx) : State :=
  let s1 := s.onDie h fun x =>
    let y := { x with head := { x.head with linkUp := false, hdcp := none } }
    (y.setField Reg.scnStatus 0 0 0).setField Reg.scnStatus 5 5 0
  if (s.die h).head.linkUp then s1.raiseHead h Reg.scnEvt 0x01 else s1

/-- Layers whose source the latch changes start with no source state. -/
def Die.freshLayers (old x : Die) : Die :=
  let keep (l : LayerIx) : Bool := old.layerSrc l == x.layerSrc l &&
    (x.layerSrc l != 2 || old.inForce (Reg.cmpLayerSource l) == x.inForce (Reg.cmpLayerSource l))
  { x with head := { x.head with layers := Vector.ofFn fun l => if keep l then x.head.layers[l.val] else LayerRt.reset } }

/-- A commit of a head may latch now: the cut-off of 2,048 fabric cycles has passed, 15 to a tick. -/
def State.commitDue (s : State) (h : DieIx) : Bool :=
  let c := (s.die h).head.commit
  c.pending && decide (2048 ≤ 15 * (s.gsc - c.goAt))

/-- COMMIT_LATCH of a head. -/
def State.latchCommit (s : State) (h : DieIx) : State :=
  let old := s.die h
  let relink := bits (old.inForce Reg.scnCtrl) 11 0 != bits (old.reg Reg.scnCtrl) 11 0
  let s1 := s.onDie h fun x =>
    let y := old.freshLayers x.latched
    let z := { y with head := { y.head with commit := { y.head.commit with
      pending := false, span := false, status := BitVec.ofNat 8 Status.ok.code, seq := y.head.commit.seq + 1 } } }
    z.showCommit.showLink
  let s2 := s1.raiseHead h Reg.cmpEvt 0x01
  let s3 := s2.recordEvent 0 ((s2.headCanvas h).map fun c => c.id) old.head.frameStep
    (leBytes 2 h.val ++ leBytes 2 ((s2.die h).head.commit.seq).toNat)
  if relink then s3.dropLink h else s3

def execCommit (h : DieIx) (s : State) : Host.Outcome State Fault Refusal := .next (fxCommit h s)
def execCommitSpan (h : DieIx) (s : State) : Host.Outcome State Fault Refusal := .next (fxCommitSpan h s)
def execCmpLutDataWrite (d : DieIx) (value : Word) (s : State) : Host.Outcome State Fault Refusal :=
  .next (fxCmpLutDataWrite d value s)
def execCmpCoefDataWrite (d : DieIx) (value : Word) (s : State) : Host.Outcome State Fault Refusal :=
  .next (fxCmpCoefDataWrite d value s)

end Sys2Proof.Machine
end

