-- ==== Sys2Proof/Machine/StepRec.lean ====
section
/-! DEFINITION. Frame summaries with their choice maps, STEP and OUTPUT records, and CKPT records, written and read back (R51,
R298, R301 to R307, R332). -/

namespace Sys2Proof.Machine

/-! ### Frame summaries (R51, R332) -/

/-- Stripe parts of a layer on a head. -/
def Canvas.mapLength (c : Canvas) : Nat := c.binding.stripes * (if c.binding.wide then 2 else 1)

/-- FRAME_MAP records of a layer on a head. -/
def Canvas.mapRecords (c : Canvas) : Nat := ceilDiv c.mapLength 384

/-- The place of a stripe part in a map. -/
def Canvas.partBit (c : Canvas) (p : PartId) : Nat := if c.binding.wide then 2 * p.stripe + p.half.val else p.stripe

/-- The bytes of a map, 48 a record, with the bits of some parts set. -/
def Canvas.mapBytes (c : Canvas) (ps : List PartId) : List Byte := opMask (ps.map c.partBit) (48 * c.mapRecords)

/-- Layer entries in ascending layer order. -/
def Canvas.layersUp (c : Canvas) : List LayerEntry := sortBy (fun x y => decide (x.layer < y.layer)) c.binding.layers

/-- The parts of a layer of a head in the current frame. -/
def Canvas.layerParts (c : Canvas) (h : DieIx) (e : LayerEntry) : List PartSt :=
  c.parts.filter fun p => p.frame == c.frameNo && p.id.head == h && p.id.layer.val == e.layer

/-- Parts of a cause. -/
def countCause (ps : List PartSt) (x : Cause) : Nat := (ps.filter fun p => p.choice == some x).length

/-- Bytes 16 to 63 of a FRAME_SUM record (Table 12.9). -/
def Canvas.summary (c : Canvas) (h : DieIx) (e : LayerEntry) (repeated : Bool) : List Byte :=
  let ps := c.layerParts h e
  let n (x : Cause) : List Byte := leBytes 2 (countCause ps x)
  let deg := (ps.filter fun p => p.choice == some Cause.neural && p.degraded).length
  let mm := c.mismatch.find? fun m => m.1 == h
  let stripe := (mm.map Prod.snd).getD 0xFFFF
  leBytes 8 c.frameStep.toNat ++ leBytes 2 c.id.handle ++ leBytes 1 h.val ++ leBytes 1 e.layer ++ n .neural ++ n .late ++
    n .reject ++ n .fault ++ n .forced ++ n .source ++ leBytes 2 deg ++
    leBytes 1 (b2n c.resetFlag + 2 * b2n repeated + 4 * b2n c.replays + 8 * b2n mm.isSome) ++ leBytes 1 c.mapRecords ++
    leBytes 2 c.mapLength ++ leBytes 2 stripe ++ leBytes 1 (if mm.isSome then Status.detMismatch.code else 0) ++
    List.replicate 15 0

/-- The choice map of a layer of a head: a set bit is fall-back. -/
def Canvas.choiceMap (c : Canvas) (h : DieIx) (e : LayerEntry) : List Byte :=
  c.mapBytes (((c.layerParts h e).filter fun p => p.choice.isSome && p.choice != some Cause.neural).map PartSt.id)

/-- The abandon map of a layer of a head. -/
def Canvas.abandonMap (c : Canvas) (h : DieIx) (e : LayerEntry) : List Byte :=
  c.mapBytes (((c.layerParts h e).filter fun p => p.abandoned || p.failed.isSome).map PartSt.id)

/-- This frame of a head repeats a write-back buffer. -/
def State.repeats (s : State) (h : DieIx) : Bool := (s.die h).head.te.repeatFrame

/-- A head's frame summary is posted to the canvas's EQ. -/
def State.postSummary (s : State) (c : Canvas) (h : DieIx) : State :=
  c.layersUp.foldl (fun s e =>
    let m := c.choiceMap h e
    let maps := (List.range c.mapRecords).map fun k => (0x0002, h.val, sliceBytes m (48 * k) 48)
    s.onHost fun x => x.postEvents c.id.func c.binding.eq ((0x0001, h.val, c.summary h e (s.repeats h)) :: maps)) s

/-! ### STEP and OUTPUT records (R298) -/

/-- A lock state as records and registers code it. -/
def LockState.code : LockState → Nat
  | .free => 0
  | .acquire => 1
  | .locked => 2
  | .holdover => 3

/-- The head and layer pairs of a canvas, in order. -/
def Canvas.headLayers (c : Canvas) : List (DieIx × LayerEntry) :=
  c.binding.heads.flatMap fun h => c.layersUp.map fun e => (h.1, e)

/-- The payload of a STEP record. DESIGN CHOICE for its layout, entry 23. -/
def State.stepPayload (s : State) (c : Canvas) : List Byte :=
  let i (k : Nat) : Nat := c.info.getD k 0
  leBytes 8 c.frameStep.toNat ++ leBytes 8 c.lineZero ++ leBytes 4 (i 2) ++ leBytes 4 (i 3) ++ leBytes 4 (i 0) ++ leBytes 4 (i 1) ++
    leBytes 4 c.lock.state.code ++ leBytes 4 (b2n c.resetFlag) ++
    (c.headLayers.flatMap fun e => c.summary e.1 e.2 (s.repeats e.1) ++ c.choiceMap e.1 e.2) ++
    (c.headLayers.flatMap fun e => c.abandonMap e.1 e.2)

/-- The die that writes a canvas's STEP records: that of its lowest head. -/
def Canvas.stepDie (c : Canvas) : DieIx := dieOf c.binding.head0

/-- The STEP record of the frame that ends. -/
def State.recordStep (s : State) (c : Canvas) : State :=
  let d := c.stepDie
  if s.field d Reg.detRecCtrl 7 7 = 0 then s
  else s.record d s.gsc { type := 4, flags := 0, canvas := recCanvas c.id, port := 0xFFFF, payload := s.stepPayload c }

/-- The OUTPUT record of a head's frame that ends; lines run from the first. -/
def State.recordOutput (s : State) (c : Canvas) (h : DieIx) (step : Dword) (crcs : List Word) : State :=
  if s.field h Reg.detRecCtrl 6 6 = 0 then s
  else s.record h s.gsc { type := 7, flags := 0, canvas := recCanvas c.id, port := 0xFFFF,
                          payload := leBytes 8 step.toNat ++ (stripeCrcs c.binding.stripeH crcs).flatMap fun w => leBytes 4 w.toNat }

/-- Places of the bits that some bytes set, below a bound. -/
def setPlaces (bs : List Byte) (n : Nat) : List Nat :=
  (List.range n).filter fun p => (bs.getD (p / 8) 0).getLsbD (p % 8)

/-- The stripe part at a place of a map. -/
def Canvas.partOfBit (c : Canvas) (h : DieIx) (e : LayerEntry) (p : Nat) : PartId :=
  if c.binding.wide then { head := h, layer := Fin.ofNat 16 e.layer, stripe := p / 2, half := Fin.ofNat 2 p }
  else { head := h, layer := Fin.ofNat 16 e.layer, stripe := p, half := 0 }

/-- What a Replay canvas takes from the payload of a STEP record. A recorded fall-back choice is taken as forced: the record keeps
no cause for each part (entry 23). -/
def Canvas.readStep (c : Canvas) (pl : List Byte) : ReplayFrame :=
  let n := 48 * c.mapRecords
  let pairs := c.headLayers.zipIdx
  let last := 40 + (48 + n) * pairs.length
  let places (bs : List Byte) : List Nat := setPlaces bs c.mapLength
  { step := BitVec.ofNat 64 (leAt pl 0 8), counters := (BitVec.ofNat 32 (leAt pl 16 4), BitVec.ofNat 32 (leAt pl 20 4)),
    phase := BitVec.ofNat 6 (leAt pl 24 4), flags := BitVec.ofNat 32 (leAt pl 28 4),
    choices := pairs.flatMap fun (e, k) =>
      let fb := places (sliceBytes pl (40 + (48 + n) * k + 48) n)
      (List.range c.mapLength).map fun p => (c.partOfBit e.1 e.2 p, if fb.contains p then Cause.forced else .neural),
    abandoned := pairs.flatMap fun (e, k) => (places (sliceBytes pl (last + n * k) n)).map (c.partOfBit e.1 e.2),
    reset := leAt pl 36 4 != 0, commits := [] }

/-! ### Checkpoints (R301, R302) -/

/-- RECURRENT tensors of a bundle. -/
def Canvas.recurrents (c : Canvas) : List Nat := (List.range (bHeader c.image).ntens).filter fun t => (bTens c.image t).recurrent

/-- What a die holds of a tensor: its region's part, or the whole where it has no region or the tensor is FIXED. -/
def Canvas.dieBand (c : Canvas) (t : Nat) (d : DieIx) : Band :=
  match c.region d with
  | none => c.wholeBand t
  | some r =>
    let z := (c.binding.sizes c.image t).getD (0, 0)
    let y := c.base t r.y0
    let x := c.base t r.x0
    { y0 := y, y1 := y + z.1, x0 := x, x1 := x + z.2 }

/-- Bytes of a line of a tensor as uncoded. -/
def Canvas.lineSize (c : Canvas) (t : Nat) (b : Band) : Nat :=
  let r := bTens c.image t
  (b.x1 - b.x0) * (if r.layout ≤ 1 then paddedC r.layout r.c else r.c) * fmtBytes r.fmt

/-- The form in which a line of a tensor is stored: 0 uncoded, 1 Mode Z, 2 and above Mode F with its rate. -/
def Canvas.lineForm (c : Canvas) (t : Nat) : Nat :=
  let r := bTens c.image t
  if r.inDram && decide (r.layout ≤ 1) then r.codec else 0

/-- A Mode Z line as its slots hold it; bytes that no page uses are 0. -/
def zStored (z : Nat) (src : List Byte) : List Byte :=
  let l := zEncodeLine z src
  (List.range (codedBytes 1 0 src.length)).map fun i => ((l.find? fun e => e.1 == i).map Prod.snd).getD 0

/-- Bytes of a stored line. -/
def Canvas.storedSize (c : Canvas) (t : Nat) (b : Band) : Nat :=
  let n := c.lineSize t b
  match c.lineForm t with
  | 0 => n
  | 1 => codedBytes 1 0 n
  | k => codedBytes 3 (k - 2) n

/-- A line of a tensor, uncoded. -/
def Canvas.plainLine (c : Canvas) (t : Nat) (b : Band) (elem : Nat → Nat → Nat → Nat → Nat) (n y : Nat) : List Byte :=
  let r := bTens c.image t
  let cp := if r.layout ≤ 1 then paddedC r.layout r.c else r.c
  (List.range (b.x1 - b.x0)).flatMap fun i => (List.range cp).flatMap fun k =>
    leBytes (fmtBytes r.fmt) (if k < r.c then elem n y (b.x0 + i) k else 0)

/-- A line of a tensor in the bytes in which it is stored. -/
def Canvas.storedLine (c : Canvas) (t : Nat) (b : Band) (elem : Nat → Nat → Nat → Nat → Nat) (n y : Nat) : List Byte :=
  let line := c.plainLine t b elem n y
  match c.lineForm t with
  | 0 => line
  | 1 => zStored (fmtBytes (bTens c.image t).fmt) line
  | k => fEncodeLine (k - 2) line

/-- An element of a recurrent tensor after a frame, or its declared initial state. -/
def Canvas.afterFrame (c : Canvas) (reset : Bool) (frame t n y x k : Nat) : Nat :=
  match reset, c.buf t frame with
  | false, some u => u.rd n y x k
  | _, _ => c.initElem t n y x k

/-- The retiming state of a source: ŝ of its latest two frames, P̄, its last 8 periods and its cadence. -/
def Source.stateBytes (q : Source) : List Byte :=
  let last := q.frames.reverse.map fun f => f.smoothed
  leBytes 8 (bitsOfInt 64 (last.getD 0 0)) ++ leBytes 8 (bitsOfInt 64 (last.getD 1 0)) ++ leBytes 8 q.meanPeriod ++
    ((List.range 8).flatMap fun i => leBytes 8 (q.periods.getD i 0)) ++ leBytes 8 q.cadence.code

/-- Tensors that hold the track identifiers of the TRACK ops. -/
def Canvas.trackTensors (c : Canvas) : List Nat :=
  (bOps c.image).filterMap fun o => if opName o.opcode = some .track then some o.out1 else none

/-- The payload of the CKPT record of a frame on a die. -/
def State.ckptPayload (s : State) (c : Canvas) (d : DieIx) (frame : Nat) (reset : Bool) : List Byte :=
  leBytes 8 (c.stepOf frame).toNat ++
    (c.recurrents.flatMap fun t =>
      let b := c.dieBand t d
      (List.range (bTens c.image t).nb).flatMap fun n => (List.range (b.y1 - b.y0)).flatMap fun i =>
        c.storedLine t b (c.afterFrame reset frame t) n (b.y0 + i)) ++
    ((List.range c.binding.sources.length).flatMap fun i => match s.entrySource c i with
      | some q => q.stateBytes
      | none => List.replicate 96 0) ++
    (c.trackTensors.flatMap fun t => leBytes 4 (match c.buf t frame with
      | some u => (sGet zeroWord u.elems (7 * 256)).toNat
      | none => 0))

/-- A canvas with the state of a checkpoint, read from one die's payload, as that of its frame 0. -/
def Canvas.loadCkpt (c : Canvas) (d : DieIx) (pl : List Byte) : Canvas :=
  (c.recurrents.foldl (fun (acc : Canvas × Nat) t =>
    let r := bTens c.image t
    let b := c.dieBand t d
    let size := c.storedSize t b
    let n := c.lineSize t b
    let z := fmtBytes r.fmt
    let cp := if r.layout ≤ 1 then paddedC r.layout r.c else r.c
    (List.range (r.nb * (b.y1 - b.y0))).foldl (fun (acc : Canvas × Nat) i =>
      let raw := sliceBytes pl acc.2 size
      let line := match c.lineForm t with
        | 0 => raw
        | 1 => (zDecodeLine z n raw).1
        | k => fDecodeLine (k - 2) n raw
      let e := i / (b.y1 - b.y0)
      let y := b.y0 + i % (b.y1 - b.y0)
      (acc.1.onBuf t 0 fun u => (List.range (b.x1 - b.x0)).foldl (fun u xx => (List.range r.c).foldl (fun u k =>
        u.wr e y (b.x0 + xx) k (leAt line ((xx * cp + k) * z) z)) u) u, acc.2 + size)) acc) (c, 8)).1

/-- The retiming state of a source as a checkpoint of its payload gives it: the latest smoothed time and the periods as timestamps that
have them. The flags of repeated frames are no part of it: entry 23. -/
def Source.restored (q : Source) (bs : List Byte) : Source :=
  let n (k : Nat) : Nat := leAt bs (8 * k) 8
  let ps := ((List.range 8).map fun i => n (3 + i)).takeWhile fun p => p != 0
  let stamps := ps.foldl (fun (l : List (Nat × Bool)) p => l ++ [((l.getLast?.map Prod.fst).getD 0 - p, false)]) [(n 0, false)]
  { q with meanPeriod := n 2, stamps := if ps.isEmpty then [] else stamps,
           cadence := if n 11 = 1 then .threeTwo else if n 11 = 2 then .twoTwo else .none }

/-- Bytes of the recurrent tensors in the payload of a CKPT record of a die. -/
def Canvas.ckptTensors (c : Canvas) (d : DieIx) : Nat :=
  (c.recurrents.map fun t =>
    let b := c.dieBand t d
    (bTens c.image t).nb * (b.y1 - b.y0) * c.storedSize t b).sum

/-- The next track identifiers of a checkpoint, in the tables of its frame. -/
def Canvas.loadTracks (c : Canvas) (d : DieIx) (pl : List Byte) : Canvas :=
  let at_ := 8 + c.ckptTensors d + 96 * c.binding.sources.length
  c.trackTensors.zipIdx.foldl (fun k e => k.onBuf e.1 0 fun u =>
    { u with elems := sSet zeroWord u.elems (7 * 256) (BitVec.ofNat 32 (leAt pl (at_ + 4 * e.2) 4)) }) c

/-- The stores that host frames of a Replay binding fill begin with the retiming state of its checkpoint (R307). -/
def State.loadRetiming (s : State) (c : Canvas) (d : DieIx) (pl : List Byte) : State :=
  c.binding.sources.zipIdx.foldl (fun s (e, i) =>
    let bs := sliceBytes pl (8 + c.ckptTensors d + 96 * i) 96
    if (s.entrySource c i).isSome then s
    else s.onDie (dieOf e.die) fun x => { x with sources := x.sources ++
      [(Source.fresh 0 0 (some (c.id, i)) { width := e.width, height := e.height, pixfmt := Fin.ofNat 14 e.pixfmt, interlaced := false,
                                            bottomField := false, protect := none }).restored bs] }) s

/-- The copy of a checkpoint of a frame on a die is taken: its CKPT record, which may be lost. Once every die's record is written,
DET_CKPT_LAST takes the frame's step on each and DET_EVT.CKPT_DONE is set (R302). -/
def State.copyCkpt (s : State) (cv : CanvasId) (d : DieIx) (frame : Nat) : State :=
  match s.canvas cv with
  | none => s
  | some c =>
    let reset := c.resets.contains (frame + 2)
    let r : Rec := { type := 8, flags := b2n reset, canvas := recCanvas cv, port := 0xFFFF, payload := s.ckptPayload c d frame reset }
    let s0 := s.recordGap d s.gsc
    let written := s0.takesRecord d r
    let l := (c.copied.filter fun e => decide (frame ≤ e.2.1)) ++ [(d, frame, written)]
    let s1 := (s0.record d s.gsc r).onCanvas cv fun k => { k with copied := l }
    if c.dies.all fun x => l.contains (x, frame, true) then
      c.dies.foldl (fun s x => (s.onDie x fun y => y.setWide Reg.detCkptLastLo (c.stepOf frame).toNat).raise x Reg.detEvt 0x04) s1
    else s1

/-- A die takes a checkpoint of a frame: its recorder runs, the frame's index is a multiple of PERIOD, and it has taken none yet. -/
def State.wantsCkpt (s : State) (c : Canvas) (d : DieIx) (f : Nat) : Bool :=
  let p := s.field d Reg.detCkptCtrl 15 0
  !c.replays && (s.die d).recording && p != 0 && f % max p 1 == 0 && !c.copied.any fun e => e.1 == d && e.2.1 == f

/-- Frames of a canvas whose checkpoint a die may copy now: their work on the die has been released and has ended. -/
def State.ckptFrame (s : State) (c : Canvas) (d : DieIx) : Option Nat :=
  let last := c.binding.stripes - 1
  [c.frameNo - 1, c.frameNo].find? fun f =>
    s.wantsCkpt c d f &&
      (c.parts.any fun x => x.frame == f && x.id.stripe == last && c.released.any fun e => e.1 == x.stepSeq) &&
      !(c.items.any fun i => i.frame == f && i.id.die == d && i.live)

/-- The release of frame f + 2 waits for the copies of frame f (R302). The model has no time for them to take, so those not taken are
taken as it comes: entry 58. -/
def State.lateCkpts (s : State) (cv : CanvasId) (frame : Nat) : State :=
  match s.canvas cv with
  | none => s
  | some c => if frame < 2 then s
    else (c.dies.filter fun d => s.wantsCkpt c d (frame - 2)).foldl (fun s d => s.copyCkpt cv d (frame - 2)) s

/-- What stripe 0 of a live canvas's frame ends: late work, then the checkpoint that waits. -/
def State.endOld (s : State) (cv : CanvasId) (frame : Nat) : State := (s.abandonLate cv frame).lateCkpts cv frame

/-- The release of a stripe of a live canvas. -/
def State.releaseLive (s : State) (cv : CanvasId) (frame stripe : Nat) : State :=
  (if stripe = 0 then s.endOld cv frame else s).releaseStripe cv frame stripe

/-- CHECKPOINT_COPY: the CKPT record of a frame on a die. -/
def fxCheckpointCopy (d : DieIx) (cv : CanvasId) (s : State) : State :=
  match s.canvas cv with
  | none => s
  | some c => match s.ckptFrame c d with
    | none => s
    | some f => if c.dies.contains d then s.copyCkpt cv d f else s

def execCheckpointCopy (d : DieIx) (cv : CanvasId) (s : State) : Host.Outcome State Fault Refusal :=
  .next (fxCheckpointCopy d cv s)

end Sys2Proof.Machine
end

