-- ==== Sys2Proof/Machine/Bind.lean ====
section
/-! DEFINITION. Admission and binding: the checks in order, placement on the dies of an instance, and what a canvas is when it has
been bound (R35, R145 to R152, R191, R196, R227, R270, R280, R295, R303, R307, R335, R336, R390, R397). -/

namespace Sys2Proof.Machine

/-! ### Results (R145, R146, Table 12.7) -/

/-- Bytes 24 to 34 of the completion of an admission or a binding. -/
def placeDetail (handle op level check rewrites moved ctx : Nat) : List Byte :=
  leBytes 2 handle ++ leBytes 2 op ++ leBytes 1 level ++ leBytes 1 check ++ leBytes 2 rewrites ++ leBytes 2 moved ++ leBytes 1 ctx

/-- A check that fails outside Table 6.4. -/
def outside (st : Status) : CheckFail := { status := st, op := 0xFFFF, level := 0, step := 0 }

/-- The completion of a failure. -/
def CheckFail.completion (f : CheckFail) (kind : Fin 3) : Completion :=
  { status := f.status, kind := kind, detail := placeDetail 0 f.op f.level f.step 0 0 0 }

/-- A refused admission or binding in the placement registers of die 0. -/
def State.placeFailed (s : State) (f : CheckFail) (binding : Bool) : State :=
  (s.setReg 0 Reg.rmsLastFail (BitVec.ofNat 32 (f.status.code + 256 * f.op + 2 ^ 24 * f.level + 2 ^ 26 * b2n binding))).countRaise 0
    Reg.rmsAdmitFail Reg.rmsPlaceEvt 0x1

/-- A successful one, with the loop-order words that it rewrote. -/
def State.placeDone (s : State) (rewrites : Nat) : State :=
  let s1 := s.count 0 Reg.rmsAdmitOk 1
  if rewrites = 0 then s1 else (s1.count 0 Reg.rmsRewrite rewrites).raise 0 Reg.rmsPlaceEvt 0x2

/-- A report of rewritten ops is written where REPORT is not 0. -/
def State.report (s : State) (addr : Dword) (ops : List Nat) : State :=
  if addr = 0 then s else s.writeHost addr.toNat (opMask ops 512)

/-- A host range of BIND or ADMIT, and its report buffer, lie in windows of the function. -/
def State.bufferOk (s : State) (f : FnIx) (base : Dword) (len : Word) (report : Dword) : Bool :=
  s.host.inWindow f base.toNat len.toNat && (report == 0 || s.host.inWindow f report.toNat 512)

/-! ### ADMIT (R335) -/

/-- The checks of R335 on a bundle that has been read. -/
def State.admitFail (s : State) (data : List Byte) : Option CheckFail :=
  match admitChecks data with
  | some f => some f
  | none => if s.dieList.any fun d => decide (s.dramFree d < data.length) then some (outside .noResource) else none

/-- ADMIT. Until the host has answered every read, the descriptor stays in progress. -/
def fxAdmitBundle (h : DescHdr) (bundle : Dword) (len : Word) (report : Dword) (data : List Byte) (s : State) : State :=
  s.descriptor h 1 true true fun t _ =>
    let fail (f : CheckFail) : State × DescEnd := (t.placeFailed f false, .done (f.completion 1))
    if t.bufferOk h.func bundle len report = false then fail (outside .hostRange)
    else match lowestFree 1 4095 ((t.host.fn h.func).bundles.map Admitted.handle) with
      | none => fail (outside .noResource)
      | some n =>
        if data.length ≠ len.toNat then (t, .await .transfer)
        else match t.admitFail data with
          | some f => fail f
          | none =>
            let ops := rewritten0 data
            let t1 := t.onHost fun x => x.onFn h.func fun y => { y with bundles := y.bundles ++ [{ handle := n, image := data }] }
            let t2 := { t1 with sec := t1.sec.measure (bHash data) }
            ((t2.report report ops).placeDone ops.length,
              .done { status := .ok, kind := 1, detail := placeDetail n 0xFFFF 0 0 ops.length 0 0 })

/-! ### Replay's checks (R303, R307) -/

/-- What a Replay binding finds in the rings: the recorded canvas, the frames of its range, and the checkpoint's payload on each
die of the instance. -/
structure ReplayPlan where
  frames : List ReplayFrame
  ckpts : List (DieIx × List Byte)
  step : Dword
deriving DecidableEq, Repr

/-- Commits that the EVENT records of die 0 show at a frame step. -/
def commitsAt (l : List RingRec) (cv : Nat) (step : Dword) : List DieIx :=
  (l.filter fun r => r.rec_.type == 0x0A && r.rec_.canvas == cv && leAt r.rec_.payload 0 4 == 0 &&
    leAt r.rec_.payload 4 8 == step.toNat).map fun r => dieOf (leAt r.rec_.payload 12 2)

/-- The range of a Replay binding. `c` is the canvas as it would be bound. None is ST_DET_MISMATCH. -/
def State.replayPlan (s : State) (c : Canvas) (dies : List DieIx) : Option ReplayPlan :=
  let zero := (s.die 0).ringRecords
  let b := c.binding
  match zero.find? fun r => r.rec_.type == 8 && r.seq == b.ckpt.toNat with
  | none => none
  | some ck =>
    let cv := ck.rec_.canvas
    let at0 := leAt ck.rec_.payload 0 8
    let steps := ((s.die c.stepDie).ringRecords).filter fun r => r.rec_.type == 4 && r.rec_.canvas == cv
    let stepOf (r : RingRec) : Nat := leAt r.rec_.payload 0 8
    let range := steps.filter fun r => decide (b.first.toNat ≤ stepOf r) && decide (stepOf r ≤ b.last.toNat)
    match range.head?, range.getLast?, (steps.filter fun r => decide (at0 < stepOf r)).head? with
    | some r0, some r1, some next =>
      let isCfg (r : RingRec) : Bool := r.rec_.type == 1 && (r.rec_.canvas == cv || r.rec_.canvas == 0xFFFF)
      let cfg := (zero.filter fun r => isCfg r && decide (r.tick ≤ r0.tick)).getLast?
      let want := s.classConfig ++ bHash c.image ++ c.configDigest (s.die 0)
      let spans := dies.map fun d => ((s.die d).ringRecords).filter fun r => decide (ck.tick ≤ r.tick) && decide (r.tick ≤ r1.tick)
      let crossed := spans.any fun l => l.any fun r =>
        r.rec_.type == 9 || (isCfg r && decide (r0.tick < r.tick)) || !r.crcOk
      let cks := dies.map fun d => (d, (((s.die d).ringRecords).find? fun r =>
        r.rec_.type == 8 && r.rec_.canvas == cv && leAt r.rec_.payload 0 8 == at0 && r.crcOk).map fun r => r.rec_.payload)
      let cfgOk := match cfg with
        | some r => sliceBytes r.rec_.payload 0 want.length == want && r.crcOk
        | none => false
      if cfgOk && !crossed && ck.crcOk && stepOf r0 == b.first.toNat && stepOf r1 == b.last.toNat && stepOf next == stepOf r0 &&
          cks.all (fun e => e.2.isSome) then
        some { frames := range.map fun r =>
                 let f := c.readStep r.rec_.payload
                 { f with commits := commitsAt zero cv f.step },
               ckpts := cks.map fun e => (e.1, e.2.getD []), step := BitVec.ofNat 64 at0 }
      else none
    | _, _, _ => none

/-- The checks of R303 and R307 on a binding in Replay mode. -/
def State.replayCheck (s : State) (c : Canvas) (dies : List DieIx) : Except Status ReplayPlan :=
  let b := c.binding
  match s.replayPlan c dies with
  | none => .error .detMismatch
  | some p =>
    if b.heads.any fun h => (s.die h.1).head.linkUp then .error .rasterTiming
    else if b.taps.any fun t => decide (t.step.toNat < b.first.toNat) || decide (b.last.toNat < t.step.toNat) then .error .opFormat
    else if b.taps.all fun t => s.host.inWindow c.id.func t.addr.toNat t.length then .ok p
    else .error .hostRange

/-! ### BIND's checks (R336) -/

/-- A feature that the binding needs and OTP does not enable (R397): 8K heads, ST 2110 sources, Replay. -/
def State.featureMissing (s : State) (b : Binding) : Bool :=
  (b.wide && !s.otp.features.getLsbD 1) || ((b.sources.any fun e => e.port == 2) && !s.otp.features.getLsbD 2) ||
    (b.flags.getLsbD 0 && !s.otp.features.getLsbD 4)

/-- The bundle that a binding names, where its function owns it. -/
def State.boundBundle (s : State) (f : FnIx) (b : Binding) : Option Admitted :=
  (s.host.fn f).bundles.find? fun x => x.handle == b.bundle

/-- Ownership of the queues and the heads. -/
def State.bindOwned (s : State) (f : FnIx) (b : Binding) : Bool :=
  let kindIs (q : Nat) (k : QKind) : Bool := match s.host.queue f q with
    | some x => x.kind == k
    | none => false
  kindIs b.cq .cq && kindIs b.eq .eq && b.heads.all fun h => bits (s.host.reg (0x040 + 4 * h.1.val)) 5 0 == f.val

/-- Heads that a binding occupies: in the 8K mode also the die that computes the other half. -/
def Binding.occupies (b : Binding) : List DieIx := b.heads.flatMap fun h => if b.wide then [h.1, pairDie h.1] else [h.1]

/-- A canvas occupies a head already. -/
def State.headTaken (s : State) (b : Binding) : Bool :=
  b.occupies.any fun h => s.canvases.any fun c => c.binding.occupies.contains h

/-- Each import's function object is VALID. -/
def State.importsValid (s : State) (f : FnIx) (b : Binding) : Bool :=
  b.imports.all fun i => (s.fnTsl f (dieOf i.die) (BitVec.ofNat 12 i.funcVirt)).isSome

/-- The vertical reach of each layer entry of a binding, with the destination rectangles in force (R41). -/
def State.bindReach (s : State) (image : List Byte) (b : Binding) : List Nat :=
  b.layers.map fun e =>
    let h := ((b.canvasSizes image (bOp image e.op).out0).getD (0, 0)).1
    (b.heads.map fun x =>
      let dh := (s.die x.1).fField (Reg.cmpLayerDstWh (Fin.ofNat 16 e.layer)) 31 16
      if dh = h then 0 else ceilDiv (4 * dh) h).foldl max 0

/-- The output mode of the heads of a binding. -/
def Binding.mode (b : Binding) : Mode := { w := b.regionW, h := b.regionH, vtotal := b.vtotal, htotal := b.htotal, rate := b.rate }

/-- What binding finds on the part. -/
def State.placeEnv (s : State) (image : List Byte) (b : Binding) : PlaceEnv :=
  let dies := instanceDies image b s.engines s.nDies
  { dies := s.nDies, engines := s.engines, poolFree := (List.finRange 8).map fun d => 139_264 - (s.die d).poolUsedKib,
    dramFree := (List.finRange 8).map s.dramFree, tsl := (List.finRange 8).map fun d => (s.die d).tsl,
    poolNums := (List.finRange 8).map fun d => 1024 - (s.die d).pools.length,
    ctxFree := lowestFree 1 255 (dies.flatMap fun d => (s.die d).tsl.ctxs.map Prod.fst), reach := s.bindReach image b,
    linkOk := b.heads.all fun h => (s.die h.1).linkCarries b.mode }

/-! ### Places in the pool and in DRAM -/

/-- Free extents of the bundle pool between others: in address and KiB, ascending (Table 7.1). -/
def freeExtents (used : List (Nat × Nat)) : List (Nat × Nat) :=
  let l := sortBy (fun (x y : Nat × Nat) => decide (x.1 < y.1)) used
  let (acc, at_) := l.foldl (fun (e : List (Nat × Nat) × Nat) u =>
    (if e.2 < u.1 then e.1 ++ [(e.2, (u.1 - e.2) / 1024)] else e.1, max e.2 (u.1 + 1024 * u.2))) ([], BtArea.pool.range.1)
  let end_ := BtArea.pool.range.2
  if at_ < end_ then acc ++ [(at_, (end_ - at_) / 1024)] else acc

/-- Extents for a need in KiB, lowest first. DESIGN CHOICE, entry 18: the manual does not say where in the pool a footprint lies. -/
def takeExtents : Nat → List (Nat × Nat) → List (Nat × Nat)
  | _, [] => []
  | need, (a, k) :: rest =>
    if need = 0 then [] else if need ≤ k then [(a, need)] else (a, k) :: takeExtents (need - k) rest

/-- Pool extents of every canvas but one on a die. -/
def State.poolUsed (s : State) (but : CanvasId) (d : DieIx) : List (Nat × Nat) :=
  ((s.canvases.filter fun c => c.id != but).flatMap fun c => c.pool.filter fun e => e.1 == d).map fun e => e.2

/-- Where an instance is placed. None where the DRAM of a die has no free range for its allocation. -/
def State.extents (s : State) (cv : CanvasId) (dram : Nat) (ps : List DiePlace) : Option Extents :=
  let pool := ps.flatMap fun p => (takeExtents (ceilDiv p.foot 1024) (freeExtents (s.poolUsed cv p.die))).map fun x => (p.die, x.1, x.2)
  if dram = 0 then some { pool := pool, dramAt := [] }
  else (ps.mapM fun p => (s.allocAt [p.die] dram).map fun a => (p.die, a)).map fun l => { pool := pool, dramAt := l }

/-- A canvas as BIND makes it, before placement. -/
def Canvas.fresh (id : CanvasId) (b : Binding) (image : List Byte) (ctx : Nat) (dies : List DieIx) (now : Nat) : Canvas :=
  { id := id, binding := b, image := image, ctx := ctx, dies := dies, pool := [], dramAt := [], lineMode := b.flags.getLsbD 4,
    frameNo := 0, frameStep := 0, stepSeq := 0, deferred := [], released := [], steps := [], parts := [], items := [], tensors := [], inputTags := [], guards := [], kInner := [], feeds := [],
    holes := [], resets := [], runs := [], fallback := [],
    lock := { state := .free, trim := 0, phaseErr := 0, good := 0, bad := 0, edges := 0, target := none, retarget := false, lastRef := now },
    retimings := [], lineZero := 0, due := [], placed := false, phases := [], retimeNext := false, changing := false,
    resetFlag := false, mismatch := [], firstAt := some (now + 200), started := [],
    unbinding := false, unbindQueue := none, pause := .running, replay := [], copied := [], info := [] }

/-- What a binding that passes every check comes to. -/
structure BindPlan where
  canvas : Canvas
  places : List DiePlace
  replay : Option ReplayPlan
deriving DecidableEq, Repr

/-- The checks of R336 in order, on a block that has been read. -/
def State.bindCheck (s : State) (f : FnIx) (data : List Byte) : Except CheckFail BindPlan :=
  let b := readBinding data
  if bindingFormatOk data s.nDies = false then .error (outside .badDesc)
  else if s.featureMissing b then .error (outside .role)
  else match s.boundBundle f b with
    | none => .error (outside .notOwner)
    | some a =>
      let dies := instanceDies a.image b s.engines s.nDies
      if s.bindOwned f b = false then .error (outside .notOwner)
      else if bindingAgrees a.image b dies = false then .error (outside .badDesc)
      else if s.importsValid f b = false then .error (outside .notOwner)
      else if s.headTaken b then .error (outside .inUse)
      else match lowestFree 1 255 ((s.canvases.filter fun c => c.id.func == f).map fun c => c.id.handle) with
        | none => .error (outside .noResource)
        | some n =>
          let env := s.placeEnv a.image b
          let id : CanvasId := { func := f, handle := n }
          match (bindPlace a.image b env).bind fun ps => match s.extents id b.dram ps with
            | some x => if x.fits a.image b env then .ok (ps, x) else .error (outside .placement)
            | none => .error { status := .placement, op := 0xFFFF, level := 0, step := 12 } with
          | .error e => .error e
          | .ok (ps, x) =>
            let c := { Canvas.fresh id b a.image (env.ctxFree.getD 0) dies s.gsc with pool := x.pool, dramAt := x.dramAt, kInner := kInnerOf ps }
            if c.replays = false then .ok { canvas := c, places := ps, replay := none }
            else match s.replayCheck c dies with
              | .error st => .error (outside st)
              | .ok r => .ok { canvas := c, places := ps, replay := some r }

/-! ### What a binding makes -/

/-- An import of a bundle as an entry of its context on a die (R196, R270). -/
def State.mapImport (s : State) (c : Canvas) (d : DieIx) (t : Tsl) (x : TslDecl) : Tsl :=
  match c.binding.imports.find? fun i => x.kind == 3 && i.bundleVirt == x.virt && i.die == d.val with
  | none => t
  | some i => match s.fnTsl c.id.func d (BitVec.ofNat 12 i.funcVirt) with
    | some (_, n) => t.importEntry c.ctx (BitVec.ofNat 12 x.virt) n
    | none => t

/-- The contexts of an instance on its dies, with every entry. -/
def State.makeContexts (s : State) (c : Canvas) (env : PlaceEnv) : State :=
  s.onDies c.dies fun d x =>
    match x.tsl.declareAll c.image c.binding env d c.ctx c.id with
    | none => x
    | some t => { x with tsl := (bTsls c.image).foldl (s.mapImport c d) t }

/-- The member streams of a credit pool of an instance on a die, each with its floor (R173, R195). -/
def Canvas.members (c : Canvas) (env : PlaceEnv) (d : DieIx) (i : Nat) : List Member :=
  ((dieProgs c.image c.binding env d).filter fun p => (bProg c.image p).pool == i).map fun p =>
    { prog := BitVec.ofNat 16 p, stream := none, floor := memberFloor c.binding (bProg c.image p), held := 0 }

/-- The credit pools of an instance on a die, on the lowest free pool numbers (DESIGN CHOICE, entry 82). -/
def Die.withPools (x : Die) (c : Canvas) (env : PlaceEnv) (d : DieIx) : Die :=
  (diePools c.image c.binding env d).foldl (fun x i =>
    match lowestFree 0 1023 (x.pools.map Prod.fst) with
    | none => x
    | some n =>
      let (u, cap) := bPool c.image i
      { x with pools := sInsert x.pools n { canvas := some c.id, index := i, unitBytes := u, capacity := cap,
                                            members := c.members env d i, waiting := [], stalled := false } }) x

/-- A die on which a canvas has been placed: its share of the pool and of DRAM, its credit pools, and the registers that show it. -/
def Die.placed (x : Die) (c : Canvas) (env : PlaceEnv) (p : DiePlace) : Die :=
  let d := p.die
  let y := { x with poolUsedKib := x.poolUsedKib + ceilDiv p.foot 1024,
                    dramAlloc := x.dramAlloc ++ (c.dramAt.filter fun (e : DieIx × Nat) => e.1 == d).map fun (e : DieIx × Nat) => (e.2, c.binding.dram, c.id.func) }
  let z := (y.withPools c env d).syncPool
  let w := z.setField Reg.rmsSlotPeak 4 0 (max p.peak.1 (z.field Reg.rmsSlotPeak 4 0))
  let v := w.setField Reg.rmsSlotPeak 12 8 (max p.peak.2 (w.field Reg.rmsSlotPeak 12 8))
  v.setReg Reg.rmsPlaceGen (v.reg Reg.rmsPlaceGen + 1)

/-- Placement on the dies of an instance. -/
def State.placeCanvas (s : State) (c : Canvas) (env : PlaceEnv) (ps : List DiePlace) : State :=
  ps.foldl (fun s p =>
    let s1 := s.onDie p.die fun x => x.placed c env p
    if 0 < p.moved then s1.raise p.die Reg.rmsPlaceEvt 0x4 else s1) s

/-- A register of a head with a field of its shadow and of its value in force set. -/
def Die.force2 (x : Die) (off hi lo v : Nat) : Die :=
  let y := x.setField off hi lo v
  { y with force := sSet regReset y.force off (setBits (y.inForce off) hi lo v) }

/-- The fields that a binding sets in a bundle layer (R227). -/
def Canvas.setLayerRegs (c : Canvas) (e : LayerEntry) (x : Die) : Die :=
  let l : LayerIx := Fin.ofNat 16 e.layer
  let u := c.wholeBand (c.layerOp e).out0
  let y := ((x.force2 (Reg.cmpLayerCtrl l) 10 9 1).force2 (Reg.cmpLayerCtrl l) 8 5 e.pixfmt).force2 (Reg.cmpLayerSrcXy l) 31 0 0
  let z := (((y.force2 (Reg.cmpLayerSrcWh l) 15 0 u.x1).force2 (Reg.cmpLayerSrcWh l) 31 16 u.y1).force2 (Reg.cmpLayerBaseLo l) 31 0 0)
  let w := (z.force2 (Reg.cmpLayerBaseHi l) 7 0 0).force2 (Reg.cmpLayerPitch l) 23 0 0
  { w with head := { w.head with layers := w.head.layers.set l.val LayerRt.reset l.isLt } }

/-- The heads of a canvas already run its mode, all at one line. -/
def State.sameRaster (s : State) (b : Binding) : Bool :=
  let first := (s.die (dieOf b.head0)).head
  b.heads.all fun h =>
    let x := (s.die h.1).head
    x.running && x.mode == some b.mode && x.line == first.line && x.vtotalNow == first.vtotalNow

/-- A head of a live canvas runs its raster; one that did not starts before the line at which its first frame boundary lies
(DESIGN CHOICE, entry 38). A Replay canvas runs none. -/
def Head.bound (x : Head) (b : Binding) (keep : Bool) : Head :=
  if b.flags.getLsbD 0 then { x with mode := some b.mode, running := false, line := 0, vtotalNow := b.vtotal }
  else if keep then { x with mode := some b.mode }
  else { x with mode := some b.mode, running := true, line := b.regionH - 1, vtotalNow := b.vtotal, fetched := [] }

/-- The heads of a canvas as its binding sets them. -/
def State.bindHeads (s : State) (c : Canvas) : State :=
  let b := c.binding
  let keep := s.sameRaster b
  let s1 := s.onDies (b.heads.map fun h => h.1) fun h x =>
    let y := c.binding.layers.foldl (fun x e => c.setLayerRegs e x) x
    { y with head := y.head.bound b keep, sfn := { y.sfn with history := y.sfn.history.filter fun e => e.part.head != h } }
  let s2 := (b.heads.filter fun h => (s.die h.1).head.commit.pending).foldl (fun s h => s.refuseCommit h.1 .aborted) s1
  if b.wide then s2.onDies (b.heads.map fun h => pairDie h.1) fun _ x =>
      { (x.setField Reg.scnStatus 2 2 1) with head := { x.head with running := false, mode := none } }
  else s2

/-- Ancestors of a die in the barrier tree, itself included. -/
def barrierPath (p : Part) (d : DieIx) : List DieIx :=
  match barrierParent p d with
  | none => [d]
  | some a => match barrierParent p a with
    | none => [d, a]
    | some r => [d, a, r]

/-- The expected count of each node of a barrier whose participants run on some dies (R280). -/
def State.expectedCounts (s : State) (runs : List DieIx) : Vector Nat 8 :=
  let p := s.straps.part
  let below (k : DieIx) : Bool := runs.any fun r => (barrierPath p r).contains k
  Vector.ofFn fun d => (runs.filter fun r => r == d).length +
    (s.dieList.filter fun k => barrierParent p k == some d && below k).length

/-- An unbanked object of the firmware context, where one is free. -/
def Tsl.firmwareObj (t : Tsl) : Option (Tsl × Nat) :=
  (t.findFree 0 1).map fun n => (t.setObj n (TslObj.fresh 0 none none 0), n)

/-- Firmware objects of a barrier on every node: ARR and REL. None where a die has no two of them left. -/
def State.barrierObjs (s : State) (e : Vector Nat 8) : Option (State × List (Nat × Nat)) :=
  (List.finRange 8).foldl (fun (acc : Option (State × List (Nat × Nat))) d => acc.bind fun (s, l) =>
    if e[d.val] = 0 then some (s, l ++ [(0, 0)])
    else ((s.die d).tsl.firmwareObj).bind fun (t, a) => t.firmwareObj.map fun (t2, r) =>
      (s.onDie d fun x => { x with tsl := t2 }, l ++ [(a, r)])) (some (s, []))

/-- One barrier for each frame-scope Matrix Engine op that several participants run. DESIGN CHOICE, entry 37. -/
def State.makeBarriers (s : State) (c : Canvas) : State :=
  ((bOps c.image).filter fun o => o.frameScope && onMatrix c.image o).foldl (fun s o =>
    let runs := (c.partics o s.engines s.nDies).map fun p => p.2.1
    if runs.length ≤ 1 then s
    else
      let e := s.expectedCounts runs
      match s.barrierObjs e with
      | none => s
      | some (s1, objs) =>
      let id := (lowestFree 0 65535 (s.barriers.map Barrier.id)).getD 0
      let b : Barrier :=
        { id := id, owner := c.id, op := o.ix, expected := e, arr := Vector.ofFn (fun d => (objs.getD d.val (0, 0)).1),
          rel := Vector.ofFn (fun d => (objs.getD d.val (0, 0)).2), generation := 1, combining := [] }
      { s1 with barriers := s1.barriers ++ [b] }) s

/-- A Replay canvas starts from its checkpoint, as its frame 0. -/
def Canvas.atCheckpoint (c : Canvas) (r : ReplayPlan) : Canvas :=
  let k := r.ckpts.foldl (fun c e => (c.loadCkpt e.1 e.2).loadTracks e.1 e.2) c
  { k with replay := r.frames, frameStep := r.step, steps := [(0, r.step)] }

/-- The binding of a canvas that passed every check. -/
def State.bindCanvas (s : State) (p : BindPlan) : State :=
  let c0 := match p.replay with
    | some r => p.canvas.atCheckpoint r
    | none => p.canvas
  let env := s.placeEnv c0.image c0.binding
  let s1 := (s.makeContexts c0 env).placeCanvas c0 env p.places
  let s2 := { s1 with canvases := s1.canvases ++ [c0] }
  let s2 := match p.replay.bind fun r => r.ckpts.head? with
    | some e => s2.loadRetiming c0 e.1 e.2
    | none => s2
  let s3 := ((s2.makeBarriers c0).bindHeads c0).syncReplay c0.dies
  s3.record 0 s3.gsc (s3.configRec (some c0))

/-- BIND. Until the host has answered every read, the descriptor stays in progress. What its completion counts is a DESIGN CHOICE,
entry 99. -/
def fxBind (h : DescHdr) (block : Dword) (len : Word) (report : Dword) (data : List Byte) (s : State) : State :=
  s.descriptor h 2 true true fun t _ =>
    let fail (f : CheckFail) : State × DescEnd := (t.placeFailed f true, .done (f.completion 2))
    if t.bufferOk h.func block len report = false then fail (outside .hostRange)
    else if data.length ≠ len.toNat then (t, .await .transfer)
    else match t.bindCheck h.func data with
      | .error f => fail f
      | .ok p =>
        let (r1, r2, moved) := placeCounts p.places
        let n := r1.length + r2.length
        let c := p.canvas
        (((t.bindCanvas p).report report (rewritten0 c.image ++ r1 ++ r2)).placeDone n,
          .done { status := .ok, kind := 2, detail := placeDetail c.id.handle 0xFFFF 0 0 n moved c.ctx })

def execAdmitBundle (h : DescHdr) (bundle : Dword) (len : Word) (report : Dword) (data : List Byte) (s : State) :
    Host.Outcome State Fault Refusal := .next (fxAdmitBundle h bundle len report data s)
def execBind (h : DescHdr) (block : Dword) (len : Word) (report : Dword) (data : List Byte) (s : State) :
    Host.Outcome State Fault Refusal := .next (fxBind h block len report data s)

end Sys2Proof.Machine
end

