-- ==== Sys2Proof/Machine/OpChange.lean ====
section
/-! DEFINITION. Changes of operating point: requests, regulators, the latch, and the placement that a change makes again (R30
to R34, R147, R288, R298, R411, R412, R415, R418). -/

namespace Sys2Proof.Machine

/-- The code of an operating point. -/
def OpPoint.code : OpPoint → Fin 4
  | .op0 => 0
  | .op1 => 1
  | .op2 => 2
  | .op3 => 3

/-- An operating point by its code. -/
def opOfCode (n : Nat) : OpPoint :=
  match n % 4 with
  | 0 => .op0
  | 1 => .op1
  | 2 => .op2
  | _ => .op3

/-- ME divider of the root at a throttle level (Table 15.2); 0 where the clock is stopped. -/
def OpPoint.meDiv : OpPoint → Fin 5 → Nat
  | .op0, l => [8, 10, 12, 15, 20].getD l.val 20
  | .op1, l => [10, 12, 15, 20, 20].getD l.val 20
  | .op2, l => [8, 10, 12, 15, 20].getD l.val 20
  | .op3, _ => 0

/-- Juggler divider of the root at a throttle level (Table 15.2); 0 where the clock is stopped. -/
def OpPoint.jglDiv : OpPoint → Fin 5 → Nat
  | .op0, l => [4, 5, 6, 8, 10].getD l.val 10
  | .op1, l => [5, 6, 8, 10, 10].getD l.val 10
  | .op2, l => [8, 10, 10, 10, 10].getD l.val 10
  | .op3, _ => 0

/-- A change of point raises a clock, or ungates one. -/
def opRaises (old new : OpPoint) : Bool :=
  decide (old.engines < new.engines) ||
    (new != .op3 && (decide (new.meDiv 0 < old.meDiv 0) || decide (new.jglDiv 0 < old.jglDiv 0)))

/-- The point below another that a thermal step takes (R413). -/
def OpPoint.below : OpPoint → Option OpPoint
  | .op0 => some .op1
  | .op1 => some .op2
  | .op2 => none
  | .op3 => none

/-! ### Placement made again (R147) -/

/-- What a canvas finds when it is placed again: what it holds itself counts as free, and its modes stand. -/
def State.ownEnv (s : State) (c : Canvas) : PlaceEnv :=
  let t := c.dies.foldl (fun s d => s.onDie d fun x => { x with tsl := (x.tsl.destroy c.ctx).1 }) (s.releasePlaces c)
  { t.placeEnv c.image c.binding with linkOk := true }

/-- A canvas is placed for the point in force. Where its instance keeps its dies, its objects keep their values. A bundle that
no longer fits keeps its placement (entry 40: the manual names no failure here). -/
def State.rePlace (s : State) (c : Canvas) : State :=
  let env := s.ownEnv c
  match (bindPlace c.image c.binding env).toOption.bind fun ps => ((s.releasePlaces c).extents c.id c.binding.dram ps).map fun x => (ps, x) with
  | none => s
  | some (ps, x) =>
    let dies := instanceDies c.image c.binding s.engines s.nDies
    let s1 := s.releasePlaces c
    let k := { c with pool := x.pool, dramAt := x.dramAt, kInner := kInnerOf ps }
    if dies = c.dies then (s1.placeCanvas k env ps).onCanvas c.id fun _ => k
    else
      let t := (c.dies.foldl (fun s d => s.destroyCtx d c.ctx) s1).freeBarriers c.id
      let k2 := { k with dies := dies, ctx := (env.ctxFree).getD c.ctx }
      (((t.makeContexts k2 env).placeCanvas k2 env ps).onCanvas c.id fun _ => k2).makeBarriers k2

/-! ### The latch (R33, R412, R415) -/

/-- Some head, or the replay of some canvas, has a frame boundary to come. -/
def State.anyBoundary (s : State) : Bool :=
  (s.dieList.any fun d => (s.die d).head.running) || s.canvases.any fun c => !c.replay.isEmpty

/-- Every die has drained its neural work: items, the runs and stripe steps that wait, and the streams of neural Carousels. -/
def State.drained (s : State) : Bool :=
  (s.dieList.all fun d => (s.die d).inflight.isEmpty && (s.die d).streams.all fun e => decide (e.1.crs.val < 12)) &&
    s.canvases.all fun c => (c.items.all fun i => !i.live) && c.runs.isEmpty && c.deferred.isEmpty

/-- A head that has a frame boundary to come has had one since the request for a change, and composes from fall-back alone. -/
def State.allForced (s : State) (but : Option DieIx) : Bool :=
  s.dieList.all fun g => but == some g || (s.die g).head.opForced ||
    !((s.die g).head.running || (s.headCanvas g).any fun c => !c.replay.isEmpty)

/-- The supplies are set for the target: no acknowledgement is awaited and 100 µs have passed since the last. Where no head has a
boundary to come, nothing waits for the 100 µs (entry 41). -/
def State.supplied (s : State) : Bool :=
  s.power.awaited.isEmpty && match s.power.ackAt with
    | none => true
    | some t => decide (t + 10_000 ≤ s.gsc) || !s.anyBoundary

/-- DET_CONFIG with the point in force, on every die; a change is recorded. -/
def State.showPoint (s : State) : State :=
  let n := s.power.point.code.val
  (s.onDies s.dieList fun _ x => if x.boot.inReset then x else x.setField Reg.detConfig 1 0 n).recordConfigs

/-- The target comes into force on the whole part. -/
def State.latchPoint (s : State) (p : OpPoint) : State := s.inOneCycle fun s =>
  let old := s.power.point
  let wait := if opRaises old p then [] else s.dieList
  let s1 := { s with power := { s.power with point := p, target := none, awaited := wait, ackAt := none } }
  let s2 := s1.onDies s1.dieList fun _ x => { x with thermal := { x.thermal with level := 0, coolMs := 0, hotMs := 0 } }
  let s3 := (s2.recordEvent 1 none (BitVec.ofNat 64 s.gsc) (leBytes 4 old.code.val ++ leBytes 4 p.code.val)).showPoint
  let s4 := s3.canvases.foldl (fun s c => s.rePlace c) s3
  s4.dieList.foldl (fun s d => s.raise d Reg.pwrEvt 0x10) s4

/-- The latch, where a change is ready for it; `but` is the head at whose frame boundary it is tried. The point is one for the part
(R31), so it changes once every other head composes from fall-back alone. -/
def State.tryLatch (s : State) (but : Option DieIx) : State :=
  match s.power.target with
  | some p => if s.supplied && s.drained && s.allForced but then s.latchPoint p else s
  | none => s

/-- What a change of point does at a frame boundary of a head: it takes effect there, or the head composes from fall-back alone. -/
def State.opBoundary (s : State) (h : DieIx) : State :=
  let s1 := s.tryLatch (some h)
  s1.onDie h fun x => { x with head := { x.head with opForced := s1.power.target.isSome } }

/-! ### Requests (R415) -/

/-- A change to a point that is not in force begins, or takes the place of one in progress. -/
def State.beginChange (s : State) (p : OpPoint) : State :=
  let wait := if opRaises s.power.point p then s.dieList else []
  let s1 := { s with power := { s.power with target := some p, awaited := wait, ackAt := none } }
  if s1.anyBoundary then s1 else s1.tryLatch none

/-- A request for a point, as PWR_CTRL of a die makes it. -/
def State.requestOp (s : State) (d : DieIx) (p : OpPoint) : State :=
  if s.power.held then s.raise d Reg.pwrEvt 0x20
  else if p = s.power.point then s
  else s.beginChange p

/-- AVS_ACK (R415, R418): a die's regulator acknowledges its set-point. -/
def fxAvsAck (d : DieIx) (s : State) : State :=
  if s.power.awaited.contains d = false then s
  else
    let p := s.power.target.getD s.power.point
    let rest := s.power.awaited.filter fun x => x != d
    let s1 := { s with power := { s.power with awaited := rest, ackAt := if rest.isEmpty then some s.gsc else s.power.ackAt } }
    let s2 := s1.setField d Reg.pwrStatus 25 16 (Config.coreMillivolts d.val p.code).toNat
    if s2.anyBoundary then s2 else s2.tryLatch none

/-- AVS_TIMEOUT (R415): a regulator has not acknowledged within 1 ms. A change that waits for it is abandoned; one whose clocks
are down already stands (entry 41). -/
def fxAvsTimeout (d : DieIx) (s : State) : State :=
  if s.power.awaited.contains d = false then s
  else
    let rest := if s.power.target.isSome then [] else s.power.awaited.filter fun x => x != d
    ({ s with power := { s.power with target := none, awaited := rest, ackAt := none } }).raise d Reg.pwrEvt 0x08

def execAvsAck (d : DieIx) (s : State) : Host.Outcome State Fault Refusal := .next (fxAvsAck d s)
def execAvsTimeout (d : DieIx) (s : State) : Host.Outcome State Fault Refusal := .next (fxAvsTimeout d s)

end Sys2Proof.Machine
end

