-- ==== Sys2Proof/Machine/Sfn.lean ====
section
/-! DEFINITION. The Safety Net of a die: SAFE and FAULT_N, thresholds, repeated rejection and neural-domain restarts, the golden
stripe, monitors and watchdogs, the current guard, the receiver echo, and error injection (R346 to R348, R354 to R357, R360,
R363 to R369). -/

namespace Sys2Proof.Machine

/-- The state with the Safety Net of a die changed. -/
def State.onSfn (s : State) (d : DieIx) (f : Sfn → Sfn) : State := s.onDie d fun x => { x with sfn := f x.sfn }

/-! ### FAULT_N and SAFE (R346, R347) -/

/-- A die drives FAULT_N for a cause. -/
def State.driveFault (s : State) (d : DieIx) (c : FaultCause) : State :=
  s.onSfn d fun x => { x with faults := if x.faults.contains c then x.faults else x.faults ++ [c] }

/-- FAULT_N is low. -/
def State.faultLow (s : State) : Bool := s.dieList.any fun d => !(s.die d).sfn.faults.isEmpty

/-- The bundles' streams on a die stop, and its members of credit pools hold nothing any more. -/
def Die.stopStreams (x : Die) : Die :=
  let y := x.removeStreams fun _ k => k.canvas.isSome
  { y with pools := y.pools.map fun e => (e.1, e.2.emptied) }

/-- The neural work of a die is abandoned without poisoning, and nothing more enters (R275, R356). Stripe steps held back on it are
passed over. -/
def State.stopNeural (s : State) (d : DieIx) : State :=
  let s1 := s.canvases.foldl (fun s c => s.abandonWork c.id .aborted fun i => i.id.die == d) s
  let s2 := s1.canvases.foldl (fun s c => (c.deferred.filter fun e => e.1 == d).foldl (fun s e =>
    match c.released.find? (fun r => r.1 == e.2), c.parts.find? fun p => p.stepSeq == e.2 with
    | some r, some p => s.skipStep c.id d r.2 p.id.stripe e.2
    | _, _ => s) s) s1
  let s3 := s2.canvases.foldl (fun s c => s.onCanvas c.id fun k =>
    { k with deferred := k.deferred.filter (fun e => e.1 != d), runs := k.runs.filter fun r => r.die != d }) s2
  s3.onDie d fun x => x.stopStreams

/-- Saves in progress of the contexts that a die holds end (R311). -/
def State.abortSaves (s : State) (d : DieIx) : State :=
  (s.canvases.filter fun c => c.dies.contains d).foldl (fun s c => s.abortSave c.id) s

/-- A die enters SAFE, which only its reset leaves. -/
def State.enterSafe (s : State) (d : DieIx) : State :=
  if (s.die d).sfn.phase = .safe then s
  else
    let s1 := (s.abortSaves d).onSfn d fun x => { x with phase := .safe, safeAt := s.gsc, restart := none, goldenStarted := false }
    ((s1.stopNeural d).driveFault d .safe).raise d Reg.sfnEvt 0x0040

/-! ### Frames of a die (R354, R355) -/

/-- The head whose frames a die follows: its own, or its partner's while that disables it (R26). -/
def State.frameHead (s : State) (d : DieIx) : DieIx := if s.field d Reg.scnStatus 2 2 = 1 then pairDie d else d

/-- Dies that follow the frames of a head. -/
def State.followers (s : State) (h : DieIx) : List DieIx := s.dieList.filter fun d => s.frameHead d == h

/-- The head whose frames a die follows runs a raster. -/
def State.hasRaster (s : State) (d : DieIx) : Bool := (s.die (s.frameHead d)).head.running

/-! ### Thresholds (R354) -/

/-- The key of a setting that awaits a frame boundary: its offset, with the current-guard channel above it. -/
def thresholdKey (off ch : Nat) : Nat := off + (if off = Reg.sfnIgLimit then 2 ^ 32 * ch else 0)

/-- A setting takes effect. -/
def State.applyThreshold (s : State) (d : DieIx) (e : Nat × Word) : State :=
  if e.1 % 2 ^ 32 = Reg.sfnIgLimit then
    let n := e.1 / 2 ^ 32 % 32
    { s with igs := s.igs.set n { s.igs[n]'(Nat.mod_lt _ (by decide)) with limit := e.2 } (Nat.mod_lt _ (by decide)) }
  else s.setReg d e.1 e.2

/-- Settings that were written since the last frame boundary take effect. In SAFE those latched stay. -/
def State.latchThresholds (s : State) (d : DieIx) : State :=
  let x := (s.die d).sfn
  if x.phase = .safe then s
  else x.thresholds.foldl (fun s e => s.applyThreshold d e) (s.onSfn d fun y => { y with thresholds := [] })

/-- A value lies within the envelope of its register and above the least of its range (Table 13.2). -/
def Die.withinEnvelope (x : Die) (off : Nat) (w : Word) : Bool :=
  let env (o hi lo : Nat) : Nat := x.field o hi lo
  if off = Reg.sfnTMean then decide (bits w 15 0 ≤ env Reg.sfnEnv0 15 0)
  else if off = Reg.sfnTMax then decide (bits w 15 0 ≤ env Reg.sfnEnv0 31 16)
  else if off = Reg.sfnHf then decide (bits w 15 0 ≤ env Reg.sfnEnv1 15 0) && decide (4 ≤ bits w 21 16) &&
    decide (bits w 21 16 ≤ env Reg.sfnEnv1 21 16)
  else if off = Reg.sfnTFlash then decide (bits w 15 0 ≤ env Reg.sfnEnv2 15 0)
  else if off = Reg.sfnCap then decide (bits w 15 0 ≤ env Reg.sfnEnv3 15 0) && decide (bits w 31 16 ≤ env Reg.sfnEnv3 31 16)
  else if off = Reg.sfnEchoCtrl then decide (1 ≤ bits w 9 6) && decide (bits w 9 6 ≤ env Reg.sfnEnv2 19 16)
  else if off = Reg.sfnIgLimit then decide (1 ≤ bits w 15 0)
  else if off = Reg.sfnBright then decide (bits w 15 0 ≤ 0x8000)
  else true

/-- A write of a setting of Table 13.2 whose register on die d reads `old` (R354): refused for its role, discarded above its
envelope or while die 0 records, else in effect at the next frame boundary of the die's head, or at once where that head runs no
raster (entry 42). -/
def State.settingWrite (s : State) (d : DieIx) (off ch : Nat) (old value : Word) : State :=
  let w := writeWord (fieldsAt off) old value 0
  if s.role .pf < roleNeeded (fieldsAt off) old value then s.roleDenied
  else if (s.die d).withinEnvelope off w = false ∨ s.field 0 Reg.detRecCtrl 0 0 = 1 then s.raise d Reg.sfnEvt 0x0800
  else s.guardedWrite d off (fieldsAt off) old value fun t =>
    let k := thresholdKey off ch
    if t.hasRaster d then t.onSfn d fun x => { x with thresholds := (x.thresholds.filter fun e => e.1 != k) ++ [(k, w)] }
    else t.applyThreshold d (k, w)

/-- SFN_T_MEAN_WRITE. -/
def fxSfnTMeanWrite (d : DieIx) (value : Word) (s : State) : State := s.settingWrite d Reg.sfnTMean 0 (s.reg d Reg.sfnTMean) value

/-- SFN_T_MAX_WRITE. -/
def fxSfnTMaxWrite (d : DieIx) (value : Word) (s : State) : State := s.settingWrite d Reg.sfnTMax 0 (s.reg d Reg.sfnTMax) value

/-- SFN_HF_WRITE. -/
def fxSfnHfWrite (d : DieIx) (value : Word) (s : State) : State := s.settingWrite d Reg.sfnHf 0 (s.reg d Reg.sfnHf) value

/-- SFN_T_FLASH_WRITE. -/
def fxSfnTFlashWrite (d : DieIx) (value : Word) (s : State) : State := s.settingWrite d Reg.sfnTFlash 0 (s.reg d Reg.sfnTFlash) value

/-- SFN_CAP_WRITE. -/
def fxSfnCapWrite (d : DieIx) (value : Word) (s : State) : State := s.settingWrite d Reg.sfnCap 0 (s.reg d Reg.sfnCap) value

/-! ### Restarts (R355 to R357, Table 13.5) -/

/-- A die latches its neural domain off. -/
def State.latchOff (s : State) (d : DieIx) : State :=
  (s.onSfn d fun x => { x with latchedOff := true, restart := none }).raise d Reg.sfnEvt 0x0004

/-- A neural-domain restart is triggered; the third within 10 s of the first latches the die off instead. -/
def State.startRestart (s : State) (d : DieIx) : State :=
  let x := (s.die d).sfn
  if x.phase ≠ .armed ∨ x.restart.isSome = true ∨ x.latchedOff = true then s
  else
    let times := s.gsc :: x.restarts.filter fun t => decide (s.gsc ≤ t + 1_000_000_000)
    let s1 := (s.abortSaves d).onSfn d fun y =>
      { y with restart := some { at_ := s.gsc, phase := .gated }, restarts := times, window := [], frameBad := false, history := [],
               goldenStarted := false }
    let s2 := (s1.raise d Reg.sfnEvt 0x0002).recordEvent 2 none (BitVec.ofNat 64 s.gsc) (leBytes 4 d.val)
    let s3 := s2.stopNeural d
    if 3 ≤ times.length then s3.latchOff d else s3

/-- The restart of a die ends with its first release: recurrent state of the canvases that it computes starts from its declared
initial state. -/
def State.endRestart (s : State) (d : DieIx) : State :=
  let s1 := (s.onSfn d fun x => { x with restart := none }).count d Reg.sfnRestartCnt 1
  (s1.canvases.filter fun c => (c.region d).isSome && !c.replays).foldl (fun s c => s.resetRecurrent c.id) s1

/-- A restart whose injection passed ends at the first frame boundary at least 14 ms after its trigger. -/
def State.restartBoundary (s : State) (d : DieIx) : State :=
  match (s.die d).sfn.restart with
  | some r => if r.phase = .injected ∧ r.at_ + 1_400_000 ≤ s.gsc then s.endRestart d else s
  | none => s

/-- RESTART_GATE_END: the domain is powered again, at least 1.05 ms after the trigger, with its memories at 0. -/
def fxRestartGateEnd (d : DieIx) (s : State) : State :=
  match (s.die d).sfn.restart with
  | some r =>
    if r.phase = .gated ∧ r.at_ + 105_000 ≤ s.gsc then
      s.onDie d fun x => { x.stopStreams with engines := Vector.replicate 2 Engine.reset,
                                              sfn := { x.sfn with restart := some { r with phase := .powered } } }
    else s
  | none => s

/-- RESTART_RESTAGE_DONE: every object that a bundle context owns on the die is 0 (R275); placement is unchanged. -/
def fxRestartRestageDone (d : DieIx) (s : State) : State :=
  match (s.die d).sfn.restart with
  | some r =>
    if r.phase = .powered then
      s.onDie d fun x =>
        let own := (x.tsl.ctxs.filter fun e => match e.2.owner with
          | .bundle _ => true
          | .firmware => false
          | .func _ => false).map Prod.fst
        { x with tsl := own.foldl Tsl.zero x.tsl, sfn := { x.sfn with restart := some { r with phase := .restaged } } }
    else s
  | none => s

/-- The rows of Table 13.7 that a restart drives. -/
def restartRows : BitVec 18 := 0x22E8D#18

/-- Die 0 announces the first release of the canvases that a die computes (R295). -/
def State.announce (s : State) (d : DieIx) : State :=
  (s.canvases.filter fun c => c.dies.contains d && c.firstAt.isNone).foldl (fun s c => s.onCanvas c.id fun k =>
    { k with firstAt := some (s.gsc + 200), started := [] }) s

/-- RESTART_INJECTION_DONE: a row that did not trip latches the die off; else die 0 announces S. On a die whose head runs no
raster the restart then ends (entry 43). -/
def fxRestartInjectionDone (d : DieIx) (untripped : BitVec 18) (s : State) : State :=
  match (s.die d).sfn.restart with
  | some r =>
    if r.phase = .restaged then
      let bad := untripped &&& restartRows
      let s1 := s.setReg d Reg.sfnInjFail (bad.setWidth 32)
      if bad ≠ 0 then s1.latchOff d
      else
        let s2 := (s1.onSfn d fun x => { x with restart := some { r with phase := .injected } }).announce d
        if s2.hasRaster d then s2 else s2.endRestart d
    else s
  | none => s

/-- A latched-off die starts a restart at once, the first of a new count (entry 43). -/
def State.clearLatch (s : State) (d : DieIx) : State :=
  if (s.die d).sfn.latchedOff then (s.onSfn d fun x => { x with latchedOff := false, restarts := [] }).startRestart d else s

/-- A guarded write of SFN_CTRL with trigger bits. -/
def State.sfnCtrlWrite (s : State) (d : DieIx) (trigger : Word) (apply : State → State) : State :=
  s.guardedWrite d Reg.sfnCtrl (fieldsAt Reg.sfnCtrl) (s.reg d Reg.sfnCtrl) trigger apply

/-- CLEAR_LATCH: a write of 1 to SFN_CTRL.CLEAR_LATCH. -/
def fxClearLatch (d : DieIx) (s : State) : State := s.sfnCtrlWrite d 1 fun t => t.clearLatch d

/-- Rejection frames in a row at the latest frame, and among the last 64. -/
def Sfn.run (x : Sfn) : Nat := (x.window.takeWhile fun b => b).length
def Sfn.in64 (x : Sfn) : Nat := (x.window.filter fun b => b).length

/-- The frame that ends joins the window, and a restart is triggered where three in a row or 8 of 64 were rejected (R355). -/
def State.windowBoundary (s : State) (d : DieIx) : State :=
  let x := (s.die d).sfn
  let s1 := s.onSfn d fun y => { y with frameBad := false }
  if x.phase ≠ .armed ∨ x.restart.isSome = true ∨ x.latchedOff = true then s1
  else
    let s2 := s1.onSfn d fun y => { y with window := (x.frameBad :: y.window).take 64 }
    let y := (s2.die d).sfn
    if 3 ≤ y.run ∨ 8 ≤ y.in64 then s2.startRestart d else s2

/-! ### The golden stripe (R364 to R366) -/

/-- A run starts at a frame boundary, with the variant and the engine of a frame step. After two deferrals it pre-empts slot 15. -/
def State.startGolden (s : State) (d : DieIx) (step : Nat) : State :=
  if s.neuralOn d = false then s
  else
    let e : EngIx := if s.power.point = .op2 then 0 else Fin.ofNat 2 (step / 4)
    let s1 := s.onSfn d fun x => { x with goldenStarted := true, goldenVariant := Fin.ofNat 4 step, goldenEngine := e }
    if (s.die d).sfn.goldenDefer < 2 then s1
    else s1.onEngine d e fun g => match g.slot15 with
      | some t => { g with slots := g.slots.filter (fun x => x.1.val != 15), golden := some t }
      | none => g

/-- SFN_GOLDEN shows the deferrals in a row. -/
def State.showDefer (s : State) (d : DieIx) : State := s.setField d Reg.sfnGolden 1 0 (s.die d).sfn.goldenDefer

/-- GOLDEN_DEFER: no tile boundary with slot 15 free came within 12 µs. -/
def fxGoldenDefer (d : DieIx) (s : State) : State :=
  let x := (s.die d).sfn
  if x.goldenStarted = false ∨ 2 ≤ x.goldenDefer ∨ ((s.die d).engines[x.goldenEngine.val]).slot15.isNone then s
  else (s.onSfn d fun y => { y with goldenStarted := false, goldenDefer := y.goldenDefer + 1 }).showDefer d

/-- The tile that the run spilled returns to slot 15. -/
def Engine.reload (g : Engine) : Engine :=
  match g.golden with
  | some t => if g.slot15.isNone then { g with slots := g.slots ++ [(15, t)], golden := none }
              else { g with spill := g.spill ++ [t], golden := none }
  | none => g

/-- GOLDEN_COMPLETE: the CRC-32C of the output against the value that the firmware image gives for the variant. -/
def fxGoldenComplete (d : DieIx) (crc : Word) (s : State) : State :=
  let x := (s.die d).sfn
  if x.goldenStarted = false ∨ ((s.die d).engines[x.goldenEngine.val]).slot15.isSome then s
  else
    let good := crc == Config.goldenCrc (s.reg d Reg.detClassHi) x.goldenVariant
    let s1 := (s.onEngine d x.goldenEngine Engine.reload).onSfn d fun y => { y with goldenStarted := false, goldenDefer := 0 }
    let s2 := s1.setReg d Reg.sfnGolden (BitVec.ofNat 32 (4 * b2n good + 8 * x.goldenVariant.val + 32 * x.goldenEngine.val))
    if good then s2 else (s2.countRaise d Reg.sfnGoldenFailCnt Reg.sfnEvt 0x0020).startRestart d

/-- GOLDEN_STRIPE_PERIODIC_RUN: on a die whose head runs no raster, every 1,000,000 ticks. Its frame step is the device time:
entry 43. -/
def fxGoldenStripePeriodicRun (d : DieIx) (s : State) : State := if s.hasRaster d then s else s.startGolden d s.gsc

/-! ### What a frame boundary does on the dies that follow a head -/

/-- Thresholds, the end of a restart, the rejection window and the golden stripe, at a frame boundary of a head. -/
def State.sfnBoundary (s : State) (h : DieIx) (step : Nat) : State :=
  (s.followers h).foldl (fun s d => (((s.latchThresholds d).restartBoundary d).windowBoundary d).startGolden d step) s

/-! ### Monitors and watchdogs (R346, R367) -/

/-- A bit of SFN_MON, held until reset. -/
def State.setMon (s : State) (d : DieIx) (k : Nat) : State := s.setReg d Reg.sfnMon (s.reg d Reg.sfnMon ||| BitVec.ofNat 32 (2 ^ k))

/-- The bit of a monitor in SFN_MON. -/
def monitorBit : Monitor → Nat
  | .fabric => 0 | .me => 1 | .control => 2 | .pixel => 3 | .reference => 4 | .core => 5 | .sram => 6 | .vddq => 7 | .io12 => 8
  | .io18 => 9

/-- LOCKSTEP_MISMATCH. R367 counts the lock-step compare among the monitors whose trip sets MONITOR or WDOG: entry 43. -/
def fxLockstepMismatch (d : DieIx) (s : State) : State := ((s.setMon d 12).raise d Reg.sfnEvt 0x0080).enterSafe d

/-- MONITOR_TRIP. -/
def fxMonitorTrip (d : DieIx) (m : Monitor) (s : State) : State := ((s.setMon d (monitorBit m)).raise d Reg.sfnEvt 0x0080).enterSafe d

/-- An interval of SEC_DOWN_MS begins, where none runs (R382). -/
def State.startDown (s : State) (h : DieIx) : State :=
  if (s.die h).head.downSince.isSome then s
  else (s.onDie h fun x => { x with head := { x.head with downSince := some s.gsc } }).count h Reg.secDownEvents 1

/-- An interval of SEC_DOWN_MS ends: its whole milliseconds are counted. -/
def State.endDown (s : State) (h : DieIx) : State :=
  match (s.die h).head.downSince with
  | none => s
  | some t => (s.onDie h fun x => { x with head := { x.head with downSince := none } }).count h Reg.secDownMs ((s.gsc - t) / 100_000)

/-- RASTER_STALL, on a head that runs a raster and does not wait under R252. -/
def fxRasterStall (h : DieIx) (s : State) : State :=
  let x := (s.die h).head
  if x.running = false ∨ x.te.waiting = true then s
  else ((((s.setMon h 10).raise h Reg.sfnEvt 0x0100).driveFault h .rasterStall).startDown h)

/-- HEARTBEAT_TIMEOUT. -/
def fxHeartbeatTimeout (d : DieIx) (s : State) : State := ((s.setMon d 11).raise d Reg.sfnEvt 0x0100).driveFault d .heartbeat

/-- HB_OUT_TOGGLE (R347). -/
def fxHbOutToggle (s : State) : State :=
  if (s.die 0).sfn.phase = .armed ∧ s.faultLow = false then { s with pins := { s.pins with hbOut := !s.pins.hbOut } } else s

/-! ### The current guard (R360) -/

/-- A channel of the current guard. -/
def State.ig (s : State) (ch : Fin 32) : IgChannel := s.igs[ch.val]

/-- The state with a channel changed. -/
def State.onIg (s : State) (ch : Fin 32) (f : IgChannel → IgChannel) : State :=
  { s with igs := s.igs.set ch.val (f (s.ig ch)) ch.isLt }

/-- A channel that does not hold its outputs yet trips. -/
def State.tripIg (s : State) (ch : Fin 32) (timeout : Bool) : State :=
  if (s.ig ch).tripped then s
  else (s.onIg ch fun c => { c with tripped := true, timeout := timeout }).countRaise 0 Reg.sfnIgTripCnt Reg.sfnEvt 0x0400

/-- CURRENT_SAMPLE: two consecutive samples above I_LIMIT trip a channel that is on. -/
def fxCurrentSample (ch : Fin 32) (ma : BitVec 16) (s : State) : State :=
  let c := s.ig ch
  if bit c.cfg 0 = false then s
  else
    let exceeds := decide (bits c.limit 15 0 < ma.toNat)
    let s1 := s.onIg ch fun c => { c with last := ma, exceeded := exceeds }
    if exceeds && c.exceeded then s1.tripIg ch false else s1

/-- CURRENT_SAMPLE_TIMEOUT: no sample within 4 periods. -/
def fxCurrentSampleTimeout (ch : Fin 32) (s : State) : State := if bit (s.ig ch).cfg 0 then s.tripIg ch true else s

/-- The channel of SFN_IG_SEL is released while its latest sample is within I_LIMIT. A trip in the same cycle stands. -/
def State.clearIg (s : State) (tripSameCycle : Bool) : State :=
  let ch : Fin 32 := Fin.ofNat 32 (s.field 0 Reg.sfnIgSel 4 0)
  let c := s.ig ch
  if c.last.toNat ≤ bits c.limit 15 0 ∧ tripSameCycle = false then s.onIg ch fun c => { c with tripped := false, timeout := false }
  else s

/-- IG_CLEAR: a write of 1 to SFN_CTRL.IG_CLEAR of die 0. -/
def fxIgClear (tripSameCycle : Bool) (s : State) : State := s.sfnCtrlWrite 0 2 fun t => t.clearIg tripSameCycle

/-- PWM outputs that a tripped channel holds. -/
def State.heldPwm (s : State) (k : Fin 8) : Bool := s.igs.toList.any fun c => c.tripped && bit c.cfg (19 + k.val)

/-- PWM outputs that some channel binds. -/
def State.boundPwm (s : State) (k : Fin 8) : Bool := s.igs.toList.any fun c => bit c.cfg 0 && bit c.cfg (19 + k.val)

/-- The duty that a PWM output drives: the current guard's while a channel holds it, or while die 0 is in SAFE. -/
def State.pwmDuty (s : State) (k : Fin 8) : Nat :=
  let own := (s.sns.duty[k.val]).toNat
  let safe := s.field 0 Reg.sfnIgSafe 7 0
  if (s.die 0).sfn.phase = .safe ∧ s.boundPwm k = true then safe
  else if s.heldPwm k then min own safe else own

/-! ### The receiver echo (R363) -/

/-- A frame of echo that failed. -/
def EchoState.fail (e : EchoState) : EchoState := { e with bad := e.bad + 1, good := 0 }

/-- ECHO_READ: once a frame period, on die 0's head. A frame of either failing kind counts toward ECHO_N; a sequence number that
does not change is lost from its fourth period on (entry 43). -/
def fxEchoRead (h : DieIx) (digest : Word) (_lines seq : BitVec 16) (s : State) : State :=
  if h ≠ 0 ∨ s.field 0 Reg.sfnEchoCtrl 0 0 = 0 then s
  else
    let e := (s.die 0).head.echo
    let fresh := e.lastSeq != some seq
    let since := if fresh then 0 else e.sinceNew + 1
    let miss := !e.digests.contains digest
    let lost := decide (4 ≤ since)
    let e1 := { e with lastSeq := some seq, sinceNew := since }
    let e2 := if miss || lost then e1.fail else if fresh then { e1 with good := e1.good + 1, bad := 0 } else e1
    let n := s.field 0 Reg.sfnEchoCtrl 9 6
    let failing := decide (n ≤ e2.bad) || (e2.failing && decide (e2.good < n))
    let s1 := if miss then s.count 0 Reg.sfnEchoMissCnt 1 else s
    let s2 := if lost then s1.count 0 Reg.sfnEchoLostCnt 1 else s1
    let s3 := s2.onDie 0 fun x => { x with head := { x.head with echo := { e2 with failing := failing } } }
    if n ≤ e2.bad then (s3.raise 0 Reg.sfnEvt 0x0200).driveFault 0 .echo
    else if failing then s3
    else s3.onSfn 0 fun x => { x with faults := x.faults.filter fun c => c != .echo }

/-! ### Error injection (R348, R368, R369) -/

/-- SFN_INJ_GO: the full list on every die, in OP3 only. A GO while it runs has no effect. -/
def fxSfnInjGo (d : DieIx) (s : State) : State :=
  if (s.die d).sfn.injBusy then s
  else if s.power.point ≠ .op3 then s.setField d Reg.sfnInjCtrl 11 4 Status.aborted.code
  else (s.onDies s.dieList fun _ x => { x with sfn := { x.sfn with injBusy := true } }).setField d Reg.sfnInjCtrl 11 4 0

/-- A die is ARMED by its injection, unless it is in SAFE. -/
def Sfn.arm (x : Sfn) : Sfn := if x.phase = .safe then x else { x with phase := .armed }

/-- A row of a die's list did not trip: INJ_FAIL and FAULT_N. -/
def State.injFailed (s : State) (d : DieIx) : State := (s.raise d Reg.sfnEvt 0x1000).driveFault d .injection

/-- The list of every die has run: all are ARMED and the part leaves OP3, or every die returns to INIT. -/
def State.injectAll (s : State) (res : List (DieIx × BitVec 18)) : State :=
  if res.all fun e => e.2 == 0 then
    let s1 := s.onDies s.dieList fun _ x => { x with sfn := x.sfn.arm }
    if s1.power.held then
      let t := { s1 with power := { s1.power with held := false } }
      t.requestOp 0 (t.power.stored.getD .op0)
    else s1
  else
    let s1 := s.onDies s.dieList fun _ x => { x with sfn := if x.sfn.phase = .safe then x.sfn else { x.sfn with phase := .init } }
    (res.filter fun e => e.2 != 0).foldl (fun s e => s.injFailed e.1) s1

def execSfnTMeanWrite (d : DieIx) (value : Word) (s : State) : Host.Outcome State Fault Refusal := .next (fxSfnTMeanWrite d value s)
def execSfnTMaxWrite (d : DieIx) (value : Word) (s : State) : Host.Outcome State Fault Refusal := .next (fxSfnTMaxWrite d value s)
def execSfnHfWrite (d : DieIx) (value : Word) (s : State) : Host.Outcome State Fault Refusal := .next (fxSfnHfWrite d value s)
def execSfnTFlashWrite (d : DieIx) (value : Word) (s : State) : Host.Outcome State Fault Refusal := .next (fxSfnTFlashWrite d value s)
def execSfnCapWrite (d : DieIx) (value : Word) (s : State) : Host.Outcome State Fault Refusal := .next (fxSfnCapWrite d value s)
def execRestartGateEnd (d : DieIx) (s : State) : Host.Outcome State Fault Refusal := .next (fxRestartGateEnd d s)
def execRestartRestageDone (d : DieIx) (s : State) : Host.Outcome State Fault Refusal := .next (fxRestartRestageDone d s)
def execRestartInjectionDone (d : DieIx) (untripped : BitVec 18) (s : State) : Host.Outcome State Fault Refusal :=
  .next (fxRestartInjectionDone d untripped s)
def execClearLatch (d : DieIx) (s : State) : Host.Outcome State Fault Refusal := .next (fxClearLatch d s)
def execGoldenDefer (d : DieIx) (s : State) : Host.Outcome State Fault Refusal := .next (fxGoldenDefer d s)
def execGoldenComplete (d : DieIx) (crc : Word) (s : State) : Host.Outcome State Fault Refusal := .next (fxGoldenComplete d crc s)
def execGoldenStripePeriodicRun (d : DieIx) (s : State) : Host.Outcome State Fault Refusal := .next (fxGoldenStripePeriodicRun d s)
def execLockstepMismatch (d : DieIx) (s : State) : Host.Outcome State Fault Refusal := .next (fxLockstepMismatch d s)
def execMonitorTrip (d : DieIx) (m : Monitor) (s : State) : Host.Outcome State Fault Refusal := .next (fxMonitorTrip d m s)
def execRasterStall (h : DieIx) (s : State) : Host.Outcome State Fault Refusal := .next (fxRasterStall h s)
def execHeartbeatTimeout (d : DieIx) (s : State) : Host.Outcome State Fault Refusal := .next (fxHeartbeatTimeout d s)
def execHbOutToggle (s : State) : Host.Outcome State Fault Refusal := .next (fxHbOutToggle s)
def execCurrentSample (ch : Fin 32) (ma : BitVec 16) (s : State) : Host.Outcome State Fault Refusal := .next (fxCurrentSample ch ma s)
def execCurrentSampleTimeout (ch : Fin 32) (s : State) : Host.Outcome State Fault Refusal := .next (fxCurrentSampleTimeout ch s)
def execIgClear (tripSameCycle : Bool) (s : State) : Host.Outcome State Fault Refusal := .next (fxIgClear tripSameCycle s)
def execEchoRead (h : DieIx) (digest : Word) (lines seq : BitVec 16) (s : State) : Host.Outcome State Fault Refusal :=
  .next (fxEchoRead h digest lines seq s)
def execSfnInjGo (d : DieIx) (s : State) : Host.Outcome State Fault Refusal := .next (fxSfnInjGo d s)

end Sys2Proof.Machine
end

