-- ==== Sys2Proof/Machine/Boot.lean ====
section
/-! DEFINITION. Resets of the part and of a die, clock alignment, firmware verification, and the rest of boot (R291, R293, R368,
R369, R379, R380, R383 to R390, R400, R401, R419). -/

namespace Sys2Proof.Machine

/-! ### Resets of the part (R379, R419) -/

/-- The part as a reset leaves it: every register at its Reset column (R8). OTP, the settings memory, host memory and TRIP_N
outlast it, with the model's own counter and queue. -/
def State.afterReset (s : State) (st : Straps) : State :=
  let t := State.ofReset st s.otp s.nvm s.hostMem
  { t with free := s.free, pending := s.pending, pins := { t.pins with tripN := s.pins.tripN } }

/-- POWER_ON: RESET_N rises with the supplies in range, and the straps are sampled. TRIP_N, held until power is removed, is
released. -/
def fxPowerOn (st : Straps) (s : State) : State :=
  let t := s.afterReset st
  { t with pins := { t.pins with tripN := true } }

/-- A write of SEC_RESET with some trigger bits, AUTO as it stands. -/
def State.resetWrite (s : State) (trigger : Nat) (apply : State → State) : State :=
  let old := s.reg 0 Reg.secReset
  s.guardedWrite 0 Reg.secReset (fieldsAt Reg.secReset) old (old ||| BitVec.ofNat 32 trigger) apply

/-- A reset of the part that software asks for: sessions end, and audit entries that wait to be programmed stay (entry 12). -/
def State.resetPart (s : State) : State :=
  let u := (s.endSession .pf).endSession .mctp
  let v := u.afterReset u.straps
  { v with sec := { v.sec with staging := u.sec.staging, deferred := u.sec.deferred } }

/-- PART_RESET: a write of 1 to SEC_RESET.PART. -/
def fxPartReset (s : State) : State := s.resetWrite 1 State.resetPart

/-- RESET_N_ASSERTION: the part stays in reset until POWER_ON. -/
def fxResetNAssertion (s : State) : State :=
  let t := s.afterReset s.straps
  let u := t.onDies t.dieList fun _ x => { x with boot := { x.boot with inReset := true } }
  { u with pins := { u.pins with resetN := false } }

/-! ### Clock alignment (R291, R293) -/

/-- A die with a link changed. -/
def Die.onLink (x : Die) (k : Fin 4) (f : GaideLink → GaideLink) : Die :=
  { x with links := x.links.set k.val (f x.links[k.val]) k.isLt }

/-- The links of a die are trained, at both ends, where both dies are out of reset. -/
def State.trainLinks (s : State) (d : DieIx) : State :=
  (List.finRange 4).foldl (fun s k => match linkPeer s.straps.part d k with
    | none => s
    | some e =>
      let up : GaideLink := { up := true, failed := false, run := 0 }
      if (s.die e).boot.inReset then s else (s.onDie d fun x => x.onLink k fun _ => up).onDie e fun x => x.onLink k fun _ => up) s

/-- PKG_LOCK: every root PLL has locked, and die 0 drives PKG_SYNC. -/
def fxPkgLock (s : State) : State :=
  if s.clocks = true ∨ s.pins.resetN = false then s
  else
    let t := s.onDies s.dieList fun _ x => { x with boot := { x.boot with pllLocked := true } }
    { t with pins := { t.pins with pkgLock := true, pkgSync := true } }

/-- XALIGNED falls on every die until the next reset of the part. -/
def State.loseAlignment (s : State) : State :=
  s.dieList.foldl (fun s d => if s.field d Reg.detStatus 1 1 = 1 then (s.setField d Reg.detStatus 1 1 0).raise d Reg.detEvt 0x10 else s) s

/-- A die that was reset alone starts its dividers, with the GSC and the DET_CONFIG of die 0 (R293). -/
def State.rejoinClock (s : State) (d : DieIx) : State :=
  let s1 := s.onDie d fun x => { ((x.setField Reg.detStatus 0 0 1).setReg Reg.detConfig (s.reg 0 Reg.detConfig)) with
    boot := { x.boot with inReset := false, pllLocked := true, released := true } }
  (s1.loseAlignment).trainLinks d

/-- RELEASE_EDGE: the release edge of the part, with the ROM of die 0 waiting for a host image where BOOT_SRC is 1; or, while the
part runs, that of each die held in reset for 1 ms, on an edge at which the GSC is even. -/
def fxReleaseEdge (s : State) : State :=
  if s.clocks then
    if s.gsc % 2 = 1 ∨ s.power.standby = true then s
    else (s.dieList.filter fun d =>
      (s.die d).boot.alone && (s.die d).boot.inReset && decide ((s.die d).boot.resetAt + 100_000 ≤ s.gsc)).foldl (fun s d => s.rejoinClock d) s
  else if s.pins.pkgSync = false then s
  else
    let host (d : DieIx) : BootPhase := if d.val = 0 ∧ s.straps.bootHost = true then .waitHost else .rom
    let t := s.onDies s.dieList fun d x =>
      { ((x.setField Reg.detStatus 1 0 3).setField Reg.detConfig 4 4 (b2n s.straps.refPcie)) with
        boot := { x.boot with released := true, phase := host d } }
    let u := { t with clocks := true, gsc := 0 }
    u.dieList.foldl (fun s d => s.trainLinks d) u

/-! ### Die resets (R380) -/

/-- The functions that have a context on a die lose it: its waiters are released, as a destruction does (R273). -/
def State.dropFuncCtxs (s : State) (d : DieIx) : State :=
  ((s.die d).tsl.ctxs.filter fun e => match e.2.owner with
    | .func _ => true
    | .firmware => false
    | .bundle _ => false).foldl (fun s e => s.destroyCtx d e.1) s

/-- A die goes into reset while the others run: its work is abandoned without poisoning, and what die 0 applies again is kept. -/
def State.holdDie (s : State) (d : DieIx) : State :=
  let s1 := ((s.abortSaves d).stopNeural d).dropFuncCtxs d
  let x := s1.die d
  let y := Die.reset (otpRegs s.otp d) s.gsc
  let kept : Kept := match x.boot.kept with
    | some k => k
    | none => { force := x.force, lut := x.lutForce, coef := x.coefForce, mode := x.head.mode, seq := x.head.commit.seq }
  let b : DieBoot := { y.boot with alone := true, kept := some kept, inReset := true }
  let z : Die := { y with boot := b, dramAlloc := x.dramAlloc, poolUsedKib := x.poolUsedKib }
  let s2 := s1.setDie d z.syncPool
  let off : GaideLink := { up := false, failed := false, run := 0 }
  let s3 := (List.finRange 4).foldl (fun s k => match linkPeer s.straps.part d k with
    | none => s
    | some e => s.onDie e fun x => x.onLink k fun _ => off) s2
  { s3 with gaide := s3.gaide.filter fun m => m.src != d && m.dst != d }

/-- A die reset: the interval of SEC_DOWN_MS runs from its trigger where the head scanned. -/
def State.resetDie (s : State) (d : DieIx) : State :=
  let ran := (s.die d).head.running
  let s1 := (s.holdDie d).raise 0 Reg.secEvt 0x40
  if ran then s1.startDown d else s1

/-- DIE_RESET: SEC_RESET.DIE, of a die from 1 to 7 that the part contains. -/
def fxDieReset (d : DieIx) (s : State) : State :=
  if d.val = 0 ∨ s.present d = false then s else s.resetWrite (2 ^ d.val) fun t => t.resetDie d

/-- AUTO_DIE_RESET: with AUTO set, a die from 1 to 7 that has held SAFE for 1 s. -/
def fxAutoDieReset (d : DieIx) (s : State) : State :=
  let x := (s.die d).sfn
  if d.val ≠ 0 ∧ s.present d = true ∧ s.field 0 Reg.secReset 8 8 = 1 ∧ x.phase = .safe ∧ x.safeAt + ticksOfSeconds 1 ≤ s.gsc then
    s.resetDie d
  else s

/-- A die whose head a canvas's 7680×4320 mode disables (R26). -/
def State.pairedOff (s : State) (d : DieIx) : Bool :=
  s.canvases.any fun c => c.binding.wide && c.binding.heads.any fun h => pairDie h.1 == d

/-- A head with its last committed state applied again, SCN_STATUS showing it: it runs in step with its canvas. -/
def State.applyKept (s : State) (d : DieIx) : State :=
  match (s.die d).boot.kept with
  | none => s.onDie d fun x => { x with boot := { x.boot with alone := false } }
  | some k =>
    let peer := (s.headCanvas d).bind fun c => (c.binding.heads.map fun h => (s.die h.1).head).find? fun h => h.running
    s.onDie d fun x =>
      let y := k.force.foldl (fun x e => { (x.setReg e.1 e.2) with force := sSet regReset x.force e.1 e.2 }) x
      let hd := { y.head with
        mode := k.mode, running := k.mode.isSome,
        line := match peer, k.mode with
          | some p, _ => p.line
          | none, some m => m.h - 1
          | none, none => 0,
        vtotalNow := match peer, k.mode with
          | some p, _ => p.vtotalNow
          | none, some m => m.vtotal
          | none, none => 0,
        frameStep := (peer.map fun p => p.frameStep).getD 0,
        commit := { y.head.commit with seq := k.seq } }
      let z : Die := { y with lut := k.lut, lutForce := k.lut, coef := k.coef, coefForce := k.coef, head := hd,
                              boot := { y.boot with kept := none, alone := false } }
      z.showCommit.showLink.setField Reg.scnStatus 2 2 (b2n (s.pairedOff d))

/-- What a canvas has on a die is made again after a reset of that die: its context, with objects of 0, its credit pools and its
barriers. Placement is unchanged, and its recurrent state starts from its declared initial state. -/
def State.restage (s : State) (d : DieIx) (c : Canvas) : State :=
  let env := s.placeEnv c.image c.binding
  let s1 := (s.makeContexts { c with dies := [d] } env).onDie d fun x => x.withPools c env d
  let s2 := (s1.freeBarriers c.id).makeBarriers c
  if (c.region d).isSome && !c.replays then s2.resetRecurrent c.id else s2

/-- A die comes back: step 6 of R380. -/
def State.rejoinDie (s : State) (d : DieIx) : State :=
  let cs := s.canvases.filter fun c => c.dies.contains d
  let s1 := (cs.foldl (fun s c => s.restage d c) s).syncReplay [d]
  (s1.applyKept d).announce d

/-- INJECTION_COMPLETE: the lists of the dies that inject end, with the rows that did not trip of each die of the part. A die that
comes out of reset alone is ARMED by its own list; die 0 after standby drives the rows of a restart. -/
def fxInjectionComplete (untripped : List (BitVec 18)) (s : State) : State :=
  let alone (d : DieIx) : Bool := (s.die d).boot.alone
  let rows (d : DieIx) : BitVec 18 := if d.val = 0 ∧ alone d = true then restartRows else BitVec.allOnes 18
  let res := (s.dieList.filter fun d => (s.die d).sfn.injBusy).map fun d => (d, untripped.getD d.val 0 &&& rows d)
  let s1 := res.foldl (fun s e => (s.setReg e.1 Reg.sfnInjFail (e.2.setWidth 32)).onSfn e.1 fun x => { x with injBusy := false }) s
  if res.isEmpty then s
  else if res.length = s.nDies ∧ (res.any fun e => alone e.1) = false then s1.injectAll res
  else res.foldl (fun s e =>
    if e.2 ≠ 0 then s.injFailed e.1
    else
      let s1 := s.onSfn e.1 Sfn.arm
      if alone e.1 then s1.rejoinDie e.1 else s1) s1

/-! ### Firmware (R383 to R390) -/

/-- Step 1 of R386. -/
def imageSound (img : List Byte) : Bool :=
  let n := leAt img 16 8
  leAt img 0 4 == 0x3146_5650 && leAt img 4 2 == 1 && decide (leAt img 6 2 ≤ 3) && decide (64 ≤ n) && decide (n ≤ 2 ^ 24) &&
    decide (n % 64 = 0) && img.length == 8192 + n && decide (leAt img 12 4 ≤ 63) && (sliceBytes img 24 40).all (· == 0) &&
    (sliceBytes img 7283 909).all (· == 0)

/-- The digest of an image (R385), in bytes. -/
def imageDigest (img : List Byte) : List Byte := sha3 (img.take 64 ++ img.drop 8192)

/-- The checks of R386. -/
def Otp.accepts (o : Otp) (img : List Byte) : Bool :=
  let key : Fin 4 := Fin.ofNat 4 (leAt img 6 2)
  let pub := sliceBytes img 64 2592
  imageSound img && !(o.revoked.getLsbD key.val) && digestOf pub == o.keyHashes[key.val] && decide (o.floor ≤ leAt img 12 4) &&
    Config.mlDsaVerify pub (imageDigest img) (sliceBytes img 2656 4627)

/-- What the ROM of die 0 derives and measures from an image (R389, R390). -/
def Sec.booted (x : Sec) (o : Otp) (img : List Byte) : Sec :=
  let uds := leBytes 32 o.uds.toNat
  let digest := imageDigest img
  let idSeed := (sha3 ([1] ++ uds)).take 32
  let alias_ := (sha3 ([2] ++ uds ++ digest ++ leBytes 4 (leAt img 12 4))).take 32
  { x with log := [(0, Config.bootRomDigest), (1, Config.otpDigest), (2, BitVec.ofNat 512 (leNat digest))],
           aliasSeed := alias_, identitySig := Config.mlDsaSign idSeed (Config.mlDsaPublic alias_ ++ digest) }

/-- Firmware runs on a die. -/
def State.runImage (s : State) (d : DieIx) (img : List Byte) : State :=
  let s1 := s.onDie d fun x =>
    let y := (((x.setField Reg.secBoot 10 3 0).setField Reg.secBoot 12 11 (leAt img 6 2)).setField Reg.secBoot 18 13 (leAt img 12 4)).setReg
      Reg.detClassHi (BitVec.ofNat 32 (leAt img 8 4))
    { y with boot := { y.boot with phase := .running } }
  if d.val ≠ 0 then s1
  else
    let s2 := { s1 with image := some img, sec := s1.sec.booted s1.otp img }
    s2.audited (s2.auditEntry 8 0 2 (leAt img 6 2) 0 0 0 0) id

/-- An image is refused on a die. The ROM of die 0 waits for a host image after one from flash (R383). -/
def State.refuseImage (s : State) (d : DieIx) (fromFlash : Bool) : State :=
  s.onDie d fun x => { (x.setField Reg.secBoot 10 3 Status.auth.code) with
    boot := { x.boot with phase := if fromFlash then .waitHost else .refused } }

/-- The result of request 7, where it still runs. -/
def State.endBootRequest (s : State) (d : DieIx) (st : Status) : State :=
  if d.val = 0 ∧ s.field 0 Reg.secReqCtrl 2 2 = 1 then s.reqStatus .pf st else s

/-- IMAGE_VERIFY: the ROM of a die checks the image that it fetched: from flash, or the one that the host supplied or die 0 keeps. -/
def fxImageVerify (d : DieIx) (image : List Byte) (s : State) : State :=
  let x := (s.die d).boot
  let flash := decide (d.val = 0) && x.phase == .rom
  let img := if flash then image else s.image.getD image
  if s.present d = false ∨ x.released = false ∨ x.inReset = true ∨ (x.phase ≠ .rom ∧ x.phase ≠ .verifying) ∨
      (s.image.isNone = true ∧ s.straps.bootHost = true) then s
  else if s.otp.accepts img then (s.runImage d img).endBootRequest d .ok
  else (s.refuseImage d flash).endBootRequest d .auth

/-- The boot request (request 7): the host's image, while the ROM of die 0 waits for one. Every die that runs none verifies it. -/
def State.bootRequest (s : State) (p : Path) (data : List Byte) : State :=
  s.request p 7 0 fun t =>
    if (t.die 0).boot.phase ≠ .waitHost then t.reqStatus p .notOwner
    else
      let u := t.onDies t.dieList fun _ x => if x.boot.phase = .running then x else { x with boot := { x.boot with phase := .verifying } }
      let v := { u with image := some data }
      match p with
      | .pf => v.setField 0 Reg.secReqCtrl 2 2 1
      | .mctp => v

/-- BOOT: request 7 of Table 14.7. -/
def fxBoot (p : Path) (data : List Byte) (s : State) : State := s.bootRequest p data

/-- DDR5_TRAINING_COMPLETE: DRAM accepts accesses, and Big Top is written. On a die that was reset alone its injection follows. -/
def fxDdr5TrainingComplete (d : DieIx) (s : State) : State :=
  let x := s.die d
  if x.boot.phase ≠ .running ∨ x.boot.trained = true then s
  else (s.onDie d fun x => { x with boot := { x.boot with trained := true }, calDone := Vector.replicate 2 s.gsc,
                                    sfn := { x.sfn with injBusy := x.sfn.injBusy || x.boot.alone } }).recordGap d s.gsc

/-! ### Stored settings (R401) -/

/-- The image of highest SEQ among the good ones, with its slot. -/
def Nvm.latest (n : Nvm) : Option (Fin 4 × Settings) :=
  (List.finRange 4).foldl (fun best k => match n.slots[k.val] with
    | none => best
    | some x => if x.good = false then best else match best with
      | none => some (k, x)
      | some b => if b.2.seq.toNat < x.seq.toNat then some (k, x) else best) none

/-- A stored value lies in its range and within the current envelope. -/
def State.storedOk (s : State) (d : DieIx) (off : Nat) (w : Word) : Bool :=
  s.present d && (s.die d).withinEnvelope off w &&
    (if off = Reg.cmpHoldLimit then decide (1 ≤ bits w 15 0)
     else if off = Reg.clkLockCfg then decide (bits w 3 0 ≤ s.nDies)
     else true)

/-- One stored value is loaded, or takes its reset value and is recorded. -/
def State.loadValue (s : State) (e : DieIx × Nat × Word) : State :=
  let (d, off, w) := e
  if s.storedOk d off w then
    s.onDie d fun x =>
      let y := x.setReg off w
      if persistentRegs.any fun r => r.1 == off && r.2 then { y with force := sSet regReset y.force off w } else y
  else (s.audited (s.auditEntry 7 0 2 0xFF d.val off w (regReset off)) id).raise 0 Reg.nvmEvt 0x08

/-- A head with a stored mode runs its raster. -/
def Head.stored (x : Head) (m : Mode) : Head := { x with mode := some m, running := true, line := m.h - 1, vtotalNow := m.vtotal }

/-- The settings of an image. -/
def State.applySettings (s : State) (k : Fin 4) (x : Settings) : State :=
  let s1 := x.values.foldl (fun s e => s.loadValue e) s
  let s2 := x.coefs.foldl (fun s e => s.onDie e.1 fun y => { y with coef := e.2, coefForce := e.2 }) s1
  let s3 := x.modes.foldl (fun s e => s.onDie e.1 fun y => { y with head := y.head.stored e.2 }) s2
  let igs := Vector.ofFn fun (i : Fin 32) => match x.igs[i.val]? with
    | some c => { s3.igs[i.val] with cfg := c.1, limit := c.2 }
    | none => s3.igs[i.val]
  ({ s3 with igs := igs, power := { s3.power with stored := some x.op },
             nvm := { s3.nvm with inForce := k } }.setReg 0 Reg.nvmSeq x.seq).setField 0 Reg.nvmCtrl 3 2 k.val

/-- SETTINGS_LOAD: once firmware runs on every die and its DRAM is trained. The injection of every die follows (Table 14.6). -/
def fxSettingsLoad (s : State) : State :=
  if s.sec.loaded = true ∨ (s.dieList.all fun d => (s.die d).boot.phase == .running && (s.die d).boot.trained) = false then s
  else
    let s0 := if s.nvm.slots.toList.any fun x => x.any fun i => !i.good then s.raise 0 Reg.nvmEvt 0x10 else s
    let (s1, digest) := match s0.nvm.latest with
      | none => (s0, (0 : BitVec 512))
      | some (k, x) => (s0.applySettings k x, Config.settingsDigest x.seq)
    let s2 := { s1 with sec := { s1.sec with loaded := true, log := s1.sec.log ++ [(3, digest)] } }
    s2.onDies s2.dieList fun _ x => { x with sfn := { x.sfn with injBusy := true } }

def execPowerOn (st : Straps) (s : State) : Host.Outcome State Fault Refusal := .next (fxPowerOn st s)
def execPartReset (s : State) : Host.Outcome State Fault Refusal := .next (fxPartReset s)
def execResetNAssertion (s : State) : Host.Outcome State Fault Refusal := .next (fxResetNAssertion s)
def execPkgLock (s : State) : Host.Outcome State Fault Refusal := .next (fxPkgLock s)
def execReleaseEdge (s : State) : Host.Outcome State Fault Refusal := .next (fxReleaseEdge s)
def execDieReset (d : DieIx) (s : State) : Host.Outcome State Fault Refusal := .next (fxDieReset d s)
def execAutoDieReset (d : DieIx) (s : State) : Host.Outcome State Fault Refusal := .next (fxAutoDieReset d s)
def execInjectionComplete (untripped : List (BitVec 18)) (s : State) : Host.Outcome State Fault Refusal :=
  .next (fxInjectionComplete untripped s)
def execImageVerify (d : DieIx) (image : List Byte) (s : State) : Host.Outcome State Fault Refusal := .next (fxImageVerify d image s)
def execBoot (p : Path) (data : List Byte) (s : State) : Host.Outcome State Fault Refusal := .next (fxBoot p data s)
def execDdr5TrainingComplete (d : DieIx) (s : State) : Host.Outcome State Fault Refusal := .next (fxDdr5TrainingComplete d s)
def execSettingsLoad (s : State) : Host.Outcome State Fault Refusal := .next (fxSettingsLoad s)

end Sys2Proof.Machine
end

