-- ==== Sys2Proof/Machine/Counters.lean ====
section
/-! DEFINITION. Reads that latch a high word (R90, R189, R224, R257, R312), and counter clears (R92, R136, R159, R190,
R226, R258, R284, R312, R344, R372, R407, R435). -/

namespace Sys2Proof.Machine

/-! ### Latching reads -/

/-- A die with a high word latched for the next read of a _HI register (R90). -/
def Die.latchHi (x : Die) (hi : Nat) (w : Word) : Die := { x with latch := sInsert (sErase x.latch hi) hi w }

/-- The read of a _LO register of a counter that the register file holds: the high word of the same counter is
latched. -/
def State.readLo (s : State) (d : DieIx) (lo : Nat) : State := s.onDie d fun x => x.latchHi (lo + 4) (x.reg (lo + 4))

/-- The choice counter that CMP_CNT_SEL selects (R50, R257). -/
def Die.selectedChoice (x : Die) : Dword :=
  sGet (fun _ => 0) x.choices (x.field Reg.cmpCntSel 3 0 * 8 + x.field Reg.cmpCntSel 6 4)

/-- CMP_CNT_LO_READ (R257). -/
def fxCmpCntLoRead (d : DieIx) (s : State) : State :=
  s.onDie d fun x => x.latchHi Reg.cmpCntHi (BitVec.ofNat 32 (x.selectedChoice.toNat / 2 ^ 32))

/-- CMP_WB_FRAME_LO_READ (R257): the frame step of the latest written frame. -/
def fxCmpWbFrameLoRead (d : DieIx) (s : State) : State := s.readLo d Reg.cmpWbFrameLo

/-- MXE_SAT_LO_READ (R90). -/
def fxMxeSatLoRead (d : DieIx) (e : EngIx) (s : State) : State := s.readLo d (Reg.mxeSatLo e)

/-- MXE_NAN_LO_READ (R90). -/
def fxMxeNanLoRead (d : DieIx) (e : EngIx) (s : State) : State := s.readLo d (Reg.mxeNanLo e)

/-- JGL_SAT_LO_READ (R224). -/
def fxJglSatLoRead (d : DieIx) (s : State) : State := s.readLo d Reg.jglSatLo

/-- JGL_NAN_LO_READ (R224). -/
def fxJglNanLoRead (d : DieIx) (s : State) : State := s.readLo d Reg.jglNanLo

/-- CRS_BYTES_LO_READ (R189). -/
def fxCrsBytesLoRead (d : DieIx) (c : CrsIx) (s : State) : State := s.readLo d (Reg.crsBytesLo c)

/-- CRS_CODED_LO_READ (R189). -/
def fxCrsCodedLoRead (d : DieIx) (c : CrsIx) (s : State) : State := s.readLo d (Reg.crsCodedLo c)

/-- DET_GSC_LO_READ (R312): the Global Step Counter's high word is latched. -/
def fxDetGscLoRead (d : DieIx) (s : State) : State :=
  s.onDie d fun x => x.latchHi Reg.detGscHi (BitVec.ofNat 32 (s.gsc / 2 ^ 32))

/-- DET_TIMING_LO_READ (R312). -/
def fxDetTimingLoRead (d : DieIx) (s : State) : State := s.readLo d Reg.detTimingLo

/-- DET_CKPT_LAST_LO_READ (R312). -/
def fxDetCkptLastLoRead (d : DieIx) (s : State) : State := s.readLo d Reg.detCkptLastLo

def execCmpCntLoRead (d : DieIx) (s : State) : Host.Outcome State Fault Refusal := .next (fxCmpCntLoRead d s)
def execCmpWbFrameLoRead (d : DieIx) (s : State) : Host.Outcome State Fault Refusal := .next (fxCmpWbFrameLoRead d s)
def execMxeSatLoRead (d : DieIx) (e : EngIx) (s : State) : Host.Outcome State Fault Refusal :=
  .next (fxMxeSatLoRead d e s)
def execMxeNanLoRead (d : DieIx) (e : EngIx) (s : State) : Host.Outcome State Fault Refusal :=
  .next (fxMxeNanLoRead d e s)
def execJglSatLoRead (d : DieIx) (s : State) : Host.Outcome State Fault Refusal := .next (fxJglSatLoRead d s)
def execJglNanLoRead (d : DieIx) (s : State) : Host.Outcome State Fault Refusal := .next (fxJglNanLoRead d s)
def execCrsBytesLoRead (d : DieIx) (c : CrsIx) (s : State) : Host.Outcome State Fault Refusal :=
  .next (fxCrsBytesLoRead d c s)
def execCrsCodedLoRead (d : DieIx) (c : CrsIx) (s : State) : Host.Outcome State Fault Refusal :=
  .next (fxCrsCodedLoRead d c s)
def execDetGscLoRead (d : DieIx) (s : State) : Host.Outcome State Fault Refusal := .next (fxDetGscLoRead d s)
def execDetTimingLoRead (d : DieIx) (s : State) : Host.Outcome State Fault Refusal := .next (fxDetTimingLoRead d s)
def execDetCkptLastLoRead (d : DieIx) (s : State) : Host.Outcome State Fault Refusal :=
  .next (fxDetCkptLastLoRead d s)

/-! ### Clears

A clear takes effect before an increment of the same fabric cycle, and the counter then holds 1. Bit k of the operand
`co` says that the k-th counter of the list increments in that cycle, which also sets the _EVT bit that its table gives. -/

/-- A 32-bit counter cleared, and counted again where its increment falls in the same cycle. -/
def clearOne (x : Die) (off : Nat) (counted : Bool) : Die := x.setReg off (if counted then 1 else 0)

/-- A list of 32-bit counters cleared. -/
def clearList (co : Nat) : Nat → List Nat → Die → Die
  | _, [], x => x
  | k, off :: rest, x => clearList co (k + 1) rest (clearOne x off (co.testBit k))

/-- A 64-bit counter cleared. -/
def clearWide (x : Die) (lo : Nat) (counted : Bool) : Die := x.setWide lo (if counted then 1 else 0)

/-- MXE_CNT_CLR (R92): SAT, NAN and ACC_CE, in this order in `co`. -/
def fxMxeCntClr (d : DieIx) (e : EngIx) (co : Byte) (s : State) : State :=
  (s.onDie d fun x => clearOne (clearWide (clearWide x (Reg.mxeSatLo e) (co.getLsbD 0)) (Reg.mxeNanLo e) (co.getLsbD 1))
    (Reg.mxeAccCe e) (co.getLsbD 2)).raiseSome d (Reg.mxeEvt e) (coFlags co.toNat [1, 2, 4])

/-- WIN_CNT_CLR (R136): every counter of Table 5.8. -/
def fxWinCntClr (d : DieIx) (co : Byte) (s : State) : State :=
  (s.onDie d (clearList co.toNat 0 [Reg.winBoxBad, Reg.winBoxTrunc, Reg.winBoxStale, Reg.winArgmaxNan, Reg.winSat])).raiseSome d
    Reg.winEvt (coFlags co.toNat [1, 2, 4, 8, 16])

/-- RMS_CNT_CLR (R159). -/
def fxRmsCntClr (d : DieIx) (co : Byte) (s : State) : State :=
  (s.onDie d (clearList co.toNat 0 [Reg.rmsAdmitOk, Reg.rmsAdmitFail, Reg.rmsRewrite])).raiseSome d Reg.rmsPlaceEvt
    (coFlags co.toNat [0, 1, 2])

/-- CRS_CNT_CLR (R190): the counters at 0x010, 0x020, 0x024 and 0x028, and the PEAK of CRS_INFLIGHT. -/
def fxCrsCntClr (d : DieIx) (co : Byte) (s : State) : State :=
  (s.onDie d fun x => (clearList co.toNat 0 [Reg.crsStallCnt, Reg.crsCodecErr, Reg.crsWindowErr, Reg.crsCreditErr] x).setField
    Reg.crsInflight 29 16 0).raiseSome d Reg.crsEvt (coFlags co.toNat [1, 2, 4, 8])

/-- JGL_CNT_CLR (R226). -/
def fxJglCntClr (d : DieIx) (co : Byte) (s : State) : State :=
  (s.onDie d fun x => clearOne (clearWide (clearWide x Reg.jglSatLo (co.getLsbD 0)) Reg.jglNanLo (co.getLsbD 1))
    Reg.jglTrackFull (co.getLsbD 2)).raiseSome d Reg.jglEvt (coFlags co.toNat [1, 2, 4])

/-- MOT_CNT_CLR (R226). -/
def fxMotCntClr (d : DieIx) (co : Byte) (s : State) : State :=
  (s.onDie d fun x => clearOne (clearWide x Reg.motBlocksLo (co.getLsbD 0)) Reg.motLimit (co.getLsbD 1)).raiseSome d Reg.motEvt
    (coFlags co.toNat [0, 1])

/-- CMP_CNT_CLR (R258). -/
def fxCmpCntClr (d : DieIx) (co : Byte) (s : State) : State :=
  let s1 := s.onDie d (clearList co.toNat 0 [Reg.cmpWbDrop])
  if co.getLsbD 0 then s1.raiseHead d Reg.cmpEvt 0x10 else s1

/-- SCN_CNT_CLR (R258). A frame repeated in the cycle sets TE_TIMEOUT, a link trained again LINK_UP. -/
def fxScnCntClr (d : DieIx) (co : Byte) (s : State) : State :=
  let s1 := s.onDie d (clearList co.toNat 0 [Reg.scnRepeatCnt, Reg.scnRetrainCnt])
  let m := coFlags co.toNat [4, 2]
  if m = 0 then s1 else s1.raiseHead d Reg.scnEvt m

/-- TSL_CNT_CLR (R284). -/
def fxTslCntClr (d : DieIx) (co : Byte) (s : State) : State :=
  (s.onDie d (clearList co.toNat 0 [Reg.tslOvfCnt, Reg.tslUnderCnt, Reg.tslMapErrCnt, Reg.tslPoisonCnt])).raiseSome d Reg.tslEvt
    (coFlags co.toNat [1, 2, 4, 8])

/-- DET_CNT_CLR (R312). -/
def fxDetCntClr (d : DieIx) (co : Byte) (s : State) : State :=
  (s.onDie d (clearList co.toNat 0 [Reg.detRecDrop, Reg.detMismatch])).raiseSome d Reg.detEvt (coFlags co.toNat [1, 8])

/-- HST_CNT_CLR (R344). -/
def fxHstCntClr (co : Byte) (s : State) : State :=
  let s1 := s.onHost fun h => (h.setReg 0x014 (if co.getLsbD 0 then 1 else 0)).setReg 0x018 (if co.getLsbD 1 then 1 else 0)
  let m := coFlags co.toNat [4, 8]
  if m = 0 then s1 else s1.raiseHost m

/-- HST_FN_CNT_CLR (R344). -/
def fxHstFnCntClr (f : FnIx) (co : Byte) (s : State) : State :=
  s.onHost fun h => (h.setFnReg f 0x024 (if co.getLsbD 0 then 1 else 0)).setFnReg f 0x028 (if co.getLsbD 1 then 1 else 0)

/-- SFN_CNT_CLR (R372): every counter of Table 13.10 but SFN_RESTART_CNT and SFN_GOLDEN_FAIL_CNT. -/
def fxSfnCntClr (d : DieIx) (co : BitVec 16) (s : State) : State :=
  let s1 := s.onDie d (clearList co.toNat 0 [Reg.sfnGuardCnt, Reg.sfnVecGuardCnt, Reg.sfnReadCrcCnt, Reg.sfnUntrustedCnt,
    Reg.sfnSealHoldCnt, Reg.sfnEchoMissCnt, Reg.sfnEchoLostCnt, Reg.sfnIgTripCnt])
  s1.raiseSome d Reg.sfnEvt (coFlags co.toNat [8, 8, 0x10, 0x4000, 0, 0, 0, 0x400])

/-- SEC_CNT_CLR (R407): the counters at 0x050 to 0x06C, 0x07C and 0x084. The first two act on die 0 only. -/
def fxSecCntClr (d : DieIx) (co : BitVec 16) (s : State) : State :=
  let s1 := s.onDie d fun x => clearList co.toNat 2 [Reg.secCeBt, Reg.secUeBt, Reg.secCeDram, Reg.secUeDram, Reg.secCeOther,
    Reg.secUeOther, Reg.secScrubPass, Reg.secDownEvents]
    (if d = 0 then clearList co.toNat 0 [Reg.secRoleDenyCnt, Reg.secAuthFailCnt] x else x)
  let ue := co.getLsbD 3 || co.getLsbD 5 || co.getLsbD 7
  s1.raiseSome 0 Reg.secEvt ((if d = 0 then coFlags co.toNat [1, 2] else 0) + (if ue then 0x10 else 0))

/-- NVM_CNT_CLR (R407). -/
def fxNvmCntClr (co : Byte) (s : State) : State := s.onDie 0 (clearList co.toNat 0 [Reg.nvmCeCnt])

/-- PWR_CNT_CLR (R435). -/
def fxPwrCntClr (d : DieIx) (co : Byte) (s : State) : State := s.onDie d (clearList co.toNat 0 [Reg.pwrThrottleMs])

/-- SNS_CNT_CLR (R435). -/
def fxSnsCntClr (co : Byte) (s : State) : State :=
  (s.onDie 0 (clearList co.toNat 0 [Reg.snsXferErr, Reg.snsTaskLate])).raiseSome 0 Reg.snsEvt (coFlags co.toNat [1, 2])

/-- GDE_CNT_CLR (R435). -/
def fxGdeCntClr (d : DieIx) (co : Byte) (s : State) : State :=
  s.onDie d (clearList co.toNat 0 [Reg.gdeRetry 0, Reg.gdeRetry 1, Reg.gdeRetry 2, Reg.gdeRetry 3])

def execMxeCntClr (d : DieIx) (e : EngIx) (co : Byte) (s : State) : Host.Outcome State Fault Refusal :=
  .next (fxMxeCntClr d e co s)
def execWinCntClr (d : DieIx) (co : Byte) (s : State) : Host.Outcome State Fault Refusal := .next (fxWinCntClr d co s)
def execRmsCntClr (d : DieIx) (co : Byte) (s : State) : Host.Outcome State Fault Refusal := .next (fxRmsCntClr d co s)
def execCrsCntClr (d : DieIx) (co : Byte) (s : State) : Host.Outcome State Fault Refusal := .next (fxCrsCntClr d co s)
def execJglCntClr (d : DieIx) (co : Byte) (s : State) : Host.Outcome State Fault Refusal := .next (fxJglCntClr d co s)
def execMotCntClr (d : DieIx) (co : Byte) (s : State) : Host.Outcome State Fault Refusal := .next (fxMotCntClr d co s)
def execCmpCntClr (d : DieIx) (co : Byte) (s : State) : Host.Outcome State Fault Refusal := .next (fxCmpCntClr d co s)
def execScnCntClr (d : DieIx) (co : Byte) (s : State) : Host.Outcome State Fault Refusal := .next (fxScnCntClr d co s)
def execTslCntClr (d : DieIx) (co : Byte) (s : State) : Host.Outcome State Fault Refusal := .next (fxTslCntClr d co s)
def execDetCntClr (d : DieIx) (co : Byte) (s : State) : Host.Outcome State Fault Refusal := .next (fxDetCntClr d co s)
def execHstCntClr (co : Byte) (s : State) : Host.Outcome State Fault Refusal := .next (fxHstCntClr co s)
def execHstFnCntClr (f : FnIx) (co : Byte) (s : State) : Host.Outcome State Fault Refusal :=
  .next (fxHstFnCntClr f co s)
def execSfnCntClr (d : DieIx) (co : BitVec 16) (s : State) : Host.Outcome State Fault Refusal :=
  .next (fxSfnCntClr d co s)
def execSecCntClr (d : DieIx) (co : BitVec 16) (s : State) : Host.Outcome State Fault Refusal :=
  .next (fxSecCntClr d co s)
def execNvmCntClr (co : Byte) (s : State) : Host.Outcome State Fault Refusal := .next (fxNvmCntClr co s)
def execPwrCntClr (d : DieIx) (co : Byte) (s : State) : Host.Outcome State Fault Refusal := .next (fxPwrCntClr d co s)
def execSnsCntClr (co : Byte) (s : State) : Host.Outcome State Fault Refusal := .next (fxSnsCntClr co s)
def execGdeCntClr (d : DieIx) (co : Byte) (s : State) : Host.Outcome State Fault Refusal := .next (fxGdeCntClr d co s)

end Sys2Proof.Machine
end

