-- ==== Sys2Proof/Machine/Power.lean ====
section
/-! DEFINITION. Requests for an operating point, throttling and heat, standby, the power cap, the lock configuration and GPIO edges
(R411 to R416, R425, R431, R432). -/

namespace Sys2Proof.Machine

/-! ### Standby (R416) -/

/-- What standby keeps of a head's committed state. -/
def Die.keep (x : Die) : Kept :=
  { force := x.force, lut := x.lutForce, coef := x.coefForce, mode := x.head.mode, seq := x.head.commit.seq }

/-- The part is in standby: dies 1 to 7 are held in reset, and the untrusted domain of die 0 is gated. -/
def State.enterStandby (s : State) : State :=
  let s1 := (s.dieList.filter fun d => d.val != 0).foldl (fun s d => s.holdDie d) s
  let s2 := s1.onDie 0 fun x => { x.stopStreams with engines := Vector.replicate 2 Engine.reset, boot := { x.boot with kept := some x.keep } }
  { s2 with power := { s2.power with standby := true, standbyReq := false } }

/-- Standby begins once no head runs any more. -/
def State.tryStandby (s : State) : State :=
  if s.power.standbyReq && !(s.dieList.any fun d => (s.die d).head.running) then s.enterStandby else s

/-- A head stops at its frame boundary and drops its link, where standby is requested. -/
def State.standbyBoundary (s : State) (h : DieIx) : State :=
  if s.power.standbyReq then
    (((s.onDie h fun x => { x with head := { x.head with running := false } }).dropLink h)).tryStandby
  else s

/-- Standby ends: dies 1 to 7 pass through a die reset, die 0 through the injection rows of a restart, and the part enters its
point. A request that has not taken effect is dropped. -/
def State.endStandby (s : State) : State :=
  let s0 := s.setField 0 Reg.pwrCtrl 3 3 0
  if s.power.standby = false then { s0 with power := { s0.power with standbyReq := false } }
  else
    let s1 := { s0 with power := { s0.power with standby := false } }
    let s2 := s1.onDies s1.dieList fun d x =>
      if d.val = 0 then { x with boot := { x.boot with alone := true }, sfn := { x.sfn with injBusy := true } }
      else { x with boot := { x.boot with resetAt := s.gsc } }
    let s3 := s2.loseAlignment
    if s3.power.standbyPoint = s3.power.point ∨ s3.power.held = true then s3 else s3.beginChange s3.power.standbyPoint

/-- A request for standby, with the point that a GO in the same write named. It is refused while any canvas is bound. -/
def State.requestStandby (s : State) (named : Option OpPoint) : State :=
  if s.canvases.isEmpty = false then s.raise 0 Reg.pwrEvt 0x40
  else
    let s1 := s.setField 0 Reg.pwrCtrl 3 3 1
    ({ s1 with power := { s1.power with standbyReq := true, standbyPoint := named.getD s1.power.point } }).tryStandby

/-! ### PWR_CTRL (R413, R415, R416) -/

/-- DET_CONFIG with a field set on every die; a change is recorded (R298). -/
def State.setConfig (s : State) (hi lo v : Nat) : State :=
  if s.field 0 Reg.detConfig hi lo = v then s
  else (s.onDies s.dieList fun _ x => if x.boot.inReset then x else x.setField Reg.detConfig hi lo v).recordConfigs

/-- A write of PWR_CTRL of a die. A reserved THERM_ACT discards it. STANDBY and THERM_ACT act on die 0 only. -/
def State.powerWrite (s : State) (d : DieIx) (value : Word) : State :=
  s.guardedWrite d Reg.pwrCtrl (fieldsAt Reg.pwrCtrl) (s.reg d Reg.pwrCtrl) value fun t =>
    let act := bits value 5 4
    let go := bit value 2
    let p := opOfCode (bits value 1 0)
    if 2 ≤ act then t
    else
      let t1 := t.setField d Reg.pwrCtrl 1 0 (bits value 1 0)
      if d.val ≠ 0 then (if go then t1.requestOp d p else t1)
      else
        let t2 := (t1.setField 0 Reg.pwrCtrl 5 4 act).setConfig 17 16 act
        if bit value 3 && !t2.power.standby then t2.requestStandby (if go then some p else none)
        else
          let t3 := if bit value 3 then t2 else if t2.power.standby || t2.power.standbyReq then t2.endStandby else t2
          if go then t3.requestOp 0 p else t3

/-- OP_REQUEST: a write of PWR_CTRL with GO. -/
def fxOpRequest (d : DieIx) (value : Word) (s : State) : State := s.powerWrite d value

/-- STANDBY: a write of PWR_CTRL of die 0 with STANDBY at 1. -/
def fxStandby (value : Word) (s : State) : State := s.powerWrite 0 value

/-- STANDBY_EXIT: a write of 0, the request over MCTP, or a wake edge. -/
def fxStandbyExit (s : State) : State := s.endStandby

/-! ### Heat and throttling (R411 to R414) -/

/-- Package power of a part in W in OP3 and in OP0 (Table 1.5). -/
def op3Watts : Part → Nat
  | .pv2200 => 45
  | .pv4400 => 85
  | .pv8800 => 160
def op0Watts : Part → Nat
  | .pv2200 => 150
  | .pv4400 => 290
  | .pv8800 => 560

/-- The power cap in 0.25 W. -/
def State.powerCap (s : State) : Nat :=
  let c := s.field 0 Reg.pwrCap 7 0
  if c = 0 then 4 * op0Watts s.straps.part else 16 * c

/-- The junction maximum of the grade in 0.25 °C. -/
def State.junctionMax (s : State) : Int := if s.otp.grade then 420 else 400

/-- A die's throttling after a reading: its hottest sensor, T_THR and the cap in quarters. -/
def Thermal.next (x : Thermal) (hot thr : Int) (cap : Nat) (pkg : BitVec 16) : Thermal :=
  let powers := (pkg :: x.powers).take 10
  let sum := (powers.map BitVec.toNat).sum
  let n := powers.length
  let rise := decide (thr < hot) || decide (cap * n < sum)
  let cool := decide (hot ≤ thr - 20) && decide (100 * sum ≤ 95 * (cap * n))
  let fall := cool && decide (100 ≤ x.coolMs + 1)
  let l := x.level.val
  let level : Fin 5 := Fin.ofNat 5 (if rise then min 4 (l + 1) else if fall then l - 1 else l)
  { x with level := level, powers := powers,
           coolMs := if rise || !cool || fall then 0 else x.coolMs + 1,
           hotMs := if l = 4 ∧ level.val = 4 then x.hotMs + 1 else 0 }

/-- The thermal action of R413, once a die has held level 4 for 1 s. -/
def State.stepDown (s : State) (d : DieIx) : State :=
  if s.field 0 Reg.pwrCtrl 5 4 ≠ 1 ∨ (s.die d).thermal.hotMs < 1000 ∨ s.power.target.isSome = true then s
  else match s.power.point.below with
    | none => s
    | some p => ((s.onDie d fun x => { x with thermal := { x.thermal with hotMs := 0 } }).beginChange p).raise d Reg.pwrEvt 0x02

/-- THERMAL_READING: the 16 sensors of a die, its power estimate and the package's. -/
def fxThermalReading (d : DieIx) (quarterC : List Int) (diePower pkgPower : BitVec 16) (s : State) : State :=
  let x := s.die d
  if s.present d = false ∨ x.boot.inReset = true then s
  else
    let q := quarterC.take 16
    let hot := q.foldl max (q.headD 0)
    let top := s.junctionMax
    let t := x.thermal.next hot (top - 20) s.powerCap pkgPower
    let crit := decide (top + 40 ≤ hot)
    let s1 := s.onDie d fun y =>
      let z := (q.zipIdx).foldl (fun y e => y.setReg (Reg.pwrTemp e.2) (BitVec.ofNat 32 (bitsOfInt 11 e.1))) y
      { z.setReg Reg.pwrPower (BitVec.ofNat 32 (diePower.toNat + if d.val = 0 then 65536 * pkgPower.toNat else 0)) with
        thermal := { t with critical := crit } }
    let s2 := if 0 < x.thermal.level.val then s1.count d Reg.pwrThrottleMs 1 else s1
    let s3 := if x.thermal.level.val = 0 ∧ 0 < t.level.val then s2.raise d Reg.pwrEvt 0x01 else s2
    let s4 := s3.stepDown d
    if crit && x.thermal.critical then (s4.raise d Reg.pwrEvt 0x04).enterSafe d else s4

/-- TRIP_N: the comparator asserts the ball, which holds until power is removed. -/
def fxTripN (s : State) : State := { s with pins := { s.pins with tripN := false } }

/-! ### The cap, the lock configuration and GPIO edges (R425, R431, R432) -/

/-- PWR_CAP_WRITE: a cap below the part's OP3 figure is discarded; 0 stands for the part's maximum. -/
def fxPwrCapWrite (value : Word) (s : State) : State :=
  s.guardedWrite 0 Reg.pwrCap (fieldsAt Reg.pwrCap) (s.reg 0 Reg.pwrCap) value fun t =>
    let c := bits value 7 0
    if c ≠ 0 ∧ 4 * c < op3Watts t.straps.part then t.raise 0 Reg.pwrEvt 0x80
    else (t.setReg 0 Reg.pwrCap (BitVec.ofNat 32 c)).setConfig 15 8 c

/-- CLK_LOCK_CFG_WRITE: in force from the head's next frame boundary on. A REF that names no die of the part discards it. -/
def fxClkLockCfgWrite (d : DieIx) (value : Word) (s : State) : State :=
  s.guardedWrite d Reg.clkLockCfg (fieldsAt Reg.clkLockCfg) (s.reg d Reg.clkLockCfg) value fun t =>
    if t.nDies < bits value 3 0 then t else t.setReg d Reg.clkLockCfg (BitVec.ofNat 32 (bits value 20 0))

/-- GPIO_EDGE: an edge on a pin. On an input it is time-stamped and reported, and a wake source ends standby. -/
def fxGpioEdge (pin : Fin 32) (level : Bool) (s : State) : State :=
  if bit (s.reg 0 Reg.snsGpioDir) pin.val then s
  else
    let s1 := s.setField 0 Reg.snsGpioIn pin.val pin.val (b2n level)
    let s2 := { s1 with sns := { s1.sns with edgeTimes := (pin, s.gsc) :: s1.sns.edgeTimes.filter fun e => e.1 != pin } }
    let s3 := s2.raise 0 Reg.snsEvt 0x04
    if s3.power.standby && bit (s3.reg 0 Reg.snsGpioWake) pin.val then s3.endStandby else s3

def execOpRequest (d : DieIx) (value : Word) (s : State) : Host.Outcome State Fault Refusal := .next (fxOpRequest d value s)
def execStandby (value : Word) (s : State) : Host.Outcome State Fault Refusal := .next (fxStandby value s)
def execStandbyExit (s : State) : Host.Outcome State Fault Refusal := .next (fxStandbyExit s)
def execThermalReading (d : DieIx) (quarterC : List Int) (diePower pkgPower : BitVec 16) (s : State) :
    Host.Outcome State Fault Refusal := .next (fxThermalReading d quarterC diePower pkgPower s)
def execTripN (s : State) : Host.Outcome State Fault Refusal := .next (fxTripN s)
def execPwrCapWrite (value : Word) (s : State) : Host.Outcome State Fault Refusal := .next (fxPwrCapWrite value s)
def execClkLockCfgWrite (d : DieIx) (value : Word) (s : State) : Host.Outcome State Fault Refusal := .next (fxClkLockCfgWrite d value s)
def execGpioEdge (pin : Fin 32) (level : Bool) (s : State) : Host.Outcome State Fault Refusal := .next (fxGpioEdge pin level s)

end Sys2Proof.Machine
end

