-- ==== Sys2Proof/Machine/Frame.lean ====
section
/-! DEFINITION. What a frame boundary does: the end of a head's frame and the beginning of the next, the summaries and records of a
canvas, and the lock of its raster (R33, R51, R59 to R63, R67, R239, R242, R243, R246, R298, R359, R363). -/

namespace Sys2Proof.Machine

/-! ### Write-back (R242, R243) -/

/-- The buffer that the frame wrote is complete. In command mode it may be repeated where every line of the frame was also
transmitted (R252, R256). -/
def State.wbEnd (s : State) (h : DieIx) : State :=
  let x := s.die h
  match x.head.wb.writing with
  | none => s
  | some b =>
    let w := x.head.wb
    let sent := x.head.linkUp && !x.head.te.cut && !x.head.te.repeatFrame && !w.incomplete
    let s1 := s.onDie h fun y =>
      let z := (y.setReg Reg.cmpWbStatus (BitVec.ofNat 32 (b + 8 * b2n w.incomplete))).setWide Reg.cmpWbFrameLo w.step.toNat
      { z with head := { z.head with wb := { w with writing := none },
                                     te := { z.head.te with good := if sent then some b else z.head.te.good } } }
    s1.raiseHead h Reg.cmpEvt 0x08

/-- Write-back of the frame that begins: into the buffer after the last one, in every DECIM-th frame. -/
def State.wbBegin (s : State) (h : DieIx) : State :=
  s.onDie h fun x =>
    let n := x.fField Reg.cmpWbCtrl 7 5 + 1
    let b := (x.field Reg.cmpWbStatus 2 0 + 1) % n
    let w := x.head.wb
    let on := x.fField Reg.cmpWbCtrl 0 0 == 1
    let now := on && w.skip == 0
    let next : WriteBack := { writing := if now then some b else none, incomplete := false, step := x.head.frameStep,
                              skip := if !on then 0 else if now then x.fField Reg.cmpWbCtrl 11 8 else w.skip - 1 }
    let te := x.head.te
    { x with head := { x.head with wb := next, te := { te with good := if now && te.good == some b then none else te.good } } }

/-! ### A head's frame -/

/-- The frame of a head ends: its OUTPUT record, the APL gain, the digest for the echo, and its buffer. -/
def State.frameEnd (s : State) (h : DieIx) : State :=
  let e := (s.die h).head
  let crcs := e.echo.lineCrcs.reverse
  let s1 := match s.headCanvas h with
    | some c => if c.steps.isEmpty || c.replays then s else s.recordOutput c h e.frameStep crcs
    | none => s
  let s2 := (s1.aplUpdate h).onDie h fun x =>
    let o := x.head.echo
    let keep := if crcs.isEmpty then o.digests else (crcOfCrcs crcs :: o.digests).take 8
    { x with head := { x.head with fetched := [], echo := { o with digests := keep, lineCrcs := [] } } }
  s2.wbEnd h

/-- A head's commit latches at this boundary where it is due. In Replay mode a head with recorded commits to come waits for their
frame steps (R304). -/
def State.commitNow (s : State) (h : DieIx) : Bool :=
  let rs := match s.headCanvas h with
    | some c => if c.replays then c.replay else []
    | none => []
  if rs.any fun r => r.commits.contains h then
    (s.die h).head.commit.pending && (rs.head?.any fun r => r.commits.contains h)
  else s.commitDue h

/-- The next frame of a head begins: the commit latch, a change of operating point, the layers' sources, and write-back. -/
def State.frameBegin (s : State) (h : DieIx) (step : Nat) : State :=
  let s1 := s.onDie h fun x => { x with head := { x.head with frameStep := BitVec.ofNat 64 step } }
  let s2 := if s1.commitNow h then s1.latchCommit h else s1
  let s3 := s2.opBoundary h
  ((List.finRange 16).foldl (fun s l => s.layerBoundary h l) s3).wbBegin h

/-! ### A canvas's frame -/

/-- The frame of a canvas ends: its summaries and its STEP record. A canvas that has begun no frame has neither. -/
def State.canvasEnd (s : State) (cv : CanvasId) : State :=
  match s.canvas cv with
  | none => s
  | some c =>
    if c.steps.isEmpty then s
    else
      let s1 := c.binding.heads.foldl (fun s h => s.postSummary c h.1) s
      if c.replays then s1 else s1.recordStep c

/-- The next frame of a live canvas begins. -/
def State.canvasBegin (s : State) (cv : CanvasId) : State :=
  match s.canvas cv with
  | none => s
  | some c =>
    let n := if c.steps.isEmpty then 0 else c.frameNo + 1
    let step := BitVec.ofNat 64 s.gsc
    let s1 := s.onCanvas cv fun k =>
      let k : Canvas := { k with
               frameNo := n, frameStep := step, steps := (k.steps.filter fun e => decide (n ≤ e.1 + 2)) ++ [(n, step)],
               parts := k.parts.filter (fun p => decide (n ≤ p.frame + 1)), lineMode := k.lineMode && !k.retimeNext,
               changing := k.retimeNext && k.lineMode, retimeNext := false, resetFlag := false, mismatch := [], info := [] }
      k.stampTracks n step
    if c.retimeNext && c.lineMode then s1.canvasEvent c 3 0xFF 0 else s1

/-! ### The lock of a raster (R59 to R63) -/

/-- A canvas's lock takes a new state, which is reported on its event queue, in CLK_EVT and in an EVENT record. -/
def State.setLock (s : State) (cv : CanvasId) (f : Lock → Lock) : State :=
  match s.canvas cv with
  | none => s
  | some c =>
    let new := f c.lock
    let s1 := s.onCanvas cv fun k => { k with lock := new }
    if new.state = c.lock.state then s1
    else
      let pl := leBytes 4 c.lock.state.code ++ leBytes 4 new.state.code
      ((s1.canvasEvent c 0 0xFF new.state.code).raise c.stepDie Reg.clkEvt 0x02).recordEvent 4 (some cv) c.frameStep pl

/-- Consecutive frames within 16 and beyond 64 pixel clocks, and what they make of the state. -/
def Lock.judge (x : Lock) : Lock :=
  let n := x.phaseErr.natAbs
  let good := if n ≤ 16 then x.good + 1 else 0
  let bad := if 64 < n then x.bad + 1 else 0
  match x.state with
  | .acquire => if 8 ≤ good then { x with state := .locked, good := good, bad := bad } else { x with good := good, bad := bad }
  | .locked => if 2 ≤ bad then { x with state := .acquire, good := 0, bad := 0 } else { x with good := good, bad := bad }
  | .free => x
  | .holdover => x

/-- The trim of the frame that begins: at most 5 ppm from the last, within 500 ppm, and toward zero phase error, so downwards for a
raster ahead of its reference. How far is a free value (entry 30). -/
def Lock.pull (x : Lock) (step : Nat) : Lock :=
  let by_ : Int := if 0 < x.phaseErr then -(min step 500 : Nat) else if x.phaseErr < 0 then (min step 500 : Nat) else 0
  match x.state with
  | .free => { x with trim := 0 }
  | .holdover => x
  | .acquire => { x with trim := clampInt (-50_000) 50_000 (x.trim + by_) }
  | .locked => { x with trim := clampInt (-50_000) 50_000 (x.trim + by_) }

/-- Whole lines by which a snap changes a frame of vertical total t: the error to the nearest line, within the bounds of R63. A
positive error lengthens the frame: entry 30. -/
def snapLines (err : Int) (htotal t a v : Nat) : Int :=
  let n := floorDiv (2 * err + htotal) (2 * max htotal 1)
  clampInt (((a + 22 + v : Nat) : Int) - t) ((t / 4 : Nat) : Int) n

/-- Device ticks of n line periods of a mode under a trim in 0.01 ppm, rounded down. -/
def trimmedTicks (m : Mode) (trim : Int) (n : Nat) : Nat :=
  (n * 10 ^ 19) / (m.rate * m.vtotal * (10 ^ 8 + trim).toNat)

/-- Lines by which the frame that begins is longer, so that line 0 falls where line mode places it: none once the canvas is placed, or
while a source has not been measured. DESIGN CHOICE, entry 79: the manual does not say when the part places the raster. -/
def State.placeLines (s : State) (c : Canvas) (m : Mode) : Option Nat :=
  if c.lineMode = false ∨ c.placed = true then none
  else (s.rasterPlace c).map fun t =>
    let frame : Nat := 10 ^ 11 / max m.rate 1
    let bare : Nat := s.gsc + trimmedTicks m 0 (m.vtotal - m.h)
    let wait : Nat := ((t - (bare : Int)) % (max frame 1 : Nat)).toNat
    ceilDiv (wait * m.rate * m.vtotal) (10 ^ 11) % max m.vtotal 1

/-- A canvas whose raster has been placed, line 0 at a device time: each source's lead over it, and a lock whose next reference edge
is the measure of its phase. -/
def State.placedAt (s : State) (c : Canvas) (m : Mode) (lineAt : Nat) : Canvas :=
  let lead (i : Nat) : Nat := match (s.entrySource c i).bind Source.started with
    | some t => (lineAt - t) * m.rate * m.vtotal / 10 ^ 11 % max m.vtotal 1
    | none => 0
  { c with placed := true, lock := { c.lock with retarget := true },
           phases := (List.range c.binding.sources.length).map fun i => { entry := i, lead := lead i, out := 0 } }

/-- The lock's work at a frame boundary of its canvas: state, trim, snap, the placing of a line-mode raster, and S(k). CLK_LOCK_CFG of
the lowest head comes into force (R431). In command mode the lock source has no effect (R251). -/
def State.lockBoundary (s : State) (cv : CanvasId) : State :=
  match s.canvas cv with
  | none => s
  | some c =>
    let h := c.stepDie
    let s0 := s.onDie h fun x => { x with force := sSet regReset x.force Reg.clkLockCfg (x.reg Reg.clkLockCfg) }
    let x := s0.die h
    let cmd := x.fField Reg.scnTeCtrl 0 0 == 1
    let s1 := if cmd then s0 else s0.setLock cv Lock.judge
    let l := ((s1.canvas cv).map fun k => k.lock).getD c.lock
    let m := (x.head.mode).getD c.binding.mode
    let pull := if cmd then { l with trim := 0 } else l.pull (Config.trimStep s1.free)
    let snap := x.fField Reg.clkLockCfg 6 6 == 1 && l.state == .acquire && decide (m.htotal < l.phaseErr.natAbs) && !cmd
    let n : Int := if snap then snapLines l.phaseErr m.htotal m.vtotal m.h (s1.vMax c) else 0
    let place := s1.placeLines c m
    let total := ((m.vtotal : Int) + n).toNat + place.getD 0
    let s1 := { s1 with free := s1.free + 1 }
    let s2 := s1.onDies (c.binding.heads.map fun e => e.1) fun _ y =>
      { y with head := { y.head with vtotalNow := total } }
    let lineAt := s.gsc + trimmedTicks m pull.trim (total - m.h)
    let s3 := s2.onCanvas cv fun k =>
      let j := { k with lock := { pull with phaseErr := l.phaseErr - n * (m.htotal : Int) }, lineZero := lineAt }
      if place.isSome then s2.placedAt j m lineAt else j
    if n = 0 then s3 else s3.raise h Reg.clkEvt 0x08

end Sys2Proof.Machine
end

