-- ==== Sys2Proof/Machine/Pause.lean ====
section
/-! DEFINITION. Pausing, saving, discarding and resuming the context of a canvas (R273, R278, R279, R308 to R311, R325,
R326). -/

namespace Sys2Proof.Machine

/-! ### Capture of a context on a die (R278, R308) -/

/-- What an engine keeps for some items: its live slots and its spilled tiles, with the blocks that it has loaded. -/
def Engine.share (e : Engine) (p : ItemId → Bool) : Engine :=
  { loaded := e.loaded.filter fun l => p l.it, books := e.books.filter fun l => p l.it, inits := e.inits.filter fun l => p l.it,
    slots := [], spill := (e.slots.map Prod.snd ++ e.spill ++ e.golden.toList).filter fun x => p x.it, golden := none,
    staged := e.staged.filter fun x => p x.it, inBlock := e.inBlock.filter p }

/-- An engine with a saved share put back: its tiles wait in the spill area. -/
def Engine.rejoin (e x : Engine) : Engine :=
  { e with loaded := e.loaded ++ x.loaded, books := e.books ++ x.books, inits := e.inits ++ x.inits, spill := e.spill ++ x.spill,
           staged := e.staged ++ x.staged, inBlock := e.inBlock.or x.inBlock }

/-- The objects of an entry, by bank. -/
def Tsl.entryObjs (t : Tsl) (e : TslEntry) : List TslObj := e.owns.filterMap t.obj

/-- What a die holds of a canvas. -/
def Die.capture (x : Die) (c : Canvas) (d : DieIx) : SavedDie :=
  let own : List (BitVec 12 × TslEntry) := match x.tsl.ctx c.ctx with
    | some k => k.table.filter fun e => !e.2.imported
    | none => []
  { die := d, entries := own.map fun e => (e.1, e.2.banked, x.tsl.entryObjs e.2),
    streams := x.streams.filter fun e => e.2.canvas == some c.id, pools := x.pools.filter fun e => e.2.canvas == some c.id,
    engines := x.engines.map fun g => g.share fun i => i.canvas == c.id }

/-- A die without what a canvas had in progress on it: its objects are freed and its entries gone, its imports stay. -/
def Die.vacate (x : Die) (c : Canvas) : Die :=
  let t := match x.tsl.ctx c.ctx with
    | none => x.tsl
    | some k => { x.tsl.freeObjs k.owned with
        ctxs := sInsert x.tsl.ctxs c.ctx { k with table := k.table.filter fun e => e.2.imported } }
  let y := x.dropItems fun i => i.canvas == c.id
  { y with tsl := t, streams := y.streams.filter fun e => e.2.canvas != some c.id,
           pools := y.pools.map fun e => if e.2.canvas == some c.id then (e.1, e.2.emptied) else e }

/-- The record of a saved stream (Table 11.6): PC, generators, count generators, loop indices and open loops. DESIGN CHOICE for its
layout, entry 39. -/
def streamRecord (st : StreamId) (x : Stream) : List Byte :=
  leBytes 4 (streamWord st x.prog) ++ leBytes 4 x.pc ++ leBytes 8 x.stepSeq ++
    (x.gens.toList.flatMap fun g => leBytes 8 (g.space.val + 8 * b2n g.image + 16 * g.die.val) ++ leBytes 8 g.base.toNat ++
      (g.stride.toList.flatMap fun v => leBytes 8 v.toNat) ++ leBytes 8 g.ring.toNat) ++
    (x.counts.toList.flatMap fun k => leBytes 8 k.base.toNat ++ k.step.toList.flatMap fun v => leBytes 8 v.toNat) ++
    (x.idx.toList.flatMap (leBytes 8)) ++ leBytes 4 x.loops.length ++
    (x.loops.flatMap fun l => leBytes 4 l.1.val ++ leBytes 4 l.2.1 ++ leBytes 4 l.2.2)

/-- The record of a saved credit pool: units held by each member, and the requests that wait, in order of arrival. -/
def poolRecord (p : Pool) : List Byte :=
  leBytes 4 p.index ++ leBytes 4 p.members.length ++ (p.members.flatMap fun m => leBytes 4 m.prog.toNat ++ leBytes 4 m.held) ++
    leBytes 4 p.waiting.length ++ p.waiting.flatMap fun q => leBytes 4 (streamWord q.stream q.prog) ++ leBytes 4 q.units

/-- The record of a saved share of a Matrix Engine: each tile that it holds with every entry, in 32 bits. -/
def engineRecord (g : Engine) : List Byte :=
  (g.spill ++ g.staged).flatMap fun sl => leBytes 4 sl.it.op ++ leBytes 8 sl.it.stepSeq ++ leBytes 4 sl.tile.row ++ leBytes 4 sl.tile.m ++
    leBytes 4 sl.tile.t ++ leBytes 4 sl.next ++ sl.entries.flatMap fun w => leBytes 4 w.toNat

/-- The Turnstile records of a context: the header and records of Tables 10.8 and 10.9, of every object that it owns. -/
def Tsl.saveRecords (t : Tsl) (ctx : Nat) (d : DieIx) (step : Dword) : List Byte :=
  let own := (t.ctx ctx).elim [] TslCtx.owned
  ({ t with objs := t.objs.filter fun e => own.contains e.1 }.dumpDie d false step (2 ^ 40)).1

/-- Bytes of the save buffer on a die: the Big Top footprint, the Turnstile records, the accumulators, the streams, the credit pools, and
the place of each item in its loop nest (R278, R308). DESIGN CHOICE for their order, entry 39. -/
def State.saveBytes (s : State) (c : Canvas) (v : SavedDie) : List Byte :=
  ((c.pool.filter fun e => e.1 == v.die).flatMap fun e => (s.die v.die).readBigTop e.2.1 (1024 * e.2.2)) ++
    (s.tslSeen v.die).saveRecords c.ctx v.die (s.die v.die).head.frameStep ++ v.engines.toList.flatMap engineRecord ++
    (v.streams.flatMap fun e => streamRecord e.1 e.2) ++ (v.pools.flatMap fun e => poolRecord e.2) ++
    (c.items.filter fun i => i.live && i.id.die == v.die).flatMap fun i => leBytes 4 i.id.op ++ leBytes 8 i.id.stepSeq ++ leBytes 4 i.pos

/-! ### PAUSE -/

/-- The items of a canvas that units other than a Matrix Engine work on: each is brought to its end before the save (Table 11.6). -/
def State.workedOn (s : State) (c : Canvas) : List ItemId :=
  (c.items.filter fun i => (match i.id.unit with
    | .me _ => false
    | _ => true) && (s.die i.id.die).inflight.contains i.id && s.served c i && s.itemReady c i).map Item.id

/-- Every item that a unit was at work on has ended, every Carousel stream of the canvas has completed its transfers, and no operation of
its context is under way over Gaide or held by a dump. -/
def State.atSavePoint (s : State) (c : Canvas) (ends : List ItemId) : Bool :=
  (ends.all fun i => !((c.item i).any Item.live)) &&
    (c.dies.all fun d => ((s.die d).streams.all fun e => e.2.canvas != some c.id || (e.2.moves.isEmpty && e.2.fencing.isNone)) &&
      (s.die d).tsl.held.all fun h => !(((s.die d).tsl.obj h.1).any fun o => o.ctx == c.ctx)) &&
    !(s.gaide.any fun m => c.dies.contains m.src && match m.ref with
      | .virt ctx _ => ctx.val == c.ctx
      | .phys _ => m.part.any fun p => p.1 == c.id)

/-- The context of a canvas is poisoned, its work ends, and nothing is saved (R273). -/
def State.discardCtx (s : State) (cv : CanvasId) : State :=
  let s1 := (s.poisonCanvas cv).abandonWork cv .poisoned fun _ => true
  match s1.canvas cv with
  | none => s1
  | some c =>
    let s2 := s1.onDies c.dies fun _ x =>
      let y := x.dropItems fun i => i.canvas == cv
      let z := y.removeStreams fun _ k => k.canvas == some cv
      { z with pools := z.pools.map fun e => if e.2.canvas == some cv then (e.1, e.2.emptied) else e }
    s2.onCanvas cv fun k =>
      { k with pause := .saved { addr := 0, items := [], dies := [], discarded := true }, deferred := [], runs := [] }

/-- A request to pause takes effect on a canvas that runs: a discard completes at once, a save once its save point is reached. -/
def State.beginPause (s : State) (cv : CanvasId) (r : PauseReq) : State :=
  if r.discard then (s.discardCtx cv).finish r.queue (.save cv) (.plain .ok)
  else match s.canvas cv with
    | none => s
    | some c => s.onCanvas cv fun k => { k with pause := .saving r.queue r.addr (s.workedOn c) }

/-- The save buffer lies in an allocation of the function on every die of the canvas, and holds its footprint there. -/
def State.saveFits (s : State) (c : Canvas) (addr : Dword) : Bool :=
  c.dies.all fun d => (s.die d).allocated c.id.func addr.toNat (max 1 (1024 * c.poolKib d))

/-- PAUSE. A canvas that is saving or saved takes none; one that resumes takes it when its resume is complete (R311). -/
def fxPause (h : DescHdr) (canvas : BitVec 16) (flags : Byte) (save : Dword) (s : State) : State :=
  let cv : CanvasId := { func := h.func, handle := canvas.toNat }
  let r : PauseReq := { queue := (h.func, h.sq), addr := save, discard := flags.getLsbD 0 }
  let s1 := s.descriptor h 0 true (decide (flags.toNat ≤ 1)) fun t _ =>
    match t.canvas cv with
    | none => (t, .st .notOwner)
    | some c =>
      if r.discard = false ∧ t.saveFits c save = false then (t, .st .notOwner)
      else match c.pause with
        | .running => (t, .await (.save cv))
        | .resuming none => (t.onCanvas cv fun k => { k with pause := .resuming (some r) }, .await (.save cv))
        | .resuming (some _) => (t, .st .inUse)
        | .saving _ _ _ => (t, .st .inUse)
        | .saved _ => (t, .st .inUse)
  match s.host.startable h, (s1.host.queue h.func h.sq).bind Queue.cur, s1.canvas cv with
  | some _, some k, some c => if k.await = some (.save cv) ∧ c.pause = .running then s1.beginPause cv r else s1
  | _, _, _ => s1

/-- CONTEXT_SAVE_COMPLETE: the context's objects are captured and freed, its state is written to the save buffer on each die, and
the PAUSE completes. -/
def fxContextSaveComplete (cv : CanvasId) (s : State) : State :=
  match s.canvas cv with
  | none => s
  | some c =>
    match c.pause with
    | .saving q addr ends =>
      if s.atSavePoint c ends = false then s
      else
        let dies := c.dies.map fun d => (s.die d).capture c d
        let s1 := dies.foldl (fun s v => s.onDie v.die fun x => x.copyIn addr.toNat (s.saveBytes c v)) s
        let s2 := s1.onDies c.dies fun _ x => x.vacate c
        let held : Saved := { addr := addr, items := c.items.filter Item.live, dies := dies, discarded := false }
        let s3 := s2.onCanvas cv fun k => { k with pause := .saved held, items := k.items.filter fun i => !i.live }
        (c.dies.foldl (fun s d => s.refill d) s3).finish q (.save cv) (.plain .ok)
    | _ => s

/-! ### RESUME (R279, R310) -/

/-- The memory of a die with a saved entry allocated again, every captured field restored. -/
def Tsl.restore (t : Tsl) (ctx : Nat) (e : BitVec 12 × Bool × List TslObj) : Option Tsl :=
  match t.ctx ctx, t.findFree ctx e.2.2.length with
  | some k, some b =>
    let objs := e.2.2.zipIdx.foldl (fun m o => sInsert m (b + o.2) o.1) t.objs
    some { t with objs := objs, ctxs := sInsert t.ctxs ctx
                    { k with table := k.table ++ [(e.1, { base := b, banked := e.2.1, imported := false })] } }
  | _, _ => none

/-- Every saved entry of a die allocated again, or none of them. -/
def Tsl.restoreAll (t : Tsl) (ctx : Nat) (l : List (BitVec 12 × Bool × List TslObj)) : Option Tsl :=
  l.foldl (fun t e => t.bind fun t => t.restore ctx e) (some t)

/-- A place for a saved stream: its own where that is free, else the lowest free one. -/
def Die.placeFor (x : Die) (d : DieIx) (st : StreamId) : Option StreamId := if (x.stream st).isNone then some st else x.freeStream d

/-- Saved streams take places again; the new place of each. -/
def Die.rejoinStreams (x : Die) (d : DieIx) (l : List (StreamId × Stream)) : Option (Die × List (StreamId × StreamId)) :=
  l.foldl (fun acc e => acc.bind fun (y, names) => (y.placeFor d e.1).map fun st =>
    ({ y with streams := y.streams ++ [(st, e.2)] }, names ++ [(e.1, st)])) (some (x, []))

/-- The new place of a stream. -/
def newPlace (names : List (StreamId × StreamId)) (st : StreamId) : StreamId := ((names.find? fun e => e.1 == st).map Prod.snd).getD st

/-- A waiter of a stream that has moved. -/
def Waiter.moved (names : List (StreamId × StreamId)) (w : Waiter) : Waiter :=
  if w.req.iss.cls.val = 5 then { req := { w.req with iss := streamIssuer (newPlace names (issuerStream w.req.iss)) } } else w

/-- A pool whose members have moved. -/
def Pool.moved (names : List (StreamId × StreamId)) (p : Pool) : Pool :=
  { p with members := p.members.map (fun m => { m with stream := m.stream.map (newPlace names) }),
           waiting := p.waiting.map fun q => { q with stream := newPlace names q.stream } }

/-- The footprint of a canvas on a die, read back from the save buffer. -/
def Die.readBack (x : Die) (c : Canvas) (d : DieIx) (addr : Nat) : Die :=
  ((c.pool.filter fun e => e.1 == d).foldl (fun (acc : Die × Nat) e =>
    (acc.1.writeBigTop e.2.1 (acc.1.readDram acc.2 (1024 * e.2.2)), acc.2 + 1024 * e.2.2)) (x, addr)).1

/-- A die with its share of a saved canvas restored; none where it lacks objects. -/
def Die.restore (x : Die) (c : Canvas) (addr : Nat) (v : SavedDie) : Option Die :=
  (x.rejoinStreams v.die v.streams).bind fun (y, names) =>
    let moved (e : BitVec 12 × Bool × List TslObj) : BitVec 12 × Bool × List TslObj :=
      (e.1, e.2.1, e.2.2.map fun o => { o with waiters := o.waiters.map (Waiter.moved names) })
    (y.tsl.restoreAll c.ctx (v.entries.map moved)).map fun t =>
      let pools := y.pools.map fun e => match v.pools.find? fun p => p.1 == e.1 with
        | some p => (e.1, p.2.moved names)
        | none => e
      let z : Die := { y with tsl := t, pools := pools, engines := Vector.ofFn fun k => y.engines[k].rejoin v.engines[k] }
      z.readBack c v.die addr

/-- Every die of a saved canvas restored; none where one lacks objects. -/
def State.restoreDies (s : State) (c : Canvas) (v : Saved) : Option State :=
  v.dies.foldl (fun s e => s.bind fun s => ((s.die e.die).restore c v.addr.toNat e).map fun x => s.setDie e.die x) (some s)

/-- The objects of a discarded context are made again, at 0. -/
def State.remakeCtx (s : State) (c : Canvas) : State :=
  (c.dies.foldl (fun s d => s.destroyCtx d c.ctx) s).makeContexts c (s.placeEnv c.image c.binding)

/-- A canvas resumes: a live one at its next frame boundary; in Replay mode die 0 announces S at once. After a discard its recurrent
tensors start from their declared initial state. -/
def State.beginResume (s : State) (c : Canvas) (v : Saved) : State :=
  let s1 := s.onCanvas c.id fun k =>
    { k with pause := .resuming none, items := k.items ++ v.items,
             firstAt := if k.replays then some (s.gsc + 200) else k.firstAt, started := if k.replays then [] else k.started,
             resets := if k.replays && v.discarded then k.resets ++ [k.frameNo + 1] else k.resets }
  c.dies.foldl (fun s d => s.refill d) s1

/-- RESUME: it completes when the first release is scheduled. -/
def fxResume (h : DescHdr) (canvas : BitVec 16) (save : Dword) (s : State) : State :=
  let cv : CanvasId := { func := h.func, handle := canvas.toNat }
  s.descriptor h 0 true true fun t _ =>
    match t.canvas cv with
    | none => (t, .st .notOwner)
    | some c => match c.pause with
      | .saved v =>
        let e : DescEnd := if c.replays then .st .ok else .await (.release cv)
        if save ≠ v.addr then (t, .st .badDesc)
        else if v.discarded then ((t.remakeCtx c).beginResume c v, e)
        else match t.restoreDies c v with
          | none => (t, .st .placement)
          | some u => (u.beginResume c v, e)
      | _ => (t, .st .inUse)

/-- What a resume does at a frame boundary of its live canvas: die 0 announces S, and the frame that begins starts from the declared
initial state. -/
def State.resumeBoundary (s : State) (cv : CanvasId) : State :=
  match s.canvas cv with
  | none => s
  | some c => match c.pause with
    | .resuming _ =>
      if c.replays then s
      else
        let s1 := (s.onCanvas cv fun k => { k with firstAt := some (s.gsc + 200), started := [] }).resetRecurrent cv
        s1.onHost fun h => h.onFn c.id.func fun x => { x with queues := x.queues.map fun q =>
          { q with cur := q.cur.map fun k => k.finish (.release cv) (.plain .ok) } }
    | _ => s

/-- The resume of a canvas takes effect: restored items of earlier frames of a live canvas are abandoned under R55, which counts in
DET_TIMING; a pause that waited begins. -/
def State.endResume (s : State) (cv : CanvasId) : State :=
  match s.canvas cv with
  | none => s
  | some c => match c.pause with
    | .resuming next =>
      let s1 := if c.replays then s
        else ((s.abandonWork cv .aborted fun i => decide (i.frame < c.frameNo)).timing 1).onCanvas cv fun k =>
          { k with deferred := [], runs := [], released := [] }
      let s2 := s1.onCanvas cv fun k => { k with pause := .running }
      let s3 := c.dies.foldl (fun s d => s.refill d) s2
      match next with
      | some r => s3.beginPause cv r
      | none => s3
    | _ => s

def execPause (h : DescHdr) (canvas : BitVec 16) (flags : Byte) (save : Dword) (s : State) : Host.Outcome State Fault Refusal :=
  .next (fxPause h canvas flags save s)
def execContextSaveComplete (cv : CanvasId) (s : State) : Host.Outcome State Fault Refusal := .next (fxContextSaveComplete cv s)
def execResume (h : DescHdr) (canvas : BitVec 16) (save : Dword) (s : State) : Host.Outcome State Fault Refusal :=
  .next (fxResume h canvas save s)

end Sys2Proof.Machine
end

