-- ==== Sys2Proof/Machine/Replay.lean ====
section
/-! DEFINITION. First releases, the replay of recorded frames, and the control of a recorder (R70, R295, R299, R303 to R307,
R310, R312). -/

namespace Sys2Proof.Machine

/-! ### Source frames of a replay (R304) -/

/-- The canvas, as a recording names it, that a Replay canvas repeats: that of its checkpoint's record. -/
def State.recordedCanvas (s : State) (c : Canvas) : Nat :=
  (((s.die 0).ringRecords.find? fun r => r.rec_.type == 8 && r.seq == c.binding.ckpt.toNat).map fun r => r.rec_.canvas).getD 0xFFFF

/-- The form that a FRAME record gives. -/
def frameForm (pl : List Byte) : VideoForm :=
  { width := leAt pl 16 2, height := leAt pl 18 2, pixfmt := Fin.ofNat 14 (leAt pl 20 1), interlaced := leAt pl 21 1 % 2 == 1,
    bottomField := leAt pl 21 1 / 2 % 2 == 1, protect := none }

/-- The CRCs of the lines of a FRAME record. -/
def frameCrcs (pl : List Byte) : List Word := (List.range (leAt pl 12 4)).map fun k => BitVec.ofNat 32 (leAt pl (24 + 4 * k) 4)

/-- The raw lines of a FRAME record under FRAME_MODE 3, from an offset. -/
def rawLines (form : VideoForm) (pl : List Byte) (n : Nat) : List (List Byte) :=
  ((List.range n).foldl (fun (acc : List (List Byte) × Nat) k =>
    let z := lineBytes form.pixfmt.val form.width k
    (acc.1 ++ [sliceBytes pl acc.2 z], acc.2 + z)) ([], 24 + 4 * n)).1

/-- The source frame of a FRAME record that holds its raw lines, each with the CRC recorded. -/
def recordedFrame (pl : List Byte) (index : Nat) : Option SrcFrame :=
  let form := frameForm pl
  let n := leAt pl 12 4
  let z := ((List.range n).map fun k => lineBytes form.pixfmt.val form.width k).sum
  let ctr := BitVec.ofNat 32 (leAt pl 0 4)
  let ts := leAt pl 4 8
  if pl.length < 24 + 4 * n + z then none
  else
    let ls := (rawLines form pl n).zipIdx.map fun e => (e.2, ({ bytes := e.1, crc := crc32c e.1, counter := ctr, ts := ts } : SrcLine))
    if ls.map (fun e => e.2.crc) = frameCrcs pl then
      some { index := index, counter := ctr.setWidth 64, ts := ts, lastAt := ts, smoothed := ts, lines := ls, form := form, bad := false, repeated := false }
    else none

/-- The FRAME record of a source frame of an entry, in the ring of the die that captured it. -/
def State.frameRec (s : State) (e : SourceEntry) (ctr : Word) : Option RingRec :=
  (s.die (dieOf e.die)).ringRecords.find? fun r => r.rec_.type == 2 && r.rec_.port == e.port && leAt r.rec_.payload 0 4 == ctr.toNat

/-- The frame of an entry with a counter: as the host has fed it, its lines checked against the recorded CRCs, or from the ring. -/
def State.fedFrame (s : State) (c : Canvas) (i : Nat) (ctr : Word) : Option SrcFrame :=
  match c.binding.sources[i]? with
  | none => none
  | some e =>
    let next := ((s.entrySource c i).map Source.nextIndex).getD 0
    match (s.entrySource c i).bind fun q => (q.frames.filter fun f => f.counter.setWidth 32 == ctr).getLast? with
    | some f => match s.frameRec e ctr with
      | some r => if f.lines.map (fun l => l.2.crc) = frameCrcs r.rec_.payload then some f else none
      | none => some f
    | none => (s.frameRec e ctr).bind fun r => recordedFrame r.rec_.payload next

/-- A recorded counter names a frame, where it is not 0 or a frame of that counter is there. -/
def State.needsFrame (s : State) (c : Canvas) (ctr : Word) : Bool := ctr != 0 || (s.fedFrame c c.primary ctr).isSome

/-- The source frames of a frame to replay have been fed. -/
def State.fed (s : State) (c : Canvas) (r : ReplayFrame) : Bool :=
  c.binding.sources.isEmpty || [r.counters.1, r.counters.2].all fun k => !(s.needsFrame c k) || (s.fedFrame c c.primary k).isSome

/-- A frame of an entry stands in its store; one read from the ring is added to it. -/
def State.storeFed (s : State) (c : Canvas) (i : Nat) (f : SrcFrame) : State :=
  match c.binding.sources[i]? with
  | none => s
  | some e =>
    let d := dieOf e.die
    let q0 := (s.entrySource c i).getD (Source.fresh 0 0 (some (c.id, i)) f.form)
    let s1 := if (s.entrySource c i).isSome then s else s.onDie d fun x => { x with sources := x.sources ++ [q0] }
    if q0.frames.any fun g => g.index == f.index then s1
    else s1.onSource d (sameSource q0) fun q =>
      let frames := q.frames ++ [f]
      { q with frames := frames.drop (frames.length - 6), nextIndex := f.index + 1 }

/-- Frames j and j + 1 of the primary entry are neighbours in its store, which retimes nothing itself. -/
def State.pairFed (s : State) (c : Canvas) (j : Nat) (next : Option Nat) : State :=
  match c.binding.sources[c.primary]?, s.entrySource c c.primary with
  | some e, some q => s.onSource (dieOf e.die) (sameSource q) fun q =>
      { q with cadence := .none, frames := q.frames.filter fun f => !(decide (j < f.index) && next.any fun k => decide (f.index < k)) }
  | _, _ => s

/-- The retiming of a frame to replay: j, j + 1 and ph of the primary entry from its STEP record; the latest frame fed of every other
entry. -/
def State.takeSources (s : State) (cv : CanvasId) (r : ReplayFrame) : State :=
  match s.canvas cv with
  | none => s
  | some c =>
    let p := c.primary
    let s1 := match s.fedFrame c p r.counters.1 with
      | some f => s.storeFed c p f
      | none => s
    let j := if s.needsFrame c r.counters.1 then (s1.fedFrame c p r.counters.1).map SrcFrame.index else none
    let s2 := match s1.fedFrame c p r.counters.2 with
      | some f => s1.storeFed c p f
      | none => s1
    let k := if s.needsFrame c r.counters.2 then (s2.fedFrame c p r.counters.2).map SrcFrame.index else none
    let s3 := match j with
      | some a => s2.pairFed c a k
      | none => s2
    let ret (i : Nat) : Retiming :=
      if i = p then { j := j, next := k, phase := r.phase, snapped := r.flags.getLsbD 0, late := j.isNone }
      else match (s3.entrySource c i).bind Source.lastComplete with
        | some f => { j := some f.index, next := none, phase := 0, snapped := false, late := false }
        | none => Retiming.none_
    let rs := (List.range c.binding.sources.length).map ret
    let s4 := s3.onCanvas cv fun x => { x with retimings := rs }
    c.binding.heads.foldl (fun s h => c.binding.layers.foldl (fun s e =>
      let t := rs.getD e.source Retiming.none_
      s.onLayer h.1 (Fin.ofNat 16 e.layer) fun _ =>
        { LayerRt.reset with shown := t.j, next := t.next, phase := t.phase, nearest := r.flags.getLsbD 1 }) s) s4

/-! ### A frame of a replay (R304, R305) -/

/-- Nothing from outside reaches a line of a replay. -/
def LineIn.quiet : LineIn := { wbAccept := true, badRows := [], badSource := [], badVector := [] }

/-- The parts of a frame, with those that FOLLOW abandons at their release marked. -/
def Canvas.replayParts (c : Canvas) (r : ReplayFrame) : Canvas :=
  let k := (List.range c.binding.stripes).foldl (fun (k : Canvas) st => k.withParts c.frameNo st unreleased) c
  let ps := k.parts.map fun p => if c.follows && p.frame == c.frameNo && r.abandoned.contains p.id then { p with abandoned := true } else p
  { k with parts := ps }

/-- The next frame of a replay has begun. -/
def Canvas.replayBegun (c : Canvas) (r : ReplayFrame) : Bool := c.frameStep == r.step

/-- The next frame of a replay begins, once its source frames are there and the work of the frame before last is done, so that R55
never acts (R304): the frame boundary with what latches at it, the inputs, the
release of every stripe, and the fall-back stripes. -/
def State.replayBegin (s : State) (cv : CanvasId) : State := s.inOneCycle fun s =>
  match s.canvas cv with
  | none => s
  | some c => match c.replay with
    | [] => s
    | r :: _ =>
      if c.unbinding = true ∨ c.pause ≠ .running ∨ c.firstAt.isSome = true ∨ c.replayBegun r = true ∨ s.fed c r = false ∨
          (c.items.any fun i => decide (i.frame + 1 ≤ c.frameNo) && i.live) = true then s
      else
        let n := c.frameNo + 1
        let info := [r.phase.toNat, r.flags.toNat, r.counters.1.toNat, r.counters.2.toNat]
        let s1 := s.onCanvas cv fun k =>
          let k : Canvas := { k with
                   frameNo := n, frameStep := r.step, steps := (k.steps.filter fun e => decide (n ≤ e.1 + 2)) ++ [(n, r.step)],
                   parts := k.parts.filter (fun p => decide (n ≤ p.frame + 1)), resetFlag := false, mismatch := [],
                   resets := if c.follows && r.reset && !k.resets.contains n then k.resets ++ [n] else k.resets }
          k.stampTracks n r.step
        let s2 := c.binding.heads.foldl (fun s h => s.frameBegin h.1 r.step.toNat) s1
        let s3 := (((s2.takeSources cv r).fillInputs cv n).writeFrec cv n info).onCanvas cv fun k => k.replayParts r
        let stripes := List.range c.binding.stripes
        let s4 := stripes.foldl (fun s st => s.releaseStripe cv n st) s3
        stripes.foldl (fun s st => c.binding.heads.foldl (fun s h => c.binding.layers.foldl (fun s e =>
          s.resampleStripe cv h.1 e st LineIn.quiet) s) s) s4

/-- Every stripe part of the frame has been chosen. -/
def Canvas.allChosen (c : Canvas) : Bool :=
  let ps := c.parts.filter fun p => p.frame == c.frameNo
  !ps.isEmpty && ps.all fun p => p.choice.isSome

/-- The whole picture of a head is composed, limited and written back. -/
def State.replayCompose (s : State) (h : DieIx) : State :=
  match (s.die h).head.mode with
  | none => s
  | some m => foldRange m.h (fun s n => (s.fetchLine h n [] []).scanLine h n true) s

/-- A mismatch of FOLLOW (R306). -/
def State.replayMismatch (s : State) (cv : CanvasId) (h : DieIx) (stripe : Nat) : State :=
  (s.countRaise h Reg.detMismatch Reg.detEvt 0x08).onCanvas cv fun k => k.noteMismatch h stripe

/-- Output stripes of a head against the OUTPUT record of its frame, under FOLLOW. -/
def State.compareOutput (s : State) (c : Canvas) (h : DieIx) : State :=
  if c.follows = false then s
  else match (s.die h).ringRecords.find? fun r => r.rec_.type == 7 && r.rec_.canvas == s.recordedCanvas c &&
      leAt r.rec_.payload 0 8 == c.frameStep.toNat with
    | none => s
    | some r =>
      let crcs := stripeCrcs c.binding.stripeH (s.die h).head.echo.lineCrcs.reverse
      crcs.zipIdx.foldl (fun s e =>
        if e.1.toNat = leAt r.rec_.payload (8 + 4 * e.2) 4 then s else s.replayMismatch c.id h e.2) s

/-- The taps of the frame are copied to the host (R307). -/
def State.copyTaps (s : State) (c : Canvas) : State :=
  (c.binding.taps.filter fun t => t.step == c.frameStep).foldl (fun s t =>
    let u := (c.opOf t.op).out0
    let b := c.wholeBand u
    let elem (n y x k : Nat) : Nat := match c.buf u c.frameNo with
      | some z => z.rd n y x k
      | none => 0
    let bs := (List.range (bTens c.image u).nb).flatMap fun n => (List.range b.y1).flatMap fun y => c.plainLine u b elem n y
    s.writeHost t.addr.toNat (bs.take t.length)) s

/-- What a frame boundary does to the Safety Nets of the dies that follow a head of a Replay canvas. -/
def State.replaySfn (s : State) (h : DieIx) : State := (s.followers h).foldl (fun s d => (s.restartBoundary d).windowBoundary d) s

/-- A frame of a replay ends: its lines, the comparison, the taps, the summaries; then the unbinding, or the next frame. -/
def State.replayEnd (s : State) (cv : CanvasId) : State := s.inOneCycle fun s =>
  match s.canvas cv with
  | none => s
  | some c =>
    let hs := c.binding.heads.map fun h => h.1
    let s1 := hs.foldl (fun s h => s.replayCompose h) s
    let s2 := hs.foldl (fun s h => s.compareOutput c h) (s1.copyTaps c)
    let s3 := (hs.foldl (fun s h => s.frameEnd h) s2).canvasEnd cv
    let s4 := (hs.foldl (fun s h => s.replaySfn h) s3).onCanvas cv fun k => { k with replay := k.replay.tail }
    if c.unbinding then s4.unbindNow cv else s4.replayBegin cv

/-- REPLAY_FRAME_ADVANCE: parts that can be chosen are; a frame whose every part has been chosen ends, and the next begins. -/
def fxReplayFrameAdvance (cv : CanvasId) (s : State) : State :=
  match s.canvas cv with
  | none => s
  | some c =>
    if c.replays = false ∨ c.pause ≠ .running ∨ c.firstAt.isSome = true then s
    else match c.replay with
      | [] => if c.unbinding then s.unbindNow cv else s
      | r :: _ =>
        if c.replayBegun r = false then (if c.unbinding then s.unbindNow cv else s.replayBegin cv)
        else
          let s1 := s.replayLatch cv
          if (s1.canvas cv).any Canvas.allChosen then s1.replayEnd cv else s1

/-! ### First releases (R294, R295, R310) -/

/-- The releases that waited for S take place on every die together. -/
def State.releaseDue (s : State) (cv : CanvasId) : State :=
  match s.canvas cv with
  | none => s
  | some c =>
    let s1 := s.onCanvas cv fun k => { k with firstAt := none, started := [], due := [] }
    let s2 := s1.endResume cv
    if c.replays then s2.replayBegin cv else c.due.foldl (fun s e => s.releaseLive cv e.1 e.2) s2

/-- FIRST_RELEASE: a die reaches S, and its start barrier begins; once every die of the canvas has, the first release takes place. A
die whose GSC has passed S reports it, and die 0 announces S + 200. -/
def fxFirstRelease (d : DieIx) (cv : CanvasId) (s : State) : State :=
  match s.canvas cv with
  | none => s
  | some c => match c.firstAt with
    | none => s
    | some t =>
      if c.dies.contains d = false ∨ s.gsc < t then s
      else if t < s.gsc then
        if c.started.contains d then s else s.onCanvas cv fun k => { k with firstAt := some (t + 200), started := [] }
      else
        let l := if c.started.contains d then c.started else c.started ++ [d]
        let s1 := s.onCanvas cv fun k => { k with started := l }
        if c.dies.all fun e => l.contains e then s1.releaseDue cv else s1

/-! ### The recorder's control (R312) -/

/-- A recorder that starts: SEQ, the ring and the count of source frames begin again. -/
def Die.startRecorder (x : Die) (w : Word) : Die :=
  let y := ((x.setReg Reg.detRecCtrl w).setReg Reg.detRecWptr 0).setField Reg.detStatus 4 4 0
  { (y.setField Reg.detStatus 2 2 1) with recorder := { seq := 0, used := 0, lost := 0, firstLost := 0, full := false, batch := none },
                                           sources := y.sources.map fun q => { q with recorded := 0 } }

/-- A value that starts the recorder: EN, with STRIPE_MOD and the ring's size not 0. -/
def Die.mayRecord (x : Die) (w : Word) : Bool := bit w 0 && bits w 23 16 != 0 && x.field Reg.detRecSize 15 0 != 0

/-- A write of DET_REC_CTRL that its role allows. -/
def State.recCtrl (s : State) (d : DieIx) (value : Word) : State :=
  let old := s.reg d Reg.detRecCtrl
  let w := writeWord (fieldsAt Reg.detRecCtrl) old value 0
  if bit old 0 then
    if w = setBits old 0 0 0 then s.onDie d fun x => (x.setReg Reg.detRecCtrl w).setField Reg.detStatus 2 2 0 else s
  else if (s.die d).mayRecord w = false then s.setReg d Reg.detRecCtrl (setBits w 0 0 0)
  else
    let s1 := s.onDie d fun x => x.startRecorder w
    if d = 0 then s1.recordConfigs else s1

/-- DET_REC_CTRL_WRITE. -/
def fxDetRecCtrlWrite (d : DieIx) (value : Word) (s : State) : State :=
  s.guardedWrite d Reg.detRecCtrl (fieldsAt Reg.detRecCtrl) (s.reg d Reg.detRecCtrl) value fun t => t.recCtrl d value

def execFirstRelease (d : DieIx) (cv : CanvasId) (s : State) : Host.Outcome State Fault Refusal := .next (fxFirstRelease d cv s)
def execReplayFrameAdvance (cv : CanvasId) (s : State) : Host.Outcome State Fault Refusal := .next (fxReplayFrameAdvance cv s)
def execDetRecCtrlWrite (d : DieIx) (value : Word) (s : State) : Host.Outcome State Fault Refusal :=
  .next (fxDetRecCtrlWrite d value s)

end Sys2Proof.Machine
end

