-- ==== Sys2Proof/Machine/Sense.lean ====
section
/-! DEFINITION. Sense and control: the task slots, their transactions, and the PWM outputs (R425, R426, R433). -/

namespace Sys2Proof.Machine

/-! ### Task slots (Table 15.7) -/

/-- A field of word 0 of a task. -/
def taskField (w : Vector Word 4) (hi lo : Nat) : Nat := bits w[0] hi lo

/-- The bus of a task: I3C/I2C controllers from 0, SPI controllers from 8. -/
def taskBus (w : Vector Word 4) : Nat := 8 * taskField w 2 2 + taskField w 5 3

/-- The state with a task changed. -/
def State.onTask (s : State) (slot : Fin 64) (f : Task → Task) : State :=
  { s with sns := { s.sns with tasks := s.sns.tasks.set slot.val (f s.sns.tasks[slot.val]) slot.isLt } }

/-- A task slot. -/
def State.task (s : State) (slot : Fin 64) : Task := s.sns.tasks[slot.val]

/-- A bus carries a transaction. -/
def State.busBusy (s : State) (bus : Nat) : Bool := s.sns.tasks.toList.any fun t => t.running.any fun w => taskBus w == bus

/-- One frame period of a head has passed since a time; never where it has no mode. -/
def State.framePassed (s : State) (h : DieIx) (t : Nat) : Bool :=
  match (s.die h).head.mode with
  | some m => decide (10 ^ 11 / max m.rate 1 < s.gsc - t)
  | none => false

/-- Tasks that wait for a bus, in the order in which they fell due, those of one line in slot order. -/
def State.waitingTasks (s : State) (bus : Nat) : List (Nat × Fin 64) :=
  let l := (List.finRange 64).filterMap fun k => match (s.task k).dueSince with
    | some t => if taskBus (s.task k).words = bus then some (t, k) else none
    | none => none
  sortBy (fun x y => decide (x.1 < y.1) || (x.1 == y.1 && decide (x.2.val < y.2.val))) l

/-- A task whose bus did not come free in time is skipped for that frame. -/
def State.skipTask (s : State) (slot : Fin 64) : State :=
  (s.onTask slot fun t => { t with dueSince := none }).countRaise 0 Reg.snsTaskLate Reg.snsEvt 0x02

/-- A task's transaction begins. -/
def State.issueTask (s : State) (slot : Fin 64) : State := s.onTask slot fun t => { t with dueSince := none, running := some t.words }

/-- The next task that waits for a bus begins where it is free; those that are late are skipped. -/
def State.serveBus (s : State) (bus : Nat) : State :=
  (s.waitingTasks bus).foldl (fun s e =>
    if s.busBusy bus then s
    else if s.framePassed (dieOf (taskField (s.task e.2).words 21 19)) e.1 then s.skipTask e.2
    else s.issueTask e.2) s

/-- A task falls due at a line of its head, in every EVERY-th frame since it was stored. EVERY 0 is reserved: such a task is never
due. -/
def State.taskLine (s : State) (h : DieIx) (line : Nat) (slot : Fin 64) : State :=
  let w := (s.task slot).words
  let every := taskField w 29 22
  if taskField w 0 0 = 0 ∨ taskField w 21 19 ≠ h.val ∨ bits w[1] 12 0 ≠ line ∨ every = 0 then s
  else
    let n := (s.task slot).frames + 1
    let s1 := s.onTask slot fun t => { t with frames := n }
    if n % every ≠ 0 then s1
    else
      let s2 := if (s1.task slot).dueSince.isSome then s1.skipTask slot else s1
      s2.onTask slot fun t => { t with dueSince := some s.gsc }

/-- The tasks of a line of a head, in slot order. -/
def State.senseLine (s : State) (h : DieIx) (line : Nat) : State :=
  let s1 := (List.finRange 64).foldl (fun s k => s.taskLine h line k) s
  foldRange 16 (fun s bus => s.serveBus bus) s1

/-- The address of a transaction in a SENSOR record: the device on I3C/I2C, the chip select on SPI. -/
def taskAddr (w : Vector Word 4) : Nat := if taskField w 2 2 = 0 then taskField w 15 9 else taskField w 8 6

/-- SENSE_TRANSACTION_END: the transaction that a slot has under way ends; its bus serves the next task. -/
def fxSenseTransactionEnd (slot : Fin 64) (r : XferEnd) (s : State) : State :=
  match (s.task slot).running with
  | none => s
  | some w =>
    let s1 := s.onTask slot fun t => { t with running := none }
    let s2 := match r with
      | .ok bytes =>
        let bs := sliceBytes bytes 0 (taskField w 18 16 + 1)
        if taskField w 1 1 = 1 then s1.onTask slot fun t => { t with status := 1 }
        else (s1.onTask slot fun t => { t with status := 1, result := bs }).recordSensor (taskBus w) (taskAddr w) bs
      | .nack => (s1.onTask slot fun t => { t with status := 2 }).countRaise 0 Reg.snsXferErr Reg.snsEvt 0x01
      | .timeout => (s1.onTask slot fun t => { t with status := 3 }).countRaise 0 Reg.snsXferErr Reg.snsEvt 0x01
    s2.serveBus (taskBus w)

/-- SNS_TASK_SEL_WRITE: the slot's four words are captured. -/
def fxSnsTaskSelWrite (value : Word) (s : State) : State :=
  s.guardedWrite 0 Reg.snsTaskSel (fieldsAt Reg.snsTaskSel) (s.reg 0 Reg.snsTaskSel) value fun t =>
    let k := bits value 5 0
    let u := t.setReg 0 Reg.snsTaskSel (BitVec.ofNat 32 k)
    { u with sns := { u.sns with data := (u.task (Fin.ofNat 64 k)).words } }

/-- SNS_TASK_DATA_WRITE: a word is staged; word 3 stores all four in the slot, whose frame count restarts. -/
def fxSnsTaskDataWrite (w : Fin 4) (value : Word) (s : State) : State :=
  s.guardedWrite 0 (Reg.snsTaskData w.val) (fieldsAt (Reg.snsTaskData w.val)) (s.sns.data[w.val]) value fun t =>
    let u := { t with sns := { t.sns with data := t.sns.data.set w.val value w.isLt } }
    if w.val ≠ 3 then u
    else u.onTask (Fin.ofNat 64 (u.field 0 Reg.snsTaskSel 5 0)) fun k => { k with words := u.sns.data, frames := 0, dueSince := none }

/-! ### PWM outputs -/

/-- The state with a PWM output's duty in force set. -/
def State.setDuty (s : State) (k : Fin 8) (v : Byte) : State :=
  { s with sns := { s.sns with duty := s.sns.duty.set k.val v k.isLt, dutyNext := s.sns.dutyNext.set k.val none k.isLt } }

/-- SNS_PWM_WRITE: with SYNC the duty awaits the frame boundary of HEAD; else it is in force from the end of the current period, which
the model takes at once (entry 46). -/
def fxSnsPwmWrite (k : Fin 8) (value : Word) (s : State) : State :=
  s.guardedWrite 0 (Reg.snsPwm k.val) (fieldsAt (Reg.snsPwm k.val)) (s.reg 0 (Reg.snsPwm k.val)) value fun t =>
    let w := writeWord (fieldsAt (Reg.snsPwm k.val)) (s.reg 0 (Reg.snsPwm k.val)) value 0
    let u := t.setReg 0 (Reg.snsPwm k.val) w
    let v := BitVec.ofNat 8 (bits w 7 0)
    if bit w 25 then { u with sns := { u.sns with dutyNext := u.sns.dutyNext.set k.val (some v) k.isLt } }
    else u.setDuty k v

/-- Duties that await a frame boundary of a head. -/
def State.pwmBoundary (s : State) (h : DieIx) : State :=
  (List.finRange 8).foldl (fun s k => match s.sns.dutyNext[k.val] with
    | some v => if s.field 0 (Reg.snsPwm k.val) 24 22 = h.val then s.setDuty k v else s
    | none => s) s

def execSenseTransactionEnd (slot : Fin 64) (r : XferEnd) (s : State) : Host.Outcome State Fault Refusal :=
  .next (fxSenseTransactionEnd slot r s)
def execSnsTaskSelWrite (value : Word) (s : State) : Host.Outcome State Fault Refusal := .next (fxSnsTaskSelWrite value s)
def execSnsTaskDataWrite (w : Fin 4) (value : Word) (s : State) : Host.Outcome State Fault Refusal :=
  .next (fxSnsTaskDataWrite w value s)
def execSnsPwmWrite (k : Fin 8) (value : Word) (s : State) : Host.Outcome State Fault Refusal := .next (fxSnsPwmWrite k value s)

end Sys2Proof.Machine
end

