-- ==== Sys2Proof/Machine/Line.lean ====
section
/-! DEFINITION. A line of a head: the frame boundary, scan-out, deadlines, releases, the Resampler's stripes and the fetch (R37 to R49,
R58, R66, R67, R239, R246, R251, R252, R295, R426). -/

namespace Sys2Proof.Machine

/-! ### Frame boundaries -/

/-- The parts of the frame that begins, none of them released. -/
def Canvas.frameParts (c : Canvas) : Canvas :=
  (List.range c.binding.stripes).foldl (fun k st => k.withParts k.frameNo st unreleased) c

/-- Command mode at line A (R252): the head waits for an edge, unless one came early. -/
def State.teBoundary (s : State) (h : DieIx) : State :=
  s.onDie h fun x =>
    let cmd := x.fField Reg.scnTeCtrl 0 0 == 1
    { x with head := { x.head with te := { x.head.te with
      waiting := cmd && !x.head.te.earlyEdge, earlyEdge := false, repeatFrame := false, cut := false } } }

/-- What every frame boundary of a head ends with: the Safety Nets that follow it, the PWM outputs, command mode, and standby. -/
def State.headBoundary (s : State) (h : DieIx) (step : Nat) : State :=
  (((s.sfnBoundary h step).pwmBoundary h).teBoundary h).standbyBoundary h

/-- The head's frame has its mode's own vertical total, with S(k) fixed by it. -/
def State.plainTotal (s : State) (h : DieIx) : State :=
  s.onDie h fun x => match x.head.mode with
    | none => x
    | some m => { x with head := { x.head with vtotalNow := m.vtotal, lineZero := s.gsc + trimmedTicks m 0 (m.vtotal - m.h) } }

/-- The frame boundary of a head that carries no canvas. -/
def State.soloBoundary (s : State) (h : DieIx) : State :=
  (((s.frameEnd h).frameBegin h s.gsc).plainTotal h).headBoundary h s.gsc

/-- The frame boundary of a canvas, which its lowest running head gives for all that run (R37). An unbinding that waited takes effect. -/
def State.canvasBoundary (s : State) (c : Canvas) : State :=
  let hs := (c.binding.heads.map fun e => e.1).filter fun h => (s.die h).head.running
  let s1 := (hs.foldl (fun s h => s.frameEnd h) s).canvasEnd c.id
  let s2 := if c.unbinding then s1.unbindNow c.id else (s1.canvasBegin c.id).onCanvas c.id Canvas.frameParts
  let s3 := hs.foldl (fun t h => t.frameBegin h s.gsc) s2
  let s4 := if c.unbinding then hs.foldl (fun t h => t.plainTotal h) s3 else (s3.lockBoundary c.id).resumeBoundary c.id
  hs.foldl (fun t h => t.headBoundary h s.gsc) s4

/-- The frame boundary of a head. A head that is not the lowest of its canvas to run takes it with that one. -/
def State.boundary (s : State) (h : DieIx) : State := s.inOneCycle fun s =>
  match s.headCanvas h with
  | none => s.soloBoundary h
  | some c => if s.leadHead c = h then s.canvasBoundary c else s

/-! ### The work of a line -/

/-- The line counter relative to line 0 of the frame that it belongs to (R42): negative from line A on. -/
def Head.relLine (x : Head) (a : Nat) : Int := if x.line < a then x.line else (x.line : Int) - x.vtotalNow

/-- Choices whose deadline a head has reached (R44). -/
def State.latchDeadlines (s : State) (c : Canvas) (h : DieIx) (r : Int) : State :=
  (c.parts.filter fun p => p.id.head == h && p.frame == c.frameNo && p.choice.isNone &&
      decide (deadline c.binding.stripeH p.id.stripe ((s.die h).vReach p.id.layer) ≤ r)).foldl
    (fun s p => s.latchPart c p (s.choose c p)) s

/-- Every layer of a canvas repeats a frame or shows its fill, on every head: its neural work would serve nothing. DESIGN CHOICE, entry
34. -/
def State.idleSources (s : State) (c : Canvas) : Bool :=
  !c.binding.layers.isEmpty && c.binding.heads.all fun h => c.binding.layers.all fun e =>
    let l := s.layer h.1 (Fin.ofNat 16 e.layer)
    e.source != 0xFF && (l.held || l.fill)

/-- What a release takes from the sources: frames j and j + 1 at stripe 0, in line mode at every stripe. -/
def State.releaseInputs (s : State) (cv : CanvasId) (stripe : Nat) : State :=
  match s.canvas cv with
  | none => s
  | some c =>
    if stripe = 0 then
      let s1 := c.binding.heads.foldl (fun s h => s.retimePorts h.1) (s.retimeCanvas cv false)
      let s2 := s1.fillInputs cv c.frameNo
      match s2.canvas cv with
      | some k => s2.writeFrec cv c.frameNo (s2.frameInfo k)
      | none => s2
    else if c.lineMode then (s.retimeCanvas cv true).fillInputs cv c.frameNo
    else s

/-- A stripe's release line has come (R48). A paused canvas releases nothing; one that composes from fall-back alone only abandons what
R55 names; a release before S waits for it. -/
def State.releaseLine (s : State) (cv : CanvasId) (stripe : Nat) : State :=
  let s1 := s.releaseInputs cv stripe
  match s1.canvas cv with
  | none => s1
  | some c =>
    if c.pause ≠ .running ∧ c.firstAt.isNone = true then s1
    else if c.unbinding = true ∨ (s1.die (s1.leadHead c)).head.opForced = true ∨ s1.idleSources c = true then
      (if stripe = 0 then (s1.endOld cv c.frameNo).pruneFrame cv c.frameNo else s1)
    else if c.firstAt.isSome then s1.onCanvas cv fun k => { k with due := k.due ++ [(c.frameNo, stripe)] }
    else s1.releaseLive cv c.frameNo stripe

/-- Stripes whose release falls in a line, counted on the lowest head: never before the frame boundary. -/
def State.stripesDue (s : State) (c : Canvas) (r : Int) : List Nat :=
  let x := (s.die (s.leadHead c)).head
  let a := (x.mode.map fun m => m.h).getD 0
  (List.range c.binding.stripes).filter fun st =>
    r == max (deadline c.binding.stripeH st (s.vMax c) - c.computeLines) ((a : Int) - x.vtotalNow)

/-- Fall-back stripes that the Resampler starts in a line (R49). -/
def State.resampleLine (s : State) (c : Canvas) (h : DieIx) (r : Int) (inp : LineIn) : State :=
  c.binding.layers.foldl (fun s e => (List.range c.binding.stripes).foldl (fun s st =>
    if r = deadline c.binding.stripeH st ((s.die h).vReach (Fin.ofNat 16 e.layer)) - 16 then s.resampleStripe c.id h e st inp else s) s) s

/-- Line work of a head's canvas. It begins with the canvas's first frame boundary: a raster that ran before the binding ends its
frame without the canvas (R48). -/
def State.canvasLine (s : State) (c : Canvas) (h : DieIx) (r : Int) (inp : LineIn) : State :=
  if c.steps.isEmpty then s
  else
    let s1 := s.latchDeadlines c h r
    let s2 := if s.leadHead c = h then (s1.stripesDue c r).foldl (fun s st => s.releaseLine c.id st) s1 else s1
    match s2.canvas c.id with
    | some k => s2.resampleLine k h r inp
    | none => s2

/-- Line work of a head without a canvas: its port layers take their frames where a canvas with h = 32, V = 0 and W = 57 would release
stripe 0 (entry 30). -/
def State.soloLine (s : State) (h : DieIx) (r first : Int) : State := if r = max (-63) first then s.retimePorts h else s

/-- A line is scanned. It ends an interval of SEC_DOWN_MS where it is transmitted; where it is not, the frame is not transmitted whole
(R252). -/
def State.scanNow (s : State) (h : DieIx) (line : Nat) (accept : Bool) : State :=
  let s1 := s.scanLine h line accept
  if (s.die h).head.linkUp then s1.endDown h
  else s1.onDie h fun x => { x with head := { x.head with te := { x.head.te with cut := true } } }

/-- The line-timed work of a head in its current line. -/
def State.lineWork (s : State) (h : DieIx) (m : Mode) (inp : LineIn) : State :=
  let x := (s.die h).head
  let r := x.relLine m.h
  let s1 := if 0 ≤ r ∧ r < m.h then s.scanNow h r.toNat inp.wbAccept else s
  let s2 := match s1.headCanvas h with
    | some c => s1.canvasLine c h r inp
    | none => s1.soloLine h r ((m.h : Int) - x.vtotalNow)
  let s3 := if 0 ≤ r + 4 ∧ r + 4 < m.h then s2.fetchLine h (r + 4).toNat inp.badRows inp.badVector else s2
  s3.senseLine h x.line

/-- The line counter of a head moves on. -/
def State.advanceLine (s : State) (h : DieIx) : State :=
  s.onDie h fun x => { x with head := { x.head with line := if x.head.vtotalNow ≤ x.head.line + 1 then 0 else x.head.line + 1 } }

/-- LINE_START. A head that does not run, or waits at line A for an edge (R252), starts no line. -/
def fxLineStart (h : DieIx) (inp : LineIn) (s : State) : State :=
  match (s.die h).head.mode with
  | none => s
  | some m =>
    if (s.die h).head.running = false ∨ (s.die h).head.te.waiting = true then s
    else
      let s1 := s.advanceLine h
      let s2 := if (s1.die h).head.line = m.h then s1.boundary h else s1
      match (s2.die h).head.mode with
      | some k => if (s2.die h).head.running then s2.lineWork h k inp else s2
      | none => s2

/-- FALLBACK_COMPLETE: a fall-back stripe that the Resampler started is done, over the head's whole width. -/
def fxFallbackComplete (h : DieIx) (layer : LayerIx) (stripe : Nat) (s : State) : State :=
  match s.headCanvas h with
  | none => s
  | some c =>
    let mine (p : PartSt) : Bool := p.frame == c.frameNo && p.id.head == h && p.id.layer == layer && p.id.stripe == stripe &&
      p.fallbackStarted
    let s1 := s.onCanvas c.id fun k =>
      let ps := k.parts.map fun p => if mine p then { p with fallbackDone := true } else p
      { k with parts := ps }
    s1.replayLatch c.id

def execLineStart (h : DieIx) (inp : LineIn) (s : State) : Host.Outcome State Fault Refusal := .next (fxLineStart h inp s)
def execFallbackComplete (h : DieIx) (layer : LayerIx) (stripe : Nat) (s : State) : Host.Outcome State Fault Refusal :=
  .next (fxFallbackComplete h layer stripe s)

end Sys2Proof.Machine
end

