-- ==== Sys2Proof/Machine/Links.lean ====
section
/-! DEFINITION. The output links of a head, its tearing-effect input, and the references of a canvas's lock (R59 to R62, R244, R251,
R252, R256, R382, R422, R431). -/

namespace Sys2Proof.Machine

/-! ### Tearing effect (R252) -/

/-- A head in command mode that runs a raster. -/
def State.inCommand (s : State) (h : DieIx) : Bool := (s.die h).head.running && (s.die h).fField Reg.scnTeCtrl 0 0 == 1

/-- The state with a head's command-mode state changed. -/
def State.onTe (s : State) (h : DieIx) (f : TeState → TeState) : State :=
  s.onDie h fun x => { x with head := { x.head with te := f x.head.te } }

/-- An edge of the polarity that SCN_TE_CTRL.POL in force asks for (R251). -/
def State.teCounts (s : State) (h : DieIx) (rising : Bool) : Bool := ((s.die h).fField Reg.scnTeCtrl 1 1 == 0) == rising

/-- An edge that counts: it ends the wait, or is held as early. Further early edges merge with it. -/
def State.teEdge (s : State) (h : DieIx) : State :=
  if (s.die h).head.te.waiting then s.onTe h fun t => { t with waiting := false, edgeAt := s.gsc }
  else
    let held := (s.die h).head.te.earlyEdge
    (s.onTe h fun t => { t with earlyEdge := true, edgeAt := if held then t.edgeAt else s.gsc }).raiseHead h Reg.scnEvt 0x08

/-- TE_EDGE. -/
def fxTeEdge (h : DieIx) (rising : Bool) (s : State) : State :=
  if s.inCommand h = false ∨ s.teCounts h rising = false then s else s.teEdge h

/-- Two nominal frame periods have passed since the previous frame's edge. -/
def State.teLate (s : State) (h : DieIx) : Bool :=
  match (s.die h).head.mode with
  | some m => decide (2 * 10 ^ 11 ≤ (s.gsc - (s.die h).head.te.edgeAt) * m.rate)
  | none => false

/-- TE_TIMEOUT: the head proceeds as though an edge had come, and transmits the latest buffer that was both transmitted and complete.
An edge in the same fabric cycle wins. -/
def fxTeTimeout (h : DieIx) (edge : Bool) (s : State) : State :=
  if s.inCommand h = false ∨ (s.die h).head.te.waiting = false ∨ s.teLate h = false then s
  else if edge then s.teEdge h
  else
    let s1 := s.onTe h fun t => { t with waiting := false, repeatFrame := t.good.isSome, edgeAt := s.gsc }
    (s1.count h Reg.scnRepeatCnt 1).raiseHead h Reg.scnEvt 0x04

/-! ### Output links (R244, R256) -/

/-- A head that may drive a link: its die is out of reset, its partner has not taken its place (R26), and no Replay canvas holds it
(R70). -/
def State.drivesLink (s : State) (h : DieIx) : Bool :=
  s.present h && !(s.die h).boot.inReset && s.field h Reg.scnStatus 2 2 == 0 && !((s.headCanvas h).any Canvas.replays)

/-- LINK_DOWN: a link drops. While the sink's hot-plug detect stays asserted, a head that runs counts the loss (R382). -/
def fxLinkDown (h : DieIx) (hotPlug : Bool) (s : State) : State :=
  let x := (s.die h).head
  if x.linkUp = false then s
  else if hotPlug && x.running then (s.dropLink h).startDown h else s.dropLink h

/-- LINK_UP: a link completes training. From the second time on it is a retraining. -/
def fxLinkUp (h : DieIx) (s : State) : State :=
  let x := (s.die h).head
  if s.drivesLink h = false ∨ x.linkUp = true then s
  else
    let s1 := s.onDie h fun y => ({ y with head := { y.head with linkUp := true, trained := true } } : Die).setField Reg.scnStatus 0 0 1
    (if x.trained then s1.count h Reg.scnRetrainCnt 1 else s1).raiseHead h Reg.scnEvt 0x02

/-- HDCP_FAIL: from the next frame boundary on, protected layers show their absent-source fill on this head. -/
def fxHdcpFail (h : DieIx) (s : State) : State :=
  (s.onDie h fun x => ({ x with head := { x.head with hdcp := none } } : Die).setField Reg.scnStatus 5 5 0).raiseHead h Reg.scnEvt 0x10

/-- HDCP_AUTHENTICATED: encryption is active on a trained link that asks for it (SCN_CTRL.HDCP_REQ), for a content type. -/
def fxHdcpAuthenticated (h : DieIx) (contentType : Fin 2) (s : State) : State :=
  let x := s.die h
  if x.head.linkUp = false ∨ x.fField Reg.scnCtrl 14 14 = 0 ∨ s.otp.features.getLsbD 0 = false then s
  else s.onDie h fun y => ({ y with head := { y.head with hdcp := some contentType } } : Die).setField Reg.scnStatus 5 5 1

/-! ### References of a lock (R60 to R62, R422) -/

/-- A reference as the lock takes it: its time and error, and a state that waits for it. -/
def Lock.reference (x : Lock) (now : Nat) (err : Int) : Lock :=
  let y := { x with lastRef := now, phaseErr := err }
  match x.state with
  | .free => { y with state := .acquire, good := 0, bad := 0, edges := 0 }
  | .holdover => if 2 ≤ x.edges + 1 then { y with state := .acquire, good := 0, bad := 0, edges := 0 } else { y with edges := x.edges + 1 }
  | .acquire => y
  | .locked => y

/-- CLK_LOCK_CFG.OFFSET in force on a canvas: signed lines from the reference to its frame boundary, within ±T/2 (R60, R61). -/
def State.lockOffset (s : State) (c : Canvas) : Int :=
  let t : Int := (c.binding.vtotal / 2 : Nat)
  clampInt (-t) t (signedOf 14 ((s.die c.stepDie).fField Reg.clkLockCfg 20 7))

/-- The place of a canvas's raster in its frame, in pixel clocks from the start of line A; `pixel` is the pixel clock of its line. -/
def State.rasterClocks (s : State) (c : Canvas) (pixel : Nat) : Int :=
  let b := c.binding
  let line := (s.die (s.leadHead c)).head.line
  (((line + b.vtotal - b.regionH) % max b.vtotal 1 * b.htotal + min pixel (b.htotal - 1) : Nat) : Int)

/-- The phase error of a place of the raster against the place where a reference asks for it, in pixel clocks, within half a frame:
positive where the raster is ahead. -/
def Canvas.clockErr (c : Canvas) (at_ want : Int) : Int := wrapped (c.binding.vtotal * c.binding.htotal) (at_ - want)

/-- The lock of a canvas takes a reference with its raster at a place: the place wanted is `want`, less OFFSET lines, or that of the
first reference since line mode placed the raster (DESIGN CHOICE, entry 79). -/
def State.lockTo (s : State) (c : Canvas) (at_ want : Int) : State :=
  let nominal := want - s.lockOffset c * (c.binding.htotal : Nat)
  s.setLock c.id fun x =>
    let y := if x.retarget then { x with retarget := false, target := some (at_ - nominal) } else x
    y.reference s.gsc (c.clockErr at_ (nominal + y.target.getD 0))

/-- A canvas that follows a lock source: 0 genlock, 1 PTP. In command mode the lock source has no effect (R251), and a Replay canvas
has no raster (R70). -/
def State.follows (s : State) (c : Canvas) (source : Nat) : Bool :=
  c.binding.lock == source && !c.replays && !s.inCommand c.stepDie

/-- GENLOCK_EDGE: an edge of the reference that CLK_LOCK_CFG.REF names is measured against the raster: the frame boundary is to
follow it by OFFSET lines (R60). -/
def fxGenlockEdge (cv : CanvasId) (ref : Fin 9) (pixel : Nat) (s : State) : State :=
  match s.canvas cv with
  | none => s
  | some c =>
    if s.follows c 0 && (s.die c.stepDie).fField Reg.clkLockCfg 3 0 == ref.val then s.lockTo c (s.rasterClocks c pixel) 0 else s

/-- Nominal ticks, times the rate in mHz, between references of a canvas: frames by the divisor of CLK_LOCK_CFG in force. -/
def State.refDiv (s : State) (c : Canvas) : Nat := 2 ^ min 2 ((s.die c.stepDie).fField Reg.clkLockCfg 5 4)

/-- Three expected periods have passed since the last genlock edge. A PTP master's Sync interval stands in no register: its expiry is
taken as it is announced (entry 47). -/
def State.refLate (s : State) (c : Canvas) : Bool :=
  c.binding.lock == 1 || decide (3 * s.refDiv c * 10 ^ 11 ≤ (s.gsc - c.lock.lastRef) * c.binding.rate)

/-- HOLDOVER: a lock that followed a reference loses it; the last trim is held. -/
def fxHoldover (cv : CanvasId) (s : State) : State :=
  match s.canvas cv with
  | none => s
  | some c =>
    if (c.lock.state = .acquire ∨ c.lock.state = .locked) ∧ (s.follows c 0 || s.follows c 1) = true ∧ s.refLate c = true then
      s.setLock cv fun x => { x with state := .holdover, good := 0, bad := 0, edges := 0 }
    else s

/-- A frame rate in mHz as a fraction: one that a whole number of frames in 1.001 s truncates to stands for it, as 29,970 stands for
30/1.001 Hz (R36). DEDUCED, entry 80. -/
def exactRate (rate : Nat) : Nat × Nat :=
  let n := ceilDiv (rate * 1001) 1_000_000
  if rate % 1000 ≠ 0 ∧ n * 1_000_000 / 1001 = rate then (n * 1_000_000, 1001) else (rate, 1)

/-- Pixel clocks of a canvas since the latest ST 2059-1 alignment time: alignment times of a rate are whole frame periods after the
epoch (R61). -/
def Canvas.sinceAlignment (c : Canvas) (timeNs : Nat) : Int :=
  let (n, d) := exactRate c.binding.rate
  let part := timeNs * n % (10 ^ 12 * d)
  ((part * (c.binding.vtotal * c.binding.htotal) / (10 ^ 12 * d) : Nat) : Int)

/-- A canvas under PTP takes a Sync message, and leaves LOCKED for a new grandmaster whose phase is out. -/
def State.ptpCanvas (s : State) (c : Canvas) (m : PtpMsg) (changed : Bool) : State :=
  if s.follows c 1 = false then s
  else
    let pixel := ((m.pixels.find? fun e => e.1 == c.id).map Prod.snd).getD 0
    let at_ := s.rasterClocks c pixel
    let want := c.sinceAlignment m.timeNs
    let s1 := if m.sync then s.lockTo c at_ want else s
    let err := match s1.canvas c.id with
      | some k => if m.sync then k.lock.phaseErr else
          c.clockErr at_ (want - s.lockOffset c * (c.binding.htotal : Nat) + k.lock.target.getD 0)
      | none => 0
    if changed && decide (64 < err.natAbs) then
      s1.setLock c.id fun x => if x.state = .locked then { x with state := .acquire, good := 0, bad := 0 } else x
    else s1

/-- PTP_MESSAGE: on the port that CLK_PTP_CTRL of die 0 names, the message sets the offset and the time map. -/
def fxPtpMessage (d : DieIx) (m : PtpMsg) (s : State) : State :=
  if s.field 0 Reg.clkPtpCtrl 0 0 = 0 ∨ s.field 0 Reg.clkPtpCtrl 3 1 ≠ d.val then s
  else
    let changed := s.ptp.grandmaster != some m.grandmaster
    let s1 := { s with ptp := { grandmaster := some m.grandmaster, offsetNs := m.offsetNs } }
    let s2 := s1.setReg 0 Reg.clkPtpOffset (BitVec.ofInt 32 m.offsetNs)
    let s3 := if changed then s2.raise 0 Reg.clkEvt 0x04 else s2
    s3.canvases.foldl (fun s c => s.ptpCanvas c m changed) s3

def execTeEdge (e : TeEdge) (s : State) : Host.Outcome State Fault Refusal := .next (fxTeEdge e.head e.rising s)
def execTeTimeout (e : TeExpiry) (s : State) : Host.Outcome State Fault Refusal := .next (fxTeTimeout e.head e.edge s)
def execLinkDown (h : DieIx) (hotPlug : Bool) (s : State) : Host.Outcome State Fault Refusal := .next (fxLinkDown h hotPlug s)
def execLinkUp (h : DieIx) (s : State) : Host.Outcome State Fault Refusal := .next (fxLinkUp h s)
def execHdcpFail (h : DieIx) (s : State) : Host.Outcome State Fault Refusal := .next (fxHdcpFail h s)
def execHdcpAuthenticated (h : DieIx) (contentType : Fin 2) (s : State) : Host.Outcome State Fault Refusal :=
  .next (fxHdcpAuthenticated h contentType s)
def execGenlockEdge (cv : CanvasId) (edge : RefEdge) (s : State) : Host.Outcome State Fault Refusal :=
  .next (fxGenlockEdge cv edge.ref edge.pixel s)
def execHoldover (cv : CanvasId) (s : State) : Host.Outcome State Fault Refusal := .next (fxHoldover cv s)
def execPtpMessage (d : DieIx) (m : PtpMsg) (s : State) : Host.Outcome State Fault Refusal := .next (fxPtpMessage d m s)

end Sys2Proof.Machine
end

