-- ==== Sys2Proof/Machine/Ras.lean ====
section
/-! DEFINITION. Background work and its debts, Gaide links that fail with the routes left, and the management port (R21 to R23, R374
to R378, R404, R416, R427). -/

namespace Sys2Proof.Machine

/-! ### Debts (R376, Table 14.2) -/

/-- The debt of a task after a number of periods. -/
def Debt.owed (x : Debt) (periods : Nat) : Nat := periods - x.repaid

/-- A task of a limit does one unit of work after a number of periods: it repays debt where there is some. -/
def Debt.work (x : Debt) (periods limit : Nat) : Debt :=
  let before := x.owed periods
  let after := before - 1
  { done := x.done + 1, repaid := if 0 < before then x.repaid + 1 else x.repaid,
    atLimit := decide (limit ≤ before) || (x.atLimit && decide (limit ≤ 2 * after)) }

/-- Fabric cycles of a die since its reset, 15 to a tick. -/
def State.fabricCycles (s : State) (d : DieIx) : Nat := 15 * (s.gsc - (s.die d).boot.resetAt)

/-- Words of a Big Top bank. -/
def bankWords : Nat := 40_960

/-- The 64-byte word of Big Top that is word k of a bank (R161). -/
def bankWord (bank k : Nat) : Nat := 64 * k + (Nat.xor (Nat.xor bank k) (k / 64)) % 64

/-- Complete passes of scrub over every bank of a die. -/
def Die.scrubPasses (x : Die) : Nat := x.scrub.toList.foldl (fun m b => min m (b.done / bankWords)) (x.scrub[0].done / bankWords)

/-- Greatest scrub debt of any bank of a die now. -/
def State.scrubDebt (s : State) (d : DieIx) : Nat :=
  (s.die d).scrub.toList.foldl (fun m b => max m (b.owed (s.fabricCycles d / 32_768))) 0

/-- BIG_TOP_SCRUB_STEP: the next word of a bank is read, checked and rewritten; an uncorrectable one is written back poisoned
(R377). -/
def fxBigTopScrubStep (d : DieIx) (bank : Fin 64) (r : EccResult) (s : State) : State :=
  if s.present d = false ∨ (s.die d).boot.inReset = true then s
  else
    let x := (s.die d).scrub[bank.val]
    let w := bankWord bank.val (x.done % bankWords)
    let old := (s.die d).scrubPasses
    let worst := min 8191 (max (s.field d Reg.secScrub 12 0) (s.scrubDebt d))
    let s1 := s.onDie d fun y =>
      let z := y.setField Reg.secScrub 12 0 worst
      { z with scrub := z.scrub.set bank.val (x.work (s.fabricCycles d / 32_768) 4096) bank.isLt }
    let s2 := if old < (s1.die d).scrubPasses then s1.count d Reg.secScrubPass 1 else s1
    match r with
    | .clean => s2
    | .corrected => s2.eccError d (.bigTop (64 * w)) false
    | .uncorrectable => (s2.eccError d (.bigTop (64 * w)) true).onDie d fun y =>
        { y with bigTopPoison := if y.bigTopPoison.contains w then y.bigTopPoison else y.bigTopPoison ++ [w] }

/-- The byte address of the k-th 128-byte access unit of a DRAM channel (R187). -/
def channelUnit (channel k : Nat) : Nat :=
  let base := 512 * (k / 2)
  let bit8 := (channel + base / 2 ^ 16 % 2 + base / 2 ^ 24 % 2) % 2
  base + 256 * bit8 + 128 * (k % 2)

/-- Access units of a channel. -/
def State.channelUnits (s : State) : Nat := max 1 (s.straps.dramGib * 2 ^ 30 / 256)

/-- DRAM_PATROL_SCRUB_STEP: the next access unit of a channel is checked. -/
def fxDramPatrolScrubStep (d : DieIx) (channel : Fin 2) (r : EccResult) (s : State) : State :=
  if s.present d = false ∨ (s.die d).boot.trained = false then s
  else
    let x := (s.die d).patrol[channel.val]
    let a := channelUnit channel.val (x.done % s.channelUnits)
    let s1 := s.onDie d fun y =>
      { y with patrol := y.patrol.set channel.val (x.work (s.fabricCycles d / 262_144) 4096) channel.isLt }
    match r with
    | .clean => s1
    | .corrected => s1.eccError d (.dram a) false
    | .uncorrectable => (s1.eccError d (.dram a) true).onDie d fun y =>
        { y with dramPoison := if y.dramPoison.contains (a / 128) then y.dramPoison else y.dramPoison ++ [a / 128] }

/-- TELEMETRY_SAMPLE: RM3 of die 0 takes one sensor sample. -/
def fxTelemetrySample (s : State) : State :=
  { s with sns := { s.sns with telemetry := s.sns.telemetry.work (s.gsc / 10_000) 64 } }

/-! ### DDR5 calibration (R378) -/

/-- A channel's calibration has fallen due: 128 ms after the last. -/
def State.calDue (s : State) (d : DieIx) (channel : Fin 2) : Bool := decide ((s.die d).calDone[channel.val] + 12_800_000 ≤ s.gsc)

/-- The head whose blanking a die takes is in it, or runs no raster. -/
def State.inBlanking (s : State) (d : DieIx) : Bool :=
  let x := (s.die (s.frameHead d)).head
  !x.running || x.mode.any fun m => decide (m.h ≤ x.line)

/-- DDR5_CALIBRATION: a due calibration runs in the blanking, D0 before D1. -/
def fxDdr5Calibration (d : DieIx) (channel : Fin 2) (s : State) : State :=
  if (s.die d).boot.trained = false ∨ s.calDue d channel = false ∨ s.inBlanking d = false ∨
      (channel.val = 1 ∧ s.calDue d 0 = true) then s
  else s.onDie d fun x => { x with calDone := x.calDone.set channel.val s.gsc channel.isLt }

/-! ### Gaide links (R21 to R23, R375) -/

/-- The state with a link changed at both ends. -/
def State.onLinkEnds (s : State) (d : DieIx) (k : Fin 4) (f : GaideLink → GaideLink) : State :=
  match linkPeer s.straps.part d k with
  | none => s
  | some e => (s.onDie d fun x => x.onLink k f).onDie e fun x => x.onLink k f

/-- A packet under way whose route crosses a link that failed takes its new fixed route (R23). -/
def State.reroute (s : State) : State :=
  let fix (m : GaideMsg) : GaideMsg := if (s.follow m.src m.links).isNone then { m with links := s.packetRoute m.src m.dst } else m
  { s with gaide := s.gaide.map fix }

/-- A link is declared failed: at both ends, reported and counted by the die that finds it (entry 48). -/
def State.failLink (s : State) (d : DieIx) (k : Fin 4) : State :=
  (((s.onLinkEnds d k fun _ => { up := false, failed := true, run := 0 }).count d Reg.secCeOther 1).raise 0 Reg.secEvt 0x20).reroute

/-- GAIDE_FLIT_ERROR: a flit is retried, which counts; the 16th retry of one flit fails the link. -/
def fxGaideFlitError (d : DieIx) (link : Fin 4) (again : Bool) (s : State) : State :=
  if s.linkUp d link = false then s
  else
    let run := if again then (s.die d).links[link.val].run + 1 else 1
    let s1 := s.onDie d fun x =>
      let y := (x.onLink link fun l => { l with run := run }).count (Reg.gdeRetry link.val) 1
      ((y.count Reg.secCeOther 1).setReg Reg.secEccLast (BitVec.ofNat 32 (10 + 32 * link.val))).setReg Reg.secEccAddr
        (Config.flitAddress s.free)
    let s2 := { s1 with free := s1.free + 1 }
    if 16 ≤ run then s2.failLink d link else s2

/-- GAIDE_LANE_LOSS. -/
def fxGaideLaneLoss (d : DieIx) (link : Fin 4) (s : State) : State := if s.linkUp d link then s.failLink d link else s

/-! ### The management port (R404, R416, R427) -/

/-- A request of Table 14.7 as a vendor-defined message. An operation without a row there changes nothing. -/
def State.mctpRequest (s : State) (op : Nat) (data : List Byte) : State :=
  match op with
  | 1 => s.authRequest .mctp data
  | 2 => s.attestRequest .mctp data
  | 3 => s.otpRequest .mctp data
  | 4 => s.keystoreRequest .mctp data
  | 5 => s.auditRequest .mctp data
  | 6 => s.srmRequest .mctp data
  | 7 => s.bootRequest .mctp data
  | _ => s

/-- MCTP_MESSAGE. A sensor that is read changes nothing. -/
def fxMctpMessage (m : MctpMsg) (s : State) : State :=
  match m with
  | .endStandby => s.endStandby
  | .store => s.storeSettings .mctp
  | .request op data => s.mctpRequest op.val data
  | .readSensor _ => s

def execBigTopScrubStep (d : DieIx) (bank : Fin 64) (r : EccResult) (s : State) : Host.Outcome State Fault Refusal :=
  .next (fxBigTopScrubStep d bank r s)
def execDramPatrolScrubStep (d : DieIx) (channel : Fin 2) (r : EccResult) (s : State) : Host.Outcome State Fault Refusal :=
  .next (fxDramPatrolScrubStep d channel r s)
def execTelemetrySample (s : State) : Host.Outcome State Fault Refusal := .next (fxTelemetrySample s)
def execDdr5Calibration (d : DieIx) (channel : Fin 2) (s : State) : Host.Outcome State Fault Refusal := .next (fxDdr5Calibration d channel s)
def execGaideFlitError (d : DieIx) (link : Fin 4) (again : Bool) (s : State) : Host.Outcome State Fault Refusal :=
  .next (fxGaideFlitError d link again s)
def execGaideLaneLoss (d : DieIx) (link : Fin 4) (s : State) : Host.Outcome State Fault Refusal := .next (fxGaideLaneLoss d link s)
def execMctpMessage (m : MctpMsg) (s : State) : Host.Outcome State Fault Refusal := .next (fxMctpMessage m s)

end Sys2Proof.Machine
end

