-- ==== Sys2Proof/Machine/View.lean ====
section
/-! DEFINITION. What a read of a register returns (R6 to R9, R90, R189, R224, R238, R257, R282, R312, R342, R343, R371, R405,
R406, R431 to R434): the register file, and the fields that show state held elsewhere. A read changes nothing but what its own
row says. -/

namespace Sys2Proof.Machine

/-- Put fields into a word: each is a lowest bit and a value. -/
def packFields (l : List (Nat × Nat)) : Nat := (l.map fun e => e.2 * 2 ^ e.1).sum

/-- Word i of a number of many words. -/
def wordOf (v i : Nat) : Nat := v / 2 ^ (32 * i) % 2 ^ 32

/-! ### Engines and Carousels -/

/-- The neural domain of a die is power-gated: in OP3, during a restart, while latched off, in SAFE, and in standby. -/
def State.gated (s : State) (d : DieIx) : Bool :=
  let x := (s.die d).sfn
  s.power.point == .op3 || x.restart.isSome || x.latchedOff || x.phase == .safe || s.power.standby

/-- An engine of a die has an op in its queue. -/
def State.busy (s : State) (d : DieIx) (u : UnitIx) : Bool := (s.die d).inflight.any fun i => i.unit == u

/-- MXE_STATUS. -/
def State.mxeStatus (s : State) (d : DieIx) (e : EngIx) : Nat :=
  packFields [(0, b2n (decide (e.val < s.power.point.engines))), (1, b2n (s.gated d || decide (s.power.point.engines ≤ e.val))),
    (2, b2n (s.busy d (.me e)))]

/-- STATUS of the Window Engine, the Juggler or the Motion Engine. -/
def State.unitStatus (s : State) (d : DieIx) (u : UnitIx) : Nat := packFields [(0, b2n (s.gated d)), (1, b2n (s.busy d u))]

/-- The stream of a Carousel. -/
def Die.streamOf (x : Die) (d : DieIx) (c : CrsIx) (k : Nat) : Option Stream :=
  (x.streams.find? fun e => e.1 == { die := d, crs := c, idx := Fin.ofNat 4 k }).map Prod.snd

/-- The code of a stream's state (Table 7.11). -/
def StreamState.code : StreamState → Nat
  | .idle => 0
  | .running => 1
  | .waitTsl => 2
  | .waitCredit => 3

/-- CRS_STREAM. -/
def runWord (x : Option Stream) : Nat :=
  match x with
  | none => 0
  | some t => packFields [(0, t.pc % 64), (6, t.state.code), (16, t.prog.toNat)]

/-- CRS_STATUS: Carousels 12 to 47 belong to the neural domain. -/
def State.crsStatus (s : State) (d : DieIx) (c : CrsIx) : Nat :=
  let st (k : Nat) : Nat := (((s.die d).streamOf d c k).map fun t => t.state.code).getD 0
  let neural := decide (12 ≤ c.val)
  packFields ([(0, b2n (neural && s.gated d)), (1, b2n neural)] ++
    ((List.range 4).map fun k => (2 + k, b2n (decide (0 < st k)))) ++ (List.range 4).map fun k => (6 + k, b2n (decide (1 < st k))))

/-- Threads of some registers that a cluster holds: its 2 MiB file in vector registers of 64 lanes of 32 bits, at most 1,024 threads
(R201). -/
def threadsOf (regs : Nat) : Nat := min 1024 (2 ^ 21 / (64 * 4 * max regs 1))

/-- Threads that a cluster of a die holds of the kernels whose items it works on. -/
def State.threadRoom (s : State) (d : DieIx) : Nat :=
  let fw := s.reg d Reg.detClassHi
  let ops := (s.die d).inflight.filterMap fun i => if i.unit == .jgl then (s.canvas i.canvas).map fun c => (c.opOf i.op).opcode else none
  (ops.map fun o => threadsOf (Config.kernelRegs fw o)).foldl max 0

/-- Registers of engines and Carousels that show state. -/
def State.engineView (s : State) (d : DieIx) (off : Nat) : Option Nat :=
  if off = Reg.mxeStatus 0 then some (s.mxeStatus d 0)
  else if off = Reg.mxeStatus 1 then some (s.mxeStatus d 1)
  else if off = Reg.winStatus then some (s.unitStatus d .win)
  else if off = Reg.motStatus then some (s.unitStatus d .mot)
  else if off = Reg.jglStatus then some (s.unitStatus d .jgl)
  else if Reg.jglThreads 0 ≤ off ∧ off < Reg.jglThreads 4 then
    some (if s.busy d .jgl then min (s.threadRoom d) (Config.residentThreads d.val ((off - Reg.jglThreads 0) / 4) s.gsc) else 0)
  else if 0x40_1000 ≤ off ∧ off < 0x40_1C00 then
    let c : CrsIx := Fin.ofNat 48 ((off - 0x40_1000) / 0x40)
    let k := (off - 0x40_1000) % 0x40
    if k = 0 then some (s.crsStatus d c)
    else if k < 0x14 then some (runWord ((s.die d).streamOf d c (k / 4 - 1)))
    else none
  else none

/-! ### Composer, scan-out, Turnstiles, device time -/

/-- Registers of those blocks that show state. -/
def State.pictureView (s : State) (d : DieIx) (off : Nat) : Option Nat :=
  let x := s.die d
  let inForce := x.field Reg.cmpCommit 2 2 == 1
  if off = Reg.cmpCntLo then some (wordOf x.selectedChoice.toNat 0)
  else if off = Reg.cmpCntHi then some (wordOf x.selectedChoice.toNat 1)
  else if off = Reg.cmpLutData then
    some (sGet lutReset (if inForce then x.lutForce else x.lut) (x.field Reg.cmpLutAddr 10 0)).toNat
  else if off = Reg.cmpCoefData then
    some (sGet coefReset (if inForce then x.coefForce else x.coef) (x.field Reg.cmpCoefAddr 10 0)).toNat
  else if 0x38_1000 ≤ off ∧ off < 0x38_1800 ∧ (off - 0x38_1000) % 0x80 = 0x4C then
    some (s.layerRtWord d (Fin.ofNat 16 ((off - 0x38_1000) / 0x80)))
  else if off = Reg.scnLine then some (x.head.line % 8192)
  else if off = Reg.scnStatus then some (setBits (x.reg off) 4 4 (b2n x.head.te.waiting)).toNat
  else if inForce && shadowOffs.contains off then some (x.inForce off).toNat
  else if off = Reg.tslStatus then
    some (packFields [(0, 15_360 - (x.tsl.objs.filter fun e => decide (1024 ≤ e.1)).length), (16, x.tsl.ctxs.length)])
  else if off = Reg.detGscLo then some (wordOf s.gsc 0)
  else if off = Reg.detGscHi then some (wordOf s.gsc 1)
  else none

/-! ### Safety Net -/

/-- SFN_STATE. -/
def State.sfnState (s : State) (d : DieIx) : Nat :=
  let x := (s.die d).sfn
  let phase : Nat := match x.phase with
    | .init => 0
    | .armed => 1
    | .safe => 2
  packFields [(0, phase), (2, b2n (s.neuralOn d)), (3, b2n x.restart.isSome), (4, b2n x.latchedOff), (5, b2n (!x.faults.isEmpty)),
    (6, b2n x.injBusy)]

/-- Registers of the Safety Net that show state. -/
def State.sfnView (s : State) (d : DieIx) (off : Nat) : Option Nat :=
  let x := (s.die d).sfn
  let ig := s.ig (Fin.ofNat 32 (s.field 0 Reg.sfnIgSel 4 0))
  if off = Reg.sfnState then some (s.sfnState d)
  else if off = Reg.sfnWindow then some (packFields [(0, min x.run 2), (2, x.in64)])
  else if off = Reg.sfnInjCtrl then some (setBits (s.reg d off) 1 1 (b2n x.injBusy)).toNat
  else if Reg.sfnEchoCtrl ≤ off ∧ off ≤ Reg.sfnIgTripCnt ∧ d.val ≠ 0 then some 0
  else if off = Reg.sfnIgCfg then some ig.cfg.toNat
  else if off = Reg.sfnIgLimit then some ig.limit.toNat
  else if off = Reg.sfnIgStatus then some (packFields [(0, ig.last.toNat), (16, b2n ig.tripped), (17, b2n ig.timeout)])
  else none

/-! ### Security, settings -/

/-- SEC_BOOT.STATE. -/
def BootPhase.code : BootPhase → Nat
  | .rom => 0
  | .waitHost => 1
  | .verifying => 2
  | .running => 3
  | .refused => 4

/-- SEC_ROLE: seconds left are rounded up (entry 50). -/
def State.roleWord (s : State) : Nat :=
  let left := match s.sec.pf with
    | some x => ceilDiv (x.until_ - s.gsc) (ticksOfSeconds 1)
    | none => 0
  packFields [(0, s.role .pf), (2, s.role .mctp), (16, left % 4096)]

/-- Registers of the security block that show state; offsets 0x008 to 0x054 read 0 on dies other than 0. -/
def State.secView (s : State) (d : DieIx) (off : Nat) : Option Nat :=
  let x := s.die d
  if off = Reg.secId then some (setBits (x.reg off) 8 8 (b2n s.straps.bootHost)).toNat
  else if off = Reg.secBoot then some (setBits (x.reg off) 2 0 x.boot.phase.code).toNat
  else if Reg.secRole ≤ off ∧ off ≤ Reg.secAuthFailCnt ∧ d.val ≠ 0 then some 0
  else if off = Reg.secRole then some s.roleWord
  else if Reg.secNonce 0 ≤ off ∧ off < Reg.secNonce 8 then
    some (wordOf (s.sec.nonce.getD 0).toNat ((off - Reg.secNonce 0) / 4))
  else if off = Reg.secScrub then some (min 8191 (max (x.field off 12 0) (s.scrubDebt d)))
  else if off = Reg.secDownMs then
    some (satCount (x.reg off) ((x.head.downSince.map fun t => (s.gsc - t) / 100_000).getD 0)).toNat
  else none

/-- The NVM_ range of die 0. -/
def State.nvmView (s : State) (d : DieIx) (off : Nat) : Option Nat :=
  if 0x52_0000 ≤ off ∧ off < 0x52_1000 then
    if d.val ≠ 0 then some 0
    else if off = Reg.nvmWear then some (packFields [(0, s.nvm.maxWear % 2 ^ 17), (17, s.nvm.live.toNat)])
    else if off = Reg.nvmAuditHead then some s.nvm.auditHead.toNat
    else if off = Reg.nvmStoreCnt then some s.nvm.storeCount.toNat
    else if Reg.nvmAuditData 0 ≤ off ∧ off < Reg.nvmAuditData 16 then
      some ((s.nvm.captured.map fun e => leAt e.bytes (off - Reg.nvmAuditData 0) 4).getD 0)
    else none
  else none

/-! ### Clocks, power, sense and Gaide -/

/-- CLK_PIX_DIV: the nominal ratio rounded half-even to 2⁻²⁴ (R410), scaled by the trim and rounded the same way (entry 50). -/
def pixelDivider (m : Mode) (trim : Int) : Nat :=
  let den := m.htotal * m.vtotal * m.rate
  let half (a b : Nat) : Nat :=
    let q := a / max b 1
    let r := 2 * (a % max b 1)
    if r < b then q else if b < r then q + 1 else q + q % 2
  half (half (24 * 10 ^ 12 * 2 ^ 24) den * 10 ^ 8) (10 ^ 8 + trim).toNat

/-- Registers of clocks and power that show state. -/
def State.clockView (s : State) (d : DieIx) (off : Nat) : Option Nat :=
  let x := s.die d
  let lock := (s.headCanvas d).map fun c => c.lock
  let p := s.power.point
  let l := x.thermal.level
  if off = Reg.clkId then some (setBits (x.reg off) 8 8 (b2n s.straps.refPcie)).toNat
  else if off = Reg.clkStatus then
    some (packFields [(0, b2n x.boot.pllLocked), (1, p.meDiv l - 1), (6, p.jglDiv l - 1)])
  else if off = Reg.clkLockState then
    some ((lock.map fun k => packFields [(0, k.state.code), (2, bitsOfInt 24 k.phaseErr)]).getD 0)
  else if off = Reg.clkTrim then some ((lock.map fun k => bitsOfInt 17 k.trim).getD 0)
  else if off = Reg.clkPixDiv then
    some ((x.head.mode.map fun m =>
      let r := pixelDivider m ((lock.map fun k => k.trim).getD 0)
      packFields [(0, r / 2 ^ 24 % 256), (8, r % 2 ^ 24)]).getD 0)
  else if off = Reg.pwrStatus then
    some (packFields [(0, p.code.val), (2, b2n s.power.target.isSome), (3, l.val), (6, b2n s.power.standby),
      (16, x.field off 25 16)])
  else none

/-- Registers of sense and control, on die 0, and of Gaide that show state. -/
def State.ioView (s : State) (d : DieIx) (off : Nat) : Option Nat :=
  if 0x58_0000 ≤ off ∧ off < 0x58_1000 then
    let t := s.task (Fin.ofNat 64 (s.field 0 Reg.snsTaskSel 5 0))
    if d.val ≠ 0 then some 0
    else if Reg.snsPwm 0 ≤ off ∧ off < Reg.snsPwm 8 then
      some (setBits (s.reg 0 off) 27 27 (b2n (s.heldPwm (Fin.ofNat 8 ((off - Reg.snsPwm 0) / 4))))).toNat
    else if Reg.snsTaskData 0 ≤ off ∧ off < Reg.snsTaskData 4 then some (s.sns.data.toList.getD ((off - Reg.snsTaskData 0) / 4) 0).toNat
    else if off = Reg.snsTaskStatus then some t.status.val
    else if off = Reg.snsTaskResult 0 then some (leAt t.result 0 4)
    else if off = Reg.snsTaskResult 1 then some (leAt t.result 4 4)
    else none
  else if Reg.gdeLink 0 ≤ off ∧ off < Reg.gdeLink 4 then
    let k : Fin 4 := Fin.ofNat 4 ((off - Reg.gdeLink 0) / 4)
    let l := (s.die d).links[k.val]
    match linkPeer s.straps.part d k with
    | none => some 0
    | some e => some (packFields [(0, 1), (1, b2n (l.up && !l.failed)), (2, b2n l.failed), (3, e.val)])
  else none

/-! ### Reads -/

/-- A register of a die window, at an aligned offset of a die that the part contains: a latched high word where its low word was
the last of the two read, what shows state, else the register file; 0 where no register lies. A write-only field reads 0. A die that is held in reset shows the
Reset column (R8), with the straps. -/
def State.dieView (s : State) (d : DieIx) (off : Nat) : Word :=
  match sLookup (s.die d).latch off with
  | some w => w
  | none =>
    let held := (s.die d).boot.inReset && off != Reg.secId && off != Reg.clkId
    match if held then none else (s.engineView d off).or ((s.pictureView d off).or ((s.sfnView d off).or ((s.secView d off).or
        ((s.nvmView d off).or ((s.clockView d off).or (s.ioView d off)))))) with
    | some v => BitVec.ofNat 32 v
    | none => if (dieRow off).isSome then s.reg d off else 0

/-- Registers whose reads latch the high word of the same value (R90, R189, R224, R226, R257, R312); the word that they latch is that
of the next register. -/
def latchingLo : List Nat :=
  [Reg.cmpCntLo, Reg.cmpWbFrameLo, Reg.jglSatLo, Reg.jglNanLo, Reg.motBlocksLo, Reg.detGscLo, Reg.detTimingLo, Reg.detCkptLastLo] ++
    (List.finRange 2).flatMap (fun e => [Reg.mxeSatLo e, Reg.mxeNanLo e]) ++
    (List.finRange 48).flatMap fun c => [Reg.crsBytesLo c, Reg.crsCodedLo c]

/-- The part after a read of a register of a die: a _LO register has latched its high word, and a _HI register's latched word has been
returned, so that the next read of it without its _LO gives the live word (R90). The command table has rows for the reads that latch;
every other read of a register is this operation's. -/
def State.afterRead (s : State) (d : DieIx) (off : Nat) : State :=
  let s1 := s.onDie d fun x => { x with latch := sErase x.latch off }
  if latchingLo.contains off then
    let s2 := s1.onDie d fun x => { x with latch := sErase x.latch (off + 4) }
    s2.onDie d fun x => { x with latch := sInsert x.latch (off + 4) (s2.dieView d (off + 4)) }
  else s1

/-- A read of a register of a die: the word and the part after it. -/
def State.readDie (s : State) (d : DieIx) (off : Nat) : Word × State := (s.dieView d off, s.afterRead d off)

/-- PF Device ID of a part. -/
def partId : Part → Nat
  | .pv2200 => 0x2200
  | .pv4400 => 0x4400
  | .pv8800 => 0x8800

/-- A register of the HST_ block of die 0, by offset in it. -/
def State.hostView (s : State) (off : Nat) : Word :=
  if off = 0 then BitVec.ofNat 32 (packFields [(0, partId s.straps.part), (16, 1), (24, s.nDies)])
  else if (findRow hstRows off).isSome then s.host.reg off else 0

/-- The part after a read of BAR0. -/
def State.afterBar0 (s : State) (addr bytes : Nat) : State :=
  let d := addr / 0x100_0000
  let off := addr % 0x100_0000
  if bytes ≠ 4 ∨ addr % 4 ≠ 0 ∨ s.nDies ≤ d ∨ (0x10_0000 ≤ off ∧ off < 0x10_1000) then s else s.afterRead (dieOf d) off

/-- A read of BAR0 of some bytes at a bus offset. -/
def State.readBar0 (s : State) (addr bytes : Nat) : Word :=
  let d := addr / 0x100_0000
  let off := addr % 0x100_0000
  if bytes ≠ 4 ∨ addr % 4 ≠ 0 ∨ s.nDies ≤ d then 0xFFFF_FFFF
  else if 0x10_0000 ≤ off ∧ off < 0x10_1000 then (if d = 0 then s.hostView (off - 0x10_0000) else 0)
  else s.dieView (dieOf d) off

/-- The word of a vector's MSI-X table entry. -/
def Msix.word (m : Msix) (k : Nat) : Word :=
  match k % 4 with
  | 0 => BitVec.ofNat 32 (m.addr.toNat % 2 ^ 32)
  | 1 => BitVec.ofNat 32 (m.addr.toNat / 2 ^ 32)
  | 2 => m.data
  | _ => BitVec.ofNat 32 (b2n m.masked)

/-- A read of a function BAR: the function page, the MSI-X table and the pending bits (R315, R343). -/
def State.readFnBar (s : State) (f : FnIx) (off bytes : Nat) : Word :=
  let h := s.host
  let x := h.fn f
  if bytes ≠ 4 ∨ off % 4 ≠ 0 then 0xFFFF_FFFF
  else if off = Reg.hstFnId then BitVec.ofNat 32 f.val
  else if off = Reg.hstFnStatus then BitVec.ofNat 32 (packFields [(0, b2n x.ready), (1, b2n x.disabled), (2, b2n x.aqErr)])
  else if off = Reg.hstFnQuota then BitVec.ofNat 32 (h.quota f)
  else if off < 0x1000 then (if (findRow hstFnRows off).isSome then h.fnReg f off else 0)
  else if 0x1_0000 ≤ off ∧ off < 0x1_8000 then (x.vector ((off - 0x1_0000) / 16)).word (off % 16 / 4)
  else if 0x1_8000 ≤ off ∧ off < 0x1_8100 then
    BitVec.ofNat 32 ((List.range 32).map fun i => 2 ^ i * b2n (x.vector ((off - 0x1_8000) * 8 + i)).pendingBit).sum
  else 0

end Sys2Proof.Machine
end

