-- ==== Sys2Proof/Machine/RegWrite.lean ====
section
/-! DEFINITION. REGISTER_WRITE: a write by the PF to BAR0, or by a function to its own BAR (R6 to R9, R11, R92, R240, R258, R312,
R315, R320, R334, R342, R343, R354, R396, R404 to R407, R431 to R435). Where a register has a row of its own, the write has that
row's effect (entry 13). -/

namespace Sys2Proof.Machine

/-! ### Plain registers and flags -/

/-- Bits of a register that a list of fields defines. -/
def fieldsMask (fields : List Field) : Word :=
  BitVec.ofNat 32 (fields.map fun f => (2 ^ (f.hi + 1 - f.lo) - 1) * 2 ^ f.lo).sum

/-- A register of W1C flags. -/
def isFlags (fields : List Field) : Bool := !fields.isEmpty && fields.all fun f => f.access == .w1c

/-- Flags of a die cleared by a write of 1, save those that an event sets in the same cycle (R11). -/
def State.clearFlags (s : State) (d : DieIx) (off : Nat) (value hw : Word) : State :=
  let set := (hw &&& fieldsMask (fieldsAt off)).toNat
  let s1 := if off = Reg.cmpEvt ∨ off = Reg.scnEvt then s.raiseHead d off set else s.raise d off set
  s1.setReg d off (writeWord (fieldsAt off) (s1.reg d off) value hw)

/-- The binding of a head's canvas holds a layer: its SRC, PIXFMT, SRC_XY, SRC_WH, BASE and PITCH are read-only (R227). -/
def State.boundLayer (s : State) (d : DieIx) (l : LayerIx) : Bool :=
  (s.headCanvas d).any fun c => c.binding.layers.any fun e => e.layer == l.val

/-- The word that a write leaves in a shadow. -/
def State.shadowWord (s : State) (d : DieIx) (off : Nat) (value : Word) : Word :=
  let old := s.reg d off
  let w := writeWord (fieldsAt off) old value 0
  if 0x38_1000 ≤ off ∧ off < 0x38_1800 then
    let k := (off - 0x38_1000) % 0x80
    if s.boundLayer d (Fin.ofNat 16 ((off - 0x38_1000) / 0x80)) then
      if k = 0 then setBits w 10 5 (bits old 10 5)
      else if k = 0x04 ∨ k = 0x08 ∨ k = 0x14 ∨ k = 0x18 ∨ k = 0x1C then old
      else w
    else w
  else w

/-- A register without a row of its own. -/
def State.plainWrite (s : State) (d : DieIx) (off : Nat) (value hw : Word) : State :=
  match dieRow off with
  | none => s
  | some r =>
    if isFlags r.fields then s.clearFlags d off value hw
    else if r.shadow then s.lockedWrite d fun x => x.setReg off (s.shadowWord d off value)
    else s.storeReg d off value

/-! ### Registers with effects, by block -/

/-- A write of 1 to a CLR bit. -/
def State.clears (s : State) (value : Word) (f : State → State) : State := if bit value 0 then f s else s

/-- The counter clears; `co` are the counters that increment in the same cycle, in the order of the row. -/
def State.clearWrite (s : State) (d : DieIx) (off : Nat) (value hw : Word) : Option State :=
  let co : Byte := hw.setWidth 8
  if off = Reg.mxeCntClr 0 then some (s.clears value (fxMxeCntClr d 0 co))
  else if off = Reg.mxeCntClr 1 then some (s.clears value (fxMxeCntClr d 1 co))
  else if off = Reg.winCntClr then some (s.clears value (fxWinCntClr d co))
  else if off = Reg.rmsCntClr then some (s.clears value (fxRmsCntClr d co))
  else if off = Reg.crsCntClr then some (s.clears value (fxCrsCntClr d co))
  else if off = Reg.jglCntClr then some (s.clears value (fxJglCntClr d co))
  else if off = Reg.motCntClr then some (s.clears value (fxMotCntClr d co))
  else if off = Reg.cmpCntClr then some (s.clears value (fxCmpCntClr d co))
  else if off = Reg.scnCntClr then some (s.clears value (fxScnCntClr d co))
  else if off = Reg.tslCntClr then some (s.clears value (fxTslCntClr d co))
  else if off = Reg.detCntClr then some (s.clears value (fxDetCntClr d co))
  else if off = Reg.sfnCntClr then some (s.clears value (fxSfnCntClr d (hw.setWidth 16)))
  else if off = Reg.secCntClr then some (s.clears value (fxSecCntClr d (hw.setWidth 16)))
  else if off = Reg.nvmCntClr then some (s.clears value (fxNvmCntClr co))
  else if off = Reg.pwrCntClr then some (s.clears value (fxPwrCntClr d co))
  else if off = Reg.snsCntClr then some (s.clears value (fxSnsCntClr co))
  else if off = Reg.gdeCntClr then some (s.clears value (fxGdeCntClr d co))
  else none

/-- CMP_COMMIT: VIEW is stored, and GO commits. -/
def State.commitWrite (s : State) (d : DieIx) (value : Word) : State :=
  let s1 := s.setField d Reg.cmpCommit 2 2 (bits value 2 2)
  if bit value 0 = false then s1 else if bit value 1 then fxCommitSpan d s1 else fxCommit d s1

/-- DET_REC_RPTR: unread records shrink to what lies between the pointers, unless the recorder wraps (R300). -/
def State.readPointer (s : State) (d : DieIx) (value : Word) : State :=
  (s.storeReg d Reg.detRecRptr value).onDie d fun x =>
    let size := x.ring.2
    if x.field Reg.detRecCtrl 1 1 = 1 ∨ size = 0 then x
    else { x with recorder := { x.recorder with
      used := ((x.reg Reg.detRecWptr).toNat + size - (x.reg Reg.detRecRptr).toNat % size) % size } }

/-- Composer, Turnstile and determinism registers. -/
def State.pictureWrite (s : State) (d : DieIx) (off : Nat) (value : Word) : Option State :=
  if off = Reg.cmpCommit then some (s.commitWrite d value)
  else if off = Reg.cmpLutData then some (fxCmpLutDataWrite d value s)
  else if off = Reg.cmpCoefData then some (fxCmpCoefDataWrite d value s)
  else if off = Reg.cmpHoldLimit ∧ bits value 15 0 = 0 ∧ 1 ≤ s.role .pf then some s
  else if off = Reg.tslSel then some (fxTslSelWrite d value s)
  else if off = Reg.tslWsel then some ((s.storeReg d off value).onDie d Die.showCapture)
  else if off = Reg.tslDumpCtrl then some (fxTslDumpGo d value s)
  else if off = Reg.detRecCtrl then some (fxDetRecCtrlWrite d value s)
  else if (off = Reg.detRecBaseLo ∨ off = Reg.detRecBaseHi ∨ off = Reg.detRecSize) ∧ s.field d Reg.detRecCtrl 0 0 = 1 then some s
  else if off = Reg.detRecRptr then some (s.readPointer d value)
  else none

/-- SFN_CTRL: CLEAR_LATCH of the die and, on die 0, IG_CLEAR. -/
def State.sfnTrigger (s : State) (d : DieIx) (value hw : Word) : State :=
  s.sfnCtrlWrite d value fun t =>
    let t1 := if bit value 0 then t.clearLatch d else t
    if bit value 1 && d == 0 then t1.clearIg (bit hw 1) else t1

/-- SFN_IG_CFG of the selected channel. -/
def State.igCfgWrite (s : State) (value : Word) : State :=
  let ch : Fin 32 := Fin.ofNat 32 (s.field 0 Reg.sfnIgSel 4 0)
  let old := (s.ig ch).cfg
  s.guardedWrite 0 Reg.sfnIgCfg (fieldsAt Reg.sfnIgCfg) old value fun t =>
    t.onIg ch fun c => { c with cfg := writeWord (fieldsAt Reg.sfnIgCfg) old value 0 }

/-- Safety Net registers. -/
def State.sfnWrite (s : State) (d : DieIx) (off : Nat) (value hw : Word) : Option State :=
  let ch := s.field 0 Reg.sfnIgSel 4 0
  if off = Reg.sfnTMean then some (fxSfnTMeanWrite d value s)
  else if off = Reg.sfnTMax then some (fxSfnTMaxWrite d value s)
  else if off = Reg.sfnHf then some (fxSfnHfWrite d value s)
  else if off = Reg.sfnTFlash then some (fxSfnTFlashWrite d value s)
  else if off = Reg.sfnCap then some (fxSfnCapWrite d value s)
  else if off = Reg.sfnBright then some (s.settingWrite d off 0 (s.reg d off) value)
  else if off = Reg.sfnInjCtrl then some (s.clears value (fxSfnInjGo d))
  else if off = Reg.sfnCtrl then some (s.sfnTrigger d value hw)
  else if Reg.sfnEchoCtrl ≤ off ∧ off ≤ Reg.sfnIgTripCnt then
    if d.val ≠ 0 then some s
    else if off = Reg.sfnEchoCtrl ∨ off = Reg.sfnIgSafe then some (s.settingWrite 0 off 0 (s.reg 0 off) value)
    else if off = Reg.sfnIgLimit then some (s.settingWrite 0 off ch (s.ig (Fin.ofNat 32 ch)).limit value)
    else if off = Reg.sfnIgCfg then some (s.igCfgWrite value)
    else none
  else none

/-- SEC_RESET: AUTO is stored, the named dies are reset, then the part (R379, R380). -/
def State.resetRegister (s : State) (value : Word) : State :=
  let old := s.reg 0 Reg.secReset
  s.guardedWrite 0 Reg.secReset (fieldsAt Reg.secReset) old value fun t =>
    let t1 := t.setReg 0 Reg.secReset (writeWord (fieldsAt Reg.secReset) old value 0)
    let t2 := (t1.dieList.filter fun d => d.val != 0 && bit value d.val).foldl (fun s d => s.resetDie d) t1
    if bit value 0 then t2.resetPart else t2

/-- SEC_REQ_CTRL: OP is stored and DROP ends the PF session. A GO comes with the bytes of its buffer, as the row of its request
(entry 13). -/
def State.requestWrite (s : State) (value : Word) : State :=
  let s1 := s.setField 0 Reg.secReqCtrl 6 3 (bits value 6 3)
  if bit value 1 then fxSessionDrop s1 else s1

/-- Security and settings registers; those of die 0 alone are discarded elsewhere. -/
def State.secWrite (s : State) (d : DieIx) (off : Nat) (value : Word) : Option State :=
  if (Reg.secRole ≤ off ∧ off ≤ Reg.secAuthFailCnt ∨ 0x52_0000 ≤ off ∧ off < 0x52_1000) ∧ d.val ≠ 0 then some s
  else if off = Reg.secReqCtrl then some (s.requestWrite value)
  else if off = Reg.secReset then some (s.resetRegister value)
  else if off = Reg.nvmCtrl then some (s.clears value (fxStore .pf))
  else if off = Reg.nvmAuditSel then some (fxNvmAuditSelWrite value s)
  else none

/-- Clock, power and sense registers; SNS_ registers of dies other than 0 are discarded. -/
def State.clockWrite (s : State) (d : DieIx) (off : Nat) (value : Word) : Option State :=
  if off = Reg.pwrCtrl then some (s.powerWrite d value)
  else if off = Reg.pwrCap ∧ d.val = 0 then some (fxPwrCapWrite value s)
  else if off = Reg.clkLockCfg then some (fxClkLockCfgWrite d value s)
  else if 0x58_0000 ≤ off ∧ off < 0x58_1000 then
    if d.val ≠ 0 then some s
    else if Reg.snsPwm 0 ≤ off ∧ off < Reg.snsPwm 8 then some (fxSnsPwmWrite (Fin.ofNat 8 ((off - Reg.snsPwm 0) / 4)) value s)
    else if off = Reg.snsTaskSel then some (fxSnsTaskSelWrite value s)
    else if Reg.snsTaskData 0 ≤ off ∧ off < Reg.snsTaskData 4 then
      some (fxSnsTaskDataWrite (Fin.ofNat 4 ((off - Reg.snsTaskData 0) / 4)) value s)
    else none
  else none

/-- A write to a die window. -/
def State.dieWrite (s : State) (d : DieIx) (off : Nat) (value hw : Word) : State :=
  match (s.secWrite d off value).or ((s.clockWrite d off value).or ((s.clearWrite d off value hw).or
      ((s.pictureWrite d off value).or (s.sfnWrite d off value hw)))) with
  | some t => t
  | none => s.plainWrite d off value hw

/-! ### HST_ registers and function BARs -/

/-- A write to the HST_ block of die 0, at an offset in it. -/
def State.hostWrite (s : State) (off : Nat) (value hw : Word) : State :=
  let fields := ((findRow hstRows off).map fun r => r.fields).getD []
  if off = 0x01C then s.clears value (fxHstCntClr (hw.setWidth 8))
  else if isFlags fields then
    let s1 := s.raiseHost (hw &&& fieldsMask fields).toNat
    s1.onHost fun h => h.setReg off (writeWord fields (h.reg off) value hw)
  else if 0x020 ≤ off ∧ off < 0x040 then fxHstDieEqWrite (dieOf ((off - 0x020) / 4)) value s
  else if 0x040 ≤ off ∧ off < 0x060 then fxHstHeadOwnerWrite (dieOf ((off - 0x040) / 4)) value s
  else if 0x100 ≤ off ∧ off < 0x200 then fxHstQuotaWrite (Fin.ofNat 64 ((off - 0x100) / 4)) value s
  else if fields.isEmpty then s
  else s.onHost fun h => h.setReg off (writeWord fields (h.reg off) value 0)

/-- An MSI-X table entry with a word replaced. -/
def Msix.write (m : Msix) (k : Nat) (value : Word) : Msix :=
  match k % 4 with
  | 0 => { m with addr := BitVec.ofNat 64 (m.addr.toNat / 2 ^ 32 * 2 ^ 32 + value.toNat) }
  | 1 => { m with addr := BitVec.ofNat 64 (m.addr.toNat % 2 ^ 32 + 2 ^ 32 * value.toNat) }
  | 2 => { m with data := value }
  | _ => { m with masked := bit value 0 }

/-- A function with a word of its MSI-X table written: a vector that is unmasked with its pending bit set sends its message (R334). -/
def Fn.msixWrite (x : Fn) (v k : Nat) (value : Word) : Fn :=
  let m := (x.vector v).write k value
  if k % 4 = 3 ∧ m.masked = false ∧ m.pendingBit = true ∧ m.addr ≠ 0 then
    let y := x.setVector v { m with pendingBit := false }
    { y with messages := v :: y.messages }
  else x.setVector v m

/-- A write to a function BAR. -/
def State.fnWrite (s : State) (f : FnIx) (off : Nat) (value hw : Word) : State :=
  let fields := ((findRow hstFnRows off).map fun r => r.fields).getD []
  if off = Reg.hstFnDb then fxDoorbell f value s
  else if off = Reg.hstFnAqCtrl then
    let v := BitVec.ofNat 11 (bits value 26 16)
    if bit value 0 then fxAqEnable f v s else fxAqDisable f v s
  else if off = Reg.hstFnCntClr then s.clears value (fxHstFnCntClr f (hw.setWidth 8))
  else if Reg.hstFnAsqLo ≤ off ∧ off ≤ Reg.hstFnAcqHi then
    if bit (s.host.fnReg f Reg.hstFnAqCtrl) 0 then s
    else s.onHost fun h => h.setFnReg f off (writeWord fields (h.fnReg f off) value 0)
  else if 0x1_0000 ≤ off ∧ off < 0x1_8000 then
    s.onHost fun h => h.onFn f fun x => x.msixWrite ((off - 0x1_0000) / 16) (off % 16 / 4) value
  else s

/-- REGISTER_WRITE: a write of some bytes. One of another width or alignment, or to a die that is absent or held in reset, has no
effect. `hw` are the flags that events set, or the counters that count, in the same fabric cycle. -/
def fxRegisterWrite (t : RegTarget) (bytes : Nat) (value hw : Word) (s : State) : State :=
  match t with
  | .bar0 addr =>
    let d := addr / 0x100_0000
    let off := addr % 0x100_0000
    if bytes ≠ 4 ∨ addr % 4 ≠ 0 ∨ s.nDies ≤ d ∨ (s.die (dieOf d)).boot.inReset = true then s
    else if 0x10_0000 ≤ off ∧ off < 0x10_1000 then (if d = 0 then s.hostWrite (off - 0x10_0000) value hw else s)
    else s.dieWrite (dieOf d) off value hw
  | .fnBar f off => if bytes ≠ 4 ∨ off % 4 ≠ 0 then s else s.fnWrite f off value hw

def execRegisterWrite (t : RegTarget) (bytes : Nat) (value hw : Word) (s : State) : Host.Outcome State Fault Refusal :=
  .next (fxRegisterWrite t bytes value hw s)

end Sys2Proof.Machine
end

