-- ==== Sys2Proof/Machine/Dispatch.lean ====
section
/-! DEFINITION. One arm per command: a direct call of its meaning, in the order of the table. -/

namespace Sys2Proof.Machine

/-- What a command does to the part (everything but the queue of waiting commands). -/
def exec (i : Instr) (s : State) : Host.Outcome State Fault Refusal :=
  match i with
  | .lineStart h inp => Sys2Proof.Machine.execLineStart h inp s
  | .restartGateEnd d => Sys2Proof.Machine.execRestartGateEnd d s
  | .restartRestageDone d => Sys2Proof.Machine.execRestartRestageDone d s
  | .restartInjectionDone d untripped => Sys2Proof.Machine.execRestartInjectionDone d untripped s
  | .goldenDefer d => Sys2Proof.Machine.execGoldenDefer d s
  | .goldenComplete d crc => Sys2Proof.Machine.execGoldenComplete d crc s
  | .deferredRelease d cv => Sys2Proof.Machine.execDeferredRelease d cv s
  | .fallbackComplete h layer stripe => Sys2Proof.Machine.execFallbackComplete h layer stripe s
  | .verdict p => Sys2Proof.Machine.execVerdict p s
  | .senseTransactionEnd slot r => Sys2Proof.Machine.execSenseTransactionEnd slot r s
  | .holdLimitExpiry h layer => Sys2Proof.Machine.execHoldLimitExpiry h layer s
  | .holdover cv => Sys2Proof.Machine.execHoldover cv s
  | .genlockEdge cv edge => Sys2Proof.Machine.execGenlockEdge cv edge s
  | .ptpMessage d m => Sys2Proof.Machine.execPtpMessage d m s
  | .sourceLineArrival d port stream line counter bytes => Sys2Proof.Machine.execSourceLineArrival d port stream line counter bytes s
  | .sourceFrameStart d port stream counter supported form => Sys2Proof.Machine.execSourceFrameStart d port stream counter supported form s
  | .sourceFrameComplete d port stream => Sys2Proof.Machine.execSourceFrameComplete d port stream s
  | .sourceRateChange d port stream => Sys2Proof.Machine.execSourceRateChange d port stream s
  | .teEdge e => Sys2Proof.Machine.execTeEdge e s
  | .teTimeout e => Sys2Proof.Machine.execTeTimeout e s
  | .linkDown h hotPlug => Sys2Proof.Machine.execLinkDown h hotPlug s
  | .linkUp h => Sys2Proof.Machine.execLinkUp h s
  | .hdcpFail h => Sys2Proof.Machine.execHdcpFail h s
  | .tileLoad it t b run other => Sys2Proof.Machine.execTileLoad it t b run other s
  | .tileConvert it tile acc => Sys2Proof.Machine.execTileConvert it tile acc s
  | .itemRetire it => Sys2Proof.Machine.execItemRetire it s
  | .splitKCombine it c => Sys2Proof.Machine.execSplitKCombine it c s
  | .frameScopeRelease cv op => Sys2Proof.Machine.execFrameScopeRelease cv op s
  | .carouselNop st => Sys2Proof.Machine.execCarouselNop st s
  | .setb st => Sys2Proof.Machine.execSetb st s
  | .sets st => Sys2Proof.Machine.execSets st s
  | .setm st => Sys2Proof.Machine.execSetm st s
  | .setc st => Sys2Proof.Machine.execSetc st s
  | .loop st => Sys2Proof.Machine.execLoop st s
  | .endl st => Sys2Proof.Machine.execEndl st s
  | .move st captured => Sys2Proof.Machine.execMove st captured s
  | .moveComplete st r => Sys2Proof.Machine.execMoveComplete st r s
  | .carouselWait st => Sys2Proof.Machine.execCarouselWait st s
  | .sig st => Sys2Proof.Machine.execSig st s
  | .cred st => Sys2Proof.Machine.execCred st s
  | .ret st => Sys2Proof.Machine.execRet st s
  | .endp st => Sys2Proof.Machine.execEndp st s
  | .creditStallExpiry d pool => Sys2Proof.Machine.execCreditStallExpiry d pool s
  | .waitGe d r q cycle => Sys2Proof.Machine.execWaitGe d r q cycle s
  | .waitSub d r q cycle => Sys2Proof.Machine.execWaitSub d r q cycle s
  | .add d r q cycle => Sys2Proof.Machine.execAdd d r q cycle s
  | .sub d r q cycle => Sys2Proof.Machine.execSub d r q cycle s
  | .set d r q cycle => Sys2Proof.Machine.execSet d r q cycle s
  | .gaideTurnstileArrival src dst => Sys2Proof.Machine.execGaideTurnstileArrival src dst s
  | .fenceComplete iss => Sys2Proof.Machine.execFenceComplete iss s
  | .barrierCombine d barrier => Sys2Proof.Machine.execBarrierCombine d barrier s
  | .contextSaveComplete cv => Sys2Proof.Machine.execContextSaveComplete cv s
  | .firstRelease d cv => Sys2Proof.Machine.execFirstRelease d cv s
  | .checkpointCopy d cv => Sys2Proof.Machine.execCheckpointCopy d cv s
  | .replayFrameAdvance cv => Sys2Proof.Machine.execReplayFrameAdvance cv s
  | .doorbell f value => Sys2Proof.Machine.execDoorbell f value s
  | .hostReadError f q ring => Sys2Proof.Machine.execHostReadError f q ring s
  | .descriptorCompletion f q => Sys2Proof.Machine.execDescriptorCompletion f q s
  | .nop h => Sys2Proof.Machine.execNop h s
  | .wait h tsl kind n => Sys2Proof.Machine.execWait h tsl kind n s
  | .signal h tsl act die v => Sys2Proof.Machine.execSignal h tsl act die v s
  | .copy h host dev die dir len data => Sys2Proof.Machine.execCopy h host dev die dir len data s
  | .frame h canvas source pitch plane0 plane1 plane2 counter lines => Sys2Proof.Machine.execFrame h canvas source pitch plane0 plane1 plane2 counter lines s
  | .admitBundle h bundle len report data => Sys2Proof.Machine.execAdmitBundle h bundle len report data s
  | .evict h handle => Sys2Proof.Machine.execEvict h handle s
  | .bind h block len report data => Sys2Proof.Machine.execBind h block len report data s
  | .unbind h canvas => Sys2Proof.Machine.execUnbind h canvas s
  | .pause h canvas flags save => Sys2Proof.Machine.execPause h canvas flags save s
  | .resume h canvas save => Sys2Proof.Machine.execResume h canvas save s
  | .alloc h dies len => Sys2Proof.Machine.execAlloc h dies len s
  | .free h dies addr => Sys2Proof.Machine.execFree h dies addr s
  | .createQ h queue kind log2 home base cq vector count timer => Sys2Proof.Machine.execCreateQ h queue kind log2 home base cq vector count timer s
  | .deleteQ h queue => Sys2Proof.Machine.execDeleteQ h queue s
  | .window h index base limit => Sys2Proof.Machine.execWindow h index base limit s
  | .tslCreate h die virt value => Sys2Proof.Machine.execTslCreate h die virt value s
  | .tslDestroy h die virt => Sys2Proof.Machine.execTslDestroy h die virt s
  | .ctxDestroy h dies => Sys2Proof.Machine.execCtxDestroy h dies s
  | .msixTimerExpiry f q => Sys2Proof.Machine.execMsixTimerExpiry f q s
  | .aqEnable f vector => Sys2Proof.Machine.execAqEnable f vector s
  | .aqDisable f vector => Sys2Proof.Machine.execAqDisable f vector s
  | .vfDisable f => Sys2Proof.Machine.execVfDisable f s
  | .vfEnable f => Sys2Proof.Machine.execVfEnable f s
  | .hstQuotaWrite f value => Sys2Proof.Machine.execHstQuotaWrite f value s
  | .hstHeadOwnerWrite h value => Sys2Proof.Machine.execHstHeadOwnerWrite h value s
  | .hstDieEqWrite d value => Sys2Proof.Machine.execHstDieEqWrite d value s
  | .functionLevelReset f => Sys2Proof.Machine.execFunctionLevelReset f s
  | .pfFunctionLevelReset cause => Sys2Proof.Machine.execPfFunctionLevelReset cause s
  | .functionResetDone f => Sys2Proof.Machine.execFunctionResetDone f s
  | .commit h => Sys2Proof.Machine.execCommit h s
  | .commitSpan h => Sys2Proof.Machine.execCommitSpan h s
  | .cmpLutDataWrite d value => Sys2Proof.Machine.execCmpLutDataWrite d value s
  | .cmpCoefDataWrite d value => Sys2Proof.Machine.execCmpCoefDataWrite d value s
  | .cmpCntLoRead d => Sys2Proof.Machine.execCmpCntLoRead d s
  | .cmpWbFrameLoRead d => Sys2Proof.Machine.execCmpWbFrameLoRead d s
  | .mxeSatLoRead d e => Sys2Proof.Machine.execMxeSatLoRead d e s
  | .mxeNanLoRead d e => Sys2Proof.Machine.execMxeNanLoRead d e s
  | .jglSatLoRead d => Sys2Proof.Machine.execJglSatLoRead d s
  | .jglNanLoRead d => Sys2Proof.Machine.execJglNanLoRead d s
  | .crsBytesLoRead d c => Sys2Proof.Machine.execCrsBytesLoRead d c s
  | .crsCodedLoRead d c => Sys2Proof.Machine.execCrsCodedLoRead d c s
  | .detGscLoRead d => Sys2Proof.Machine.execDetGscLoRead d s
  | .detTimingLoRead d => Sys2Proof.Machine.execDetTimingLoRead d s
  | .detCkptLastLoRead d => Sys2Proof.Machine.execDetCkptLastLoRead d s
  | .mxeCntClr d e co => Sys2Proof.Machine.execMxeCntClr d e co s
  | .winCntClr d co => Sys2Proof.Machine.execWinCntClr d co s
  | .rmsCntClr d co => Sys2Proof.Machine.execRmsCntClr d co s
  | .crsCntClr d co => Sys2Proof.Machine.execCrsCntClr d co s
  | .jglCntClr d co => Sys2Proof.Machine.execJglCntClr d co s
  | .motCntClr d co => Sys2Proof.Machine.execMotCntClr d co s
  | .cmpCntClr d co => Sys2Proof.Machine.execCmpCntClr d co s
  | .scnCntClr d co => Sys2Proof.Machine.execScnCntClr d co s
  | .tslCntClr d co => Sys2Proof.Machine.execTslCntClr d co s
  | .detCntClr d co => Sys2Proof.Machine.execDetCntClr d co s
  | .hstCntClr co => Sys2Proof.Machine.execHstCntClr co s
  | .hstFnCntClr f co => Sys2Proof.Machine.execHstFnCntClr f co s
  | .sfnCntClr d co => Sys2Proof.Machine.execSfnCntClr d co s
  | .secCntClr d co => Sys2Proof.Machine.execSecCntClr d co s
  | .nvmCntClr co => Sys2Proof.Machine.execNvmCntClr co s
  | .pwrCntClr d co => Sys2Proof.Machine.execPwrCntClr d co s
  | .snsCntClr co => Sys2Proof.Machine.execSnsCntClr co s
  | .gdeCntClr d co => Sys2Proof.Machine.execGdeCntClr d co s
  | .tslSelWrite d value => Sys2Proof.Machine.execTslSelWrite d value s
  | .tslDumpGo d value => Sys2Proof.Machine.execTslDumpGo d value s
  | .dumpDone d => Sys2Proof.Machine.execDumpDone d s
  | .detRecCtrlWrite d value => Sys2Proof.Machine.execDetRecCtrlWrite d value s
  | .sfnTMeanWrite d value => Sys2Proof.Machine.execSfnTMeanWrite d value s
  | .sfnTMaxWrite d value => Sys2Proof.Machine.execSfnTMaxWrite d value s
  | .sfnHfWrite d value => Sys2Proof.Machine.execSfnHfWrite d value s
  | .sfnTFlashWrite d value => Sys2Proof.Machine.execSfnTFlashWrite d value s
  | .sfnCapWrite d value => Sys2Proof.Machine.execSfnCapWrite d value s
  | .sfnInjGo d => Sys2Proof.Machine.execSfnInjGo d s
  | .clearLatch d => Sys2Proof.Machine.execClearLatch d s
  | .igClear tripSameCycle => Sys2Proof.Machine.execIgClear tripSameCycle s
  | .lockstepMismatch d => Sys2Proof.Machine.execLockstepMismatch d s
  | .monitorTrip d m => Sys2Proof.Machine.execMonitorTrip d m s
  | .rasterStall h => Sys2Proof.Machine.execRasterStall h s
  | .heartbeatTimeout d => Sys2Proof.Machine.execHeartbeatTimeout d s
  | .hbOutToggle => Sys2Proof.Machine.execHbOutToggle s
  | .currentSample ch ma => Sys2Proof.Machine.execCurrentSample ch ma s
  | .currentSampleTimeout ch => Sys2Proof.Machine.execCurrentSampleTimeout ch s
  | .echoRead h digest lines seq => Sys2Proof.Machine.execEchoRead h digest lines seq s
  | .injectionComplete untripped => Sys2Proof.Machine.execInjectionComplete untripped s
  | .powerOn st => Sys2Proof.Machine.execPowerOn st s
  | .partReset => Sys2Proof.Machine.execPartReset s
  | .dieReset d => Sys2Proof.Machine.execDieReset d s
  | .autoDieReset d => Sys2Proof.Machine.execAutoDieReset d s
  | .pkgLock => Sys2Proof.Machine.execPkgLock s
  | .releaseEdge => Sys2Proof.Machine.execReleaseEdge s
  | .imageVerify d image => Sys2Proof.Machine.execImageVerify d image s
  | .ddr5TrainingComplete d => Sys2Proof.Machine.execDdr5TrainingComplete d s
  | .settingsLoad => Sys2Proof.Machine.execSettingsLoad s
  | .bigTopScrubStep d bank r => Sys2Proof.Machine.execBigTopScrubStep d bank r s
  | .dramPatrolScrubStep d channel r => Sys2Proof.Machine.execDramPatrolScrubStep d channel r s
  | .telemetrySample => Sys2Proof.Machine.execTelemetrySample s
  | .sectorErase sector => Sys2Proof.Machine.execSectorErase sector s
  | .ddr5Calibration d channel => Sys2Proof.Machine.execDdr5Calibration d channel s
  | .gaideFlitError d link again => Sys2Proof.Machine.execGaideFlitError d link again s
  | .gaideLaneLoss d link => Sys2Proof.Machine.execGaideLaneLoss d link s
  | .auth p data => Sys2Proof.Machine.execAuth p data s
  | .attest p data => Sys2Proof.Machine.execAttest p data s
  | .otp p data => Sys2Proof.Machine.execOtp p data s
  | .keystore p data => Sys2Proof.Machine.execKeystore p data s
  | .audit p data => Sys2Proof.Machine.execAudit p data s
  | .srm p data => Sys2Proof.Machine.execSrm p data s
  | .boot p data => Sys2Proof.Machine.execBoot p data s
  | .sessionDrop => Sys2Proof.Machine.execSessionDrop s
  | .nonceDraw => Sys2Proof.Machine.execNonceDraw s
  | .sessionExpiry p => Sys2Proof.Machine.execSessionExpiry p s
  | .authLockoutEnd => Sys2Proof.Machine.execAuthLockoutEnd s
  | .auditProgram => Sys2Proof.Machine.execAuditProgram s
  | .store p => Sys2Proof.Machine.execStore p s
  | .storeComplete => Sys2Proof.Machine.execStoreComplete s
  | .nvmAuditSelWrite value => Sys2Proof.Machine.execNvmAuditSelWrite value s
  | .mctpMessage m => Sys2Proof.Machine.execMctpMessage m s
  | .opRequest d value => Sys2Proof.Machine.execOpRequest d value s
  | .avsAck d => Sys2Proof.Machine.execAvsAck d s
  | .avsTimeout d => Sys2Proof.Machine.execAvsTimeout d s
  | .thermalReading d quarterC diePower pkgPower => Sys2Proof.Machine.execThermalReading d quarterC diePower pkgPower s
  | .tripN => Sys2Proof.Machine.execTripN s
  | .standby value => Sys2Proof.Machine.execStandby value s
  | .standbyExit => Sys2Proof.Machine.execStandbyExit s
  | .pwrCapWrite value => Sys2Proof.Machine.execPwrCapWrite value s
  | .clkLockCfgWrite d value => Sys2Proof.Machine.execClkLockCfgWrite d value s
  | .gpioEdge pin level => Sys2Proof.Machine.execGpioEdge pin level s
  | .snsTaskSelWrite value => Sys2Proof.Machine.execSnsTaskSelWrite value s
  | .snsTaskDataWrite w value => Sys2Proof.Machine.execSnsTaskDataWrite w value s
  | .snsPwmWrite k value => Sys2Proof.Machine.execSnsPwmWrite k value s
  | .registerWrite t bytes value hw => Sys2Proof.Machine.execRegisterWrite t bytes value hw s
  | .goldenStripePeriodicRun d => Sys2Proof.Machine.execGoldenStripePeriodicRun d s
  | .resetNAssertion => Sys2Proof.Machine.execResetNAssertion s
  | .hdcpAuthenticated h contentType => Sys2Proof.Machine.execHdcpAuthenticated h contentType s

end Sys2Proof.Machine
end

