-- ==== Sys2Proof/Safety.lean ====
section
/-! DEFINITION. What counts as a safe run, in the terms that claims use: a step that neither faults nor refuses, and
the invariant of the state's plain-data forms. -/

namespace Sys2Proof.Machine

/-- A step answers a next state (R4: no result of the device is left unspecified). -/
def Completes (o : Host.Outcome State Fault Refusal) : Prop := ∃ t, o = .next t

/-- The memory that a die holds is in canonical form: registers, values in force, DRAM and Big Top. -/
def Die.wf (x : Die) : Bool :=
  sWf regReset x.regs && sWf regReset x.force && sWf zeroByte x.dram && sWf zeroByte x.bigTop

/-- A function's registers are in canonical form. -/
def Fn.wf (x : Fn) : Bool := sWf fnReset x.regs

/-- A memory is in canonical form. -/
def Memory.wf (m : SMap Byte) : Bool := sWf zeroByte m

/-- Every register file and every memory of the part is in canonical form, host memory among them. -/
def State.wf (s : State) : Prop :=
  (∀ d : DieIx, (s.die d).wf = true) ∧ (∀ f : FnIx, (s.fns[f.val]).wf = true) ∧ sWf hostReset s.hostRegs = true ∧
    Memory.wf s.hostMem = true

/-! ### What a command does -/

/-- A command answers a next state of which something holds. -/
def Does (c : Instr) (s : State) (p : State → Prop) : Prop := ∃ t, exec c s = .next t ∧ p t

/-- Only a die differs between two states. -/
def State.OnlyDie (s t : State) (d : DieIx) : Prop := t = { s with dies := t.dies } ∧ ∀ e, e ≠ d → t.die e = s.die e

/-- Only a die, and what is posted to the host, differ between two states. -/
def State.OnlyDieHost (s t : State) (d : DieIx) : Prop :=
  t = { s with dies := t.dies, fns := t.fns, hostRegs := t.hostRegs, hostMem := t.hostMem } ∧ ∀ e, e ≠ d → t.die e = s.die e

/-- Only some registers differ between two dies. -/
def Die.OnlyRegs (x y : Die) (offs : List Nat) : Prop := y = { x with regs := y.regs } ∧ ∀ k, k ∉ offs → y.reg k = x.reg k

/-- Only some registers and the head's state differ between two dies. -/
def Die.OnlyHead (x y : Die) (offs : List Nat) : Prop :=
  y = { x with regs := y.regs, head := y.head } ∧ ∀ k, k ∉ offs → y.reg k = x.reg k

/-- A state with some counters of a die cleared, each of which counts again where its increment falls in the same cycle, and nothing
else changed. -/
def State.Cleared (s t : State) (d : DieIx) (offs : List (Nat × Bool)) : Prop :=
  s.OnlyDie t d ∧ (s.die d).OnlyRegs (t.die d) (offs.map Prod.fst) ∧ ∀ e ∈ offs, t.reg d e.1 = if e.2 then 1 else 0

/-- A command clears some counters of a die, and increments of the same cycle raise flags. -/
def Clears (s : State) (c : Instr) (d : DieIx) (offs : List (Nat × Bool)) (flags : State → State := id) : Prop :=
  Does c s fun t => ∃ u, s.Cleared u d offs ∧ t = flags u

/-- A command latches a word for the next read of a _HI register of a die, and changes nothing else. -/
def Latches (s : State) (c : Instr) (d : DieIx) (hi : Nat) (w : Word) : Prop :=
  Does c s fun t => s.OnlyDie t d ∧ t.die d = { s.die d with latch := (t.die d).latch } ∧
    sLookup (t.die d).latch hi = some w ∧ ∀ k, k ≠ hi → sLookup (t.die d).latch k = sLookup (s.die d).latch k

/-! ### Turnstiles -/

/-- One cycle of an object of a die has taken place: the object is as its resolution leaves it, and every stream whose wait the resolution
lets go has gone on. -/
def State.Resolves (s t : State) (d : DieIx) (n : Nat) (o : TslObj) (ops : List TslReq) : Prop :=
  let r := o.resolve ops s.gsc (4096 - (s.die d).tsl.hostWaiters)
  (t.die d).tsl.obj n = some r.obj ∧
    ∀ st x, (s.die st.die).stream st = some x → x.state = .waitTsl → (∃ e ∈ r.results, e.1.iss = streamIssuer st ∧ e.2 = .proceeds .ok) →
      (t.die st.die).stream st = some { x with state := .running, pc := x.pc + 1 }

/-- Operations have been set out over Gaide, in order, each on some route. -/
def State.Sends (s t : State) (ms : List GaideMsg) : Prop :=
  t.packets = s.packets + ms.length ∧ ∃ l, t.gaide = s.gaide ++ l ∧
    (l.map fun m => { m with links := [] }) = ms.map fun m => { m with links := [] }

/-! ### Descriptors -/

/-- The header of a command that is a descriptor. -/
def descHeader : Instr → Option DescHdr
  | .nop h | .wait h _ _ _ | .signal h _ _ _ _ | .copy h _ _ _ _ _ _ | .frame h _ _ _ _ _ _ _ _ | .admitBundle h _ _ _ _
  | .evict h _ | .bind h _ _ _ _ | .unbind h _ | .pause h _ _ _ | .resume h _ _ | .alloc h _ _ | .free h _ _
  | .createQ h _ _ _ _ _ _ _ _ _ | .deleteQ h _ | .window h _ _ _ | .tslCreate h _ _ _ | .tslDestroy h _ _
  | .ctxDestroy h _ => some h
  | _ => none

/-- A descriptor that any SQ takes: NOP, WAIT, SIGNAL, COPY and FRAME. All others are for queue 0 alone (Table 12.5). -/
def forAnyQueue : Instr → Bool
  | .nop _ | .wait _ _ _ _ | .signal _ _ _ _ _ | .copy _ _ _ _ _ _ _ | .frame _ _ _ _ _ _ _ _ _ => true
  | _ => false

/-- The descriptor in progress of the SQ that a header names. -/
def State.current (s : State) (h : DescHdr) : Option Current := (s.host.queue h.func h.sq).bind Queue.cur

/-- A header's descriptor as it is done. -/
def doneAs (h : DescHdr) (st : Status) (kind : Fin 3) (detail : List Byte) : Option Current :=
  some { tag := h.tag, quiet := h.quiet, await := none, done := some { status := st, kind := kind, detail := detail } }

/-- A header's descriptor as it waits. -/
def waitsFor (h : DescHdr) (a : Await) : Option Current := some { tag := h.tag, quiet := h.quiet, await := some a, done := none }

/-- A descriptor may start at the head of its SQ, with every reserved byte 0 (R323, R324). -/
def State.Starts (s : State) (h : DescHdr) (q : Queue) : Prop := s.host.startable h = some q ∧ q.state = .run ∧ h.resv = false

end Sys2Proof.Machine
end

