-- ==== Sys2Proof/Certificates/Slice0/Obligations.lean ====
section
/-! DEFINITION. The statements for the provers. -/

open Sys2Proof Sys2Proof.Machine

/-- A step on a state with a command at the front of its queue is that command's effect on the state with the rest of
the queue. -/
def Obligations.step_runs_front : Prop :=
  ∀ (c : Instr) (rest : List Instr) (s : State),
    s.pending = c :: rest → step s = exec c { s with pending := rest }

/-- On an empty queue a step changes nothing but the device time: one tick once the clocks are released. That a tick is what
an idle step does is the model's choice (entry 1). -/
def Obligations.idle_step_is_a_tick : Prop :=
  ∀ s : State, s.pending = [] →
    ∃ t, step s = .next t ∧ t.gsc = (if s.clocks then s.gsc + 1 else s.gsc) ∧ { t with gsc := s.gsc } = s

/-- Every step of every command, or an idle step, keeps the canonical form of every register file and every memory of the
part: equal contents are equal data. -/
def Obligations.step_keeps_canonical_form : Prop :=
  ∀ s t : State, s.wf → step s = .next t → t.wf

/-- The reset state satisfies the invariant that every step keeps. -/
def Obligations.reset_is_canonical : Prop := State.reset.wf

/-- Each of the 191 forms completes: for every command c (LINE_START, RESTART_GATE_END, …, HDCP_AUTHENTICATED), whatever its operands and
whatever the state, exec c answers a next state with the same queue; and a step answers a next state whose queue is the old one without
its front. No command stops the model, none is lost and none is added (R4: no result is left unspecified). -/
def Obligations.every_step_completes : Prop :=
  (∀ (c : Instr) (s : State), ∃ t, exec c s = .next t ∧ t.pending = s.pending) ∧
    ∀ s : State, ∃ t, step s = .next t ∧ t.pending = s.pending.tail

/-- No command but AUDIT_PROGRAM changes OTP: an OTP request only defers its change to the programming of its audit entry, and
OTP outlasts every reset. -/
def Obligations.otp_changes_by_audit_program_alone : Prop :=
  ∀ (c : Instr) (s t : State), c ≠ .auditProgram → exec c s = .next t → t.otp = s.otp

/-- POWER_ON takes the straps that it samples, and no other command changes them. -/
def Obligations.straps_change_at_power_on_alone : Prop :=
  (∀ (c : Instr) (s t : State), (∀ st, c ≠ .powerOn st) → exec c s = .next t → t.straps = s.straps) ∧
    ∀ (st : Straps) (s : State), Does (.powerOn st) s fun t => t.straps = st

/-- A step leaves the Global Step Counter as it is, returns it to 0, or, where no command waits, advances it by 1. -/
def Obligations.device_time_stands_during_commands : Prop :=
  ∀ s t : State, step s = .next t →
    t.gsc = s.gsc ∨ t.gsc = 0 ∨ (s.pending = [] ∧ s.clocks = true ∧ t.gsc = s.gsc + 1)

/-- POWER_ON from any state: registers at their reset values, save those that OTP or a strap loads; the Safety Nets in INIT; the part
in OP3; nothing bound; OTP, the settings slots and host memory as they were. -/
def Obligations.power_on : Prop :=
  ∀ (st : Straps) (s : State), Does (.powerOn st) s fun t =>
    t.straps = st ∧ t.gsc = 0 ∧ t.clocks = false ∧ t.power.point = .op3 ∧ t.canvases = [] ∧ t.gaide = [] ∧
      t.otp = s.otp ∧ t.nvm.slots = s.nvm.slots ∧ t.nvm.ring = s.nvm.ring ∧ t.hostMem = s.hostMem ∧ t.pins.tripN = true ∧
      ∀ d : DieIx, (t.die d).sfn.phase = .init ∧ (t.die d).head.running = false ∧ (t.die d).tsl.objs = [] ∧
        (t.die d).bigTop = [] ∧
        ∀ off, sLookup (otpRegs s.otp d) off = none → t.reg d off = regReset off

/-- The clears of the counters of the engines, the Ringmaster, the Carousels and the Turnstiles. The clear takes effect first: a
counter that increments in the same cycle then holds 1, and the _EVT bit of the increment is set. CRS_CNT_CLR also clears the peak of CRS_INFLIGHT. -/
def Obligations.compute_counter_clears : Prop :=
  ∀ (s : State) (d : DieIx), s.present d = true →
    (∀ (e : EngIx) (co : Byte), Clears s (.mxeCntClr d e co) d
      [(Reg.mxeSatLo e, co.getLsbD 0), (Reg.mxeSatHi e, false), (Reg.mxeNanLo e, co.getLsbD 1), (Reg.mxeNanHi e, false),
       (Reg.mxeAccCe e, co.getLsbD 2)] fun u => u.raiseSome d (Reg.mxeEvt e) (coFlags co.toNat [1, 2, 4])) ∧
    (∀ co : Byte, Clears s (.winCntClr d co) d
      [(Reg.winBoxBad, co.getLsbD 0), (Reg.winBoxTrunc, co.getLsbD 1), (Reg.winBoxStale, co.getLsbD 2),
       (Reg.winArgmaxNan, co.getLsbD 3), (Reg.winSat, co.getLsbD 4)]
      fun u => u.raiseSome d Reg.winEvt (coFlags co.toNat [1, 2, 4, 8, 16])) ∧
    (∀ co : Byte, Clears s (.rmsCntClr d co) d
      [(Reg.rmsAdmitOk, co.getLsbD 0), (Reg.rmsAdmitFail, co.getLsbD 1), (Reg.rmsRewrite, co.getLsbD 2)]
      fun u => u.raiseSome d Reg.rmsPlaceEvt (coFlags co.toNat [0, 1, 2])) ∧
    (∀ co : Byte, Does (.crsCntClr d co) s fun r => ∃ t, r = t.raiseSome d Reg.crsEvt (coFlags co.toNat [1, 2, 4, 8]) ∧
      s.OnlyDie t d ∧ (s.die d).OnlyRegs (t.die d) [Reg.crsStallCnt, Reg.crsCodecErr, Reg.crsWindowErr, Reg.crsCreditErr, Reg.crsInflight] ∧
      t.reg d Reg.crsStallCnt = (if co.getLsbD 0 then 1 else 0) ∧ t.reg d Reg.crsCodecErr = (if co.getLsbD 1 then 1 else 0) ∧
      t.reg d Reg.crsWindowErr = (if co.getLsbD 2 then 1 else 0) ∧ t.reg d Reg.crsCreditErr = (if co.getLsbD 3 then 1 else 0) ∧
      t.field d Reg.crsInflight 29 16 = 0) ∧
    (∀ co : Byte, Clears s (.jglCntClr d co) d
      [(Reg.jglSatLo, co.getLsbD 0), (Reg.jglSatHi, false), (Reg.jglNanLo, co.getLsbD 1), (Reg.jglNanHi, false),
       (Reg.jglTrackFull, co.getLsbD 2)] fun u => u.raiseSome d Reg.jglEvt (coFlags co.toNat [1, 2, 4])) ∧
    (∀ co : Byte, Clears s (.motCntClr d co) d
      [(Reg.motBlocksLo, co.getLsbD 0), (Reg.motBlocksHi, false), (Reg.motLimit, co.getLsbD 1)]
      fun u => u.raiseSome d Reg.motEvt (coFlags co.toNat [0, 1])) ∧
    ∀ co : Byte, Clears s (.tslCntClr d co) d
      [(Reg.tslOvfCnt, co.getLsbD 0), (Reg.tslUnderCnt, co.getLsbD 1), (Reg.tslMapErrCnt, co.getLsbD 2),
       (Reg.tslPoisonCnt, co.getLsbD 3)] fun u => u.raiseSome d Reg.tslEvt (coFlags co.toNat [1, 2, 4, 8])

/-- The clears of the display, determinism, safety, security, power, Gaide, settings, sense and host counters. SEC_ROLE_DENY_CNT
and SEC_AUTH_FAIL_CNT are cleared on die 0 alone. An increment of the same cycle sets the _EVT bit that its table gives. -/
def Obligations.system_counter_clears : Prop :=
  (∀ (s : State) (d : DieIx), s.present d = true →
    (∀ co : Byte, Clears s (.cmpCntClr d co) d [(Reg.cmpWbDrop, co.getLsbD 0)]
      fun u => if co.getLsbD 0 then u.raiseHead d Reg.cmpEvt 0x10 else u) ∧
    (∀ co : Byte, Clears s (.scnCntClr d co) d [(Reg.scnRepeatCnt, co.getLsbD 0), (Reg.scnRetrainCnt, co.getLsbD 1)]
      fun u => if coFlags co.toNat [4, 2] = 0 then u else u.raiseHead d Reg.scnEvt (coFlags co.toNat [4, 2])) ∧
    (∀ co : Byte, Clears s (.detCntClr d co) d [(Reg.detRecDrop, co.getLsbD 0), (Reg.detMismatch, co.getLsbD 1)]
      fun u => u.raiseSome d Reg.detEvt (coFlags co.toNat [1, 8])) ∧
    (∀ co : BitVec 16, Clears s (.sfnCntClr d co) d
      [(Reg.sfnGuardCnt, co.getLsbD 0), (Reg.sfnVecGuardCnt, co.getLsbD 1), (Reg.sfnReadCrcCnt, co.getLsbD 2),
       (Reg.sfnUntrustedCnt, co.getLsbD 3), (Reg.sfnSealHoldCnt, co.getLsbD 4), (Reg.sfnEchoMissCnt, co.getLsbD 5),
       (Reg.sfnEchoLostCnt, co.getLsbD 6), (Reg.sfnIgTripCnt, co.getLsbD 7)]
      fun u => u.raiseSome d Reg.sfnEvt (coFlags co.toNat [8, 8, 0x10, 0x4000, 0, 0, 0, 0x400])) ∧
    (∀ co : BitVec 16, Clears s (.secCntClr d co) d
      ((if d = 0 then [(Reg.secRoleDenyCnt, co.getLsbD 0), (Reg.secAuthFailCnt, co.getLsbD 1)] else []) ++
      [(Reg.secCeBt, co.getLsbD 2), (Reg.secUeBt, co.getLsbD 3), (Reg.secCeDram, co.getLsbD 4),
       (Reg.secUeDram, co.getLsbD 5), (Reg.secCeOther, co.getLsbD 6), (Reg.secUeOther, co.getLsbD 7),
       (Reg.secScrubPass, co.getLsbD 8), (Reg.secDownEvents, co.getLsbD 9)])
      fun u => u.raiseSome 0 Reg.secEvt ((if d = 0 then coFlags co.toNat [1, 2] else 0) +
        (if co.getLsbD 3 || co.getLsbD 5 || co.getLsbD 7 then 0x10 else 0))) ∧
    (∀ co : Byte, Clears s (.pwrCntClr d co) d [(Reg.pwrThrottleMs, co.getLsbD 0)]) ∧
    ∀ co : Byte, Clears s (.gdeCntClr d co) d
      [(Reg.gdeRetry 0, co.getLsbD 0), (Reg.gdeRetry 1, co.getLsbD 1), (Reg.gdeRetry 2, co.getLsbD 2),
       (Reg.gdeRetry 3, co.getLsbD 3)]) ∧
  (∀ (s : State) (co : Byte), Clears s (.nvmCntClr co) 0 [(Reg.nvmCeCnt, co.getLsbD 0)]) ∧
  (∀ (s : State) (co : Byte), Clears s (.snsCntClr co) 0 [(Reg.snsXferErr, co.getLsbD 0), (Reg.snsTaskLate, co.getLsbD 1)]
    fun u => u.raiseSome 0 Reg.snsEvt (coFlags co.toNat [1, 2])) ∧
  (∀ (s : State) (co : Byte), Does (.hstCntClr co) s fun r => ∃ t,
    r = (if coFlags co.toNat [4, 8] = 0 then t else t.raiseHost (coFlags co.toNat [4, 8])) ∧ t = { s with hostRegs := t.hostRegs } ∧
    t.host.reg 0x014 = (if co.getLsbD 0 then 1 else 0) ∧ t.host.reg 0x018 = (if co.getLsbD 1 then 1 else 0) ∧
    ∀ k, k ≠ 0x014 → k ≠ 0x018 → t.host.reg k = s.host.reg k) ∧
  ∀ (s : State) (f : FnIx) (co : Byte), Does (.hstFnCntClr f co) s fun t => t = { s with fns := t.fns } ∧
    (∀ g, g ≠ f → t.host.fn g = s.host.fn g) ∧ t.host.fn f = { s.host.fn f with regs := (t.host.fn f).regs } ∧
    t.host.fnReg f 0x024 = (if co.getLsbD 0 then 1 else 0) ∧ t.host.fnReg f 0x028 = (if co.getLsbD 1 then 1 else 0) ∧
    ∀ k, k ≠ 0x024 → k ≠ 0x028 → t.host.fnReg f k = s.host.fnReg f k

/-- Reads of _LO registers latch the high word of the same value, and change nothing else. The choice counter is the one that
CMP_CNT_SEL selects, and DET_GSC is the device time. -/
def Obligations.lo_reads_latch_high_words : Prop :=
  ∀ (s : State) (d : DieIx), s.present d = true →
    (∀ e : EngIx, Latches s (.mxeSatLoRead d e) d (Reg.mxeSatHi e) (s.reg d (Reg.mxeSatHi e)) ∧
      Latches s (.mxeNanLoRead d e) d (Reg.mxeNanHi e) (s.reg d (Reg.mxeNanHi e))) ∧
    (∀ c : CrsIx, Latches s (.crsBytesLoRead d c) d (Reg.crsBytesHi c) (s.reg d (Reg.crsBytesHi c)) ∧
      Latches s (.crsCodedLoRead d c) d (Reg.crsCodedHi c) (s.reg d (Reg.crsCodedHi c))) ∧
    Latches s (.jglSatLoRead d) d Reg.jglSatHi (s.reg d Reg.jglSatHi) ∧
    Latches s (.jglNanLoRead d) d Reg.jglNanHi (s.reg d Reg.jglNanHi) ∧
    Latches s (.cmpCntLoRead d) d Reg.cmpCntHi (BitVec.ofNat 32 ((s.die d).selectedChoice.toNat / 2 ^ 32)) ∧
    Latches s (.cmpWbFrameLoRead d) d Reg.cmpWbFrameHi (s.reg d Reg.cmpWbFrameHi) ∧
    Latches s (.detGscLoRead d) d Reg.detGscHi (BitVec.ofNat 32 (s.gsc / 2 ^ 32)) ∧
    Latches s (.detTimingLoRead d) d Reg.detTimingHi (s.reg d Reg.detTimingHi) ∧
    Latches s (.detCkptLastLoRead d) d Reg.detCkptLastHi (s.reg d Reg.detCkptLastHi)

/-- TE_EDGE and TE_TIMEOUT on a head in command mode. That the time of a timeout stands for the next frame's edge is the model's
choice (entry 30). -/
def Obligations.command_mode_edges : Prop :=
  ∀ (s : State) (h : DieIx), s.present h = true → (s.die h).head.running = true →
    (s.die h).fField Reg.scnTeCtrl 0 0 = 1 →
    let x := s.die h
    let te := x.head.te
    let counts (rising : Bool) : Prop := rising = decide (x.fField Reg.scnTeCtrl 1 1 = 0)
    let ended (t : State) : Prop := s.OnlyDie t h ∧
      t.die h = { x with head := { x.head with te := { te with waiting := false, edgeAt := s.gsc } } }
    (∀ r, ¬ counts r → exec (.teEdge ⟨h, r⟩) s = .next s) ∧
    (∀ r, counts r → te.waiting = true → Does (.teEdge ⟨h, r⟩) s ended) ∧
    (∀ r, counts r → te.waiting = false → Does (.teEdge ⟨h, r⟩) s fun t => s.OnlyDieHost t h ∧ x.OnlyHead (t.die h) [Reg.scnEvt] ∧
      (t.die h).head = { x.head with te := { te with earlyEdge := true, edgeAt := if te.earlyEdge then te.edgeAt else s.gsc } } ∧
      t.reg h Reg.scnEvt = s.reg h Reg.scnEvt ||| 0x08) ∧
    ∀ m, x.head.mode = some m → te.waiting = true → 2 * 10 ^ 11 ≤ (s.gsc - te.edgeAt) * m.rate →
      Does (.teTimeout ⟨h, true⟩) s ended ∧ Does (.teTimeout ⟨h, false⟩) s fun t => s.OnlyDieHost t h ∧ x.OnlyHead (t.die h) [Reg.scnEvt, Reg.scnRepeatCnt] ∧
        (t.die h).head = { x.head with te := { te with waiting := false, repeatFrame := te.good.isSome, edgeAt := s.gsc } } ∧
        t.reg h Reg.scnRepeatCnt = satCount (s.reg h Reg.scnRepeatCnt) 1 ∧
        t.reg h Reg.scnEvt = s.reg h Reg.scnEvt ||| 0x04

/-- LINK_UP, LINK_DOWN, HDCP_AUTHENTICATED and HDCP_FAIL. SCN_STATUS: [0] LINK_UP, [5] HDCP. -/
def Obligations.links_up_and_down : Prop :=
  ∀ (s : State) (h : DieIx), s.present h = true →
    let x := s.die h
    let st := s.reg h Reg.scnStatus
    (s.drivesLink h = true → x.head.linkUp = false → Does (.linkUp h) s fun t => s.OnlyDieHost t h ∧
      x.OnlyHead (t.die h) [Reg.scnEvt, Reg.scnStatus, Reg.scnRetrainCnt] ∧
      (t.die h).head = { x.head with linkUp := true, trained := true } ∧ t.reg h Reg.scnStatus = setBits st 0 0 1 ∧
      t.reg h Reg.scnRetrainCnt = (if x.head.trained then satCount (s.reg h Reg.scnRetrainCnt) 1 else s.reg h Reg.scnRetrainCnt) ∧
      t.reg h Reg.scnEvt = s.reg h Reg.scnEvt ||| 0x02) ∧
    (∀ hp : Bool, x.head.linkUp = true → Does (.linkDown h hp) s fun t => s.OnlyDieHost t h ∧
      x.OnlyHead (t.die h) [Reg.scnEvt, Reg.scnStatus, Reg.secDownEvents] ∧
      (t.die h).head = { x.head with
        linkUp := false, hdcp := none
        downSince := if hp && x.head.running && x.head.downSince.isNone then some s.gsc else x.head.downSince } ∧
      t.reg h Reg.scnStatus = setBits (setBits st 0 0 0) 5 5 0 ∧
      t.reg h Reg.scnEvt = s.reg h Reg.scnEvt ||| 0x01 ∧
      t.reg h Reg.secDownEvents = (if hp && x.head.running && x.head.downSince.isNone then
        satCount (s.reg h Reg.secDownEvents) 1 else s.reg h Reg.secDownEvents)) ∧
    (∀ ct : Fin 2, x.head.linkUp = true → x.fField Reg.scnCtrl 14 14 = 1 → s.otp.features.getLsbD 0 = true →
      Does (.hdcpAuthenticated h ct) s fun t => s.OnlyDie t h ∧ x.OnlyHead (t.die h) [Reg.scnStatus] ∧
        (t.die h).head = { x.head with hdcp := some ct } ∧ t.reg h Reg.scnStatus = setBits st 5 5 1) ∧
    Does (.hdcpFail h) s fun t => s.OnlyDieHost t h ∧ x.OnlyHead (t.die h) [Reg.scnEvt, Reg.scnStatus] ∧
      (t.die h).head = { x.head with hdcp := none } ∧ t.reg h Reg.scnStatus = setBits st 5 5 0 ∧
      t.reg h Reg.scnEvt = s.reg h Reg.scnEvt ||| 0x10

/-- GENLOCK_EDGE, HOLDOVER and PTP_MESSAGE. A canvas on a Replay binding, or whose head is in command mode, follows no lock source
(R70, R251). That the first grandmaster of all counts as new is the model's choice (entry 47), and so is the target that the first
reference sets after line mode placed the raster (entry 79). A handle names one canvas. -/
def Obligations.lock_references : Prop :=
  let off (s : State) (c : Canvas) : Int := s.lockOffset c * (c.binding.htotal : Nat)
  let takes (s : State) (c : Canvas) (k : Lock) (at_ want : Int) : Prop :=
    k.lastRef = s.gsc ∧ k.target = (if c.lock.retarget then some (at_ - (want - off s c)) else c.lock.target) ∧
      k.phaseErr = c.clockErr at_ (want - off s c + k.target.getD 0)
  (∀ (s : State) (cv : CanvasId) (c : Canvas) (ref : Fin 9) (pixel : Nat), s.canvas cv = some c → c.replays = false →
    s.inCommand c.stepDie = false →
    if c.binding.lock = 0 ∧ (s.die c.stepDie).fField Reg.clkLockCfg 3 0 = ref.val then
      Does (.genlockEdge cv ⟨ref, pixel⟩) s fun t => ∃ k, t.canvas cv = some { c with lock := k } ∧
        takes s c k (s.rasterClocks c pixel) 0 ∧ k.trim = c.lock.trim ∧
        k.state = (match c.lock.state with
          | .free => .acquire
          | .holdover => if 1 ≤ c.lock.edges then .acquire else .holdover
          | .acquire => .acquire
          | .locked => .locked) ∧
        (k.state = c.lock.state → t = { s with canvases := t.canvases }) ∧
        ∀ v, v ≠ cv → t.canvas v = s.canvas v
    else exec (.genlockEdge cv ⟨ref, pixel⟩) s = .next s) ∧
  (∀ (s : State) (cv : CanvasId) (c : Canvas), s.canvas cv = some c → c.replays = false →
    s.inCommand c.stepDie = false → (c.lock.state = .acquire ∨ c.lock.state = .locked) →
    (c.binding.lock = 1 ∨ (c.binding.lock = 0 ∧ 3 * s.refDiv c * 10 ^ 11 ≤ (s.gsc - c.lock.lastRef) * c.binding.rate)) →
    Does (.holdover cv) s fun t => (∀ v, v ≠ cv → t.canvas v = s.canvas v) ∧ ∃ k, t.canvas cv = some { c with lock := k } ∧
      k.state = .holdover ∧ k.trim = c.lock.trim ∧ k.lastRef = c.lock.lastRef ∧ k.phaseErr = c.lock.phaseErr) ∧
  ∀ (s : State) (d : DieIx) (m : PtpMsg),
    (s.field 0 Reg.clkPtpCtrl 0 0 = 0 ∨ s.field 0 Reg.clkPtpCtrl 3 1 ≠ d.val → exec (.ptpMessage d m) s = .next s) ∧
    (s.field 0 Reg.clkPtpCtrl 0 0 = 1 → s.field 0 Reg.clkPtpCtrl 3 1 = d.val →
      Does (.ptpMessage d m) s fun t => t.ptp = { grandmaster := some m.grandmaster, offsetNs := m.offsetNs } ∧
        (s.canvases = [] → t = { s with
            ptp := t.ptp, dies := t.dies, fns := t.fns, hostRegs := t.hostRegs, hostMem := t.hostMem } ∧
          t.reg 0 Reg.clkPtpOffset = BitVec.ofInt 32 m.offsetNs ∧
          t.reg 0 Reg.clkEvt = s.reg 0 Reg.clkEvt ||| (if s.ptp.grandmaster = some m.grandmaster then 0 else 0x04) ∧
          (s.die 0).OnlyRegs (t.die 0) [Reg.clkPtpOffset, Reg.clkEvt] ∧ ∀ e, e ≠ 0 → t.die e = s.die e) ∧
        ∀ (cv : CanvasId) (c : Canvas), m.sync = true → s.canvas cv = some c → c.binding.lock = 1 → c.replays = false →
          (∀ k ∈ s.canvases, k.id = cv → k = c) → s.inCommand c.stepDie = false →
          ∃ k, t.canvas cv = some { c with lock := k } ∧
            takes s c k (s.rasterClocks c (((m.pixels.find? fun e => e.1 == cv).map Prod.snd).getD 0)) (c.sinceAlignment m.timeNs))

/-- SOURCE_FRAME_START, SOURCE_LINE_ARRIVAL, SOURCE_FRAME_COMPLETE and SOURCE_RATE_CHANGE. A port's stream has a number on port 2
alone. That a frame that lacks a line is dropped is the model's choice (entry 30). -/
def Obligations.source_capture : Prop :=
  ∀ (s : State) (d : DieIx) (port : Fin 3) (stream : BitVec 6), s.present d = true →
    let x := s.die d
    let key := if port = 2 then stream.toNat else 0
    let others (t : State) : Prop := (∀ e, e ≠ d → (t.die e).sources = (s.die e).sources) ∧ ∀ (p : Fin 3) (k : Nat),
      (p ≠ port ∨ (p = 2 ∧ k ≠ key)) → (t.die d).portSource p.val k = x.portSource p.val k
    (∀ (counter : Word) (form : VideoForm), x.portOn port = true →
      Does (.sourceFrameStart d port stream counter true form) s fun t => others t ∧ t.gsc = s.gsc ∧
        ∃ q f, (t.die d).portSource port.val key = some q ∧ q.capturing = some f ∧ q.form = form ∧ f.form = form ∧
          f.counter = counter.setWidth 64 ∧ f.ts = s.gsc ∧ f.lines = [] ∧ q.nextIndex = f.index + 1 ∧
          ∀ p, x.portSource port.val key = some p → f.index = p.nextIndex ∧ q.frames = p.frames) ∧
    (∀ (counter : Word) (form : VideoForm), x.portOn port = true →
      Does (.sourceFrameStart d port stream counter false form) s fun t => others t ∧ s.OnlyDie t d ∧
        ∃ q, (t.die d).portSource port.val key = some q ∧ q.capturing = none ∧
          ∀ p, x.portSource port.val key = some p → q = { p with capturing := none }) ∧
    ∀ (q : Source), x.portSource port.val key = some q →
      (∀ (f : SrcFrame) (line : Nat) (counter : Word) (bytes : List Byte), x.portOn port = true → q.capturing = some f →
        line < f.form.height → Does (.sourceLineArrival d port stream line counter bytes) s fun t => others t ∧
          s.OnlyDie t d ∧ t.die d = { x with sources := (t.die d).sources } ∧ ∃ g,
          (t.die d).portSource port.val key = some { q with capturing := some g } ∧ g = { f with lines := g.lines, lastAt := s.gsc } ∧
          sLookup g.lines line = some { bytes := bytes, crc := crc32c bytes, counter := counter, ts := f.ts } ∧
          ∀ k, k ≠ line → sLookup g.lines k = sLookup f.lines k) ∧
      (∀ (f : SrcFrame), q.capturing = some f → f.lines.length = f.form.height →
        Does (.sourceFrameComplete d port stream) s fun t => others t ∧ ∃ r sm rep,
          (t.die d).portSource port.val key = some r ∧ r.capturing = none ∧ r.nextIndex = q.nextIndex ∧ r.recorded = q.recorded + 1 ∧
          (q.stamps = [] → sm = f.ts) ∧
          r.frames = (q.frames ++ [{ f with smoothed := sm, repeated := rep }]).drop (q.frames.length + 1 - 6)) ∧
      (∀ (f : SrcFrame), q.capturing = some f → f.lines.length ≠ f.form.height →
        Does (.sourceFrameComplete d port stream) s fun t => others t ∧ s.OnlyDie t d ∧
          (t.die d).portSource port.val key = some { q with capturing := none }) ∧
      Does (.sourceRateChange d port stream) s fun t => others t ∧
        (t.die d).portSource port.val key =
          some { q with newRateFrames := some 0, oldLast := q.lastComplete.map SrcFrame.index, stamps := [],
                        meanPeriod := 0, cadence := .none } ∧
        ∀ cv c, s.canvas cv = some c → cv ∈ (s.usersOf d q).map (fun e => e.1.id) → c.lineMode = true →
          ∃ k, t.canvas cv = some k ∧ k.retimeNext = true

/-- HOLD_LIMIT_EXPIRY: a millisecond is 100,000 ticks of 10 ns. -/
def Obligations.hold_limit_begins_fill : Prop :=
  ∀ (s : State) (h : DieIx) (l : LayerIx) (from_ : Nat), s.present h = true →
    let x := s.die h
    x.head.layers[l.val].held = true → x.head.layers[l.val].fill = false → x.head.layers[l.val].holdFrom = some from_ →
    100_000 * x.field Reg.cmpHoldLimit 15 0 ≤ s.gsc - from_ →
    Does (.holdLimitExpiry h l) s fun t => s.OnlyDie t h ∧
      t.die h = { x with head := { x.head with layers := (t.die h).head.layers } } ∧
      (t.die h).head.layers[l.val] = { x.head.layers[l.val] with fillNext := some true } ∧
      ∀ k : LayerIx, k ≠ l → (t.die h).head.layers[k.val] = x.head.layers[k.val]

/-- LINE_START on a head without a canvas, on a line that is not the first of the vertical blanking. -/
def Obligations.line_counter_advances : Prop :=
  ∀ (s : State) (h : DieIx) (inp : LineIn) (m : Mode), s.present h = true → s.headCanvas h = none →
    let x := (s.die h).head
    let next := if x.vtotalNow ≤ x.line + 1 then 0 else x.line + 1
    x.mode = some m → x.running = true → x.te.waiting = false → next ≠ m.h →
    Does (.lineStart h inp) s fun t => (t.die h).head.line = next ∧ (t.die h).head.mode = some m ∧
      (t.die h).head.running = true ∧ (t.die h).head.vtotalNow = x.vtotalNow ∧ (t.die h).head.commit = x.commit ∧
      t.canvases = s.canvases

/-- Table 2.2 row by row, and what latching a choice counts. Counters are 64 bits wide. -/
def Obligations.deadline_choice : Prop :=
  (∀ (s : State) (c : Canvas) (p : PartSt),
    let l := (s.die p.id.head).head.layers[p.id.layer.val]
    let forced := s.power.point = .op3 ∨ (s.die p.computeDie).sfn.restart.isSome = true ∨ (s.die p.computeDie).sfn.latchedOff = true ∨
      (s.die p.computeDie).sfn.phase ≠ .armed
    let source := l.withheld = true ∨
      ((∃ e, c.layerEntry p.id.layer = some e ∧ e.source ≠ 0xFF) ∧ (l.held = true ∨ l.fill = true ∨ c.changing = true))
    (forced → s.choose c p = .forced) ∧
    (s.forcedPart c p = false → source → s.choose c p = .source) ∧
    (s.forcedPart c p = false → s.sourcePart c p = false →
      ((p.failed.isSome = true ∨ p.abandoned = true) → s.choose c p = .fault) ∧
      (p.failed = none → p.abandoned = false →
        (p.complete = false → s.choose c p = .late) ∧
        (p.complete = true →
          (p.verdict = none → s.choose c p = .late) ∧ (p.verdict = some false → s.choose c p = .reject) ∧
          (p.verdict = some true → s.choose c p = .neural))))) ∧
  ∀ (s : State) (c : Canvas) (p : PartSt) (cause : Cause), s.present p.id.head = true →
    let t := s.latchPart c p cause
    let count (u : State) (d : DieIx) (k : Nat) : BitVec 64 := sGet (fun _ => 0) (u.die d).choices k
    (∀ (q : PartSt), s.canvas c.id = some c → c.parts.find? (fun r => r.id == p.id && r.frame == p.frame) = some q →
      ∃ k, t.canvas c.id = some k ∧ k.parts.find? (fun r => r.id == p.id && r.frame == p.frame) =
        some { q with choice := some cause }) ∧
    ∀ d k, count t d k = count s d k +
      (if d = p.id.head ∧ count s d k ≠ BitVec.allOnes 64 ∧ (k = p.id.layer.val * 8 + cause.code ∨
        (k = p.id.layer.val * 8 + Cause.degraded.code ∧ cause = .neural ∧ p.degraded = true)) then 1 else 0)

/-- FALLBACK_COMPLETE and VERDICT on a canvas that is not in Replay mode. -/
def Obligations.verdict_and_fallback : Prop :=
  ∀ (s : State) (c : Canvas) (h : DieIx), s.present h = true → s.headCanvas h = some c → s.canvas c.id = some c → c.replays = false →
    (∀ (l : LayerIx) (stripe : Nat), Does (.fallbackComplete h l stripe) s fun t =>
      t = { s with canvases := t.canvases } ∧ (∀ v, v ≠ c.id → t.canvas v = s.canvas v) ∧
      t.canvas c.id = some { c with parts := c.parts.map fun p =>
        if p.frame = c.frameNo ∧ p.id.head = h ∧ p.id.layer = l ∧ p.id.stripe = stripe ∧ p.fallbackStarted = true then
          { p with fallbackDone := true } else p }) ∧
    ∀ (p : PartId) (q : PartSt) (x : LayerEntry), p.head = h →
      c.parts.find? (fun r => r.id == p && r.frame == c.frameNo) = some q → c.layerEntry p.layer = some x →
      q.complete = true → q.fallbackDone = true → q.verdict = none → q.failed = none → q.abandoned = false →
      (s.die h).sfn.phase = .armed →
      let k := s.field h Reg.sfnHf 21 16
      let bounds := [s.field h Reg.sfnTMean 15 0, s.field h Reg.sfnTMax 15 0, s.field h Reg.sfnHf 15 0, s.field h Reg.sfnTFlash 15 0]
      let within (m : List Nat) : Bool := (m.zip bounds).all fun e => decide (e.1 ≤ e.2)
      let pass := within (c.judge (s.die h).sfn k x q false) && (x.pixfmt != 13 || within (c.judge (s.die h).sfn k x q true))
      Does (.verdict p) s fun t => (∀ v, v ≠ c.id → t.canvas v = s.canvas v) ∧
        (∃ c', t.canvas c.id = some c' ∧ c' = { c with parts := c'.parts } ∧
          c'.parts.find? (fun r => r.id == p && r.frame == c.frameNo) = some { q with verdict := some pass }) ∧
        (pass = true → t = { s with canvases := t.canvases }) ∧
        (pass = false → s.OnlyDieHost { t with canvases := s.canvases } h ∧ (t.die h).sfn = { (s.die h).sfn with frameBad := true } ∧
          t.reg h Reg.sfnEvt = s.reg h Reg.sfnEvt ||| 0x01 ∧
          ∀ k, k ∉ [Reg.sfnEvt, Reg.sfnLastReject, Reg.sfnLastM0, Reg.sfnLastM1] → t.reg h k = s.reg h k)

/-- RESTART_GATE_END, RESTART_RESTAGE_DONE, RESTART_INJECTION_DONE and CLEAR_LATCH. Rows marked for a restart: 1, 3, 4, 8, 10, 11,
12, 14 and 18. -/
def Obligations.restart_sequence : Prop :=
  ∀ (s : State) (d : DieIx), s.present d = true →
    let x := s.die d
    (∀ r : Restart, x.sfn.restart = some r → r.phase = .gated → r.at_ + 105_000 ≤ s.gsc →
      Does (.restartGateEnd d) s fun t => s.OnlyDie t d ∧ (t.die d).regs = x.regs ∧ (t.die d).bigTop = x.bigTop ∧
        (t.die d).tsl = x.tsl ∧ (t.die d).engines = Vector.replicate 2 Engine.reset ∧
        (t.die d).sfn = { x.sfn with restart := some { r with phase := .powered } } ∧
        ∀ e ∈ (t.die d).streams, e.2.canvas = none) ∧
    (∀ r : Restart, x.sfn.restart = some r → r.phase = .powered →
      Does (.restartRestageDone d) s fun t => s.OnlyDie t d ∧
        t.die d = { x with tsl := (t.die d).tsl, sfn := { x.sfn with restart := some { r with phase := .restaged } } } ∧
        (t.die d).tsl = { x.tsl with objs := (t.die d).tsl.objs } ∧
        (t.die d).tsl.objs = x.tsl.objs.map fun e =>
          if (x.tsl.ctxs.any fun c => c.1 == e.2.ctx && match c.2.owner with | .bundle _ => true | .firmware => false | .func _ => false)
          then (e.1, { e.2 with value := 0 }) else e) ∧
    (∀ (r : Restart) (bad : BitVec 18), x.sfn.restart = some r → r.phase = .restaged →
      let rows : BitVec 18 := 0b100010111010001101
      (bad &&& rows = 0 → s.hasRaster d = true → Does (.restartInjectionDone d bad) s fun t =>
        t = { s with dies := t.dies, canvases := t.canvases } ∧ t.reg d Reg.sfnInjFail = 0 ∧
        (t.die d).sfn = { x.sfn with restart := some { r with phase := .injected } } ∧
        ∀ cv c, s.canvas cv = some c → c.dies.contains d = true → c.firstAt = none →
          t.canvas cv = some { c with firstAt := some (s.gsc + 200), started := [] }) ∧
      (bad &&& rows ≠ 0 → Does (.restartInjectionDone d bad) s fun t => s.OnlyDieHost t d ∧
        t.reg d Reg.sfnInjFail = (bad &&& rows).setWidth 32 ∧ t.reg d Reg.sfnEvt = s.reg d Reg.sfnEvt ||| 0x04 ∧
        (t.die d).sfn = { x.sfn with latchedOff := true, restart := none })) ∧
    (1 ≤ s.role .pf → s.auditRoom = true → x.sfn.latchedOff = true → x.sfn.restart = none → x.sfn.phase = .armed →
      Does (.clearLatch d) s fun t => (t.die d).sfn.latchedOff = false ∧
        (t.die d).sfn.restart = some { at_ := s.gsc, phase := .gated } ∧ (t.die d).sfn.restarts = [s.gsc] ∧
        t.nvm.auditHead = s.nvm.auditHead + 1)

/-- GOLDEN_COMPLETE. The CRC-32C that the command carries is that of the golden output bytes; `Config.goldenCrc` is what the image
of this firmware build gives for a variant. -/
def Obligations.golden_mismatch_restarts : Prop :=
  ∀ (s : State) (d : DieIx) (crc : Word), s.present d = true →
    let x := s.die d
    x.sfn.goldenStarted = true → (x.engines[x.sfn.goldenEngine.val]).slot15 = none →
    let expected := Config.goldenCrc (s.reg d Reg.detClassHi) x.sfn.goldenVariant
    (crc = expected → Does (.goldenComplete d crc) s fun t => s.OnlyDie t d ∧ x.OnlyRegs { t.die d with
        engines := x.engines, sfn := x.sfn } [Reg.sfnGolden] ∧ t.field d Reg.sfnGolden 2 2 = 1 ∧
      (t.die d).sfn = { x.sfn with goldenStarted := false, goldenDefer := 0 }) ∧
    (crc ≠ expected → Does (.goldenComplete d crc) s fun t =>
      t.reg d Reg.sfnGoldenFailCnt = satCount (s.reg d Reg.sfnGoldenFailCnt) 1 ∧ (t.reg d Reg.sfnEvt).getLsbD 5 = true ∧
      t.field d Reg.sfnGolden 2 2 = 0 ∧ (t.die d).sfn.goldenStarted = false ∧
      (x.sfn.phase = .armed → x.sfn.restart = none → x.sfn.latchedOff = false →
        if 2 ≤ (x.sfn.restarts.filter fun e => decide (s.gsc ≤ e + 1_000_000_000)).length then (t.die d).sfn.latchedOff = true
        else (t.die d).sfn.restart = some { at_ := s.gsc, phase := .gated } ∧ (t.reg d Reg.sfnEvt).getLsbD 1 = true))

/-- GOLDEN_STRIPE_PERIODIC_RUN and GOLDEN_DEFER, in every state of a die. The frame step of a run without a raster is the model's
choice (entry 43). -/
def Obligations.golden_runs_and_deferrals : Prop :=
  ∀ (s : State) (d : DieIx), s.present d = true →
    let x := s.die d
    let e : EngIx := if s.power.point = .op2 then 0 else Fin.ofNat 2 (s.gsc / 4 % 2)
    let g := x.engines[e.val]
    ((s.hasRaster d = true ∨ s.neuralOn d = false) → Does (.goldenStripePeriodicRun d) s fun t => t = s) ∧
    (s.neuralOn d = true → s.hasRaster d = false → Does (.goldenStripePeriodicRun d) s fun t => s.OnlyDie t d ∧
      t.die d = { x with engines := (t.die d).engines
                         sfn := { x.sfn with goldenStarted := true, goldenVariant := Fin.ofNat 4 (s.gsc % 4), goldenEngine := e } } ∧
      (∀ f : EngIx, f ≠ e → (t.die d).engines[f.val] = x.engines[f.val]) ∧
      (t.die d).engines[e.val] = (if x.sfn.goldenDefer < 2 then g else
        { g with slots := g.slots.filter fun p => p.1.val != 15, golden := g.slot15.or g.golden })) ∧
    (x.sfn.goldenStarted = true → x.sfn.goldenDefer < 2 → (x.engines[x.sfn.goldenEngine.val]).slot15.isSome = true →
      Does (.goldenDefer d) s fun t => s.OnlyDie t d ∧ x.OnlyRegs { t.die d with sfn := x.sfn } [Reg.sfnGolden] ∧
        (t.die d).sfn = { x.sfn with goldenStarted := false, goldenDefer := x.sfn.goldenDefer + 1 } ∧
        t.field d Reg.sfnGolden 1 0 = x.sfn.goldenDefer + 1 ∧
        ∀ hi lo, 1 < lo → t.field d Reg.sfnGolden hi lo = s.field d Reg.sfnGolden hi lo) ∧
    ((x.sfn.goldenStarted = false ∨ 2 ≤ x.sfn.goldenDefer ∨ (x.engines[x.sfn.goldenEngine.val]).slot15 = none) →
      Does (.goldenDefer d) s fun t => t = s)

/-- MONITOR_TRIP, LOCKSTEP_MISMATCH, RASTER_STALL, HEARTBEAT_TIMEOUT and HB_OUT_TOGGLE. SFN_EVT: [6] SAFE, [7] MONITOR, [8] WDOG. -/
def Obligations.monitors_and_watchdogs : Prop :=
  (∀ (s : State) (d : DieIx), s.present d = true →
    let x := s.die d
    let safe (t : State) (k : Nat) : Prop := (t.die d).sfn.phase = .safe ∧ (t.die d).sfn.restart = none ∧ (t.die d).sfn.safeAt = s.gsc ∧
      FaultCause.safe ∈ (t.die d).sfn.faults ∧ t.faultLow = true ∧ t.neuralOn d = false ∧
      t.reg d Reg.sfnMon = s.reg d Reg.sfnMon ||| BitVec.ofNat 32 (2 ^ k) ∧
      (t.reg d Reg.sfnEvt).getLsbD 6 = true ∧ (t.reg d Reg.sfnEvt).getLsbD 7 = true
    let watch (c : Instr) (k : Nat) (f : FaultCause) (offs : List Nat) : Prop := Does c s fun t => s.OnlyDieHost t d ∧
      f ∈ (t.die d).sfn.faults ∧ (∀ g, g ∈ x.sfn.faults → g ∈ (t.die d).sfn.faults) ∧ (t.die d).sfn.phase = x.sfn.phase ∧
      t.faultLow = true ∧ t.reg d Reg.sfnMon = s.reg d Reg.sfnMon ||| BitVec.ofNat 32 (2 ^ k) ∧
      t.reg d Reg.sfnEvt = s.reg d Reg.sfnEvt ||| 0x100 ∧
      ∀ o, o ∉ Reg.sfnMon :: Reg.sfnEvt :: offs → t.reg d o = s.reg d o
    (∀ m : Monitor, x.sfn.phase ≠ .safe → Does (.monitorTrip d m) s fun t => safe t (monitorBit m)) ∧
    (x.sfn.phase ≠ .safe → Does (.lockstepMismatch d) s fun t => safe t 12) ∧
    (x.head.running = true → x.head.te.waiting = false → watch (.rasterStall d) 10 .rasterStall [Reg.secDownEvents]) ∧
    watch (.heartbeatTimeout d) 11 .heartbeat []) ∧
  ∀ s : State, Does .hbOutToggle s fun t => t = { s with pins := t.pins } ∧
    t.pins = { s.pins with hbOut := if (s.die 0).sfn.phase = .armed ∧ (∀ d, s.present d = true → (s.die d).sfn.faults = [])
      then !s.pins.hbOut else s.pins.hbOut }

/-- CURRENT_SAMPLE, CURRENT_SAMPLE_TIMEOUT and IG_CLEAR. SFN_EVT: [10] CURRENT. -/
def Obligations.current_guard : Prop :=
  (∀ (s : State) (ch : Fin 32), bit (s.ig ch).cfg 0 = true →
    let c := s.ig ch
    let limit := bits c.limit 15 0
    let others (t : State) : Prop := ∀ k, k ≠ ch → t.ig k = s.ig k
    let trips (t : State) : Prop := t.reg 0 Reg.sfnIgTripCnt = satCount (s.reg 0 Reg.sfnIgTripCnt) 1 ∧
      t.reg 0 Reg.sfnEvt = s.reg 0 Reg.sfnEvt ||| 0x400
    (∀ ma : BitVec 16, ¬ (limit < ma.toNat ∧ c.exceeded = true) ∨ c.tripped = true → Does (.currentSample ch ma) s fun t =>
      t = { s with igs := t.igs } ∧ others t ∧ t.ig ch = { c with last := ma, exceeded := decide (limit < ma.toNat) }) ∧
    (∀ ma : BitVec 16, limit < ma.toNat → c.exceeded = true → c.tripped = false → Does (.currentSample ch ma) s fun t =>
      others t ∧ trips t ∧ t.ig ch = { c with last := ma, exceeded := true, tripped := true, timeout := false }) ∧
    (c.tripped = false → Does (.currentSampleTimeout ch) s fun t =>
      others t ∧ trips t ∧ t.ig ch = { c with tripped := true, timeout := true })) ∧
  ∀ (s : State), 1 ≤ s.role .pf → s.auditRoom = true →
    let ch : Fin 32 := Fin.ofNat 32 (s.field 0 Reg.sfnIgSel 4 0)
    (s.ig ch).last.toNat ≤ bits (s.ig ch).limit 15 0 →
    Does (.igClear false) s fun t => t.ig ch = { s.ig ch with tripped := false, timeout := false } ∧
      (∀ k, k ≠ ch → t.ig k = s.ig k) ∧ t.dies = s.dies ∧
      Does (.igClear true) s fun u => u.igs = s.igs ∧ u.dies = s.dies

/-- ECHO_READ of head 0 for a record with a new sequence number. -/
def Obligations.receiver_echo : Prop :=
  ∀ (s : State) (digest : Word) (lines seq : BitVec 16), s.field 0 Reg.sfnEchoCtrl 0 0 = 1 →
    let e := (s.die 0).head.echo
    let n := s.field 0 Reg.sfnEchoCtrl 9 6
    e.lastSeq ≠ some seq → 1 ≤ n →
    (digest ∉ e.digests → Does (.echoRead 0 digest lines seq) s fun t => s.OnlyDieHost t 0 ∧
      t.reg 0 Reg.sfnEchoMissCnt = satCount (s.reg 0 Reg.sfnEchoMissCnt) 1 ∧ t.reg 0 Reg.sfnEchoLostCnt = s.reg 0 Reg.sfnEchoLostCnt ∧
      (t.die 0).head.echo.bad = e.bad + 1 ∧ (t.die 0).head.echo.good = 0 ∧
      (n ≤ e.bad + 1 → FaultCause.echo ∈ (t.die 0).sfn.faults ∧ t.reg 0 Reg.sfnEvt = s.reg 0 Reg.sfnEvt ||| 0x200) ∧
      (e.bad + 1 < n → t.reg 0 Reg.sfnEvt = s.reg 0 Reg.sfnEvt)) ∧
    (digest ∈ e.digests → Does (.echoRead 0 digest lines seq) s fun t => s.OnlyDie t 0 ∧ (t.die 0).regs = (s.die 0).regs ∧
      (t.die 0).head.echo.good = e.good + 1 ∧ (t.die 0).head.echo.bad = 0 ∧
      (n ≤ e.good + 1 → FaultCause.echo ∉ (t.die 0).sfn.faults) ∧
      (e.failing = true → e.good + 1 < n → (t.die 0).sfn.faults = (s.die 0).sfn.faults))

/-- The writes of the five settings. That a die whose head runs no raster takes them at once is the model's choice (entry 42). -/
def Obligations.threshold_writes : Prop :=
  ∀ (s : State) (d : DieIx) (v : Word) (cmd : Instr) (off : Nat), s.present d = true →
    (cmd, off) ∈ [(.sfnTMeanWrite d v, Reg.sfnTMean), (.sfnTMaxWrite d v, Reg.sfnTMax), (.sfnHfWrite d v, Reg.sfnHf),
      (.sfnTFlashWrite d v, Reg.sfnTFlash), (.sfnCapWrite d v, Reg.sfnCap)] →
    let w := writeWord (fieldsAt off) (s.reg d off) v 0
    (s.role .pf = 0 → Does cmd s fun t => s.OnlyDieHost t 0 ∧ (s.die 0).OnlyRegs (t.die 0) [Reg.secRoleDenyCnt, Reg.secEvt] ∧
      t.reg 0 Reg.secRoleDenyCnt = satCount (s.reg 0 Reg.secRoleDenyCnt) 1 ∧ t.reg 0 Reg.secEvt = s.reg 0 Reg.secEvt ||| 0x01) ∧
    (1 ≤ s.role .pf → ((s.die d).withinEnvelope off w = false ∨ s.field 0 Reg.detRecCtrl 0 0 = 1) → Does cmd s fun t =>
      s.OnlyDieHost t d ∧ (s.die d).OnlyRegs (t.die d) [Reg.sfnEvt] ∧ t.reg d Reg.sfnEvt = s.reg d Reg.sfnEvt ||| 0x800) ∧
    (1 ≤ s.role .pf → (s.die d).withinEnvelope off w = true → s.field 0 Reg.detRecCtrl 0 0 = 0 →
      (s.auditRoom = true → Does cmd s fun t =>
        (∃ a : AuditEntry, t.sec.staging = s.sec.staging ++ [a] ∧ a.seq = s.nvm.auditHead ∧ a.kind = 1 ∧ a.die.toNat = d.val ∧
          a.offset.toNat = off ∧ a.old = s.reg d off ∧ a.new = w) ∧
        s.OnlyDie { t with sec := s.sec, nvm := s.nvm } d ∧
        (s.hasRaster d = true → (t.die d).regs = (s.die d).regs ∧
          (t.die d).sfn = { (s.die d).sfn with thresholds := ((s.die d).sfn.thresholds.filter fun e => e.1 != off) ++ [(off, w)] }) ∧
        (s.hasRaster d = false → t.reg d off = w ∧ (s.die d).OnlyRegs (t.die d) [off])) ∧
      (s.auditRoom = false → Does cmd s fun t => s.OnlyDieHost t 0 ∧ (s.die 0).OnlyRegs (t.die 0) [Reg.secEvt] ∧
        t.reg 0 Reg.secEvt = s.reg 0 Reg.secEvt ||| 0x80))

/-- SFN_INJ_GO and INJECTION_COMPLETE of the whole part. -/
def Obligations.error_injection : Prop :=
  (∀ (s : State) (d : DieIx), s.present d = true → (s.die d).sfn.injBusy = false →
    (s.power.point ≠ .op3 → Does (.sfnInjGo d) s fun t => s.OnlyDie t d ∧ (s.die d).OnlyRegs (t.die d) [Reg.sfnInjCtrl] ∧
      t.field d Reg.sfnInjCtrl 11 4 = Status.aborted.code) ∧
    (s.power.point = .op3 → Does (.sfnInjGo d) s fun t => t = { s with dies := t.dies } ∧
      (∀ e, s.present e = true → (t.die e).sfn = { (s.die e).sfn with injBusy := true }) ∧ t.field d Reg.sfnInjCtrl 11 4 = 0)) ∧
  ∀ (s : State) (l : List (BitVec 18)), (∀ d, s.present d = true → (s.die d).sfn.injBusy = true ∧ (s.die d).boot.alone = false) →
    let row (d : DieIx) : BitVec 18 := l.getD d.val 0
    ((∀ d, s.present d = true → row d = 0) → Does (.injectionComplete l) s fun t =>
      ∀ d, s.present d = true → t.reg d Reg.sfnInjFail = 0 ∧ (t.die d).sfn.injBusy = false ∧
        (t.die d).sfn.phase = (if (s.die d).sfn.phase = .safe then .safe else .armed)) ∧
    ((∃ d, s.present d = true ∧ row d ≠ 0) → Does (.injectionComplete l) s fun t => t.power = s.power ∧
      ∀ d, s.present d = true → t.reg d Reg.sfnInjFail = (row d).setWidth 32 ∧ (t.die d).sfn.injBusy = false ∧
        (t.die d).sfn.phase = (if (s.die d).sfn.phase = .safe then .safe else .init) ∧
        (row d ≠ 0 → FaultCause.injection ∈ (t.die d).sfn.faults ∧ t.reg d Reg.sfnEvt = s.reg d Reg.sfnEvt ||| 0x1000))

/-- TILE_LOAD of every item of a Matrix Engine, in every state in which the item stands, alone and with a load of the other engine in
the same cycle. -/
def Obligations.weight_loads : Prop :=
  let load (l : TileLoad) (other : Option TileLoad) : Instr := .tileLoad l.it l.t l.b ⟨l.tiles, l.acc⟩ other
  (∀ (s : State) (l : TileLoad) (c : Canvas) (i : Item) (e : EngIx), s.present l.it.die = true → l.it.unit = .me e →
    s.canvas l.it.canvas = some c → c.item l.it = some i → l.it.op < (bHeader c.image).nops →
    let id := l.it
    let o := c.opOf id.op
    let m := c.shape o
    let eng := (s.die id.die).engines[e.val]
    let ended (u : State) (st : Status) : Prop :=
      ∃ k j, u.canvas id.canvas = some k ∧ k.item id = some j ∧ j.ended = some st ∧ k.tensors = c.tensors
    (s.loadOk c i e l = false → Does (load l none) s fun u => u = s) ∧
    (s.loadOk c i e l = true →
      (s.loadEnd c i e l = .waits → Does (load l none) s fun u => u = s) ∧
      (s.loadEnd c i e l = .poisoned → Does (load l none) s fun u => ended u .poisoned) ∧
      (s.loadEnd c i e l = .aborted → Does (load l none) s fun u => ended u .aborted ∧
        (l.acc.uncorrectable = true → (u.reg id.die (Reg.mxeEvt e)).getLsbD 3 = true)) ∧
      (∀ k, s.loadEnd c i e l = .skewed k → Does (load l none) s fun u => ended u .scaleSkew ∧
        u.reg id.die (Reg.mxeSkewCnt e) = satCount (s.reg id.die (Reg.mxeSkewCnt e)) 1 ∧
        u.reg id.die (Reg.mxeSkewLast e) = BitVec.ofNat 32 (k.exp.pos % 65536 + 65536 * k.got) ∧
        u.reg id.die (Reg.mxeSkewWhere e) =
          BitVec.ofNat 32 (id.op % 65536 + 65536 * k.exp.kind + 2 ^ 19 * b2n k.hdr + 2 ^ 20 * b2n k.fin)) ∧
      ∀ plan blocks, s.loadEnd c i e l = .folds plan blocks → Does (load l none) s fun u => ∃ v : State,
        u = (if o.frameScope ∧ ((s.schedule c i).map List.length).sum = i.pos + l.tiles.length then v.arrive c i else v) ∧
        (∃ k, v.canvas id.canvas = some k ∧ k.item id = some { i with pos := i.pos + l.tiles.length } ∧ k = { c with items := k.items }) ∧
        v.reg id.die (Reg.mxeAccCe e) = satCount (s.reg id.die (Reg.mxeAccCe e)) l.acc.corrected ∧
        (∀ f : EngIx, f ≠ e → (v.die id.die).engines[f.val] = (s.die id.die).engines[f.val]) ∧
        (l.acc.corrected = 0 → v = { s with dies := v.dies, canvases := v.canvases } ∧ (∀ d, d ≠ id.die → v.die d = s.die d) ∧
          v.die id.die = { s.die id.die with engines := (v.die id.die).engines }) ∧
        ∀ x ∈ l.tiles, ∃ sl, ((v.die id.die).engines[e.val]).partial_ id x = some sl ∧
          sl = s.foldedTile c i e l (s.loadIn c i e l plan blocks) x ∧ sl.next = l.b + (s.loadKs c i l).length ∧
          ∀ w old, o.form = 0 → quantGroup o.quant = 0 → blocks = [w] → eng.partial_ id x = some old →
            sl.entries = ((c.tileEntries o (c.itemBand i) x).zip old.entries).map fun ((px, col, ch), acc) =>
              acc + BitVec.ofInt 32 (((List.range 128).map fun r =>
                prodInt (laneRaw (c.env id.die i.stripe i.frame (c.stepOf i.frame)) o.convP (o.ins.getD 0 0) m.cin m.cout m.blk x.t ch
                  (c.tileRow o x).1 (c.tileRow o x).2 px (128 * l.b + r)) (leAt w.payload (col * 128 + r) 1)).sum))) ∧
  ∀ (s : State) (l m : TileLoad) (a b : Skew), l.it.unit = .me 0 → m.it.unit = .me 1 → s.judgeLoad l = some (.skewed a) →
    s.judgeLoad m = some (.skewed b) → l.it.canvas = m.it.canvas → l.it.die = m.it.die → l.it.op = m.it.op → l.it.stepSeq = m.it.stepSeq →
    l.it.op < ((s.canvas l.it.canvas).elim 0 fun c => (bHeader c.image).nops) →
    let d := l.it.die
    ∀ p, p = (l, m) ∨ p = (m, l) → Does (load p.1 (some p.2)) s fun u => Does (load l none) s fun v =>
      u = { v with dies := u.dies } ∧
      u.reg d (Reg.mxeSkewLast 0) = BitVec.ofNat 32 (a.exp.pos % 65536 + 65536 * a.got) ∧
      u.reg d (Reg.mxeSkewLast 1) = BitVec.ofNat 32 (b.exp.pos % 65536 + 65536 * b.got) ∧
      u.reg d (Reg.mxeSkewCnt 0) = satCount (s.reg d (Reg.mxeSkewCnt 0)) 1 ∧
      u.reg d (Reg.mxeSkewCnt 1) = satCount (s.reg d (Reg.mxeSkewCnt 1)) 1

/-- TILE_CONVERT and ITEM_RETIRE of every item that stands, of each kind of unit. -/
def Obligations.tiles_convert_and_items_retire : Prop :=
  ∀ (s : State) (id : ItemId) (c : Canvas) (i : Item), s.present id.die = true → s.canvas id.canvas = some c → c.item id = some i →
    id.op < (bHeader c.image).nops →
    let o := c.opOf id.op
    let bnd := c.itemBand i
    let ended (t : State) (st : Status) : Prop :=
      ∃ k j, t.canvas id.canvas = some k ∧ k.item id = some j ∧ j.ended = some st ∧ k.tensors = c.tensors
    let retired (t : State) (k0 : Canvas) : Prop :=
      ∃ k j, t.canvas id.canvas = some k ∧ k.item id = some j ∧ j.retired = true ∧ k.tensors = k0.tensors
    let nestDone : Prop := ((s.schedule c i).map List.length).sum ≤ i.pos
    (∀ (e : EngIx) (tile : TileId) (acc : AccRead), id.unit = .me e →
      let held := ((s.die id.die).engines[e.val]).partial_ id tile
      let long := if s.allFolded c id.op id.die id.stepSeq then s.longStream c o id.die id.stepSeq else none
      (held = none ∨ i.live = false ∨ c.pause ≠ .running → Does (.tileConvert id tile acc) s fun t => t = s) ∧
      ∀ sl, held = some sl → i.live = true → c.pause = .running →
        (s.tileFinished c i sl = false → Does (.tileConvert id tile acc) s fun t => t = s) ∧
        (s.tileFinished c i sl = true → acc.uncorrectable = true → Does (.tileConvert id tile acc) s fun t =>
          (t.reg id.die (Reg.mxeEvt e)).getLsbD 3 = true ∧ ended t .aborted) ∧
        (∀ k, s.tileFinished c i sl = true → acc.uncorrectable = false → long = some k → Does (.tileConvert id tile acc) s fun t =>
          ended t .scaleSkew ∧ t.reg id.die (Reg.mxeSkewLast e) = BitVec.ofNat 32 (k.exp.pos % 65536 + 65536 * k.got) ∧
          t.reg id.die (Reg.mxeSkewCnt e) = satCount (s.reg id.die (Reg.mxeSkewCnt e)) 1) ∧
        (s.tileFinished c i sl = true → acc.uncorrectable = false → long = none → Does (.tileConvert id tile acc) s fun t =>
          let l := c.convertTile i bnd tile sl.entries
          (∃ k j, t.canvas id.canvas = some k ∧ k.item id = some j ∧ j.tiles = tile :: i.tiles ∧
            k.tensors = (c.writeElems o.out0 i.frame (l.map fun x => (x.1, x.2.raw))).tensors) ∧
          ((t.die id.die).engines[e.val]).partial_ id tile = none ∧
          t.reg id.die (Reg.mxeAccCe e) = satCount (s.reg id.die (Reg.mxeAccCe e)) acc.corrected)) ∧
    (i.live = false ∨ (s.die id.die).inflight.contains id = false ∨ c.mayEnd i = false → Does (.itemRetire id) s fun t => t = s) ∧
    (i.live = true → (s.die id.die).inflight.contains id = true → c.mayEnd i = true →
      (∀ e : EngIx, id.unit = .me e →
        let done : Prop := if (s.participant c o id).1 ≠ 0 ∧ o.frameScope = true then s.partials id = [] ∧ nestDone
          else nestDone ∧ bnd.y1 - bnd.y0 ≤ max i.rowsDone (c.prefixRows o bnd s.engines e.val i.tiles)
        (done → Does (.itemRetire id) s fun t => retired t c) ∧ (¬ done → Does (.itemRetire id) s fun t => t = s)) ∧
      ((∀ e : EngIx, id.unit ≠ .me e) →
        (s.inputsReady c i bnd bnd.y0 bnd.y1 = false ∨ s.served c i = false → Does (.itemRetire id) s fun t => t = s) ∧
        (s.inputsReady c i bnd bnd.y0 bnd.y1 = true → s.served c i = true →
          (s.needsPoisoned c i bnd bnd.y0 bnd.y1 = true → Does (.itemRetire id) s fun t => ended t .poisoned) ∧
          (s.needsPoisoned c i bnd bnd.y0 bnd.y1 = false →
            (s.inputsPoisoned c i bnd.y0 bnd.y1 = true → Does (.itemRetire id) s fun t => ended t .aborted) ∧
            (s.inputsPoisoned c i bnd.y0 bnd.y1 = false →
              (s.sideEnd c i = .waits → Does (.itemRetire id) s fun t => t = s) ∧
              (s.sideEnd c i = .aborted → Does (.itemRetire id) s fun t => ended t .aborted) ∧
              (∀ k, s.sideEnd c i = .skewed k → Does (.itemRetire id) s fun t => ended t .scaleSkew) ∧
              ∀ plan blocks, s.sideEnd c i = .folds plan blocks → Does (.itemRetire id) s fun t =>
                let w := c.unitWork i (c.nextStepOf i.frame) (s.sideReader c i)
                let k0 := match w.bytes0 with
                  | some bs => c.onBuf o.out0 i.frame fun u => u.ofBytes bs
                  | none => c.writeElems o.out0 i.frame w.out0
                retired t (if o.out1 = 0xFFFF then k0 else k0.writeElems o.out1 i.frame w.out1))))))

/-- SPLIT_K_COMBINE of node k: operands 2i and 2i + 1 of its level. The participants run on different engines. -/
def Obligations.split_k_combines : Prop :=
  ∀ (s : State) (id : ItemId) (c : Canvas) (it : Item) (k : Nat) (left right : AccRead), s.canvas id.canvas = some c → c.item id = some it →
    (it.live = false ∨ it.nodes.contains k = true → Does (.splitKCombine id ⟨k, left, right⟩) s fun t => t = s) ∧
    ∀ (a b : Item) (ea eb : EngIx) (lev i : Nat),
    let o := c.opOf id.op
    let n := participants (opNb c.image o) s.engines s.nDies
    let part (j : Item) : Nat := (s.participant c o j.id).1
    let find (p : Nat) : Option Item := c.items.find? fun j => j.id.op == id.op && j.id.stepSeq == id.stepSeq && part j == p
    let whole (p : Nat) (j : Item) : Prop :=
      (s.partials j.id).length = (((c.wholeBand o.out0).rows).map fun y => (c.rowTiles o (c.wholeBand o.out0) s.engines 0 y).length).sum ∧
      s.atBarrier j = false ∧ ∀ q ∈ s.partials j.id, q.next = (kRange p n (c.shape o).nb).2
    id.op < (bHeader c.image).nops → it.live = true →
    o.frameScope = true → (s.participant c o id).1 = 0 → (combineNodes 8 0 n)[k]? = some (lev, i) → it.nodes.contains k = false →
    (∀ j, j < k → it.nodes.contains j = true) → find (2 * i * 2 ^ lev) = some a → find ((2 * i + 1) * 2 ^ lev) = some b →
    whole (2 * i * 2 ^ lev) a → whole ((2 * i + 1) * 2 ^ lev) b → a.id.unit = .me ea → b.id.unit = .me eb →
    (a.id.die ≠ b.id.die ∨ ea ≠ eb) → s.present a.id.die = true → s.present b.id.die = true →
    (left.uncorrectable = true → a.live = true → a.id.canvas = id.canvas → Does (.splitKCombine id ⟨k, left, right⟩) s fun t =>
      (t.reg a.id.die (Reg.mxeEvt ea)).getLsbD 3 = true ∧
      ∃ c' j, t.canvas id.canvas = some c' ∧ c'.item a.id = some j ∧ j.ended = some .aborted ∧ c'.tensors = c.tensors) ∧
    (left.uncorrectable = false → right.uncorrectable = true → b.live = true → b.id.canvas = id.canvas →
      Does (.splitKCombine id ⟨k, left, right⟩) s fun t => (t.reg b.id.die (Reg.mxeEvt eb)).getLsbD 3 = true ∧
        ∃ c' j, t.canvas id.canvas = some c' ∧ c'.item b.id = some j ∧ j.ended = some .aborted ∧ c'.tensors = c.tensors) ∧
    (left.uncorrectable = false → right.uncorrectable = false → Does (.splitKCombine id ⟨k, left, right⟩) s fun t =>
      (left.corrected = 0 → right.corrected = 0 → t = { s with dies := t.dies, canvases := t.canvases } ∧
        ∀ d, (t.die d).regs = (s.die d).regs) ∧
      t.reg a.id.die (Reg.mxeAccCe ea) = satCount (s.reg a.id.die (Reg.mxeAccCe ea)) left.corrected ∧
      t.reg b.id.die (Reg.mxeAccCe eb) = satCount (s.reg b.id.die (Reg.mxeAccCe eb)) right.corrected ∧
      (∃ c' j, t.canvas id.canvas = some c' ∧ c' = { c with items := c'.items } ∧ c'.item id = some j ∧
        j = { it with nodes := it.nodes ++ [k] }) ∧
      (∀ x ∈ s.partials a.id, ∀ y, (s.partials b.id).find? (fun y => y.tile == x.tile) = some y →
        { x with entries := (x.entries.zip y.entries).map fun e => combineAdd o e.1 e.2 } ∈ t.partials a.id) ∧
      ∀ y ∈ s.partials b.id, y ∉ t.partials b.id)

/-- The Carousel instructions that touch only their stream, of bundle programs and of firmware programs. `u` is the state in which the
stream runs: `s`, but where this instruction starts a firmware program (entry 98). -/
def Obligations.carousel_address_instructions : Prop :=
  (∀ (s : State) (st : StreamId) (cap : List Byte), s.issue st = none →
    ∀ c ∈ [Instr.carouselNop st, .setb st, .sets st, .setm st, .setc st, .loop st, .endl st, .move st cap, .carouselWait st, .sig st,
      .cred st, .ret st, .endp st], Does c s fun t => t = s) ∧
  ∀ (s u : State) (st : StreamId) (x : Stream) (i : CInstr), s.present st.die = true → s.issue st = some (u, x, i) →
    let becomes (c : Instr) (y : Stream) : Prop := Does c s fun t => u.OnlyDie t st.die ∧
      t.die st.die = { u.die st.die with streams := (t.die st.die).streams } ∧ (t.die st.die).stream st = some y ∧
      ∀ k, k ≠ st → (t.die st.die).stream k = (s.die st.die).stream k
    let y := { x with pc := x.pc + 1 }
    (12 ≤ st.crs.val ∨ ((s.die st.die).stream st).isSome = true → u = s) ∧
    (i = .nop → becomes (.carouselNop st) y) ∧
    (∀ g space die base, i = .setb g space die base → x.canvas = none → becomes (.setb st) { y with
      gens := x.gens.set g.val { x.gens[g.val] with
        space := space, image := false, die := die, base := BitVec.ofNat 64 base, ring := 0 } }) ∧
    (∀ g space die base c, i = .setb g space die base → x.canvas.bind u.canvas = some c →
      let pool (d : DieIx) : Nat := ((c.pool.find? fun e => e.1 == d).map fun e => e.2.1).getD 0
      let dram : Nat := ((c.dramAt.find? fun e => e.1 == st.die).map Prod.snd).getD 0
      let high := base.testBit 39
      let start : Nat := match space.val with
        | 0 => if high then BtArea.gaide.range.1 else pool st.die
        | 1 => if high then dram else 0
        | 2 => if high then BtArea.gaide.range.1 else pool die
        | _ => 0
      becomes (.setb st) { y with gens := x.gens.set g.val { x.gens[g.val] with
        space := space, image := decide (space = 1) && !high, die := die, base := BitVec.ofNat 64 (start + base % 2 ^ 39), ring := 0 } }) ∧
    (∀ g lvl stride, i = .sets g lvl stride → becomes (.sets st) { y with
      gens := x.gens.set g.val { x.gens[g.val] with stride := (x.gens[g.val]).stride.set lvl.val (BitVec.ofInt 64 stride) } }) ∧
    (∀ g rsize, i = .setm g rsize → becomes (.setm st) { y with
      gens := x.gens.set g.val { x.gens[g.val] with ring := BitVec.ofNat 64 rsize } }) ∧
    (∀ c value, i = .setc c 0 value → becomes (.setc st) { y with
      counts := x.counts.set c.val { x.counts[c.val] with base := BitVec.ofNat 64 value } }) ∧
    (∀ c (lvl : Fin 4) value, i = .setc c (lvl.val + 1) value → becomes (.setc st) { y with
      counts := x.counts.set c.val { x.counts[c.val] with step := (x.counts[c.val]).step.set lvl.val (BitVec.ofNat 64 value) } }) ∧
    (∀ lvl count, i = .loop lvl count → becomes (.loop st) { y with
      idx := x.idx.set lvl.val 0, limit := x.limit.set lvl.val count, loops := (lvl, x.pc + 1, count) :: x.loops }) ∧
    ∀ lvl start count rest, i = .endl lvl → x.loops = (lvl, start, count) :: rest →
      (x.idx[lvl.val] + 1 < count → becomes (.endl st) { x with pc := start, idx := x.idx.set lvl.val (x.idx[lvl.val] + 1) }) ∧
      (count ≤ x.idx[lvl.val] + 1 → becomes (.endl st) { y with idx := x.idx.set lvl.val 0, loops := rest })

/-- MOVE of every codec between every two spaces, and MOVE_COMPLETE of every transfer. A stream that ended may be taken by a run that
waits for one: where none waits, it is gone. -/
def Obligations.carousel_moves : Prop :=
  (∀ (s u : State) (st : StreamId) (x : Stream) (src dst : Fin 4) (codec rate efmt istr len : Nat) (cap : List Byte),
    s.present st.die = true → s.issue st = some (u, x, .move src dst codec rate efmt istr len) →
    let a := x.gens[src.val]
    let b := x.gens[dst.val]
    let offs := u.moveOffsets x st a cap codec rate efmt len
    let reads := offs.map (a.byteAddr x.idx)
    let coded := (offs.zip reads).map fun e => (e.1, u.sideByte x st a cap e.1 e.2)
    let bytes := if codec = 2 then sliceOf coded (moveReads codec rate efmt len) else coded.map Prod.snd
    let r := moveResult codec rate efmt istr len bytes
    let writes := r.1.map fun e => (b.byteAddr x.idx e.1, e.2)
    let fits := u.sideOk x false a reads && u.sideOk x true b (writes.map Prod.fst)
    let gone (t : State) : Prop := (∀ k ∈ s.canvases, k.runs = []) → (t.die st.die).stream st = none
    let quiet (t : State) : Prop := ∀ d, (t.die d).dram = (s.die d).dram ∧ (t.die d).bigTop = (s.die d).bigTop
    (fits = true → u.sidePoisoned x st a reads = false → r.2.2 = false → Does (.move st cap) s fun t => u.OnlyDie t st.die ∧
      t.die st.die = { u.die st.die with streams := (t.die st.die).streams } ∧ ∃ tr : Transfer,
      (t.die st.die).stream st = some { x with pc := x.pc + 1, moves := x.moves ++ [tr] } ∧ tr.space = b.space ∧
      tr.die = (if b.space = 2 then b.die else st.die) ∧ tr.writes = writes ∧
      (codec = 0 → tr.uncoded = (len + 1) * 64 ∧ tr.coded = 0 ∧
        tr.writes = (List.range ((len + 1) * 64)).map fun k => (b.byteAddr x.idx k, u.sideByte x st a cap k (a.byteAddr x.idx k))) ∧
      (codec = 0 → x.moves = [] → a.space = 1 → a.image = false →
        tr.writes = (List.range ((len + 1) * 64)).map fun k => (b.byteAddr x.idx k, sGet zeroByte (s.die st.die).dram (a.byteAddr x.idx k)))) ∧
    (fits = false → Does (.move st cap) s fun t => gone t ∧ quiet t ∧
      t.reg st.die Reg.crsWindowErr = satCount (s.reg st.die Reg.crsWindowErr) 1 ∧ (t.reg st.die Reg.crsEvt).getLsbD 2 = true ∧
      (t.die st.die).sfn.frameBad = true) ∧
    (fits = true → u.sidePoisoned x st a reads = true → Does (.move st cap) s fun t => gone t ∧ quiet t) ∧
    (fits = true → u.sidePoisoned x st a reads = false → r.2.2 = true → Does (.move st cap) s fun t => gone t ∧
      t.reg st.die Reg.crsCodecErr = satCount (s.reg st.die Reg.crsCodecErr) 1 ∧ (t.reg st.die Reg.crsEvt).getLsbD 1 = true ∧
      (b.space = 1 → (t.die st.die).dram = writes.foldl (fun m e => sSet zeroByte m e.1 e.2) (s.die st.die).dram) ∧
      (b.space = 0 → (t.die st.die).bigTop = writes.foldl (fun m e => sSet zeroByte m e.1 e.2) (s.die st.die).bigTop))) ∧
  ∀ (s : State) (st : StreamId) (r : MoveEnd), s.present st.die = true →
    ((s.die st.die).stream st = none → Does (.moveComplete st r) s fun t => t = s) ∧
    ∀ x : Stream, (s.die st.die).stream st = some x → (x.moves = [] → Does (.moveComplete st r) s fun t => t = s) ∧
    ∀ (tr : Transfer) (rest : List Transfer), x.moves = tr :: rest →
      let put (m : SMap Byte) : SMap Byte := tr.writes.foldl (fun m e => sSet zeroByte m e.1 e.2) m
      Does (.moveComplete st .done) s (fun t =>
        (∀ d, (t.die d).dram = if tr.space = 1 ∧ d = tr.die then put (s.die d).dram else (s.die d).dram) ∧
        (tr.space.val ≤ 3 → ∀ d, (t.die d).bigTop =
          if (tr.space = 0 ∨ tr.space = 2) ∧ d = tr.die then put (s.die d).bigTop else (s.die d).bigTop) ∧
        (x.fencing = none ∨ rest ≠ [] → (t.die st.die).stream st = some { x with moves := rest } ∧
          t = { s with dies := t.dies, canvases := t.canvases, hostMem := t.hostMem } ∧
          (tr.space = 3 → t.hostMem = put s.hostMem) ∧ (tr.space ≠ 3 → t.hostMem = s.hostMem)) ∧
        (t.die st.die).wide (Reg.crsBytesLo st.crs) = min ((s.die st.die).wide (Reg.crsBytesLo st.crs) + tr.uncoded) (2 ^ 64 - 1)) ∧
      Does (.moveComplete st .poisoned) s fun t => ((∀ k ∈ s.canvases, k.runs = []) → (t.die st.die).stream st = none) ∧
        ∀ d, (t.die d).dram = (s.die d).dram ∧ (t.die d).bigTop = (s.die d).bigTop

/-- WAIT, SIG and END of every stream that issues them. The object named is no barrier's, and no dump holds it. -/
def Obligations.carousel_waits_signals_and_ends : Prop :=
  ∀ (s u : State) (st : StreamId) (x : Stream) (i : CInstr), s.present st.die = true → s.issue st = some (u, x, i) →
    let ctx : Nat := (x.canvas.bind u.canvas).elim 0 Canvas.ctx
    ctx < 256 →
    let tsl := (s.die st.die).tsl
    let gone (t : State) : Prop := (∀ k ∈ s.canvases, k.runs = []) → (t.die st.die).stream st = none
    let open_ (n : Nat) (o : TslObj) : Prop := tsl.obj n = some o ∧ o.poison = false ∧ (tsl.frozen = false ∨ o.ctx = 0) ∧
      ∀ b ∈ s.barriers, ∀ d : Fin 8, b.arr[d.val] ≠ n
    (∀ sub cnt v, i = .wait sub cnt v →
      let need := (x.counts[cnt.val]).value x.idx
      let q := u.streamReq st x (if sub then .waitSub need else .waitGe need)
      (∀ n o, tsl.translate ctx v x.stepSeq = some n → open_ n o →
        (need ≤ o.value → (sub = false ∨ o.waiters = [] ∨ need = 0) → Does (.carouselWait st) s fun t =>
          (t.die st.die).stream st = some { x with pc := x.pc + 1 } ∧ s.Resolves t st.die n o [q] ∧
          (o.waiters = [] → ((t.die st.die).tsl.obj n).map TslObj.value = some (if sub then o.value - need else o.value))) ∧
        (o.value < need → Does (.carouselWait st) s fun t => (t.die st.die).stream st = some { x with state := .waitTsl } ∧
          s.Resolves t st.die n o [q] ∧ ∃ p, (t.die st.die).tsl.obj n = some p ∧ p.waiters.getLast? = some ⟨q⟩ ∧
            (o.waiters = [] → p.value = o.value ∧ p.waiters = [⟨q⟩]))) ∧
      (∀ n o, tsl.translate ctx v x.stepSeq = some n → tsl.obj n = some o → o.poison = true → (tsl.frozen = false ∨ o.ctx = 0) →
        (∀ b ∈ s.barriers, ∀ d : Fin 8, b.arr[d.val] ≠ n) → Does (.carouselWait st) s gone) ∧
      (tsl.translate ctx v x.stepSeq = none → Does (.carouselWait st) s fun t => gone t ∧
        t.reg st.die Reg.tslMapErrCnt = satCount (s.reg st.die Reg.tslMapErrCnt) 1 ∧ (t.reg st.die Reg.tslEvt).getLsbD 2 = true)) ∧
    (∀ remote die v k, i = .sig remote die v k →
      let q := u.streamReq st x (.add k)
      (x.moves ≠ [] → Does (.sig st) s fun t => s.OnlyDie t st.die ∧
        t.die st.die = { s.die st.die with streams := (t.die st.die).streams } ∧
        (t.die st.die).stream st = some { x with fencing := some (remote, if remote then die else st.die, v, k) }) ∧
      (x.moves = [] → remote = true → die ≠ st.die → Does (.sig st) s fun t =>
        (t.die st.die).stream st = some { x with pc := x.pc + 1 } ∧
        t = { u with dies := t.dies, gaide := t.gaide, packets := t.packets } ∧
        s.Sends t [{ src := st.die, dst := die, ref := .virt (Fin.ofNat 256 ctx) v, req := q }]) ∧
      (x.moves = [] → (remote = false ∨ die = st.die) → ∀ n o, tsl.translate ctx v x.stepSeq = some n → open_ n o →
        Does (.sig st) s fun t => (t.die st.die).stream st = some { x with pc := x.pc + 1 } ∧ s.Resolves t st.die n o [q])) ∧
    (i = .endp →
      (x.moves ≠ [] → Does (.endp st) s fun t => t = s) ∧
      (x.moves = [] → Does (.endp st) s gone) ∧
      (x.moves = [] → (∀ k ∈ s.canvases, k.runs = []) →
        (∀ c, x.canvas.bind u.canvas = some c → ∀ o ∈ bOps c.image, o.progs.contains x.prog.toNat = false) →
        Does (.endp st) s fun t => ∀ k, k ≠ st → (t.die st.die).stream k = (s.die st.die).stream k) ∧
      (∀ c o k it e, x.moves = [] → x.canvas.bind u.canvas = some c → ((bOps c.image).filter fun o => o.progs.contains x.prog.toNat) = [o] →
        c.shortStream st.die x o = some k → o.ix < (bHeader c.image).nops →
        (c.items.find? fun j => j.id.op == o.ix && j.id.die == st.die && j.id.stepSeq == x.stepSeq && j.live) = some it →
        it.id.canvas = c.id → it.id.unit = .me e → (∀ j ∈ c.items, j.id = it.id → j = it) → Does (.endp st) s fun t =>
          t.reg st.die (Reg.mxeSkewLast e) = BitVec.ofNat 32 (k.exp.pos % 65536) ∧
          t.reg st.die (Reg.mxeSkewCnt e) = satCount (s.reg st.die (Reg.mxeSkewCnt e)) 1 ∧
          ∃ c' j, t.canvas c.id = some c' ∧ c'.item it.id = some j ∧ j.ended = some .scaleSkew))

/-- CRED, RET and CREDIT_STALL_EXPIRY. A stream that ended may be taken by a run that waits for one: where none waits, it is gone. -/
def Obligations.credits : Prop :=
  (∀ (s u : State) (st : StreamId) (x : Stream) (pool units : Nat), s.present st.die = true →
    (x.canvas.bind fun cv => (u.die st.die).bundlePool cv pool) = none →
    let on (t : State) : Prop := u.OnlyDie t st.die ∧ t.die st.die = { u.die st.die with streams := (t.die st.die).streams } ∧
      (t.die st.die).stream st = some { x with pc := x.pc + 1 }
    (s.issue st = some (u, x, .cred pool units) → Does (.cred st) s on) ∧ (s.issue st = some (u, x, .ret pool units) → Does (.ret st) s on)) ∧
  (∀ (s : State) (st : StreamId) (x : Stream) (cv : CanvasId) (pool units n : Nat) (p : Pool), s.present st.die = true →
    x.canvas = some cv → (s.die st.die).stream st = some x → (s.die st.die).bundlePool cv pool = some (n, p) →
    (s.die st.die).pool n = some p →
    let req : CreditReq := { stream := st, prog := x.prog, units := units }
    (∀ u, s.issue st = some (u, x, .cred pool units) →
      let all := p.waiting ++ [req]
      let r := Pool.serve false all { p with waiting := all }
      (Does (.cred st) s fun t => (t.die st.die).pool n = some r.1 ∧
        (r.2.Nodup → ∀ k, k.die = st.die → (t.die st.die).stream k =
          if k ∈ r.2 then (if k = st then some { x with pc := x.pc + 1 } else
            ((s.die st.die).stream k).map fun y => { y with state := .running, pc := y.pc + 1 })
          else if k = st then some { x with state := .waitCredit } else (s.die st.die).stream k)) ∧
      ∀ m, p.members.find? (fun k => k.prog == x.prog) = some m → p.waiting = [] →
        let need := max (m.held + units) m.floor - max m.held m.floor
        let room := p.capacity - (p.members.map fun k => max k.held k.floor).sum
        (need = 0 ∨ need ≤ room → Does (.cred st) s fun t => s.OnlyDie t st.die ∧
          (t.die st.die).stream st = some { x with pc := x.pc + 1 } ∧ ∃ q, (t.die st.die).pool n = some q ∧ q.waiting = [] ∧
            (q.member x.prog).held = m.held + units ∧ ∀ k, k ≠ x.prog → q.member k = p.member k) ∧
        (need ≠ 0 → room < need → Does (.cred st) s fun t => s.OnlyDie t st.die ∧
          (t.die st.die).stream st = some { x with state := .waitCredit } ∧
          (t.die st.die).pool n = some { p with waiting := [req] })) ∧
    (∀ u, s.issue st = some (u, x, .ret pool units) →
      let held := (p.members.map Member.held).sum
      (∀ q, p.giveBack (some x.prog) units = some q → Does (.ret st) s fun t =>
        (t.die st.die).pool n = some (Pool.serve false p.waiting q).1) ∧
      (units ≤ held → p.waiting = [] → Does (.ret st) s fun t => s.OnlyDie t st.die ∧
        (t.die st.die).stream st = some { x with pc := x.pc + 1 } ∧ ∃ q, (t.die st.die).pool n = some q ∧
          (q.members.map Member.held).sum = held - units ∧ q.capacity = p.capacity ∧ q.waiting = []) ∧
      (held < units → Does (.ret st) s fun t => t.reg st.die Reg.crsCreditErr = satCount (s.reg st.die Reg.crsCreditErr) 1 ∧
        ((t.die st.die).pool n).map Pool.capacity = some p.capacity ∧ ((∀ k ∈ s.canvases, k.runs = []) →
          (t.die st.die).stream st = none ∧ ((t.die st.die).pool n).map Pool.members = some p.members)))) ∧
  ∀ (s : State) (d : DieIx) (n : Fin 1024), s.present d = true →
    ((∀ p, (s.die d).pool n.val = some p → p.waiting = [] ∨ s.poolConsumed d p = false) →
      Does (.creditStallExpiry d n) s fun t => t = s) ∧
    ∀ (p : Pool) (w : CreditReq) (rest : List CreditReq), (s.die d).pool n.val = some p → s.poolConsumed d p = true → p.waiting = w :: rest →
    Does (.creditStallExpiry d n) s fun t => t.reg d Reg.crsStallCnt = satCount (s.reg d Reg.crsStallCnt) 1 ∧
      t.reg d Reg.crsStallWaiter = BitVec.ofNat 32 (streamWord w.stream w.prog) ∧
      t.reg d Reg.crsStallHolder = BitVec.ofNat 32 (match p.stallHolder with
        | some m => m.word d
        | none => 0xFFFF_FFFF) ∧
      t.reg d Reg.crsStallPool = BitVec.ofNat 32 (n.val + 65536 * w.units) ∧ (t.reg d Reg.crsEvt).getLsbD 0 = true ∧
      ((∀ k ∈ s.canvases, k.runs = []) → ∀ q ∈ p.waiting, q.stream.die = d → (t.die d).stream q.stream = none)

/-- WAIT_GE, WAIT_SUB, ADD, SUB and SET. TSL_EVT: [0] OVF, [1] UNDER, [2] MAP_ERR. `lets` is what a wait that proceeds lets go. -/
def Obligations.turnstile_operations : Prop :=
  ∀ (s : State) (d : DieIx) (r : TslRef) (q : TslReq) (cy : List TslReq), s.present d = true →
    let row : Instr := match q.op with
      | .waitGe _ => .waitGe d r q cy
      | .waitSub _ => .waitSub d r q cy
      | .add _ => .add d r q cy
      | .sub _ => .sub d r q cy
      | .set _ => .set d r q cy
    let here (x : TslReq) : Bool := reqAllowed x d (s.firmwareRef d r) && x.iss.die == d
    let num : Option Nat := match r with
      | .phys n => some n.val
      | .virt ctx v => (s.die d).tsl.translate ctx.val v q.seq
    (reqAllowed q d (s.firmwareRef d r) = false → Does row s fun t => t = s) ∧
    (reqAllowed q d (s.firmwareRef d r) = true → q.iss.die ≠ d → Does row s fun t =>
      t = { s with gaide := t.gaide, packets := t.packets } ∧ s.Sends t [{ src := q.iss.die, dst := d, ref := r, req := q }]) ∧
    (here q = true → num = none → Does row s fun t => t.reg d Reg.tslMapErrCnt = satCount (s.reg d Reg.tslMapErrCnt) 1 ∧
      (t.reg d Reg.tslEvt).getLsbD 2 = true) ∧
    ∀ (n : Nat) (o : TslObj), here q = true → num = some n → (s.die d).tsl.obj n = some o → (s.die d).tsl.frozen = false ∨ o.ctx = 0 →
      (∀ b ∈ s.barriers, ∀ k : Fin 8, b.arr[k.val] ≠ n) → o.poison = false →
      ((∀ e ∈ (o.resolve (q :: cy.filter here) s.gsc (4096 - (s.die d).tsl.hostWaiters)).results, e.2 = .refused →
          e.1.iss.cls.val = 0 ∨ 6 ≤ e.1.iss.cls.val) →
        Does row s fun t => s.Resolves t d n o (q :: cy.filter here)) ∧
      (cy = [] → o.waiters = [] → o.retry = [] →
        let put (p : TslObj) : State := s.onDie d fun x => { x with tsl := x.tsl.setObj n p }
        let leaves (p : TslObj) (lets : Bool) : Prop := Does row s fun t => (t.die d).tsl = (s.die d).tsl.setObj n p ∧
          (∀ e, (t.die e).regs = (s.die e).regs) ∧
          (s.ctxCanvas d o.ctx = none → t = if lets then (put p).released q .ok else put p)
        let counts (p : TslObj) (cnt bit_ : Nat) : Prop := Does row s fun t => t.reg d cnt = satCount (s.reg d cnt) 1 ∧
          t.reg d Reg.tslEvt &&& BitVec.ofNat 32 bit_ = BitVec.ofNat 32 bit_ ∧
          ((q.iss.cls.val = 0 ∨ 6 ≤ q.iss.cls.val) → (t.die d).tsl = (s.die d).tsl.setObj n p ∧
            t.reg d Reg.tslEvt = s.reg d Reg.tslEvt ||| BitVec.ofNat 32 bit_ ∧
            (s.ctxCanvas d o.ctx = none → s.OnlyDieHost t d ∧
              (s.die d).OnlyRegs { t.die d with tsl := (s.die d).tsl } [cnt, Reg.tslEvt]))
        let by_ : Option TslReq := some { q with step := if q.iss.cls.val = 0 ∨ q.iss.cls.val = 8 then BitVec.ofNat 64 s.gsc else q.step }
        let host := decide (q.iss.cls.val = 8)
        (∀ k, q.op = .waitGe k → (k ≤ o.value → leaves o true) ∧
          (o.value < k → host = false ∨ (s.die d).tsl.hostWaiters < 4096 → leaves { o with waiters := [⟨q⟩] } false)) ∧
        (∀ k, q.op = .waitSub k → (k ≤ o.value → leaves { o with value := o.value - k } true) ∧
          (o.value < k → host = false ∨ (s.die d).tsl.hostWaiters < 4096 → leaves { o with waiters := [⟨q⟩] } false)) ∧
        (∀ v, q.op = .add v →
          (o.value + v ≤ 2 ^ 31 - 1 → leaves { o with value := o.value + v, last := by_ } host) ∧
          (2 ^ 31 - 1 < o.value + v → counts { o with value := 2 ^ 31 - 1, ovf := true, last := by_ } Reg.tslOvfCnt 1)) ∧
        (∀ v, q.op = .sub v →
          (v ≤ o.value → leaves { o with value := o.value - v, last := by_ } host) ∧
          (o.value < v → counts o Reg.tslUnderCnt 2)) ∧
        ∀ v, q.op = .set v → leaves { o with value := v, last := by_ } host)

/-- One cycle of an object (R261). `subs` are the amounts of the listed WAIT_SUBs. -/
def Obligations.turnstile_waiters_released_in_order : Prop :=
  (∀ (o : TslObj) (q : TslReq) (v gsc free : Nat), o.poison = false → o.retry = [] → q.op = .add v →
    let r := o.resolve [q] gsc free
    let now := min (o.value + v) (2 ^ 31 - 1)
    let amount (w : Waiter) : Option Nat := match w.req.op with | .waitSub n => some n | .waitGe _ | .add _ | .sub _ | .set _ => none
    let subs := o.waiters.filterMap amount
    (∀ w ∈ o.waiters, ∀ n, w.req.op = .waitGe n → n ≤ now → (w.req, .proceeds .ok) ∈ r.results ∧ w ∉ r.obj.waiters) ∧
    (∀ w ∈ o.waiters, ∀ n, w.req.op = .waitGe n → now < n → w ∈ r.obj.waiters) ∧
    List.Sublist r.obj.waiters o.waiters ∧
    (∃ k, r.obj.waiters.filterMap amount = subs.drop k ∧ (subs.take k).sum ≤ now ∧ r.obj.value = now - (subs.take k).sum ∧
      ∀ n, subs[k]? = some n → now - (subs.take k).sum < n)) ∧
  ∀ (o : TslObj) (ops : List TslReq) (gsc free : Nat), o.poison = true → (o.resolve ops gsc free).obj = o ∧
    (o.resolve ops gsc free).results = ops.map fun q => (q, if opChanges q.op then .poisoned else .proceeds .poisoned)

/-- GAIDE_TURNSTILE_ARRIVAL, BARRIER_COMBINE, and FENCE_COMPLETE of a stream and of a queue. The objects named are under no freeze. -/
def Obligations.turnstiles_over_gaide : Prop :=
  (∀ (s : State) (src dst : DieIx), s.present dst = true →
    let next := s.gaide.find? fun k => k.src == src && k.dst == dst
    (next = none → Does (.gaideTurnstileArrival src dst) s fun t => t = s) ∧
    ∀ m, next = some m →
      (∀ cv frame id c p, m.part = some (cv, frame, id) → s.canvas cv = some c → p ∈ c.parts → p.frame = frame → p.id = id →
        Does (.gaideTurnstileArrival src dst) s fun t => ∃ k x, t.canvas cv = some k ∧ x ∈ k.parts ∧ x.frame = frame ∧ x.id = id ∧
          x.carried = some true) ∧
      (m.part = none →
        let num : Option Nat := match m.ref with
          | .phys n => some n.val
          | .virt ctx v => (s.die dst).tsl.translate ctx.val v m.req.seq
        (num = none → Does (.gaideTurnstileArrival src dst) s fun t =>
          t.reg dst Reg.tslMapErrCnt = satCount (s.reg dst Reg.tslMapErrCnt) 1 ∧ (t.reg dst Reg.tslEvt).getLsbD 2 = true) ∧
        ∀ n o, num = some n → (s.die dst).tsl.obj n = some o → (s.die dst).tsl.frozen = false ∨ o.ctx = 0 → o.poison = false →
          (∀ b ∈ s.barriers, ∀ k : Fin 8, b.arr[k.val] ≠ n) →
          (∀ e ∈ (o.resolve [m.req] s.gsc (4096 - (s.die dst).tsl.hostWaiters)).results, e.2 = .refused →
            e.1.iss.cls.val = 0 ∨ 6 ≤ e.1.iss.cls.val) →
          Does (.gaideTurnstileArrival src dst) s fun t => s.Resolves t dst n o [m.req] ∧
            (∀ k, k ≠ n → (t.die dst).tsl.obj k = (s.die dst).tsl.obj k) ∧
            (∀ v, m.req.op = .add v → o.waiters = [] → o.retry = [] → o.value + v ≤ 2 ^ 31 - 1 →
              ((t.die dst).tsl.obj n).map TslObj.value = some (o.value + v)) ∧
            (s.ctxCanvas dst o.ctx = none → (∀ b ∈ s.barriers, ∀ k : Fin 8, b.rel[k.val] ≠ n) → t.gaide = s.gaide.erase m))) ∧
  (∀ (s : State) (d : DieIx) (id : Nat),
    (s.barriers.find? (fun b => b.id == id && b.combining.contains d) = none → Does (.barrierCombine d id) s fun t => t = s) ∧
    ∀ b : Barrier, s.barriers.find? (fun b => b.id == id && b.combining.contains d) = some b →
    (∀ p, barrierParent s.straps.part d = some p → Does (.barrierCombine d id) s fun t =>
      t = { s with barriers := t.barriers, gaide := t.gaide, packets := t.packets } ∧ s.Sends t [barrierMsg d p b.arr[p.val]]) ∧
    (barrierParent s.straps.part d = none → Does (.barrierCombine d id) s fun t =>
      (∃ l1 l2, t.gaide = s.gaide ++ l1 ++ l2 ∧
        (l2.map fun m => { m with links := [] }) = (s.barrierChildren b d).map fun k => barrierMsg d k b.rel[k.val]) ∧
      (∀ o, s.present d = true → b.rel[d.val] < 16384 → (s.die d).tsl.obj b.rel[d.val] = some o →
        (s.die d).tsl.frozen = false ∨ o.ctx = 0 → o.poison = false → o.waiters = [] → o.retry = [] → o.value + 1 ≤ 2 ^ 31 - 1 →
        (∀ c ∈ s.barriers, ∀ k : Fin 8, c.arr[k.val] ≠ b.rel[d.val]) →
        ((t.die d).tsl.obj b.rel[d.val]).map TslObj.value = some (o.value + 1)))) ∧
  (∀ (s : State) (iss : Issuer), iss.cls ≠ 5 →
    let f : FnIx := Fin.ofNat 64 iss.inst
    let waits (q : Queue) (a : Await) : Prop := s.host.queue f iss.queue = some q ∧ q.cur.bind Current.await = some a
    (iss.cls ≠ 8 ∨ (∀ q d v sub k, ¬ waits q (.fence d v sub k)) → Does (.fenceComplete iss) s fun t => t = s) ∧
    ∀ q d v sub k c n, iss.cls = 8 → waits q (.fence d v sub k) → s.fnTsl f d v = some (c, n) →
      let req : TslReq := { iss := { cls := 8, die := q.home, inst := f.val, queue := iss.queue },
                            op := if sub then .sub k else .add k, opIx := 0xFFFF, step := 0, seq := 0 }
      (d ≠ q.home → Does (.fenceComplete iss) s fun t => t = { s with fns := t.fns, gaide := t.gaide, packets := t.packets } ∧
        s.Sends t [{ src := q.home, dst := d, ref := .virt c v, req := req }] ∧
        ((t.host.queue f iss.queue).bind Queue.cur).bind Current.await = some (.turnstile d)) ∧
      ∀ o, d = q.home → s.present d = true → (s.die d).tsl.translate c.val v 0 = some n → (s.die d).tsl.obj n = some o →
        (s.die d).tsl.frozen = false ∨ o.ctx = 0 → o.poison = false → (∀ b ∈ s.barriers, ∀ i : Fin 8, b.arr[i.val] ≠ n) →
        Does (.fenceComplete iss) s fun t => s.Resolves t d n o [req] ∧
          ((t.host.queue f iss.queue).bind Queue.cur).bind Current.await = none) ∧
  ∀ (s : State) (iss : Issuer), iss.cls = 5 →
    let st := issuerStream iss
    s.present st.die = true →
    ((∀ x, (s.die st.die).stream st = some x → x.fencing = none ∨ x.moves ≠ []) → Does (.fenceComplete iss) s fun t => t = s) ∧
    ∀ (x : Stream) (remote : Bool) (die : DieIx) (tsl : BitVec 12) (v : Nat),
    (s.die st.die).stream st = some x → x.fencing = some (remote, die, tsl, v) → x.moves = [] →
    let ctx : Nat := (x.canvas.bind s.canvas).elim 0 Canvas.ctx
    let q := s.streamReq st x (.add v)
    let on := { x with fencing := none, pc := x.pc + 1 }
    (remote = true → die ≠ st.die → Does (.fenceComplete iss) s fun t =>
      t = { s with dies := t.dies, gaide := t.gaide, packets := t.packets } ∧ (t.die st.die).stream st = some on ∧
      s.Sends t [{ src := st.die, dst := die, ref := .virt (Fin.ofNat 256 ctx) tsl, req := q }]) ∧
    ∀ n o, (remote = false ∨ die = st.die) → ctx < 256 → (s.die st.die).tsl.translate ctx tsl x.stepSeq = some n →
      (s.die st.die).tsl.obj n = some o → (s.die st.die).tsl.frozen = false ∨ o.ctx = 0 → o.poison = false →
      (∀ b ∈ s.barriers, ∀ k : Fin 8, b.arr[k.val] ≠ n) → x.state = .running →
      Does (.fenceComplete iss) s fun t => (t.die st.die).stream st = some on ∧ s.Resolves t st.die n o [q]

/-- TSL_SEL_WRITE, TSL_DUMP_GO and DUMP_DONE. TSL_DUMP_CTRL: [0] GO, [1] ALL, [2] FREEZE, [3] BUSY, [11:4] STATUS. That the dump
takes its contents at GO is the model's choice (entry 22). -/
def Obligations.turnstile_capture_and_dump : Prop :=
  ∀ (s : State) (d : DieIx), s.present d = true →
    let x := s.die d
    let seen := s.tslSeen d
    (∀ w : Word,
      let pick : Option TslObj := if bit w 31 = false then seen.obj (bits w 13 0) else
        (seen.ctx (bits w 27 20)).bind fun c => (c.entry (BitVec.ofNat 12 (bits w 11 0))).bind fun e =>
          seen.obj (if e.banked then e.base + bits w 30 28 else e.base)
      Does (.tslSelWrite d w) s fun t => s.OnlyDie t d ∧ (t.die d).tsl = { x.tsl with capture := { obj := pick } } ∧
        t.reg d Reg.tslValue = BitVec.ofNat 32 ((pick.map TslObj.value).getD 0) ∧
        t.reg d Reg.tslWaiters = BitVec.ofNat 32 ((pick.map fun o => o.waiters.length).getD 0) ∧
        t.field d Reg.tslFlags 0 0 = (if pick.isSome then 1 else 0) ∧
        (pick = none → t.reg d Reg.tslFlags = 0 ∧ t.reg d Reg.tslLastUnit = 0 ∧ t.reg d Reg.tslLastStep = 0) ∧
        t.field d Reg.tslSel 13 0 = bits w 13 0) ∧
    (∀ w : Word,
      let good := (s.host.fn 0).inWindow ((s.reg d Reg.tslDumpAddrLo).toNat + 2 ^ 32 * (s.reg d Reg.tslDumpAddrHi).toNat)
        (max (s.reg d Reg.tslDumpLen).toNat 1)
      (bit w 0 = false ∨ s.field d Reg.tslDumpCtrl 3 3 = 1 → Does (.tslDumpGo d w) s fun t => s.OnlyDie t d ∧
        x.OnlyRegs (t.die d) [Reg.tslDumpCtrl] ∧ t.field d Reg.tslDumpCtrl 3 3 = s.field d Reg.tslDumpCtrl 3 3) ∧
      (bit w 0 = true → s.field d Reg.tslDumpCtrl 3 3 = 0 → Does (.tslDumpGo d w) s fun t =>
        t = { s with dies := t.dies } ∧ (∀ e, (t.die e).tsl.objs = (s.die e).tsl.objs) ∧ t.field d Reg.tslDumpCtrl 3 3 = 1 ∧
        (∃ p, (t.die d).tsl.dump = some p ∧ (good = false → p.status = .hostRange ∧ p.bytes = [])) ∧
        (bit w 2 = true → good = true → (t.die d).tsl.frozen = true ∧
          (bit w 1 = true → d = 0 → ∀ e, s.present e = true → (t.die e).tsl.frozen = true)) ∧
        (bit w 2 = false ∨ good = false → ∀ e, (t.die e).tsl.frozen = (s.die e).tsl.frozen))) ∧
    (x.tsl.dump = none → Does (.dumpDone d) s fun t => t = s) ∧
    ∀ p : TslDump, x.tsl.dump = some p → Does (.dumpDone d) s fun t =>
      (t.die d).tsl.dump = none ∧ t.field d Reg.tslDumpCtrl 3 3 = 0 ∧ t.field d Reg.tslDumpCtrl 11 4 = p.status.code ∧
      t.reg d Reg.tslDumpBytes = BitVec.ofNat 32 p.bytes.length ∧ (t.reg d Reg.tslEvt).getLsbD 5 = true ∧
      ((∀ e, e ≠ d → (s.die e).tsl.dump = none) → ∀ e ∈ p.dies, s.present e = true → (t.die e).tsl.frozen = false) ∧
      ((∀ e, (s.die e).tsl.held = []) → (∀ e, (t.die e).tsl.objs = (s.die e).tsl.objs) ∧
        ((s.reg d (Reg.tslEvt + 4)).getLsbD 5 = false → t.hostMem = sSetRange zeroByte s.hostMem p.addr p.bytes))

/-- CONTEXT_SAVE_COMPLETE in every state of a canvas; at its save point, where no run of another canvas waits for a stream. -/
def Obligations.context_save : Prop :=
  (∀ (s : State) (cv : CanvasId),
    (∀ c q addr ends, s.canvas cv = some c → c.pause = .saving q addr ends → s.atSavePoint c ends = false) →
    Does (.contextSaveComplete cv) s fun t => t = s) ∧
  ∀ (s : State) (cv : CanvasId) (c : Canvas) (q : FnIx × Nat) (addr : Dword) (ends : List ItemId), s.canvas cv = some c →
    c.pause = .saving q addr ends → s.atSavePoint c ends = true →
    (∀ k ∈ s.canvases, (k.id = cv → k = c) ∧ (k.id ≠ cv → k.runs = []) ∧ ∀ i ∈ k.items, i.id.canvas = k.id) →
    Does (.contextSaveComplete cv) s fun t => (∀ v, v ≠ cv → t.canvas v = s.canvas v) ∧
      (∃ k v, t.canvas cv = some k ∧ k.pause = .saved v ∧ v.addr = addr ∧ v.discarded = false ∧ v.items = c.items.filter Item.live ∧
        k.items = c.items.filter fun i => !i.live) ∧
      ∀ d ∈ c.dies, s.present d = true → (∀ e ∈ (t.die d).streams, e.2.canvas ≠ some cv) ∧
        (∀ i ∈ (t.die d).inflight, i.canvas ≠ cv) ∧
        (c.dies.Nodup → (t.die d).dram = sSetRange zeroByte (s.die d).dram addr.toNat (s.saveBytes c ((s.die d).capture c d))) ∧
        ∀ x v e, (s.die d).tsl.ctx c.ctx = some x → (v, e) ∈ x.table → e.imported = false →
          ∀ n ∈ e.owns, (t.die d).tsl.obj n = none

/-- The three releases, in every state of a canvas. That the releases that fall before a first release wait for it is the model's: R295
has the first release start on every die together. -/
def Obligations.releases : Prop :=
  ∀ (s : State) (cv : CanvasId) (c : Canvas), s.canvas cv = some c →
    (∀ d : DieIx, s.present d = true →
      ((c.deferred.find? fun e => e.1 == d) = none ∨ c.pause ≠ .running → Does (.deferredRelease d cv) s fun t => t = s) ∧
      ∀ seq, (c.deferred.find? fun e => e.1 == d) = some (d, seq) →
        (s.stepFree c d seq = false → Does (.deferredRelease d cv) s fun t => t = s) ∧
        ∀ (frame : Nat) (p : PartSt), c.pause = .running → s.stepFree c d seq = true →
          (c.released.find? fun e => e.1 == seq) = some (seq, frame) → (c.parts.find? fun p => p.stepSeq == seq) = some p →
          Does (.deferredRelease d cv) s fun t => ∃ k, t.canvas cv = some k ∧ k.deferred = c.deferred.erase (d, seq) ∧
            (∀ q ∈ k.parts, q.stepSeq = seq → q.computeDie = d → q.released = true) ∧
            ∀ i ∈ c.stepItems s.engines d frame p.id.stripe seq, ∃ j ∈ k.items, j.id = i.id) ∧
    (∀ op : Nat,
      let o := c.opOf op
      let readers := (bOps c.image).filter fun r => r.ix != o.ix && r.reads.any o.writes.contains
      let units : List (DieIx × UnitIx) := if onMatrix c.image o then (c.partics o s.engines s.nDies).map fun e => e.2
        else (c.units o (c.wholeBand o.out0) 1).map fun u => (0, u)
      ((bHeader c.image).nops ≤ op ∨ o.frameScope = false ∨ c.pause ≠ .running ∨
          (s.die (dieOf c.binding.head0)).head.opForced = true ∨ c.scopeFrame o = none →
        Does (.frameScopeRelease cv op) s fun t => t = s) ∧
      ∀ f, op < (bHeader c.image).nops → o.frameScope = true → c.pause = .running →
        (s.die (dieOf c.binding.head0)).head.opForced = false → c.scopeFrame o = some f →
        ((∃ r ∈ readers, c.opDone r f = false) ∨ (∃ u ∈ units, s.neuralOn u.1 = false) →
          Does (.frameScopeRelease cv op) s fun t => t = s) ∧
        ((∀ r ∈ readers, c.opDone r f = true) → (∀ u ∈ units, s.neuralOn u.1 = true) →
          Does (.frameScopeRelease cv op) s fun t => ∃ k, t.canvas cv = some k ∧ (∀ i ∈ c.items, i ∈ k.items) ∧
            ∀ u ∈ units, ∃ i ∈ k.items, i.frame = f ∧ i.live = true ∧
              i.id = { canvas := cv, die := u.1, unit := u.2, op := op, stepSeq := frameSeq f })) ∧
    ∀ d : DieIx,
      (c.firstAt = none ∨ d ∉ c.dies ∨ (∃ at_, c.firstAt = some at_ ∧ (s.gsc < at_ ∨ at_ < s.gsc ∧ d ∈ c.started)) →
        Does (.firstRelease d cv) s fun t => t = s) ∧
      ∀ at_ : Nat, c.firstAt = some at_ → d ∈ c.dies →
        (s.gsc = at_ → d ∉ c.started → (∃ e ∈ c.dies, e ≠ d ∧ e ∉ c.started) → Does (.firstRelease d cv) s fun t =>
          t = { s with canvases := t.canvases } ∧ t.canvas cv = some { c with started := c.started ++ [d] }) ∧
        (at_ < s.gsc → d ∉ c.started → Does (.firstRelease d cv) s fun t => t = { s with canvases := t.canvases } ∧
          t.canvas cv = some { c with firstAt := some (at_ + 200), started := [] }) ∧
        (s.gsc = at_ → (∀ e ∈ c.dies, e ≠ d → e ∈ c.started) → Does (.firstRelease d cv) s fun t =>
          ∃ k, t.canvas cv = some k ∧ k.firstAt = none ∧ k.started = [] ∧ k.due = [] ∧
            (c.replays = false → k.stepSeq = c.stepSeq + c.due.length))

/-- DET_REC_CTRL, CHECKPOINT_COPY and REPLAY_FRAME_ADVANCE. -/
def Obligations.recorder_and_replay : Prop :=
  (∀ (s : State) (d : DieIx) (v : Word), s.present d = true →
    let old := s.reg d Reg.detRecCtrl
    let w := writeWord (fieldsAt Reg.detRecCtrl) old v 0
    (bit old 0 = false → (s.die d).mayRecord w = true → Does (.detRecCtrlWrite d v) s fun t =>
      t.reg d Reg.detRecCtrl = w ∧
      (d ≠ 0 → s.OnlyDie t d ∧ t.reg d Reg.detRecWptr = 0 ∧ (t.reg d Reg.detStatus).getLsbD 2 = true ∧
        (t.reg d Reg.detStatus).getLsbD 4 = false ∧
        (t.die d).recorder = { seq := 0, used := 0, lost := 0, firstLost := 0, full := false, batch := none })) ∧
    (bit old 0 = false → (s.die d).mayRecord w = false → Does (.detRecCtrlWrite d v) s fun t =>
      s.OnlyDie t d ∧ (s.die d).OnlyRegs (t.die d) [Reg.detRecCtrl] ∧ t.reg d Reg.detRecCtrl = w &&& ~~~ 1) ∧
    (bit old 0 = true → w = old &&& ~~~ 1 → Does (.detRecCtrlWrite d v) s fun t =>
      s.OnlyDie t d ∧ (s.die d).OnlyRegs (t.die d) [Reg.detRecCtrl, Reg.detStatus] ∧ t.reg d Reg.detRecCtrl = w ∧
      (t.reg d Reg.detStatus).getLsbD 2 = false) ∧
    (bit old 0 = true → w ≠ old &&& ~~~ 1 → exec (.detRecCtrlWrite d v) s = .next s)) ∧
  ∀ (s : State) (cv : CanvasId) (c : Canvas), s.canvas cv = some c →
    (∀ d : DieIx, (d ∉ c.dies ∨ s.ckptFrame c d = none → Does (.checkpointCopy d cv) s fun t => t = s) ∧
      ∀ f : Nat, d ∈ c.dies → s.ckptFrame c d = some f → Does (.checkpointCopy d cv) s fun t => ∃ w,
        (∃ k, t.canvas cv = some k ∧ k = { c with copied := k.copied } ∧ (d, f, w) ∈ k.copied) ∧
        (w = true → (∀ e ∈ c.dies, s.present e = true) → (∀ e ∈ c.dies, e ≠ d → (e, f, true) ∈ c.copied) →
          ∀ e ∈ c.dies, (t.die e).wide Reg.detCkptLastLo = (c.stepOf f).toNat ∧ (t.reg e Reg.detEvt).getLsbD 2 = true)) ∧
    let idle : Prop := c.replays = false ∨ c.pause ≠ .running ∨ c.firstAt.isSome = true
    (idle → Does (.replayFrameAdvance cv) s fun t => t = s) ∧
    (¬ idle → c.replay = [] → Does (.replayFrameAdvance cv) s fun t => if c.unbinding then t.canvas cv = none else t = s) ∧
    ∀ (r : ReplayFrame) (rest : List ReplayFrame), ¬ idle → c.replay = r :: rest →
      (c.replayBegun r = false → c.unbinding = true → Does (.replayFrameAdvance cv) s fun t => t.canvas cv = none) ∧
      (c.replayBegun r = false → c.unbinding = false →
        let old : Prop := ∃ i ∈ c.items, i.frame + 1 ≤ c.frameNo ∧ i.live = true
        (s.fed c r = false ∨ old → Does (.replayFrameAdvance cv) s fun t => t.canvases = s.canvases) ∧
        (s.fed c r = true → ¬ old → Does (.replayFrameAdvance cv) s fun t =>
          ∃ k, t.canvas cv = some k ∧ k.frameNo = c.frameNo + 1 ∧ k.frameStep = r.step ∧ k.replay = c.replay)) ∧
      (c.replayBegun r = true →
        let latched := (s.replayLatch cv).canvas cv
        (latched.any Canvas.allChosen = false → Does (.replayFrameAdvance cv) s fun t => ∀ p ∈ c.parts, p.frame = c.frameNo →
          s.replayReady c p = true → ∃ k q, t.canvas cv = some k ∧ q ∈ k.parts ∧ q.id = p.id ∧ q.frame = p.frame ∧ q.choice.isSome = true) ∧
        (latched.any Canvas.allChosen = true → Does (.replayFrameAdvance cv) s fun t =>
          if c.unbinding then t.canvas cv = none else ∃ k, t.canvas cv = some k ∧ k.replay = rest))

/-- DOORBELL, HOST_READ_ERROR, DESCRIPTOR_COMPLETION and MSIX_TIMER_EXPIRY. -/
def Obligations.doorbells_and_completions : Prop :=
  ∀ (s : State) (f : FnIx),
    (∀ (w : Word) (x : Queue), (s.host.fn f).ready = true → s.host.queue f (bits w 17 0) = some x → bits w 17 0 < s.host.quota f →
      x.state ≠ .error →
      let ix := bits w 31 18
      let n := x.size
      (ix < n → x.kind = .sq → ¬ (ix + n - x.head) % n < (x.tail + n - x.head) % n → Does (.doorbell f w) s fun t =>
        ∃ y, t.host.queue f (bits w 17 0) = some y ∧ y.tail = ix ∧ y.head = x.head) ∧
      (ix < n → x.kind ≠ .sq → ¬ (x.tail + n - x.head) % n < (ix + n - x.head) % n → Does (.doorbell f w) s fun t =>
        ∃ y, t.host.queue f (bits w 17 0) = some y ∧ y.head = ix) ∧
      (n ≤ ix ∨ (x.kind = .sq ∧ (ix + n - x.head) % n < (x.tail + n - x.head) % n) ∨
          (x.kind ≠ .sq ∧ (x.tail + n - x.head) % n < (ix + n - x.head) % n) →
        Does (.doorbell f w) s fun t => ∃ y, t.host.queue f (bits w 17 0) = some y ∧ y.state = .error)) ∧
    (∀ w : Word, (s.host.fn f).ready = false → Does (.doorbell f w) s fun t => t = s) ∧
    (∀ (w : Word) (x : Queue), (s.host.fn f).ready = true → s.host.queue f (bits w 17 0) = some x → bits w 17 0 < s.host.quota f →
      x.state = .error → Does (.doorbell f w) s fun t => ∃ y, t.host.queue f (bits w 17 0) = some y ∧ y.state = .error ∧ y.head = x.head) ∧
    (∀ q : Nat, s.host.queue f q = none → (∀ b, Does (.hostReadError f q b) s fun t => t = s) ∧
      Does (.descriptorCompletion f q) s (fun t => t = s) ∧ Does (.msixTimerExpiry f q) s fun t => t = s) ∧
    (∀ w : Word, (s.host.fn f).ready = true → (s.host.queue f (bits w 17 0) = none ∨ s.host.quota f ≤ bits w 17 0) →
      Does (.doorbell f w) s fun t => t = { s with fns := t.fns, hostRegs := t.hostRegs, hostMem := t.hostMem } ∧
        t.host.fnReg f 0x024 = satCount (s.host.fnReg f 0x024) 1 ∧ t.host.reg 0x018 = satCount (s.host.reg 0x018) 1 ∧
        (t.host.reg 0x00C).getLsbD 3 = true) ∧
    ∀ (q : Nat) (x : Queue), s.host.queue f q = some x →
      (x.kind = .sq → x.head ≠ x.tail → x.cur = none → x.state ≠ .error → (s.host.fn f).ready = true →
        Does (.hostReadError f q true) s fun t => ∃ y, t.host.queue f q = some y ∧ y.state = .error) ∧
      (x.kind ≠ .sq ∨ x.head = x.tail ∨ x.cur.isSome = true ∨ x.state = .error ∨ (s.host.fn f).ready = false →
        Does (.hostReadError f q true) s fun t => t = s) ∧
      (x.cur.bind Current.await ≠ some .transfer → Does (.hostReadError f q false) s fun t => t = s) ∧
      (x.cur.bind Current.done = none → Does (.descriptorCompletion f q) s fun t => t = s) ∧
      (∀ k e, x.cur = some k → k.done = some e → x.cq ≠ q → ((k.quiet = true ∧ e.status = .ok) ∨
          (∀ z, s.host.queue f x.cq = some z → z.accepts = false)) → Does (.descriptorCompletion f q) s fun t =>
        t = { s with fns := t.fns, hostRegs := t.hostRegs } ∧
        ∃ y, t.host.queue f q = some y ∧ y.cur = none ∧ y.head = (x.head + 1) % x.size ∧ y.tail = x.tail) ∧
      (x.vector = none ∨ x.firstPost = none ∨ x.timer = 0 ∨ (∃ at_, x.firstPost = some at_ ∧ s.gsc < at_ + 100 * x.timer) →
        Does (.msixTimerExpiry f q) s fun t => t = s) ∧
      (∀ k, x.cur = some k → k.await = some .transfer → Does (.hostReadError f q false) s fun t => t = { s with fns := t.fns } ∧
        ∃ y, t.host.queue f q = some y ∧
          y.cur = some { k with await := none, done := some { status := .hostRange, kind := 0, detail := [] } }) ∧
      (∀ k e z, x.cur = some k → k.done = some e → ¬ (k.quiet = true ∧ e.status = .ok) → x.cq ≠ q → s.host.queue f x.cq = some z →
        z.accepts = true → Does (.descriptorCompletion f q) s fun t =>
          t = { s with fns := t.fns, hostRegs := t.hostRegs, hostMem := t.hostMem } ∧
          (∃ y, t.host.queue f q = some y ∧ y.cur = none ∧ y.head = (x.head + 1) % x.size ∧ y.tail = x.tail) ∧
          (∃ y, t.host.queue f x.cq = some y ∧ y.tail = (z.tail + 1) % z.size ∧ y.head = z.head) ∧
          t.hostMem = sSetRange zeroByte s.hostMem (z.base.toNat + 64 * z.tail)
            (sliceBytes (cqRecord k.tag q ((x.head + 1) % x.size) e.status e.kind.val 0 0 e.detail z.lostFlag z.phase) 0 64)) ∧
      ∀ v at_, x.vector = some v → x.firstPost = some at_ → x.timer ≠ 0 → at_ + 100 * x.timer ≤ s.gsc →
        Does (.msixTimerExpiry f q) s fun t => t = { s with fns := t.fns } ∧
          (∃ y, t.host.queue f q = some y ∧ y.posted = 0 ∧ y.firstPost = none) ∧
          let m := (s.host.fn f).vector v
          (if m.masked = true ∨ m.addr = 0 then ((t.host.fn f).vector v).pendingBit = true
            else (t.host.fn f).messages = v :: (s.host.fn f).messages)

/-- AQ_ENABLE, AQ_DISABLE, VF_DISABLE, VF_ENABLE and the three device registers. -/
def Obligations.admin_rings_and_device_registers : Prop :=
  ∀ (s : State) (f : FnIx),
    let x := s.host.fn f
    let ls := bits (s.host.fnReg f 0x010) 3 0
    let lc := bits (s.host.fnReg f 0x018) 3 0
    let good : Prop := 2 ≤ s.host.quota f ∧ 4 ≤ ls ∧ ls ≤ 12 ∧ 4 ≤ lc ∧ lc ≤ 12
    (∀ v : BitVec 11, x.ready = true → bit (s.host.fnReg f 0x020) 0 = false →
      (good → x.disabled = false → Does (.aqEnable f v) s fun t => t = { s with fns := t.fns } ∧
        bit (t.host.fnReg f 0x020) 0 = true ∧ ∃ a b, (t.host.fn f).queues = a :: b :: x.queues ∧ a.id = 0 ∧ a.kind = .sq ∧
          a.state = .idle ∧ a.log2 = ls ∧ a.head = 0 ∧ a.tail = 0 ∧ a.cur = none ∧ b.id = 1 ∧ b.kind = .cq ∧ b.state = .run ∧
          b.log2 = lc ∧ b.head = 0 ∧ b.tail = 0 ∧ b.vector = some v.toNat) ∧
      (good → x.disabled = true → Does (.aqEnable f v) s fun t => t = { s with fns := t.fns } ∧
        bit (t.host.fnReg f 0x020) 0 = true ∧ ∃ a b, (t.host.fn f).queues = a :: b :: x.queues ∧ a.id = 0 ∧ a.kind = .sq ∧
          a.state = .disabled ∧ b.id = 1 ∧ b.kind = .cq ∧ b.state = .disabled) ∧
      (¬ good → Does (.aqEnable f v) s fun t => t = { s with fns := t.fns } ∧ (t.host.fn f).aqErr = true ∧
        (t.host.fn f).queues = x.queues ∧ bit (t.host.fnReg f 0x020) 0 = false)) ∧
    (∀ v : BitVec 11, (x.ready = false → Does (.aqEnable f v) s fun t => t = s) ∧
      (x.ready = true → bit (s.host.fnReg f 0x020) 0 = true → Does (.aqEnable f v) s fun t => t = { s with fns := t.fns } ∧
        t.host.fnReg f 0x020 = BitVec.ofNat 32 (1 + 65536 * v.toNat) ∧
        ∀ y, s.host.queue f 1 = some y → t.host.queue f 1 = some { y with vector := some v.toNat })) ∧
    (f = 0 ∨ x.disabled = true → Does (.vfDisable f) s fun t => t = s) ∧
    (x.disabled = false → Does (.vfEnable f) s fun t => t = s) ∧
    (∀ v : BitVec 11, (if ∀ q ∈ x.queues, (q.id = 0 ∨ q.id = 1) ∧ q.quiet = true
      then Does (.aqDisable f v) s fun t => t = { s with fns := t.fns } ∧ (t.host.fn f).queues = [] ∧ bit (t.host.fnReg f 0x020) 0 = false
      else exec (.aqDisable f v) s = .next s)) ∧
    (f ≠ 0 → x.disabled = false → Does (.vfDisable f) s fun t => (t.host.fn f).disabled = true ∧
      (∀ q ∈ (t.host.fn f).queues, q.state = .disabled) ∧ (t.host.fn f).queues.map Queue.id = x.queues.map Queue.id ∧
      bit (t.host.reg (0x100 + 4 * f.val)) 31 = true ∧ (t.host.reg 0x00C).getLsbD 1 = true ∧
      ∀ cv k, cv.func = f → t.canvas cv = some k → k.unbinding = true) ∧
    (x.disabled = true → Does (.vfEnable f) s fun t =>
      t = { s with fns := t.fns, hostRegs := t.hostRegs, hostMem := t.hostMem } ∧ (t.host.fn f).disabled = false ∧
      (∀ q ∈ (t.host.fn f).queues, q.state ≠ .disabled) ∧ bits (t.host.reg (0x100 + 4 * f.val)) 31 30 = 0) ∧
    (∀ w : Word, (f = 0 ∨ bit w 31 = x.disabled) →
      let n := bits w 18 0
      let stored : Prop := s.host.quotaSum f n ≤ 262144 ∧ (∀ q ∈ x.queues, q.id < n) ∧
        (f = 0 ∨ x.vfEnabled = false ∨ bit (s.host.reg (0x100 + 4 * f.val)) 31 = true)
      (stored → Does (.hstQuotaWrite f w) s fun t => t = { s with hostRegs := t.hostRegs } ∧ t.host.quota f = n ∧
        t.host.reg 0x008 = BitVec.ofNat 32 (262144 - s.host.quotaSum f n)) ∧
      (¬ stored → exec (.hstQuotaWrite f w) s = .next s)) ∧
    (∀ w : Word, f ≠ 0 → bit w 31 ≠ x.disabled →
      let n := bits w 18 0
      let stored : Prop := s.host.quotaSum f n ≤ 262144 ∧ (∀ q ∈ x.queues, q.id < n) ∧
        (x.vfEnabled = false ∨ bit (s.host.reg (0x100 + 4 * f.val)) 31 = true)
      Does (.hstQuotaWrite f w) s fun t => (t.host.fn f).disabled = bit w 31 ∧
        (stored → t.host.quota f = n) ∧ (¬ stored → t.host.quota f = s.host.quota f)) ∧
    ∀ (d : DieIx) (w : Word),
      (s.headCanvas d = none → Does (.hstHeadOwnerWrite d w) s fun t => t = { s with hostRegs := t.hostRegs } ∧
        t.host.reg (0x040 + 4 * d.val) = BitVec.ofNat 32 (bits w 5 0)) ∧
      (s.headCanvas d ≠ none → exec (.hstHeadOwnerWrite d w) s = .next s) ∧
      Does (.hstDieEqWrite d w) s fun t => t = { s with hostRegs := t.hostRegs } ∧
        bits (t.host.reg (0x020 + 4 * d.val)) 17 0 = bits w 17 0 ∧
        (bit (t.host.reg (0x020 + 4 * d.val)) 31 = true ↔ bit w 31 = true ∧ ∃ q, s.host.queue 0 (bits w 17 0) = some q ∧ q.kind = .eq)

/-- FUNCTION_LEVEL_RESET, PF_FUNCTION_LEVEL_RESET and FUNCTION_RESET_DONE. Where the audit entry of a session that ends finds no room,
SEC_EVT.AUDIT_BUSY may be reported, and counted as lost. -/
def Obligations.function_resets : Prop :=
  ∀ s : State,
    let clean (t : State) (f : FnIx) : Prop := (t.host.fn f).ready = false ∧ (t.host.fn f).queues = [] ∧ (t.host.fn f).bundles = [] ∧
      (t.host.fn f).windows = Vector.replicate 16 none ∧ (t.host.fn f).msix = [] ∧
      ∀ cv k, cv.func = f → t.canvas cv = some k → k.unbinding = true
    (∀ f : FnIx, f ≠ 0 → Does (.functionLevelReset f) s fun t => clean t f ∧ (t.host.fn f).disabled = (s.host.fn f).disabled ∧
      ∀ g, g ≠ f → (t.host.fn g).ready = (s.host.fn g).ready ∧ (t.host.fn g).bundles = (s.host.fn g).bundles ∧
        (t.host.fn g).queues.map Queue.id = (s.host.fn g).queues.map Queue.id) ∧
    Does (.functionLevelReset 0) s (fun t => t = s) ∧
    (∀ cause, Does (.pfFunctionLevelReset cause) s fun t => (∀ f, clean t f ∧ (t.host.fn f).vfEnabled = false) ∧
      ∀ off, 0x100 ≤ off ∨ (0x040 ≤ off ∧ off < 0x060) → t.host.reg off = s.host.reg off) ∧
    (∀ cause, s.auditRoom = true ∨ s.sec.pf = none → Does (.pfFunctionLevelReset cause) s fun t =>
      (∀ d : DieIx, t.host.reg (0x020 + 4 * d.val) = hostReset (0x020 + 4 * d.val)) ∧
      (∀ off ∈ [0x00C, 0x014, 0x018], t.host.reg off = hostReset off) ∧
      (∀ off, off = 0x010 ∨ (0x040 ≤ off ∧ off < 0x060) ∨ 0x100 ≤ off → t.host.reg off = s.host.reg off) ∧
      t.sec.pf = none) ∧
    (∀ f : FnIx, (s.host.fn f).ready = true → Does (.functionResetDone f) s fun t => t = s) ∧
    ∀ f : FnIx, (s.host.fn f).ready = false → Does (.functionResetDone f) s fun t =>
      t = { s with fns := t.fns, hostRegs := t.hostRegs, hostMem := t.hostMem } ∧ (t.host.fn f).ready = true ∧
      (t.host.reg 0x00C).getLsbD 0 = true

/-- Every descriptor as it starts, and those that name queues, windows, DRAM or a bundle's handle. `ends` is a descriptor that only ends
with a status. -/
def Obligations.descriptors_of_queues_and_memory : Prop :=
  ∀ (s : State) (h : DescHdr),
    let f := h.func
    let plain := doneAs h .ok 0 []
    let ends (c : Instr) (st : Status) : Prop := Does c s fun t => t = { s with fns := t.fns } ∧ t.current h = doneAs h st 0 []
    (∀ c, descHeader c = some h → s.host.startable h = none → Does c s fun t => t = s) ∧
    (∀ (c : Instr) (q : Queue) (st : Status), descHeader c = some h → c ≠ .nop h → s.host.startable h = some q →
      st = (if q.state = .disabled then .funcDisabled else .badDesc) →
      q.state = .disabled ∨ h.resv = true ∨ (forAnyQueue c = false ∧ h.sq ≠ 0) →
      Does c s fun t => t = { s with fns := t.fns } ∧ ∃ k l, t.current h = doneAs h st k l) ∧
    (∀ q, s.host.startable h = some q → q.cq ≠ h.sq → Does (.nop h) s fun t =>
      t = { s with fns := t.fns, hostRegs := t.hostRegs, hostMem := t.hostMem } ∧
      ∃ y, t.host.queue f h.sq = some y ∧ y.cur = none ∧ y.head = (q.head + 1) % q.size) ∧
    ∀ q, s.Starts h q →
    (∀ (host dev : Dword) (die dir : Byte) (len : Word) (data : List Byte),
      let c : Instr := .copy h host dev die dir len data
      let x := s.die (dieOf die.toNat)
      let fields : Prop := die.toNat < s.nDies ∧ dir.toNat ≤ 1 ∧ len.toNat % 64 = 0
      let inside : Prop := s.host.inWindow f host.toNat len.toNat = true
      let owned : Prop := x.allocated f dev.toNat len.toNat = true
      let bad : Prop := ∃ u ∈ unitsOf dev.toNat len.toNat, u ∈ x.dramPoison
      (¬ fields → ends c .badDesc) ∧ (fields → ¬ inside → ends c .hostRange) ∧ (fields → inside → ¬ owned → ends c .notOwner) ∧
      (fields → inside → owned → dir = 1 → bad → ends c .aborted) ∧
      (fields → inside → owned → dir = 0 → data.length ≠ len.toNat →
        Does c s fun t => t = { s with fns := t.fns } ∧ t.current h = waitsFor h .transfer) ∧
      (fields → inside → owned → dir = 0 → data.length = len.toNat → Does c s fun t => t.current h = plain ∧
        t = { s with fns := t.fns, dies := t.dies } ∧ s.OnlyDie { t with fns := s.fns } (dieOf die.toNat) ∧
        (t.die (dieOf die.toNat)).dram = sSetRange zeroByte x.dram dev.toNat data) ∧
      (fields → inside → owned → dir = 1 → ¬ bad → Does c s fun t => t.current h = plain ∧
        t = { s with fns := t.fns, hostMem := t.hostMem } ∧
        t.hostMem = sSetRange zeroByte s.hostMem host.toNat (x.readDram dev.toNat len.toNat))) ∧
    (h.sq = 0 →
      (∀ (ix : Byte) (base limit : Dword),
        let fields : Prop := ix.toNat ≤ 15 ∧ base.toNat % 4096 = 0 ∧ limit.toNat % 4096 = 0
        (¬ fields → ends (.window h ix base limit) .badDesc) ∧
        (fields → Does (.window h ix base limit) s fun t => t = { s with fns := t.fns } ∧ t.current h = plain ∧
          (t.host.fn f).windows[ix.toNat]? = some (if limit = 0 then none else some (base, limit)) ∧
          ∀ k, k ≠ ix.toNat → (t.host.fn f).windows[k]? = (s.host.fn f).windows[k]?)) ∧
      (∀ (n : Word) (kind log2 home : Byte) (base : Dword) (cq : Word) (vec : BitVec 16) (count : Byte) (timer : BitVec 16),
        let c : Instr := .createQ h n kind log2 home base cq vec count timer
        let fields : Prop := 2 ≤ n.toNat ∧ kind.toNat ≤ 2 ∧ 4 ≤ log2.toNat ∧ log2.toNat ≤ 14 ∧ base.toNat % 4096 = 0 ∧
          (if kind = 0 then home.toNat < s.nDies ∧ ∃ z, s.host.queue f cq.toNat = some z ∧ z.kind = .cq
            else vec.toNat ≤ 2047 ∨ vec = 0xFFFF)
        let inside : Prop := s.host.inWindow f base.toNat (64 * 2 ^ log2.toNat) = true
        (¬ fields → ends c .badDesc) ∧ (fields → ¬ inside → ends c .hostRange) ∧
        (fields → inside → s.host.quota f ≤ n.toNat → ends c .notOwner) ∧
        (fields → inside → n.toNat < s.host.quota f → s.host.queue f n.toNat ≠ none → ends c .inUse) ∧
        (fields → inside → n.toNat < s.host.quota f → s.host.queue f n.toNat = none →
          Does c s fun t => t = { s with fns := t.fns } ∧ t.current h = plain ∧
          ∃ y, t.host.queue f n.toNat = some y ∧ y.kind = qKindOf kind ∧ y.log2 = log2.toNat ∧ y.base = base ∧ y.head = 0 ∧
            y.tail = 0 ∧ y.phase = true ∧ y.cur = none ∧ y.state = (if kind = 0 then .idle else .run) ∧
            (kind = 0 → y.cq = cq.toNat ∧ y.home = dieOf home.toNat))) ∧
      (∀ n : Word,
        (n.toNat < 2 → ends (.deleteQ h n) .badDesc) ∧
        (2 ≤ n.toNat → s.host.queue f n.toNat = none → ends (.deleteQ h n) .notOwner) ∧
        ∀ z, 2 ≤ n.toNat → s.host.queue f n.toNat = some z →
          (s.queueNamed f z = true → ends (.deleteQ h n) .inUse) ∧
          (s.queueNamed f z = false → Does (.deleteQ h n) s fun t => t.host.queue f n.toNat = none ∧ t.current h = doneAs h .ok 0
            (leBytes 8 (if z.kind = .sq then z.used - (if z.cur.isSome then 1 else 0) else 0)))) ∧
      (∀ (mask : Byte) (len : Dword),
        let fields : Prop := s.maskOk mask = true ∧ len ≠ 0 ∧ len.toNat % 65536 = 0
        (¬ fields → ends (.alloc h mask len) .badDesc) ∧
        (fields → s.allocAt (maskDies mask) len.toNat = none → ends (.alloc h mask len) .noResource) ∧
        (fields → s.allocAt (maskDies mask) len.toNat ≠ none → Does (.alloc h mask len) s fun t => ∃ a, a % 65536 = 0 ∧
          t = { s with fns := t.fns, dies := t.dies } ∧ t.current h = doneAs h .ok 0 (leBytes 8 a) ∧
          ∀ d, if d ∈ maskDies mask then s.rangeFree a len.toNat d = true ∧
              t.die d = { s.die d with dramAlloc := (s.die d).dramAlloc ++ [(a, len.toNat, f)] }
            else t.die d = s.die d)) ∧
      (∀ (mask : Byte) (a : Dword),
        let own (d : DieIx) : Option (Nat × Nat × FnIx) := (s.die d).dramAlloc.find? fun e => e.1 == a.toNat && e.2.2 == f
        let used : Prop := ∃ d ∈ maskDies mask, ∃ e, own d = some e ∧ s.regionUsed d e.1 e.2.1 = true
        (s.maskOk mask = false → ends (.free h mask a) .badDesc) ∧
        (s.maskOk mask = true → (∃ d ∈ maskDies mask, own d = none) → ends (.free h mask a) .notOwner) ∧
        (s.maskOk mask = true → (∀ d ∈ maskDies mask, own d ≠ none) → used → ends (.free h mask a) .inUse) ∧
        (s.maskOk mask = true → (∀ d ∈ maskDies mask, own d ≠ none) → ¬ used → Does (.free h mask a) s fun t =>
          t = { s with fns := t.fns, dies := t.dies } ∧ t.current h = plain ∧ ∀ d,
            if d ∈ maskDies mask then t.die d = { s.die d with
                dramAlloc := (s.die d).dramAlloc.filter fun e => !(e.1 == a.toNat && e.2.2 == f) }
              else t.die d = s.die d)) ∧
      ∀ handle : BitVec 16,
        let held : Prop := ∃ b ∈ (s.host.fn f).bundles, b.handle = handle.toNat
        let used : Prop := ∃ c ∈ s.canvases, c.id.func = f ∧ c.binding.bundle = handle.toNat
        (¬ held → ends (.evict h handle) .notOwner) ∧ (held → used → ends (.evict h handle) .inUse) ∧
        (held → ¬ used → Does (.evict h handle) s fun t => t = { s with fns := t.fns } ∧ t.current h = plain ∧
          (t.host.fn f).bundles = (s.host.fn f).bundles.filter fun b => b.handle != handle.toNat))

/-- WAIT, SIGNAL, TSL_CREATE, TSL_DESTROY and CTX_DESTROY. `waiting u a`: nothing but this descriptor, and its SQ's state, has changed, and it
awaits a. -/
def Obligations.descriptors_of_turnstiles : Prop :=
  ∀ (s : State) (h : DescHdr) (q : Queue), s.Starts h q →
    let f := h.func
    let plain := doneAs h .ok 0 []
    let ends (c : Instr) (st : Status) : Prop := Does c s fun t => t = { s with fns := t.fns } ∧ t.current h = doneAs h st 0 []
    let waiting (u : State) (a : Await) : Prop := u = { s with fns := u.fns } ∧ u.current h = waitsFor h a
    (∀ (tsl : BitVec 16) (kind : Byte) (w : Word),
      let fields : Prop := tsl.toNat ≤ 4095 ∧ kind.toNat ≤ 1
      let c : Instr := .wait h tsl kind w
      let v : BitVec 12 := tsl.setWidth 12
      (¬ fields → ends c .badDesc) ∧ (fields → 2 ^ 31 - 1 < w.toNat → ends c .opFormat) ∧
      (fields → w.toNat ≤ 2 ^ 31 - 1 → s.fnTsl f q.home v = none → ends c .notOwner) ∧
      ∀ k n, fields → w.toNat ≤ 2 ^ 31 - 1 → s.fnTsl f q.home v = some (k, n) →
        let op : TslOp := if kind = 0 then .waitGe w.toNat else .waitSub w.toNat
        (Does c s fun t => ∃ u, waiting u (.turnstile q.home) ∧ (u.host.queue f h.sq).map Queue.state = some .wait ∧
          t = u.tslDo q.home (.virt k v) (queueReq h q.home op) []) ∧
        ∀ o, s.present q.home = true → (s.die q.home).tsl.translate k.val v 0 = some n → (s.die q.home).tsl.obj n = some o →
          (s.die q.home).tsl.frozen = false → o.poison = false → o.waiters = [] → o.retry = [] →
          (∀ b ∈ s.barriers, ∀ i : Fin 8, b.arr[i.val] ≠ n) →
          (w.toNat ≤ o.value → Does c s fun t => t.current h = plain ∧
            ((t.die q.home).tsl.obj n).map TslObj.value = some (if kind = 0 then o.value else o.value - w.toNat)) ∧
          (o.value < w.toNat → (s.die q.home).tsl.hostWaiters < 4096 → Does c s fun t => t.current h = waitsFor h (.turnstile q.home) ∧
            ((t.die q.home).tsl.obj n).map TslObj.value = some o.value ∧ (t.host.queue f h.sq).map Queue.state = some .wait)) ∧
    (∀ (tsl : BitVec 16) (act die : Byte) (v : Word),
      let d := dieOf die.toNat
      let virt : BitVec 12 := tsl.setWidth 12
      let fields : Prop := tsl.toNat ≤ 4095 ∧ act.toNat ≤ 1 ∧ die.toNat < s.nDies
      let inRange : Prop := 1 ≤ v.toNat ∧ v.toNat ≤ 2 ^ 31 - 1
      let c : Instr := .signal h tsl act die v
      let op : TslOp := if act = 1 then .sub v.toNat else .add v.toNat
      (¬ fields → ends c .badDesc) ∧ (fields → ¬ inRange → ends c .opFormat) ∧
      (fields → inRange → s.fnTsl f d virt = none → ends c .notOwner) ∧
      ∀ k n, fields → inRange → s.fnTsl f d virt = some (k, n) →
        (h.fence = true → Does c s fun t => waiting t (.fence d virt (act == 1) v.toNat)) ∧
        (h.fence = false → q.home ≠ d → Does c s fun t => t = { s with fns := t.fns, gaide := t.gaide, packets := t.packets } ∧
          t.current h = waitsFor h (.turnstile d) ∧
          s.Sends t [{ src := q.home, dst := d, ref := .virt k virt, req := queueReq h q.home op }]) ∧
        (h.fence = false → q.home = d → Does c s fun t => ∃ u, waiting u (.turnstile d) ∧
          t = u.tslDo d (.virt k virt) (queueReq h d op) []) ∧
        ∀ o, h.fence = false → q.home = d → s.present d = true → (s.die d).tsl.translate k.val virt 0 = some n →
          (s.die d).tsl.obj n = some o → (s.die d).tsl.frozen = false → o.poison = false → o.waiters = [] → o.retry = [] →
          (∀ b ∈ s.barriers, ∀ i : Fin 8, b.arr[i.val] ≠ n) →
          (act = 0 → o.value + v.toNat ≤ 2 ^ 31 - 1 → Does c s fun t =>
            t.current h = plain ∧ ((t.die d).tsl.obj n).map TslObj.value = some (o.value + v.toNat)) ∧
          (act = 1 → v.toNat ≤ o.value → Does c s fun t =>
            t.current h = plain ∧ ((t.die d).tsl.obj n).map TslObj.value = some (o.value - v.toNat))) ∧
    (h.sq = 0 → ∀ (die : Byte) (virt : BitVec 16),
      let d := dieOf die.toNat
      let v : BitVec 12 := virt.setWidth 12
      let mapped : Option TslEntry := ((s.die d).tsl.funcCtx f).bind fun c => ((s.die d).tsl.ctx c).bind fun x => x.entry v
      let fields : Prop := die.toNat < s.nDies ∧ virt.toNat ≤ 4095
      (∀ w : Word,
        let c : Instr := .tslCreate h die virt w
        let room : Option Tsl := ((s.die d).tsl.withFuncCtx f).bind fun e => e.1.map e.2 v false w.toNat
        (¬ (fields ∧ w.toNat ≤ 2 ^ 31 - 1) → ends c .badDesc) ∧
        (fields → w.toNat ≤ 2 ^ 31 - 1 → mapped ≠ none → ends c .inUse) ∧
        (fields → w.toNat ≤ 2 ^ 31 - 1 → mapped = none → room = none → ends c .placement) ∧
        (fields → w.toNat ≤ 2 ^ 31 - 1 → mapped = none → room ≠ none →
          Does c s fun t => t = { s with fns := t.fns, dies := t.dies } ∧ t.current h = plain ∧
          (∀ e, e ≠ d → t.die e = s.die e) ∧ t.die d = { s.die d with tsl := (t.die d).tsl } ∧
          ∃ k n o, t.fnTsl f d v = some (k, n) ∧ (t.die d).tsl.obj n = some o ∧ o.value = w.toNat ∧ o.waiters = [] ∧
            o.poison = false ∧ (s.die d).tsl.obj n = none)) ∧
      (¬ fields → ends (.tslDestroy h die virt) .badDesc) ∧
      (fields → mapped = none → ends (.tslDestroy h die virt) .notOwner) ∧
      ∀ e, fields → mapped = some e → Does (.tslDestroy h die virt) s fun t => t.current h = plain ∧
        ∀ n ∈ e.owns, (t.die d).tsl.obj n = none) ∧
    (h.sq = 0 → ∀ mask : Byte,
      let there : Prop := ∀ d ∈ maskDies mask, s.present d = true
      let named : Prop := ∃ d ∈ maskDies mask, (s.die d).tsl.funcCtx f ≠ none ∧ ∃ c ∈ s.canvases, c.id.func = f ∧ c.importsOn d = true
      (¬ there → ends (.ctxDestroy h mask) .badDesc) ∧ (there → named → ends (.ctxDestroy h mask) .inUse) ∧
      (there → ¬ named → Does (.ctxDestroy h mask) s fun t => t.current h = plain ∧
        ∀ d ∈ maskDies mask, ∀ c, (s.die d).tsl.funcCtx f = some c → (t.die d).tsl.ctx c = none))

/-- ADMIT, BIND, UNBIND, PAUSE, RESUME and FRAME of a host source. All but FRAME go to queue 0. -/
def Obligations.descriptors_of_canvases : Prop :=
  ∀ (s : State) (h : DescHdr) (q : Queue), s.Starts h q →
    let f := h.func
    let plain := doneAs h .ok 0 []
    let ends (c : Instr) (st : Status) : Prop := Does c s fun t => t = { s with fns := t.fns } ∧ t.current h = doneAs h st 0 []
    let waits (c : Instr) (a : Await) : Prop := Does c s fun t => t = { s with fns := t.fns } ∧ t.current h = waitsFor h a
    (h.sq = 0 →
      (∀ (base : Dword) (len : Word) (report : Dword) (data : List Byte),
        let c : Instr := .admitBundle h base len report data
        let fails (e : CheckFail) : Prop := Does c s fun t => (t.host.fn f).bundles = (s.host.fn f).bundles ∧
          t.current h = doneAs h e.status 1 (placeDetail 0 e.op e.level e.step 0 0 0) ∧
          t.reg 0 Reg.rmsAdmitFail = satCount (s.reg 0 Reg.rmsAdmitFail) 1
        let number := lowestFree 1 4095 ((s.host.fn f).bundles.map Admitted.handle)
        (s.bufferOk f base len report = false → fails (outside .hostRange)) ∧
        (s.bufferOk f base len report = true → number = none → fails (outside .noResource)) ∧
        ∀ n, s.bufferOk f base len report = true → number = some n →
          (data.length ≠ len.toNat → waits c .transfer) ∧
          (data.length = len.toNat → s.admitFail data = none → Does c s fun t =>
            (t.host.fn f).bundles = (s.host.fn f).bundles ++ [{ handle := n, image := data }] ∧
            t.current h = doneAs h .ok 1 (placeDetail n 0xFFFF 0 0 (rewritten0 data).length 0 0) ∧
            t.reg 0 Reg.rmsAdmitOk = satCount (s.reg 0 Reg.rmsAdmitOk) 1) ∧
          ∀ e, data.length = len.toNat → s.admitFail data = some e → fails e) ∧
      (∀ (block : Dword) (len : Word) (report : Dword) (data : List Byte),
        let c : Instr := .bind h block len report data
        let fails (e : CheckFail) : Prop := Does c s fun t => t.canvases = s.canvases ∧
          t.current h = doneAs h e.status 2 (placeDetail 0 e.op e.level e.step 0 0 0)
        (s.bufferOk f block len report = false → fails (outside .hostRange)) ∧
        (s.bufferOk f block len report = true → data.length ≠ len.toNat → waits c .transfer) ∧
        (s.bufferOk f block len report = true → data.length = len.toNat → ∀ e, s.bindCheck f data = .error e → fails e) ∧
        ∀ p, s.bufferOk f block len report = true → data.length = len.toNat → s.bindCheck f data = .ok p →
          s.canvas p.canvas.id = none → Does c s fun t =>
            (∃ k, t.canvas p.canvas.id = some k ∧ k.binding = p.canvas.binding ∧ k.image = p.canvas.image ∧ k.ctx = p.canvas.ctx ∧
              k.dies = p.canvas.dies ∧ k.firstAt = some (s.gsc + 200)) ∧
            (∀ d ∈ p.canvas.dies, s.present d = true → ∃ x, (t.die d).tsl.ctx p.canvas.ctx = some x ∧ x.owner = .bundle p.canvas.id) ∧
            ∀ v, v ≠ p.canvas.id → t.canvas v = s.canvas v) ∧
      ∀ n : BitVec 16,
        let cv : CanvasId := { func := f, handle := n.toNat }
        (s.canvas cv = none → ends (.unbind h n) .notOwner ∧ (∀ flags save, flags.toNat ≤ 1 → ends (.pause h n flags save) .notOwner) ∧
          ∀ save, ends (.resume h n save) .notOwner) ∧
        (∀ (flags : Byte) save, 1 < flags.toNat → ends (.pause h n flags save) .badDesc) ∧
        ∀ c : Canvas, s.canvas cv = some c →
        (s.hasBoundary c = true → Does (.unbind h n) s fun t =>
            t = { s with fns := t.fns, canvases := t.canvases } ∧ t.current h = waitsFor h (.boundary cv) ∧
            t.canvas cv = some { c with unbinding := true, unbindQueue := c.unbindQueue.or (some (f, h.sq)) }) ∧
        (s.hasBoundary c = false → Does (.unbind h n) s fun t => t.canvas cv = none ∧ (c.unbindQueue = none → t.current h = plain)) ∧
        (∀ (flags : Byte) (save : Dword), flags.toNat ≤ 1 →
          let fits : Prop := flags = 1 ∨ s.saveFits c save = true
          (¬ fits → ends (.pause h n flags save) .notOwner) ∧
          (flags = 0 → fits → c.pause = .running → Does (.pause h n flags save) s fun t =>
            t = { s with fns := t.fns, canvases := t.canvases } ∧ t.current h = waitsFor h (.save cv) ∧
            ∃ l, t.canvas cv = some { c with pause := .saving (f, h.sq) save l } ∧
              ∀ i ∈ l, ∃ j ∈ c.items, j.id = i) ∧
          (flags = 1 → c.pause = .running → Does (.pause h n flags save) s fun t => t.current h = plain ∧
            ∃ k v, t.canvas cv = some k ∧ k.pause = .saved v ∧ v.discarded = true) ∧
          (fits → c.pause = .resuming none → Does (.pause h n flags save) s fun t =>
            t = { s with fns := t.fns, canvases := t.canvases } ∧ t.current h = waitsFor h (.save cv) ∧
            t.canvas cv = some { c with pause := .resuming (some { queue := (f, h.sq), addr := save, discard := flags.getLsbD 0 }) }) ∧
          (fits → c.pause ≠ .running → c.pause ≠ .resuming none → ends (.pause h n flags save) .inUse)) ∧
        ∀ save : Dword,
          ((∀ v, c.pause ≠ .saved v) → ends (.resume h n save) .inUse) ∧
          ∀ v : Saved, c.pause = .saved v →
            (save ≠ v.addr → ends (.resume h n save) .badDesc) ∧
            (save = v.addr → v.discarded = false → s.restoreDies c v = none → ends (.resume h n save) .placement) ∧
            (save = v.addr → v.discarded = true ∨ s.restoreDies c v ≠ none → Does (.resume h n save) s fun t =>
              (∃ k, t.canvas cv = some k ∧ k.pause = .resuming none ∧ (c.replays = true → k.firstAt = some (s.gsc + 200))) ∧
              t.current h = (if c.replays then plain else waitsFor h (.release cv)))) ∧
    ∀ (n : BitVec 16) (src : Byte) (pitch : Word) (p0 p1 p2 counter : Dword) (lines : List (List Byte)),
      let i : Instr := .frame h n src pitch p0 p1 p2 counter lines
      let cv : CanvasId := { func := f, handle := n.toNat }
      (s.canvas cv = none → ends i .notOwner) ∧
      ∀ c : Canvas, s.canvas cv = some c →
        (c.binding.sources[src.toNat]? = none → ends i .badDesc) ∧
        ∀ e : SourceEntry, c.binding.sources[src.toNat]? = some e →
          let host : Prop := e.port = 3 ∨ c.binding.flags.getLsbD 0 = true
          let inside : Prop := ∀ x ∈ [p0, p1, p2].zipIdx.take (pixPlanes e.pixfmt),
            (s.host.fn f).inWindow x.1.toNat (pitch.toNat * planeRows e.pixfmt x.2 e.height) = true
          (¬ host → ends i .badDesc) ∧ (host → ¬ inside → ends i .hostRange) ∧
          (host → inside → lines.length ≠ e.height → waits i .transfer) ∧
          (host → inside → lines.length = e.height → s.present (dieOf e.die) = true → Does i s fun t => t.current h = plain ∧
            ∃ y g, t.entrySource c src.toNat = some y ∧ g ∈ y.frames ∧ g.counter = counter ∧ g.ts = s.gsc ∧
              g.lines.length = lines.length ∧ y.nextIndex = ((s.entrySource c src.toNat).map Source.nextIndex).getD 0 + 1)

/-- REGISTER_WRITE to a register with W1C bits: `hw` holds the bits that events set in the same cycle. The security, settings and
sense registers stand on die 0 alone; those of another die hold nothing. -/
def Obligations.event_wins_over_clear : Prop :=
  (∀ (s : State) (d : DieIx) (off k : Nat) (value hw : Word) (f : Field), s.present d = true → (s.die d).boot.inReset = false →
    off < 0x100_0000 → off % 4 = 0 → f ∈ fieldsAt off → f.access = .w1c → f.lo ≤ k → k ≤ f.hi → hw.getLsbD k = true →
    (0x50_0008 ≤ off ∧ off ≤ 0x50_004C ∨ 0x52_0000 ≤ off ∧ off < 0x52_1000 ∨ 0x58_0000 ≤ off ∧ off < 0x58_1000 → d = 0) →
    Does (.registerWrite (.bar0 (0x100_0000 * d.val + off)) 4 value hw) s fun t => (t.reg d off).getLsbD k = true) ∧
  ∀ (s : State) (k : Nat) (value hw : Word), (s.die 0).boot.inReset = false → k < 4 → hw.getLsbD k = true →
    Does (.registerWrite (.bar0 0x10_000C) 4 value hw) s fun t => (t.host.reg 0x00C).getLsbD k = true

/-- Over every command and state. A change of OTP waits for its audit entry, and takes effect as that entry is programmed; over MCTP
request 3 arrives as a message. -/
def Obligations.rollback_floor_never_falls : Prop :=
  ∀ (c : Instr) (s t : State), exec c s = .next t →
    t.otp.floor ≤ 63 ∧ s.otp.floor ≤ t.otp.floor ∧
    (s.otp.floor < t.otp.floor → c = .auditProgram ∧ ∃ x ∈ s.sec.deferred, ∃ field v, x.2.2 = .otp field v ∧ Config.otpField field = 0) ∧
    ∀ x ∈ t.sec.deferred, ∀ field v, x.2.2 = .otp field v → x ∈ s.sec.deferred ∨
      ∃ data, (c = .otp x.2.1 data ∨ (x.2.1 = .mctp ∧ c = .mctpMessage (.request 3 data))) ∧ s.role x.2.1 = 2

/-- COMMIT, COMMIT_SPAN and the two data registers. -/
def Obligations.commits : Prop :=
  ∀ (s : State) (h : DieIx), s.present h = true →
    let x := s.die h
    (x.head.commit.pending = true → exec (.commit h) s = .next s ∧ exec (.commitSpan h) s = .next s) ∧
    (x.head.commit.pending = false →
      (s.commitStatus h = .ok → Does (.commit h) s fun t => s.OnlyDie t h ∧ x.OnlyHead (t.die h) [Reg.cmpCommit] ∧
        (t.die h).head = { x.head with commit := { x.head.commit with pending := true, span := false, goAt := s.gsc } } ∧
        t.field h Reg.cmpCommit 3 3 = 1) ∧
      (s.commitStatus h ≠ .ok → Does (.commit h) s fun t => s.OnlyDieHost t h ∧
        x.OnlyHead (t.die h) [Reg.cmpCommit, Reg.cmpEvt] ∧ (t.reg h Reg.cmpEvt).getLsbD 1 = true ∧
        (t.die h).head = { x.head with commit := { x.head.commit with
          pending := false, span := false, status := BitVec.ofNat 8 (s.commitStatus h).code } }) ∧
      (∀ c, s.headCanvas h = some c → dieOf c.binding.head0 = h → (∀ e ∈ c.binding.heads, s.present e.1 = true ∧
          (s.die e.1).head.commit.pending = false) →
        ((∀ e ∈ c.binding.heads, s.commitStatus e.1 = .ok) → Does (.commitSpan h) s fun t => t = { s with dies := t.dies } ∧
          (∀ e ∈ c.binding.heads, (t.die e.1).head.commit.pending = true ∧ (t.die e.1).head.commit.span = true ∧
            (t.die e.1).head.commit.goAt = s.gsc ∧ (t.die e.1).force = (s.die e.1).force) ∧
          ∀ d, (∀ e ∈ c.binding.heads, e.1 ≠ d) → t.die d = s.die d) ∧
        ∀ st, ((c.binding.heads.map fun e => s.commitStatus e.1).find? fun st => st != .ok) = some st →
          Does (.commitSpan h) s fun t => s.OnlyDieHost t h ∧ (t.die h).head.commit.status = BitVec.ofNat 8 st.code ∧
            (t.die h).head.commit.pending = false ∧ (t.reg h Reg.cmpEvt).getLsbD 1 = true) ∧
      ((∀ c, s.headCanvas h = some c → dieOf c.binding.head0 ≠ h) → Does (.commitSpan h) s fun t => s.OnlyDieHost t h ∧
        (t.die h).head.commit.status = BitVec.ofNat 8 Status.layerConfig.code ∧ (t.die h).head.commit.pending = false) ∧
      ∀ w : Word,
        (Does (.cmpLutDataWrite h w) s fun t => s.OnlyDie t h ∧
          t.die h = { x with regs := (t.die h).regs, lut := (t.die h).lut } ∧
          (∀ k, k ≠ Reg.cmpLutAddr → t.reg h k = s.reg h k) ∧
          t.field h Reg.cmpLutAddr 10 0 = (s.field h Reg.cmpLutAddr 10 0 + 1) % 2048 ∧
          (s.field h Reg.cmpLutAddr 10 0 ≤ 1024 → ∀ i, sGet lutReset (t.die h).lut i =
            (if i = s.field h Reg.cmpLutAddr 10 0 then BitVec.ofNat 32 (bits w 15 0) else sGet lutReset x.lut i))) ∧
        Does (.cmpCoefDataWrite h w) s fun t => s.OnlyDie t h ∧
          t.die h = { x with regs := (t.die h).regs, coef := (t.die h).coef } ∧
          (∀ k, k ≠ Reg.cmpCoefAddr → t.reg h k = s.reg h k) ∧
          t.field h Reg.cmpCoefAddr 10 0 = (s.field h Reg.cmpCoefAddr 10 0 + 1) % 2048 ∧
          (∀ i, sGet coefReset (t.die h).coef i =
            (if i = s.field h Reg.cmpCoefAddr 10 0 then BitVec.ofNat 32 (bits w 9 0) else sGet coefReset x.coef i))) ∧
    (x.head.commit.pending = true → ∀ (w : Word) (c : Instr), c = .cmpLutDataWrite h w ∨ c = .cmpCoefDataWrite h w →
      Does c s fun t => s.OnlyDieHost t h ∧ x.OnlyRegs (t.die h) [Reg.cmpEvt] ∧ (t.reg h Reg.cmpEvt).getLsbD 2 = true)

/-- REGISTER_WRITE through BAR0 and through a function's BAR. -/
def Obligations.register_writes : Prop :=
  (∀ (s : State) (a bytes : Nat) (v hw : Word), (bytes ≠ 4 ∨ a % 4 ≠ 0 ∨ s.nDies ≤ a / 0x100_0000 ∨
      (s.die (dieOf (a / 0x100_0000))).boot.inReset = true) → exec (.registerWrite (.bar0 a) bytes v hw) s = .next s) ∧
  (∀ (s : State) (f : FnIx) (off bytes : Nat) (v hw : Word), (bytes ≠ 4 ∨ off % 4 ≠ 0) →
    exec (.registerWrite (.fnBar f off) bytes v hw) s = .next s) ∧
  (∀ (s : State) (d : DieIx) (v hw : Word), s.present d = true → (s.die d).boot.inReset = false →
    let at_ (off : Nat) : Instr := .registerWrite (.bar0 (0x100_0000 * d.val + off)) 4 v hw
    (∀ l : LayerIx, (s.die d).head.commit.pending = false → Does (at_ (Reg.cmpLayerDstXy l)) s fun t => s.OnlyDie t d ∧
      (s.die d).OnlyRegs (t.die d) [Reg.cmpLayerDstXy l] ∧ t.reg d (Reg.cmpLayerDstXy l) = v) ∧
    (∀ l : LayerIx, (s.die d).head.commit.pending = true → Does (at_ (Reg.cmpLayerDstXy l)) s fun t => s.OnlyDieHost t d ∧
      (s.die d).OnlyRegs (t.die d) [Reg.cmpEvt] ∧ (t.reg d Reg.cmpEvt).getLsbD 2 = true) ∧
    (s.field d Reg.detRecCtrl 0 0 = 1 → exec (at_ Reg.detRecBaseLo) s = .next s) ∧
    (s.field d Reg.detRecCtrl 0 0 = 0 → Does (at_ Reg.detRecBaseLo) s fun t => s.OnlyDie t d ∧
      (s.die d).OnlyRegs (t.die d) [Reg.detRecBaseLo] ∧ t.reg d Reg.detRecBaseLo = v)) ∧
  ∀ (s : State) (f : FnIx) (v hw : Word),
    exec (.registerWrite (.fnBar f Reg.hstFnDb) 4 v hw) s = exec (.doorbell f v) s ∧
    ∀ k : Nat, k < 2048 → bit v 0 = false → ((s.host.fn f).vector k).pendingBit = true → ((s.host.fn f).vector k).addr ≠ 0 →
      Does (.registerWrite (.fnBar f (0x1_0000 + 16 * k + 12)) 4 v hw) s fun t => t = { s with fns := t.fns } ∧
        (t.host.fn f).messages = k :: (s.host.fn f).messages ∧ ((t.host.fn f).vector k).pendingBit = false ∧
        ((t.host.fn f).vector k).masked = false

/-- PART_RESET, RESET_N_ASSERTION, DIE_RESET and AUTO_DIE_RESET. The inputs of the GPIO pins, read through a register of die 0,
outlast a reset: the levels at the pins stay (entry 44). -/
def Obligations.resets_of_part_and_die : Prop :=
  ∀ s : State,
    let cleared (t : State) : Prop := t.gsc = 0 ∧ t.clocks = false ∧ t.canvases = [] ∧ t.power.point = .op3 ∧ t.sec.pf = none ∧
      t.sec.mctp = none ∧ t.otp = s.otp ∧ t.straps = s.straps ∧ t.nvm.slots = s.nvm.slots ∧ t.nvm.ring = s.nvm.ring ∧
      t.pending = s.pending ∧ ∀ d : DieIx, (t.die d).dram = [] ∧ (t.die d).bigTop = [] ∧ (t.die d).streams = [] ∧
        (t.die d).head = Head.reset ∧ (t.die d).sfn = Sfn.reset ∧
        ∀ off, off ≠ Reg.snsGpioIn → t.reg d off = (Die.reset (otpRegs s.otp d) 0).reg off
    let down (d : DieIx) (t : State) : Prop := (t.die d).boot.inReset = true ∧ (t.die d).boot.alone = true ∧
      (t.die d).boot.kept.isSome = true ∧ (t.die d).streams = [] ∧ (t.die d).dram = [] ∧ (t.die d).bigTop = [] ∧
      (t.die d).tsl = Tsl.reset ∧ (t.die d).head.running = false ∧ (t.die d).head.mode = none ∧ (t.die d).sfn = Sfn.reset ∧
      (t.reg 0 Reg.secEvt).getLsbD 6 = true ∧ t.gsc = s.gsc ∧ t.otp = s.otp
    let busy (t : State) : Prop := s.OnlyDieHost t 0 ∧ (s.die 0).OnlyRegs (t.die 0) [Reg.secEvt] ∧
      (t.reg 0 Reg.secEvt).getLsbD 7 = true
    let denied (t : State) : Prop := s.OnlyDieHost t 0 ∧ (s.die 0).OnlyRegs (t.die 0) [Reg.secRoleDenyCnt, Reg.secEvt] ∧
      t.reg 0 Reg.secRoleDenyCnt = satCount (s.reg 0 Reg.secRoleDenyCnt) 1 ∧ (t.reg 0 Reg.secEvt).getLsbD 0 = true
    (1 ≤ s.role .pf → s.auditRoom = true → Does .partReset s cleared) ∧
    (1 ≤ s.role .pf → s.auditRoom = false → Does .partReset s busy) ∧
    (s.role .pf = 0 → Does .partReset s denied) ∧
    (∀ d, d = 0 ∨ s.present d = false → Does (.dieReset d) s (fun t => t = s) ∧ Does (.autoDieReset d) s fun t => t = s) ∧
    Does .resetNAssertion s (fun t => cleared t ∧ t.pins.resetN = false ∧ ∀ d, s.present d = true → (t.die d).boot.inReset = true) ∧
    ∀ d : DieIx, d ≠ 0 → s.present d = true →
      (1 ≤ s.role .pf → s.auditRoom = true → Does (.dieReset d) s (down d)) ∧
      (1 ≤ s.role .pf → s.auditRoom = false → Does (.dieReset d) s busy) ∧ (s.role .pf = 0 → Does (.dieReset d) s denied) ∧
      let due : Prop := s.field 0 Reg.secReset 8 8 = 1 ∧ (s.die d).sfn.phase = .safe ∧ (s.die d).sfn.safeAt + 100_000_000 ≤ s.gsc
      (due → Does (.autoDieReset d) s (down d)) ∧ (¬ due → Does (.autoDieReset d) s fun t => t = s)

/-- PKG_LOCK, RELEASE_EDGE, IMAGE_VERIFY, DDR5_TRAINING_COMPLETE and SETTINGS_LOAD. -/
def Obligations.boot_steps : Prop :=
  ∀ s : State,
    (s.clocks = false → s.pins.resetN = true → Does .pkgLock s fun t => t = { s with dies := t.dies, pins := t.pins } ∧
      t.pins.pkgLock = true ∧ t.pins.pkgSync = true ∧ ∀ d, s.present d = true → t.die d = { s.die d with
        boot := { (s.die d).boot with pllLocked := true } }) ∧
    (s.clocks = true ∨ s.pins.resetN = false → Does .pkgLock s fun t => t = s) ∧
    (s.clocks = false → s.pins.pkgSync = false → Does .releaseEdge s fun t => t = s) ∧
    (s.clocks = true → (s.gsc % 2 = 1 ∨ s.power.standby = true ∨ ∀ d, s.present d = true → (s.die d).boot.alone = true →
      (s.die d).boot.inReset = true → s.gsc < (s.die d).boot.resetAt + 100_000) → Does .releaseEdge s fun t => t = s) ∧
    (∀ (d : DieIx) (image : List Byte), s.present d = false ∨ (s.die d).boot.released = false ∨ (s.die d).boot.inReset = true ∨
      ((s.die d).boot.phase ≠ .rom ∧ (s.die d).boot.phase ≠ .verifying) ∨ (s.image = none ∧ s.straps.bootHost = true) →
      Does (.imageVerify d image) s fun t => t = s) ∧
    (∀ d, (s.die d).boot.phase ≠ .running ∨ (s.die d).boot.trained = true → Does (.ddr5TrainingComplete d) s fun t => t = s) ∧
    ((s.sec.loaded = true ∨ ∃ d, s.present d = true ∧ ((s.die d).boot.phase ≠ .running ∨ (s.die d).boot.trained = false)) →
      Does .settingsLoad s fun t => t = s) ∧
    (s.clocks = false → s.pins.pkgSync = true → Does .releaseEdge s fun t => t.clocks = true ∧ t.gsc = 0 ∧
      ∀ d, s.present d = true → t.field d Reg.detStatus 1 0 = 3 ∧ (t.die d).boot.released = true ∧
        (t.die d).boot.phase = (if d = 0 ∧ s.straps.bootHost = true then .waitHost else .rom)) ∧
    (∀ d, s.clocks = true → s.gsc % 2 = 0 → s.power.standby = false → s.present d = true → (s.die d).boot.alone = true →
      (s.die d).boot.inReset = true → (s.die d).boot.resetAt + 100_000 ≤ s.gsc → Does .releaseEdge s fun t =>
        (t.die d).boot.inReset = false ∧ (t.die d).boot.released = true ∧ t.gsc = s.gsc ∧ t.field d Reg.detStatus 0 0 = 1 ∧
        ∀ e, s.present e = true → t.field e Reg.detStatus 1 1 = 0) ∧
    (∀ (d : DieIx) (image : List Byte), s.present d = true → (s.die d).boot.released = true → (s.die d).boot.inReset = false →
      (s.die d).boot.phase = .rom ∨ (s.die d).boot.phase = .verifying → s.image.isSome = true ∨ s.straps.bootHost = false →
      let img := if d = 0 ∧ (s.die d).boot.phase = .rom then image else s.image.getD image
      (s.otp.accepts img = true → Does (.imageVerify d image) s fun t => (t.die d).boot.phase = .running ∧
        t.field d Reg.secBoot 10 3 = 0 ∧ t.field d Reg.secBoot 18 13 = leAt img 12 4 ∧ s.otp.floor ≤ leAt img 12 4 ∧
        t.reg d Reg.detClassHi = BitVec.ofNat 32 (leAt img 8 4)) ∧
      (s.otp.accepts img = false → Does (.imageVerify d image) s fun t => s.OnlyDie t d ∧
        (t.die d).boot.phase = (if d = 0 ∧ (s.die d).boot.phase = .rom then .waitHost else .refused) ∧
        t.field d Reg.secBoot 10 3 = Status.auth.code)) ∧
    (∀ d, s.present d = true → (s.die d).boot.phase = .running → (s.die d).boot.trained = false →
      Does (.ddr5TrainingComplete d) s fun t => (t.die d).boot = { (s.die d).boot with trained := true } ∧
        ((s.die d).recorder.lost = 0 → s.OnlyDie t d ∧
          t.die d = { s.die d with boot := (t.die d).boot, calDone := (t.die d).calDone, sfn := (t.die d).sfn })) ∧
    (s.sec.loaded = false → (∀ d, s.present d = true → (s.die d).boot.phase = .running ∧ (s.die d).boot.trained = true) →
      Does .settingsLoad s fun t => t.sec.loaded = true ∧ (∀ d, s.present d = true → (t.die d).sfn.injBusy = true) ∧
        t.sec.log.length = s.sec.log.length + 1 ∧ t.gsc = s.gsc ∧ t.otp = s.otp ∧
        ∀ k x, s.nvm.latest = some (k, x) → t.power.stored = some x.op ∧ t.nvm.inForce = k ∧ t.reg 0 Reg.nvmSeq = x.seq)

/-- The background tasks and the Gaide link events. -/
def Obligations.background_work_and_links : Prop :=
  (∀ (s : State) (d : DieIx),
    (∀ bank r, s.present d = false ∨ (s.die d).boot.inReset = true → Does (.bigTopScrubStep d bank r) s fun t => t = s) ∧
    (∀ ch r, s.present d = false ∨ (s.die d).boot.trained = false → Does (.dramPatrolScrubStep d ch r) s fun t => t = s) ∧
    (∀ ch : Fin 2, (s.die d).boot.trained = false ∨ s.calDue d ch = false ∨ s.inBlanking d = false ∨ (ch = 1 ∧ s.calDue d 0 = true) →
      Does (.ddr5Calibration d ch) s fun t => t = s) ∧
    ∀ k : Fin 4, s.linkUp d k = false → Does (.gaideLaneLoss d k) s (fun t => t = s) ∧
      ∀ again, Does (.gaideFlitError d k again) s fun t => t = s) ∧
  (∀ (s : State) (d : DieIx), s.present d = true →
    (∀ bank : Fin 64, (s.die d).boot.inReset = false →
      let n := (s.die d).scrub[bank.val].done
      let w := bankWord bank.val (n % bankWords)
      ∀ r : EccResult, Does (.bigTopScrubStep d bank r) s fun t => ((t.die d).scrub[bank.val]).done = n + 1 ∧ bigTopBank (64 * w) = bank.val ∧
        (t.die d).bigTop = (s.die d).bigTop ∧
        (r = .clean → s.OnlyDie t d ∧ (s.die d).OnlyRegs { t.die d with scrub := (s.die d).scrub } [Reg.secScrub, Reg.secScrubPass]) ∧
        (r = .corrected → t.reg d Reg.secCeBt = satCount (s.reg d Reg.secCeBt) 1 ∧ t.reg d Reg.secEccAddr = BitVec.ofNat 32 (64 * w)) ∧
        (r = .uncorrectable → t.reg d Reg.secUeBt = satCount (s.reg d Reg.secUeBt) 1 ∧ w ∈ (t.die d).bigTopPoison ∧
          (t.reg 0 Reg.secEvt).getLsbD 4 = true)) ∧
    (∀ ch : Fin 2, (s.die d).boot.trained = true →
      let n := (s.die d).patrol[ch.val].done
      let a := channelUnit ch.val (n % s.channelUnits)
      ∀ r : EccResult, Does (.dramPatrolScrubStep d ch r) s fun t => ((t.die d).patrol[ch.val]).done = n + 1 ∧ dramChannel a = ch.val ∧
        (t.die d).dram = (s.die d).dram ∧
        (r = .clean → s.OnlyDie t d ∧ t.die d = { s.die d with patrol := (t.die d).patrol }) ∧
        (r = .corrected → t.reg d Reg.secCeDram = satCount (s.reg d Reg.secCeDram) 1 ∧ t.reg d Reg.secEccAddr = BitVec.ofNat 32 a) ∧
        (r = .uncorrectable → t.reg d Reg.secUeDram = satCount (s.reg d Reg.secUeDram) 1 ∧ a / 128 ∈ (t.die d).dramPoison ∧
          (t.reg 0 Reg.secEvt).getLsbD 4 = true)) ∧
    (∀ ch : Fin 2, (s.die d).boot.trained = true → s.calDue d ch = true → s.inBlanking d = true → (ch = 1 → s.calDue d 0 = false) →
      Does (.ddr5Calibration d ch) s fun t => s.OnlyDie t d ∧ t.die d = { s.die d with
        calDone := (s.die d).calDone.set ch.val s.gsc ch.isLt }) ∧
    ∀ (k : Fin 4) (e : DieIx), linkPeer s.straps.part d k = some e → s.present e = true → e ≠ d → s.linkUp d k = true →
      let failed (t : State) : Prop := ((t.die d).links[k.val]).failed = true ∧ ((t.die d).links[k.val]).up = false ∧
        ((t.die e).links[k.val]).failed = true ∧ (t.reg 0 Reg.secEvt).getLsbD 5 = true
      Does (.gaideLaneLoss d k) s (fun t => failed t ∧ t.reg d Reg.secCeOther = satCount (s.reg d Reg.secCeOther) 1) ∧
      ∀ again, Does (.gaideFlitError d k again) s fun t =>
        t.reg d (Reg.gdeRetry k.val) = satCount (s.reg d (Reg.gdeRetry k.val)) 1 ∧
        (again = true → 15 ≤ ((s.die d).links[k.val]).run → failed t) ∧
        (again = false ∨ ((s.die d).links[k.val]).run < 15 → s.OnlyDie { t with free := s.free } d ∧
          ((t.die d).links[k.val]) = { (s.die d).links[k.val] with run := if again then ((s.die d).links[k.val]).run + 1 else 1 })) ∧
  ∀ s : State,
    (Does .telemetrySample s fun t => t = { s with sns := { s.sns with telemetry := t.sns.telemetry } } ∧
      t.sns.telemetry.done = s.sns.telemetry.done + 1) ∧
    ∀ i : Fin 64, Does (.sectorErase i) s fun t => t = { s with nvm := { s.nvm with
        erase := t.nvm.erase, eraseDebt := s.nvm.eraseDebt - 1, live := t.nvm.live } } ∧
      t.nvm.erase = s.nvm.erase.set i.val (s.nvm.erase[i.val] + 1) i.isLt ∧
      ∀ k : Fin 4, t.nvm.live.getLsbD k.val = (s.nvm.live.getLsbD k.val &&
        !(decide (16 ≤ i.val) && decide (i.val < 48) && decide ((i.val - 16) / 8 = k.val) && decide (100_000 ≤ s.nvm.erase[i.val] + 1)))

/-- AUTH, SESSION_DROP, SESSION_EXPIRY, AUTH_LOCKOUT_END and NONCE_DRAW. A request of the PF needs BUSY at 0 and its buffer in a window;
one over MCTP has no buffer. SEC_REQ_CTRL: [2] BUSY, [15:8] STATUS. -/
def Obligations.role_sessions : Prop :=
  ∀ s : State,
    let buf := s.reqBuffer
    let busy : Prop := s.field 0 Reg.secReqCtrl 2 2 = 1
    let inWindow : Prop := 64 ≤ buf.2 ∧ buf.2 ≤ 65536 ∧ s.host.inWindow 0 buf.1 buf.2 = true
    let open_ : Prop := ∀ u, s.sec.lockedUntil = some u → u ≤ s.gsc
    (∀ data, busy → Does (.auth .pf data) s fun t => t = s) ∧
    (∀ data, ¬ busy → ¬ inWindow → Does (.auth .pf data) s fun t => s.OnlyDie t 0 ∧
      (s.die 0).OnlyRegs (t.die 0) [Reg.secReqCtrl] ∧ t.field 0 Reg.secReqCtrl 15 8 = Status.hostRange.code) ∧
    (∀ (p : Path) (data : List Byte), (p = .pf → ¬ busy ∧ inWindow) →
      let grant := s.authGranted p data
      let answers (t : State) (st : Status) : Prop := p = .pf → t.field 0 Reg.secReqCtrl 15 8 = st.code ∧ t.field 0 Reg.secReqCtrl 2 2 = 0
      let same (t : State) : Prop := ∀ q, t.session q = s.session q
      (grant = true → open_ → s.auditRoom = true → Does (.auth p data) s fun t => answers t .ok ∧
        t = { s with sec := t.sec, nvm := t.nvm, dies := t.dies } ∧ (p = .mctp → t.dies = s.dies) ∧
        t.sec.nonce = none ∧ t.sec.failures = 0 ∧ (∀ q, q ≠ p → t.session q = s.session q) ∧
        t.session p = some { role := Fin.ofNat 3 (leAt data 0 1), until_ := s.gsc + 100_000_000 * leAt data 4 4 }) ∧
      (grant = true → open_ → s.auditRoom = false → Does (.auth p data) s fun t => answers t .noResource ∧ same t ∧
        t.sec.nonce = none ∧ (t.reg 0 Reg.secEvt).getLsbD 7 = true) ∧
      (grant = false → open_ → Does (.auth p data) s fun t => answers t .auth ∧ same t ∧
        t.reg 0 Reg.secAuthFailCnt = satCount (s.reg 0 Reg.secAuthFailCnt) 1 ∧ (t.reg 0 Reg.secEvt).getLsbD 1 = true ∧
        (if 8 ≤ s.sec.failures + 1 then t.sec.failures = 0 ∧ t.sec.lockedUntil = some (s.gsc + 6_000_000_000) ∧
            (t.reg 0 Reg.secEvt).getLsbD 2 = true
          else t.sec.failures = s.sec.failures + 1)) ∧
      ∀ u, s.sec.lockedUntil = some u → s.gsc < u → Does (.auth p data) s fun t => answers t .auth ∧ same t ∧
        t.sec.failures = s.sec.failures ∧ t.sec.lockedUntil = some u) ∧
    (s.sec.pf = none → Does .sessionDrop s fun t => t = s) ∧ (∀ p, s.session p = none → Does (.sessionExpiry p) s fun t => t = s) ∧
    ((∀ u, s.sec.lockedUntil = some u → s.gsc < u) → Does .authLockoutEnd s fun t => t = s) ∧
    (∀ x, s.sec.pf = some x → s.auditRoom = true → Does .sessionDrop s fun t => t = { s with sec := t.sec, nvm := t.nvm } ∧
      t.sec.pf = none ∧ t.sec.mctp = s.sec.mctp ∧ ∃ e, t.sec.staging = s.sec.staging ++ [e] ∧ e.kind = 9) ∧
    (∀ p x, s.session p = some x → (x.until_ ≤ s.gsc → s.auditRoom = true → Does (.sessionExpiry p) s fun t =>
        t = { s with sec := t.sec, nvm := t.nvm } ∧ t.session p = none ∧ ∃ e, t.sec.staging = s.sec.staging ++ [e] ∧ e.kind = 9) ∧
      (s.gsc < x.until_ → exec (.sessionExpiry p) s = .next s)) ∧
    (∀ u, s.sec.lockedUntil = some u → u ≤ s.gsc → Does .authLockoutEnd s fun t =>
      t = { s with sec := { s.sec with lockedUntil := none } }) ∧
    Does .nonceDraw s fun t => t = { s with sec := { s.sec with nonce := some (Config.nonce s.free) }, free := s.free + 1 }

/-- ATTEST, OTP, KEYSTORE, AUDIT, SRM, BOOT and MCTP_MESSAGE. SEC_REQ_CTRL: [2] BUSY, [15:8] STATUS. -/
def Obligations.security_requests : Prop :=
  (∀ (s : State) (data : List Byte) (c : Instr), s.field 0 Reg.secReqCtrl 2 2 = 1 →
    c ∈ [.attest .pf data, .otp .pf data, .keystore .pf data, .audit .pf data, .srm .pf data, .boot .pf data] →
    Does c s fun t => t = s) ∧
  (∀ (s : State) (data : List Byte),
    Does (.attest .mctp data) s (fun t => t = s) ∧ Does (.audit .mctp data) s (fun t => t = s) ∧
    (∀ v, Config.srmVersion data = some v → s.nvm.srm < v → Does (.srm .mctp data) s fun t => t = { s with nvm := { s.nvm with srm := v } }) ∧
    (s.role .mctp < 2 → Does (.otp .mctp data) s (fun t => t = s) ∧ Does (.keystore .mctp data) s fun t => t = s) ∧
    (s.role .mctp = 2 → s.auditRoom = true →
      let waits (t : State) (a : SecAction) : Prop := t = { s with sec := t.sec, nvm := t.nvm } ∧
        ∃ e, t.sec.staging = s.sec.staging ++ [e] ∧ t.sec.deferred = s.sec.deferred ++ [(e.seq, .mctp, a)]
      let field := BitVec.ofNat 16 (leAt data 0 2)
      let v := BitVec.ofNat 512 (leAt data 8 64)
      (s.otp.read field &&& ~~~ v = 0 → Does (.otp .mctp data) s fun t => waits t (.otp field v)) ∧
      (leAt data 0 1 < 4 → Does (.keystore .mctp data) s fun t =>
        waits t (.key (Fin.ofNat 4 (leAt data 0 1)) (BitVec.ofNat 512 (leAt data 64 64))))) ∧
    ((s.die 0).boot.phase = .waitHost → Does (.boot .mctp data) s fun t => t.image = some data ∧
      ∀ d, s.present d = true → (t.die d).boot.phase = (if (s.die d).boot.phase = .running then .running else .verifying)) ∧
    ((s.die 0).boot.phase ≠ .waitHost → Does (.boot .mctp data) s fun t => t = s)) ∧
  ∀ (s : State) (data : List Byte), s.field 0 Reg.secReqCtrl 2 2 = 0 →
    let buf := s.reqBuffer
    let ends (t : State) (st : Status) : Prop := t.field 0 Reg.secReqCtrl 15 8 = st.code ∧ t.field 0 Reg.secReqCtrl 2 2 = 0
    (∀ c : Instr, ¬ (64 ≤ buf.2 ∧ buf.2 ≤ 65536 ∧ s.host.inWindow 0 buf.1 buf.2 = true) →
      c ∈ [.attest .pf data, .otp .pf data, .keystore .pf data, .audit .pf data, .srm .pf data] →
      Does c s fun t => ends t .hostRange ∧ t = { s with dies := t.dies }) ∧
    ((s.die 0).boot.phase ≠ .waitHost → Does (.boot .pf data) s fun t => ends t .notOwner ∧ t = { s with dies := t.dies }) ∧
    (64 ≤ buf.2 → buf.2 ≤ 65536 → s.host.inWindow 0 buf.1 buf.2 = true →
      (64 + 4 + s.sec.logBytes.length + 2592 + 4627 + 4627 ≤ buf.2 → Does (.attest .pf data) s fun t => ends t .ok ∧
        t = { s with dies := t.dies, hostMem := t.hostMem } ∧
        t.hostMem = sSetRange zeroByte s.hostMem (buf.1 + 64) (leBytes 4 (s.sec.logBytes.length / 80) ++ s.sec.logBytes ++
          sliceBytes (Config.mlDsaPublic s.sec.aliasSeed) 0 2592 ++ sliceBytes s.sec.identitySig 0 4627 ++
          sliceBytes (Config.mlDsaSign s.sec.aliasSeed (sha3 (sliceBytes data 0 32 ++ s.sec.logBytes ++
            Config.mlDsaPublic s.sec.aliasSeed))) 0 4627)) ∧
      (buf.2 < 64 + 4 + s.sec.logBytes.length + 2592 + 4627 + 4627 → Does (.attest .pf data) s fun t => ends t .badDesc ∧
        t = { s with dies := t.dies }) ∧
      Does (.audit .pf data) s (fun t => ends t .ok ∧ t = { s with dies := t.dies, hostMem := t.hostMem } ∧
        t.hostMem = sSetRange zeroByte s.hostMem (buf.1 + 64)
          (((s.nvm.entries (leAt data 0 4) (leAt data 8 4)).take ((buf.2 - 64) / 64)).flatMap AuditEntry.bytes)) ∧
      (∀ v, Config.srmVersion data = some v → s.nvm.srm < v → Does (.srm .pf data) s fun t => ends t .ok ∧
        t = { s with dies := t.dies, nvm := { s.nvm with srm := v } }) ∧
      ((∀ v, Config.srmVersion data = some v → v ≤ s.nvm.srm) → Does (.srm .pf data) s fun t => ends t .auth ∧ t.nvm = s.nvm) ∧
      (s.role .pf < 2 → (Does (.otp .pf data) s fun t => ends t .role ∧ t = { s with dies := t.dies }) ∧
        Does (.keystore .pf data) s fun t => ends t .role ∧ t = { s with dies := t.dies }) ∧
      (s.role .pf = 2 → s.auditRoom = true →
        let waits (t : State) (a : SecAction) : Prop := t.field 0 Reg.secReqCtrl 2 2 = 1 ∧ t.otp = s.otp ∧
          t.nvm.installerHashes = s.nvm.installerHashes ∧ (∃ e, t.sec.staging = s.sec.staging ++ [e] ∧
            t.sec.deferred = s.sec.deferred ++ [(e.seq, .pf, a)])
        let field := BitVec.ofNat 16 (leAt data 0 2)
        let v := BitVec.ofNat 512 (leAt data 8 64)
        (s.otp.read field &&& ~~~ v = 0 → Does (.otp .pf data) s fun t => waits t (.otp field v)) ∧
        (s.otp.read field &&& ~~~ v ≠ 0 → Does (.otp .pf data) s fun t => ends t .badDesc ∧ t.sec = s.sec ∧ t.otp = s.otp) ∧
        (4 ≤ leAt data 0 1 → Does (.keystore .pf data) s fun t => ends t .badDesc ∧ t.sec = s.sec ∧ t.nvm = s.nvm) ∧
        (leAt data 0 1 < 4 → Does (.keystore .pf data) s fun t =>
          waits t (.key (Fin.ofNat 4 (leAt data 0 1)) (BitVec.ofNat 512 (leAt data 64 64)))))) ∧
    ((s.die 0).boot.phase = .waitHost → Does (.boot .pf data) s fun t => t.image = some data ∧ t.field 0 Reg.secReqCtrl 2 2 = 1 ∧
      ∀ d, s.present d = true → (t.die d).boot.phase = (if (s.die d).boot.phase = .running then .running else .verifying)) ∧
    (exec (.mctpMessage (.request 1 data)) s = exec (.auth .mctp data) s ∧ exec (.mctpMessage (.request 2 data)) s = exec (.attest .mctp data) s ∧
      exec (.mctpMessage (.request 3 data)) s = exec (.otp .mctp data) s ∧
      exec (.mctpMessage (.request 4 data)) s = exec (.keystore .mctp data) s ∧
      exec (.mctpMessage (.request 5 data)) s = exec (.audit .mctp data) s ∧ exec (.mctpMessage (.request 6 data)) s = exec (.srm .mctp data) s ∧
      exec (.mctpMessage (.request 7 data)) s = exec (.boot .mctp data) s ∧ exec (.mctpMessage .store) s = exec (.store .mctp) s ∧
      exec (.mctpMessage .endStandby) s = exec .standbyExit s ∧ ∀ n, exec (.mctpMessage (.readSensor n)) s = .next s)

/-- STORE, AUDIT_PROGRAM, STORE_COMPLETE and NVM_AUDIT_SEL_WRITE. NVM_CTRL: [1] BUSY, [3:2] slot, [11:4] STATUS. -/
def Obligations.settings_and_audit_ring : Prop :=
  ∀ s : State,
    (∀ p, s.field 0 Reg.nvmCtrl 1 1 = 0 → s.nvm.pickSlot.isSome = true → s.auditRoom = true → Does (.store p) s fun t =>
      t = { s with dies := t.dies, sec := t.sec, nvm := t.nvm } ∧ s.OnlyDie { t with sec := s.sec, nvm := s.nvm } 0 ∧
      (s.die 0).OnlyRegs (t.die 0) [Reg.nvmCtrl] ∧ t.field 0 Reg.nvmCtrl 1 1 = 1 ∧ t.nvm.slots = s.nvm.slots ∧
      (∃ e, t.sec.staging = s.sec.staging ++ [e] ∧ e.kind = 4) ∧ ∃ x, t.nvm.storing = some x ∧ x.seq = s.reg 0 Reg.nvmSeq + 1 ∧
        x.op = s.power.point) ∧
    (∀ p, s.field 0 Reg.nvmCtrl 1 1 = 1 → exec (.store p) s = .next s) ∧
    (∀ p, s.field 0 Reg.nvmCtrl 1 1 = 0 → s.nvm.pickSlot = none → Does (.store p) s fun t => s.OnlyDieHost t 0 ∧
      (s.die 0).OnlyRegs (t.die 0) [Reg.nvmCtrl, Reg.nvmEvt] ∧ t.field 0 Reg.nvmCtrl 11 4 = Status.noResource.code) ∧
    (∀ p, s.field 0 Reg.nvmCtrl 1 1 = 0 → s.nvm.pickSlot ≠ none → s.auditRoom = false → Does (.store p) s fun t =>
      s.OnlyDieHost t 0 ∧ (s.die 0).OnlyRegs (t.die 0) [Reg.secEvt] ∧ (t.reg 0 Reg.secEvt).getLsbD 7 = true) ∧
    (s.nvm.storing = none ∨ (s.nvm.pickSlot ≠ none ∧ ∃ y ∈ s.sec.deferred, y.2.2 = .store) → Does .storeComplete s fun t => t = s) ∧
    (s.nvm.storing ≠ none → s.nvm.pickSlot = none → Does .storeComplete s fun t => t.nvm = { s.nvm with storing := none } ∧
      t.field 0 Reg.nvmCtrl 1 1 = 0 ∧ t.field 0 Reg.nvmCtrl 11 4 = Status.noResource.code) ∧
    (s.sec.staging = [] → Does .auditProgram s fun t => t = s) ∧
    (∀ x k, s.nvm.storing = some x → s.nvm.pickSlot = some k → (∀ y ∈ s.sec.deferred, y.2.2 ≠ .store) →
      Does .storeComplete s fun t => t.nvm.slots = s.nvm.slots.set k.val (some { x with good := true }) k.isLt ∧
        t.nvm.inForce = k ∧ t.nvm.storing = none ∧ t.field 0 Reg.nvmCtrl 1 1 = 0 ∧ t.field 0 Reg.nvmCtrl 3 2 = k.val ∧
        t.field 0 Reg.nvmCtrl 11 4 = 0 ∧ t.reg 0 Reg.nvmSeq = x.seq ∧ t.nvm.storeCount = satCount s.nvm.storeCount 1 ∧
        (t.reg 0 Reg.nvmEvt).getLsbD 0 = true ∧ t.nvm.ring = s.nvm.ring) ∧
    (∀ e rest, s.sec.staging = e :: rest →
      (Does .auditProgram s fun t => t.sec.staging = rest ∧ sLookup t.nvm.ring (e.seq.toNat % 1024) = some e ∧
        (∀ i, i ≠ e.seq.toNat % 1024 → sLookup t.nvm.ring i = sLookup s.nvm.ring i) ∧ (∀ x ∈ t.sec.deferred, x.1 ≠ e.seq) ∧
        ((∀ x ∈ s.sec.deferred, x.1 ≠ e.seq) → t = { s with nvm := t.nvm, sec := t.sec })) ∧
      ∀ p slot hash, (s.sec.deferred.filter fun x => x.1 == e.seq) = [(e.seq, p, .key slot hash)] → Does .auditProgram s fun t =>
        t.nvm.installerHashes = s.nvm.installerHashes.set slot.val hash slot.isLt ∧ t.otp = s.otp ∧
        (p = .pf → t.field 0 Reg.secReqCtrl 2 2 = 0)) ∧
    ∀ w : Word, Does (.nvmAuditSelWrite w) s fun t => t = { s with dies := t.dies, nvm := { s.nvm with captured := t.nvm.captured } } ∧
      t.nvm.captured = sLookup s.nvm.ring (bits w 9 0) ∧ t.field 0 Reg.nvmAuditSel 9 0 = bits w 9 0 ∧
      s.OnlyDie { t with nvm := s.nvm } 0 ∧ (s.die 0).OnlyRegs (t.die 0) [Reg.nvmAuditSel]

/-- OP_REQUEST, AVS_ACK, AVS_TIMEOUT, THERMAL_READING, TRIP_N, STANDBY, STANDBY_EXIT, PWR_CAP_WRITE and CLK_LOCK_CFG_WRITE. PWR_EVT:
[0] THROTTLE, [1] STEP_DOWN, [2] CRIT, [3] AVS_FAIL, [4] OP_DONE, [5] OP_REFUSED, [6] STBY_REFUSED, [7] CAP_REFUSED. Latching and
standby where no head runs are the model's choice (entries 41 and 45). -/
def Obligations.points_heat_and_standby : Prop :=
  ∀ s : State,
    let flag (t : State) (d : DieIx) (k : Nat) : Prop := (t.reg d Reg.pwrEvt).getLsbD k = true
    let denied (t : State) : Prop := s.OnlyDieHost t 0 ∧ (s.die 0).OnlyRegs (t.die 0) [Reg.secRoleDenyCnt, Reg.secEvt] ∧
      t.reg 0 Reg.secRoleDenyCnt = satCount (s.reg 0 Reg.secRoleDenyCnt) 1
    let noRoom (t : State) : Prop := s.OnlyDieHost t 0 ∧ (s.die 0).OnlyRegs (t.die 0) [Reg.secEvt] ∧
      (t.reg 0 Reg.secEvt).getLsbD 7 = true
    let therm (value : Word) : Prop := bits value 5 4 < 2 ∧ bits value 5 4 = s.field 0 Reg.pwrCtrl 5 4 ∧
      bits value 5 4 = s.field 0 Reg.detConfig 17 16
    (∀ (d : DieIx) (value : Word), bit value 2 = true → bit value 3 = false → therm value →
      bits value 5 4 = s.field d Reg.pwrCtrl 5 4 → s.power.standby = false → s.power.standbyReq = false →
      let p := opOfCode (bits value 1 0)
      (s.power.held = true → Does (.opRequest d value) s fun t => s.OnlyDieHost t d ∧
        (s.die d).OnlyRegs (t.die d) [Reg.pwrCtrl, Reg.pwrEvt] ∧ flag t d 5) ∧
      (s.power.held = false → p = s.power.point → Does (.opRequest d value) s fun t => s.OnlyDie t d ∧
        (s.die d).OnlyRegs (t.die d) [Reg.pwrCtrl] ∧ t.field d Reg.pwrCtrl 1 0 = bits value 1 0) ∧
      (s.power.held = false → p ≠ s.power.point → s.anyBoundary = true → Does (.opRequest d value) s fun t =>
        t = { s with dies := t.dies, power := t.power } ∧ (∀ e, e ≠ d → t.die e = s.die e) ∧
        (s.die d).OnlyRegs (t.die d) [Reg.pwrCtrl] ∧ t.field d Reg.pwrCtrl 1 0 = bits value 1 0 ∧ t.power = { s.power with
          target := some p, awaited := if opRaises s.power.point p then s.dieList else [], ackAt := none })) ∧
    (∀ d, d ∉ s.power.awaited → Does (.avsAck d) s (fun t => t = s) ∧ Does (.avsTimeout d) s fun t => t = s) ∧
    (∀ (d : DieIx) (p : OpPoint), s.present d = true → d ∈ s.power.awaited → s.power.target.getD s.power.point = p →
      (s.anyBoundary = true ∨ s.power.target = none → Does (.avsAck d) s fun t => t = { s with dies := t.dies, power := t.power } ∧
        (∀ e, e ≠ d → t.die e = s.die e) ∧ (s.die d).OnlyRegs (t.die d) [Reg.pwrStatus] ∧
        t.field d Reg.pwrStatus 25 16 = (Config.coreMillivolts d.val p.code).toNat ∧ t.power = { s.power with
          awaited := s.power.awaited.filter (fun x => x != d),
          ackAt := if s.power.awaited.all (fun x => x == d) then some s.gsc else s.power.ackAt }) ∧
      (s.power.target = some p → s.power.awaited = [d] → s.canvases = [] → (∀ e, (s.die e).head.running = false ∧
          (s.die e).inflight = [] ∧ (s.die e).streams = []) →
        Does (.avsAck d) s fun t => t.power.point = p ∧ t.power.target = none ∧ ∀ e, s.present e = true → flag t e 4 ∧
          ((s.die e).boot.inReset = false → t.field e Reg.detConfig 1 0 = p.code.val) ∧ (t.die e).thermal.level = 0) ∧
      Does (.avsTimeout d) s fun t =>
        t = { s with dies := t.dies, fns := t.fns, hostRegs := t.hostRegs, hostMem := t.hostMem,
                     power := { s.power with target := none, ackAt := none, awaited :=
                       if s.power.target.isSome then [] else s.power.awaited.filter fun x => x != d } } ∧ (∀ e, e ≠ d → t.die e = s.die e) ∧
        (s.die d).OnlyRegs (t.die d) [Reg.pwrEvt] ∧ flag t d 3) ∧
    (∀ (d : DieIx) (temps : List Int) (own pkg : BitVec 16), s.present d = false ∨ (s.die d).boot.inReset = true →
      Does (.thermalReading d temps own pkg) s fun t => t = s) ∧
    (∀ (d : DieIx) (temps : List Int) (own pkg : BitVec 16), s.present d = true → (s.die d).boot.inReset = false →
      let q := temps.take 16
      let x := (s.die d).thermal
      let shows (t : State) : Prop := t.reg d Reg.pwrPower = BitVec.ofNat 32 (own.toNat + if d = 0 then 65536 * pkg.toNat else 0) ∧
        (∀ (i : Fin 16) (v : Int), q[i.val]? = some v → t.reg d (Reg.pwrTemp i.val) = BitVec.ofNat 32 (bitsOfInt 11 v)) ∧
        ((∃ v ∈ q, s.junctionMax - 20 < v) → x.level.val < 4 → (t.die d).thermal.level.val = x.level.val + 1) ∧
        (x.level = 0 → (∃ v ∈ q, s.junctionMax - 20 < v) → flag t d 0)
      (Does (.thermalReading d temps own pkg) s fun t =>
        t.reg d Reg.pwrPower = BitVec.ofNat 32 (own.toNat + if d = 0 then 65536 * pkg.toNat else 0) ∧
        ∀ (i : Fin 16) (v : Int), q[i.val]? = some v → t.reg d (Reg.pwrTemp i.val) = BitVec.ofNat 32 (bitsOfInt 11 v)) ∧
      ((∀ v ∈ q, v < s.junctionMax + 40) →
        (s.field 0 Reg.pwrCtrl 5 4 ≠ 1 → Does (.thermalReading d temps own pkg) s fun t => shows t ∧ s.OnlyDieHost t d ∧
          (s.die d).OnlyRegs { t.die d with thermal := x } ([Reg.pwrPower, Reg.pwrThrottleMs, Reg.pwrEvt] ++
            (List.range 16).map Reg.pwrTemp)) ∧
        ∀ p, s.field 0 Reg.pwrCtrl 5 4 = 1 → x.level = 4 → 999 ≤ x.hotMs → (∃ v ∈ q, s.junctionMax - 20 < v) →
          s.power.target = none → s.power.point.below = some p → s.anyBoundary = true →
          Does (.thermalReading d temps own pkg) s fun t => shows t ∧ t.power.target = some p ∧ t.power.point = s.power.point ∧
            flag t d 1) ∧
      (s.field 0 Reg.pwrCtrl 5 4 ≠ 1 → (∃ v ∈ q, s.junctionMax + 40 ≤ v) → x.critical = true →
        Does (.thermalReading d temps own pkg) s fun t => (t.die d).sfn.phase = .safe ∧ flag t d 2 ∧ t.power = s.power)) ∧
    exec .tripN s = .next { s with pins := { s.pins with tripN := false } } ∧
    (∀ value : Word, bit value 3 = true → bit value 2 = false → therm value → s.power.standby = false →
      (s.canvases ≠ [] → Does (.standby value) s fun t => s.OnlyDieHost t 0 ∧
        (s.die 0).OnlyRegs (t.die 0) [Reg.pwrCtrl, Reg.pwrEvt] ∧ flag t 0 6) ∧
      (s.canvases = [] → (∃ h, s.present h = true ∧ (s.die h).head.running = true) → Does (.standby value) s fun t =>
        t = { s with dies := t.dies, power := { s.power with standbyReq := true, standbyPoint := s.power.point } } ∧
        (∀ e, e ≠ 0 → t.die e = s.die e) ∧ (s.die 0).OnlyRegs (t.die 0) [Reg.pwrCtrl] ∧ t.field 0 Reg.pwrCtrl 3 3 = 1) ∧
      (s.canvases = [] → (∀ h, (s.die h).head.running = false) → Does (.standby value) s fun t =>
        t.power = { s.power with standby := true, standbyReq := false, standbyPoint := s.power.point } ∧
        ∀ d, d ≠ 0 → s.present d = true → (t.die d).boot.inReset = true ∧ (t.die d).boot.alone = true)) ∧
    (s.power.standby = false → Does .standbyExit s fun t =>
      t = { s with dies := t.dies, power := { s.power with standbyReq := false } } ∧ (∀ e, e ≠ 0 → t.die e = s.die e) ∧
      (s.die 0).OnlyRegs (t.die 0) [Reg.pwrCtrl] ∧ t.field 0 Reg.pwrCtrl 3 3 = 0) ∧
    (s.power.standby = true → s.power.standbyPoint = s.power.point → Does .standbyExit s fun t =>
      t.power = { s.power with standby := false } ∧ t.field 0 Reg.pwrCtrl 3 3 = 0 ∧ (t.die 0).boot.alone = true ∧
      (t.die 0).sfn.injBusy = true ∧ ∀ d, s.present d = true → t.field d Reg.detStatus 1 1 = 0 ∧
        (d ≠ 0 → (t.die d).boot.resetAt = s.gsc)) ∧
    (∀ value : Word, let c := bits value 7 0
      (s.role .pf = 0 → Does (.pwrCapWrite value) s denied) ∧
      (1 ≤ s.role .pf → s.auditRoom = false → Does (.pwrCapWrite value) s noRoom) ∧
      (1 ≤ s.role .pf → s.auditRoom = true → c ≠ 0 → 4 * c < op3Watts s.straps.part → Does (.pwrCapWrite value) s fun t =>
        flag t 0 7 ∧ (∀ e, e ≠ 0 → t.die e = s.die e) ∧ (s.die 0).OnlyRegs (t.die 0) [Reg.pwrEvt]) ∧
      (1 ≤ s.role .pf → s.auditRoom = true → c = 0 ∨ op3Watts s.straps.part ≤ 4 * c →
        (∀ d, s.present d = true → (s.die d).boot.inReset = false → s.field d Reg.detConfig 15 8 = s.field 0 Reg.detConfig 15 8) →
        Does (.pwrCapWrite value) s fun t => t.reg 0 Reg.pwrCap = BitVec.ofNat 32 c ∧
          ∀ d, s.present d = true → (s.die d).boot.inReset = false → t.field d Reg.detConfig 15 8 = c)) ∧
    ∀ (d : DieIx) (value : Word),
      (s.role .pf = 0 → Does (.clkLockCfgWrite d value) s denied) ∧
      (1 ≤ s.role .pf → s.auditRoom = false → Does (.clkLockCfgWrite d value) s noRoom) ∧
      (1 ≤ s.role .pf → s.auditRoom = true → Does (.clkLockCfgWrite d value) s fun t =>
        t = { s with dies := t.dies, sec := t.sec, nvm := t.nvm } ∧ (∀ e, e ≠ d → t.die e = s.die e) ∧
        (s.die d).OnlyRegs (t.die d) [Reg.clkLockCfg] ∧ t.reg d Reg.clkLockCfg =
          if s.nDies < bits value 3 0 then s.reg d Reg.clkLockCfg else BitVec.ofNat 32 (bits value 20 0))

/-- GPIO_EDGE, SNS_TASK_SEL_WRITE, SNS_TASK_DATA_WRITE, SENSE_TRANSACTION_END and SNS_PWM_WRITE. SNS_EVT: [0] XFER_ERR,
[2] GPIO_EDGE. SNS_PWM: [7:0] DUTY, [25] SYNC, [26] EN. Without SYNC a duty is in force at once: the model's choice (entry 46). -/
def Obligations.pins_tasks_and_pwm : Prop :=
  ∀ s : State,
    (∀ (pin : Fin 32) (level : Bool), let stamped := (pin, s.gsc) :: s.sns.edgeTimes.filter fun e => e.1 != pin
      (bit (s.reg 0 Reg.snsGpioDir) pin.val = true → exec (.gpioEdge pin level) s = .next s) ∧
      (bit (s.reg 0 Reg.snsGpioDir) pin.val = false →
        (s.power.standby = false ∨ bit (s.reg 0 Reg.snsGpioWake) pin.val = false → Does (.gpioEdge pin level) s fun t =>
          t = { s with dies := t.dies, fns := t.fns, hostRegs := t.hostRegs, hostMem := t.hostMem,
                       sns := { s.sns with edgeTimes := stamped } } ∧ (∀ e, e ≠ 0 → t.die e = s.die e) ∧
          (s.die 0).OnlyRegs (t.die 0) [Reg.snsGpioIn, Reg.snsEvt] ∧ t.field 0 Reg.snsGpioIn pin.val pin.val = b2n level ∧
          (t.reg 0 Reg.snsEvt).getLsbD 2 = true) ∧
        (s.power.standby = true → bit (s.reg 0 Reg.snsGpioWake) pin.val = true → Does (.gpioEdge pin level) s fun t =>
          t.power.standby = false ∧ t.sns.edgeTimes = stamped))) ∧
    (∀ value : Word, Does (.snsTaskSelWrite value) s fun t =>
      t = { s with dies := t.dies, sns := { s.sns with data := (s.task (Fin.ofNat 64 (bits value 5 0))).words } } ∧
      (∀ e, e ≠ 0 → t.die e = s.die e) ∧ (s.die 0).OnlyRegs (t.die 0) [Reg.snsTaskSel] ∧
      t.reg 0 Reg.snsTaskSel = BitVec.ofNat 32 (bits value 5 0)) ∧
    (∀ (w : Fin 4) (value : Word), let words := s.sns.data.set w.val value w.isLt
      let slot : Fin 64 := Fin.ofNat 64 (s.field 0 Reg.snsTaskSel 5 0)
      let stored : Task := { s.task slot with words := words, frames := 0, dueSince := none }
      exec (.snsTaskDataWrite w value) s = .next (if w = 3 then
          { s with sns := { s.sns with data := words, tasks := s.sns.tasks.set slot.val stored slot.isLt } }
        else { s with sns := { s.sns with data := words } })) ∧
    (∀ (slot : Fin 64) (r : XferEnd), ((s.task slot).running = none → exec (.senseTransactionEnd slot r) s = .next s) ∧
      ∀ w, (s.task slot).running = some w →
        let ends (t : State) (x : Task) : Prop := t.sns = { s.sns with tasks := s.sns.tasks.set slot.val x slot.isLt }
        let failed (t : State) (code : Fin 4) : Prop := s.OnlyDieHost { t with sns := s.sns } 0 ∧
          (s.die 0).OnlyRegs (t.die 0) [Reg.snsXferErr, Reg.snsEvt] ∧
          t.reg 0 Reg.snsXferErr = satCount (s.reg 0 Reg.snsXferErr) 1 ∧ (t.reg 0 Reg.snsEvt).getLsbD 0 = true ∧
          ends t { s.task slot with running := none, status := code }
        let ended (t : State) : Prop := match r with
          | .ok bytes =>
            if bits w[0] 1 1 = 1 then t = { s with sns := t.sns } ∧ ends t { s.task slot with running := none, status := 1 }
            else ends t { s.task slot with running := none, status := 1, result := sliceBytes bytes 0 (bits w[0] 18 16 + 1) } ∧
              (s.field 0 Reg.detRecCtrl 4 4 = 0 → t = { s with sns := t.sns })
          | .nack => failed t 2
          | .timeout => failed t 3
        (Does (.senseTransactionEnd slot r) s fun t => ∃ u, ended u ∧ t = u.serveBus (taskBus w) ∧
          (s.waitingTasks (taskBus w) = [] → t = u)) ∧
        ∀ a k rest, s.waitingTasks (taskBus w) = (a, k) :: rest → s.framePassed (dieOf (bits (s.task k).words[0] 21 19)) a = false →
          (∀ j, j ≠ slot → ∀ u, (s.task j).running = some u → taskBus u ≠ taskBus w) →
          Does (.senseTransactionEnd slot r) s fun t => (t.task k).running = some (s.task k).words ∧ (t.task k).dueSince = none) ∧
    ∀ (k : Fin 8) (value : Word), bits value 26 26 = s.field 0 (Reg.snsPwm k.val) 26 26 →
      let v : Byte := BitVec.ofNat 8 (bits value 7 0)
      Does (.snsPwmWrite k value) s fun t => t = { s with dies := t.dies, sns := { s.sns with
          duty := (if bit value 25 then s.sns.duty else s.sns.duty.set k.val v k.isLt),
          dutyNext := s.sns.dutyNext.set k.val (if bit value 25 then some v else none) k.isLt } } ∧
        (∀ e, e ≠ 0 → t.die e = s.die e) ∧ (s.die 0).OnlyRegs (t.die 0) [Reg.snsPwm k.val] ∧
        t.field 0 (Reg.snsPwm k.val) 25 0 = bits value 25 0 ∧
        t.field 0 (Reg.snsPwm k.val) 27 26 = s.field 0 (Reg.snsPwm k.val) 27 26
end

