-- ==== Sys2Proof/Laws/SMap.lean ====
section
/-! SUPPORT. Sparse stores: a read after a write, and every operation keeps the canonical form. -/

namespace Sys2Proof.Machine

variable {α : Type}

theorem sAbove_mono {m : SMap α} {a b : Nat} (hab : a ≤ b) (h : sAbove b m = true) : sAbove a m = true := by
  induction m with
  | nil => rfl
  | cons e rest ih => simp only [sAbove, Bool.and_eq_true, decide_eq_true_eq] at h ⊢; exact ⟨by omega, ih h.2⟩

theorem sLookup_sErase (m : SMap α) (k j : Nat) : sLookup (sErase m k) j = if k = j then none else sLookup m j := by
  induction m with
  | nil => simp [sErase, sLookup]
  | cons e rest ih => grind [sErase, sLookup]

theorem sLookup_sInsert (m : SMap α) (k j : Nat) (x : α) :
    sLookup (sInsert m k x) j = if k = j then some x else sLookup m j := by
  induction m with
  | nil => simp [sInsert, sLookup]
  | cons e rest ih => grind [sInsert, sLookup]

theorem sAbove_sErase {m : SMap α} {b : Nat} (k : Nat) (h : sAbove b m = true) : sAbove b (sErase m k) = true := by
  induction m with
  | nil => rfl
  | cons e rest ih => grind [sErase, sAbove]

theorem sAbove_sInsert {m : SMap α} {b k : Nat} (x : α) (hk : b < k) (h : sAbove b m = true) :
    sAbove b (sInsert m k x) = true := by
  induction m with
  | nil => simp [sInsert, sAbove, hk]
  | cons e rest ih => grind [sInsert, sAbove]

variable [DecidableEq α] {dflt : Nat → α}

/-- A read after a write to the same key gives the value written, and to another key what it gave before. -/
theorem sGet_sSet (m : SMap α) (k j : Nat) (x : α) :
    sGet dflt (sSet dflt m k x) j = if k = j then x else sGet dflt m j := by
  unfold sGet sSet
  split
  · rw [sLookup_sErase]; split
    · subst_vars; rfl
    · rfl
  · rw [sLookup_sInsert]; split <;> rfl

@[simp] theorem sGet_sSet_same (m : SMap α) (k : Nat) (x : α) : sGet dflt (sSet dflt m k x) k = x := by
  simp [sGet_sSet]

@[simp] theorem sGet_sSet_ne (m : SMap α) {k j : Nat} (x : α) (h : k ≠ j) :
    sGet dflt (sSet dflt m k x) j = sGet dflt m j := by simp [sGet_sSet, h]

@[simp] theorem sWf_nil : sWf dflt ([] : SMap α) = true := rfl

theorem sWf_sErase {m : SMap α} (k : Nat) (h : sWf dflt m = true) : sWf dflt (sErase m k) = true := by
  induction m with
  | nil => rfl
  | cons e rest ih =>
    obtain ⟨key, v⟩ := e
    simp only [sWf, Bool.and_eq_true] at h
    simp only [sErase]
    split
    · exact ih h.2
    · simp only [sWf, Bool.and_eq_true]
      exact ⟨⟨h.1.1, sAbove_sErase k h.1.2⟩, ih h.2⟩

theorem sWf_sInsert {m : SMap α} {k : Nat} {x : α} (hx : x ≠ dflt k) (h : sWf dflt m = true) :
    sWf dflt (sInsert m k x) = true := by
  induction m with
  | nil => simp [sInsert, sWf, sAbove, hx]
  | cons e rest ih =>
    obtain ⟨key, v⟩ := e
    simp only [sWf, Bool.and_eq_true, decide_eq_true_eq] at h
    simp only [sInsert]
    split
    · rename_i hlt
      simp only [sWf, sAbove, Bool.and_eq_true, decide_eq_true_eq]
      exact ⟨⟨hx, hlt, sAbove_mono (by omega) h.1.2⟩, h.1, h.2⟩
    · split
      · subst_vars
        simp only [sWf, Bool.and_eq_true, decide_eq_true_eq]
        exact ⟨⟨hx, h.1.2⟩, h.2⟩
      · simp only [sWf, Bool.and_eq_true, decide_eq_true_eq]
        exact ⟨⟨h.1.1, sAbove_sInsert x (by omega) h.1.2⟩, ih h.2⟩

theorem sWf_sSet {m : SMap α} (k : Nat) (x : α) (h : sWf dflt m = true) : sWf dflt (sSet dflt m k x) = true := by
  unfold sSet
  split
  · exact sWf_sErase k h
  · exact sWf_sInsert ‹_› h

theorem sWf_sSetRange {m : SMap α} (k : Nat) (xs : List α) (h : sWf dflt m = true) :
    sWf dflt (sSetRange dflt m k xs) = true := by
  induction xs generalizing m k with
  | nil => exact h
  | cons x rest ih => exact ih (k + 1) (sWf_sSet k x h)

/-- A read outside a written range gives what it gave before. -/
theorem sGet_sSetRange_out (m : SMap α) (k j : Nat) (xs : List α) (h : j < k ∨ k + xs.length ≤ j) :
    sGet dflt (sSetRange dflt m k xs) j = sGet dflt m j := by
  induction xs generalizing m k with
  | nil => rfl
  | cons x rest ih =>
    simp only [List.length_cons] at h
    rw [sSetRange, ih _ _ (by omega), sGet_sSet, if_neg (by omega)]

/-- A read inside a written range gives the value written there. -/
theorem sGet_sSetRange_in (m : SMap α) (k : Nat) (xs : List α) (i : Nat) (h : i < xs.length) :
    sGet dflt (sSetRange dflt m k xs) (k + i) = xs[i] := by
  induction xs generalizing m k i with
  | nil => simp at h
  | cons x rest ih =>
    rw [sSetRange]
    cases i with
    | zero => rw [sGet_sSetRange_out _ _ _ _ (by omega)]; simp
    | succ n =>
      have := ih (sSet dflt m k x) (k + 1) n (by simpa using h)
      rw [show k + (n + 1) = k + 1 + n by omega, this]; simp

end Sys2Proof.Machine
end

