-- ==== Sys2Proof/Laws/Keeps.lean ====
section
/-! SUPPORT. What every shared operation keeps: the canonical form of the register files and memories, the queue of
waiting commands, the straps, OTP, and the device time but for its return to 0. -/

namespace Sys2Proof.Machine

/-- What an operation keeps from one state to the next. -/
structure State.Keeps (s t : State) : Prop where
  wf : s.wf → t.wf
  pending : t.pending = s.pending
  straps : t.straps = s.straps
  otp : t.otp = s.otp
  gsc : t.gsc = s.gsc ∨ t.gsc = 0

/-- The host side is in canonical form. -/
def HostSide.Ok (h : HostSide) : Prop :=
  (∀ f : FnIx, (h.fns[f.val]).wf = true) ∧ sWf hostReset h.hostRegs = true ∧ Memory.wf h.hostMem = true

namespace State.Keeps

protected theorem refl (s : State) : s.Keeps s := ⟨id, rfl, rfl, rfl, .inl rfl⟩

variable {s0 s t : State}

theorem trans (h : s0.Keeps s) (k : s.Keeps t) : s0.Keeps t :=
  ⟨fun w => k.wf (h.wf w), k.pending.trans h.pending, k.straps.trans h.straps, k.otp.trans h.otp,
    k.gsc.elim (fun e => h.gsc.imp (e.trans ·) (e.trans ·)) .inr⟩

/-- A change of fields other than those kept. -/
theorem copy (h : s0.Keeps s) {clocks canvases sec nvm sns power ptp pins igs gaide packets barriers image free} :
    s0.Keeps { s with clocks := clocks, canvases := canvases, sec := sec, nvm := nvm, sns := sns,
                      power := power, ptp := ptp, pins := pins, igs := igs, gaide := gaide, packets := packets, barriers := barriers,
                      image := image, free := free } :=
  h.trans ⟨id, rfl, rfl, rfl, .inl rfl⟩

theorem ite {c : Prop} [Decidable c] (h : c → s0.Keeps s) (k : ¬c → s0.Keeps t) : s0.Keeps (if c then s else t) := by
  split
  · exact h ‹_›
  · exact k ‹_›

theorem foldl {α : Type} {f : State → α → State} {l : List α} (hf : ∀ t x, s0.Keeps t → s0.Keeps (f t x))
    (h : s0.Keeps s) : s0.Keeps (l.foldl f s) := by
  induction l generalizing s with
  | nil => exact h
  | cons x rest ih => exact ih (hf s x h)

theorem foldRange {n : Nat} {f : State → Nat → State} (hf : ∀ t x, s0.Keeps t → s0.Keeps (f t x))
    (h : s0.Keeps s) : s0.Keeps (foldRange n f s) := foldl hf h

end State.Keeps

theorem Die.wf_copy {x : Die} (h : x.wf = true) {latch lut lutForce coef coefForce choices bigTopPoison dramPoison
    dramAlloc engines tsl streams pools inflight head sources sfn boot links thermal scrub patrol ceRecent calDone recorder
    poolUsedKib} :
    Die.wf { x with latch := latch, lut := lut, lutForce := lutForce, coef := coef, coefForce := coefForce,
                    choices := choices, bigTopPoison := bigTopPoison, dramPoison := dramPoison,
                    dramAlloc := dramAlloc, engines := engines, tsl := tsl, streams := streams, pools := pools,
                    inflight := inflight, head := head, sources := sources, sfn := sfn, boot := boot, links := links,
                    thermal := thermal, scrub := scrub, patrol := patrol, ceRecent := ceRecent, calDone := calDone,
                    recorder := recorder, poolUsedKib := poolUsedKib } = true := h

theorem Die.wf_foldl {α : Type} {f : Die → α → Die} {l : List α} {x : Die}
    (hf : ∀ (y : Die) (a : α), y.wf = true → (f y a).wf = true) (h : x.wf = true) : (l.foldl f x).wf = true := by
  induction l generalizing x with
  | nil => exact h
  | cons a rest ih => exact ih (hf x a h)

theorem Die.wf_foldRange {n : Nat} {f : Die → Nat → Die} {x : Die}
    (hf : ∀ (y : Die) (a : Nat), y.wf = true → (f y a).wf = true) (h : x.wf = true) :
    (Machine.foldRange n f x).wf = true := Die.wf_foldl hf h

theorem Fn.wf_copy {x : Fn} (h : x.wf = true) {ready disabled aqErr windows queues bundles msix messages vfEnabled} :
    Fn.wf { x with ready := ready, disabled := disabled, aqErr := aqErr, windows := windows, queues := queues,
                   bundles := bundles, msix := msix, messages := messages, vfEnabled := vfEnabled } = true := h

theorem Fn.wf_foldl {α : Type} {f : Fn → α → Fn} {l : List α} {x : Fn}
    (hf : ∀ (y : Fn) (a : α), y.wf = true → (f y a).wf = true) (h : x.wf = true) : (l.foldl f x).wf = true := by
  induction l generalizing x with
  | nil => exact h
  | cons a rest ih => exact ih (hf x a h)

theorem HostSide.ok_foldl {α : Type} {f : HostSide → α → HostSide} {l : List α} {x : HostSide}
    (hf : ∀ (y : HostSide) (a : α), y.Ok → (f y a).Ok) (h : x.Ok) : (l.foldl f x).Ok := by
  induction l generalizing x with
  | nil => exact h
  | cons a rest ih => exact ih (hf x a h)

/-- A fold keeps what its function keeps. -/
theorem foldl_inv {σ α : Type} {P : σ → Prop} {f : σ → α → σ} {l : List α} {x : σ} (hf : ∀ y a, P y → P (f y a))
    (h : P x) : P (l.foldl f x) := by
  induction l generalizing x with
  | nil => exact h
  | cons a rest ih => exact ih (hf x a h)

/-- A state that an operation answers, where it answers one, keeps what is to be kept. -/
def State.KeepsO (s0 : State) : Option State → Prop
  | none => True
  | some t => s0.Keeps t

/-- The same for an operation that answers a status or a state. -/
def State.KeepsE (s0 : State) : Except Status State → Prop
  | .error _ => True
  | .ok t => s0.Keeps t

section
variable {s0 t : State}

theorem State.KeepsO.none : s0.KeepsO none := trivial

theorem State.KeepsO.some (h : s0.Keeps t) : s0.KeepsO (some t) := h

theorem State.KeepsO.ite {c : Prop} [Decidable c] {a b : Option State} (h : c → s0.KeepsO a) (k : ¬c → s0.KeepsO b) :
    s0.KeepsO (if c then a else b) := by
  split
  · exact h ‹_›
  · exact k ‹_›

theorem State.KeepsO.or {a b : Option State} (h : s0.KeepsO a) (k : s0.KeepsO b) : s0.KeepsO (a.or b) := by
  cases a with
  | none => exact k
  | some _ => exact h

theorem State.KeepsO.get {a : Option State} (h : s0.KeepsO a) (e : a = Option.some t) : s0.Keeps t := by
  subst e
  exact h

theorem State.KeepsE.error {e : Status} : s0.KeepsE (.error e) := trivial

theorem State.KeepsE.ok (h : s0.Keeps t) : s0.KeepsE (.ok t) := h

theorem State.KeepsE.ite {c : Prop} [Decidable c] {a b : Except Status State} (h : c → s0.KeepsE a)
    (k : ¬c → s0.KeepsE b) : s0.KeepsE (if c then a else b) := by
  split
  · exact h ‹_›
  · exact k ‹_›

end

/-! ### Dies -/

theorem Die.wf_iff {x : Die} : x.wf = true ↔ sWf regReset x.regs = true ∧ sWf regReset x.force = true ∧
    sWf zeroByte x.dram = true ∧ sWf zeroByte x.bigTop = true := by
  simp [Die.wf, and_assoc]

theorem setReg_wf {x : Die} (h : x.wf = true) (off : Nat) (w : Word) : (x.setReg off w).wf = true := by
  rw [Die.wf_iff] at h ⊢; exact ⟨sWf_sSet _ _ h.1, h.2⟩

theorem writeDram_wf {x : Die} (h : x.wf = true) (a : Nat) (bs : List Byte) : (x.writeDram a bs).wf = true := by
  rw [Die.wf_iff] at h ⊢; exact ⟨h.1, h.2.1, sWf_sSetRange _ _ h.2.2.1, h.2.2.2⟩

theorem writeBigTop_wf {x : Die} (h : x.wf = true) (a : Nat) (bs : List Byte) : (x.writeBigTop a bs).wf = true := by
  rw [Die.wf_iff] at h ⊢; exact ⟨h.1, h.2.1, h.2.2.1, sWf_sSetRange _ _ h.2.2.2⟩

theorem sWf_foldSet {α : Type} [DecidableEq α] {dflt : Nat → α} {l : List (Nat × α)} {m : SMap α}
    (h : sWf dflt m = true) : sWf dflt (l.foldl (fun m e => sSet dflt m e.1 e.2) m) = true := by
  induction l generalizing m with
  | nil => exact h
  | cons e rest ih => exact ih (sWf_sSet _ _ h)

theorem sWf_foldErase {α : Type} [DecidableEq α] {dflt : Nat → α} {l : List Nat} {m : SMap α}
    (h : sWf dflt m = true) : sWf dflt (l.foldl sErase m) = true := by
  induction l generalizing m with
  | nil => exact h
  | cons e rest ih => exact ih (sWf_sErase _ h)

theorem landDram_wf {x : Die} (h : x.wf = true) {l : List (Nat × Byte)} {poison} :
    Die.wf { x with dram := l.foldl (fun m e => sSet zeroByte m e.1 e.2) x.dram, dramPoison := poison } = true := by
  rw [Die.wf_iff] at h ⊢; exact ⟨h.1, h.2.1, sWf_foldSet h.2.2.1, h.2.2.2⟩

theorem landBigTop_wf {x : Die} (h : x.wf = true) {l : List (Nat × Byte)} {poison} :
    Die.wf { x with bigTop := l.foldl (fun m e => sSet zeroByte m e.1 e.2) x.bigTop, bigTopPoison := poison } = true := by
  rw [Die.wf_iff] at h ⊢; exact ⟨h.1, h.2.1, h.2.2.1, sWf_foldSet h.2.2.2⟩

theorem landHost_ok {h : HostSide} (k : h.Ok) {l : List (Nat × Byte)} :
    HostSide.Ok { h with hostMem := l.foldl (fun m e => sSet zeroByte m e.1 e.2) h.hostMem } :=
  ⟨k.1, k.2.1, sWf_foldSet k.2.2⟩

theorem eraseHostRegs_ok {h : HostSide} (k : h.Ok) {l : List Nat} :
    HostSide.Ok { h with hostRegs := l.foldl sErase h.hostRegs } :=
  ⟨k.1, sWf_foldErase k.2.1, k.2.2⟩

theorem fnReset_wf : Fn.reset.wf = true := rfl

theorem putForce_wf {x y : Die} (h : x.wf = true) (k : y.wf = true) {off : Nat} {w : Word} :
    Die.wf { y with force := sSet regReset x.force off w } = true := by
  rw [Die.wf_iff] at h k ⊢; exact ⟨k.1, sWf_sSet _ _ h.2.1, k.2.2⟩

theorem otpRegs_wf (o : Otp) (d : DieIx) : sWf regReset (otpRegs o d) = true := sWf_foldSet rfl

theorem Die.reset_wf (o : Otp) (d : DieIx) (now : Nat) : (Die.reset (otpRegs o d) now).wf = true := by
  have h := otpRegs_wf o d
  generalize otpRegs o d = m at h
  simp [Die.wf, Die.reset, h]

/-! ### States -/

variable {s0 s : State}

theorem setDie_keeps (h : s0.Keeps s) (d : DieIx) {x : Die} (hx : (s.die d).wf = true → x.wf = true) :
    s0.Keeps (s.setDie d x) := by
  refine h.trans ⟨fun w => ⟨fun e => ?_, w.2⟩, rfl, rfl, rfl, .inl rfl⟩
  have we := w.1 e
  simp only [State.setDie, State.die] at we ⊢
  split
  · rw [Vector.getElem_set]
    split
    · have hd : (s.die d).wf = true := w.1 d
      exact hx hd
    · exact we
  · exact we

theorem onDie_keeps (h : s0.Keeps s) (d : DieIx) {f : Die → Die} (hf : ∀ x : Die, x.wf = true → (f x).wf = true) :
    s0.Keeps (s.onDie d f) := setDie_keeps h d (hf _)

theorem onDies_keeps (h : s0.Keeps s) (ds : List DieIx) {f : DieIx → Die → Die}
    (hf : ∀ (d : DieIx) (x : Die), x.wf = true → (f d x).wf = true) : s0.Keeps (s.onDies ds f) :=
  .foldl (fun _ d ht => onDie_keeps ht d (hf d)) h

theorem withHost_keeps (h : s0.Keeps s) {x : HostSide} (hx : s.host.Ok → x.Ok) : s0.Keeps (s.withHost x) := by
  refine h.trans ⟨fun w => ?_, rfl, rfl, rfl, .inl rfl⟩
  have := hx ⟨w.2.1, w.2.2.1, w.2.2.2⟩
  exact ⟨w.1, this.1, this.2.1, this.2.2⟩

theorem onHost_keeps (h : s0.Keeps s) {f : HostSide → HostSide} (hf : ∀ x : HostSide, x.Ok → (f x).Ok) :
    s0.Keeps (s.onHost f) := withHost_keeps h (hf _)

theorem writeHost_keeps (h : s0.Keeps s) (a : Nat) (bs : List Byte) : s0.Keeps (s.writeHost a bs) :=
  h.trans ⟨fun w => ⟨w.1, w.2.1, w.2.2.1, sWf_sSetRange _ _ w.2.2.2⟩, rfl, rfl, rfl, .inl rfl⟩

theorem onFn_ok {h : HostSide} (k : h.Ok) (f : FnIx) {g : Fn → Fn} (hg : ∀ x : Fn, x.wf = true → (g x).wf = true) :
    (h.onFn f g).Ok := by
  refine ⟨fun e => ?_, k.2⟩
  simp only [HostSide.onFn]
  rw [Vector.getElem_set]
  split
  · exact hg _ (k.1 f)
  · exact k.1 e

theorem hostSetReg_ok {h : HostSide} (k : h.Ok) (off : Nat) (w : Word) : (h.setReg off w).Ok :=
  ⟨k.1, sWf_sSet _ _ k.2.1, k.2.2⟩

theorem hostWrite_ok {h : HostSide} (k : h.Ok) (a : Nat) (bs : List Byte) : (h.write a bs).Ok :=
  ⟨k.1, k.2.1, sWf_sSetRange _ _ k.2.2⟩

theorem fnSetReg_wf {x : Fn} (h : x.wf = true) (off : Nat) (w : Word) :
    Fn.wf { x with regs := sSet fnReset x.regs off w } = true := sWf_sSet _ _ h

/-- The release edge of the clocks returns the device time to 0. -/
theorem zeroTime_keeps (h : s0.Keeps s) {clocks} : s0.Keeps { s with clocks := clocks, gsc := 0 } :=
  h.trans ⟨id, rfl, rfl, rfl, .inr rfl⟩

/-- The state after a reset is in canonical form where host memory is. -/
theorem ofReset_wf (st : Straps) (o : Otp) (n : Nvm) {m : SMap Byte} (h : Memory.wf m = true) :
    (State.ofReset st o n m).wf := by
  refine ⟨fun d => ?_, fun f => ?_, rfl, h⟩
  · simp only [State.ofReset, State.die, Vector.getElem_ofFn]
    exact Die.reset_wf o d 0
  · simp only [State.ofReset, Vector.getElem_replicate]
    rfl

end Sys2Proof.Machine
end

