-- ==== Sys2Proof/Laws/KeepsOps.lean ====
section
/-! SUPPORT. What the operations of Ops.lean keep. -/

namespace Sys2Proof.Machine

theorem State.sendGaide_keeps {s0 s : State} (h : s0.Keeps s) {ms} : s0.Keeps (State.sendGaide s ms) := by
  unfold State.sendGaide
  repeat'
    first
    | with_reducible assumption | with_reducible intro _ | with_reducible apply State.Keeps.foldl
    | fail_if_no_progress with_reducible refine State.Keeps.copy ?_ | with_reducible apply Die.wf_foldl
    | fail_if_no_progress with_reducible refine Die.wf_copy ?_ | dsimp only | assumption

theorem Die.setField_wf {x : Die} (h : x.wf = true) {off hi lo v} : (Die.setField x off hi lo v).wf = true := by
  unfold Die.setField
  repeat'
    first
    | with_reducible assumption | with_reducible apply setReg_wf | with_reducible intro _ | dsimp only | assumption

theorem Die.count_wf {x : Die} (h : x.wf = true) {off n} : (Die.count x off n).wf = true := by
  unfold Die.count
  repeat'
    first
    | with_reducible assumption | with_reducible apply setReg_wf | with_reducible intro _ | dsimp only | assumption

theorem Die.setWide_wf {x : Die} (h : x.wf = true) {lo v} : (Die.setWide x lo v).wf = true := by
  unfold Die.setWide
  repeat'
    first
    | with_reducible assumption | with_reducible apply setReg_wf | with_reducible intro _ | dsimp only | assumption

theorem Die.countWide_wf {x : Die} (h : x.wf = true) {lo n} : (Die.countWide x lo n).wf = true := by
  unfold Die.countWide
  repeat'
    first
    | with_reducible assumption | with_reducible apply Die.setWide_wf | with_reducible intro _ | dsimp only
    | assumption

theorem State.setReg_keeps {s0 s : State} (h : s0.Keeps s) {d off w} : s0.Keeps (State.setReg s d off w) := by
  unfold State.setReg
  repeat'
    first
    | with_reducible assumption | with_reducible apply onDie_keeps | with_reducible apply setReg_wf
    | with_reducible intro _ | dsimp only | assumption

theorem State.setField_keeps {s0 s : State} (h : s0.Keeps s) {d off hi lo v} : s0.Keeps (State.setField s d off hi lo v) := by
  unfold State.setField
  repeat'
    first
    | with_reducible assumption | with_reducible apply onDie_keeps | with_reducible apply Die.setField_wf
    | with_reducible intro _ | dsimp only | assumption

theorem State.count_keeps {s0 s : State} (h : s0.Keeps s) {d off n} : s0.Keeps (State.count s d off n) := by
  unfold State.count
  repeat'
    first
    | with_reducible assumption | with_reducible apply onDie_keeps | with_reducible apply Die.count_wf
    | with_reducible intro _ | dsimp only | assumption

end Sys2Proof.Machine
end

