-- ==== Sys2Proof/Laws/KeepsQueue.lean ====
section
/-! SUPPORT. What the operations of Queue.lean keep. -/

namespace Sys2Proof.Machine

theorem HostSide.count_ok {x : HostSide} (h : x.Ok) {off n} : (HostSide.count x off n).Ok := by
  unfold HostSide.count
  repeat'
    first
    | with_reducible assumption | with_reducible apply hostSetReg_ok | with_reducible intro _ | dsimp only
    | assumption

theorem HostSide.setFnReg_ok {x : HostSide} (h : x.Ok) {f off w} : (HostSide.setFnReg x f off w).Ok := by
  unfold HostSide.setFnReg
  repeat'
    first
    | with_reducible assumption | with_reducible apply onFn_ok | with_reducible intro _
    | with_reducible apply fnSetReg_wf | fail_if_no_progress with_reducible refine Fn.wf_copy ?_ | dsimp only
    | assumption

theorem HostSide.countFn_ok {x : HostSide} (h : x.Ok) {f off n} : (HostSide.countFn x f off n).Ok := by
  unfold HostSide.countFn
  repeat'
    first
    | with_reducible assumption | with_reducible apply HostSide.setFnReg_ok | with_reducible intro _ | dsimp only
    | assumption

theorem HostSide.onQueue_ok {x : HostSide} (h : x.Ok) {f q g} : (HostSide.onQueue x f q g).Ok := by
  unfold HostSide.onQueue
  repeat'
    first
    | with_reducible assumption | with_reducible apply onFn_ok | with_reducible intro _
    | fail_if_no_progress with_reducible refine Fn.wf_copy ?_ | dsimp only | assumption

theorem Fn.setVector_wf {x : Fn} (h : x.wf = true) {v m} : (Fn.setVector x v m).wf = true := by
  unfold Fn.setVector
  repeat'
    first
    | with_reducible assumption | with_reducible intro _ | with_reducible apply eraseHostRegs_ok
    | fail_if_no_progress with_reducible refine Fn.wf_copy ?_ | dsimp only | assumption

theorem Fn.fire_wf {x : Fn} (h : x.wf = true) {v} : (Fn.fire x v).wf = true := by
  unfold Fn.fire
  repeat'
    first
    | with_reducible assumption | with_reducible apply Fn.setVector_wf | with_reducible intro _
    | fail_if_no_progress with_reducible refine Fn.wf_copy ?_ | split | dsimp only | assumption

theorem HostSide.posted_ok {x : HostSide} (h : x.Ok) {f q} : (HostSide.posted x f q).Ok := by
  unfold HostSide.posted
  repeat'
    first
    | with_reducible assumption | with_reducible apply onFn_ok | with_reducible apply HostSide.onQueue_ok
    | with_reducible apply Fn.fire_wf | with_reducible intro _ | split | dsimp only | assumption

theorem HostSide.append_ok {x : HostSide} (h : x.Ok) {f q mk} : (HostSide.append x f q mk).Ok := by
  unfold HostSide.append
  repeat'
    first
    | with_reducible assumption | with_reducible apply hostWrite_ok | with_reducible apply HostSide.onQueue_ok
    | with_reducible apply HostSide.posted_ok | with_reducible intro _ | split | dsimp only | assumption

theorem HostSide.settleAll_ok {x : HostSide} (h : x.Ok) {f} : (HostSide.settleAll x f).Ok := by
  unfold HostSide.settleAll
  repeat'
    first
    | with_reducible assumption | with_reducible apply onFn_ok | with_reducible intro _
    | fail_if_no_progress with_reducible refine Fn.wf_copy ?_ | dsimp only | assumption

theorem HostSide.postCpl_ok {x : HostSide} (h : x.Ok) {f cq kind die step st detail} : (HostSide.postCpl x f cq kind die step st detail).Ok := by
  unfold HostSide.postCpl
  repeat'
    first
    | with_reducible assumption | with_reducible apply HostSide.settleAll_ok
    | with_reducible apply HostSide.onQueue_ok | with_reducible apply HostSide.append_ok
    | with_reducible apply HostSide.countFn_ok | with_reducible intro _ | split | dsimp only | assumption

theorem HostSide.appendEvent_ok {x : HostSide} (h : x.Ok) {f q type die payload} : (HostSide.appendEvent x f q type die payload).Ok := by
  unfold HostSide.appendEvent
  repeat'
    first
    | with_reducible assumption | with_reducible apply HostSide.onQueue_ok
    | with_reducible apply HostSide.append_ok | with_reducible intro _ | split | dsimp only | assumption

theorem HostSide.loseEvents_ok {x : HostSide} (h : x.Ok) {f q n} : (HostSide.loseEvents x f q n).Ok := by
  unfold HostSide.loseEvents
  repeat'
    first
    | with_reducible assumption | with_reducible apply HostSide.onQueue_ok | with_reducible intro _ | dsimp only
    | assumption

theorem HostSide.postEvents_ok {x : HostSide} (h : x.Ok) {f q rs} : (HostSide.postEvents x f q rs).Ok := by
  unfold HostSide.postEvents
  repeat'
    first
    | with_reducible assumption | with_reducible apply HostSide.loseEvents_ok
    | with_reducible apply HostSide.onQueue_ok | with_reducible apply HostSide.appendEvent_ok
    | with_reducible intro _ | with_reducible apply HostSide.ok_foldl | split | dsimp only | assumption

theorem HostSide.postDie_ok {x : HostSide} (h : x.Ok) {d type payload} : (HostSide.postDie x d type payload).Ok := by
  unfold HostSide.postDie
  repeat'
    first
    | with_reducible assumption | with_reducible apply HostSide.postEvents_ok | with_reducible apply hostSetReg_ok
    | with_reducible apply HostSide.count_ok | with_reducible intro _ | split | dsimp only | assumption

theorem HostSide.postCanvas_ok {x : HostSide} (h : x.Ok) {c d kind layer value} : (HostSide.postCanvas x c d kind layer value).Ok := by
  unfold HostSide.postCanvas
  repeat'
    first
    | with_reducible assumption | with_reducible apply HostSide.postEvents_ok | with_reducible intro _ | dsimp only
    | assumption

theorem HostSide.postFunc_ok {x : HostSide} (h : x.Ok) {f kind} : (HostSide.postFunc x f kind).Ok := by
  unfold HostSide.postFunc
  repeat'
    first
    | with_reducible assumption | with_reducible apply HostSide.postDie_ok | with_reducible intro _ | dsimp only
    | assumption

theorem HostSide.queueError_ok {x : HostSide} (h : x.Ok) {f q st} : (HostSide.queueError x f q st).Ok := by
  unfold HostSide.queueError
  repeat'
    first
    | with_reducible assumption | with_reducible apply HostSide.onQueue_ok | with_reducible apply onFn_ok
    | with_reducible apply HostSide.postCpl_ok | with_reducible intro _
    | fail_if_no_progress with_reducible refine Fn.wf_copy ?_ | split | dsimp only | assumption

theorem HostSide.raise_ok {x : HostSide} (h : x.Ok) {mask} : (HostSide.raise x mask).Ok := by
  unfold HostSide.raise
  repeat'
    first
    | with_reducible assumption | with_reducible apply hostSetReg_ok | with_reducible apply HostSide.postDie_ok
    | with_reducible intro _ | split | dsimp only | assumption

end Sys2Proof.Machine
end

