-- ==== Sys2Proof/Laws/KeepsFlags.lean ====
section
/-! SUPPORT. What the operations of Flags.lean keep. -/

namespace Sys2Proof.Machine

theorem State.raise_keeps {s0 s : State} (h : s0.Keeps s) {d evt mask} : s0.Keeps (State.raise s d evt mask) := by
  unfold State.raise
  repeat'
    first
    | with_reducible assumption | with_reducible apply State.setReg_keeps | with_reducible apply withHost_keeps
    | with_reducible apply HostSide.postDie_ok | with_reducible intro _ | with_reducible apply State.Keeps.ite
    | split | dsimp only | assumption

theorem State.raiseSome_keeps {s0 s : State} (h : s0.Keeps s) {d evt mask} :
    s0.Keeps (State.raiseSome s d evt mask) := by
  unfold State.raiseSome
  repeat'
    first
    | with_reducible assumption | with_reducible apply State.raise_keeps
    | with_reducible apply HostSide.raise_ok | with_reducible intro _ | with_reducible apply State.Keeps.ite
    | split | dsimp only | assumption

theorem State.raiseHost_keeps {s0 s : State} (h : s0.Keeps s) {mask} : s0.Keeps (State.raiseHost s mask) := by
  unfold State.raiseHost
  repeat'
    first
    | with_reducible assumption | with_reducible apply onHost_keeps | with_reducible apply HostSide.raise_ok
    | with_reducible intro _ | dsimp only | assumption

theorem State.countRaise_keeps {s0 s : State} (h : s0.Keeps s) {d cnt evt mask} : s0.Keeps (State.countRaise s d cnt evt mask) := by
  unfold State.countRaise
  repeat'
    first
    | with_reducible assumption | with_reducible apply State.raise_keeps | with_reducible apply State.count_keeps
    | with_reducible intro _ | dsimp only | assumption

end Sys2Proof.Machine
end

