-- ==== Sys2Proof/Laws/KeepsCanvas.lean ====
section
/-! SUPPORT. What the operations of Canvas.lean keep. -/

namespace Sys2Proof.Machine

theorem State.onCanvas_keeps {s0 s : State} (h : s0.Keeps s) {cv f} : s0.Keeps (State.onCanvas s cv f) := by
  unfold State.onCanvas
  repeat'
    first
    | with_reducible assumption | with_reducible intro _
    | fail_if_no_progress with_reducible refine State.Keeps.copy ?_ | dsimp only | assumption

end Sys2Proof.Machine
end

