-- ==== Sys2Proof/Laws/KeepsWork.lean ====
section
/-! SUPPORT. What the operations of Work.lean keep. -/

namespace Sys2Proof.Machine

theorem State.untrusted_keeps {s0 s : State} (h : s0.Keeps s) {d} : s0.Keeps (State.untrusted s d) := by
  unfold State.untrusted
  repeat'
    first
    | with_reducible assumption | with_reducible apply State.countRaise_keeps | with_reducible apply onDie_keeps
    | with_reducible intro _ | fail_if_no_progress with_reducible refine Die.wf_copy ?_ | dsimp only | assumption

theorem State.onStream_keeps {s0 s : State} (h : s0.Keeps s) {st f} : s0.Keeps (State.onStream s st f) := by
  unfold State.onStream
  repeat'
    first
    | with_reducible assumption | with_reducible apply onDie_keeps | with_reducible intro _
    | fail_if_no_progress with_reducible refine Die.wf_copy ?_ | dsimp only | assumption

theorem Die.removeStreams_wf {x : Die} (h : x.wf = true) {p} : (Die.removeStreams x p).wf = true := by
  unfold Die.removeStreams
  repeat'
    first
    | with_reducible assumption | with_reducible intro _
    | fail_if_no_progress with_reducible refine Die.wf_copy ?_ | dsimp only | assumption

theorem State.barrierArrive_keeps {s0 s : State} (h : s0.Keeps s) {d n} : s0.Keeps (State.barrierArrive s d n) := by
  unfold State.barrierArrive
  repeat'
    first
    | with_reducible assumption | with_reducible apply onDie_keeps | with_reducible intro _
    | with_reducible apply State.Keeps.ite | fail_if_no_progress with_reducible refine State.Keeps.copy ?_
    | fail_if_no_progress with_reducible refine Die.wf_copy ?_ | split | dsimp only | assumption

theorem State.released_keeps {s0 s : State} (h : s0.Keeps s) {q st} : s0.Keeps (State.released s q st) := by
  unfold State.released
  repeat'
    first
    | with_reducible assumption | with_reducible apply onHost_keeps | with_reducible apply HostSide.onQueue_ok
    | with_reducible apply State.onStream_keeps | with_reducible intro _ | with_reducible apply State.Keeps.ite
    | split | dsimp only | assumption

theorem State.tslFlags_keeps {s0 s : State} (h : s0.Keeps s) {d bundle r} : s0.Keeps (State.tslFlags s d bundle r) := by
  unfold State.tslFlags
  repeat'
    first
    | with_reducible assumption | with_reducible apply State.countRaise_keeps
    | with_reducible apply State.untrusted_keeps | with_reducible apply State.raise_keeps | with_reducible intro _
    | with_reducible apply State.Keeps.ite | split | dsimp only | assumption

theorem State.tslCycle_keeps {s0 s : State} (h : s0.Keeps s) {d n ops} :
    s0.Keeps (State.tslCycle s d n ops).1 := by
  unfold State.tslCycle
  repeat'
    first
    | with_reducible assumption | with_reducible apply State.barrierArrive_keeps
    | with_reducible apply State.released_keeps | with_reducible apply State.tslFlags_keeps
    | with_reducible apply onDie_keeps | with_reducible intro _ | with_reducible apply State.Keeps.foldl
    | fail_if_no_progress with_reducible refine Die.wf_copy ?_ | split | dsimp only

theorem State.tslCycle_keeps' {s0 s : State} (h : s0.Keeps s) {d n ops t rs} (e : State.tslCycle s d n ops = (t, rs)) :
    s0.Keeps t := by
  have := State.tslCycle_keeps h (d := d) (n := n) (ops := ops)
  rwa [e] at this

theorem State.settleParts_keeps {s0 s : State} (h : s0.Keeps s) {cv} : s0.Keeps (State.settleParts s cv) := by
  unfold State.settleParts
  repeat'
    first
    | with_reducible assumption | with_reducible apply State.onCanvas_keeps
    | with_reducible apply State.sendGaide_keeps | with_reducible intro _ | with_reducible apply State.Keeps.ite
    | fail_if_no_progress with_reducible refine State.Keeps.copy ?_
    | fail_if_no_progress with_reducible refine Die.wf_copy ?_ | split | dsimp only | assumption

theorem State.partArrived_keeps {s0 s : State} (h : s0.Keeps s) {cv frame id} :
    s0.Keeps (State.partArrived s cv frame id) := by
  unfold State.partArrived
  repeat'
    first
    | with_reducible assumption | with_reducible apply State.onCanvas_keeps
    | with_reducible apply State.settleParts_keeps | with_reducible intro _
    | with_reducible apply State.Keeps.ite | fail_if_no_progress with_reducible refine State.Keeps.copy ?_
    | fail_if_no_progress with_reducible refine Die.wf_copy ?_ | split | dsimp only | assumption

theorem State.postItem_keeps {s0 s : State} (h : s0.Keeps s) {c d op stripe step st w} : s0.Keeps (State.postItem s c d op stripe step st w) := by
  unfold State.postItem
  repeat'
    first
    | with_reducible assumption | with_reducible apply onHost_keeps | with_reducible apply HostSide.postCpl_ok
    | with_reducible intro _ | with_reducible apply State.Keeps.ite | split | dsimp only | assumption

theorem State.syncInflight_keeps {s0 s : State} (h : s0.Keeps s) {d} : s0.Keeps (State.syncInflight s d) := by
  unfold State.syncInflight
  repeat'
    first
    | with_reducible assumption | with_reducible apply onDie_keeps | with_reducible apply Die.setField_wf
    | with_reducible apply State.raise_keeps | with_reducible intro _ | with_reducible apply State.Keeps.ite
    | split | dsimp only | assumption

theorem State.launch_keeps {s0 s : State} (h : s0.Keeps s) {c r st} : s0.Keeps (State.launch s c r st) := by
  unfold State.launch
  repeat'
    first
    | with_reducible assumption | with_reducible apply onDie_keeps | with_reducible intro _
    | with_reducible apply State.Keeps.ite | fail_if_no_progress with_reducible refine Die.wf_copy ?_ | split
    | dsimp only | assumption

theorem State.enter_keeps {s0 s : State} (h : s0.Keeps s) {d e} : s0.Keeps (State.enter s d e) := by
  unfold State.enter
  repeat'
    first
    | with_reducible assumption | with_reducible apply onDie_keeps | with_reducible apply State.launch_keeps
    | with_reducible apply State.onCanvas_keeps | with_reducible intro _ | with_reducible apply State.Keeps.ite
    | fail_if_no_progress with_reducible refine State.Keeps.copy ?_
    | fail_if_no_progress with_reducible refine Die.wf_copy ?_ | split | dsimp only | assumption

theorem State.refill_keeps {s0 s : State} (h : s0.Keeps s) {d} : s0.Keeps (State.refill s d) := by
  unfold State.refill
  repeat'
    first
    | with_reducible assumption | with_reducible apply State.enter_keeps
    | with_reducible apply State.syncInflight_keeps | with_reducible intro _
    | with_reducible apply State.Keeps.foldl | with_reducible apply Die.wf_foldl | dsimp only | assumption

theorem State.ringSet_keeps {s0 s : State} (h : s0.Keeps s) {d ctx v seq value} : s0.Keeps (State.ringSet s d ctx v seq value) := by
  unfold State.ringSet
  repeat'
    first
    | with_reducible assumption | with_reducible apply State.tslCycle_keeps | with_reducible intro _ | split
    | dsimp only | assumption

theorem State.fillHalo_keeps {s0 s : State} (h : s0.Keeps s) {cv d frame stripe seq op} : s0.Keeps (State.fillHalo s cv d frame stripe seq op) := by
  unfold State.fillHalo
  repeat'
    first
    | with_reducible assumption | with_reducible apply State.onCanvas_keeps
    | with_reducible apply State.ringSet_keeps | with_reducible intro _ | with_reducible apply State.Keeps.ite
    | with_reducible apply State.Keeps.foldl | split | dsimp only | assumption

theorem Die.dropItems_wf {x : Die} (h : x.wf = true) {p} : (Die.dropItems x p).wf = true := by
  unfold Die.dropItems
  repeat'
    first
    | with_reducible assumption | with_reducible intro _ | fail_if_no_progress with_reducible refine Die.wf_copy ?_
    | dsimp only | assumption

theorem State.resetBarrier_keeps {s0 s : State} (h : s0.Keeps s) {cv op} :
    s0.Keeps (State.resetBarrier s cv op) := by
  unfold State.resetBarrier
  repeat'
    first
    | with_reducible assumption | with_reducible apply onDies_keeps | with_reducible intro _
    | with_reducible apply State.Keeps.ite | fail_if_no_progress with_reducible refine State.Keeps.copy ?_
    | fail_if_no_progress with_reducible refine Die.wf_copy ?_ | split | dsimp only | assumption

theorem State.abandonOp_keeps {s0 s : State} (h : s0.Keeps s) {cv d frame stripe seq op st} :
    s0.Keeps (State.abandonOp s cv d frame stripe seq op st) := by
  unfold State.abandonOp
  repeat'
    first
    | with_reducible assumption | with_reducible apply State.onCanvas_keeps | with_reducible apply onDies_keeps
    | with_reducible apply Die.dropItems_wf | with_reducible apply Die.removeStreams_wf
    | with_reducible apply State.resetBarrier_keeps | with_reducible apply State.refill_keeps
    | with_reducible apply State.fillHalo_keeps | with_reducible intro _ | with_reducible apply State.Keeps.ite
    | with_reducible apply State.Keeps.foldl | fail_if_no_progress with_reducible refine State.Keeps.copy ?_
    | with_reducible apply Die.wf_foldl | fail_if_no_progress with_reducible refine Die.wf_copy ?_ | split
    | dsimp only | assumption

theorem State.failItem_keeps {s0 s : State} (h : s0.Keeps s) {id st w} : s0.Keeps (State.failItem s id st w) := by
  unfold State.failItem
  repeat'
    first
    | with_reducible assumption | with_reducible apply State.postItem_keeps
    | with_reducible apply State.abandonOp_keeps | with_reducible intro _ | with_reducible apply State.Keeps.ite
    | split | dsimp only | assumption

theorem State.endStream_keeps {s0 s : State} (h : s0.Keeps s) {st why w} : s0.Keeps (State.endStream s st why w) := by
  unfold State.endStream
  repeat'
    first
    | with_reducible assumption | with_reducible apply onDie_keeps | with_reducible apply State.abandonOp_keeps
    | with_reducible apply State.postItem_keeps | with_reducible apply State.refill_keeps | with_reducible intro _
    | fail_if_no_progress with_reducible refine Die.wf_copy ?_ | split | dsimp only | assumption

theorem State.failIssuer_keeps {s0 s : State} (h : s0.Keeps s) {cv q st} : s0.Keeps (State.failIssuer s cv q st) := by
  unfold State.failIssuer
  repeat'
    first
    | with_reducible assumption | with_reducible apply State.released_keeps
    | with_reducible apply State.endStream_keeps | with_reducible apply State.failItem_keeps
    | with_reducible intro _ | with_reducible apply State.Keeps.ite | split | dsimp only | assumption

theorem State.applyResult_keeps {s0 s : State} (h : s0.Keeps s) {cv e} : s0.Keeps (State.applyResult s cv e) := by
  unfold State.applyResult
  repeat'
    first
    | with_reducible assumption | with_reducible apply State.failIssuer_keeps
    | with_reducible apply State.released_keeps | with_reducible intro _ | with_reducible apply State.Keeps.ite
    | split | dsimp only | assumption

theorem State.tslOps_keeps {s0 s : State} (h : s0.Keeps s) {d n ops} : s0.Keeps (State.tslOps s d n ops) := by
  unfold State.tslOps
  repeat'
    first
    | with_reducible assumption | with_reducible apply State.tslCycle_keeps' h (by assumption)
    | with_reducible apply onDie_keeps
    | with_reducible apply State.applyResult_keeps | with_reducible apply State.settleParts_keeps
    | with_reducible intro _ | with_reducible apply State.Keeps.ite | with_reducible apply State.Keeps.foldl
    | fail_if_no_progress with_reducible refine Die.wf_copy ?_ | split | dsimp only

theorem State.mapError_keeps {s0 s : State} (h : s0.Keeps s) {d cv q} : s0.Keeps (State.mapError s d cv q) := by
  unfold State.mapError
  repeat'
    first
    | with_reducible assumption | with_reducible apply State.countRaise_keeps
    | with_reducible apply State.failIssuer_keeps | with_reducible apply State.untrusted_keeps
    | with_reducible intro _ | with_reducible apply State.Keeps.ite | split | dsimp only | assumption

theorem State.tslDo_keeps {s0 s : State} (h : s0.Keeps s) {d r q cycle} : s0.Keeps (State.tslDo s d r q cycle) := by
  unfold State.tslDo
  repeat'
    first
    | with_reducible assumption | with_reducible apply State.tslOps_keeps
    | with_reducible apply State.mapError_keeps | with_reducible intro _ | split | dsimp only | assumption

theorem State.signalRows_keeps {s0 s : State} (h : s0.Keeps s) {c id before after allBefore allAfter} :
    s0.Keeps (State.signalRows s c id before after allBefore allAfter) := by
  unfold State.signalRows
  repeat'
    first
    | with_reducible assumption | with_reducible apply State.tslDo_keeps
    | with_reducible apply State.sendGaide_keeps | with_reducible intro _ | with_reducible apply State.Keeps.ite
    | with_reducible apply State.Keeps.foldl | with_reducible apply Die.wf_foldl
    | fail_if_no_progress with_reducible refine Die.wf_copy ?_ | split | dsimp only | assumption

theorem State.arrive_keeps {s0 s : State} (h : s0.Keeps s) {c i} : s0.Keeps (State.arrive s c i) := by
  unfold State.arrive
  repeat'
    first
    | with_reducible assumption | with_reducible apply State.tslOps_keeps | with_reducible intro _
    | fail_if_no_progress with_reducible refine Die.wf_copy ?_ | split | dsimp only | assumption

end Sys2Proof.Machine
end

