-- ==== Sys2Proof/Laws/KeepsRecord.lean ====
section
/-! SUPPORT. What the operations of Record.lean keep. -/

namespace Sys2Proof.Machine

theorem Die.ringWrite_wf {x : Die} (h : x.wf = true) {bs} : (Die.ringWrite x bs).wf = true := by
  unfold Die.ringWrite
  repeat'
    first
    | with_reducible assumption | with_reducible apply writeDram_wf | with_reducible apply Die.setField_wf
    | with_reducible apply setReg_wf | with_reducible intro _
    | fail_if_no_progress with_reducible refine Die.wf_copy ?_ | split | dsimp only | assumption

theorem State.loseRecord_keeps {s0 s : State} (h : s0.Keeps s) {d} : s0.Keeps (State.loseRecord s d) := by
  unfold State.loseRecord
  repeat'
    first
    | with_reducible assumption | with_reducible apply State.countRaise_keeps | with_reducible apply onDie_keeps
    | with_reducible intro _ | with_reducible apply State.Keeps.ite
    | fail_if_no_progress with_reducible refine Die.wf_copy ?_ | split | dsimp only | assumption

theorem State.recordOne_keeps {s0 s : State} (h : s0.Keeps s) {d tick r} : s0.Keeps (State.recordOne s d tick r) := by
  unfold State.recordOne
  repeat'
    first
    | with_reducible assumption | with_reducible apply State.loseRecord_keeps
    | with_reducible apply State.raise_keeps | with_reducible apply onDie_keeps
    | with_reducible apply Die.setField_wf | with_reducible apply Die.ringWrite_wf | with_reducible intro _
    | with_reducible apply State.Keeps.ite | fail_if_no_progress with_reducible refine Die.wf_copy ?_ | split
    | dsimp only | assumption

theorem State.recordGap_keeps {s0 s : State} (h : s0.Keeps s) {d tick} : s0.Keeps (State.recordGap s d tick) := by
  unfold State.recordGap
  repeat'
    first
    | with_reducible assumption | with_reducible apply State.recordOne_keeps | with_reducible apply onDie_keeps
    | with_reducible intro _ | with_reducible apply State.Keeps.ite
    | fail_if_no_progress with_reducible refine Die.wf_copy ?_ | split | dsimp only | assumption

theorem State.recordNow_keeps {s0 s : State} (h : s0.Keeps s) {d tick r} :
    s0.Keeps (State.recordNow s d tick r) := by
  unfold State.recordNow
  repeat'
    first
    | with_reducible assumption | with_reducible apply State.recordGap_keeps
    | with_reducible apply State.recordOne_keeps | with_reducible intro _ | dsimp only | assumption

theorem State.record_keeps {s0 s : State} (h : s0.Keeps s) {d tick r} : s0.Keeps (State.record s d tick r) := by
  unfold State.record
  repeat'
    first
    | with_reducible assumption | with_reducible apply onDie_keeps | with_reducible apply State.recordNow_keeps
    | with_reducible intro _ | fail_if_no_progress with_reducible refine State.Keeps.copy ?_
    | fail_if_no_progress with_reducible refine Die.wf_copy ?_ | split | dsimp only | assumption

theorem State.endBatch_keeps {s0 s : State} (h : s0.Keeps s) {d} : s0.Keeps (State.endBatch s d) := by
  unfold State.endBatch
  repeat'
    first
    | with_reducible assumption | with_reducible apply State.recordNow_keeps | with_reducible apply onDie_keeps
    | with_reducible intro _ | with_reducible apply State.Keeps.foldl
    | fail_if_no_progress with_reducible refine State.Keeps.copy ?_ | with_reducible apply Die.wf_foldl
    | fail_if_no_progress with_reducible refine Die.wf_copy ?_ | split | dsimp only | assumption

theorem State.inOneCycle_keeps {s0 s : State} (h : s0.Keeps s) {f} (hf : ∀ t, s0.Keeps t → s0.Keeps (f t)) :
    s0.Keeps (State.inOneCycle s f) := by
  unfold State.inOneCycle
  split
  · exact hf _ h
  · exact .foldl (fun _ _ ht => State.endBatch_keeps ht) (hf _ (onDies_keeps h _ fun _ _ hx => Die.wf_copy hx))

theorem State.recordConfigs_keeps {s0 s : State} (h : s0.Keeps s) : s0.Keeps (State.recordConfigs s) := by
  unfold State.recordConfigs
  repeat'
    first
    | with_reducible assumption | with_reducible apply State.record_keeps | with_reducible intro _
    | with_reducible apply State.Keeps.foldl | split | dsimp only | assumption

theorem State.recordEvent_keeps {s0 s : State} (h : s0.Keeps s) {kind cv step w} : s0.Keeps (State.recordEvent s kind cv step w) := by
  unfold State.recordEvent
  repeat'
    first
    | with_reducible assumption | with_reducible apply State.record_keeps | with_reducible intro _
    | with_reducible apply State.Keeps.ite | split | dsimp only | assumption

theorem State.recordDoorbell_keeps {s0 s : State} (h : s0.Keeps s) {f q value} : s0.Keeps (State.recordDoorbell s f q value) := by
  unfold State.recordDoorbell
  repeat'
    first
    | with_reducible assumption | with_reducible apply State.record_keeps | with_reducible intro _
    | with_reducible apply State.Keeps.ite | split | dsimp only | assumption

theorem State.recordSensor_keeps {s0 s : State} (h : s0.Keeps s) {port addr bs} : s0.Keeps (State.recordSensor s port addr bs) := by
  unfold State.recordSensor
  repeat'
    first
    | with_reducible assumption | with_reducible apply State.record_keeps | with_reducible intro _
    | with_reducible apply State.Keeps.ite | split | dsimp only | assumption

theorem State.timing_keeps {s0 s : State} (h : s0.Keeps s) {n} : s0.Keeps (State.timing s n) := by
  unfold State.timing
  repeat'
    first
    | with_reducible assumption | with_reducible apply onDie_keeps | with_reducible apply Die.countWide_wf
    | with_reducible intro _ | dsimp only | assumption

end Sys2Proof.Machine
end

