-- ==== Sys2Proof/Laws/KeepsCredits.lean ====
section
/-! SUPPORT. What the operations of Credits.lean keep. -/

namespace Sys2Proof.Machine

theorem State.onPool_keeps {s0 s : State} (h : s0.Keeps s) {d n f} : s0.Keeps (State.onPool s d n f) := by
  unfold State.onPool
  repeat'
    first
    | with_reducible assumption | with_reducible apply onDie_keeps | with_reducible intro _
    | fail_if_no_progress with_reducible refine Die.wf_copy ?_ | dsimp only | assumption

theorem State.servePool_keeps {s0 s : State} (h : s0.Keeps s) {d n} : s0.Keeps (State.servePool s d n) := by
  unfold State.servePool
  repeat'
    first
    | with_reducible assumption | with_reducible apply State.onStream_keeps
    | with_reducible apply State.onPool_keeps | with_reducible intro _ | with_reducible apply State.Keeps.foldl
    | split | dsimp only | assumption

theorem State.creditError_keeps {s0 s : State} (h : s0.Keeps s) {d} : s0.Keeps (State.creditError s d) := by
  unfold State.creditError
  repeat'
    first
    | with_reducible assumption | with_reducible apply State.countRaise_keeps | with_reducible intro _ | dsimp only
    | assumption

theorem State.engineReturn_keeps {s0 s : State} (h : s0.Keeps s) {id pool units} : s0.Keeps (State.engineReturn s id pool units) := by
  unfold State.engineReturn
  repeat'
    first
    | with_reducible assumption | with_reducible apply State.servePool_keeps
    | with_reducible apply State.onPool_keeps | with_reducible apply State.failItem_keeps
    | with_reducible apply State.creditError_keeps | with_reducible intro _ | with_reducible apply State.Keeps.ite
    | split | dsimp only | assumption

theorem fxCreditStallExpiry_keeps {s0 s : State} (h : s0.Keeps s) {d n} : s0.Keeps (fxCreditStallExpiry d n s) := by
  unfold fxCreditStallExpiry
  repeat'
    first
    | with_reducible assumption | with_reducible apply State.countRaise_keeps
    | with_reducible apply State.setReg_keeps | with_reducible apply onDie_keeps
    | with_reducible apply Die.countWide_wf | with_reducible apply State.endStream_keeps
    | with_reducible apply State.onPool_keeps | with_reducible apply State.failItem_keeps | with_reducible intro _
    | with_reducible apply State.Keeps.ite | with_reducible apply State.Keeps.foldl
    | with_reducible apply Die.wf_foldl | split | dsimp only | assumption

end Sys2Proof.Machine
end

