-- ==== Sys2Proof/Laws/KeepsEngine.lean ====
section
/-! SUPPORT. What the operations of Engine.lean keep. -/

namespace Sys2Proof.Machine

theorem State.skew_keeps {s0 s : State} (h : s0.Keeps s) {id e k} : s0.Keeps (State.skew s id e k) := by
  unfold State.skew
  repeat'
    first
    | with_reducible assumption | with_reducible apply State.count_keeps | with_reducible apply State.setReg_keeps
    | with_reducible apply State.failItem_keeps | with_reducible intro _ | dsimp only | assumption

theorem State.onEngine_keeps {s0 s : State} (h : s0.Keeps s) {d e f} : s0.Keeps (State.onEngine s d e f) := by
  unfold State.onEngine
  repeat'
    first
    | with_reducible assumption | with_reducible apply onDie_keeps | with_reducible intro _
    | fail_if_no_progress with_reducible refine Die.wf_copy ?_ | dsimp only | assumption

theorem State.countAcc_keeps {s0 s : State} (h : s0.Keeps s) {d e n} : s0.Keeps (State.countAcc s d e n) := by
  unfold State.countAcc
  repeat'
    first
    | with_reducible assumption | with_reducible apply HostSide.count_ok | with_reducible apply Die.count_wf
    | with_reducible apply State.count_keeps | with_reducible apply State.raise_keeps
    | with_reducible apply HostSide.raise_ok | with_reducible intro _ | with_reducible apply State.Keeps.ite
    | split | dsimp only | assumption

theorem State.foldLoad_keeps {s0 s : State} (h : s0.Keeps s) {c i e l plan blocks} :
    s0.Keeps (State.foldLoad s c i e l plan blocks) := by
  unfold State.foldLoad
  repeat'
    first
    | with_reducible assumption | with_reducible apply State.onEngine_keeps
    | with_reducible apply State.countAcc_keeps | with_reducible apply State.onCanvas_keeps
    | with_reducible apply State.arrive_keeps | with_reducible intro _ | with_reducible apply State.Keeps.ite
    | with_reducible apply State.Keeps.foldl | fail_if_no_progress with_reducible refine State.Keeps.copy ?_
    | with_reducible apply Die.wf_foldl | fail_if_no_progress with_reducible refine Die.wf_copy ?_ | split
    | dsimp only | assumption

theorem State.accLost_keeps {s0 s : State} (h : s0.Keeps s) {id} : s0.Keeps (State.accLost s id) := by
  unfold State.accLost
  repeat'
    first
    | with_reducible assumption | with_reducible apply State.raise_keeps
    | with_reducible apply HostSide.raise_ok | with_reducible apply State.failItem_keeps
    | with_reducible intro _ | fail_if_no_progress with_reducible refine Die.wf_copy ?_ | split | dsimp only
    | assumption

theorem State.endLoad_keeps {s0 s : State} (h : s0.Keeps s) {l r} : s0.Keeps (State.endLoad s l r) := by
  unfold State.endLoad
  repeat'
    first
    | with_reducible assumption | with_reducible apply State.skew_keeps
    | with_reducible apply State.failItem_keeps | with_reducible apply State.accLost_keeps
    | with_reducible apply State.foldLoad_keeps | with_reducible intro _ | with_reducible apply State.Keeps.ite
    | fail_if_no_progress with_reducible refine Die.wf_copy ?_ | split | dsimp only | assumption

theorem fxTileLoad_keeps {s0 s : State} (h : s0.Keeps s) {l other} : s0.Keeps (fxTileLoad l other s) := by
  unfold fxTileLoad
  repeat'
    first
    | with_reducible assumption | with_reducible apply State.endLoad_keeps | with_reducible intro _
    | with_reducible apply State.Keeps.ite | with_reducible apply State.Keeps.foldl
    | with_reducible apply Die.wf_foldl | fail_if_no_progress with_reducible refine Die.wf_copy ?_ | split
    | dsimp only | assumption

theorem State.rowsFinished_keeps {s0 s : State} (h : s0.Keeps s) {cv id after} : s0.Keeps (State.rowsFinished s cv id after) := by
  unfold State.rowsFinished
  repeat'
    first
    | with_reducible assumption | with_reducible apply State.onCanvas_keeps
    | with_reducible apply State.signalRows_keeps | with_reducible apply State.engineReturn_keeps
    | with_reducible intro _ | with_reducible apply State.Keeps.ite | split | dsimp only | assumption

theorem State.countMxe_keeps {s0 s : State} (h : s0.Keeps s) {d e sat nan} : s0.Keeps (State.countMxe s d e sat nan) := by
  unfold State.countMxe
  repeat'
    first
    | with_reducible assumption | with_reducible apply State.raise_keeps | with_reducible apply onDie_keeps
    | with_reducible apply Die.countWide_wf | with_reducible intro _ | with_reducible apply State.Keeps.ite | split
    | dsimp only | assumption

theorem fxTileConvert_keeps {s0 s : State} (h : s0.Keeps s) {id tile acc} :
    s0.Keeps (fxTileConvert id tile acc s) := by
  unfold fxTileConvert
  repeat'
    first
    | with_reducible assumption | with_reducible apply State.accLost_keeps
    | with_reducible apply State.countAcc_keeps | with_reducible apply State.skew_keeps
    | with_reducible apply State.onEngine_keeps | with_reducible apply State.onCanvas_keeps
    | with_reducible apply State.countMxe_keeps | with_reducible apply State.rowsFinished_keeps
    | with_reducible intro _ | with_reducible apply State.Keeps.ite
    | fail_if_no_progress with_reducible refine State.Keeps.copy ?_
    | fail_if_no_progress with_reducible refine Die.wf_copy ?_ | split | dsimp only | assumption

theorem State.onPartials_keeps {s0 s : State} (h : s0.Keeps s) {id f} : s0.Keeps (State.onPartials s id f) := by
  unfold State.onPartials
  repeat'
    first
    | with_reducible assumption | with_reducible apply State.onEngine_keeps | with_reducible intro _
    | with_reducible apply State.Keeps.ite | split | dsimp only | assumption

theorem State.countItemAcc_keeps {s0 s : State} (h : s0.Keeps s) {id n} : s0.Keeps (State.countItemAcc s id n) := by
  unfold State.countItemAcc
  repeat'
    first
    | with_reducible assumption | with_reducible apply State.countAcc_keeps | with_reducible intro _
    | fail_if_no_progress with_reducible refine Die.wf_copy ?_ | split | dsimp only | assumption

theorem fxSplitKCombine_keeps {s0 s : State} (h : s0.Keeps s) {id k left right} :
    s0.Keeps (fxSplitKCombine id k left right s) := by
  unfold fxSplitKCombine
  repeat'
    first
    | with_reducible assumption | with_reducible apply State.accLost_keeps
    | with_reducible apply State.countItemAcc_keeps | with_reducible apply State.onPartials_keeps
    | with_reducible apply State.onEngine_keeps | with_reducible apply State.onCanvas_keeps
    | with_reducible intro _ | with_reducible apply State.Keeps.ite | with_reducible apply State.Keeps.foldl
    | fail_if_no_progress with_reducible refine State.Keeps.copy ?_ | with_reducible apply Die.wf_foldl
    | fail_if_no_progress with_reducible refine Die.wf_copy ?_ | split | dsimp only | assumption

theorem State.countWork_keeps {s0 s : State} (h : s0.Keeps s) {d u name w} : s0.Keeps (State.countWork s d u name w) := by
  unfold State.countWork
  repeat'
    first
    | with_reducible assumption | with_reducible apply State.raise_keeps | with_reducible apply State.count_keeps
    | with_reducible apply onDie_keeps | with_reducible apply Die.countWide_wf
    | with_reducible apply State.countMxe_keeps | with_reducible intro _ | with_reducible apply State.Keeps.ite
    | split | dsimp only | assumption

theorem State.sealHold_keeps {s0 s : State} (h : s0.Keeps s) {c i} : s0.Keeps (State.sealHold s c i) := by
  unfold State.sealHold
  repeat'
    first
    | with_reducible assumption | with_reducible apply State.count_keeps | with_reducible intro _
    | with_reducible apply State.Keeps.ite | split | dsimp only | assumption

theorem State.retire_keeps {s0 s : State} (h : s0.Keeps s) {id} : s0.Keeps (State.retire s id) := by
  unfold State.retire
  repeat'
    first
    | with_reducible assumption | with_reducible apply State.onCanvas_keeps
    | with_reducible apply State.refill_keeps | with_reducible apply onDie_keeps
    | with_reducible apply Die.dropItems_wf | with_reducible intro _ | dsimp only | assumption

theorem fxItemRetire_keeps {s0 s : State} (h : s0.Keeps s) {id} : s0.Keeps (fxItemRetire id s) := by
  unfold fxItemRetire
  repeat'
    first
    | with_reducible assumption | with_reducible apply State.retire_keeps
    | with_reducible apply State.failItem_keeps | with_reducible apply State.sealHold_keeps
    | with_reducible apply State.onCanvas_keeps | with_reducible apply State.rowsFinished_keeps
    | with_reducible apply State.countWork_keeps | with_reducible intro _ | with_reducible apply State.Keeps.ite
    | split | dsimp only | assumption

end Sys2Proof.Machine
end

