-- ==== Sys2Proof/Laws/KeepsRelease.lean ====
section
/-! SUPPORT. What the operations of Release.lean keep. -/

namespace Sys2Proof.Machine

theorem State.skipStep_keeps {s0 s : State} (h : s0.Keeps s) {cv d frame stripe seq} : s0.Keeps (State.skipStep s cv d frame stripe seq) := by
  unfold State.skipStep
  repeat'
    first
    | with_reducible assumption | with_reducible apply State.fillHalo_keeps
    | with_reducible apply State.onCanvas_keeps | with_reducible intro _ | with_reducible apply State.Keeps.ite
    | with_reducible apply State.Keeps.foldl | split | dsimp only | assumption

theorem State.haloOf_keeps {s0 s : State} (h : s0.Keeps s) {c d e stripe seq} : s0.Keeps (State.haloOf s c d e stripe seq) := by
  unfold State.haloOf
  repeat'
    first
    | with_reducible assumption | with_reducible apply State.ringSet_keeps | with_reducible intro _
    | with_reducible apply State.Keeps.ite | with_reducible apply State.Keeps.foldl | split | dsimp only
    | assumption

theorem State.abandonMarked_keeps {s0 s : State} (h : s0.Keeps s) {cv d frame stripe seq} : s0.Keeps (State.abandonMarked s cv d frame stripe seq) := by
  unfold State.abandonMarked
  repeat'
    first
    | with_reducible assumption | with_reducible apply State.abandonOp_keeps | with_reducible intro _
    | with_reducible apply State.Keeps.foldl | split | dsimp only | assumption

theorem State.enterStep_keeps {s0 s : State} (h : s0.Keeps s) {cv d seq} : s0.Keeps (State.enterStep s cv d seq) := by
  unfold State.enterStep
  repeat'
    first
    | with_reducible assumption | with_reducible apply onDie_keeps | with_reducible apply State.onCanvas_keeps
    | with_reducible apply State.refill_keeps | with_reducible apply State.abandonMarked_keeps
    | with_reducible apply State.haloOf_keeps | with_reducible intro _ | with_reducible apply State.Keeps.ite
    | with_reducible apply State.Keeps.foldl | with_reducible apply Die.wf_foldl
    | fail_if_no_progress with_reducible refine Die.wf_copy ?_ | split | dsimp only | assumption

theorem State.abandonWork_keeps {s0 s : State} (h : s0.Keeps s) {cv st p} : s0.Keeps (State.abandonWork s cv st p) := by
  unfold State.abandonWork
  repeat'
    first
    | with_reducible assumption | with_reducible apply State.abandonOp_keeps | with_reducible intro _
    | with_reducible apply State.Keeps.ite | with_reducible apply State.Keeps.foldl | split | dsimp only
    | assumption

theorem State.abandonLate_keeps {s0 s : State} (h : s0.Keeps s) {cv frame} :
    s0.Keeps (State.abandonLate s cv frame) := by
  unfold State.abandonLate
  repeat'
    first
    | with_reducible assumption | with_reducible apply State.abandonWork_keeps
    | with_reducible apply onDie_keeps | with_reducible apply Die.countWide_wf
    | with_reducible apply State.onCanvas_keeps | with_reducible intro _ | with_reducible apply State.Keeps.ite
    | fail_if_no_progress with_reducible refine State.Keeps.copy ?_
    | fail_if_no_progress with_reducible refine Die.wf_copy ?_ | split | dsimp only | assumption

theorem State.pruneFrame_keeps {s0 s : State} (h : s0.Keeps s) {cv frame} :
    s0.Keeps (State.pruneFrame s cv frame) := by
  unfold State.pruneFrame
  repeat'
    first
    | with_reducible assumption | with_reducible apply State.onCanvas_keeps
    | with_reducible apply State.released_keeps | with_reducible intro _
    | fail_if_no_progress with_reducible refine State.Keeps.copy ?_
    | fail_if_no_progress with_reducible refine Die.wf_copy ?_ | dsimp only | assumption

theorem State.releaseStripe_keeps {s0 s : State} (h : s0.Keeps s) {cv frame stripe} :
    s0.Keeps (State.releaseStripe s cv frame stripe) := by
  unfold State.releaseStripe
  repeat'
    first
    | with_reducible assumption | with_reducible apply State.pruneFrame_keeps
    | with_reducible apply State.onCanvas_keeps | with_reducible apply State.released_keeps
    | with_reducible apply State.skipStep_keeps | with_reducible apply State.enterStep_keeps
    | with_reducible intro _ | with_reducible apply State.Keeps.ite | with_reducible apply State.Keeps.foldl
    | fail_if_no_progress with_reducible refine State.Keeps.copy ?_ | with_reducible apply Die.wf_foldl
    | fail_if_no_progress with_reducible refine Die.wf_copy ?_ | split | dsimp only | assumption

theorem fxDeferredRelease_keeps {s0 s : State} (h : s0.Keeps s) {d cv} : s0.Keeps (fxDeferredRelease d cv s) := by
  unfold fxDeferredRelease
  repeat'
    first
    | with_reducible assumption | with_reducible apply State.enterStep_keeps | with_reducible intro _
    | with_reducible apply State.Keeps.ite | split | dsimp only | assumption

theorem fxFrameScopeRelease_keeps {s0 s : State} (h : s0.Keeps s) {cv op} : s0.Keeps (fxFrameScopeRelease cv op s) := by
  unfold fxFrameScopeRelease
  repeat'
    first
    | with_reducible assumption | with_reducible apply State.ringSet_keeps
    | with_reducible apply State.onCanvas_keeps | with_reducible apply State.refill_keeps | with_reducible intro _
    | with_reducible apply State.Keeps.ite | with_reducible apply State.Keeps.foldl | split | dsimp only
    | assumption

end Sys2Proof.Machine
end

