-- ==== Sys2Proof/Laws/KeepsEcc.lean ====
section
/-! SUPPORT. What the operations of Ecc.lean keep. -/

namespace Sys2Proof.Machine

theorem State.eccError_keeps {s0 s : State} (h : s0.Keeps s) {d w ue} : s0.Keeps (State.eccError s d w ue) := by
  unfold State.eccError
  repeat'
    first
    | with_reducible assumption | with_reducible apply onDie_keeps | with_reducible apply setReg_wf
    | with_reducible apply Die.count_wf | with_reducible apply State.raise_keeps | with_reducible intro _
    | with_reducible apply State.Keeps.ite | fail_if_no_progress with_reducible refine Die.wf_copy ?_ | split
    | dsimp only | assumption

theorem EccAt.poison_wf {x : Die} (h : x.wf = true) {w} : (EccAt.poison w x).wf = true := by
  unfold EccAt.poison
  repeat'
    first
    | with_reducible assumption | with_reducible intro _
    | fail_if_no_progress with_reducible refine Die.wf_copy ?_ | split | dsimp only | assumption

end Sys2Proof.Machine
end

