-- ==== Sys2Proof/Laws/KeepsRoles.lean ====
section
/-! SUPPORT. What the operations of Roles.lean keep. -/

namespace Sys2Proof.Machine

theorem State.stage_keeps {s0 s : State} (h : s0.Keeps s) {e} : s0.Keeps (State.stage s e) := by
  unfold State.stage
  repeat'
    first
    | with_reducible assumption | with_reducible intro _
    | fail_if_no_progress with_reducible refine State.Keeps.copy ?_ | dsimp only | assumption

theorem State.audited_keeps {s0 s : State} (h : s0.Keeps s) {e change} (hchange : ∀ t : State, s0.Keeps t → s0.Keeps (change t)) : s0.Keeps (State.audited s e change) := by
  unfold State.audited
  repeat'
    first
    | with_reducible assumption | with_reducible apply State.stage_keeps | with_reducible apply State.raise_keeps
    | with_reducible apply hchange | with_reducible intro _ | with_reducible apply State.Keeps.ite | split
    | dsimp only | assumption

theorem State.roleDenied_keeps {s0 s : State} (h : s0.Keeps s) : s0.Keeps (State.roleDenied s) := by
  unfold State.roleDenied
  repeat'
    first
    | with_reducible assumption | with_reducible apply State.countRaise_keeps | with_reducible intro _ | dsimp only
    | assumption

theorem State.guardedWrite_keeps {s0 s : State} (h : s0.Keeps s) {d off fields old value apply} (happly : ∀ t : State, s0.Keeps t → s0.Keeps (apply t)) : s0.Keeps (State.guardedWrite s d off fields old value apply) := by
  unfold State.guardedWrite
  repeat'
    first
    | with_reducible assumption | with_reducible apply State.roleDenied_keeps
    | with_reducible apply State.audited_keeps | with_reducible apply happly | with_reducible intro _
    | with_reducible apply State.Keeps.ite | split | dsimp only | assumption

theorem State.storeReg_keeps {s0 s : State} (h : s0.Keeps s) {d off value} : s0.Keeps (State.storeReg s d off value) := by
  unfold State.storeReg
  repeat'
    first
    | with_reducible assumption | with_reducible apply State.guardedWrite_keeps
    | with_reducible apply State.setReg_keeps | with_reducible intro _ | dsimp only | assumption

end Sys2Proof.Machine
end

