-- ==== Sys2Proof/Laws/KeepsCarousel.lean ====
section
/-! SUPPORT. What the operations of Carousel.lean keep. -/

namespace Sys2Proof.Machine

theorem State.started_keeps {s0 s : State} (h : s0.Keeps s) {st} : s0.Keeps (State.started s st) := by
  unfold State.started
  repeat'
    first
    | with_reducible assumption | with_reducible apply onDie_keeps | with_reducible apply State.launch_keeps
    | with_reducible intro _ | with_reducible apply State.Keeps.ite
    | fail_if_no_progress with_reducible refine State.Keeps.copy ?_
    | fail_if_no_progress with_reducible refine Die.wf_copy ?_ | split | dsimp only | assumption

theorem State.issue_keeps {s0 s : State} (h : s0.Keeps s) {st t x} (e : s.issue st = some (t, x)) : s0.Keeps t := by
  unfold State.issue at e
  obtain ⟨_, _, k⟩ := Option.map_eq_some_iff.1 e
  cases k
  exact State.started_keeps h

theorem fxCarouselNop_keeps {s0 s : State} (h : s0.Keeps s) {st} : s0.Keeps (fxCarouselNop st s) := by
  unfold fxCarouselNop
  repeat'
    first
    | with_reducible assumption | with_reducible apply State.onStream_keeps | exact State.issue_keeps h ‹_›
    | with_reducible intro _ | fail_if_no_progress with_reducible refine Die.wf_copy ?_ | split | dsimp only
    | assumption

theorem fxSetb_keeps {s0 s : State} (h : s0.Keeps s) {st} : s0.Keeps (fxSetb st s) := by
  unfold fxSetb
  repeat'
    first
    | with_reducible assumption | with_reducible apply State.onStream_keeps | exact State.issue_keeps h ‹_›
    | with_reducible intro _ | with_reducible apply State.Keeps.ite
    | fail_if_no_progress with_reducible refine Die.wf_copy ?_ | split | dsimp only | assumption

theorem fxSets_keeps {s0 s : State} (h : s0.Keeps s) {st} : s0.Keeps (fxSets st s) := by
  unfold fxSets
  repeat'
    first
    | with_reducible assumption | with_reducible apply State.onStream_keeps | exact State.issue_keeps h ‹_›
    | with_reducible intro _ | fail_if_no_progress with_reducible refine Die.wf_copy ?_ | split | dsimp only
    | assumption

theorem fxSetm_keeps {s0 s : State} (h : s0.Keeps s) {st} : s0.Keeps (fxSetm st s) := by
  unfold fxSetm
  repeat'
    first
    | with_reducible assumption | with_reducible apply State.onStream_keeps | exact State.issue_keeps h ‹_›
    | with_reducible intro _ | fail_if_no_progress with_reducible refine Die.wf_copy ?_ | split | dsimp only
    | assumption

theorem fxSetc_keeps {s0 s : State} (h : s0.Keeps s) {st} : s0.Keeps (fxSetc st s) := by
  unfold fxSetc
  repeat'
    first
    | with_reducible assumption | with_reducible apply State.onStream_keeps | exact State.issue_keeps h ‹_›
    | with_reducible intro _ | fail_if_no_progress with_reducible refine Die.wf_copy ?_ | split | dsimp only
    | assumption

theorem fxLoop_keeps {s0 s : State} (h : s0.Keeps s) {st} : s0.Keeps (fxLoop st s) := by
  unfold fxLoop
  repeat'
    first
    | with_reducible assumption | with_reducible apply HostSide.count_ok | with_reducible apply Die.count_wf
    | with_reducible apply State.count_keeps | with_reducible apply State.onStream_keeps
    | exact State.issue_keeps h ‹_› | with_reducible intro _
    | fail_if_no_progress with_reducible refine Die.wf_copy ?_ | split | dsimp only | assumption

theorem fxEndl_keeps {s0 s : State} (h : s0.Keeps s) {st} : s0.Keeps (fxEndl st s) := by
  unfold fxEndl
  repeat'
    first
    | with_reducible assumption | with_reducible apply State.onStream_keeps | exact State.issue_keeps h ‹_›
    | with_reducible intro _ | fail_if_no_progress with_reducible refine Die.wf_copy ?_ | split | dsimp only
    | assumption

theorem State.windowError_keeps {s0 s : State} (h : s0.Keeps s) {st} : s0.Keeps (State.windowError s st) := by
  unfold State.windowError
  repeat'
    first
    | with_reducible assumption | with_reducible apply State.endStream_keeps
    | with_reducible apply State.untrusted_keeps | with_reducible apply State.countRaise_keeps
    | with_reducible intro _ | dsimp only | assumption

theorem State.land_keeps {s0 s : State} (h : s0.Keeps s) {x t} : s0.Keeps (State.land s x t) := by
  unfold State.land
  repeat'
    first
    | with_reducible assumption | with_reducible apply onDie_keeps | with_reducible apply onHost_keeps
    | with_reducible apply State.onCanvas_keeps | with_reducible intro _ | with_reducible apply landDram_wf
    | with_reducible apply landBigTop_wf | with_reducible apply landHost_ok | with_reducible apply State.Keeps.foldl | fail_if_no_progress with_reducible refine State.Keeps.copy ?_
    | with_reducible apply Die.wf_foldl | fail_if_no_progress with_reducible refine Die.wf_copy ?_ | split
    | dsimp only | assumption

theorem State.countMoved_keeps {s0 s : State} (h : s0.Keeps s) {st t} : s0.Keeps (State.countMoved s st t) := by
  unfold State.countMoved
  repeat'
    first
    | with_reducible assumption | with_reducible apply onDie_keeps | with_reducible apply Die.countWide_wf
    | with_reducible intro _ | dsimp only | assumption

theorem fxMove_keeps {s0 s : State} (h : s0.Keeps s) {st captured} : s0.Keeps (fxMove st captured s) := by
  unfold fxMove
  repeat'
    first
    | with_reducible assumption | with_reducible apply State.windowError_keeps
    | with_reducible apply State.endStream_keeps | with_reducible apply State.countRaise_keeps
    | with_reducible apply State.land_keeps | with_reducible apply State.countMoved_keeps
    | with_reducible apply State.onStream_keeps | exact State.issue_keeps h ‹_› | with_reducible intro _
    | with_reducible apply State.Keeps.ite | fail_if_no_progress with_reducible refine State.Keeps.copy ?_
    | fail_if_no_progress with_reducible refine Die.wf_copy ?_ | split | dsimp only | assumption

theorem State.sigAdd_keeps {s0 s : State} (h : s0.Keeps s) {st} : s0.Keeps (State.sigAdd s st) := by
  unfold State.sigAdd
  repeat'
    first
    | with_reducible assumption | with_reducible apply State.onStream_keeps
    | with_reducible apply State.sendGaide_keeps | with_reducible apply State.tslDo_keeps
    | with_reducible intro _ | with_reducible apply State.Keeps.ite
    | fail_if_no_progress with_reducible refine State.Keeps.copy ?_
    | fail_if_no_progress with_reducible refine Die.wf_copy ?_ | split | dsimp only | assumption

theorem State.deliver_keeps {s0 s : State} (h : s0.Keeps s) {st x addrs fin} :
    s0.Keeps (State.deliver s st x addrs fin) := by
  unfold State.deliver
  repeat'
    first
    | with_reducible assumption | with_reducible apply State.onCanvas_keeps | with_reducible intro _
    | fail_if_no_progress with_reducible refine Die.wf_copy ?_ | split | dsimp only | assumption

theorem State.sourceError_keeps {s0 s : State} (h : s0.Keeps s) {st t} : s0.Keeps (State.sourceError s st t) := by
  unfold State.sourceError
  repeat'
    first
    | with_reducible assumption | with_reducible apply State.eccError_keeps | with_reducible apply onDie_keeps
    | with_reducible apply EccAt.poison_wf | with_reducible intro _ | with_reducible apply State.Keeps.ite
    | fail_if_no_progress with_reducible refine Die.wf_copy ?_ | split | dsimp only | assumption

theorem fxMoveComplete_keeps {s0 s : State} (h : s0.Keeps s) {st r} : s0.Keeps (fxMoveComplete st r s) := by
  unfold fxMoveComplete
  repeat'
    first
    | with_reducible assumption | with_reducible apply State.land_keeps
    | with_reducible apply State.countMoved_keeps | with_reducible apply State.deliver_keeps
    | with_reducible apply State.onStream_keeps | with_reducible apply State.sigAdd_keeps
    | with_reducible apply State.sourceError_keeps | with_reducible apply State.endStream_keeps
    | with_reducible intro _ | with_reducible apply State.Keeps.ite
    | fail_if_no_progress with_reducible refine State.Keeps.copy ?_
    | fail_if_no_progress with_reducible refine Die.wf_copy ?_ | split | dsimp only | assumption

theorem fxCarouselWait_keeps {s0 s : State} (h : s0.Keeps s) {st} : s0.Keeps (fxCarouselWait st s) := by
  unfold fxCarouselWait
  repeat'
    first
    | with_reducible assumption | with_reducible apply State.onStream_keeps
    | with_reducible apply State.tslDo_keeps | exact State.issue_keeps h ‹_› | with_reducible intro _
    | with_reducible apply State.Keeps.ite | fail_if_no_progress with_reducible refine State.Keeps.copy ?_
    | fail_if_no_progress with_reducible refine Die.wf_copy ?_ | split | dsimp only | assumption

theorem fxSig_keeps {s0 s : State} (h : s0.Keeps s) {st} : s0.Keeps (fxSig st s) := by
  unfold fxSig
  repeat'
    first
    | with_reducible assumption | with_reducible apply State.onStream_keeps
    | with_reducible apply State.sigAdd_keeps | exact State.issue_keeps h ‹_› | with_reducible intro _
    | with_reducible apply State.Keeps.ite | fail_if_no_progress with_reducible refine State.Keeps.copy ?_
    | fail_if_no_progress with_reducible refine Die.wf_copy ?_ | split | dsimp only | assumption

theorem fxCred_keeps {s0 s : State} (h : s0.Keeps s) {st} : s0.Keeps (fxCred st s) := by
  unfold fxCred
  repeat'
    first
    | with_reducible assumption | with_reducible apply State.onStream_keeps
    | with_reducible apply State.onPool_keeps | with_reducible apply State.servePool_keeps
    | exact State.issue_keeps h ‹_› | with_reducible intro _
    | fail_if_no_progress with_reducible refine State.Keeps.copy ?_
    | fail_if_no_progress with_reducible refine Die.wf_copy ?_ | split | dsimp only | assumption

theorem fxRet_keeps {s0 s : State} (h : s0.Keeps s) {st} : s0.Keeps (fxRet st s) := by
  unfold fxRet
  repeat'
    first
    | with_reducible assumption | with_reducible apply State.onStream_keeps
    | with_reducible apply State.onPool_keeps | with_reducible apply State.servePool_keeps
    | with_reducible apply State.creditError_keeps | with_reducible apply State.endStream_keeps
    | exact State.issue_keeps h ‹_› | with_reducible intro _
    | fail_if_no_progress with_reducible refine Die.wf_copy ?_ | split | dsimp only | assumption

theorem State.endShort_keeps {s0 s : State} (h : s0.Keeps s) {c d x o} : s0.Keeps (State.endShort s c d x o) := by
  unfold State.endShort
  repeat'
    first
    | with_reducible assumption | with_reducible apply State.skew_keeps
    | with_reducible apply State.failItem_keeps | with_reducible intro _
    | fail_if_no_progress with_reducible refine Die.wf_copy ?_ | split | dsimp only | assumption

theorem fxEndp_keeps {s0 s : State} (h : s0.Keeps s) {st} : s0.Keeps (fxEndp st s) := by
  unfold fxEndp
  repeat'
    first
    | with_reducible assumption | with_reducible apply onDie_keeps | with_reducible apply State.endShort_keeps
    | with_reducible apply State.deliver_keeps | with_reducible apply State.refill_keeps
    | exact State.issue_keeps h ‹_› | with_reducible intro _ | with_reducible apply State.Keeps.ite
    | with_reducible apply State.Keeps.foldl | fail_if_no_progress with_reducible refine State.Keeps.copy ?_
    | with_reducible apply Die.wf_foldl | fail_if_no_progress with_reducible refine Die.wf_copy ?_ | split
    | dsimp only | assumption

end Sys2Proof.Machine
end

