-- ==== Sys2Proof/Laws/KeepsTslRows.lean ====
section
/-! SUPPORT. What the operations of TslRows.lean keep. -/

namespace Sys2Proof.Machine

theorem State.tslRow_keeps {s0 s : State} (h : s0.Keeps s) {d r q cycle} :
    s0.Keeps (State.tslRow s d r q cycle) := by
  unfold State.tslRow
  repeat'
    first
    | with_reducible assumption | with_reducible apply State.tslDo_keeps
    | with_reducible apply State.sendGaide_keeps | with_reducible intro _ | with_reducible apply State.Keeps.ite
    | split | dsimp only | assumption

theorem fxWaitGe_keeps {s0 s : State} (h : s0.Keeps s) {d r q cycle} : s0.Keeps (fxWaitGe d r q cycle s) := by
  unfold fxWaitGe
  repeat'
    first
    | with_reducible assumption | with_reducible apply State.tslRow_keeps | with_reducible intro _ | split
    | dsimp only | assumption

theorem fxWaitSub_keeps {s0 s : State} (h : s0.Keeps s) {d r q cycle} : s0.Keeps (fxWaitSub d r q cycle s) := by
  unfold fxWaitSub
  repeat'
    first
    | with_reducible assumption | with_reducible apply State.tslRow_keeps | with_reducible intro _ | split
    | dsimp only | assumption

theorem fxAdd_keeps {s0 s : State} (h : s0.Keeps s) {d r q cycle} : s0.Keeps (fxAdd d r q cycle s) := by
  unfold fxAdd
  repeat'
    first
    | with_reducible assumption | with_reducible apply State.tslRow_keeps | with_reducible intro _ | split
    | dsimp only | assumption

theorem fxSub_keeps {s0 s : State} (h : s0.Keeps s) {d r q cycle} : s0.Keeps (fxSub d r q cycle s) := by
  unfold fxSub
  repeat'
    first
    | with_reducible assumption | with_reducible apply State.tslRow_keeps | with_reducible intro _ | split
    | dsimp only | assumption

theorem fxSet_keeps {s0 s : State} (h : s0.Keeps s) {d r q cycle} : s0.Keeps (fxSet d r q cycle s) := by
  unfold fxSet
  repeat'
    first
    | with_reducible assumption | with_reducible apply State.tslRow_keeps | with_reducible intro _ | split
    | dsimp only | assumption

theorem fxGaideTurnstileArrival_keeps {s0 s : State} (h : s0.Keeps s) {src dst} :
    s0.Keeps (fxGaideTurnstileArrival src dst s) := by
  unfold fxGaideTurnstileArrival
  repeat'
    first
    | with_reducible assumption | with_reducible apply State.partArrived_keeps
    | with_reducible apply State.tslDo_keeps | with_reducible apply State.sendGaide_keeps
    | with_reducible intro _ | fail_if_no_progress with_reducible refine State.Keeps.copy ?_
    | fail_if_no_progress with_reducible refine Die.wf_copy ?_ | split | dsimp only | assumption

theorem fxBarrierCombine_keeps {s0 s : State} (h : s0.Keeps s) {d barrier} :
    s0.Keeps (fxBarrierCombine d barrier s) := by
  unfold fxBarrierCombine
  repeat'
    first
    | with_reducible assumption | with_reducible apply State.sendGaide_keeps
    | with_reducible apply State.tslDo_keeps | with_reducible intro _
    | fail_if_no_progress with_reducible refine State.Keeps.copy ?_
    | fail_if_no_progress with_reducible refine Die.wf_copy ?_ | split | dsimp only | assumption

theorem Die.showCapture_wf {x : Die} (h : x.wf = true) : (Die.showCapture x).wf = true := by
  unfold Die.showCapture
  repeat'
    first
    | with_reducible assumption | with_reducible apply setReg_wf | with_reducible intro _ | split | dsimp only
    | assumption

theorem fxTslSelWrite_keeps {s0 s : State} (h : s0.Keeps s) {d value} : s0.Keeps (fxTslSelWrite d value s) := by
  unfold fxTslSelWrite
  repeat'
    first
    | with_reducible assumption | with_reducible apply onDie_keeps | with_reducible apply Die.showCapture_wf
    | with_reducible apply setReg_wf | with_reducible intro _
    | fail_if_no_progress with_reducible refine Die.wf_copy ?_ | dsimp only | assumption

theorem fxTslDumpGo_keeps {s0 s : State} (h : s0.Keeps s) {d value} : s0.Keeps (fxTslDumpGo d value s) := by
  unfold fxTslDumpGo
  repeat'
    first
    | with_reducible assumption | with_reducible apply onDie_keeps | with_reducible apply setReg_wf
    | with_reducible apply onDies_keeps | with_reducible apply Die.setField_wf | with_reducible intro _
    | with_reducible apply State.Keeps.ite | fail_if_no_progress with_reducible refine Die.wf_copy ?_ | split
    | dsimp only | assumption

theorem State.unfreeze_keeps {s0 s : State} (h : s0.Keeps s) {d} : s0.Keeps (State.unfreeze s d) := by
  unfold State.unfreeze
  repeat'
    first
    | with_reducible assumption | with_reducible apply onDie_keeps | with_reducible apply State.tslOps_keeps
    | with_reducible intro _ | with_reducible apply State.Keeps.foldl | with_reducible apply Die.wf_foldl
    | fail_if_no_progress with_reducible refine Die.wf_copy ?_ | dsimp only | assumption

theorem fxDumpDone_keeps {s0 s : State} (h : s0.Keeps s) {d} : s0.Keeps (fxDumpDone d s) := by
  unfold fxDumpDone
  repeat'
    first
    | with_reducible assumption | with_reducible apply onHost_keeps | with_reducible apply hostWrite_ok
    | with_reducible apply onDie_keeps | with_reducible apply setReg_wf | with_reducible apply Die.setField_wf
    | with_reducible apply State.raise_keeps | with_reducible apply State.unfreeze_keeps | with_reducible intro _
    | with_reducible apply State.Keeps.ite | with_reducible apply State.Keeps.foldl
    | with_reducible apply Die.wf_foldl | fail_if_no_progress with_reducible refine Die.wf_copy ?_
    | with_reducible apply HostSide.ok_foldl | split | dsimp only | assumption

end Sys2Proof.Machine
end

