-- ==== Sys2Proof/Laws/KeepsSec.lean ====
section
/-! SUPPORT. What the operations of Sec.lean keep. -/

namespace Sys2Proof.Machine

theorem State.reqStatus_keeps {s0 s : State} (h : s0.Keeps s) {p st} : s0.Keeps (State.reqStatus s p st) := by
  unfold State.reqStatus
  repeat'
    first
    | with_reducible assumption | with_reducible apply State.setField_keeps | with_reducible intro _ | split
    | dsimp only | assumption

theorem State.request_keeps {s0 s : State} (h : s0.Keeps s) {p op role run} (hrun : ∀ t : State, s0.Keeps t → s0.Keeps (run t)) : s0.Keeps (State.request s p op role run) := by
  unfold State.request
  repeat'
    first
    | with_reducible assumption | with_reducible apply State.setField_keeps
    | with_reducible apply State.reqStatus_keeps | with_reducible apply hrun | with_reducible intro _
    | with_reducible apply State.Keeps.ite | split | dsimp only | assumption

theorem State.reqWrite_keeps {s0 s : State} (h : s0.Keeps s) {p off bs} : s0.Keeps (State.reqWrite s p off bs) := by
  unfold State.reqWrite
  repeat'
    first
    | with_reducible assumption | with_reducible apply writeHost_keeps | with_reducible intro _ | split
    | dsimp only | assumption

theorem State.setSession_keeps {s0 s : State} (h : s0.Keeps s) {p x} : s0.Keeps (State.setSession s p x) := by
  unfold State.setSession
  repeat'
    first
    | with_reducible assumption | with_reducible intro _
    | fail_if_no_progress with_reducible refine State.Keeps.copy ?_ | split | dsimp only | assumption

theorem State.endSession_keeps {s0 s : State} (h : s0.Keeps s) {p} : s0.Keeps (State.endSession s p) := by
  unfold State.endSession
  repeat'
    first
    | with_reducible assumption | with_reducible apply State.audited_keeps
    | with_reducible apply State.setSession_keeps | with_reducible intro _ | split | dsimp only | assumption

theorem State.authRefused_keeps {s0 s : State} (h : s0.Keeps s) {p key locked} : s0.Keeps (State.authRefused s p key locked) := by
  unfold State.authRefused
  repeat'
    first
    | with_reducible assumption | with_reducible apply State.audited_keeps
    | with_reducible apply State.countRaise_keeps | with_reducible apply State.raise_keeps
    | with_reducible apply State.reqStatus_keeps | with_reducible intro _ | with_reducible apply State.Keeps.ite
    | fail_if_no_progress with_reducible refine State.Keeps.copy ?_ | split | dsimp only | assumption

theorem State.authRequest_keeps {s0 s : State} (h : s0.Keeps s) {p data} : s0.Keeps (State.authRequest s p data) := by
  unfold State.authRequest
  repeat'
    first
    | with_reducible assumption | with_reducible apply State.request_keeps | with_reducible apply State.stage_keeps
    | with_reducible apply State.setSession_keeps | with_reducible apply State.reqStatus_keeps
    | with_reducible apply State.raise_keeps | with_reducible apply State.authRefused_keeps
    | with_reducible intro _ | with_reducible apply State.Keeps.ite
    | fail_if_no_progress with_reducible refine State.Keeps.copy ?_ | split | dsimp only | assumption

theorem fxSessionDrop_keeps {s0 s : State} (h : s0.Keeps s) : s0.Keeps (fxSessionDrop s) := by
  unfold fxSessionDrop
  repeat'
    first
    | with_reducible assumption | with_reducible apply State.endSession_keeps | with_reducible intro _ | dsimp only
    | assumption

theorem fxSessionExpiry_keeps {s0 s : State} (h : s0.Keeps s) {p} : s0.Keeps (fxSessionExpiry p s) := by
  unfold fxSessionExpiry
  repeat'
    first
    | with_reducible assumption | with_reducible apply State.endSession_keeps | with_reducible intro _
    | with_reducible apply State.Keeps.ite | split | dsimp only | assumption

theorem fxNonceDraw_keeps {s0 s : State} (h : s0.Keeps s) : s0.Keeps (fxNonceDraw s) := by
  unfold fxNonceDraw
  repeat'
    first
    | with_reducible assumption | with_reducible intro _
    | fail_if_no_progress with_reducible refine State.Keeps.copy ?_ | dsimp only | assumption

theorem fxAuthLockoutEnd_keeps {s0 s : State} (h : s0.Keeps s) : s0.Keeps (fxAuthLockoutEnd s) := by
  unfold fxAuthLockoutEnd
  repeat'
    first
    | with_reducible assumption | with_reducible intro _ | with_reducible apply State.Keeps.ite
    | fail_if_no_progress with_reducible refine State.Keeps.copy ?_ | split | dsimp only | assumption

theorem State.attestRequest_keeps {s0 s : State} (h : s0.Keeps s) {p data} : s0.Keeps (State.attestRequest s p data) := by
  unfold State.attestRequest
  repeat'
    first
    | with_reducible assumption | with_reducible apply State.request_keeps
    | with_reducible apply State.reqStatus_keeps | with_reducible apply State.reqWrite_keeps
    | with_reducible intro _ | with_reducible apply State.Keeps.ite | split | dsimp only | assumption

theorem State.defer_keeps {s0 s : State} (h : s0.Keeps s) {p e a} : s0.Keeps (State.defer s p e a) := by
  unfold State.defer
  repeat'
    first
    | with_reducible assumption | with_reducible apply State.stage_keeps
    | with_reducible apply State.setField_keeps | with_reducible apply State.raise_keeps
    | with_reducible apply State.reqStatus_keeps | with_reducible intro _ | with_reducible apply State.Keeps.ite
    | fail_if_no_progress with_reducible refine State.Keeps.copy ?_ | split | dsimp only | assumption

theorem State.otpRequest_keeps {s0 s : State} (h : s0.Keeps s) {p data} : s0.Keeps (State.otpRequest s p data) := by
  unfold State.otpRequest
  repeat'
    first
    | with_reducible assumption | with_reducible apply State.request_keeps
    | with_reducible apply State.reqStatus_keeps | with_reducible apply State.defer_keeps | with_reducible intro _
    | with_reducible apply State.Keeps.ite | split | dsimp only | assumption

theorem State.keystoreRequest_keeps {s0 s : State} (h : s0.Keeps s) {p data} : s0.Keeps (State.keystoreRequest s p data) := by
  unfold State.keystoreRequest
  repeat'
    first
    | with_reducible assumption | with_reducible apply State.request_keeps
    | with_reducible apply State.reqStatus_keeps | with_reducible apply State.defer_keeps | with_reducible intro _
    | with_reducible apply State.Keeps.ite | split | dsimp only | assumption

theorem State.auditRequest_keeps {s0 s : State} (h : s0.Keeps s) {p data} : s0.Keeps (State.auditRequest s p data) := by
  unfold State.auditRequest
  repeat'
    first
    | with_reducible assumption | with_reducible apply State.request_keeps
    | with_reducible apply State.reqStatus_keeps | with_reducible apply State.reqWrite_keeps
    | with_reducible intro _ | split | dsimp only | assumption

theorem State.srmRequest_keeps {s0 s : State} (h : s0.Keeps s) {p data} : s0.Keeps (State.srmRequest s p data) := by
  unfold State.srmRequest
  repeat'
    first
    | with_reducible assumption | with_reducible apply State.request_keeps
    | with_reducible apply State.reqStatus_keeps | with_reducible intro _ | with_reducible apply State.Keeps.ite
    | fail_if_no_progress with_reducible refine State.Keeps.copy ?_ | split | dsimp only | assumption

theorem State.storeSettings_keeps {s0 s : State} (h : s0.Keeps s) {p} : s0.Keeps (State.storeSettings s p) := by
  unfold State.storeSettings
  repeat'
    first
    | with_reducible assumption | with_reducible apply State.raise_keeps
    | with_reducible apply State.setField_keeps | with_reducible apply State.defer_keeps | with_reducible intro _
    | with_reducible apply State.Keeps.ite | fail_if_no_progress with_reducible refine State.Keeps.copy ?_ | split
    | dsimp only | assumption

theorem fxStoreComplete_keeps {s0 s : State} (h : s0.Keeps s) : s0.Keeps (fxStoreComplete s) := by
  unfold fxStoreComplete
  repeat'
    first
    | with_reducible assumption | with_reducible apply State.setField_keeps
    | with_reducible apply State.raise_keeps | with_reducible apply State.setReg_keeps | with_reducible intro _
    | with_reducible apply State.Keeps.ite | with_reducible apply State.Keeps.foldl
    | fail_if_no_progress with_reducible refine State.Keeps.copy ?_ | split | dsimp only | assumption

theorem fxSectorErase_keeps {s0 s : State} (h : s0.Keeps s) {sector} : s0.Keeps (fxSectorErase sector s) := by
  unfold fxSectorErase
  repeat'
    first
    | with_reducible assumption | with_reducible intro _
    | fail_if_no_progress with_reducible refine State.Keeps.copy ?_ | dsimp only | assumption

/-- A deferred change may program OTP; all else is kept. -/
theorem State.runAction_keeps (s : State) (p : Path) (a : SecAction) :
    ∃ o, State.Keeps { s with otp := o } (s.runAction p a) := by
  cases a with
  | otp field v => exact ⟨s.otp.program field v, State.reqStatus_keeps (.refl _)⟩
  | key slot hash => exact ⟨s.otp, State.reqStatus_keeps (State.Keeps.copy (.refl _))⟩
  | store => exact ⟨s.otp, .refl _⟩

/-- The same for any number of them, from a state that keeps all but OTP. -/
theorem runActions_keeps (l : List (Word × Path × SecAction)) {s0 s : State} (h : ∃ o, State.Keeps { s0 with otp := o } s) :
    ∃ o, State.Keeps { s0 with otp := o } (l.foldl (fun t x => t.runAction x.2.1 x.2.2) s) := by
  refine foldl_inv (P := fun t => ∃ o, State.Keeps { s0 with otp := o } t) (fun t x ⟨o, k⟩ => ?_) h
  obtain ⟨o', k'⟩ := t.runAction_keeps x.2.1 x.2.2
  exact ⟨o', ⟨fun w => k'.wf (k.wf w), k'.pending.trans k.pending, k'.straps.trans k.straps, k'.otp,
    k'.gsc.elim (fun e => k.gsc.imp (e.trans ·) (e.trans ·)) .inr⟩⟩

/-- AUDIT_PROGRAM alone may program OTP; all else is kept. -/
theorem fxAuditProgram_keeps (s : State) : ∃ o, State.Keeps { s with otp := o } (fxAuditProgram s) := by
  unfold fxAuditProgram
  split
  · exact ⟨s.otp, .refl _⟩
  · exact runActions_keeps _ ⟨s.otp, State.Keeps.copy (.refl _)⟩

theorem fxNvmAuditSelWrite_keeps {s0 s : State} (h : s0.Keeps s) {value} : s0.Keeps (fxNvmAuditSelWrite value s) := by
  unfold fxNvmAuditSelWrite
  repeat'
    first
    | with_reducible assumption | with_reducible apply State.setField_keeps | with_reducible intro _
    | fail_if_no_progress with_reducible refine State.Keeps.copy ?_ | dsimp only | assumption

theorem fxAuth_keeps {s0 s : State} (h : s0.Keeps s) {p data} : s0.Keeps (fxAuth p data s) := by
  unfold fxAuth
  repeat'
    first
    | with_reducible assumption | with_reducible apply State.authRequest_keeps | with_reducible intro _
    | dsimp only | assumption

theorem fxAttest_keeps {s0 s : State} (h : s0.Keeps s) {p data} : s0.Keeps (fxAttest p data s) := by
  unfold fxAttest
  repeat'
    first
    | with_reducible assumption | with_reducible apply State.attestRequest_keeps | with_reducible intro _
    | dsimp only | assumption

theorem fxOtp_keeps {s0 s : State} (h : s0.Keeps s) {p data} : s0.Keeps (fxOtp p data s) := by
  unfold fxOtp
  repeat'
    first
    | with_reducible assumption | with_reducible apply State.otpRequest_keeps | with_reducible intro _ | dsimp only
    | assumption

theorem fxKeystore_keeps {s0 s : State} (h : s0.Keeps s) {p data} : s0.Keeps (fxKeystore p data s) := by
  unfold fxKeystore
  repeat'
    first
    | with_reducible assumption | with_reducible apply State.keystoreRequest_keeps | with_reducible intro _
    | dsimp only | assumption

theorem fxAudit_keeps {s0 s : State} (h : s0.Keeps s) {p data} : s0.Keeps (fxAudit p data s) := by
  unfold fxAudit
  repeat'
    first
    | with_reducible assumption | with_reducible apply State.auditRequest_keeps | with_reducible intro _
    | dsimp only | assumption

theorem fxSrm_keeps {s0 s : State} (h : s0.Keeps s) {p data} : s0.Keeps (fxSrm p data s) := by
  unfold fxSrm
  repeat'
    first
    | with_reducible assumption | with_reducible apply State.srmRequest_keeps | with_reducible intro _ | dsimp only
    | assumption

theorem fxStore_keeps {s0 s : State} (h : s0.Keeps s) {p} : s0.Keeps (fxStore p s) := by
  unfold fxStore
  repeat'
    first
    | with_reducible assumption | with_reducible apply State.storeSettings_keeps | with_reducible intro _
    | dsimp only | assumption

end Sys2Proof.Machine
end

