-- ==== Sys2Proof/Laws/KeepsHostFn.lean ====
section
/-! SUPPORT. What the operations of HostFn.lean keep. -/

namespace Sys2Proof.Machine

theorem State.poisonCtx_keeps {s0 s : State} (h : s0.Keeps s) {d ctx} : s0.Keeps (State.poisonCtx s d ctx) := by
  unfold State.poisonCtx
  repeat'
    first
    | with_reducible assumption | with_reducible apply State.countRaise_keeps | with_reducible apply onDie_keeps
    | with_reducible apply State.failIssuer_keeps | with_reducible intro _ | with_reducible apply State.Keeps.foldl
    | with_reducible apply Die.wf_foldl | fail_if_no_progress with_reducible refine Die.wf_copy ?_ | split
    | dsimp only | assumption

theorem State.poisonCanvas_keeps {s0 s : State} (h : s0.Keeps s) {cv} : s0.Keeps (State.poisonCanvas s cv) := by
  unfold State.poisonCanvas
  repeat'
    first
    | with_reducible assumption | with_reducible apply State.poisonCtx_keeps | with_reducible intro _
    | with_reducible apply State.Keeps.foldl | split | dsimp only | assumption

theorem State.poisonFn_keeps {s0 s : State} (h : s0.Keeps s) {f} : s0.Keeps (State.poisonFn s f) := by
  unfold State.poisonFn
  repeat'
    first
    | with_reducible assumption | with_reducible apply State.poisonCtx_keeps
    | with_reducible apply State.poisonCanvas_keeps | with_reducible intro _
    | with_reducible apply State.Keeps.foldl | split | dsimp only | assumption

theorem State.destroyCtx_keeps {s0 s : State} (h : s0.Keeps s) {d ctx} : s0.Keeps (State.destroyCtx s d ctx) := by
  unfold State.destroyCtx
  repeat'
    first
    | with_reducible assumption | with_reducible apply State.poisonCtx_keeps | with_reducible apply onDie_keeps
    | with_reducible intro _ | with_reducible apply State.Keeps.ite
    | fail_if_no_progress with_reducible refine Die.wf_copy ?_ | split | dsimp only | assumption

theorem State.requestUnbind_keeps {s0 s : State} (h : s0.Keeps s) {cv q} : s0.Keeps (State.requestUnbind s cv q) := by
  unfold State.requestUnbind
  repeat'
    first
    | with_reducible assumption | with_reducible apply State.onCanvas_keeps | with_reducible intro _ | dsimp only
    | assumption

theorem State.finish_keeps {s0 s : State} (h : s0.Keeps s) {q a c} : s0.Keeps (State.finish s q a c) := by
  unfold State.finish
  repeat'
    first
    | with_reducible assumption | with_reducible apply onHost_keeps | with_reducible apply HostSide.onQueue_ok
    | with_reducible intro _ | with_reducible apply State.Keeps.ite | split | dsimp only | assumption

theorem Die.syncPool_wf {x : Die} (h : x.wf = true) : (Die.syncPool x).wf = true := by
  unfold Die.syncPool
  repeat'
    first
    | with_reducible assumption | with_reducible apply setReg_wf | with_reducible intro _ | dsimp only | assumption

theorem State.syncReplay_keeps {s0 s : State} (h : s0.Keeps s) {ds} : s0.Keeps (State.syncReplay s ds) := by
  unfold State.syncReplay
  repeat'
    first
    | with_reducible assumption | with_reducible apply onDies_keeps | with_reducible apply Die.setField_wf
    | with_reducible intro _ | dsimp only | assumption

theorem State.releasePlaces_keeps {s0 s : State} (h : s0.Keeps s) {c} : s0.Keeps (State.releasePlaces s c) := by
  unfold State.releasePlaces
  repeat'
    first
    | with_reducible assumption | with_reducible apply onDies_keeps | with_reducible apply Die.syncPool_wf
    | with_reducible intro _ | fail_if_no_progress with_reducible refine Die.wf_copy ?_ | dsimp only | assumption

theorem State.freeBarriers_keeps {s0 s : State} (h : s0.Keeps s) {cv} : s0.Keeps (State.freeBarriers s cv) := by
  unfold State.freeBarriers
  repeat'
    first
    | with_reducible assumption | with_reducible apply onDies_keeps | with_reducible intro _
    | fail_if_no_progress with_reducible refine State.Keeps.copy ?_
    | fail_if_no_progress with_reducible refine Die.wf_copy ?_ | dsimp only | assumption

theorem State.abortSave_keeps {s0 s : State} (h : s0.Keeps s) {cv} : s0.Keeps (State.abortSave s cv) := by
  unfold State.abortSave
  repeat'
    first
    | with_reducible assumption | with_reducible apply State.finish_keeps
    | with_reducible apply State.onCanvas_keeps | with_reducible intro _ | split | dsimp only | assumption

theorem State.raiseHead_keeps {s0 s : State} (h : s0.Keeps s) {h evt mask} :
    s0.Keeps (State.raiseHead s h evt mask) := by
  unfold State.raiseHead
  repeat'
    first
    | with_reducible assumption | with_reducible apply State.raise_keeps
    | with_reducible apply HostSide.raise_ok | with_reducible apply State.setReg_keeps
    | with_reducible apply setReg_wf | with_reducible apply hostSetReg_ok | with_reducible apply onHost_keeps
    | with_reducible apply HostSide.postEvents_ok | with_reducible intro _
    | with_reducible apply State.Keeps.ite | fail_if_no_progress with_reducible refine Die.wf_copy ?_ | split
    | dsimp only | assumption

theorem State.canvasEvent_keeps {s0 s : State} (h : s0.Keeps s) {c kind layer value} :
    s0.Keeps (State.canvasEvent s c kind layer value) := by
  unfold State.canvasEvent
  repeat'
    first
    | with_reducible assumption | with_reducible apply onHost_keeps
    | with_reducible apply HostSide.postCanvas_ok | with_reducible intro _ | dsimp only | assumption

theorem State.fillUnbound_keeps {s0 s : State} (h : s0.Keeps s) {c} : s0.Keeps (State.fillUnbound s c) := by
  unfold State.fillUnbound
  repeat'
    first
    | with_reducible assumption | with_reducible apply State.raiseHead_keeps
    | with_reducible apply State.canvasEvent_keeps | with_reducible intro _
    | with_reducible apply State.Keeps.ite | with_reducible apply State.Keeps.foldl
    | with_reducible apply Die.wf_foldl | split | dsimp only | assumption

theorem State.unbindNow_keeps {s0 s : State} (h : s0.Keeps s) {cv} : s0.Keeps (State.unbindNow s cv) := by
  unfold State.unbindNow
  repeat'
    first
    | with_reducible assumption | with_reducible apply State.poisonCanvas_keeps
    | with_reducible apply State.fillUnbound_keeps | with_reducible apply State.destroyCtx_keeps
    | with_reducible apply onDies_keeps | with_reducible apply Die.dropItems_wf
    | with_reducible apply Die.removeStreams_wf | with_reducible apply State.releasePlaces_keeps
    | with_reducible apply State.freeBarriers_keeps | with_reducible apply Die.setField_wf
    | with_reducible apply State.setField_keeps | with_reducible apply State.refill_keeps
    | with_reducible apply State.syncReplay_keeps | with_reducible apply State.finish_keeps
    | with_reducible intro _ | with_reducible apply State.Keeps.ite | with_reducible apply State.Keeps.foldl
    | fail_if_no_progress with_reducible refine State.Keeps.copy ?_ | with_reducible apply Die.wf_foldl
    | fail_if_no_progress with_reducible refine Die.wf_copy ?_ | split | dsimp only | assumption

theorem HostSide.dropDoorbell_ok {x : HostSide} (h : x.Ok) {f} : (HostSide.dropDoorbell x f).Ok := by
  unfold HostSide.dropDoorbell
  repeat'
    first
    | with_reducible assumption | with_reducible apply HostSide.raise_ok | with_reducible apply HostSide.count_ok
    | with_reducible apply HostSide.countFn_ok | with_reducible intro _ | dsimp only | assumption

theorem HostSide.ring_ok {x : HostSide} (h : x.Ok) {f x' ix} : (HostSide.ring x f x' ix).Ok := by
  unfold HostSide.ring
  repeat'
    first
    | with_reducible assumption | with_reducible apply HostSide.queueError_ok
    | with_reducible apply HostSide.settleAll_ok | with_reducible apply HostSide.onQueue_ok
    | with_reducible intro _ | split | dsimp only | assumption

theorem fxDoorbell_keeps {s0 s : State} (h : s0.Keeps s) {f value} : s0.Keeps (fxDoorbell f value s) := by
  unfold fxDoorbell
  repeat'
    first
    | with_reducible assumption | with_reducible apply onHost_keeps | with_reducible apply HostSide.dropDoorbell_ok
    | with_reducible apply State.recordDoorbell_keeps | with_reducible apply HostSide.ring_ok
    | with_reducible intro _ | with_reducible apply State.Keeps.ite | split | dsimp only | assumption

theorem fxHostReadError_keeps {s0 s : State} (h : s0.Keeps s) {f q ring} : s0.Keeps (fxHostReadError f q ring s) := by
  unfold fxHostReadError
  repeat'
    first
    | with_reducible assumption | with_reducible apply onHost_keeps | with_reducible apply HostSide.queueError_ok
    | with_reducible apply State.finish_keeps | with_reducible intro _ | with_reducible apply State.Keeps.ite
    | split | dsimp only | assumption

theorem HostSide.syncDisabled_ok {x : HostSide} (h : x.Ok) {f} : (HostSide.syncDisabled x f).Ok := by
  unfold HostSide.syncDisabled
  repeat'
    first
    | with_reducible assumption | with_reducible apply hostSetReg_ok | with_reducible intro _ | dsimp only
    | assumption

theorem HostSide.complete_ok {x : HostSide} (h : x.Ok) {f q} : (HostSide.complete x f q).Ok := by
  unfold HostSide.complete
  repeat'
    first
    | with_reducible assumption | with_reducible apply HostSide.onQueue_ok
    | with_reducible apply HostSide.append_ok | with_reducible apply HostSide.syncDisabled_ok
    | with_reducible apply HostSide.settleAll_ok | with_reducible intro _ | split | dsimp only | assumption

theorem fxDescriptorCompletion_keeps {s0 s : State} (h : s0.Keeps s) {f q} : s0.Keeps (fxDescriptorCompletion f q s) := by
  unfold fxDescriptorCompletion
  repeat'
    first
    | with_reducible assumption | with_reducible apply onHost_keeps | with_reducible apply HostSide.complete_ok
    | with_reducible intro _ | dsimp only | assumption

theorem fxAqEnable_keeps {s0 s : State} (h : s0.Keeps s) {f vector} : s0.Keeps (fxAqEnable f vector s) := by
  unfold fxAqEnable
  repeat'
    first
    | with_reducible assumption | with_reducible apply onHost_keeps | with_reducible apply HostSide.onQueue_ok
    | with_reducible apply HostSide.setFnReg_ok | with_reducible apply onFn_ok | with_reducible intro _
    | with_reducible apply State.Keeps.ite | fail_if_no_progress with_reducible refine Fn.wf_copy ?_ | split
    | dsimp only | assumption

theorem fxAqDisable_keeps {s0 s : State} (h : s0.Keeps s) {f vector} : s0.Keeps (fxAqDisable f vector s) := by
  unfold fxAqDisable
  repeat'
    first
    | with_reducible assumption | with_reducible apply onHost_keeps | with_reducible apply onFn_ok
    | with_reducible apply HostSide.setFnReg_ok | with_reducible intro _ | with_reducible apply State.Keeps.ite
    | fail_if_no_progress with_reducible refine Fn.wf_copy ?_ | split | dsimp only | assumption

theorem State.cancelFnWaits_keeps {s0 s : State} (h : s0.Keeps s) {f} : s0.Keeps (State.cancelFnWaits s f) := by
  unfold State.cancelFnWaits
  repeat'
    first
    | with_reducible assumption | with_reducible apply onDies_keeps | with_reducible intro _
    | fail_if_no_progress with_reducible refine Die.wf_copy ?_ | dsimp only | assumption

theorem State.disableVf_keeps {s0 s : State} (h : s0.Keeps s) {f} : s0.Keeps (State.disableVf s f) := by
  unfold State.disableVf
  repeat'
    first
    | with_reducible assumption | with_reducible apply onHost_keeps | with_reducible apply hostSetReg_ok
    | with_reducible apply onFn_ok | with_reducible apply State.poisonFn_keeps
    | with_reducible apply State.cancelFnWaits_keeps | with_reducible apply State.requestUnbind_keeps
    | with_reducible apply State.abortSave_keeps | with_reducible apply State.raiseHost_keeps
    | with_reducible apply HostSide.postFunc_ok | with_reducible apply HostSide.syncDisabled_ok
    | with_reducible intro _ | with_reducible apply State.Keeps.ite | with_reducible apply State.Keeps.foldl
    | with_reducible apply HostSide.ok_foldl | fail_if_no_progress with_reducible refine Fn.wf_copy ?_ | split
    | dsimp only | assumption

theorem State.enableVf_keeps {s0 s : State} (h : s0.Keeps s) {f} : s0.Keeps (State.enableVf s f) := by
  unfold State.enableVf
  repeat'
    first
    | with_reducible assumption | with_reducible apply onHost_keeps | with_reducible apply hostSetReg_ok
    | with_reducible apply onFn_ok | with_reducible apply HostSide.postFunc_ok
    | with_reducible apply HostSide.settleAll_ok | with_reducible intro _ | with_reducible apply State.Keeps.ite
    | fail_if_no_progress with_reducible refine Fn.wf_copy ?_ | split | dsimp only | assumption

theorem fxVfDisable_keeps {s0 s : State} (h : s0.Keeps s) {f} : s0.Keeps (fxVfDisable f s) := by
  unfold fxVfDisable
  repeat'
    first
    | with_reducible assumption | with_reducible apply State.disableVf_keeps | with_reducible intro _ | dsimp only
    | assumption

theorem fxVfEnable_keeps {s0 s : State} (h : s0.Keeps s) {f} : s0.Keeps (fxVfEnable f s) := by
  unfold fxVfEnable
  repeat'
    first
    | with_reducible assumption | with_reducible apply State.enableVf_keeps | with_reducible intro _ | dsimp only
    | assumption

theorem fxHstQuotaWrite_keeps {s0 s : State} (h : s0.Keeps s) {f value} : s0.Keeps (fxHstQuotaWrite f value s) := by
  unfold fxHstQuotaWrite
  repeat'
    first
    | with_reducible assumption | with_reducible apply onHost_keeps | with_reducible apply hostSetReg_ok
    | with_reducible apply State.disableVf_keeps | with_reducible apply State.enableVf_keeps
    | with_reducible intro _ | with_reducible apply State.Keeps.ite | split | dsimp only | assumption

theorem fxHstHeadOwnerWrite_keeps {s0 s : State} (h : s0.Keeps s) {h' value} : s0.Keeps (fxHstHeadOwnerWrite h' value s) := by
  unfold fxHstHeadOwnerWrite
  repeat'
    first
    | with_reducible assumption | with_reducible apply onHost_keeps | with_reducible apply hostSetReg_ok
    | with_reducible intro _ | with_reducible apply State.Keeps.ite | split | dsimp only | assumption

theorem fxHstDieEqWrite_keeps {s0 s : State} (h : s0.Keeps s) {d value} : s0.Keeps (fxHstDieEqWrite d value s) := by
  unfold fxHstDieEqWrite
  repeat'
    first
    | with_reducible assumption | with_reducible apply onHost_keeps | with_reducible apply hostSetReg_ok
    | with_reducible intro _ | split | dsimp only | assumption

theorem Fn.inReset_wf {x : Fn} (h : x.wf = true) {vf} : (Fn.inReset x vf).wf = true := by
  unfold Fn.inReset
  repeat'
    first
    | with_reducible assumption | with_reducible intro _ | with_reducible apply fnReset_wf
    | fail_if_no_progress with_reducible refine Fn.wf_copy ?_ | dsimp only | assumption

theorem State.resetFn_keeps {s0 s : State} (h : s0.Keeps s) {f vf} : s0.Keeps (State.resetFn s f vf) := by
  unfold State.resetFn
  repeat'
    first
    | with_reducible assumption | with_reducible apply onHost_keeps | with_reducible apply onFn_ok
    | with_reducible apply Fn.inReset_wf | with_reducible apply State.poisonFn_keeps
    | with_reducible apply State.cancelFnWaits_keeps | with_reducible apply State.requestUnbind_keeps
    | with_reducible apply State.abortSave_keeps | with_reducible apply State.destroyCtx_keeps
    | with_reducible apply onDies_keeps | with_reducible apply State.recordEvent_keeps | with_reducible intro _
    | with_reducible apply State.Keeps.foldl | with_reducible apply Die.wf_foldl
    | fail_if_no_progress with_reducible refine Die.wf_copy ?_ | with_reducible apply HostSide.ok_foldl | split
    | dsimp only | assumption

theorem fxFunctionLevelReset_keeps {s0 s : State} (h : s0.Keeps s) {f} : s0.Keeps (fxFunctionLevelReset f s) := by
  unfold fxFunctionLevelReset
  repeat'
    first
    | with_reducible assumption | with_reducible apply State.resetFn_keeps | with_reducible intro _
    | with_reducible apply State.Keeps.ite | split | dsimp only | assumption

theorem fxPfFunctionLevelReset_keeps {s0 s : State} (h : s0.Keeps s) {_cause} : s0.Keeps (fxPfFunctionLevelReset _cause s) := by
  unfold fxPfFunctionLevelReset
  repeat'
    first
    | with_reducible assumption | with_reducible apply State.resetFn_keeps | with_reducible apply onHost_keeps
    | with_reducible apply State.endSession_keeps | with_reducible intro _ | with_reducible apply State.Keeps.foldl
    | with_reducible apply eraseHostRegs_ok | with_reducible apply HostSide.ok_foldl | dsimp only | assumption

theorem fxFunctionResetDone_keeps {s0 s : State} (h : s0.Keeps s) {f} : s0.Keeps (fxFunctionResetDone f s) := by
  unfold fxFunctionResetDone
  repeat'
    first
    | with_reducible assumption | with_reducible apply State.raiseHost_keeps | with_reducible apply onHost_keeps
    | with_reducible apply HostSide.postFunc_ok | with_reducible apply onFn_ok | with_reducible intro _
    | with_reducible apply State.Keeps.ite | fail_if_no_progress with_reducible refine Fn.wf_copy ?_ | split
    | dsimp only | assumption

theorem fxMsixTimerExpiry_keeps {s0 s : State} (h : s0.Keeps s) {f q} : s0.Keeps (fxMsixTimerExpiry f q s) := by
  unfold fxMsixTimerExpiry
  repeat'
    first
    | with_reducible assumption | with_reducible apply onHost_keeps | with_reducible apply onFn_ok
    | with_reducible apply HostSide.onQueue_ok | with_reducible apply Fn.fire_wf | with_reducible intro _
    | with_reducible apply State.Keeps.ite | split | dsimp only | assumption

end Sys2Proof.Machine
end

