-- ==== Sys2Proof/Laws/KeepsDescr.lean ====
section
/-! SUPPORT. What the operations of Descr.lean keep. -/

namespace Sys2Proof.Machine

theorem HostSide.begin__ok {x : HostSide} (h : x.Ok) {d e} : (HostSide.begin_ x d e).Ok := by
  unfold HostSide.begin_
  repeat'
    first
    | with_reducible assumption | with_reducible apply HostSide.onQueue_ok | with_reducible intro _ | split
    | dsimp only | assumption

theorem State.descriptor_keeps {s0 s : State} (h : s0.Keeps s) {d kind admin ok act} (hact : ∀ (t : State) (q : Queue), s0.Keeps t → s0.Keeps (act t q).1) : s0.Keeps (State.descriptor s d kind admin ok act) := by
  unfold State.descriptor
  repeat'
    first
    | with_reducible assumption | with_reducible apply onHost_keeps | with_reducible apply HostSide.begin__ok
    | with_reducible apply hact | with_reducible intro _ | with_reducible apply State.Keeps.ite | split
    | dsimp only | assumption

theorem State.simple_keeps {s0 s : State} (h : s0.Keeps s) {d admin ok act}
    (hact : ∀ (t : State) (q : Queue), s0.Keeps t → s0.KeepsE (act t q)) :
    s0.Keeps (State.simple s d admin ok act) := by
  unfold State.simple
  refine State.descriptor_keeps h fun t q ht => ?_
  have k := hact t q ht
  cases e : act t q with
  | error _ => exact ht
  | ok u => rw [e] at k; exact k

theorem fxNop_keeps {s0 s : State} (h : s0.Keeps s) {h'} : s0.Keeps (fxNop h' s) := by
  unfold fxNop
  repeat'
    first
    | with_reducible assumption | with_reducible apply onHost_keeps | with_reducible apply State.descriptor_keeps
    | with_reducible apply HostSide.complete_ok | with_reducible intro _ | split | dsimp only | assumption

theorem fxWait_keeps {s0 s : State} (h : s0.Keeps s) {h' tsl kind n} : s0.Keeps (fxWait h' tsl kind n s) := by
  unfold fxWait
  repeat'
    first
    | with_reducible assumption | with_reducible apply State.descriptor_keeps | with_reducible apply onHost_keeps
    | with_reducible apply HostSide.onQueue_ok | with_reducible apply State.tslDo_keeps | with_reducible intro _
    | with_reducible apply State.Keeps.ite | split | dsimp only | assumption

theorem State.sendSignal_keeps {s0 s : State} (h : s0.Keeps s) {h home die v op} :
    s0.Keeps (State.sendSignal s h home die v op) := by
  unfold State.sendSignal
  repeat'
    first
    | with_reducible assumption | with_reducible apply State.finish_keeps
    | with_reducible apply State.tslDo_keeps | with_reducible apply State.sendGaide_keeps
    | with_reducible intro _ | with_reducible apply State.Keeps.ite
    | fail_if_no_progress with_reducible refine Die.wf_copy ?_ | split | dsimp only | assumption

theorem fxSignal_keeps {s0 s : State} (h : s0.Keeps s) {h' tsl act die v} : s0.Keeps (fxSignal h' tsl act die v s) := by
  unfold fxSignal
  repeat'
    first
    | with_reducible assumption | with_reducible apply State.descriptor_keeps
    | with_reducible apply State.sendSignal_keeps | with_reducible intro _ | with_reducible apply State.Keeps.ite
    | split | dsimp only | assumption

theorem fxFenceComplete_keeps {s0 s : State} (h : s0.Keeps s) {iss} : s0.Keeps (fxFenceComplete iss s) := by
  unfold fxFenceComplete
  repeat'
    first
    | with_reducible assumption | with_reducible apply State.sigAdd_keeps | with_reducible apply onHost_keeps
    | with_reducible apply HostSide.onQueue_ok | with_reducible apply State.sendSignal_keeps
    | with_reducible intro _ | with_reducible apply State.Keeps.ite | split | dsimp only | assumption

theorem Die.copyIn_wf {x : Die} (h : x.wf = true) {addr bs} : (Die.copyIn x addr bs).wf = true := by
  unfold Die.copyIn
  repeat'
    first
    | with_reducible assumption | with_reducible apply writeDram_wf | with_reducible intro _
    | fail_if_no_progress with_reducible refine Die.wf_copy ?_ | dsimp only | assumption

theorem fxCopy_keeps {s0 s : State} (h : s0.Keeps s) {h' host dev die dir len data} : s0.Keeps (fxCopy h' host dev die dir len data s) := by
  unfold fxCopy
  repeat'
    first
    | with_reducible assumption | with_reducible apply State.descriptor_keeps | with_reducible apply onDie_keeps
    | with_reducible apply Die.copyIn_wf | with_reducible apply writeHost_keeps | with_reducible intro _
    | with_reducible apply State.Keeps.ite | split | dsimp only | assumption

theorem fxAlloc_keeps {s0 s : State} (h : s0.Keeps s) {h' dies len} : s0.Keeps (fxAlloc h' dies len s) := by
  unfold fxAlloc
  repeat'
    first
    | with_reducible assumption | with_reducible apply State.descriptor_keeps | with_reducible apply onDies_keeps
    | with_reducible intro _ | fail_if_no_progress with_reducible refine Die.wf_copy ?_ | split | dsimp only
    | assumption

theorem fxFree_keeps {s0 s : State} (h : s0.Keeps s) {h' dies addr} : s0.Keeps (fxFree h' dies addr s) := by
  unfold fxFree
  repeat'
    first
    | with_reducible assumption | with_reducible apply State.simple_keeps | with_reducible apply onDies_keeps
    | with_reducible intro _ | with_reducible apply State.KeepsE.ite | with_reducible apply State.KeepsE.ok
    | with_reducible exact State.KeepsE.error | with_reducible apply State.Keeps.ite
    | fail_if_no_progress with_reducible refine Die.wf_copy ?_ | split | dsimp only | assumption

theorem fxEvict_keeps {s0 s : State} (h : s0.Keeps s) {h' handle} : s0.Keeps (fxEvict h' handle s) := by
  unfold fxEvict
  repeat'
    first
    | with_reducible assumption | with_reducible apply State.simple_keeps | with_reducible apply onHost_keeps
    | with_reducible apply onFn_ok | with_reducible intro _ | with_reducible apply State.KeepsE.ite
    | with_reducible apply State.KeepsE.ok | with_reducible exact State.KeepsE.error
    | with_reducible apply State.Keeps.ite | fail_if_no_progress with_reducible refine Fn.wf_copy ?_ | split
    | dsimp only | assumption

theorem fxUnbind_keeps {s0 s : State} (h : s0.Keeps s) {h' canvas} : s0.Keeps (fxUnbind h' canvas s) := by
  unfold fxUnbind
  repeat'
    first
    | with_reducible assumption | with_reducible apply State.descriptor_keeps
    | with_reducible apply State.requestUnbind_keeps | with_reducible apply State.unbindNow_keeps
    | with_reducible intro _ | with_reducible apply State.Keeps.ite | split | dsimp only | assumption

theorem fxCreateQ_keeps {s0 s : State} (h : s0.Keeps s) {h' queue kind log2 home base cq vector count timer} : s0.Keeps (fxCreateQ h' queue kind log2 home base cq vector count timer s) := by
  unfold fxCreateQ
  repeat'
    first
    | with_reducible assumption | with_reducible apply State.simple_keeps | with_reducible apply onHost_keeps
    | with_reducible apply onFn_ok | with_reducible intro _ | with_reducible apply State.KeepsE.ite
    | with_reducible apply State.KeepsE.ok | with_reducible exact State.KeepsE.error
    | with_reducible apply State.Keeps.ite | fail_if_no_progress with_reducible refine Fn.wf_copy ?_ | split
    | dsimp only | assumption

theorem fxDeleteQ_keeps {s0 s : State} (h : s0.Keeps s) {h' queue} : s0.Keeps (fxDeleteQ h' queue s) := by
  unfold fxDeleteQ
  repeat'
    first
    | with_reducible assumption | with_reducible apply State.descriptor_keeps | with_reducible apply onDies_keeps
    | with_reducible apply onHost_keeps | with_reducible apply onFn_ok | with_reducible apply HostSide.complete_ok
    | with_reducible apply HostSide.onQueue_ok | with_reducible intro _ | with_reducible apply State.Keeps.ite
    | fail_if_no_progress with_reducible refine Die.wf_copy ?_
    | fail_if_no_progress with_reducible refine Fn.wf_copy ?_ | split | dsimp only | assumption

theorem fxWindow_keeps {s0 s : State} (h : s0.Keeps s) {h' index base limit} : s0.Keeps (fxWindow h' index base limit s) := by
  unfold fxWindow
  repeat'
    first
    | with_reducible assumption | with_reducible apply State.simple_keeps | with_reducible apply onHost_keeps
    | with_reducible apply onFn_ok | with_reducible intro _ | with_reducible apply State.KeepsE.ite
    | with_reducible apply State.KeepsE.ok | with_reducible exact State.KeepsE.error
    | with_reducible apply State.Keeps.ite | fail_if_no_progress with_reducible refine Fn.wf_copy ?_ | split
    | dsimp only | assumption

theorem fxTslCreate_keeps {s0 s : State} (h : s0.Keeps s) {h' die virt value} : s0.Keeps (fxTslCreate h' die virt value s) := by
  unfold fxTslCreate
  repeat'
    first
    | with_reducible assumption | with_reducible apply State.simple_keeps | with_reducible apply onDie_keeps
    | with_reducible intro _ | with_reducible apply State.KeepsE.ite | with_reducible apply State.KeepsE.ok
    | with_reducible exact State.KeepsE.error | fail_if_no_progress with_reducible refine Die.wf_copy ?_ | split
    | dsimp only | assumption

theorem State.freeTsl_keeps {s0 s : State} (h : s0.Keeps s) {d c v e} : s0.Keeps (State.freeTsl s d c v e) := by
  unfold State.freeTsl
  repeat'
    first
    | with_reducible assumption | with_reducible apply State.poisonCtx_keeps
    | with_reducible apply State.failIssuer_keeps | with_reducible apply onDie_keeps | with_reducible intro _
    | with_reducible apply State.Keeps.ite | with_reducible apply State.Keeps.foldl
    | fail_if_no_progress with_reducible refine State.Keeps.copy ?_ | with_reducible apply Die.wf_foldl
    | fail_if_no_progress with_reducible refine Die.wf_copy ?_ | split | dsimp only | assumption

theorem fxTslDestroy_keeps {s0 s : State} (h : s0.Keeps s) {h' die virt} : s0.Keeps (fxTslDestroy h' die virt s) := by
  unfold fxTslDestroy
  repeat'
    first
    | with_reducible assumption | with_reducible apply State.simple_keeps
    | with_reducible apply State.freeTsl_keeps | with_reducible intro _ | with_reducible apply State.KeepsE.ite
    | with_reducible apply State.KeepsE.ok | with_reducible exact State.KeepsE.error | split | dsimp only
    | assumption

theorem fxCtxDestroy_keeps {s0 s : State} (h : s0.Keeps s) {h' dies} : s0.Keeps (fxCtxDestroy h' dies s) := by
  unfold fxCtxDestroy
  repeat'
    first
    | with_reducible assumption | with_reducible apply State.simple_keeps
    | with_reducible apply State.destroyCtx_keeps | with_reducible intro _ | with_reducible apply State.KeepsE.ite
    | with_reducible apply State.KeepsE.ok | with_reducible exact State.KeepsE.error
    | with_reducible apply State.Keeps.ite | with_reducible apply State.Keeps.foldl | split | dsimp only
    | assumption

end Sys2Proof.Machine
end

