-- ==== Sys2Proof/Laws/KeepsSource.lean ====
section
/-! SUPPORT. What the operations of Source.lean keep. -/

namespace Sys2Proof.Machine

theorem State.recordFrame_keeps {s0 s : State} (h : s0.Keeps s) {d q f} : s0.Keeps (State.recordFrame s d q f) := by
  unfold State.recordFrame
  repeat'
    first
    | with_reducible assumption | with_reducible apply State.record_keeps | with_reducible intro _
    | with_reducible apply State.Keeps.ite | with_reducible apply State.Keeps.foldl
    | with_reducible apply Die.wf_foldl | split | dsimp only | assumption

theorem State.onSource_keeps {s0 s : State} (h : s0.Keeps s) {d same f} : s0.Keeps (State.onSource s d same f) := by
  unfold State.onSource
  repeat'
    first
    | with_reducible assumption | with_reducible apply onDie_keeps | with_reducible intro _
    | fail_if_no_progress with_reducible refine Die.wf_copy ?_ | dsimp only | assumption

theorem State.sourceComplete_keeps {s0 s : State} (h : s0.Keeps s) {d q f} : s0.Keeps (State.sourceComplete s d q f) := by
  unfold State.sourceComplete
  repeat'
    first
    | with_reducible assumption | with_reducible apply State.recordFrame_keeps
    | with_reducible apply State.onSource_keeps | with_reducible apply State.recordEvent_keeps
    | with_reducible apply State.canvasEvent_keeps | with_reducible intro _ | with_reducible apply State.Keeps.ite
    | with_reducible apply State.Keeps.foldl | split | dsimp only | assumption

theorem State.rateChange_keeps {s0 s : State} (h : s0.Keeps s) {d q} : s0.Keeps (State.rateChange s d q) := by
  unfold State.rateChange
  repeat'
    first
    | with_reducible assumption | with_reducible apply State.onSource_keeps
    | with_reducible apply State.onCanvas_keeps | with_reducible apply State.canvasEvent_keeps
    | with_reducible intro _ | with_reducible apply State.Keeps.foldl | dsimp only | assumption

theorem fxSourceFrameStart_keeps {s0 s : State} (h : s0.Keeps s) {d port stream counter supported form} :
    s0.Keeps (fxSourceFrameStart d port stream counter supported form s) := by
  unfold fxSourceFrameStart
  repeat'
    first
    | with_reducible assumption | with_reducible apply onDie_keeps | with_reducible apply State.onSource_keeps
    | with_reducible apply State.rateChange_keeps | with_reducible apply State.onCanvas_keeps
    | with_reducible intro _ | with_reducible apply State.Keeps.ite | with_reducible apply State.Keeps.foldl
    | fail_if_no_progress with_reducible refine State.Keeps.copy ?_ | with_reducible apply Die.wf_foldl
    | fail_if_no_progress with_reducible refine Die.wf_copy ?_ | split | dsimp only | assumption

theorem fxSourceLineArrival_keeps {s0 s : State} (h : s0.Keeps s) {d port stream line counter bytes} : s0.Keeps (fxSourceLineArrival d port stream line counter bytes s) := by
  unfold fxSourceLineArrival
  repeat'
    first
    | with_reducible assumption | with_reducible apply State.onSource_keeps | with_reducible intro _
    | with_reducible apply State.Keeps.ite | split | dsimp only | assumption

theorem fxSourceFrameComplete_keeps {s0 s : State} (h : s0.Keeps s) {d port stream} : s0.Keeps (fxSourceFrameComplete d port stream s) := by
  unfold fxSourceFrameComplete
  repeat'
    first
    | with_reducible assumption | with_reducible apply State.sourceComplete_keeps
    | with_reducible apply State.onSource_keeps | with_reducible intro _ | with_reducible apply State.Keeps.ite
    | split | dsimp only | assumption

theorem fxSourceRateChange_keeps {s0 s : State} (h : s0.Keeps s) {d port stream} : s0.Keeps (fxSourceRateChange d port stream s) := by
  unfold fxSourceRateChange
  repeat'
    first
    | with_reducible assumption | with_reducible apply State.rateChange_keeps | with_reducible intro _
    | with_reducible apply State.Keeps.ite | split | dsimp only | assumption

theorem fxFrame_keeps {s0 s : State} (h : s0.Keeps s) {h' canvas source pitch plane0 plane1 plane2 counter lines} : s0.Keeps (fxFrame h' canvas source pitch plane0 plane1 plane2 counter lines s) := by
  unfold fxFrame
  repeat'
    first
    | with_reducible assumption | with_reducible apply State.descriptor_keeps | with_reducible apply onDie_keeps
    | with_reducible apply State.rateChange_keeps | with_reducible apply State.sourceComplete_keeps
    | with_reducible apply State.onSource_keeps | with_reducible intro _ | with_reducible apply State.Keeps.ite
    | fail_if_no_progress with_reducible refine Die.wf_copy ?_ | split | dsimp only | assumption

theorem fxHoldLimitExpiry_keeps {s0 s : State} (h : s0.Keeps s) {h' layer} : s0.Keeps (fxHoldLimitExpiry h' layer s) := by
  unfold fxHoldLimitExpiry
  repeat'
    first
    | with_reducible assumption | with_reducible apply onDie_keeps | with_reducible intro _
    | with_reducible apply State.Keeps.ite | fail_if_no_progress with_reducible refine Die.wf_copy ?_ | split
    | dsimp only | assumption

end Sys2Proof.Machine
end

