-- ==== Sys2Proof/Laws/KeepsChecker.lean ====
section
/-! SUPPORT. What the operations of Checker.lean keep. -/

namespace Sys2Proof.Machine

theorem State.onPart_keeps {s0 s : State} (h : s0.Keeps s) {cv frame id f} : s0.Keeps (State.onPart s cv frame id f) := by
  unfold State.onPart
  repeat'
    first
    | with_reducible assumption | with_reducible apply State.onCanvas_keeps | with_reducible intro _ | dsimp only
    | assumption

theorem Die.countChoice_wf {x : Die} (h : x.wf = true) {l cause} : (Die.countChoice x l cause).wf = true := by
  unfold Die.countChoice
  repeat'
    first
    | with_reducible assumption | with_reducible intro _ | fail_if_no_progress with_reducible refine Die.wf_copy ?_
    | dsimp only | assumption

theorem State.latchPart_keeps {s0 s : State} (h : s0.Keeps s) {c p cause} : s0.Keeps (State.latchPart s c p cause) := by
  unfold State.latchPart
  repeat'
    first
    | with_reducible assumption | with_reducible apply State.onPart_keeps | with_reducible apply onDie_keeps
    | with_reducible apply Die.countChoice_wf | with_reducible apply State.timing_keeps
    | with_reducible apply onHost_keeps | with_reducible apply HostSide.postCpl_ok | with_reducible intro _
    | with_reducible apply State.Keeps.ite | fail_if_no_progress with_reducible refine Die.wf_copy ?_ | split
    | dsimp only | assumption

theorem State.replayLatch_keeps {s0 s : State} (h : s0.Keeps s) {cv} : s0.Keeps (State.replayLatch s cv) := by
  unfold State.replayLatch
  repeat'
    first
    | with_reducible assumption | with_reducible apply State.latchPart_keeps
    | with_reducible apply State.onCanvas_keeps | with_reducible apply State.countRaise_keeps
    | with_reducible intro _ | with_reducible apply State.Keeps.ite | with_reducible apply State.Keeps.foldl
    | split | dsimp only | assumption

theorem State.judgePart_keeps {s0 s : State} (h : s0.Keeps s) {c x p} : s0.Keeps (State.judgePart s c x p) := by
  unfold State.judgePart
  repeat'
    first
    | with_reducible assumption | with_reducible apply State.onPart_keeps | with_reducible apply State.raise_keeps
    | with_reducible apply onDie_keeps | with_reducible apply setReg_wf | with_reducible intro _
    | with_reducible apply State.Keeps.ite | fail_if_no_progress with_reducible refine Die.wf_copy ?_ | split
    | dsimp only | assumption

theorem fxVerdict_keeps {s0 s : State} (h : s0.Keeps s) {p} : s0.Keeps (fxVerdict p s) := by
  unfold fxVerdict
  repeat'
    first
    | with_reducible assumption | with_reducible apply State.replayLatch_keeps
    | with_reducible apply State.judgePart_keeps | with_reducible intro _ | with_reducible apply State.Keeps.ite
    | split | dsimp only | assumption

end Sys2Proof.Machine
end

