-- ==== Sys2Proof/Laws/KeepsRetime.lean ====
section
/-! SUPPORT. What the operations of Retime.lean keep. -/

namespace Sys2Proof.Machine

theorem State.onLayer_keeps {s0 s : State} (h : s0.Keeps s) {h' l f} : s0.Keeps (State.onLayer s h' l f) := by
  unfold State.onLayer
  repeat'
    first
    | with_reducible assumption | with_reducible apply onDie_keeps | with_reducible intro _
    | fail_if_no_progress with_reducible refine Die.wf_copy ?_ | dsimp only | assumption

theorem State.reportHold_keeps {s0 s : State} (h : s0.Keeps s) {h' l old new} : s0.Keeps (State.reportHold s h' l old new) := by
  unfold State.reportHold
  repeat'
    first
    | with_reducible assumption | with_reducible apply State.raiseHead_keeps
    | with_reducible apply State.canvasEvent_keeps | with_reducible intro _ | with_reducible apply State.Keeps.ite
    | split | dsimp only | assumption

theorem State.resetRecurrent_keeps {s0 s : State} (h : s0.Keeps s) {cv} : s0.Keeps (State.resetRecurrent s cv) := by
  unfold State.resetRecurrent
  repeat'
    first
    | with_reducible assumption | with_reducible apply State.onCanvas_keeps | with_reducible intro _
    | with_reducible apply State.Keeps.ite | split | dsimp only | assumption

theorem State.setLayer_keeps {s0 s : State} (h : s0.Keeps s) {h' l new} : s0.Keeps (State.setLayer s h' l new) := by
  unfold State.setLayer
  repeat'
    first
    | with_reducible assumption | with_reducible apply State.showRt_keeps
    | with_reducible apply State.reportHold_keeps | with_reducible apply State.onLayer_keeps
    | with_reducible apply State.resetRecurrent_keeps | with_reducible intro _
    | with_reducible apply State.Keeps.ite | split | dsimp only | assumption

theorem State.layerBoundary_keeps {s0 s : State} (h : s0.Keeps s) {h' l} : s0.Keeps (State.layerBoundary s h' l) := by
  unfold State.layerBoundary
  repeat'
    first
    | with_reducible assumption | with_reducible apply State.onLayer_keeps
    | with_reducible apply State.setLayer_keeps | with_reducible intro _ | with_reducible apply State.Keeps.ite
    | split | dsimp only | assumption

theorem State.retimeCanvas_keeps {s0 s : State} (h : s0.Keeps s) {cv again} : s0.Keeps (State.retimeCanvas s cv again) := by
  unfold State.retimeCanvas
  repeat'
    first
    | with_reducible assumption | with_reducible apply State.onCanvas_keeps
    | with_reducible apply State.setLayer_keeps | with_reducible intro _ | with_reducible apply State.Keeps.ite
    | with_reducible apply State.Keeps.foldl | split | dsimp only | assumption

theorem State.retimePorts_keeps {s0 s : State} (h : s0.Keeps s) {h'} : s0.Keeps (State.retimePorts s h') := by
  unfold State.retimePorts
  repeat'
    first
    | with_reducible assumption | with_reducible apply State.setLayer_keeps | with_reducible intro _
    | with_reducible apply State.Keeps.foldl | with_reducible apply Die.wf_foldl | split | dsimp only | assumption

theorem State.fillInputs_keeps {s0 s : State} (h : s0.Keeps s) {cv frame} : s0.Keeps (State.fillInputs s cv frame) := by
  unfold State.fillInputs
  repeat'
    first
    | with_reducible assumption | with_reducible apply State.onCanvas_keeps | with_reducible intro _
    | with_reducible apply State.Keeps.ite | with_reducible apply State.Keeps.foldl | split | dsimp only
    | assumption

theorem State.writeFrec_keeps {s0 s : State} (h : s0.Keeps s) {cv frame info} : s0.Keeps (State.writeFrec s cv frame info) := by
  unfold State.writeFrec
  repeat'
    first
    | with_reducible assumption | with_reducible apply State.onCanvas_keeps | with_reducible intro _
    | with_reducible apply State.Keeps.ite | split | dsimp only | assumption

theorem State.spoil_keeps {s0 s : State} (h : s0.Keeps s) {d q j} : s0.Keeps (State.spoil s d q j) := by
  unfold State.spoil
  repeat'
    first
    | with_reducible assumption | with_reducible apply State.onSource_keeps | with_reducible intro _
    | with_reducible apply State.Keeps.ite | split | dsimp only | assumption

theorem State.layerLate_keeps {s0 s : State} (h : s0.Keeps s) {c l stripe q} :
    s0.Keeps (State.layerLate s c l stripe q) := by
  unfold State.layerLate
  repeat'
    first
    | with_reducible assumption | with_reducible apply State.onLayer_keeps | with_reducible intro _
    | with_reducible apply State.Keeps.foldl | fail_if_no_progress with_reducible refine State.Keeps.copy ?_
    | with_reducible apply Die.wf_foldl | fail_if_no_progress with_reducible refine Die.wf_copy ?_ | dsimp only
    | assumption

theorem State.resampleStripe_keeps {s0 s : State} (h : s0.Keeps s) {cv h' e stripe inp} : s0.Keeps (State.resampleStripe s cv h' e stripe inp) := by
  unfold State.resampleStripe
  repeat'
    first
    | with_reducible assumption | with_reducible apply State.onCanvas_keeps
    | with_reducible apply State.layerLate_keeps | with_reducible apply State.countRaise_keeps
    | with_reducible apply State.onLayer_keeps | with_reducible apply State.spoil_keeps
    | with_reducible apply State.raise_keeps | with_reducible apply State.count_keeps | with_reducible intro _
    | with_reducible apply State.Keeps.ite | split | dsimp only | assumption

end Sys2Proof.Machine
end

