-- ==== Sys2Proof/Laws/KeepsCompose.lean ====
section
/-! SUPPORT. What the operations of Compose.lean keep. -/

namespace Sys2Proof.Machine

theorem State.partsRead_keeps {s0 s : State} (h : s0.Keeps s) {h' line} : s0.Keeps (State.partsRead s h' line) := by
  unfold State.partsRead
  repeat'
    first
    | with_reducible assumption | with_reducible apply State.onCanvas_keeps | with_reducible intro _
    | with_reducible apply State.Keeps.ite | split | dsimp only | assumption

theorem State.portVectors_keeps {s0 s : State} (h : s0.Keeps s) {h badVector} :
    s0.Keeps (State.portVectors s h badVector) := by
  unfold State.portVectors
  repeat'
    first
    | with_reducible assumption | with_reducible apply State.onLayer_keeps
    | with_reducible apply State.countRaise_keeps | with_reducible intro _
    | with_reducible apply State.Keeps.foldl | fail_if_no_progress with_reducible refine State.Keeps.copy ?_
    | with_reducible apply Die.wf_foldl | fail_if_no_progress with_reducible refine Die.wf_copy ?_ | dsimp only
    | assumption

theorem State.fetchLine_keeps {s0 s : State} (h : s0.Keeps s) {h line badRows badVector} :
    s0.Keeps (State.fetchLine s h line badRows badVector) := by
  unfold State.fetchLine
  repeat'
    first
    | with_reducible assumption | with_reducible apply State.portVectors_keeps
    | with_reducible apply HostSide.count_ok | with_reducible apply Die.count_wf
    | with_reducible apply State.count_keeps | with_reducible apply State.raise_keeps
    | with_reducible apply HostSide.raise_ok | with_reducible apply onDie_keeps
    | with_reducible apply State.partsRead_keeps | with_reducible intro _ | with_reducible apply State.Keeps.ite
    | fail_if_no_progress with_reducible refine State.Keeps.copy ?_
    | fail_if_no_progress with_reducible refine Die.wf_copy ?_ | split | dsimp only | assumption

theorem State.wbLine_keeps {s0 s : State} (h : s0.Keeps s) {h' line px accept} : s0.Keeps (State.wbLine s h' line px accept) := by
  unfold State.wbLine
  repeat'
    first
    | with_reducible assumption | with_reducible apply onDie_keeps | with_reducible apply Die.copyIn_wf
    | with_reducible apply State.raiseHead_keeps | with_reducible apply State.count_keeps | with_reducible intro _
    | with_reducible apply State.Keeps.ite | fail_if_no_progress with_reducible refine Die.wf_copy ?_ | split
    | dsimp only | assumption

theorem State.scanLine_keeps {s0 s : State} (h : s0.Keeps s) {h' line accept} : s0.Keeps (State.scanLine s h' line accept) := by
  unfold State.scanLine
  repeat'
    first
    | with_reducible assumption | with_reducible apply onDie_keeps | with_reducible apply State.setReg_keeps
    | with_reducible apply State.wbLine_keeps | with_reducible intro _
    | fail_if_no_progress with_reducible refine Die.wf_copy ?_ | split | dsimp only | assumption

theorem State.aplUpdate_keeps {s0 s : State} (h : s0.Keeps s) {h'} : s0.Keeps (State.aplUpdate s h') := by
  unfold State.aplUpdate
  repeat'
    first
    | with_reducible assumption | with_reducible apply State.setReg_keeps | with_reducible apply onDie_keeps
    | with_reducible apply State.raise_keeps | with_reducible intro _ | with_reducible apply State.Keeps.ite
    | fail_if_no_progress with_reducible refine Die.wf_copy ?_ | split | dsimp only | assumption

end Sys2Proof.Machine
end

