-- ==== Sys2Proof/Laws/KeepsCommit.lean ====
section
/-! SUPPORT. What the operations of Commit.lean keep. -/

namespace Sys2Proof.Machine

theorem Die.latched_wf {x : Die} (h : x.wf = true) : (Die.latched x).wf = true := by
  unfold Die.latched
  generalize shadowOffs = l
  rw [Die.wf_iff] at h ⊢
  exact ⟨h.1, foldl_inv (P := fun m => sWf regReset m = true) (fun _ _ k => sWf_sSet _ _ k) h.2.1, h.2.2⟩

theorem Die.showCommit_wf {x : Die} (h : x.wf = true) : (Die.showCommit x).wf = true := by
  unfold Die.showCommit
  repeat'
    first
    | with_reducible assumption | with_reducible apply setReg_wf | with_reducible intro _ | dsimp only | assumption

theorem Die.showLink_wf {x : Die} (h : x.wf = true) : (Die.showLink x).wf = true := by
  unfold Die.showLink
  repeat'
    first
    | with_reducible assumption | with_reducible apply Die.setField_wf
    | with_reducible apply State.setField_keeps | with_reducible intro _ | dsimp only | assumption

theorem State.onCommit_keeps {s0 s : State} (h : s0.Keeps s) {h' f} : s0.Keeps (State.onCommit s h' f) := by
  unfold State.onCommit
  repeat'
    first
    | with_reducible assumption | with_reducible apply onDie_keeps | with_reducible apply Die.showCommit_wf
    | with_reducible intro _ | fail_if_no_progress with_reducible refine Die.wf_copy ?_ | dsimp only | assumption

theorem State.refuseCommit_keeps {s0 s : State} (h : s0.Keeps s) {h' st} : s0.Keeps (State.refuseCommit s h' st) := by
  unfold State.refuseCommit
  repeat'
    first
    | with_reducible assumption | with_reducible apply State.raiseHead_keeps
    | with_reducible apply State.onCommit_keeps | with_reducible intro _ | dsimp only | assumption

theorem State.acceptCommit_keeps {s0 s : State} (h : s0.Keeps s) {h' span} : s0.Keeps (State.acceptCommit s h' span) := by
  unfold State.acceptCommit
  repeat'
    first
    | with_reducible assumption | with_reducible apply State.onCommit_keeps | with_reducible intro _ | dsimp only
    | assumption

theorem fxCommit_keeps {s0 s : State} (h : s0.Keeps s) {h'} : s0.Keeps (fxCommit h' s) := by
  unfold fxCommit
  repeat'
    first
    | with_reducible assumption | with_reducible apply State.acceptCommit_keeps
    | with_reducible apply State.refuseCommit_keeps | with_reducible intro _ | with_reducible apply State.Keeps.ite
    | split | dsimp only | assumption

theorem fxCommitSpan_keeps {s0 s : State} (h : s0.Keeps s) {h'} : s0.Keeps (fxCommitSpan h' s) := by
  unfold fxCommitSpan
  repeat'
    first
    | with_reducible assumption | with_reducible apply State.refuseCommit_keeps
    | with_reducible apply State.acceptCommit_keeps | with_reducible intro _ | with_reducible apply State.Keeps.ite
    | with_reducible apply State.Keeps.foldl | split | dsimp only | assumption

theorem State.lockedWrite_keeps {s0 s : State} (h : s0.Keeps s) {d apply} (happly : ∀ x : Die, x.wf = true → (apply x).wf = true) : s0.Keeps (State.lockedWrite s d apply) := by
  unfold State.lockedWrite
  repeat'
    first
    | with_reducible assumption | with_reducible apply State.raiseHead_keeps | with_reducible apply onDie_keeps
    | with_reducible apply happly | with_reducible intro _ | with_reducible apply State.Keeps.ite | split
    | dsimp only | assumption

theorem fxCmpLutDataWrite_keeps {s0 s : State} (h : s0.Keeps s) {d value} : s0.Keeps (fxCmpLutDataWrite d value s) := by
  unfold fxCmpLutDataWrite
  repeat'
    first
    | with_reducible assumption | with_reducible apply State.lockedWrite_keeps
    | with_reducible apply Die.setField_wf | with_reducible intro _ | with_reducible apply State.Keeps.ite
    | fail_if_no_progress with_reducible refine Die.wf_copy ?_ | split | dsimp only | assumption

theorem fxCmpCoefDataWrite_keeps {s0 s : State} (h : s0.Keeps s) {d value} : s0.Keeps (fxCmpCoefDataWrite d value s) := by
  unfold fxCmpCoefDataWrite
  repeat'
    first
    | with_reducible assumption | with_reducible apply State.lockedWrite_keeps
    | with_reducible apply Die.setField_wf | with_reducible intro _
    | fail_if_no_progress with_reducible refine Die.wf_copy ?_ | dsimp only | assumption

theorem State.dropLink_keeps {s0 s : State} (h : s0.Keeps s) {h'} : s0.Keeps (State.dropLink s h') := by
  unfold State.dropLink
  repeat'
    first
    | with_reducible assumption | with_reducible apply onDie_keeps | with_reducible apply Die.setField_wf
    | with_reducible apply State.raiseHead_keeps | with_reducible intro _ | with_reducible apply State.Keeps.ite
    | fail_if_no_progress with_reducible refine Die.wf_copy ?_ | split | dsimp only | assumption

theorem Die.freshLayers_wf {x : Die} (h : x.wf = true) {old} : (Die.freshLayers old x).wf = true := by
  unfold Die.freshLayers
  repeat'
    first
    | with_reducible assumption | with_reducible intro _ | fail_if_no_progress with_reducible refine Die.wf_copy ?_
    | split | dsimp only | assumption

theorem State.latchCommit_keeps {s0 s : State} (h : s0.Keeps s) {h} : s0.Keeps (State.latchCommit s h) := by
  unfold State.latchCommit
  repeat'
    first
    | with_reducible assumption | with_reducible apply onDie_keeps | with_reducible apply Die.freshLayers_wf
    | with_reducible apply Die.latched_wf | with_reducible apply Die.showCommit_wf
    | with_reducible apply Die.showLink_wf | with_reducible apply State.raiseHead_keeps
    | with_reducible apply State.recordEvent_keeps | with_reducible apply State.dropLink_keeps
    | with_reducible intro _ | with_reducible apply State.Keeps.ite
    | fail_if_no_progress with_reducible refine State.Keeps.copy ?_
    | fail_if_no_progress with_reducible refine Die.wf_copy ?_ | split | dsimp only | assumption

end Sys2Proof.Machine
end

