-- ==== Sys2Proof/Laws/KeepsStepRec.lean ====
section
/-! SUPPORT. What the operations of StepRec.lean keep. -/

namespace Sys2Proof.Machine

theorem State.postSummary_keeps {s0 s : State} (h : s0.Keeps s) {c h'} : s0.Keeps (State.postSummary s c h') := by
  unfold State.postSummary
  repeat'
    first
    | with_reducible assumption | with_reducible apply onHost_keeps | with_reducible apply HostSide.postEvents_ok
    | with_reducible intro _ | with_reducible apply State.Keeps.foldl | with_reducible apply HostSide.ok_foldl
    | dsimp only | assumption

theorem State.recordStep_keeps {s0 s : State} (h : s0.Keeps s) {c} : s0.Keeps (State.recordStep s c) := by
  unfold State.recordStep
  repeat'
    first
    | with_reducible assumption | with_reducible apply State.record_keeps | with_reducible intro _
    | with_reducible apply State.Keeps.ite | split | dsimp only | assumption

theorem State.recordOutput_keeps {s0 s : State} (h : s0.Keeps s) {c h' step crcs} : s0.Keeps (State.recordOutput s c h' step crcs) := by
  unfold State.recordOutput
  repeat'
    first
    | with_reducible assumption | with_reducible apply State.record_keeps | with_reducible intro _
    | with_reducible apply State.Keeps.ite | split | dsimp only | assumption

theorem State.loadRetiming_keeps {s0 s : State} (h : s0.Keeps s) {c d pl} :
    s0.Keeps (State.loadRetiming s c d pl) := by
  unfold State.loadRetiming
  repeat'
    first
    | with_reducible assumption | with_reducible apply onDie_keeps | with_reducible intro _
    | with_reducible apply State.Keeps.ite | with_reducible apply State.Keeps.foldl
    | fail_if_no_progress with_reducible refine State.Keeps.copy ?_ | with_reducible apply Die.wf_foldl
    | fail_if_no_progress with_reducible refine Die.wf_copy ?_ | split | dsimp only | assumption

theorem State.copyCkpt_keeps {s0 s : State} (h : s0.Keeps s) {cv d frame} :
    s0.Keeps (State.copyCkpt s cv d frame) := by
  unfold State.copyCkpt
  repeat'
    first
    | with_reducible assumption | with_reducible apply State.recordGap_keeps
    | with_reducible apply State.record_keeps | with_reducible apply State.onCanvas_keeps
    | with_reducible apply onDie_keeps | with_reducible apply Die.setWide_wf
    | with_reducible apply State.raise_keeps | with_reducible apply HostSide.raise_ok | with_reducible intro _
    | with_reducible apply State.Keeps.ite | with_reducible apply State.Keeps.foldl
    | fail_if_no_progress with_reducible refine State.Keeps.copy ?_ | with_reducible apply Die.wf_foldl
    | fail_if_no_progress with_reducible refine Die.wf_copy ?_ | split | dsimp only | assumption

theorem State.lateCkpts_keeps {s0 s : State} (h : s0.Keeps s) {cv frame} :
    s0.Keeps (State.lateCkpts s cv frame) := by
  unfold State.lateCkpts
  repeat'
    first
    | with_reducible assumption | with_reducible apply State.copyCkpt_keeps | with_reducible intro _
    | with_reducible apply State.Keeps.ite | with_reducible apply State.Keeps.foldl
    | with_reducible apply Die.wf_foldl | fail_if_no_progress with_reducible refine Die.wf_copy ?_ | split
    | dsimp only | assumption

theorem State.endOld_keeps {s0 s : State} (h : s0.Keeps s) {cv frame} : s0.Keeps (State.endOld s cv frame) := by
  unfold State.endOld
  repeat'
    first
    | with_reducible assumption | with_reducible apply State.abandonLate_keeps
    | with_reducible apply State.lateCkpts_keeps | with_reducible intro _ | dsimp only | assumption

theorem State.releaseLive_keeps {s0 s : State} (h : s0.Keeps s) {cv frame stripe} :
    s0.Keeps (State.releaseLive s cv frame stripe) := by
  unfold State.releaseLive
  repeat'
    first
    | with_reducible assumption | with_reducible apply State.endOld_keeps
    | with_reducible apply State.releaseStripe_keeps | with_reducible intro _
    | with_reducible apply State.Keeps.ite | split | dsimp only | assumption

theorem fxCheckpointCopy_keeps {s0 s : State} (h : s0.Keeps s) {d cv} : s0.Keeps (fxCheckpointCopy d cv s) := by
  unfold fxCheckpointCopy
  repeat'
    first
    | with_reducible assumption | with_reducible apply State.copyCkpt_keeps | with_reducible intro _
    | with_reducible apply State.Keeps.ite | fail_if_no_progress with_reducible refine Die.wf_copy ?_ | split
    | dsimp only | assumption

end Sys2Proof.Machine
end

