-- ==== Sys2Proof/Laws/KeepsBind.lean ====
section
/-! SUPPORT. What the operations of Bind.lean keep. -/

namespace Sys2Proof.Machine

theorem State.placeFailed_keeps {s0 s : State} (h : s0.Keeps s) {f binding} : s0.Keeps (State.placeFailed s f binding) := by
  unfold State.placeFailed
  repeat'
    first
    | with_reducible assumption | with_reducible apply State.countRaise_keeps
    | with_reducible apply State.setReg_keeps | with_reducible intro _ | dsimp only | assumption

theorem State.placeDone_keeps {s0 s : State} (h : s0.Keeps s) {rewrites} : s0.Keeps (State.placeDone s rewrites) := by
  unfold State.placeDone
  repeat'
    first
    | with_reducible assumption | with_reducible apply State.count_keeps | with_reducible apply State.raise_keeps
    | with_reducible intro _ | with_reducible apply State.Keeps.ite | split | dsimp only | assumption

theorem State.report_keeps {s0 s : State} (h : s0.Keeps s) {addr ops} : s0.Keeps (State.report s addr ops) := by
  unfold State.report
  repeat'
    first
    | with_reducible assumption | with_reducible apply writeHost_keeps | with_reducible intro _
    | with_reducible apply State.Keeps.ite | split | dsimp only | assumption

theorem fxAdmitBundle_keeps {s0 s : State} (h : s0.Keeps s) {h' bundle len report data} : s0.Keeps (fxAdmitBundle h' bundle len report data s) := by
  unfold fxAdmitBundle
  repeat'
    first
    | with_reducible assumption | with_reducible apply State.descriptor_keeps
    | with_reducible apply State.placeFailed_keeps | with_reducible apply onHost_keeps
    | with_reducible apply onFn_ok | with_reducible apply State.placeDone_keeps
    | with_reducible apply State.report_keeps | with_reducible intro _ | with_reducible apply State.Keeps.ite
    | fail_if_no_progress with_reducible refine State.Keeps.copy ?_
    | fail_if_no_progress with_reducible refine Fn.wf_copy ?_ | split | dsimp only | assumption

theorem State.makeContexts_keeps {s0 s : State} (h : s0.Keeps s) {c env} :
    s0.Keeps (State.makeContexts s c env) := by
  unfold State.makeContexts
  repeat'
    first
    | with_reducible assumption | with_reducible apply onDies_keeps | with_reducible intro _
    | with_reducible apply State.Keeps.foldl | fail_if_no_progress with_reducible refine State.Keeps.copy ?_
    | with_reducible apply Die.wf_foldl | fail_if_no_progress with_reducible refine Die.wf_copy ?_ | split
    | dsimp only | assumption

theorem Die.withPools_wf {x : Die} (h : x.wf = true) {c env d} : (Die.withPools x c env d).wf = true := by
  unfold Die.withPools
  repeat'
    first
    | with_reducible assumption | with_reducible intro _ | with_reducible apply Die.wf_foldl
    | fail_if_no_progress with_reducible refine Die.wf_copy ?_ | split | dsimp only | assumption

theorem Die.placed_wf {x : Die} (h : x.wf = true) {c env p} : (Die.placed x c env p).wf = true := by
  unfold Die.placed
  repeat'
    first
    | with_reducible assumption | with_reducible apply Die.withPools_wf | with_reducible apply Die.syncPool_wf
    | with_reducible apply Die.setField_wf | with_reducible apply State.setField_keeps
    | with_reducible apply State.setReg_keeps | with_reducible apply setReg_wf
    | with_reducible apply hostSetReg_ok | with_reducible intro _
    | fail_if_no_progress with_reducible refine Die.wf_copy ?_ | dsimp only | assumption

theorem State.placeCanvas_keeps {s0 s : State} (h : s0.Keeps s) {c env ps} :
    s0.Keeps (State.placeCanvas s c env ps) := by
  unfold State.placeCanvas
  repeat'
    first
    | with_reducible assumption | with_reducible apply onDie_keeps | with_reducible apply Die.placed_wf
    | with_reducible apply State.raise_keeps | with_reducible apply HostSide.raise_ok | with_reducible intro _
    | with_reducible apply State.Keeps.ite | with_reducible apply State.Keeps.foldl
    | with_reducible apply Die.wf_foldl | split | dsimp only | assumption

theorem Die.force2_wf {x : Die} (h : x.wf = true) {off hi lo v} : (Die.force2 x off hi lo v).wf = true := by
  unfold Die.force2
  repeat'
    first
    | with_reducible assumption | with_reducible apply Die.setField_wf | with_reducible intro _
    | with_reducible apply putForce_wf | fail_if_no_progress with_reducible refine Die.wf_copy ?_ | dsimp only
    | assumption

theorem Canvas.setLayerRegs_wf {x : Die} (h : x.wf = true) {c e} : (Canvas.setLayerRegs c e x).wf = true := by
  unfold Canvas.setLayerRegs
  repeat'
    first
    | with_reducible assumption | with_reducible apply Die.force2_wf | with_reducible intro _
    | fail_if_no_progress with_reducible refine Die.wf_copy ?_ | dsimp only | assumption

theorem State.bindHeads_keeps {s0 s : State} (h : s0.Keeps s) {c} : s0.Keeps (State.bindHeads s c) := by
  unfold State.bindHeads
  repeat'
    first
    | with_reducible assumption | with_reducible apply onDies_keeps | with_reducible apply Canvas.setLayerRegs_wf
    | with_reducible apply State.refuseCommit_keeps | with_reducible apply Die.setField_wf | with_reducible intro _
    | with_reducible apply State.Keeps.ite | with_reducible apply State.Keeps.foldl
    | with_reducible apply Die.wf_foldl | fail_if_no_progress with_reducible refine Die.wf_copy ?_ | split
    | dsimp only | assumption

theorem State.barrierObjs_keeps {s0 s : State} (h : s0.Keeps s) {e t} (k : s.barrierObjs e = some t) : s0.Keeps t.1 := by
  refine foldl_inv (P := fun o => ∀ t, o = some t → s0.Keeps t.1) ?_ (fun t e => by cases e; exact h) t k
  intro acc d ha t et
  obtain ⟨⟨s1, l⟩, e1, k⟩ := Option.bind_eq_some_iff.1 et
  have h1 : s0.Keeps s1 := ha _ e1
  dsimp only at k
  split at k
  · cases k; exact h1
  · obtain ⟨⟨t1, a⟩, _, k⟩ := Option.bind_eq_some_iff.1 k
    obtain ⟨⟨t2, r⟩, _, k⟩ := Option.map_eq_some_iff.1 k
    cases k
    exact onDie_keeps h1 _ fun _ hx => Die.wf_copy hx

theorem State.makeBarriers_keeps {s0 s : State} (h : s0.Keeps s) {c} : s0.Keeps (State.makeBarriers s c) := by
  unfold State.makeBarriers
  repeat'
    first
    | with_reducible assumption | exact State.barrierObjs_keeps (by assumption) ‹_› | with_reducible intro _
    | with_reducible apply State.Keeps.ite | with_reducible apply State.Keeps.foldl
    | fail_if_no_progress with_reducible refine State.Keeps.copy ?_ | with_reducible apply Die.wf_foldl
    | fail_if_no_progress with_reducible refine Die.wf_copy ?_ | split | dsimp only | assumption

theorem State.bindCanvas_keeps {s0 s : State} (h : s0.Keeps s) {p} : s0.Keeps (State.bindCanvas s p) := by
  unfold State.bindCanvas
  repeat'
    first
    | with_reducible assumption | with_reducible apply State.makeContexts_keeps
    | with_reducible apply State.placeCanvas_keeps | with_reducible apply State.loadRetiming_keeps
    | with_reducible apply State.makeBarriers_keeps | with_reducible apply State.bindHeads_keeps
    | with_reducible apply State.syncReplay_keeps | with_reducible apply State.record_keeps
    | with_reducible intro _ | fail_if_no_progress with_reducible refine State.Keeps.copy ?_
    | fail_if_no_progress with_reducible refine Die.wf_copy ?_ | split | dsimp only | assumption

theorem fxBind_keeps {s0 s : State} (h : s0.Keeps s) {h' block len report data} : s0.Keeps (fxBind h' block len report data s) := by
  unfold fxBind
  repeat'
    first
    | with_reducible assumption | with_reducible apply State.descriptor_keeps
    | with_reducible apply State.placeFailed_keeps | with_reducible apply State.placeDone_keeps
    | with_reducible apply State.report_keeps | with_reducible apply State.bindCanvas_keeps
    | with_reducible intro _ | with_reducible apply State.Keeps.ite | split | dsimp only | assumption

end Sys2Proof.Machine
end

