-- ==== Sys2Proof/Laws/KeepsOpChange.lean ====
section
/-! SUPPORT. What the operations of OpChange.lean keep. -/

namespace Sys2Proof.Machine

theorem State.rePlace_keeps {s0 s : State} (h : s0.Keeps s) {c} : s0.Keeps (State.rePlace s c) := by
  unfold State.rePlace
  repeat'
    first
    | with_reducible assumption | with_reducible apply State.releasePlaces_keeps
    | with_reducible apply State.freeBarriers_keeps | with_reducible apply State.destroyCtx_keeps
    | with_reducible apply State.makeContexts_keeps | with_reducible apply State.placeCanvas_keeps
    | with_reducible apply State.onCanvas_keeps | with_reducible apply State.makeBarriers_keeps
    | with_reducible intro _ | with_reducible apply State.Keeps.ite | with_reducible apply State.Keeps.foldl
    | split | dsimp only | assumption

theorem State.showPoint_keeps {s0 s : State} (h : s0.Keeps s) : s0.Keeps (State.showPoint s) := by
  unfold State.showPoint
  repeat'
    first
    | with_reducible assumption | with_reducible apply onDies_keeps | with_reducible apply Die.setField_wf
    | with_reducible apply State.setField_keeps | with_reducible apply State.recordConfigs_keeps
    | with_reducible intro _ | with_reducible apply State.Keeps.ite | split | dsimp only | assumption

theorem State.latchPoint_keeps {s0 s : State} (h : s0.Keeps s) {p} : s0.Keeps (State.latchPoint s p) := by
  unfold State.latchPoint
  repeat'
    first
    | with_reducible assumption | with_reducible apply State.inOneCycle_keeps
    | with_reducible apply onDies_keeps | with_reducible apply State.recordEvent_keeps
    | with_reducible apply State.showPoint_keeps | with_reducible apply State.rePlace_keeps
    | with_reducible apply State.raise_keeps | with_reducible apply HostSide.raise_ok | with_reducible intro _
    | with_reducible apply State.Keeps.ite | with_reducible apply State.Keeps.foldl
    | fail_if_no_progress with_reducible refine State.Keeps.copy ?_ | with_reducible apply Die.wf_foldl
    | fail_if_no_progress with_reducible refine Die.wf_copy ?_ | split | dsimp only | assumption

theorem State.tryLatch_keeps {s0 s : State} (h : s0.Keeps s) {but} : s0.Keeps (State.tryLatch s but) := by
  unfold State.tryLatch
  repeat'
    first
    | with_reducible assumption | with_reducible apply State.latchPoint_keeps | with_reducible intro _
    | with_reducible apply State.Keeps.ite | fail_if_no_progress with_reducible refine Die.wf_copy ?_ | split
    | dsimp only | assumption

theorem State.opBoundary_keeps {s0 s : State} (h : s0.Keeps s) {h} : s0.Keeps (State.opBoundary s h) := by
  unfold State.opBoundary
  repeat'
    first
    | with_reducible assumption | with_reducible apply State.tryLatch_keeps | with_reducible apply onDie_keeps
    | with_reducible intro _ | fail_if_no_progress with_reducible refine State.Keeps.copy ?_
    | fail_if_no_progress with_reducible refine Die.wf_copy ?_ | dsimp only | assumption

theorem State.beginChange_keeps {s0 s : State} (h : s0.Keeps s) {p} : s0.Keeps (State.beginChange s p) := by
  unfold State.beginChange
  repeat'
    first
    | with_reducible assumption | with_reducible apply State.tryLatch_keeps | with_reducible intro _
    | with_reducible apply State.Keeps.ite | fail_if_no_progress with_reducible refine State.Keeps.copy ?_
    | fail_if_no_progress with_reducible refine Die.wf_copy ?_ | split | dsimp only | assumption

theorem State.requestOp_keeps {s0 s : State} (h : s0.Keeps s) {d p} : s0.Keeps (State.requestOp s d p) := by
  unfold State.requestOp
  repeat'
    first
    | with_reducible assumption | with_reducible apply State.raise_keeps
    | with_reducible apply State.beginChange_keeps | with_reducible intro _ | with_reducible apply State.Keeps.ite
    | split | dsimp only | assumption

theorem fxAvsAck_keeps {s0 s : State} (h : s0.Keeps s) {d} : s0.Keeps (fxAvsAck d s) := by
  unfold fxAvsAck
  repeat'
    first
    | with_reducible assumption | with_reducible apply Die.setField_wf
    | with_reducible apply State.setField_keeps | with_reducible apply State.tryLatch_keeps
    | with_reducible intro _ | with_reducible apply State.Keeps.ite
    | fail_if_no_progress with_reducible refine State.Keeps.copy ?_
    | fail_if_no_progress with_reducible refine Die.wf_copy ?_ | split | dsimp only | assumption

theorem fxAvsTimeout_keeps {s0 s : State} (h : s0.Keeps s) {d} : s0.Keeps (fxAvsTimeout d s) := by
  unfold fxAvsTimeout
  repeat'
    first
    | with_reducible assumption | with_reducible apply State.raise_keeps | with_reducible intro _
    | with_reducible apply State.Keeps.ite | fail_if_no_progress with_reducible refine State.Keeps.copy ?_ | split
    | dsimp only | assumption

end Sys2Proof.Machine
end

