-- ==== Sys2Proof/Laws/KeepsSfn.lean ====
section
/-! SUPPORT. What the operations of Sfn.lean keep. -/

namespace Sys2Proof.Machine

theorem State.onSfn_keeps {s0 s : State} (h : s0.Keeps s) {d f} : s0.Keeps (State.onSfn s d f) := by
  unfold State.onSfn
  repeat'
    first
    | with_reducible assumption | with_reducible apply onDie_keeps | with_reducible intro _
    | fail_if_no_progress with_reducible refine Die.wf_copy ?_ | dsimp only | assumption

theorem State.driveFault_keeps {s0 s : State} (h : s0.Keeps s) {d c} : s0.Keeps (State.driveFault s d c) := by
  unfold State.driveFault
  repeat'
    first
    | with_reducible assumption | with_reducible apply State.onSfn_keeps | with_reducible intro _
    | with_reducible apply State.Keeps.ite | split | dsimp only | assumption

theorem Die.stopStreams_wf {x : Die} (h : x.wf = true) : (Die.stopStreams x).wf = true := by
  unfold Die.stopStreams
  repeat'
    first
    | with_reducible assumption | with_reducible intro _ | fail_if_no_progress with_reducible refine Die.wf_copy ?_
    | dsimp only | assumption

theorem State.stopNeural_keeps {s0 s : State} (h : s0.Keeps s) {d} : s0.Keeps (State.stopNeural s d) := by
  unfold State.stopNeural
  repeat'
    first
    | with_reducible assumption | with_reducible apply State.abandonWork_keeps
    | with_reducible apply State.skipStep_keeps | with_reducible apply State.onCanvas_keeps
    | with_reducible apply onDie_keeps | with_reducible apply Die.stopStreams_wf | with_reducible intro _
    | with_reducible apply State.Keeps.foldl | with_reducible apply Die.wf_foldl | split | dsimp only | assumption

theorem State.abortSaves_keeps {s0 s : State} (h : s0.Keeps s) {d} : s0.Keeps (State.abortSaves s d) := by
  unfold State.abortSaves
  repeat'
    first
    | with_reducible assumption | with_reducible apply State.abortSave_keeps | with_reducible intro _
    | with_reducible apply State.Keeps.foldl | dsimp only | assumption

theorem State.enterSafe_keeps {s0 s : State} (h : s0.Keeps s) {d} : s0.Keeps (State.enterSafe s d) := by
  unfold State.enterSafe
  repeat'
    first
    | with_reducible assumption | with_reducible apply State.onSfn_keeps
    | with_reducible apply State.abortSaves_keeps | with_reducible apply State.raise_keeps
    | with_reducible apply State.driveFault_keeps | with_reducible apply State.stopNeural_keeps
    | with_reducible intro _ | with_reducible apply State.Keeps.ite | split | dsimp only | assumption

theorem State.applyThreshold_keeps {s0 s : State} (h : s0.Keeps s) {d e} : s0.Keeps (State.applyThreshold s d e) := by
  unfold State.applyThreshold
  repeat'
    first
    | with_reducible assumption | with_reducible apply State.setReg_keeps | with_reducible intro _
    | with_reducible apply State.Keeps.ite | fail_if_no_progress with_reducible refine State.Keeps.copy ?_ | split
    | dsimp only | assumption

theorem State.latchThresholds_keeps {s0 s : State} (h : s0.Keeps s) {d} : s0.Keeps (State.latchThresholds s d) := by
  unfold State.latchThresholds
  repeat'
    first
    | with_reducible assumption | with_reducible apply State.applyThreshold_keeps
    | with_reducible apply State.onSfn_keeps | with_reducible intro _ | with_reducible apply State.Keeps.ite
    | with_reducible apply State.Keeps.foldl | split | dsimp only | assumption

theorem State.settingWrite_keeps {s0 s : State} (h : s0.Keeps s) {d off ch old value} : s0.Keeps (State.settingWrite s d off ch old value) := by
  unfold State.settingWrite
  repeat'
    first
    | with_reducible assumption | with_reducible apply State.roleDenied_keeps
    | with_reducible apply State.raise_keeps | with_reducible apply State.guardedWrite_keeps
    | with_reducible apply State.onSfn_keeps | with_reducible apply State.applyThreshold_keeps
    | with_reducible intro _ | with_reducible apply State.Keeps.ite | split | dsimp only | assumption

theorem fxSfnTMeanWrite_keeps {s0 s : State} (h : s0.Keeps s) {d value} : s0.Keeps (fxSfnTMeanWrite d value s) := by
  unfold fxSfnTMeanWrite
  repeat'
    first
    | with_reducible assumption | with_reducible apply State.settingWrite_keeps | with_reducible intro _
    | dsimp only | assumption

theorem fxSfnTMaxWrite_keeps {s0 s : State} (h : s0.Keeps s) {d value} : s0.Keeps (fxSfnTMaxWrite d value s) := by
  unfold fxSfnTMaxWrite
  repeat'
    first
    | with_reducible assumption | with_reducible apply State.settingWrite_keeps | with_reducible intro _
    | dsimp only | assumption

theorem fxSfnHfWrite_keeps {s0 s : State} (h : s0.Keeps s) {d value} : s0.Keeps (fxSfnHfWrite d value s) := by
  unfold fxSfnHfWrite
  repeat'
    first
    | with_reducible assumption | with_reducible apply State.settingWrite_keeps | with_reducible intro _
    | dsimp only | assumption

theorem fxSfnTFlashWrite_keeps {s0 s : State} (h : s0.Keeps s) {d value} : s0.Keeps (fxSfnTFlashWrite d value s) := by
  unfold fxSfnTFlashWrite
  repeat'
    first
    | with_reducible assumption | with_reducible apply State.settingWrite_keeps | with_reducible intro _
    | dsimp only | assumption

theorem fxSfnCapWrite_keeps {s0 s : State} (h : s0.Keeps s) {d value} : s0.Keeps (fxSfnCapWrite d value s) := by
  unfold fxSfnCapWrite
  repeat'
    first
    | with_reducible assumption | with_reducible apply State.settingWrite_keeps | with_reducible intro _
    | dsimp only | assumption

theorem State.latchOff_keeps {s0 s : State} (h : s0.Keeps s) {d} : s0.Keeps (State.latchOff s d) := by
  unfold State.latchOff
  repeat'
    first
    | with_reducible assumption | with_reducible apply State.raise_keeps | with_reducible apply State.onSfn_keeps
    | with_reducible intro _ | dsimp only | assumption

theorem State.startRestart_keeps {s0 s : State} (h : s0.Keeps s) {d} : s0.Keeps (State.startRestart s d) := by
  unfold State.startRestart
  repeat'
    first
    | with_reducible assumption | with_reducible apply State.onSfn_keeps
    | with_reducible apply State.abortSaves_keeps | with_reducible apply State.recordEvent_keeps
    | with_reducible apply State.raise_keeps | with_reducible apply State.stopNeural_keeps
    | with_reducible apply State.latchOff_keeps | with_reducible intro _ | with_reducible apply State.Keeps.ite
    | split | dsimp only | assumption

theorem State.endRestart_keeps {s0 s : State} (h : s0.Keeps s) {d} : s0.Keeps (State.endRestart s d) := by
  unfold State.endRestart
  repeat'
    first
    | with_reducible assumption | with_reducible apply State.count_keeps | with_reducible apply State.onSfn_keeps
    | with_reducible apply State.resetRecurrent_keeps | with_reducible intro _
    | with_reducible apply State.Keeps.foldl | dsimp only | assumption

theorem State.restartBoundary_keeps {s0 s : State} (h : s0.Keeps s) {d} : s0.Keeps (State.restartBoundary s d) := by
  unfold State.restartBoundary
  repeat'
    first
    | with_reducible assumption | with_reducible apply State.endRestart_keeps | with_reducible intro _
    | with_reducible apply State.Keeps.ite | split | dsimp only | assumption

theorem fxRestartGateEnd_keeps {s0 s : State} (h : s0.Keeps s) {d} : s0.Keeps (fxRestartGateEnd d s) := by
  unfold fxRestartGateEnd
  repeat'
    first
    | with_reducible assumption | with_reducible apply onDie_keeps | with_reducible apply Die.stopStreams_wf
    | with_reducible intro _ | with_reducible apply State.Keeps.ite
    | fail_if_no_progress with_reducible refine Die.wf_copy ?_ | split | dsimp only | assumption

theorem fxRestartRestageDone_keeps {s0 s : State} (h : s0.Keeps s) {d} : s0.Keeps (fxRestartRestageDone d s) := by
  unfold fxRestartRestageDone
  repeat'
    first
    | with_reducible assumption | with_reducible apply onDie_keeps | with_reducible intro _
    | with_reducible apply State.Keeps.ite | with_reducible apply State.Keeps.foldl
    | with_reducible apply Die.wf_foldl | fail_if_no_progress with_reducible refine Die.wf_copy ?_ | split
    | dsimp only | assumption

theorem State.announce_keeps {s0 s : State} (h : s0.Keeps s) {d} : s0.Keeps (State.announce s d) := by
  unfold State.announce
  repeat'
    first
    | with_reducible assumption | with_reducible apply State.onCanvas_keeps | with_reducible intro _
    | with_reducible apply State.Keeps.foldl | dsimp only | assumption

theorem fxRestartInjectionDone_keeps {s0 s : State} (h : s0.Keeps s) {d untripped} : s0.Keeps (fxRestartInjectionDone d untripped s) := by
  unfold fxRestartInjectionDone
  repeat'
    first
    | with_reducible assumption | with_reducible apply State.setReg_keeps
    | with_reducible apply State.latchOff_keeps | with_reducible apply State.announce_keeps
    | with_reducible apply State.onSfn_keeps | with_reducible apply State.endRestart_keeps | with_reducible intro _
    | with_reducible apply State.Keeps.ite | split | dsimp only | assumption

theorem State.clearLatch_keeps {s0 s : State} (h : s0.Keeps s) {d} : s0.Keeps (State.clearLatch s d) := by
  unfold State.clearLatch
  repeat'
    first
    | with_reducible assumption | with_reducible apply State.startRestart_keeps
    | with_reducible apply State.onSfn_keeps | with_reducible intro _ | with_reducible apply State.Keeps.ite
    | split | dsimp only | assumption

theorem State.sfnCtrlWrite_keeps {s0 s : State} (h : s0.Keeps s) {d trigger apply} (happly : ∀ t : State, s0.Keeps t → s0.Keeps (apply t)) : s0.Keeps (State.sfnCtrlWrite s d trigger apply) := by
  unfold State.sfnCtrlWrite
  repeat'
    first
    | with_reducible assumption | with_reducible apply State.guardedWrite_keeps | with_reducible apply happly
    | with_reducible intro _ | dsimp only | assumption

theorem fxClearLatch_keeps {s0 s : State} (h : s0.Keeps s) {d} : s0.Keeps (fxClearLatch d s) := by
  unfold fxClearLatch
  repeat'
    first
    | with_reducible assumption | with_reducible apply State.sfnCtrlWrite_keeps
    | with_reducible apply State.clearLatch_keeps | with_reducible intro _ | dsimp only | assumption

theorem State.windowBoundary_keeps {s0 s : State} (h : s0.Keeps s) {d} : s0.Keeps (State.windowBoundary s d) := by
  unfold State.windowBoundary
  repeat'
    first
    | with_reducible assumption | with_reducible apply State.onSfn_keeps
    | with_reducible apply State.startRestart_keeps | with_reducible intro _ | with_reducible apply State.Keeps.ite
    | split | dsimp only | assumption

theorem State.startGolden_keeps {s0 s : State} (h : s0.Keeps s) {d step} : s0.Keeps (State.startGolden s d step) := by
  unfold State.startGolden
  repeat'
    first
    | with_reducible assumption | with_reducible apply State.onSfn_keeps
    | with_reducible apply State.onEngine_keeps | with_reducible intro _ | with_reducible apply State.Keeps.ite
    | split | dsimp only | assumption

theorem State.showDefer_keeps {s0 s : State} (h : s0.Keeps s) {d} : s0.Keeps (State.showDefer s d) := by
  unfold State.showDefer
  repeat'
    first
    | with_reducible assumption | with_reducible apply State.setField_keeps | with_reducible intro _ | dsimp only
    | assumption

theorem fxGoldenDefer_keeps {s0 s : State} (h : s0.Keeps s) {d} : s0.Keeps (fxGoldenDefer d s) := by
  unfold fxGoldenDefer
  repeat'
    first
    | with_reducible assumption | with_reducible apply State.showDefer_keeps
    | with_reducible apply State.onSfn_keeps | with_reducible intro _ | with_reducible apply State.Keeps.ite
    | split | dsimp only | assumption

theorem fxGoldenComplete_keeps {s0 s : State} (h : s0.Keeps s) {d crc} : s0.Keeps (fxGoldenComplete d crc s) := by
  unfold fxGoldenComplete
  repeat'
    first
    | with_reducible assumption | with_reducible apply State.onSfn_keeps
    | with_reducible apply State.onEngine_keeps | with_reducible apply State.setReg_keeps
    | with_reducible apply State.startRestart_keeps | with_reducible apply State.countRaise_keeps
    | with_reducible intro _ | with_reducible apply State.Keeps.ite | split | dsimp only | assumption

theorem fxGoldenStripePeriodicRun_keeps {s0 s : State} (h : s0.Keeps s) {d} : s0.Keeps (fxGoldenStripePeriodicRun d s) := by
  unfold fxGoldenStripePeriodicRun
  repeat'
    first
    | with_reducible assumption | with_reducible apply State.startGolden_keeps | with_reducible intro _
    | with_reducible apply State.Keeps.ite | split | dsimp only | assumption

theorem State.sfnBoundary_keeps {s0 s : State} (h : s0.Keeps s) {h' step} : s0.Keeps (State.sfnBoundary s h' step) := by
  unfold State.sfnBoundary
  repeat'
    first
    | with_reducible assumption | with_reducible apply State.startGolden_keeps
    | with_reducible apply State.windowBoundary_keeps | with_reducible apply State.restartBoundary_keeps
    | with_reducible apply State.latchThresholds_keeps | with_reducible intro _
    | with_reducible apply State.Keeps.foldl | dsimp only | assumption

theorem State.setMon_keeps {s0 s : State} (h : s0.Keeps s) {d k} : s0.Keeps (State.setMon s d k) := by
  unfold State.setMon
  repeat'
    first
    | with_reducible assumption | with_reducible apply State.setReg_keeps | with_reducible intro _ | dsimp only
    | assumption

theorem fxLockstepMismatch_keeps {s0 s : State} (h : s0.Keeps s) {d} : s0.Keeps (fxLockstepMismatch d s) := by
  unfold fxLockstepMismatch
  repeat'
    first
    | with_reducible assumption | with_reducible apply State.enterSafe_keeps
    | with_reducible apply State.raise_keeps | with_reducible apply State.setMon_keeps | with_reducible intro _
    | dsimp only | assumption

theorem fxMonitorTrip_keeps {s0 s : State} (h : s0.Keeps s) {d m} : s0.Keeps (fxMonitorTrip d m s) := by
  unfold fxMonitorTrip
  repeat'
    first
    | with_reducible assumption | with_reducible apply State.enterSafe_keeps
    | with_reducible apply State.raise_keeps | with_reducible apply State.setMon_keeps | with_reducible intro _
    | dsimp only | assumption

theorem State.startDown_keeps {s0 s : State} (h : s0.Keeps s) {h'} : s0.Keeps (State.startDown s h') := by
  unfold State.startDown
  repeat'
    first
    | with_reducible assumption | with_reducible apply State.count_keeps | with_reducible apply onDie_keeps
    | with_reducible intro _ | with_reducible apply State.Keeps.ite
    | fail_if_no_progress with_reducible refine Die.wf_copy ?_ | split | dsimp only | assumption

theorem State.endDown_keeps {s0 s : State} (h : s0.Keeps s) {h'} : s0.Keeps (State.endDown s h') := by
  unfold State.endDown
  repeat'
    first
    | with_reducible assumption | with_reducible apply State.count_keeps | with_reducible apply onDie_keeps
    | with_reducible intro _ | fail_if_no_progress with_reducible refine Die.wf_copy ?_ | split | dsimp only
    | assumption

theorem fxRasterStall_keeps {s0 s : State} (h : s0.Keeps s) {h'} : s0.Keeps (fxRasterStall h' s) := by
  unfold fxRasterStall
  repeat'
    first
    | with_reducible assumption | with_reducible apply State.startDown_keeps
    | with_reducible apply State.driveFault_keeps | with_reducible apply State.raise_keeps
    | with_reducible apply State.setMon_keeps | with_reducible intro _ | with_reducible apply State.Keeps.ite
    | split | dsimp only | assumption

theorem fxHeartbeatTimeout_keeps {s0 s : State} (h : s0.Keeps s) {d} : s0.Keeps (fxHeartbeatTimeout d s) := by
  unfold fxHeartbeatTimeout
  repeat'
    first
    | with_reducible assumption | with_reducible apply State.driveFault_keeps
    | with_reducible apply State.raise_keeps | with_reducible apply State.setMon_keeps | with_reducible intro _
    | dsimp only | assumption

theorem fxHbOutToggle_keeps {s0 s : State} (h : s0.Keeps s) : s0.Keeps (fxHbOutToggle s) := by
  unfold fxHbOutToggle
  repeat'
    first
    | with_reducible assumption | with_reducible intro _ | with_reducible apply State.Keeps.ite
    | fail_if_no_progress with_reducible refine State.Keeps.copy ?_ | split | dsimp only | assumption

theorem State.onIg_keeps {s0 s : State} (h : s0.Keeps s) {ch f} : s0.Keeps (State.onIg s ch f) := by
  unfold State.onIg
  repeat'
    first
    | with_reducible assumption | with_reducible intro _
    | fail_if_no_progress with_reducible refine State.Keeps.copy ?_ | dsimp only | assumption

theorem State.tripIg_keeps {s0 s : State} (h : s0.Keeps s) {ch timeout} : s0.Keeps (State.tripIg s ch timeout) := by
  unfold State.tripIg
  repeat'
    first
    | with_reducible assumption | with_reducible apply State.countRaise_keeps
    | with_reducible apply State.onIg_keeps | with_reducible intro _ | with_reducible apply State.Keeps.ite | split
    | dsimp only | assumption

theorem fxCurrentSample_keeps {s0 s : State} (h : s0.Keeps s) {ch ma} : s0.Keeps (fxCurrentSample ch ma s) := by
  unfold fxCurrentSample
  repeat'
    first
    | with_reducible assumption | with_reducible apply State.onIg_keeps | with_reducible apply State.tripIg_keeps
    | with_reducible intro _ | with_reducible apply State.Keeps.ite | split | dsimp only | assumption

theorem fxCurrentSampleTimeout_keeps {s0 s : State} (h : s0.Keeps s) {ch} : s0.Keeps (fxCurrentSampleTimeout ch s) := by
  unfold fxCurrentSampleTimeout
  repeat'
    first
    | with_reducible assumption | with_reducible apply State.tripIg_keeps | with_reducible intro _
    | with_reducible apply State.Keeps.ite | split | dsimp only | assumption

theorem State.clearIg_keeps {s0 s : State} (h : s0.Keeps s) {tripSameCycle} : s0.Keeps (State.clearIg s tripSameCycle) := by
  unfold State.clearIg
  repeat'
    first
    | with_reducible assumption | with_reducible apply State.onIg_keeps | with_reducible intro _
    | with_reducible apply State.Keeps.ite | split | dsimp only | assumption

theorem fxIgClear_keeps {s0 s : State} (h : s0.Keeps s) {tripSameCycle} : s0.Keeps (fxIgClear tripSameCycle s) := by
  unfold fxIgClear
  repeat'
    first
    | with_reducible assumption | with_reducible apply State.sfnCtrlWrite_keeps
    | with_reducible apply State.clearIg_keeps | with_reducible intro _ | dsimp only | assumption

theorem fxEchoRead_keeps {s0 s : State} (h : s0.Keeps s) {h' digest _lines seq} : s0.Keeps (fxEchoRead h' digest _lines seq s) := by
  unfold fxEchoRead
  repeat'
    first
    | with_reducible assumption | with_reducible apply State.count_keeps | with_reducible apply onDie_keeps
    | with_reducible apply State.driveFault_keeps | with_reducible apply State.raise_keeps
    | with_reducible apply State.onSfn_keeps | with_reducible intro _ | with_reducible apply State.Keeps.ite
    | fail_if_no_progress with_reducible refine Die.wf_copy ?_ | split | dsimp only | assumption

theorem fxSfnInjGo_keeps {s0 s : State} (h : s0.Keeps s) {d} : s0.Keeps (fxSfnInjGo d s) := by
  unfold fxSfnInjGo
  repeat'
    first
    | with_reducible assumption | with_reducible apply State.setField_keeps | with_reducible apply onDies_keeps
    | with_reducible intro _ | with_reducible apply State.Keeps.ite
    | fail_if_no_progress with_reducible refine Die.wf_copy ?_ | split | dsimp only | assumption

theorem State.injFailed_keeps {s0 s : State} (h : s0.Keeps s) {d} : s0.Keeps (State.injFailed s d) := by
  unfold State.injFailed
  repeat'
    first
    | with_reducible assumption | with_reducible apply State.driveFault_keeps
    | with_reducible apply State.raise_keeps | with_reducible intro _ | dsimp only | assumption

theorem State.injectAll_keeps {s0 s : State} (h : s0.Keeps s) {res} : s0.Keeps (State.injectAll s res) := by
  unfold State.injectAll
  repeat'
    first
    | with_reducible assumption | with_reducible apply onDies_keeps | with_reducible apply State.requestOp_keeps
    | with_reducible apply State.injFailed_keeps | with_reducible intro _ | with_reducible apply State.Keeps.ite
    | with_reducible apply State.Keeps.foldl | fail_if_no_progress with_reducible refine State.Keeps.copy ?_
    | with_reducible apply Die.wf_foldl | fail_if_no_progress with_reducible refine Die.wf_copy ?_ | split
    | dsimp only | assumption

end Sys2Proof.Machine
end

