-- ==== Sys2Proof/Laws/KeepsBoot.lean ====
section
/-! SUPPORT. What the operations of Boot.lean keep. -/

namespace Sys2Proof.Machine

/-- A reset of the part leaves canonical forms, the queue as it was and the straps given, at device time 0. -/
theorem State.afterReset_spec (s : State) (st : Straps) :
    (s.wf → (s.afterReset st).wf) ∧ (s.afterReset st).pending = s.pending ∧ (s.afterReset st).straps = st ∧
      (s.afterReset st).otp = s.otp ∧ (s.afterReset st).gsc = 0 := by
  refine ⟨fun w => ?_, rfl, rfl, rfl, rfl⟩
  have h := ofReset_wf st s.otp s.nvm w.2.2.2
  exact ⟨h.1, h.2⟩

theorem State.afterReset_keeps {s0 s : State} (h : s0.Keeps s) : s0.Keeps (State.afterReset s s.straps) :=
  have k := s.afterReset_spec s.straps
  h.trans ⟨k.1, k.2.1, k.2.2.1, k.2.2.2.1, .inr k.2.2.2.2⟩

theorem State.resetWrite_keeps {s0 s : State} (h : s0.Keeps s) {trigger apply} (happly : ∀ t : State, s0.Keeps t → s0.Keeps (apply t)) : s0.Keeps (State.resetWrite s trigger apply) := by
  unfold State.resetWrite
  repeat'
    first
    | with_reducible assumption | with_reducible apply State.guardedWrite_keeps | with_reducible apply happly
    | with_reducible intro _ | dsimp only | assumption

theorem State.resetPart_keeps {s0 s : State} (h : s0.Keeps s) : s0.Keeps (State.resetPart s) := by
  unfold State.resetPart
  repeat'
    first
    | with_reducible assumption | with_reducible apply State.endSession_keeps
    | with_reducible apply State.afterReset_keeps | with_reducible intro _
    | fail_if_no_progress with_reducible refine State.Keeps.copy ?_ | dsimp only | assumption

theorem fxPartReset_keeps {s0 s : State} (h : s0.Keeps s) : s0.Keeps (fxPartReset s) := by
  unfold fxPartReset
  repeat'
    first
    | with_reducible assumption | with_reducible apply State.resetWrite_keeps
    | with_reducible apply State.resetPart_keeps | with_reducible intro _ | dsimp only | assumption

theorem fxResetNAssertion_keeps {s0 s : State} (h : s0.Keeps s) : s0.Keeps (fxResetNAssertion s) := by
  unfold fxResetNAssertion
  repeat'
    first
    | with_reducible assumption | with_reducible apply State.afterReset_keeps | with_reducible apply onDies_keeps
    | with_reducible intro _ | fail_if_no_progress with_reducible refine State.Keeps.copy ?_
    | fail_if_no_progress with_reducible refine Die.wf_copy ?_ | dsimp only | assumption

theorem Die.onLink_wf {x : Die} (h : x.wf = true) {k f} : (Die.onLink x k f).wf = true := by
  unfold Die.onLink
  repeat'
    first
    | with_reducible assumption | with_reducible intro _ | fail_if_no_progress with_reducible refine Die.wf_copy ?_
    | dsimp only | assumption

theorem State.trainLinks_keeps {s0 s : State} (h : s0.Keeps s) {d} : s0.Keeps (State.trainLinks s d) := by
  unfold State.trainLinks
  repeat'
    first
    | with_reducible assumption | with_reducible apply onDie_keeps | with_reducible apply Die.onLink_wf
    | with_reducible intro _ | with_reducible apply State.Keeps.ite | with_reducible apply State.Keeps.foldl
    | with_reducible apply Die.wf_foldl | split | dsimp only | assumption

theorem fxPkgLock_keeps {s0 s : State} (h : s0.Keeps s) : s0.Keeps (fxPkgLock s) := by
  unfold fxPkgLock
  repeat'
    first
    | with_reducible assumption | with_reducible apply onDies_keeps | with_reducible intro _
    | with_reducible apply State.Keeps.ite | fail_if_no_progress with_reducible refine State.Keeps.copy ?_
    | fail_if_no_progress with_reducible refine Die.wf_copy ?_ | split | dsimp only | assumption

theorem State.loseAlignment_keeps {s0 s : State} (h : s0.Keeps s) : s0.Keeps (State.loseAlignment s) := by
  unfold State.loseAlignment
  repeat'
    first
    | with_reducible assumption | with_reducible apply State.raise_keeps
    | with_reducible apply State.setField_keeps | with_reducible intro _ | with_reducible apply State.Keeps.ite
    | with_reducible apply State.Keeps.foldl | split | dsimp only | assumption

theorem State.rejoinClock_keeps {s0 s : State} (h : s0.Keeps s) {d} : s0.Keeps (State.rejoinClock s d) := by
  unfold State.rejoinClock
  repeat'
    first
    | with_reducible assumption | with_reducible apply onDie_keeps | with_reducible apply Die.setField_wf
    | with_reducible apply State.setField_keeps | with_reducible apply State.setReg_keeps
    | with_reducible apply setReg_wf | with_reducible apply hostSetReg_ok
    | with_reducible apply State.released_keeps | with_reducible apply State.loseAlignment_keeps
    | with_reducible apply State.trainLinks_keeps | with_reducible intro _
    | fail_if_no_progress with_reducible refine Die.wf_copy ?_ | dsimp only | assumption

theorem fxReleaseEdge_keeps {s0 s : State} (h : s0.Keeps s) : s0.Keeps (fxReleaseEdge s) := by
  unfold fxReleaseEdge
  repeat'
    first
    | with_reducible assumption | with_reducible apply zeroTime_keeps | with_reducible apply onDies_keeps
    | with_reducible apply Die.setField_wf | with_reducible apply State.trainLinks_keeps
    | with_reducible apply State.rejoinClock_keeps | with_reducible intro _ | with_reducible apply State.Keeps.ite
    | with_reducible apply State.Keeps.foldl | fail_if_no_progress with_reducible refine Die.wf_copy ?_ | dsimp only

theorem State.dropFuncCtxs_keeps {s0 s : State} (h : s0.Keeps s) {d} : s0.Keeps (State.dropFuncCtxs s d) := by
  unfold State.dropFuncCtxs
  repeat'
    first
    | with_reducible assumption | with_reducible apply State.destroyCtx_keeps | with_reducible intro _
    | with_reducible apply State.Keeps.foldl | split | dsimp only | assumption

theorem State.holdDie_keeps {s0 s : State} (h : s0.Keeps s) {d} : s0.Keeps (State.holdDie s d) := by
  unfold State.holdDie
  refine State.Keeps.copy (State.Keeps.foldl (fun t k ht => ?_) (setDie_keeps ?_ d fun _ => ?_))
  · split
    · exact ht
    · exact onDie_keeps ht _ fun _ hx => Die.onLink_wf hx
  · exact State.dropFuncCtxs_keeps (State.stopNeural_keeps (State.abortSaves_keeps h))
  · refine Die.syncPool_wf (Die.wf_copy ?_)
    exact Die.reset_wf s.otp d s.gsc

theorem State.resetDie_keeps {s0 s : State} (h : s0.Keeps s) {d} : s0.Keeps (State.resetDie s d) := by
  unfold State.resetDie
  repeat'
    first
    | with_reducible assumption | with_reducible apply State.raise_keeps | with_reducible apply State.holdDie_keeps
    | with_reducible apply State.startDown_keeps | with_reducible intro _ | with_reducible apply State.Keeps.ite
    | split | dsimp only | assumption

theorem fxDieReset_keeps {s0 s : State} (h : s0.Keeps s) {d} : s0.Keeps (fxDieReset d s) := by
  unfold fxDieReset
  repeat'
    first
    | with_reducible assumption | with_reducible apply State.resetWrite_keeps
    | with_reducible apply State.resetDie_keeps | with_reducible intro _ | with_reducible apply State.Keeps.ite
    | split | dsimp only | assumption

theorem fxAutoDieReset_keeps {s0 s : State} (h : s0.Keeps s) {d} : s0.Keeps (fxAutoDieReset d s) := by
  unfold fxAutoDieReset
  repeat'
    first
    | with_reducible assumption | with_reducible apply State.resetDie_keeps | with_reducible intro _
    | with_reducible apply State.Keeps.ite | split | dsimp only | assumption

theorem State.applyKept_keeps {s0 s : State} (h : s0.Keeps s) {d} : s0.Keeps (State.applyKept s d) := by
  unfold State.applyKept
  repeat'
    first
    | with_reducible assumption | with_reducible apply onDie_keeps | with_reducible apply putForce_wf
    | with_reducible apply State.setReg_keeps | with_reducible apply setReg_wf
    | with_reducible apply hostSetReg_ok | with_reducible apply Die.showCommit_wf
    | with_reducible apply Die.showLink_wf | with_reducible apply Die.setField_wf
    | with_reducible apply State.setField_keeps | with_reducible intro _
    | with_reducible apply State.Keeps.foldl | fail_if_no_progress with_reducible refine State.Keeps.copy ?_
    | with_reducible apply Die.wf_foldl | fail_if_no_progress with_reducible refine Die.wf_copy ?_ | split
    | dsimp only | assumption

theorem State.restage_keeps {s0 s : State} (h : s0.Keeps s) {d c} : s0.Keeps (State.restage s d c) := by
  unfold State.restage
  repeat'
    first
    | with_reducible assumption | with_reducible apply onDie_keeps | with_reducible apply State.makeContexts_keeps
    | with_reducible apply Die.withPools_wf | with_reducible apply State.makeBarriers_keeps
    | with_reducible apply State.freeBarriers_keeps | with_reducible apply State.resetRecurrent_keeps
    | with_reducible intro _ | with_reducible apply State.Keeps.ite | split | dsimp only | assumption

theorem State.rejoinDie_keeps {s0 s : State} (h : s0.Keeps s) {d} : s0.Keeps (State.rejoinDie s d) := by
  unfold State.rejoinDie
  repeat'
    first
    | with_reducible assumption | with_reducible apply State.syncReplay_keeps
    | with_reducible apply State.restage_keeps | with_reducible apply State.announce_keeps
    | with_reducible apply State.applyKept_keeps | with_reducible intro _ | with_reducible apply State.Keeps.foldl
    | dsimp only | assumption

theorem fxInjectionComplete_keeps {s0 s : State} (h : s0.Keeps s) {untripped} : s0.Keeps (fxInjectionComplete untripped s) := by
  unfold fxInjectionComplete
  repeat'
    first
    | with_reducible assumption | with_reducible apply State.onSfn_keeps | with_reducible apply State.setReg_keeps
    | with_reducible apply State.injectAll_keeps | with_reducible apply State.injFailed_keeps
    | with_reducible apply State.rejoinDie_keeps | with_reducible intro _ | with_reducible apply State.Keeps.ite
    | with_reducible apply State.Keeps.foldl | split | dsimp only | assumption

theorem State.runImage_keeps {s0 s : State} (h : s0.Keeps s) {d img} : s0.Keeps (State.runImage s d img) := by
  unfold State.runImage
  repeat'
    first
    | with_reducible assumption | with_reducible apply onDie_keeps | with_reducible apply setReg_wf
    | with_reducible apply Die.setField_wf | with_reducible apply State.audited_keeps | with_reducible intro _
    | with_reducible apply State.Keeps.ite | fail_if_no_progress with_reducible refine State.Keeps.copy ?_
    | fail_if_no_progress with_reducible refine Die.wf_copy ?_ | split | dsimp only | assumption

theorem State.refuseImage_keeps {s0 s : State} (h : s0.Keeps s) {d fromFlash} : s0.Keeps (State.refuseImage s d fromFlash) := by
  unfold State.refuseImage
  repeat'
    first
    | with_reducible assumption | with_reducible apply onDie_keeps | with_reducible apply Die.setField_wf
    | with_reducible intro _ | with_reducible apply State.Keeps.ite
    | fail_if_no_progress with_reducible refine Die.wf_copy ?_ | split | dsimp only | assumption

theorem State.endBootRequest_keeps {s0 s : State} (h : s0.Keeps s) {d st} : s0.Keeps (State.endBootRequest s d st) := by
  unfold State.endBootRequest
  repeat'
    first
    | with_reducible assumption | with_reducible apply State.reqStatus_keeps | with_reducible intro _
    | with_reducible apply State.Keeps.ite | split | dsimp only | assumption

theorem fxImageVerify_keeps {s0 s : State} (h : s0.Keeps s) {d image} : s0.Keeps (fxImageVerify d image s) := by
  unfold fxImageVerify
  repeat'
    first
    | with_reducible assumption | with_reducible apply State.endBootRequest_keeps
    | with_reducible apply State.runImage_keeps | with_reducible apply State.refuseImage_keeps
    | with_reducible intro _ | with_reducible apply State.Keeps.ite | split | dsimp only | assumption

theorem State.bootRequest_keeps {s0 s : State} (h : s0.Keeps s) {p data} : s0.Keeps (State.bootRequest s p data) := by
  unfold State.bootRequest
  repeat'
    first
    | with_reducible assumption | with_reducible apply State.request_keeps
    | with_reducible apply State.reqStatus_keeps | with_reducible apply onDies_keeps
    | with_reducible apply State.setField_keeps | with_reducible intro _ | with_reducible apply State.Keeps.ite
    | fail_if_no_progress with_reducible refine State.Keeps.copy ?_
    | fail_if_no_progress with_reducible refine Die.wf_copy ?_ | split | dsimp only | assumption

theorem fxBoot_keeps {s0 s : State} (h : s0.Keeps s) {p data} : s0.Keeps (fxBoot p data s) := by
  unfold fxBoot
  repeat'
    first
    | with_reducible assumption | with_reducible apply State.bootRequest_keeps | with_reducible intro _
    | dsimp only | assumption

theorem fxDdr5TrainingComplete_keeps {s0 s : State} (h : s0.Keeps s) {d} :
    s0.Keeps (fxDdr5TrainingComplete d s) := by
  unfold fxDdr5TrainingComplete
  repeat'
    first
    | with_reducible assumption | with_reducible apply onDie_keeps | with_reducible apply State.recordGap_keeps
    | with_reducible intro _ | with_reducible apply State.Keeps.ite
    | fail_if_no_progress with_reducible refine State.Keeps.copy ?_
    | fail_if_no_progress with_reducible refine Die.wf_copy ?_ | split | dsimp only | assumption

theorem State.loadValue_keeps {s0 s : State} (h : s0.Keeps s) {e} : s0.Keeps (State.loadValue s e) := by
  unfold State.loadValue
  repeat'
    first
    | with_reducible assumption | with_reducible apply onDie_keeps | with_reducible apply setReg_wf
    | with_reducible apply State.raise_keeps | with_reducible apply State.audited_keeps | with_reducible intro _
    | with_reducible apply State.Keeps.ite | with_reducible apply putForce_wf
    | fail_if_no_progress with_reducible refine Die.wf_copy ?_ | split | dsimp only | assumption

theorem State.applySettings_keeps {s0 s : State} (h : s0.Keeps s) {k x} : s0.Keeps (State.applySettings s k x) := by
  unfold State.applySettings
  repeat'
    first
    | with_reducible assumption | with_reducible apply State.loadValue_keeps | with_reducible apply onDie_keeps
    | with_reducible apply State.setField_keeps | with_reducible apply State.setReg_keeps | with_reducible intro _
    | with_reducible apply State.Keeps.foldl | fail_if_no_progress with_reducible refine State.Keeps.copy ?_
    | with_reducible apply Die.wf_foldl | fail_if_no_progress with_reducible refine Die.wf_copy ?_ | split
    | dsimp only | assumption

theorem fxSettingsLoad_keeps {s0 s : State} (h : s0.Keeps s) : s0.Keeps (fxSettingsLoad s) := by
  unfold fxSettingsLoad
  repeat'
    first
    | with_reducible assumption | with_reducible apply State.raise_keeps
    | with_reducible apply State.applySettings_keeps | with_reducible apply onDies_keeps | with_reducible intro _
    | with_reducible apply State.Keeps.ite | fail_if_no_progress with_reducible refine State.Keeps.copy ?_
    | fail_if_no_progress with_reducible refine Die.wf_copy ?_ | split | dsimp only | assumption

/-- POWER_ON keeps canonical forms and the queue; the straps become those sampled. -/
theorem fxPowerOn_spec (st : Straps) (s : State) :
    (s.wf → (fxPowerOn st s).wf) ∧ (fxPowerOn st s).pending = s.pending ∧ (fxPowerOn st s).straps = st ∧
      (fxPowerOn st s).otp = s.otp ∧ (fxPowerOn st s).gsc = 0 := s.afterReset_spec st

end Sys2Proof.Machine
end

