-- ==== Sys2Proof/Laws/KeepsCounters.lean ====
section
/-! SUPPORT. What the operations of Counters.lean keep. -/

namespace Sys2Proof.Machine

theorem Die.latchHi_wf {x : Die} (h : x.wf = true) {hi w} : (Die.latchHi x hi w).wf = true := by
  unfold Die.latchHi
  repeat'
    first
    | with_reducible assumption | with_reducible intro _ | with_reducible apply eraseHostRegs_ok
    | fail_if_no_progress with_reducible refine Die.wf_copy ?_ | dsimp only | assumption

theorem State.readLo_keeps {s0 s : State} (h : s0.Keeps s) {d lo} : s0.Keeps (State.readLo s d lo) := by
  unfold State.readLo
  repeat'
    first
    | with_reducible assumption | with_reducible apply onDie_keeps | with_reducible apply Die.latchHi_wf
    | with_reducible intro _ | dsimp only | assumption

theorem fxCmpCntLoRead_keeps {s0 s : State} (h : s0.Keeps s) {d} : s0.Keeps (fxCmpCntLoRead d s) := by
  unfold fxCmpCntLoRead
  repeat'
    first
    | with_reducible assumption | with_reducible apply onDie_keeps | with_reducible apply Die.latchHi_wf
    | with_reducible intro _ | dsimp only | assumption

theorem fxCmpWbFrameLoRead_keeps {s0 s : State} (h : s0.Keeps s) {d} : s0.Keeps (fxCmpWbFrameLoRead d s) := by
  unfold fxCmpWbFrameLoRead
  repeat'
    first
    | with_reducible assumption | with_reducible apply State.readLo_keeps | with_reducible intro _ | dsimp only
    | assumption

theorem fxMxeSatLoRead_keeps {s0 s : State} (h : s0.Keeps s) {d e} : s0.Keeps (fxMxeSatLoRead d e s) := by
  unfold fxMxeSatLoRead
  repeat'
    first
    | with_reducible assumption | with_reducible apply State.readLo_keeps | with_reducible intro _ | dsimp only
    | assumption

theorem fxMxeNanLoRead_keeps {s0 s : State} (h : s0.Keeps s) {d e} : s0.Keeps (fxMxeNanLoRead d e s) := by
  unfold fxMxeNanLoRead
  repeat'
    first
    | with_reducible assumption | with_reducible apply State.readLo_keeps | with_reducible intro _ | dsimp only
    | assumption

theorem fxJglSatLoRead_keeps {s0 s : State} (h : s0.Keeps s) {d} : s0.Keeps (fxJglSatLoRead d s) := by
  unfold fxJglSatLoRead
  repeat'
    first
    | with_reducible assumption | with_reducible apply State.readLo_keeps | with_reducible intro _ | dsimp only
    | assumption

theorem fxJglNanLoRead_keeps {s0 s : State} (h : s0.Keeps s) {d} : s0.Keeps (fxJglNanLoRead d s) := by
  unfold fxJglNanLoRead
  repeat'
    first
    | with_reducible assumption | with_reducible apply State.readLo_keeps | with_reducible intro _ | dsimp only
    | assumption

theorem fxCrsBytesLoRead_keeps {s0 s : State} (h : s0.Keeps s) {d c} : s0.Keeps (fxCrsBytesLoRead d c s) := by
  unfold fxCrsBytesLoRead
  repeat'
    first
    | with_reducible assumption | with_reducible apply State.readLo_keeps | with_reducible intro _ | dsimp only
    | assumption

theorem fxCrsCodedLoRead_keeps {s0 s : State} (h : s0.Keeps s) {d c} : s0.Keeps (fxCrsCodedLoRead d c s) := by
  unfold fxCrsCodedLoRead
  repeat'
    first
    | with_reducible assumption | with_reducible apply State.readLo_keeps | with_reducible intro _ | dsimp only
    | assumption

theorem fxDetGscLoRead_keeps {s0 s : State} (h : s0.Keeps s) {d} : s0.Keeps (fxDetGscLoRead d s) := by
  unfold fxDetGscLoRead
  repeat'
    first
    | with_reducible assumption | with_reducible apply onDie_keeps | with_reducible apply Die.latchHi_wf
    | with_reducible intro _ | dsimp only | assumption

theorem fxDetTimingLoRead_keeps {s0 s : State} (h : s0.Keeps s) {d} : s0.Keeps (fxDetTimingLoRead d s) := by
  unfold fxDetTimingLoRead
  repeat'
    first
    | with_reducible assumption | with_reducible apply State.readLo_keeps | with_reducible intro _ | dsimp only
    | assumption

theorem fxDetCkptLastLoRead_keeps {s0 s : State} (h : s0.Keeps s) {d} : s0.Keeps (fxDetCkptLastLoRead d s) := by
  unfold fxDetCkptLastLoRead
  repeat'
    first
    | with_reducible assumption | with_reducible apply State.readLo_keeps | with_reducible intro _ | dsimp only
    | assumption

theorem clearOne_wf {x : Die} (h : x.wf = true) {off counted} : (clearOne x off counted).wf = true := by
  unfold clearOne
  repeat'
    first
    | with_reducible assumption | with_reducible apply setReg_wf | with_reducible intro _ | split | dsimp only
    | assumption

theorem clearList_wf {x : Die} (h : x.wf = true) {co k l} : (clearList co k l x).wf = true := by
  induction l generalizing x k with
  | nil => exact h
  | cons a rest ih => exact ih (clearOne_wf h)

theorem clearWide_wf {x : Die} (h : x.wf = true) {lo counted} : (clearWide x lo counted).wf = true := by
  unfold clearWide
  repeat'
    first
    | with_reducible assumption | with_reducible apply Die.setWide_wf | with_reducible intro _ | split | dsimp only
    | assumption

theorem fxMxeCntClr_keeps {s0 s : State} (h : s0.Keeps s) {d e co} : s0.Keeps (fxMxeCntClr d e co s) := by
  unfold fxMxeCntClr
  repeat'
    first
    | with_reducible assumption | with_reducible apply onDie_keeps | with_reducible apply clearOne_wf
    | with_reducible apply clearWide_wf | with_reducible apply State.raiseSome_keeps | with_reducible intro _
    | dsimp only | assumption

theorem fxWinCntClr_keeps {s0 s : State} (h : s0.Keeps s) {d co} : s0.Keeps (fxWinCntClr d co s) := by
  unfold fxWinCntClr
  repeat'
    first
    | with_reducible assumption | with_reducible apply onDie_keeps | with_reducible apply clearList_wf
    | with_reducible apply State.raiseSome_keeps | with_reducible intro _ | dsimp only | assumption

theorem fxRmsCntClr_keeps {s0 s : State} (h : s0.Keeps s) {d co} : s0.Keeps (fxRmsCntClr d co s) := by
  unfold fxRmsCntClr
  repeat'
    first
    | with_reducible assumption | with_reducible apply onDie_keeps | with_reducible apply clearList_wf
    | with_reducible apply State.raiseSome_keeps | with_reducible intro _ | dsimp only | assumption

theorem fxCrsCntClr_keeps {s0 s : State} (h : s0.Keeps s) {d co} : s0.Keeps (fxCrsCntClr d co s) := by
  unfold fxCrsCntClr
  repeat'
    first
    | with_reducible assumption | with_reducible apply onDie_keeps | with_reducible apply clearList_wf
    | with_reducible apply Die.setField_wf | with_reducible apply State.setField_keeps
    | with_reducible apply State.raiseSome_keeps | with_reducible intro _ | dsimp only | assumption

theorem fxJglCntClr_keeps {s0 s : State} (h : s0.Keeps s) {d co} : s0.Keeps (fxJglCntClr d co s) := by
  unfold fxJglCntClr
  repeat'
    first
    | with_reducible assumption | with_reducible apply onDie_keeps | with_reducible apply clearOne_wf
    | with_reducible apply clearWide_wf | with_reducible apply State.raiseSome_keeps | with_reducible intro _
    | dsimp only | assumption

theorem fxMotCntClr_keeps {s0 s : State} (h : s0.Keeps s) {d co} : s0.Keeps (fxMotCntClr d co s) := by
  unfold fxMotCntClr
  repeat'
    first
    | with_reducible assumption | with_reducible apply onDie_keeps | with_reducible apply clearOne_wf
    | with_reducible apply clearWide_wf | with_reducible apply State.raiseSome_keeps | with_reducible intro _
    | dsimp only | assumption

theorem fxCmpCntClr_keeps {s0 s : State} (h : s0.Keeps s) {d co} : s0.Keeps (fxCmpCntClr d co s) := by
  unfold fxCmpCntClr
  repeat'
    first
    | with_reducible assumption | with_reducible apply onDie_keeps | with_reducible apply clearList_wf
    | with_reducible apply State.raiseHead_keeps | with_reducible intro _ | with_reducible apply State.Keeps.ite
    | split | dsimp only | assumption

theorem fxScnCntClr_keeps {s0 s : State} (h : s0.Keeps s) {d co} : s0.Keeps (fxScnCntClr d co s) := by
  unfold fxScnCntClr
  repeat'
    first
    | with_reducible assumption | with_reducible apply onDie_keeps | with_reducible apply clearList_wf
    | with_reducible apply State.raiseHead_keeps | with_reducible intro _ | with_reducible apply State.Keeps.ite
    | split | dsimp only | assumption

theorem fxTslCntClr_keeps {s0 s : State} (h : s0.Keeps s) {d co} : s0.Keeps (fxTslCntClr d co s) := by
  unfold fxTslCntClr
  repeat'
    first
    | with_reducible assumption | with_reducible apply onDie_keeps | with_reducible apply clearList_wf
    | with_reducible apply State.raiseSome_keeps | with_reducible intro _ | dsimp only | assumption

theorem fxDetCntClr_keeps {s0 s : State} (h : s0.Keeps s) {d co} : s0.Keeps (fxDetCntClr d co s) := by
  unfold fxDetCntClr
  repeat'
    first
    | with_reducible assumption | with_reducible apply onDie_keeps | with_reducible apply clearList_wf
    | with_reducible apply State.raiseSome_keeps | with_reducible intro _ | split | dsimp only | assumption

theorem fxHstCntClr_keeps {s0 s : State} (h : s0.Keeps s) {co} : s0.Keeps (fxHstCntClr co s) := by
  unfold fxHstCntClr
  repeat'
    first
    | with_reducible assumption | with_reducible apply onHost_keeps | with_reducible apply State.setReg_keeps
    | with_reducible apply setReg_wf | with_reducible apply hostSetReg_ok
    | with_reducible apply State.raiseHost_keeps | with_reducible intro _ | with_reducible apply State.Keeps.ite
    | split | dsimp only | assumption

theorem fxHstFnCntClr_keeps {s0 s : State} (h : s0.Keeps s) {f co} : s0.Keeps (fxHstFnCntClr f co s) := by
  unfold fxHstFnCntClr
  repeat'
    first
    | with_reducible assumption | with_reducible apply onHost_keeps | with_reducible apply HostSide.setFnReg_ok
    | with_reducible intro _ | with_reducible apply State.Keeps.ite | split | dsimp only | assumption

theorem fxSfnCntClr_keeps {s0 s : State} (h : s0.Keeps s) {d co} : s0.Keeps (fxSfnCntClr d co s) := by
  unfold fxSfnCntClr
  repeat'
    first
    | with_reducible assumption | with_reducible apply onDie_keeps | with_reducible apply clearList_wf
    | with_reducible apply State.raiseSome_keeps | with_reducible intro _ | dsimp only | assumption

theorem fxSecCntClr_keeps {s0 s : State} (h : s0.Keeps s) {d co} : s0.Keeps (fxSecCntClr d co s) := by
  unfold fxSecCntClr
  repeat'
    first
    | with_reducible assumption | with_reducible apply onDie_keeps | with_reducible apply clearList_wf
    | with_reducible apply State.raiseSome_keeps | with_reducible intro _ | with_reducible apply State.Keeps.ite
    | split | dsimp only | assumption

theorem fxNvmCntClr_keeps {s0 s : State} (h : s0.Keeps s) {co} : s0.Keeps (fxNvmCntClr co s) := by
  unfold fxNvmCntClr
  repeat'
    first
    | with_reducible assumption | with_reducible apply onDie_keeps | with_reducible apply clearList_wf
    | with_reducible intro _ | dsimp only | assumption

theorem fxPwrCntClr_keeps {s0 s : State} (h : s0.Keeps s) {d co} : s0.Keeps (fxPwrCntClr d co s) := by
  unfold fxPwrCntClr
  repeat'
    first
    | with_reducible assumption | with_reducible apply onDie_keeps | with_reducible apply clearList_wf
    | with_reducible intro _ | dsimp only | assumption

theorem fxSnsCntClr_keeps {s0 s : State} (h : s0.Keeps s) {co} : s0.Keeps (fxSnsCntClr co s) := by
  unfold fxSnsCntClr
  repeat'
    first
    | with_reducible assumption | with_reducible apply onDie_keeps | with_reducible apply clearList_wf
    | with_reducible apply State.raiseSome_keeps | with_reducible intro _ | dsimp only | assumption

theorem fxGdeCntClr_keeps {s0 s : State} (h : s0.Keeps s) {d co} : s0.Keeps (fxGdeCntClr d co s) := by
  unfold fxGdeCntClr
  repeat'
    first
    | with_reducible assumption | with_reducible apply onDie_keeps | with_reducible apply clearList_wf
    | with_reducible intro _ | dsimp only | assumption

end Sys2Proof.Machine
end

