-- ==== Sys2Proof/Laws/KeepsPower.lean ====
section
/-! SUPPORT. What the operations of Power.lean keep. -/

namespace Sys2Proof.Machine

theorem State.enterStandby_keeps {s0 s : State} (h : s0.Keeps s) : s0.Keeps (State.enterStandby s) := by
  unfold State.enterStandby
  repeat'
    first
    | with_reducible assumption | with_reducible apply State.holdDie_keeps | with_reducible apply onDie_keeps
    | with_reducible apply Die.stopStreams_wf | with_reducible intro _ | with_reducible apply State.Keeps.foldl
    | fail_if_no_progress with_reducible refine State.Keeps.copy ?_ | with_reducible apply Die.wf_foldl
    | fail_if_no_progress with_reducible refine Die.wf_copy ?_ | dsimp only | assumption

theorem State.tryStandby_keeps {s0 s : State} (h : s0.Keeps s) : s0.Keeps (State.tryStandby s) := by
  unfold State.tryStandby
  repeat'
    first
    | with_reducible assumption | with_reducible apply State.enterStandby_keeps | with_reducible intro _
    | with_reducible apply State.Keeps.ite | split | dsimp only | assumption

theorem State.standbyBoundary_keeps {s0 s : State} (h : s0.Keeps s) {h'} : s0.Keeps (State.standbyBoundary s h') := by
  unfold State.standbyBoundary
  repeat'
    first
    | with_reducible assumption | with_reducible apply State.tryStandby_keeps
    | with_reducible apply State.dropLink_keeps | with_reducible apply onDie_keeps | with_reducible intro _
    | with_reducible apply State.Keeps.ite | fail_if_no_progress with_reducible refine Die.wf_copy ?_ | split
    | dsimp only | assumption

theorem State.endStandby_keeps {s0 s : State} (h : s0.Keeps s) : s0.Keeps (State.endStandby s) := by
  unfold State.endStandby
  repeat'
    first
    | with_reducible assumption | with_reducible apply State.setField_keeps | with_reducible apply onDies_keeps
    | with_reducible apply State.loseAlignment_keeps | with_reducible apply State.beginChange_keeps
    | with_reducible intro _ | with_reducible apply State.Keeps.ite
    | fail_if_no_progress with_reducible refine State.Keeps.copy ?_
    | fail_if_no_progress with_reducible refine Die.wf_copy ?_ | split | dsimp only | assumption

theorem State.requestStandby_keeps {s0 s : State} (h : s0.Keeps s) {named} : s0.Keeps (State.requestStandby s named) := by
  unfold State.requestStandby
  repeat'
    first
    | with_reducible assumption | with_reducible apply State.raise_keeps
    | with_reducible apply State.setField_keeps | with_reducible apply State.tryStandby_keeps
    | with_reducible intro _ | with_reducible apply State.Keeps.ite
    | fail_if_no_progress with_reducible refine State.Keeps.copy ?_ | split | dsimp only | assumption

theorem State.setConfig_keeps {s0 s : State} (h : s0.Keeps s) {hi lo v} : s0.Keeps (State.setConfig s hi lo v) := by
  unfold State.setConfig
  repeat'
    first
    | with_reducible assumption | with_reducible apply State.recordConfigs_keeps
    | with_reducible apply onDies_keeps | with_reducible apply Die.setField_wf | with_reducible intro _
    | with_reducible apply State.Keeps.ite | split | dsimp only | assumption

theorem State.powerWrite_keeps {s0 s : State} (h : s0.Keeps s) {d value} : s0.Keeps (State.powerWrite s d value) := by
  unfold State.powerWrite
  repeat'
    first
    | with_reducible assumption | with_reducible apply State.guardedWrite_keeps
    | with_reducible apply State.setField_keeps | with_reducible apply State.requestOp_keeps
    | with_reducible apply State.setConfig_keeps | with_reducible apply State.requestStandby_keeps
    | with_reducible apply State.endStandby_keeps | with_reducible intro _ | with_reducible apply State.Keeps.ite
    | split | dsimp only | assumption

theorem fxOpRequest_keeps {s0 s : State} (h : s0.Keeps s) {d value} : s0.Keeps (fxOpRequest d value s) := by
  unfold fxOpRequest
  repeat'
    first
    | with_reducible assumption | with_reducible apply State.powerWrite_keeps | with_reducible intro _ | dsimp only
    | assumption

theorem fxStandby_keeps {s0 s : State} (h : s0.Keeps s) {value} : s0.Keeps (fxStandby value s) := by
  unfold fxStandby
  repeat'
    first
    | with_reducible assumption | with_reducible apply State.powerWrite_keeps | with_reducible intro _ | dsimp only
    | assumption

theorem fxStandbyExit_keeps {s0 s : State} (h : s0.Keeps s) : s0.Keeps (fxStandbyExit s) := by
  unfold fxStandbyExit
  repeat'
    first
    | with_reducible assumption | with_reducible apply State.endStandby_keeps | with_reducible intro _ | dsimp only
    | assumption

theorem State.stepDown_keeps {s0 s : State} (h : s0.Keeps s) {d} : s0.Keeps (State.stepDown s d) := by
  unfold State.stepDown
  repeat'
    first
    | with_reducible assumption | with_reducible apply State.raise_keeps
    | with_reducible apply State.beginChange_keeps | with_reducible apply onDie_keeps | with_reducible intro _
    | with_reducible apply State.Keeps.ite | fail_if_no_progress with_reducible refine Die.wf_copy ?_ | split
    | dsimp only | assumption

theorem fxThermalReading_keeps {s0 s : State} (h : s0.Keeps s) {d quarterC diePower pkgPower} : s0.Keeps (fxThermalReading d quarterC diePower pkgPower s) := by
  unfold fxThermalReading
  repeat'
    first
    | with_reducible assumption | with_reducible apply onDie_keeps | with_reducible apply setReg_wf
    | with_reducible apply State.count_keeps | with_reducible apply State.raise_keeps
    | with_reducible apply State.stepDown_keeps | with_reducible apply State.enterSafe_keeps
    | with_reducible intro _ | with_reducible apply State.Keeps.ite | with_reducible apply State.Keeps.foldl
    | with_reducible apply Die.wf_foldl | fail_if_no_progress with_reducible refine Die.wf_copy ?_ | split
    | dsimp only | assumption

theorem fxTripN_keeps {s0 s : State} (h : s0.Keeps s) : s0.Keeps (fxTripN s) := by
  unfold fxTripN
  repeat'
    first
    | with_reducible assumption | with_reducible intro _
    | fail_if_no_progress with_reducible refine State.Keeps.copy ?_ | dsimp only | assumption

theorem fxPwrCapWrite_keeps {s0 s : State} (h : s0.Keeps s) {value} : s0.Keeps (fxPwrCapWrite value s) := by
  unfold fxPwrCapWrite
  repeat'
    first
    | with_reducible assumption | with_reducible apply State.guardedWrite_keeps
    | with_reducible apply State.raise_keeps | with_reducible apply State.setConfig_keeps
    | with_reducible apply State.setReg_keeps | with_reducible intro _ | with_reducible apply State.Keeps.ite
    | split | dsimp only | assumption

theorem fxClkLockCfgWrite_keeps {s0 s : State} (h : s0.Keeps s) {d value} : s0.Keeps (fxClkLockCfgWrite d value s) := by
  unfold fxClkLockCfgWrite
  repeat'
    first
    | with_reducible assumption | with_reducible apply State.guardedWrite_keeps
    | with_reducible apply State.setReg_keeps | with_reducible intro _ | with_reducible apply State.Keeps.ite
    | split | dsimp only | assumption

theorem fxGpioEdge_keeps {s0 s : State} (h : s0.Keeps s) {pin level} : s0.Keeps (fxGpioEdge pin level s) := by
  unfold fxGpioEdge
  repeat'
    first
    | with_reducible assumption | with_reducible apply State.setField_keeps
    | with_reducible apply State.raise_keeps | with_reducible apply State.endStandby_keeps | with_reducible intro _
    | with_reducible apply State.Keeps.ite | fail_if_no_progress with_reducible refine State.Keeps.copy ?_ | split
    | dsimp only | assumption

end Sys2Proof.Machine
end

