-- ==== Sys2Proof/Laws/KeepsFrame.lean ====
section
/-! SUPPORT. What the operations of Frame.lean keep. -/

namespace Sys2Proof.Machine

theorem State.wbEnd_keeps {s0 s : State} (h : s0.Keeps s) {h'} : s0.Keeps (State.wbEnd s h') := by
  unfold State.wbEnd
  repeat'
    first
    | with_reducible assumption | with_reducible apply onDie_keeps | with_reducible apply Die.setWide_wf
    | with_reducible apply setReg_wf | with_reducible apply State.raiseHead_keeps | with_reducible intro _
    | with_reducible apply State.Keeps.ite | fail_if_no_progress with_reducible refine Die.wf_copy ?_ | split
    | dsimp only | assumption

theorem State.wbBegin_keeps {s0 s : State} (h : s0.Keeps s) {h'} : s0.Keeps (State.wbBegin s h') := by
  unfold State.wbBegin
  repeat'
    first
    | with_reducible assumption | with_reducible apply onDie_keeps | with_reducible intro _
    | with_reducible apply State.Keeps.ite | fail_if_no_progress with_reducible refine Die.wf_copy ?_ | split
    | dsimp only | assumption

theorem State.frameEnd_keeps {s0 s : State} (h : s0.Keeps s) {h'} : s0.Keeps (State.frameEnd s h') := by
  unfold State.frameEnd
  repeat'
    first
    | with_reducible assumption | with_reducible apply State.recordOutput_keeps | with_reducible apply onDie_keeps
    | with_reducible apply State.aplUpdate_keeps | with_reducible apply State.wbEnd_keeps | with_reducible intro _
    | with_reducible apply State.Keeps.ite | fail_if_no_progress with_reducible refine Die.wf_copy ?_ | split
    | dsimp only | assumption

theorem State.frameBegin_keeps {s0 s : State} (h : s0.Keeps s) {h' step} : s0.Keeps (State.frameBegin s h' step) := by
  unfold State.frameBegin
  repeat'
    first
    | with_reducible assumption | with_reducible apply onDie_keeps | with_reducible apply State.latchCommit_keeps
    | with_reducible apply State.opBoundary_keeps | with_reducible apply State.wbBegin_keeps
    | with_reducible apply State.layerBoundary_keeps | with_reducible intro _
    | with_reducible apply State.Keeps.ite | with_reducible apply State.Keeps.foldl
    | with_reducible apply Die.wf_foldl | fail_if_no_progress with_reducible refine Die.wf_copy ?_ | split
    | dsimp only | assumption

theorem State.canvasEnd_keeps {s0 s : State} (h : s0.Keeps s) {cv} : s0.Keeps (State.canvasEnd s cv) := by
  unfold State.canvasEnd
  repeat'
    first
    | with_reducible assumption | with_reducible apply State.postSummary_keeps
    | with_reducible apply State.recordStep_keeps | with_reducible intro _ | with_reducible apply State.Keeps.ite
    | with_reducible apply State.Keeps.foldl | split | dsimp only | assumption

theorem State.canvasBegin_keeps {s0 s : State} (h : s0.Keeps s) {cv} : s0.Keeps (State.canvasBegin s cv) := by
  unfold State.canvasBegin
  repeat'
    first
    | with_reducible assumption | with_reducible apply State.onCanvas_keeps
    | with_reducible apply State.canvasEvent_keeps | with_reducible intro _ | with_reducible apply State.Keeps.ite
    | split | dsimp only | assumption

theorem State.setLock_keeps {s0 s : State} (h : s0.Keeps s) {cv f} : s0.Keeps (State.setLock s cv f) := by
  unfold State.setLock
  repeat'
    first
    | with_reducible assumption | with_reducible apply State.onCanvas_keeps
    | with_reducible apply State.recordEvent_keeps | with_reducible apply State.raise_keeps
    | with_reducible apply State.canvasEvent_keeps | with_reducible intro _ | with_reducible apply State.Keeps.ite
    | split | dsimp only | assumption

theorem State.lockBoundary_keeps {s0 s : State} (h : s0.Keeps s) {cv} : s0.Keeps (State.lockBoundary s cv) := by
  unfold State.lockBoundary
  repeat'
    first
    | with_reducible assumption | with_reducible apply onDie_keeps | with_reducible apply State.setLock_keeps
    | with_reducible apply onDies_keeps | with_reducible apply State.onCanvas_keeps
    | with_reducible apply State.raise_keeps | with_reducible intro _ | with_reducible apply State.Keeps.ite
    | fail_if_no_progress with_reducible refine State.Keeps.copy ?_ | with_reducible apply putForce_wf
    | fail_if_no_progress with_reducible refine Die.wf_copy ?_ | split | dsimp only | assumption

end Sys2Proof.Machine
end

