-- ==== Sys2Proof/Laws/KeepsPause.lean ====
section
/-! SUPPORT. What the operations of Pause.lean keep. -/

namespace Sys2Proof.Machine

theorem Die.vacate_wf {x : Die} (h : x.wf = true) {c} : (Die.vacate x c).wf = true := by
  unfold Die.vacate
  repeat'
    first
    | with_reducible assumption | with_reducible apply Die.dropItems_wf | with_reducible intro _
    | fail_if_no_progress with_reducible refine Die.wf_copy ?_ | split | dsimp only | assumption

theorem State.discardCtx_keeps {s0 s : State} (h : s0.Keeps s) {cv} : s0.Keeps (State.discardCtx s cv) := by
  unfold State.discardCtx
  repeat'
    first
    | with_reducible assumption | with_reducible apply State.abandonWork_keeps
    | with_reducible apply State.poisonCanvas_keeps | with_reducible apply onDies_keeps
    | with_reducible apply Die.dropItems_wf | with_reducible apply State.onCanvas_keeps | with_reducible intro _
    | with_reducible apply State.Keeps.ite | fail_if_no_progress with_reducible refine Die.wf_copy ?_ | split
    | dsimp only | assumption

theorem State.beginPause_keeps {s0 s : State} (h : s0.Keeps s) {cv r} : s0.Keeps (State.beginPause s cv r) := by
  unfold State.beginPause
  repeat'
    first
    | with_reducible assumption | with_reducible apply State.finish_keeps
    | with_reducible apply State.discardCtx_keeps | with_reducible apply State.onCanvas_keeps
    | with_reducible intro _ | with_reducible apply State.Keeps.ite | split | dsimp only | assumption

theorem fxPause_keeps {s0 s : State} (h : s0.Keeps s) {h' canvas flags save} : s0.Keeps (fxPause h' canvas flags save s) := by
  unfold fxPause
  repeat'
    first
    | with_reducible assumption | with_reducible apply State.descriptor_keeps
    | with_reducible apply State.onCanvas_keeps | with_reducible apply State.beginPause_keeps
    | with_reducible intro _ | with_reducible apply State.Keeps.ite | split | dsimp only | assumption

theorem fxContextSaveComplete_keeps {s0 s : State} (h : s0.Keeps s) {cv} : s0.Keeps (fxContextSaveComplete cv s) := by
  unfold fxContextSaveComplete
  repeat'
    first
    | with_reducible assumption | with_reducible apply onDie_keeps | with_reducible apply Die.copyIn_wf
    | with_reducible apply onDies_keeps | with_reducible apply Die.vacate_wf
    | with_reducible apply State.onCanvas_keeps | with_reducible apply State.finish_keeps
    | with_reducible apply State.refill_keeps | with_reducible intro _ | with_reducible apply State.Keeps.ite
    | with_reducible apply State.Keeps.foldl | with_reducible apply Die.wf_foldl | split | dsimp only | assumption

theorem Die.rejoinStreams_wf {x y : Die} {d l names} (h : x.wf = true) (e : x.rejoinStreams d l = some (y, names)) :
    y.wf = true := by
  unfold Die.rejoinStreams at e
  refine foldl_inv (P := fun o : Option (Die × List (StreamId × StreamId)) => ∀ z, o = some z → z.1.wf = true)
    (fun o a k z hz => ?_) (fun z hz => ?_) (y, names) e
  · cases o with
    | none => cases hz
    | some w =>
      obtain ⟨u, _⟩ := w
      simp only [Option.bind_some, Option.map_eq_some_iff] at hz
      obtain ⟨_, -, rfl⟩ := hz
      exact Die.wf_copy (k _ rfl)
  · cases hz
    exact h

theorem Die.readBack_wf {x : Die} (h : x.wf = true) {c d addr} : (Die.readBack x c d addr).wf = true := by
  unfold Die.readBack
  exact foldl_inv (P := fun a : Die × Nat => a.1.wf = true) (fun _ _ k => writeBigTop_wf k _ _) h

theorem Die.restore_wf {x y : Die} {c addr v} (h : x.wf = true) (e : x.restore c addr v = some y) : y.wf = true := by
  unfold Die.restore at e
  cases r : x.rejoinStreams v.die v.streams with
  | none => rw [r] at e; cases e
  | some w =>
    obtain ⟨u, names⟩ := w
    rw [r] at e
    simp only [Option.bind_some, Option.map_eq_some_iff] at e
    obtain ⟨_, -, rfl⟩ := e
    exact Die.readBack_wf (Die.wf_copy (Die.rejoinStreams_wf h r))

theorem State.restoreDies_keepsO {s0 s : State} (h : s0.Keeps s) {c v} : s0.KeepsO (State.restoreDies s c v) := by
  unfold State.restoreDies
  refine foldl_inv (P := s0.KeepsO) (fun o e k => ?_) h
  cases o with
  | none => trivial
  | some t =>
    cases r : (t.die e.die).restore c v.addr.toNat e with
    | none => rw [Option.bind_some, r]; trivial
    | some y => rw [Option.bind_some, r]; exact setDie_keeps k _ fun w => Die.restore_wf w r

theorem State.remakeCtx_keeps {s0 s : State} (h : s0.Keeps s) {c} : s0.Keeps (State.remakeCtx s c) := by
  unfold State.remakeCtx
  repeat'
    first
    | with_reducible assumption | with_reducible apply State.makeContexts_keeps
    | with_reducible apply State.destroyCtx_keeps | with_reducible intro _ | with_reducible apply State.Keeps.foldl
    | dsimp only | assumption

theorem State.beginResume_keeps {s0 s : State} (h : s0.Keeps s) {c v} : s0.Keeps (State.beginResume s c v) := by
  unfold State.beginResume
  repeat'
    first
    | with_reducible assumption | with_reducible apply State.onCanvas_keeps
    | with_reducible apply State.refill_keeps | with_reducible intro _ | with_reducible apply State.Keeps.ite
    | with_reducible apply State.Keeps.foldl | split | dsimp only | assumption

theorem fxResume_keeps {s0 s : State} (h : s0.Keeps s) {h' canvas save} : s0.Keeps (fxResume h' canvas save s) := by
  unfold fxResume
  repeat'
    first
    | with_reducible assumption | with_reducible apply State.descriptor_keeps
    | with_reducible apply State.beginResume_keeps | with_reducible apply State.remakeCtx_keeps
    | with_reducible refine State.KeepsO.get (State.restoreDies_keepsO ?_) (by assumption) | with_reducible intro _
    | with_reducible apply State.Keeps.ite | split | dsimp only | assumption

theorem State.resumeBoundary_keeps {s0 s : State} (h : s0.Keeps s) {cv} : s0.Keeps (State.resumeBoundary s cv) := by
  unfold State.resumeBoundary
  repeat'
    first
    | with_reducible assumption | with_reducible apply State.resetRecurrent_keeps
    | with_reducible apply State.onCanvas_keeps | with_reducible apply onHost_keeps | with_reducible apply onFn_ok
    | with_reducible intro _ | with_reducible apply State.Keeps.ite
    | fail_if_no_progress with_reducible refine Fn.wf_copy ?_ | split | dsimp only | assumption

theorem State.endResume_keeps {s0 s : State} (h : s0.Keeps s) {cv} : s0.Keeps (State.endResume s cv) := by
  unfold State.endResume
  repeat'
    first
    | with_reducible assumption | with_reducible apply State.onCanvas_keeps
    | with_reducible apply State.timing_keeps | with_reducible apply State.abandonWork_keeps
    | with_reducible apply State.refill_keeps | with_reducible apply State.beginPause_keeps
    | with_reducible intro _ | with_reducible apply State.Keeps.ite | with_reducible apply State.Keeps.foldl
    | split | dsimp only | assumption

end Sys2Proof.Machine
end

