-- ==== Sys2Proof/Laws/KeepsReplay.lean ====
section
/-! SUPPORT. What the operations of Replay.lean keep. -/

namespace Sys2Proof.Machine

theorem State.storeFed_keeps {s0 s : State} (h : s0.Keeps s) {c i f} : s0.Keeps (State.storeFed s c i f) := by
  unfold State.storeFed
  repeat'
    first
    | with_reducible assumption | with_reducible apply onDie_keeps | with_reducible apply State.onSource_keeps
    | with_reducible intro _ | with_reducible apply State.Keeps.ite
    | fail_if_no_progress with_reducible refine Die.wf_copy ?_ | split | dsimp only | assumption

theorem State.pairFed_keeps {s0 s : State} (h : s0.Keeps s) {c j next} : s0.Keeps (State.pairFed s c j next) := by
  unfold State.pairFed
  repeat'
    first
    | with_reducible assumption | with_reducible apply State.onSource_keeps | with_reducible intro _ | split
    | dsimp only | assumption

theorem State.takeSources_keeps {s0 s : State} (h : s0.Keeps s) {cv r} : s0.Keeps (State.takeSources s cv r) := by
  unfold State.takeSources
  repeat'
    first
    | with_reducible assumption | with_reducible apply State.storeFed_keeps
    | with_reducible apply State.pairFed_keeps | with_reducible apply State.onCanvas_keeps
    | with_reducible apply State.onLayer_keeps | with_reducible intro _ | with_reducible apply State.Keeps.ite
    | with_reducible apply State.Keeps.foldl | split | dsimp only | assumption

theorem State.replayBegin_keeps {s0 s : State} (h : s0.Keeps s) {cv} : s0.Keeps (State.replayBegin s cv) := by
  unfold State.replayBegin
  repeat'
    first
    | with_reducible assumption | with_reducible apply State.inOneCycle_keeps
    | with_reducible apply State.onCanvas_keeps | with_reducible apply Die.reset_wf
    | with_reducible apply State.frameBegin_keeps | with_reducible apply State.takeSources_keeps
    | with_reducible apply State.fillInputs_keeps | with_reducible apply State.writeFrec_keeps
    | with_reducible apply State.releaseStripe_keeps | with_reducible apply State.resampleStripe_keeps
    | with_reducible intro _ | with_reducible apply State.Keeps.ite | with_reducible apply State.Keeps.foldl
    | fail_if_no_progress with_reducible refine State.Keeps.copy ?_ | with_reducible apply Die.wf_foldl
    | fail_if_no_progress with_reducible refine Die.wf_copy ?_ | split | dsimp only | assumption

theorem State.replayCompose_keeps {s0 s : State} (h : s0.Keeps s) {h'} : s0.Keeps (State.replayCompose s h') := by
  unfold State.replayCompose
  repeat'
    first
    | with_reducible assumption | with_reducible apply State.scanLine_keeps
    | with_reducible apply State.fetchLine_keeps | with_reducible intro _
    | with_reducible apply State.Keeps.foldRange | split | dsimp only | assumption

theorem State.replayMismatch_keeps {s0 s : State} (h : s0.Keeps s) {cv h' stripe} : s0.Keeps (State.replayMismatch s cv h' stripe) := by
  unfold State.replayMismatch
  repeat'
    first
    | with_reducible assumption | with_reducible apply State.onCanvas_keeps
    | with_reducible apply State.countRaise_keeps | with_reducible intro _ | dsimp only | assumption

theorem State.compareOutput_keeps {s0 s : State} (h : s0.Keeps s) {c h'} : s0.Keeps (State.compareOutput s c h') := by
  unfold State.compareOutput
  repeat'
    first
    | with_reducible assumption | with_reducible apply State.replayMismatch_keeps | with_reducible intro _
    | with_reducible apply State.Keeps.ite | with_reducible apply State.Keeps.foldl | split | dsimp only
    | assumption

theorem State.copyTaps_keeps {s0 s : State} (h : s0.Keeps s) {c} : s0.Keeps (State.copyTaps s c) := by
  unfold State.copyTaps
  repeat'
    first
    | with_reducible assumption | with_reducible apply writeHost_keeps | with_reducible intro _
    | with_reducible apply State.Keeps.foldl | split | dsimp only | assumption

theorem State.replaySfn_keeps {s0 s : State} (h : s0.Keeps s) {h'} : s0.Keeps (State.replaySfn s h') := by
  unfold State.replaySfn
  repeat'
    first
    | with_reducible assumption | with_reducible apply State.windowBoundary_keeps
    | with_reducible apply State.restartBoundary_keeps | with_reducible intro _
    | with_reducible apply State.Keeps.foldl | dsimp only | assumption

theorem State.replayEnd_keeps {s0 s : State} (h : s0.Keeps s) {cv} : s0.Keeps (State.replayEnd s cv) := by
  unfold State.replayEnd
  repeat'
    first
    | with_reducible assumption | with_reducible apply State.inOneCycle_keeps
    | with_reducible apply State.replayCompose_keeps | with_reducible apply State.compareOutput_keeps
    | with_reducible apply State.copyTaps_keeps | with_reducible apply State.frameEnd_keeps
    | with_reducible apply State.canvasEnd_keeps | with_reducible apply State.replaySfn_keeps
    | with_reducible apply State.onCanvas_keeps | with_reducible apply State.unbindNow_keeps
    | with_reducible apply State.replayBegin_keeps | with_reducible intro _
    | with_reducible apply State.Keeps.ite | with_reducible apply State.Keeps.foldl
    | fail_if_no_progress with_reducible refine State.Keeps.copy ?_ | with_reducible apply Die.wf_foldl
    | fail_if_no_progress with_reducible refine Die.wf_copy ?_ | split | dsimp only | assumption

theorem fxReplayFrameAdvance_keeps {s0 s : State} (h : s0.Keeps s) {cv} : s0.Keeps (fxReplayFrameAdvance cv s) := by
  unfold fxReplayFrameAdvance
  repeat'
    first
    | with_reducible assumption | with_reducible apply State.unbindNow_keeps
    | with_reducible apply State.replayBegin_keeps | with_reducible apply State.replayLatch_keeps
    | with_reducible apply State.replayEnd_keeps | with_reducible intro _ | with_reducible apply State.Keeps.ite
    | split | dsimp only | assumption

theorem State.releaseDue_keeps {s0 s : State} (h : s0.Keeps s) {cv} : s0.Keeps (State.releaseDue s cv) := by
  unfold State.releaseDue
  repeat'
    first
    | with_reducible assumption | with_reducible apply State.onCanvas_keeps
    | with_reducible apply State.started_keeps | with_reducible apply State.endResume_keeps
    | with_reducible apply State.replayBegin_keeps | with_reducible apply State.releaseLive_keeps
    | with_reducible intro _ | with_reducible apply State.Keeps.ite | with_reducible apply State.Keeps.foldl
    | fail_if_no_progress with_reducible refine State.Keeps.copy ?_ | with_reducible apply Die.wf_foldl
    | fail_if_no_progress with_reducible refine Die.wf_copy ?_ | split | dsimp only | assumption

theorem fxFirstRelease_keeps {s0 s : State} (h : s0.Keeps s) {d cv} : s0.Keeps (fxFirstRelease d cv s) := by
  unfold fxFirstRelease
  repeat'
    first
    | with_reducible assumption | with_reducible apply State.onCanvas_keeps
    | with_reducible apply State.releaseDue_keeps | with_reducible intro _ | with_reducible apply State.Keeps.ite
    | split | dsimp only | assumption

theorem Die.startRecorder_wf {x : Die} (h : x.wf = true) {w} : (Die.startRecorder x w).wf = true := by
  unfold Die.startRecorder
  repeat'
    first
    | with_reducible assumption | with_reducible apply Die.setField_wf | with_reducible apply setReg_wf
    | with_reducible intro _ | fail_if_no_progress with_reducible refine Die.wf_copy ?_ | dsimp only | assumption

theorem State.recCtrl_keeps {s0 s : State} (h : s0.Keeps s) {d value} : s0.Keeps (State.recCtrl s d value) := by
  unfold State.recCtrl
  repeat'
    first
    | with_reducible assumption | with_reducible apply onDie_keeps | with_reducible apply Die.setField_wf
    | with_reducible apply setReg_wf | with_reducible apply State.setReg_keeps
    | with_reducible apply Die.startRecorder_wf | with_reducible apply State.recordConfigs_keeps
    | with_reducible intro _ | with_reducible apply State.Keeps.ite | split | dsimp only | assumption

theorem fxDetRecCtrlWrite_keeps {s0 s : State} (h : s0.Keeps s) {d value} : s0.Keeps (fxDetRecCtrlWrite d value s) := by
  unfold fxDetRecCtrlWrite
  repeat'
    first
    | with_reducible assumption | with_reducible apply State.guardedWrite_keeps
    | with_reducible apply State.recCtrl_keeps | with_reducible intro _ | dsimp only | assumption

end Sys2Proof.Machine
end

