-- ==== Sys2Proof/Laws/KeepsSense.lean ====
section
/-! SUPPORT. What the operations of Sense.lean keep. -/

namespace Sys2Proof.Machine

theorem State.onTask_keeps {s0 s : State} (h : s0.Keeps s) {slot f} : s0.Keeps (State.onTask s slot f) := by
  unfold State.onTask
  repeat'
    first
    | with_reducible assumption | with_reducible intro _
    | fail_if_no_progress with_reducible refine State.Keeps.copy ?_ | dsimp only | assumption

theorem State.skipTask_keeps {s0 s : State} (h : s0.Keeps s) {slot} : s0.Keeps (State.skipTask s slot) := by
  unfold State.skipTask
  repeat'
    first
    | with_reducible assumption | with_reducible apply State.countRaise_keeps
    | with_reducible apply State.onTask_keeps | with_reducible intro _ | dsimp only | assumption

theorem State.issueTask_keeps {s0 s : State} (h : s0.Keeps s) {slot} : s0.Keeps (State.issueTask s slot) := by
  unfold State.issueTask
  repeat'
    first
    | with_reducible assumption | with_reducible apply State.onTask_keeps | with_reducible intro _ | dsimp only
    | assumption

theorem State.serveBus_keeps {s0 s : State} (h : s0.Keeps s) {bus} : s0.Keeps (State.serveBus s bus) := by
  unfold State.serveBus
  repeat'
    first
    | with_reducible assumption | with_reducible apply State.skipTask_keeps
    | with_reducible apply State.issueTask_keeps | with_reducible intro _ | with_reducible apply State.Keeps.ite
    | with_reducible apply State.Keeps.foldl | split | dsimp only | assumption

theorem State.taskLine_keeps {s0 s : State} (h : s0.Keeps s) {h' line slot} : s0.Keeps (State.taskLine s h' line slot) := by
  unfold State.taskLine
  repeat'
    first
    | with_reducible assumption | with_reducible apply State.onTask_keeps
    | with_reducible apply State.skipTask_keeps | with_reducible intro _ | with_reducible apply State.Keeps.ite
    | split | dsimp only | assumption

theorem State.senseLine_keeps {s0 s : State} (h : s0.Keeps s) {h' line} : s0.Keeps (State.senseLine s h' line) := by
  unfold State.senseLine
  repeat'
    first
    | with_reducible assumption | with_reducible apply State.taskLine_keeps
    | with_reducible apply State.serveBus_keeps | with_reducible intro _ | with_reducible apply State.Keeps.foldl
    | with_reducible apply State.Keeps.foldRange | dsimp only | assumption

theorem fxSenseTransactionEnd_keeps {s0 s : State} (h : s0.Keeps s) {slot r} : s0.Keeps (fxSenseTransactionEnd slot r s) := by
  unfold fxSenseTransactionEnd
  repeat'
    first
    | with_reducible assumption | with_reducible apply State.onTask_keeps
    | with_reducible apply State.recordSensor_keeps | with_reducible apply State.countRaise_keeps
    | with_reducible apply State.serveBus_keeps | with_reducible intro _ | with_reducible apply State.Keeps.ite
    | split | dsimp only | assumption

theorem fxSnsTaskSelWrite_keeps {s0 s : State} (h : s0.Keeps s) {value} : s0.Keeps (fxSnsTaskSelWrite value s) := by
  unfold fxSnsTaskSelWrite
  repeat'
    first
    | with_reducible assumption | with_reducible apply State.guardedWrite_keeps
    | with_reducible apply State.setReg_keeps | with_reducible intro _
    | fail_if_no_progress with_reducible refine State.Keeps.copy ?_ | dsimp only | assumption

theorem fxSnsTaskDataWrite_keeps {s0 s : State} (h : s0.Keeps s) {w value} : s0.Keeps (fxSnsTaskDataWrite w value s) := by
  unfold fxSnsTaskDataWrite
  repeat'
    first
    | with_reducible assumption | with_reducible apply State.guardedWrite_keeps
    | with_reducible apply State.onTask_keeps | with_reducible intro _ | with_reducible apply State.Keeps.ite
    | fail_if_no_progress with_reducible refine State.Keeps.copy ?_ | split | dsimp only | assumption

theorem State.setDuty_keeps {s0 s : State} (h : s0.Keeps s) {k v} : s0.Keeps (State.setDuty s k v) := by
  unfold State.setDuty
  repeat'
    first
    | with_reducible assumption | with_reducible intro _
    | fail_if_no_progress with_reducible refine State.Keeps.copy ?_ | dsimp only | assumption

theorem fxSnsPwmWrite_keeps {s0 s : State} (h : s0.Keeps s) {k value} : s0.Keeps (fxSnsPwmWrite k value s) := by
  unfold fxSnsPwmWrite
  repeat'
    first
    | with_reducible assumption | with_reducible apply State.guardedWrite_keeps
    | with_reducible apply State.setReg_keeps | with_reducible apply State.setDuty_keeps | with_reducible intro _
    | with_reducible apply State.Keeps.ite | fail_if_no_progress with_reducible refine State.Keeps.copy ?_ | split
    | dsimp only | assumption

theorem State.pwmBoundary_keeps {s0 s : State} (h : s0.Keeps s) {h'} : s0.Keeps (State.pwmBoundary s h') := by
  unfold State.pwmBoundary
  repeat'
    first
    | with_reducible assumption | with_reducible apply State.setDuty_keeps | with_reducible intro _
    | with_reducible apply State.Keeps.ite | with_reducible apply State.Keeps.foldl | split | dsimp only
    | assumption

end Sys2Proof.Machine
end

