-- ==== Sys2Proof/Laws/KeepsLine.lean ====
section
/-! SUPPORT. What the operations of Line.lean keep. -/

namespace Sys2Proof.Machine

theorem State.teBoundary_keeps {s0 s : State} (h : s0.Keeps s) {h'} : s0.Keeps (State.teBoundary s h') := by
  unfold State.teBoundary
  repeat'
    first
    | with_reducible assumption | with_reducible apply onDie_keeps | with_reducible intro _
    | fail_if_no_progress with_reducible refine Die.wf_copy ?_ | dsimp only | assumption

theorem State.headBoundary_keeps {s0 s : State} (h : s0.Keeps s) {h' step} : s0.Keeps (State.headBoundary s h' step) := by
  unfold State.headBoundary
  repeat'
    first
    | with_reducible assumption | with_reducible apply State.standbyBoundary_keeps
    | with_reducible apply State.teBoundary_keeps | with_reducible apply State.pwmBoundary_keeps
    | with_reducible apply State.sfnBoundary_keeps | with_reducible intro _ | dsimp only | assumption

theorem State.plainTotal_keeps {s0 s : State} (h : s0.Keeps s) {h} : s0.Keeps (State.plainTotal s h) := by
  unfold State.plainTotal
  repeat'
    first
    | with_reducible assumption | with_reducible apply onDie_keeps | with_reducible intro _
    | fail_if_no_progress with_reducible refine State.Keeps.copy ?_
    | fail_if_no_progress with_reducible refine Die.wf_copy ?_ | split | dsimp only | assumption

theorem State.soloBoundary_keeps {s0 s : State} (h : s0.Keeps s) {h'} : s0.Keeps (State.soloBoundary s h') := by
  unfold State.soloBoundary
  repeat'
    first
    | with_reducible assumption | with_reducible apply State.headBoundary_keeps
    | with_reducible apply State.plainTotal_keeps | with_reducible apply State.frameBegin_keeps
    | with_reducible apply State.frameEnd_keeps | with_reducible intro _ | dsimp only | assumption

theorem State.canvasBoundary_keeps {s0 s : State} (h : s0.Keeps s) {c} : s0.Keeps (State.canvasBoundary s c) := by
  unfold State.canvasBoundary
  repeat'
    first
    | with_reducible assumption | with_reducible apply State.canvasEnd_keeps
    | with_reducible apply State.frameEnd_keeps | with_reducible apply State.unbindNow_keeps
    | with_reducible apply State.onCanvas_keeps | with_reducible apply State.canvasBegin_keeps
    | with_reducible apply State.frameBegin_keeps | with_reducible apply State.plainTotal_keeps
    | with_reducible apply State.resumeBoundary_keeps | with_reducible apply State.lockBoundary_keeps
    | with_reducible apply State.headBoundary_keeps | with_reducible intro _ | with_reducible apply State.Keeps.ite
    | with_reducible apply State.Keeps.foldl | split | dsimp only | assumption

theorem State.boundary_keeps {s0 s : State} (h : s0.Keeps s) {h} : s0.Keeps (State.boundary s h) := by
  unfold State.boundary
  repeat'
    first
    | with_reducible assumption | with_reducible apply State.inOneCycle_keeps
    | with_reducible apply State.soloBoundary_keeps | with_reducible apply State.canvasBoundary_keeps
    | with_reducible intro _ | with_reducible apply State.Keeps.ite
    | fail_if_no_progress with_reducible refine Die.wf_copy ?_ | split | dsimp only | assumption

theorem State.latchDeadlines_keeps {s0 s : State} (h : s0.Keeps s) {c h' r} : s0.Keeps (State.latchDeadlines s c h' r) := by
  unfold State.latchDeadlines
  repeat'
    first
    | with_reducible assumption | with_reducible apply State.latchPart_keeps | with_reducible intro _
    | with_reducible apply State.Keeps.foldl | dsimp only | assumption

theorem State.releaseInputs_keeps {s0 s : State} (h : s0.Keeps s) {cv stripe} : s0.Keeps (State.releaseInputs s cv stripe) := by
  unfold State.releaseInputs
  repeat'
    first
    | with_reducible assumption | with_reducible apply State.retimePorts_keeps
    | with_reducible apply State.retimeCanvas_keeps | with_reducible apply State.fillInputs_keeps
    | with_reducible apply State.writeFrec_keeps | with_reducible intro _ | with_reducible apply State.Keeps.ite
    | with_reducible apply State.Keeps.foldl | split | dsimp only | assumption

theorem State.releaseLine_keeps {s0 s : State} (h : s0.Keeps s) {cv stripe} :
    s0.Keeps (State.releaseLine s cv stripe) := by
  unfold State.releaseLine
  repeat'
    first
    | with_reducible assumption | with_reducible apply State.releaseInputs_keeps
    | with_reducible apply State.endOld_keeps | with_reducible apply State.pruneFrame_keeps
    | with_reducible apply State.onCanvas_keeps | with_reducible apply State.releaseLive_keeps
    | with_reducible intro _ | with_reducible apply State.Keeps.ite
    | fail_if_no_progress with_reducible refine State.Keeps.copy ?_
    | fail_if_no_progress with_reducible refine Die.wf_copy ?_ | split | dsimp only | assumption

theorem State.resampleLine_keeps {s0 s : State} (h : s0.Keeps s) {c h' r inp} : s0.Keeps (State.resampleLine s c h' r inp) := by
  unfold State.resampleLine
  repeat'
    first
    | with_reducible assumption | with_reducible apply State.resampleStripe_keeps | with_reducible intro _
    | with_reducible apply State.Keeps.ite | with_reducible apply State.Keeps.foldl | split | dsimp only
    | assumption

theorem State.canvasLine_keeps {s0 s : State} (h : s0.Keeps s) {c h' r inp} : s0.Keeps (State.canvasLine s c h' r inp) := by
  unfold State.canvasLine
  repeat'
    first
    | with_reducible assumption | with_reducible apply State.latchDeadlines_keeps
    | with_reducible apply State.releaseLine_keeps | with_reducible apply State.resampleLine_keeps
    | with_reducible intro _ | with_reducible apply State.Keeps.ite | with_reducible apply State.Keeps.foldl
    | split | dsimp only | assumption

theorem State.soloLine_keeps {s0 s : State} (h : s0.Keeps s) {h' r first} : s0.Keeps (State.soloLine s h' r first) := by
  unfold State.soloLine
  repeat'
    first
    | with_reducible assumption | with_reducible apply State.retimePorts_keeps | with_reducible intro _
    | with_reducible apply State.Keeps.ite | split | dsimp only | assumption

theorem State.scanNow_keeps {s0 s : State} (h : s0.Keeps s) {h line accept} :
    s0.Keeps (State.scanNow s h line accept) := by
  unfold State.scanNow
  repeat'
    first
    | with_reducible assumption | with_reducible apply State.scanLine_keeps
    | with_reducible apply State.endDown_keeps | with_reducible apply onDie_keeps | with_reducible intro _
    | with_reducible apply State.Keeps.ite | fail_if_no_progress with_reducible refine State.Keeps.copy ?_
    | fail_if_no_progress with_reducible refine Die.wf_copy ?_ | split | dsimp only | assumption

theorem State.lineWork_keeps {s0 s : State} (h : s0.Keeps s) {h' m inp} : s0.Keeps (State.lineWork s h' m inp) := by
  unfold State.lineWork
  repeat'
    first
    | with_reducible assumption | with_reducible apply State.scanNow_keeps
    | with_reducible apply State.canvasLine_keeps | with_reducible apply State.soloLine_keeps
    | with_reducible apply State.fetchLine_keeps | with_reducible apply State.senseLine_keeps
    | with_reducible intro _ | with_reducible apply State.Keeps.ite | split | dsimp only | assumption

theorem State.advanceLine_keeps {s0 s : State} (h : s0.Keeps s) {h'} : s0.Keeps (State.advanceLine s h') := by
  unfold State.advanceLine
  repeat'
    first
    | with_reducible assumption | with_reducible apply onDie_keeps | with_reducible intro _
    | with_reducible apply State.Keeps.ite | fail_if_no_progress with_reducible refine Die.wf_copy ?_ | split
    | dsimp only | assumption

theorem fxLineStart_keeps {s0 s : State} (h : s0.Keeps s) {h' inp} : s0.Keeps (fxLineStart h' inp s) := by
  unfold fxLineStart
  repeat'
    first
    | with_reducible assumption | with_reducible apply State.advanceLine_keeps
    | with_reducible apply State.boundary_keeps | with_reducible apply State.lineWork_keeps
    | with_reducible intro _ | with_reducible apply State.Keeps.ite | split | dsimp only | assumption

theorem fxFallbackComplete_keeps {s0 s : State} (h : s0.Keeps s) {h' layer stripe} : s0.Keeps (fxFallbackComplete h' layer stripe s) := by
  unfold fxFallbackComplete
  repeat'
    first
    | with_reducible assumption | with_reducible apply State.onCanvas_keeps
    | with_reducible apply State.replayLatch_keeps | with_reducible intro _ | with_reducible apply State.Keeps.ite
    | split | dsimp only | assumption

end Sys2Proof.Machine
end

