-- ==== Sys2Proof/Laws/KeepsLinks.lean ====
section
/-! SUPPORT. What the operations of Links.lean keep. -/

namespace Sys2Proof.Machine

theorem State.onTe_keeps {s0 s : State} (h : s0.Keeps s) {h' f} : s0.Keeps (State.onTe s h' f) := by
  unfold State.onTe
  repeat'
    first
    | with_reducible assumption | with_reducible apply onDie_keeps | with_reducible intro _
    | fail_if_no_progress with_reducible refine Die.wf_copy ?_ | dsimp only | assumption

theorem State.teEdge_keeps {s0 s : State} (h : s0.Keeps s) {h} : s0.Keeps (State.teEdge s h) := by
  unfold State.teEdge
  repeat'
    first
    | with_reducible assumption | with_reducible apply State.onTe_keeps
    | with_reducible apply State.raiseHead_keeps | with_reducible intro _ | with_reducible apply State.Keeps.ite
    | fail_if_no_progress with_reducible refine State.Keeps.copy ?_
    | fail_if_no_progress with_reducible refine Die.wf_copy ?_ | split | dsimp only | assumption

theorem fxTeEdge_keeps {s0 s : State} (h : s0.Keeps s) {h rising} : s0.Keeps (fxTeEdge h rising s) := by
  unfold fxTeEdge
  repeat'
    first
    | with_reducible assumption | with_reducible apply State.teEdge_keeps | with_reducible intro _
    | with_reducible apply State.Keeps.ite | split | dsimp only | assumption

theorem fxTeTimeout_keeps {s0 s : State} (h : s0.Keeps s) {h edge} : s0.Keeps (fxTeTimeout h edge s) := by
  unfold fxTeTimeout
  repeat'
    first
    | with_reducible assumption | with_reducible apply State.teEdge_keeps
    | with_reducible apply State.onTe_keeps | with_reducible apply HostSide.count_ok
    | with_reducible apply Die.count_wf | with_reducible apply State.count_keeps
    | with_reducible apply State.raiseHead_keeps | with_reducible intro _ | with_reducible apply State.Keeps.ite
    | fail_if_no_progress with_reducible refine State.Keeps.copy ?_
    | fail_if_no_progress with_reducible refine Die.wf_copy ?_ | split | dsimp only | assumption

theorem fxLinkDown_keeps {s0 s : State} (h : s0.Keeps s) {h' hotPlug} : s0.Keeps (fxLinkDown h' hotPlug s) := by
  unfold fxLinkDown
  repeat'
    first
    | with_reducible assumption | with_reducible apply State.startDown_keeps
    | with_reducible apply State.dropLink_keeps | with_reducible intro _ | with_reducible apply State.Keeps.ite
    | split | dsimp only | assumption

theorem fxLinkUp_keeps {s0 s : State} (h : s0.Keeps s) {h'} : s0.Keeps (fxLinkUp h' s) := by
  unfold fxLinkUp
  repeat'
    first
    | with_reducible assumption | with_reducible apply onDie_keeps | with_reducible apply Die.setField_wf
    | with_reducible apply State.raiseHead_keeps | with_reducible apply State.count_keeps | with_reducible intro _
    | with_reducible apply State.Keeps.ite | fail_if_no_progress with_reducible refine Die.wf_copy ?_ | split
    | dsimp only | assumption

theorem fxHdcpFail_keeps {s0 s : State} (h : s0.Keeps s) {h'} : s0.Keeps (fxHdcpFail h' s) := by
  unfold fxHdcpFail
  repeat'
    first
    | with_reducible assumption | with_reducible apply State.raiseHead_keeps | with_reducible apply onDie_keeps
    | with_reducible apply Die.setField_wf | with_reducible intro _
    | fail_if_no_progress with_reducible refine Die.wf_copy ?_ | dsimp only | assumption

theorem fxHdcpAuthenticated_keeps {s0 s : State} (h : s0.Keeps s) {h' contentType} : s0.Keeps (fxHdcpAuthenticated h' contentType s) := by
  unfold fxHdcpAuthenticated
  repeat'
    first
    | with_reducible assumption | with_reducible apply onDie_keeps | with_reducible apply Die.setField_wf
    | with_reducible intro _ | with_reducible apply State.Keeps.ite
    | fail_if_no_progress with_reducible refine Die.wf_copy ?_ | split | dsimp only | assumption

theorem State.lockTo_keeps {s0 s : State} (h : s0.Keeps s) {c at_ want} : s0.Keeps (State.lockTo s c at_ want) := by
  unfold State.lockTo
  repeat'
    first
    | with_reducible assumption | with_reducible apply State.setLock_keeps | with_reducible intro _
    | with_reducible apply State.Keeps.ite | fail_if_no_progress with_reducible refine State.Keeps.copy ?_
    | fail_if_no_progress with_reducible refine Die.wf_copy ?_ | split | dsimp only | assumption

theorem fxGenlockEdge_keeps {s0 s : State} (h : s0.Keeps s) {cv ref pixel} :
    s0.Keeps (fxGenlockEdge cv ref pixel s) := by
  unfold fxGenlockEdge
  repeat'
    first
    | with_reducible assumption | with_reducible apply State.lockTo_keeps | with_reducible intro _
    | with_reducible apply State.Keeps.ite | fail_if_no_progress with_reducible refine Die.wf_copy ?_ | split
    | dsimp only | assumption

theorem fxHoldover_keeps {s0 s : State} (h : s0.Keeps s) {cv} : s0.Keeps (fxHoldover cv s) := by
  unfold fxHoldover
  repeat'
    first
    | with_reducible assumption | with_reducible apply State.setLock_keeps | with_reducible intro _
    | with_reducible apply State.Keeps.ite | split | dsimp only | assumption

theorem State.ptpCanvas_keeps {s0 s : State} (h : s0.Keeps s) {c m changed} :
    s0.Keeps (State.ptpCanvas s c m changed) := by
  unfold State.ptpCanvas
  repeat'
    first
    | with_reducible assumption | with_reducible apply State.lockTo_keeps
    | with_reducible apply State.setLock_keeps | with_reducible intro _ | with_reducible apply State.Keeps.ite
    | fail_if_no_progress with_reducible refine State.Keeps.copy ?_
    | fail_if_no_progress with_reducible refine Die.wf_copy ?_ | split | dsimp only | assumption

theorem fxPtpMessage_keeps {s0 s : State} (h : s0.Keeps s) {d m} : s0.Keeps (fxPtpMessage d m s) := by
  unfold fxPtpMessage
  repeat'
    first
    | with_reducible assumption | with_reducible apply State.setReg_keeps | with_reducible apply State.raise_keeps
    | with_reducible apply State.ptpCanvas_keeps | with_reducible intro _ | with_reducible apply State.Keeps.ite
    | with_reducible apply State.Keeps.foldl | fail_if_no_progress with_reducible refine State.Keeps.copy ?_
    | split | dsimp only | assumption

end Sys2Proof.Machine
end

