-- ==== Sys2Proof/Laws/KeepsRas.lean ====
section
/-! SUPPORT. What the operations of Ras.lean keep. -/

namespace Sys2Proof.Machine

theorem fxBigTopScrubStep_keeps {s0 s : State} (h : s0.Keeps s) {d bank r} : s0.Keeps (fxBigTopScrubStep d bank r s) := by
  unfold fxBigTopScrubStep
  repeat'
    first
    | with_reducible assumption | with_reducible apply onDie_keeps | with_reducible apply Die.setField_wf
    | with_reducible apply State.count_keeps | with_reducible apply State.eccError_keeps | with_reducible intro _
    | with_reducible apply State.Keeps.ite | fail_if_no_progress with_reducible refine Die.wf_copy ?_ | split
    | dsimp only | assumption

theorem fxDramPatrolScrubStep_keeps {s0 s : State} (h : s0.Keeps s) {d channel r} : s0.Keeps (fxDramPatrolScrubStep d channel r s) := by
  unfold fxDramPatrolScrubStep
  repeat'
    first
    | with_reducible assumption | with_reducible apply onDie_keeps | with_reducible apply State.eccError_keeps
    | with_reducible intro _ | with_reducible apply State.Keeps.ite
    | fail_if_no_progress with_reducible refine Die.wf_copy ?_ | split | dsimp only | assumption

theorem fxTelemetrySample_keeps {s0 s : State} (h : s0.Keeps s) : s0.Keeps (fxTelemetrySample s) := by
  unfold fxTelemetrySample
  repeat'
    first
    | with_reducible assumption | with_reducible intro _
    | fail_if_no_progress with_reducible refine State.Keeps.copy ?_ | dsimp only | assumption

theorem fxDdr5Calibration_keeps {s0 s : State} (h : s0.Keeps s) {d channel} : s0.Keeps (fxDdr5Calibration d channel s) := by
  unfold fxDdr5Calibration
  repeat'
    first
    | with_reducible assumption | with_reducible apply onDie_keeps | with_reducible intro _
    | with_reducible apply State.Keeps.ite | fail_if_no_progress with_reducible refine Die.wf_copy ?_ | split
    | dsimp only | assumption

theorem State.onLinkEnds_keeps {s0 s : State} (h : s0.Keeps s) {d k f} : s0.Keeps (State.onLinkEnds s d k f) := by
  unfold State.onLinkEnds
  repeat'
    first
    | with_reducible assumption | with_reducible apply onDie_keeps | with_reducible apply Die.onLink_wf
    | with_reducible intro _ | split | dsimp only | assumption

theorem State.reroute_keeps {s0 s : State} (h : s0.Keeps s) : s0.Keeps (State.reroute s) := by
  unfold State.reroute
  repeat'
    first
    | with_reducible assumption | with_reducible intro _ | with_reducible apply State.Keeps.ite
    | fail_if_no_progress with_reducible refine State.Keeps.copy ?_
    | fail_if_no_progress with_reducible refine Die.wf_copy ?_ | split | dsimp only | assumption

theorem State.failLink_keeps {s0 s : State} (h : s0.Keeps s) {d k} : s0.Keeps (State.failLink s d k) := by
  unfold State.failLink
  repeat'
    first
    | with_reducible assumption | with_reducible apply State.onLinkEnds_keeps
    | with_reducible apply HostSide.count_ok | with_reducible apply Die.count_wf
    | with_reducible apply State.count_keeps | with_reducible apply State.raise_keeps
    | with_reducible apply HostSide.raise_ok | with_reducible apply State.reroute_keeps | with_reducible intro _
    | dsimp only | assumption

theorem fxGaideFlitError_keeps {s0 s : State} (h : s0.Keeps s) {d link again} : s0.Keeps (fxGaideFlitError d link again s) := by
  unfold fxGaideFlitError
  repeat'
    first
    | with_reducible assumption | with_reducible apply onDie_keeps | with_reducible apply Die.count_wf
    | with_reducible apply Die.onLink_wf | with_reducible apply setReg_wf
    | with_reducible apply State.failLink_keeps | with_reducible intro _ | with_reducible apply State.Keeps.ite
    | fail_if_no_progress with_reducible refine State.Keeps.copy ?_ | split | dsimp only | assumption

theorem fxGaideLaneLoss_keeps {s0 s : State} (h : s0.Keeps s) {d link} : s0.Keeps (fxGaideLaneLoss d link s) := by
  unfold fxGaideLaneLoss
  repeat'
    first
    | with_reducible assumption | with_reducible apply State.failLink_keeps | with_reducible intro _
    | with_reducible apply State.Keeps.ite | split | dsimp only | assumption

theorem State.mctpRequest_keeps {s0 s : State} (h : s0.Keeps s) {op data} : s0.Keeps (State.mctpRequest s op data) := by
  unfold State.mctpRequest
  repeat'
    first
    | with_reducible assumption | with_reducible apply State.authRequest_keeps
    | with_reducible apply State.attestRequest_keeps | with_reducible apply State.otpRequest_keeps
    | with_reducible apply State.keystoreRequest_keeps | with_reducible apply State.auditRequest_keeps
    | with_reducible apply State.srmRequest_keeps | with_reducible apply State.bootRequest_keeps
    | with_reducible intro _ | split | dsimp only | assumption

theorem fxMctpMessage_keeps {s0 s : State} (h : s0.Keeps s) {m} : s0.Keeps (fxMctpMessage m s) := by
  unfold fxMctpMessage
  repeat'
    first
    | with_reducible assumption | with_reducible apply State.endStandby_keeps
    | with_reducible apply State.storeSettings_keeps | with_reducible apply State.mctpRequest_keeps
    | with_reducible intro _ | split | dsimp only | assumption

end Sys2Proof.Machine
end

