-- ==== Sys2Proof/Laws/KeepsRegWrite.lean ====
section
/-! SUPPORT. What the operations of RegWrite.lean keep. -/

namespace Sys2Proof.Machine

theorem State.clearFlags_keeps {s0 s : State} (h : s0.Keeps s) {d off value hw} : s0.Keeps (State.clearFlags s d off value hw) := by
  unfold State.clearFlags
  repeat'
    first
    | with_reducible assumption | with_reducible apply State.raiseHead_keeps
    | with_reducible apply State.raise_keeps | with_reducible apply State.setReg_keeps | with_reducible intro _
    | with_reducible apply State.Keeps.ite | split | dsimp only | assumption

theorem State.plainWrite_keeps {s0 s : State} (h : s0.Keeps s) {d off value hw} : s0.Keeps (State.plainWrite s d off value hw) := by
  unfold State.plainWrite
  repeat'
    first
    | with_reducible assumption | with_reducible apply State.clearFlags_keeps
    | with_reducible apply State.lockedWrite_keeps | with_reducible apply setReg_wf
    | with_reducible apply State.storeReg_keeps | with_reducible intro _ | with_reducible apply State.Keeps.ite
    | split | dsimp only | assumption

theorem State.clears_keeps {s0 s : State} (h : s0.Keeps s) {value f} (hf : ∀ t : State, s0.Keeps t → s0.Keeps (f t)) : s0.Keeps (State.clears s value f) := by
  unfold State.clears
  repeat'
    first
    | with_reducible assumption | with_reducible apply hf | with_reducible intro _
    | with_reducible apply State.Keeps.ite | split | dsimp only | assumption

theorem State.clearWrite_keepsO {s0 s : State} (h : s0.Keeps s) {d off value hw} : s0.KeepsO (State.clearWrite s d off value hw) := by
  unfold State.clearWrite
  repeat'
    first
    | with_reducible assumption | with_reducible apply State.clears_keeps | with_reducible apply fxMxeCntClr_keeps
    | with_reducible apply fxWinCntClr_keeps | with_reducible apply fxRmsCntClr_keeps
    | with_reducible apply fxCrsCntClr_keeps | with_reducible apply fxJglCntClr_keeps
    | with_reducible apply fxMotCntClr_keeps | with_reducible apply fxCmpCntClr_keeps
    | with_reducible apply fxScnCntClr_keeps | with_reducible apply fxTslCntClr_keeps
    | with_reducible apply fxDetCntClr_keeps | with_reducible apply fxSfnCntClr_keeps
    | with_reducible apply fxSecCntClr_keeps | with_reducible apply fxNvmCntClr_keeps
    | with_reducible apply fxPwrCntClr_keeps | with_reducible apply fxSnsCntClr_keeps
    | with_reducible apply fxGdeCntClr_keeps | with_reducible intro _ | with_reducible apply State.KeepsO.ite
    | with_reducible apply State.KeepsO.some | with_reducible exact State.KeepsO.none
    | with_reducible apply State.Keeps.ite | split | dsimp only | assumption

theorem State.commitWrite_keeps {s0 s : State} (h : s0.Keeps s) {d value} : s0.Keeps (State.commitWrite s d value) := by
  unfold State.commitWrite
  repeat'
    first
    | with_reducible assumption | with_reducible apply State.setField_keeps
    | with_reducible apply fxCommitSpan_keeps | with_reducible apply fxCommit_keeps | with_reducible intro _
    | with_reducible apply State.Keeps.ite | split | dsimp only | assumption

theorem State.readPointer_keeps {s0 s : State} (h : s0.Keeps s) {d value} : s0.Keeps (State.readPointer s d value) := by
  unfold State.readPointer
  repeat'
    first
    | with_reducible assumption | with_reducible apply onDie_keeps | with_reducible apply State.storeReg_keeps
    | with_reducible intro _ | with_reducible apply State.Keeps.ite
    | fail_if_no_progress with_reducible refine Die.wf_copy ?_ | split | dsimp only | assumption

theorem State.pictureWrite_keepsO {s0 s : State} (h : s0.Keeps s) {d off value} : s0.KeepsO (State.pictureWrite s d off value) := by
  unfold State.pictureWrite
  repeat'
    first
    | with_reducible assumption | with_reducible apply State.commitWrite_keeps
    | with_reducible apply fxCmpLutDataWrite_keeps | with_reducible apply fxCmpCoefDataWrite_keeps
    | with_reducible apply fxTslSelWrite_keeps | with_reducible apply onDie_keeps
    | with_reducible apply State.storeReg_keeps | with_reducible apply Die.showCapture_wf
    | with_reducible apply fxTslDumpGo_keeps | with_reducible apply fxDetRecCtrlWrite_keeps
    | with_reducible apply State.readPointer_keeps | with_reducible intro _ | with_reducible apply State.KeepsO.ite
    | with_reducible apply State.KeepsO.some | with_reducible exact State.KeepsO.none
    | with_reducible apply State.Keeps.ite | split | dsimp only | assumption

theorem State.sfnTrigger_keeps {s0 s : State} (h : s0.Keeps s) {d value hw} : s0.Keeps (State.sfnTrigger s d value hw) := by
  unfold State.sfnTrigger
  repeat'
    first
    | with_reducible assumption | with_reducible apply State.sfnCtrlWrite_keeps
    | with_reducible apply State.clearLatch_keeps | with_reducible apply State.clearIg_keeps
    | with_reducible intro _ | with_reducible apply State.Keeps.ite | split | dsimp only | assumption

theorem State.igCfgWrite_keeps {s0 s : State} (h : s0.Keeps s) {value} : s0.Keeps (State.igCfgWrite s value) := by
  unfold State.igCfgWrite
  repeat'
    first
    | with_reducible assumption | with_reducible apply State.guardedWrite_keeps
    | with_reducible apply State.onIg_keeps | with_reducible intro _ | dsimp only | assumption

theorem State.sfnWrite_keepsO {s0 s : State} (h : s0.Keeps s) {d off value hw} : s0.KeepsO (State.sfnWrite s d off value hw) := by
  unfold State.sfnWrite
  repeat'
    first
    | with_reducible assumption | with_reducible apply fxSfnTMeanWrite_keeps
    | with_reducible apply fxSfnTMaxWrite_keeps | with_reducible apply fxSfnHfWrite_keeps
    | with_reducible apply fxSfnTFlashWrite_keeps | with_reducible apply fxSfnCapWrite_keeps
    | with_reducible apply State.settingWrite_keeps | with_reducible apply State.clears_keeps
    | with_reducible apply fxSfnInjGo_keeps | with_reducible apply State.sfnTrigger_keeps
    | with_reducible apply State.igCfgWrite_keeps | with_reducible intro _ | with_reducible apply State.KeepsO.ite
    | with_reducible apply State.KeepsO.some | with_reducible exact State.KeepsO.none
    | with_reducible apply State.Keeps.ite | split | dsimp only | assumption

theorem State.resetRegister_keeps {s0 s : State} (h : s0.Keeps s) {value} : s0.Keeps (State.resetRegister s value) := by
  unfold State.resetRegister
  repeat'
    first
    | with_reducible assumption | with_reducible apply State.guardedWrite_keeps
    | with_reducible apply State.setReg_keeps | with_reducible apply State.resetDie_keeps
    | with_reducible apply State.resetPart_keeps | with_reducible intro _ | with_reducible apply State.Keeps.ite
    | with_reducible apply State.Keeps.foldl | split | dsimp only | assumption

theorem State.requestWrite_keeps {s0 s : State} (h : s0.Keeps s) {value} : s0.Keeps (State.requestWrite s value) := by
  unfold State.requestWrite
  repeat'
    first
    | with_reducible assumption | with_reducible apply State.setField_keeps
    | with_reducible apply fxSessionDrop_keeps | with_reducible intro _ | with_reducible apply State.Keeps.ite
    | split | dsimp only | assumption

theorem State.secWrite_keepsO {s0 s : State} (h : s0.Keeps s) {d off value} : s0.KeepsO (State.secWrite s d off value) := by
  unfold State.secWrite
  repeat'
    first
    | with_reducible assumption | with_reducible apply State.requestWrite_keeps
    | with_reducible apply State.resetRegister_keeps | with_reducible apply State.clears_keeps
    | with_reducible apply fxStore_keeps | with_reducible apply fxNvmAuditSelWrite_keeps | with_reducible intro _
    | with_reducible apply State.KeepsO.ite | with_reducible apply State.KeepsO.some
    | with_reducible exact State.KeepsO.none | with_reducible apply State.Keeps.ite | split | dsimp only
    | assumption

theorem State.clockWrite_keepsO {s0 s : State} (h : s0.Keeps s) {d off value} : s0.KeepsO (State.clockWrite s d off value) := by
  unfold State.clockWrite
  repeat'
    first
    | with_reducible assumption | with_reducible apply State.powerWrite_keeps
    | with_reducible apply fxPwrCapWrite_keeps | with_reducible apply fxClkLockCfgWrite_keeps
    | with_reducible apply fxSnsPwmWrite_keeps | with_reducible apply fxSnsTaskSelWrite_keeps
    | with_reducible apply fxSnsTaskDataWrite_keeps | with_reducible intro _
    | with_reducible apply State.KeepsO.ite | with_reducible apply State.KeepsO.some
    | with_reducible exact State.KeepsO.none | with_reducible apply State.Keeps.ite | split | dsimp only
    | assumption

theorem State.dieWrite_keeps {s0 s : State} (h : s0.Keeps s) {d off value hw} :
    s0.Keeps (State.dieWrite s d off value hw) := by
  unfold State.dieWrite
  have k := (State.secWrite_keepsO h (d := d) (off := off) (value := value)).or
    ((State.clockWrite_keepsO h (d := d) (off := off) (value := value)).or
      ((State.clearWrite_keepsO h (d := d) (off := off) (value := value) (hw := hw)).or
        ((State.pictureWrite_keepsO h (d := d) (off := off) (value := value)).or
          (State.sfnWrite_keepsO h (d := d) (off := off) (value := value) (hw := hw)))))
  split
  · exact k.get ‹_›
  · exact State.plainWrite_keeps h

theorem State.hostWrite_keeps {s0 s : State} (h : s0.Keeps s) {off value hw} : s0.Keeps (State.hostWrite s off value hw) := by
  unfold State.hostWrite
  repeat'
    first
    | with_reducible assumption | with_reducible apply State.clears_keeps | with_reducible apply fxHstCntClr_keeps
    | with_reducible apply State.raiseHost_keeps | with_reducible apply onHost_keeps
    | with_reducible apply hostSetReg_ok | with_reducible apply fxHstDieEqWrite_keeps
    | with_reducible apply fxHstHeadOwnerWrite_keeps | with_reducible apply fxHstQuotaWrite_keeps
    | with_reducible intro _ | with_reducible apply State.Keeps.ite | split | dsimp only | assumption

theorem Fn.msixWrite_wf {x : Fn} (h : x.wf = true) {v k value} : (Fn.msixWrite x v k value).wf = true := by
  unfold Fn.msixWrite
  repeat'
    first
    | with_reducible assumption | with_reducible apply Fn.setVector_wf | with_reducible intro _
    | fail_if_no_progress with_reducible refine Fn.wf_copy ?_ | split | dsimp only | assumption

theorem State.fnWrite_keeps {s0 s : State} (h : s0.Keeps s) {f off value hw} : s0.Keeps (State.fnWrite s f off value hw) := by
  unfold State.fnWrite
  repeat'
    first
    | with_reducible assumption | with_reducible apply fxDoorbell_keeps | with_reducible apply fxAqEnable_keeps
    | with_reducible apply fxAqDisable_keeps | with_reducible apply State.clears_keeps
    | with_reducible apply fxHstFnCntClr_keeps | with_reducible apply onHost_keeps
    | with_reducible apply HostSide.setFnReg_ok | with_reducible apply onFn_ok
    | with_reducible apply Fn.msixWrite_wf | with_reducible intro _ | with_reducible apply State.Keeps.ite | split
    | dsimp only | assumption

theorem fxRegisterWrite_keeps {s0 s : State} (h : s0.Keeps s) {t bytes value hw} : s0.Keeps (fxRegisterWrite t bytes value hw s) := by
  unfold fxRegisterWrite
  repeat'
    first
    | with_reducible assumption | with_reducible apply State.hostWrite_keeps
    | with_reducible apply State.dieWrite_keeps | with_reducible apply State.fnWrite_keeps | with_reducible intro _
    | with_reducible apply State.Keeps.ite | split | dsimp only | assumption

end Sys2Proof.Machine
end

