-- ==== Sys2Proof/Laws/KeepsStep.lean ====
section
/-! SUPPORT. What every command and every step keeps. -/

namespace Sys2Proof.Machine

/-- Every command but POWER_ON and AUDIT_PROGRAM answers a next state that keeps the canonical forms, the queue, the straps, OTP and
the device time. -/
theorem exec_keeps (c : Instr) (s : State) (h : ∀ st, c ≠ .powerOn st) (h2 : c ≠ .auditProgram) :
    ∃ t, exec c s = .next t ∧ s.Keeps t := by
  cases c with
  | powerOn st => exact absurd rfl (h st)
  | auditProgram => exact absurd rfl h2
  | lineStart => exact ⟨_, rfl, fxLineStart_keeps (.refl s)⟩
  | restartGateEnd => exact ⟨_, rfl, fxRestartGateEnd_keeps (.refl s)⟩
  | restartRestageDone => exact ⟨_, rfl, fxRestartRestageDone_keeps (.refl s)⟩
  | restartInjectionDone => exact ⟨_, rfl, fxRestartInjectionDone_keeps (.refl s)⟩
  | goldenDefer => exact ⟨_, rfl, fxGoldenDefer_keeps (.refl s)⟩
  | goldenComplete => exact ⟨_, rfl, fxGoldenComplete_keeps (.refl s)⟩
  | deferredRelease => exact ⟨_, rfl, fxDeferredRelease_keeps (.refl s)⟩
  | fallbackComplete => exact ⟨_, rfl, fxFallbackComplete_keeps (.refl s)⟩
  | verdict => exact ⟨_, rfl, fxVerdict_keeps (.refl s)⟩
  | senseTransactionEnd => exact ⟨_, rfl, fxSenseTransactionEnd_keeps (.refl s)⟩
  | holdLimitExpiry => exact ⟨_, rfl, fxHoldLimitExpiry_keeps (.refl s)⟩
  | holdover => exact ⟨_, rfl, fxHoldover_keeps (.refl s)⟩
  | genlockEdge => exact ⟨_, rfl, fxGenlockEdge_keeps (.refl s)⟩
  | ptpMessage => exact ⟨_, rfl, fxPtpMessage_keeps (.refl s)⟩
  | sourceLineArrival => exact ⟨_, rfl, fxSourceLineArrival_keeps (.refl s)⟩
  | sourceFrameStart => exact ⟨_, rfl, fxSourceFrameStart_keeps (.refl s)⟩
  | sourceFrameComplete => exact ⟨_, rfl, fxSourceFrameComplete_keeps (.refl s)⟩
  | sourceRateChange => exact ⟨_, rfl, fxSourceRateChange_keeps (.refl s)⟩
  | teEdge => exact ⟨_, rfl, fxTeEdge_keeps (.refl s)⟩
  | teTimeout => exact ⟨_, rfl, fxTeTimeout_keeps (.refl s)⟩
  | linkDown => exact ⟨_, rfl, fxLinkDown_keeps (.refl s)⟩
  | linkUp => exact ⟨_, rfl, fxLinkUp_keeps (.refl s)⟩
  | hdcpFail => exact ⟨_, rfl, fxHdcpFail_keeps (.refl s)⟩
  | tileLoad => exact ⟨_, rfl, fxTileLoad_keeps (.refl s)⟩
  | tileConvert => exact ⟨_, rfl, fxTileConvert_keeps (.refl s)⟩
  | itemRetire => exact ⟨_, rfl, fxItemRetire_keeps (.refl s)⟩
  | splitKCombine => exact ⟨_, rfl, fxSplitKCombine_keeps (.refl s)⟩
  | frameScopeRelease => exact ⟨_, rfl, fxFrameScopeRelease_keeps (.refl s)⟩
  | carouselNop => exact ⟨_, rfl, fxCarouselNop_keeps (.refl s)⟩
  | setb => exact ⟨_, rfl, fxSetb_keeps (.refl s)⟩
  | sets => exact ⟨_, rfl, fxSets_keeps (.refl s)⟩
  | setm => exact ⟨_, rfl, fxSetm_keeps (.refl s)⟩
  | setc => exact ⟨_, rfl, fxSetc_keeps (.refl s)⟩
  | loop => exact ⟨_, rfl, fxLoop_keeps (.refl s)⟩
  | endl => exact ⟨_, rfl, fxEndl_keeps (.refl s)⟩
  | move => exact ⟨_, rfl, fxMove_keeps (.refl s)⟩
  | moveComplete => exact ⟨_, rfl, fxMoveComplete_keeps (.refl s)⟩
  | carouselWait => exact ⟨_, rfl, fxCarouselWait_keeps (.refl s)⟩
  | sig => exact ⟨_, rfl, fxSig_keeps (.refl s)⟩
  | cred => exact ⟨_, rfl, fxCred_keeps (.refl s)⟩
  | ret => exact ⟨_, rfl, fxRet_keeps (.refl s)⟩
  | endp => exact ⟨_, rfl, fxEndp_keeps (.refl s)⟩
  | creditStallExpiry => exact ⟨_, rfl, fxCreditStallExpiry_keeps (.refl s)⟩
  | waitGe => exact ⟨_, rfl, fxWaitGe_keeps (.refl s)⟩
  | waitSub => exact ⟨_, rfl, fxWaitSub_keeps (.refl s)⟩
  | add => exact ⟨_, rfl, fxAdd_keeps (.refl s)⟩
  | sub => exact ⟨_, rfl, fxSub_keeps (.refl s)⟩
  | set => exact ⟨_, rfl, fxSet_keeps (.refl s)⟩
  | gaideTurnstileArrival => exact ⟨_, rfl, fxGaideTurnstileArrival_keeps (.refl s)⟩
  | fenceComplete => exact ⟨_, rfl, fxFenceComplete_keeps (.refl s)⟩
  | barrierCombine => exact ⟨_, rfl, fxBarrierCombine_keeps (.refl s)⟩
  | contextSaveComplete => exact ⟨_, rfl, fxContextSaveComplete_keeps (.refl s)⟩
  | firstRelease => exact ⟨_, rfl, fxFirstRelease_keeps (.refl s)⟩
  | checkpointCopy => exact ⟨_, rfl, fxCheckpointCopy_keeps (.refl s)⟩
  | replayFrameAdvance => exact ⟨_, rfl, fxReplayFrameAdvance_keeps (.refl s)⟩
  | doorbell => exact ⟨_, rfl, fxDoorbell_keeps (.refl s)⟩
  | hostReadError => exact ⟨_, rfl, fxHostReadError_keeps (.refl s)⟩
  | descriptorCompletion => exact ⟨_, rfl, fxDescriptorCompletion_keeps (.refl s)⟩
  | nop => exact ⟨_, rfl, fxNop_keeps (.refl s)⟩
  | wait => exact ⟨_, rfl, fxWait_keeps (.refl s)⟩
  | signal => exact ⟨_, rfl, fxSignal_keeps (.refl s)⟩
  | copy => exact ⟨_, rfl, fxCopy_keeps (.refl s)⟩
  | frame => exact ⟨_, rfl, fxFrame_keeps (.refl s)⟩
  | admitBundle => exact ⟨_, rfl, fxAdmitBundle_keeps (.refl s)⟩
  | evict => exact ⟨_, rfl, fxEvict_keeps (.refl s)⟩
  | bind => exact ⟨_, rfl, fxBind_keeps (.refl s)⟩
  | unbind => exact ⟨_, rfl, fxUnbind_keeps (.refl s)⟩
  | pause => exact ⟨_, rfl, fxPause_keeps (.refl s)⟩
  | resume => exact ⟨_, rfl, fxResume_keeps (.refl s)⟩
  | alloc => exact ⟨_, rfl, fxAlloc_keeps (.refl s)⟩
  | free => exact ⟨_, rfl, fxFree_keeps (.refl s)⟩
  | createQ => exact ⟨_, rfl, fxCreateQ_keeps (.refl s)⟩
  | deleteQ => exact ⟨_, rfl, fxDeleteQ_keeps (.refl s)⟩
  | window => exact ⟨_, rfl, fxWindow_keeps (.refl s)⟩
  | tslCreate => exact ⟨_, rfl, fxTslCreate_keeps (.refl s)⟩
  | tslDestroy => exact ⟨_, rfl, fxTslDestroy_keeps (.refl s)⟩
  | ctxDestroy => exact ⟨_, rfl, fxCtxDestroy_keeps (.refl s)⟩
  | msixTimerExpiry => exact ⟨_, rfl, fxMsixTimerExpiry_keeps (.refl s)⟩
  | aqEnable => exact ⟨_, rfl, fxAqEnable_keeps (.refl s)⟩
  | aqDisable => exact ⟨_, rfl, fxAqDisable_keeps (.refl s)⟩
  | vfDisable => exact ⟨_, rfl, fxVfDisable_keeps (.refl s)⟩
  | vfEnable => exact ⟨_, rfl, fxVfEnable_keeps (.refl s)⟩
  | hstQuotaWrite => exact ⟨_, rfl, fxHstQuotaWrite_keeps (.refl s)⟩
  | hstHeadOwnerWrite => exact ⟨_, rfl, fxHstHeadOwnerWrite_keeps (.refl s)⟩
  | hstDieEqWrite => exact ⟨_, rfl, fxHstDieEqWrite_keeps (.refl s)⟩
  | functionLevelReset => exact ⟨_, rfl, fxFunctionLevelReset_keeps (.refl s)⟩
  | pfFunctionLevelReset => exact ⟨_, rfl, fxPfFunctionLevelReset_keeps (.refl s)⟩
  | functionResetDone => exact ⟨_, rfl, fxFunctionResetDone_keeps (.refl s)⟩
  | commit => exact ⟨_, rfl, fxCommit_keeps (.refl s)⟩
  | commitSpan => exact ⟨_, rfl, fxCommitSpan_keeps (.refl s)⟩
  | cmpLutDataWrite => exact ⟨_, rfl, fxCmpLutDataWrite_keeps (.refl s)⟩
  | cmpCoefDataWrite => exact ⟨_, rfl, fxCmpCoefDataWrite_keeps (.refl s)⟩
  | cmpCntLoRead => exact ⟨_, rfl, fxCmpCntLoRead_keeps (.refl s)⟩
  | cmpWbFrameLoRead => exact ⟨_, rfl, fxCmpWbFrameLoRead_keeps (.refl s)⟩
  | mxeSatLoRead => exact ⟨_, rfl, fxMxeSatLoRead_keeps (.refl s)⟩
  | mxeNanLoRead => exact ⟨_, rfl, fxMxeNanLoRead_keeps (.refl s)⟩
  | jglSatLoRead => exact ⟨_, rfl, fxJglSatLoRead_keeps (.refl s)⟩
  | jglNanLoRead => exact ⟨_, rfl, fxJglNanLoRead_keeps (.refl s)⟩
  | crsBytesLoRead => exact ⟨_, rfl, fxCrsBytesLoRead_keeps (.refl s)⟩
  | crsCodedLoRead => exact ⟨_, rfl, fxCrsCodedLoRead_keeps (.refl s)⟩
  | detGscLoRead => exact ⟨_, rfl, fxDetGscLoRead_keeps (.refl s)⟩
  | detTimingLoRead => exact ⟨_, rfl, fxDetTimingLoRead_keeps (.refl s)⟩
  | detCkptLastLoRead => exact ⟨_, rfl, fxDetCkptLastLoRead_keeps (.refl s)⟩
  | mxeCntClr => exact ⟨_, rfl, fxMxeCntClr_keeps (.refl s)⟩
  | winCntClr => exact ⟨_, rfl, fxWinCntClr_keeps (.refl s)⟩
  | rmsCntClr => exact ⟨_, rfl, fxRmsCntClr_keeps (.refl s)⟩
  | crsCntClr => exact ⟨_, rfl, fxCrsCntClr_keeps (.refl s)⟩
  | jglCntClr => exact ⟨_, rfl, fxJglCntClr_keeps (.refl s)⟩
  | motCntClr => exact ⟨_, rfl, fxMotCntClr_keeps (.refl s)⟩
  | cmpCntClr => exact ⟨_, rfl, fxCmpCntClr_keeps (.refl s)⟩
  | scnCntClr => exact ⟨_, rfl, fxScnCntClr_keeps (.refl s)⟩
  | tslCntClr => exact ⟨_, rfl, fxTslCntClr_keeps (.refl s)⟩
  | detCntClr => exact ⟨_, rfl, fxDetCntClr_keeps (.refl s)⟩
  | hstCntClr => exact ⟨_, rfl, fxHstCntClr_keeps (.refl s)⟩
  | hstFnCntClr => exact ⟨_, rfl, fxHstFnCntClr_keeps (.refl s)⟩
  | sfnCntClr => exact ⟨_, rfl, fxSfnCntClr_keeps (.refl s)⟩
  | secCntClr => exact ⟨_, rfl, fxSecCntClr_keeps (.refl s)⟩
  | nvmCntClr => exact ⟨_, rfl, fxNvmCntClr_keeps (.refl s)⟩
  | pwrCntClr => exact ⟨_, rfl, fxPwrCntClr_keeps (.refl s)⟩
  | snsCntClr => exact ⟨_, rfl, fxSnsCntClr_keeps (.refl s)⟩
  | gdeCntClr => exact ⟨_, rfl, fxGdeCntClr_keeps (.refl s)⟩
  | tslSelWrite => exact ⟨_, rfl, fxTslSelWrite_keeps (.refl s)⟩
  | tslDumpGo => exact ⟨_, rfl, fxTslDumpGo_keeps (.refl s)⟩
  | dumpDone => exact ⟨_, rfl, fxDumpDone_keeps (.refl s)⟩
  | detRecCtrlWrite => exact ⟨_, rfl, fxDetRecCtrlWrite_keeps (.refl s)⟩
  | sfnTMeanWrite => exact ⟨_, rfl, fxSfnTMeanWrite_keeps (.refl s)⟩
  | sfnTMaxWrite => exact ⟨_, rfl, fxSfnTMaxWrite_keeps (.refl s)⟩
  | sfnHfWrite => exact ⟨_, rfl, fxSfnHfWrite_keeps (.refl s)⟩
  | sfnTFlashWrite => exact ⟨_, rfl, fxSfnTFlashWrite_keeps (.refl s)⟩
  | sfnCapWrite => exact ⟨_, rfl, fxSfnCapWrite_keeps (.refl s)⟩
  | sfnInjGo => exact ⟨_, rfl, fxSfnInjGo_keeps (.refl s)⟩
  | clearLatch => exact ⟨_, rfl, fxClearLatch_keeps (.refl s)⟩
  | igClear => exact ⟨_, rfl, fxIgClear_keeps (.refl s)⟩
  | lockstepMismatch => exact ⟨_, rfl, fxLockstepMismatch_keeps (.refl s)⟩
  | monitorTrip => exact ⟨_, rfl, fxMonitorTrip_keeps (.refl s)⟩
  | rasterStall => exact ⟨_, rfl, fxRasterStall_keeps (.refl s)⟩
  | heartbeatTimeout => exact ⟨_, rfl, fxHeartbeatTimeout_keeps (.refl s)⟩
  | hbOutToggle => exact ⟨_, rfl, fxHbOutToggle_keeps (.refl s)⟩
  | currentSample => exact ⟨_, rfl, fxCurrentSample_keeps (.refl s)⟩
  | currentSampleTimeout => exact ⟨_, rfl, fxCurrentSampleTimeout_keeps (.refl s)⟩
  | echoRead => exact ⟨_, rfl, fxEchoRead_keeps (.refl s)⟩
  | injectionComplete => exact ⟨_, rfl, fxInjectionComplete_keeps (.refl s)⟩
  | partReset => exact ⟨_, rfl, fxPartReset_keeps (.refl s)⟩
  | dieReset => exact ⟨_, rfl, fxDieReset_keeps (.refl s)⟩
  | autoDieReset => exact ⟨_, rfl, fxAutoDieReset_keeps (.refl s)⟩
  | pkgLock => exact ⟨_, rfl, fxPkgLock_keeps (.refl s)⟩
  | releaseEdge => exact ⟨_, rfl, fxReleaseEdge_keeps (.refl s)⟩
  | imageVerify => exact ⟨_, rfl, fxImageVerify_keeps (.refl s)⟩
  | ddr5TrainingComplete => exact ⟨_, rfl, fxDdr5TrainingComplete_keeps (.refl s)⟩
  | settingsLoad => exact ⟨_, rfl, fxSettingsLoad_keeps (.refl s)⟩
  | bigTopScrubStep => exact ⟨_, rfl, fxBigTopScrubStep_keeps (.refl s)⟩
  | dramPatrolScrubStep => exact ⟨_, rfl, fxDramPatrolScrubStep_keeps (.refl s)⟩
  | telemetrySample => exact ⟨_, rfl, fxTelemetrySample_keeps (.refl s)⟩
  | sectorErase => exact ⟨_, rfl, fxSectorErase_keeps (.refl s)⟩
  | ddr5Calibration => exact ⟨_, rfl, fxDdr5Calibration_keeps (.refl s)⟩
  | gaideFlitError => exact ⟨_, rfl, fxGaideFlitError_keeps (.refl s)⟩
  | gaideLaneLoss => exact ⟨_, rfl, fxGaideLaneLoss_keeps (.refl s)⟩
  | auth => exact ⟨_, rfl, fxAuth_keeps (.refl s)⟩
  | attest => exact ⟨_, rfl, fxAttest_keeps (.refl s)⟩
  | otp => exact ⟨_, rfl, fxOtp_keeps (.refl s)⟩
  | keystore => exact ⟨_, rfl, fxKeystore_keeps (.refl s)⟩
  | audit => exact ⟨_, rfl, fxAudit_keeps (.refl s)⟩
  | srm => exact ⟨_, rfl, fxSrm_keeps (.refl s)⟩
  | boot => exact ⟨_, rfl, fxBoot_keeps (.refl s)⟩
  | sessionDrop => exact ⟨_, rfl, fxSessionDrop_keeps (.refl s)⟩
  | nonceDraw => exact ⟨_, rfl, fxNonceDraw_keeps (.refl s)⟩
  | sessionExpiry => exact ⟨_, rfl, fxSessionExpiry_keeps (.refl s)⟩
  | authLockoutEnd => exact ⟨_, rfl, fxAuthLockoutEnd_keeps (.refl s)⟩
  | store => exact ⟨_, rfl, fxStore_keeps (.refl s)⟩
  | storeComplete => exact ⟨_, rfl, fxStoreComplete_keeps (.refl s)⟩
  | nvmAuditSelWrite => exact ⟨_, rfl, fxNvmAuditSelWrite_keeps (.refl s)⟩
  | mctpMessage => exact ⟨_, rfl, fxMctpMessage_keeps (.refl s)⟩
  | opRequest => exact ⟨_, rfl, fxOpRequest_keeps (.refl s)⟩
  | avsAck => exact ⟨_, rfl, fxAvsAck_keeps (.refl s)⟩
  | avsTimeout => exact ⟨_, rfl, fxAvsTimeout_keeps (.refl s)⟩
  | thermalReading => exact ⟨_, rfl, fxThermalReading_keeps (.refl s)⟩
  | tripN => exact ⟨_, rfl, fxTripN_keeps (.refl s)⟩
  | standby => exact ⟨_, rfl, fxStandby_keeps (.refl s)⟩
  | standbyExit => exact ⟨_, rfl, fxStandbyExit_keeps (.refl s)⟩
  | pwrCapWrite => exact ⟨_, rfl, fxPwrCapWrite_keeps (.refl s)⟩
  | clkLockCfgWrite => exact ⟨_, rfl, fxClkLockCfgWrite_keeps (.refl s)⟩
  | gpioEdge => exact ⟨_, rfl, fxGpioEdge_keeps (.refl s)⟩
  | snsTaskSelWrite => exact ⟨_, rfl, fxSnsTaskSelWrite_keeps (.refl s)⟩
  | snsTaskDataWrite => exact ⟨_, rfl, fxSnsTaskDataWrite_keeps (.refl s)⟩
  | snsPwmWrite => exact ⟨_, rfl, fxSnsPwmWrite_keeps (.refl s)⟩
  | registerWrite => exact ⟨_, rfl, fxRegisterWrite_keeps (.refl s)⟩
  | goldenStripePeriodicRun => exact ⟨_, rfl, fxGoldenStripePeriodicRun_keeps (.refl s)⟩
  | resetNAssertion => exact ⟨_, rfl, fxResetNAssertion_keeps (.refl s)⟩
  | hdcpAuthenticated => exact ⟨_, rfl, fxHdcpAuthenticated_keeps (.refl s)⟩

/-- A command answers a next state; it keeps canonical forms and the queue. -/
theorem exec_next (c : Instr) (s : State) : ∃ t, exec c s = .next t ∧ (s.wf → t.wf) ∧ t.pending = s.pending := by
  by_cases h : ∃ st, c = .powerOn st
  · obtain ⟨st, rfl⟩ := h
    exact ⟨_, rfl, (fxPowerOn_spec st s).1, (fxPowerOn_spec st s).2.1⟩
  · by_cases h2 : c = .auditProgram
    · subst h2
      obtain ⟨o, k⟩ := fxAuditProgram_keeps s
      exact ⟨_, rfl, k.wf, k.pending⟩
    · obtain ⟨t, e, k⟩ := exec_keeps c s (fun st e => h ⟨st, e⟩) h2
      exact ⟨t, e, k.wf, k.pending⟩

theorem tick_wf {s : State} (h : s.wf) : s.tick.wf := by
  unfold State.tick
  split
  · exact h
  · exact h

end Sys2Proof.Machine
end

