-- ==== Sys2Proof/Laws/State.lean ====
section
/-! SUPPORT. What each update of a state, a die, a function or the host side leaves of every field, and what a read
gives after a write: one lemma for each field and update. -/

namespace Sys2Proof.Machine

variable (s : State) (x : Die) (h : HostSide) (d e : DieIx)

/-! ### Reads after writes -/

theorem Die.reg_setReg (off k : Nat) (w : Word) : (x.setReg off w).reg k = if off = k then w else x.reg k :=
  sGet_sSet _ _ _ _

@[simp] theorem Die.reg_setReg_same (off : Nat) (w : Word) : (x.setReg off w).reg off = w := sGet_sSet_same _ _ _

theorem Die.reg_setReg_ne {off k : Nat} (w : Word) (ne : off ≠ k) : (x.setReg off w).reg k = x.reg k :=
  sGet_sSet_ne _ _ ne

theorem State.die_setDie (y : Die) :
    (s.setDie d y).die e = if d = e ∧ s.present d = true then y else s.die e := by
  simp only [State.setDie, State.die]
  by_cases p : s.present d = true
  · simp only [p, if_true, and_true, Vector.getElem_set, Fin.ext_iff]
  · simp [p]

@[simp] theorem State.die_onDie_same {f : Die → Die} (p : s.present d = true) : (s.onDie d f).die d = f (s.die d) := by
  simp [State.onDie, State.die_setDie, p]

theorem State.die_onDie_ne {f : Die → Die} (ne : d ≠ e) : (s.onDie d f).die e = s.die e := by
  simp [State.onDie, State.die_setDie, ne]

theorem State.die_onDie {f : Die → Die} :
    (s.onDie d f).die e = if d = e ∧ s.present d = true then f (s.die d) else s.die e := s.die_setDie d e _

@[simp] theorem State.die_withHost : (s.withHost h).die d = s.die d := rfl

@[simp] theorem State.die_onHost (f : HostSide → HostSide) : (s.onHost f).die d = s.die d := rfl

@[simp] theorem State.host_withHost_gsc : (s.withHost h).host.gsc = s.gsc := rfl

@[simp] theorem State.host_onDie (f : Die → Die) : (s.onDie d f).host = s.host := rfl

theorem HostSide.fn_onFn (f g : FnIx) (u : Fn → Fn) : (h.onFn f u).fn g = if f = g then u (h.fn f) else h.fn g := by
  simp only [HostSide.onFn, HostSide.fn, Vector.getElem_set, Fin.ext_iff]

@[simp] theorem HostSide.fn_onFn_same (f : FnIx) (u : Fn → Fn) : (h.onFn f u).fn f = u (h.fn f) := by
  simp [HostSide.fn_onFn]

@[simp] theorem HostSide.reg_setReg_same (off : Nat) (w : Word) : (h.setReg off w).reg off = w := sGet_sSet_same _ _ _

theorem HostSide.reg_setReg_ne {off k : Nat} (w : Word) (ne : off ≠ k) : (h.setReg off w).reg k = h.reg k :=
  sGet_sSet_ne _ _ ne

/-! ### State.setDie -/

@[simp] theorem State.setDie_straps (y : Die) : (s.setDie d y).straps = s.straps := rfl
@[simp] theorem State.setDie_otp (y : Die) : (s.setDie d y).otp = s.otp := rfl
@[simp] theorem State.setDie_gsc (y : Die) : (s.setDie d y).gsc = s.gsc := rfl
@[simp] theorem State.setDie_clocks (y : Die) : (s.setDie d y).clocks = s.clocks := rfl
@[simp] theorem State.setDie_fns (y : Die) : (s.setDie d y).fns = s.fns := rfl
@[simp] theorem State.setDie_hostRegs (y : Die) : (s.setDie d y).hostRegs = s.hostRegs := rfl
@[simp] theorem State.setDie_canvases (y : Die) : (s.setDie d y).canvases = s.canvases := rfl
@[simp] theorem State.setDie_sec (y : Die) : (s.setDie d y).sec = s.sec := rfl
@[simp] theorem State.setDie_nvm (y : Die) : (s.setDie d y).nvm = s.nvm := rfl
@[simp] theorem State.setDie_sns (y : Die) : (s.setDie d y).sns = s.sns := rfl
@[simp] theorem State.setDie_power (y : Die) : (s.setDie d y).power = s.power := rfl
@[simp] theorem State.setDie_ptp (y : Die) : (s.setDie d y).ptp = s.ptp := rfl
@[simp] theorem State.setDie_pins (y : Die) : (s.setDie d y).pins = s.pins := rfl
@[simp] theorem State.setDie_igs (y : Die) : (s.setDie d y).igs = s.igs := rfl
@[simp] theorem State.setDie_gaide (y : Die) : (s.setDie d y).gaide = s.gaide := rfl
@[simp] theorem State.setDie_packets (y : Die) : (s.setDie d y).packets = s.packets := rfl
@[simp] theorem State.setDie_barriers (y : Die) : (s.setDie d y).barriers = s.barriers := rfl
@[simp] theorem State.setDie_image (y : Die) : (s.setDie d y).image = s.image := rfl
@[simp] theorem State.setDie_hostMem (y : Die) : (s.setDie d y).hostMem = s.hostMem := rfl
@[simp] theorem State.setDie_free (y : Die) : (s.setDie d y).free = s.free := rfl
@[simp] theorem State.setDie_pending (y : Die) : (s.setDie d y).pending = s.pending := rfl
@[simp] theorem State.setDie_present (y : Die) : (s.setDie d y).present e = s.present e := rfl

/-! ### State.onDie -/

@[simp] theorem State.onDie_straps (f : Die → Die) : (s.onDie d f).straps = s.straps := rfl
@[simp] theorem State.onDie_otp (f : Die → Die) : (s.onDie d f).otp = s.otp := rfl
@[simp] theorem State.onDie_gsc (f : Die → Die) : (s.onDie d f).gsc = s.gsc := rfl
@[simp] theorem State.onDie_clocks (f : Die → Die) : (s.onDie d f).clocks = s.clocks := rfl
@[simp] theorem State.onDie_fns (f : Die → Die) : (s.onDie d f).fns = s.fns := rfl
@[simp] theorem State.onDie_hostRegs (f : Die → Die) : (s.onDie d f).hostRegs = s.hostRegs := rfl
@[simp] theorem State.onDie_canvases (f : Die → Die) : (s.onDie d f).canvases = s.canvases := rfl
@[simp] theorem State.onDie_sec (f : Die → Die) : (s.onDie d f).sec = s.sec := rfl
@[simp] theorem State.onDie_nvm (f : Die → Die) : (s.onDie d f).nvm = s.nvm := rfl
@[simp] theorem State.onDie_sns (f : Die → Die) : (s.onDie d f).sns = s.sns := rfl
@[simp] theorem State.onDie_power (f : Die → Die) : (s.onDie d f).power = s.power := rfl
@[simp] theorem State.onDie_ptp (f : Die → Die) : (s.onDie d f).ptp = s.ptp := rfl
@[simp] theorem State.onDie_pins (f : Die → Die) : (s.onDie d f).pins = s.pins := rfl
@[simp] theorem State.onDie_igs (f : Die → Die) : (s.onDie d f).igs = s.igs := rfl
@[simp] theorem State.onDie_gaide (f : Die → Die) : (s.onDie d f).gaide = s.gaide := rfl
@[simp] theorem State.onDie_packets (f : Die → Die) : (s.onDie d f).packets = s.packets := rfl
@[simp] theorem State.onDie_barriers (f : Die → Die) : (s.onDie d f).barriers = s.barriers := rfl
@[simp] theorem State.onDie_image (f : Die → Die) : (s.onDie d f).image = s.image := rfl
@[simp] theorem State.onDie_hostMem (f : Die → Die) : (s.onDie d f).hostMem = s.hostMem := rfl
@[simp] theorem State.onDie_free (f : Die → Die) : (s.onDie d f).free = s.free := rfl
@[simp] theorem State.onDie_pending (f : Die → Die) : (s.onDie d f).pending = s.pending := rfl
@[simp] theorem State.onDie_present (f : Die → Die) : (s.onDie d f).present e = s.present e := rfl

/-! ### State.setReg -/

@[simp] theorem State.setReg_straps (off : Nat) (w : Word) : (s.setReg d off w).straps = s.straps := rfl
@[simp] theorem State.setReg_otp (off : Nat) (w : Word) : (s.setReg d off w).otp = s.otp := rfl
@[simp] theorem State.setReg_gsc (off : Nat) (w : Word) : (s.setReg d off w).gsc = s.gsc := rfl
@[simp] theorem State.setReg_clocks (off : Nat) (w : Word) : (s.setReg d off w).clocks = s.clocks := rfl
@[simp] theorem State.setReg_fns (off : Nat) (w : Word) : (s.setReg d off w).fns = s.fns := rfl
@[simp] theorem State.setReg_hostRegs (off : Nat) (w : Word) : (s.setReg d off w).hostRegs = s.hostRegs := rfl
@[simp] theorem State.setReg_canvases (off : Nat) (w : Word) : (s.setReg d off w).canvases = s.canvases := rfl
@[simp] theorem State.setReg_sec (off : Nat) (w : Word) : (s.setReg d off w).sec = s.sec := rfl
@[simp] theorem State.setReg_nvm (off : Nat) (w : Word) : (s.setReg d off w).nvm = s.nvm := rfl
@[simp] theorem State.setReg_sns (off : Nat) (w : Word) : (s.setReg d off w).sns = s.sns := rfl
@[simp] theorem State.setReg_power (off : Nat) (w : Word) : (s.setReg d off w).power = s.power := rfl
@[simp] theorem State.setReg_ptp (off : Nat) (w : Word) : (s.setReg d off w).ptp = s.ptp := rfl
@[simp] theorem State.setReg_pins (off : Nat) (w : Word) : (s.setReg d off w).pins = s.pins := rfl
@[simp] theorem State.setReg_igs (off : Nat) (w : Word) : (s.setReg d off w).igs = s.igs := rfl
@[simp] theorem State.setReg_gaide (off : Nat) (w : Word) : (s.setReg d off w).gaide = s.gaide := rfl
@[simp] theorem State.setReg_packets (off : Nat) (w : Word) : (s.setReg d off w).packets = s.packets := rfl
@[simp] theorem State.setReg_barriers (off : Nat) (w : Word) : (s.setReg d off w).barriers = s.barriers := rfl
@[simp] theorem State.setReg_image (off : Nat) (w : Word) : (s.setReg d off w).image = s.image := rfl
@[simp] theorem State.setReg_hostMem (off : Nat) (w : Word) : (s.setReg d off w).hostMem = s.hostMem := rfl
@[simp] theorem State.setReg_free (off : Nat) (w : Word) : (s.setReg d off w).free = s.free := rfl
@[simp] theorem State.setReg_pending (off : Nat) (w : Word) : (s.setReg d off w).pending = s.pending := rfl
@[simp] theorem State.setReg_present (off : Nat) (w : Word) : (s.setReg d off w).present e = s.present e := rfl

/-! ### State.setField -/

@[simp] theorem State.setField_straps (off hi lo v : Nat) : (s.setField d off hi lo v).straps = s.straps := rfl
@[simp] theorem State.setField_otp (off hi lo v : Nat) : (s.setField d off hi lo v).otp = s.otp := rfl
@[simp] theorem State.setField_gsc (off hi lo v : Nat) : (s.setField d off hi lo v).gsc = s.gsc := rfl
@[simp] theorem State.setField_clocks (off hi lo v : Nat) : (s.setField d off hi lo v).clocks = s.clocks := rfl
@[simp] theorem State.setField_fns (off hi lo v : Nat) : (s.setField d off hi lo v).fns = s.fns := rfl
@[simp] theorem State.setField_hostRegs (off hi lo v : Nat) : (s.setField d off hi lo v).hostRegs = s.hostRegs := rfl
@[simp] theorem State.setField_canvases (off hi lo v : Nat) : (s.setField d off hi lo v).canvases = s.canvases := rfl
@[simp] theorem State.setField_sec (off hi lo v : Nat) : (s.setField d off hi lo v).sec = s.sec := rfl
@[simp] theorem State.setField_nvm (off hi lo v : Nat) : (s.setField d off hi lo v).nvm = s.nvm := rfl
@[simp] theorem State.setField_sns (off hi lo v : Nat) : (s.setField d off hi lo v).sns = s.sns := rfl
@[simp] theorem State.setField_power (off hi lo v : Nat) : (s.setField d off hi lo v).power = s.power := rfl
@[simp] theorem State.setField_ptp (off hi lo v : Nat) : (s.setField d off hi lo v).ptp = s.ptp := rfl
@[simp] theorem State.setField_pins (off hi lo v : Nat) : (s.setField d off hi lo v).pins = s.pins := rfl
@[simp] theorem State.setField_igs (off hi lo v : Nat) : (s.setField d off hi lo v).igs = s.igs := rfl
@[simp] theorem State.setField_gaide (off hi lo v : Nat) : (s.setField d off hi lo v).gaide = s.gaide := rfl
@[simp] theorem State.setField_packets (off hi lo v : Nat) : (s.setField d off hi lo v).packets = s.packets := rfl
@[simp] theorem State.setField_barriers (off hi lo v : Nat) : (s.setField d off hi lo v).barriers = s.barriers := rfl
@[simp] theorem State.setField_image (off hi lo v : Nat) : (s.setField d off hi lo v).image = s.image := rfl
@[simp] theorem State.setField_hostMem (off hi lo v : Nat) : (s.setField d off hi lo v).hostMem = s.hostMem := rfl
@[simp] theorem State.setField_free (off hi lo v : Nat) : (s.setField d off hi lo v).free = s.free := rfl
@[simp] theorem State.setField_pending (off hi lo v : Nat) : (s.setField d off hi lo v).pending = s.pending := rfl
@[simp] theorem State.setField_present (off hi lo v : Nat) : (s.setField d off hi lo v).present e = s.present e := rfl

/-! ### State.count -/

@[simp] theorem State.count_straps (off n : Nat) : (s.count d off n).straps = s.straps := rfl
@[simp] theorem State.count_otp (off n : Nat) : (s.count d off n).otp = s.otp := rfl
@[simp] theorem State.count_gsc (off n : Nat) : (s.count d off n).gsc = s.gsc := rfl
@[simp] theorem State.count_clocks (off n : Nat) : (s.count d off n).clocks = s.clocks := rfl
@[simp] theorem State.count_fns (off n : Nat) : (s.count d off n).fns = s.fns := rfl
@[simp] theorem State.count_hostRegs (off n : Nat) : (s.count d off n).hostRegs = s.hostRegs := rfl
@[simp] theorem State.count_canvases (off n : Nat) : (s.count d off n).canvases = s.canvases := rfl
@[simp] theorem State.count_sec (off n : Nat) : (s.count d off n).sec = s.sec := rfl
@[simp] theorem State.count_nvm (off n : Nat) : (s.count d off n).nvm = s.nvm := rfl
@[simp] theorem State.count_sns (off n : Nat) : (s.count d off n).sns = s.sns := rfl
@[simp] theorem State.count_power (off n : Nat) : (s.count d off n).power = s.power := rfl
@[simp] theorem State.count_ptp (off n : Nat) : (s.count d off n).ptp = s.ptp := rfl
@[simp] theorem State.count_pins (off n : Nat) : (s.count d off n).pins = s.pins := rfl
@[simp] theorem State.count_igs (off n : Nat) : (s.count d off n).igs = s.igs := rfl
@[simp] theorem State.count_gaide (off n : Nat) : (s.count d off n).gaide = s.gaide := rfl
@[simp] theorem State.count_packets (off n : Nat) : (s.count d off n).packets = s.packets := rfl
@[simp] theorem State.count_barriers (off n : Nat) : (s.count d off n).barriers = s.barriers := rfl
@[simp] theorem State.count_image (off n : Nat) : (s.count d off n).image = s.image := rfl
@[simp] theorem State.count_hostMem (off n : Nat) : (s.count d off n).hostMem = s.hostMem := rfl
@[simp] theorem State.count_free (off n : Nat) : (s.count d off n).free = s.free := rfl
@[simp] theorem State.count_pending (off n : Nat) : (s.count d off n).pending = s.pending := rfl
@[simp] theorem State.count_present (off n : Nat) : (s.count d off n).present e = s.present e := rfl

/-! ### State.withHost -/

@[simp] theorem State.withHost_straps : (s.withHost h).straps = s.straps := rfl
@[simp] theorem State.withHost_otp : (s.withHost h).otp = s.otp := rfl
@[simp] theorem State.withHost_gsc : (s.withHost h).gsc = s.gsc := rfl
@[simp] theorem State.withHost_clocks : (s.withHost h).clocks = s.clocks := rfl
@[simp] theorem State.withHost_dies : (s.withHost h).dies = s.dies := rfl
@[simp] theorem State.withHost_canvases : (s.withHost h).canvases = s.canvases := rfl
@[simp] theorem State.withHost_sec : (s.withHost h).sec = s.sec := rfl
@[simp] theorem State.withHost_nvm : (s.withHost h).nvm = s.nvm := rfl
@[simp] theorem State.withHost_sns : (s.withHost h).sns = s.sns := rfl
@[simp] theorem State.withHost_power : (s.withHost h).power = s.power := rfl
@[simp] theorem State.withHost_ptp : (s.withHost h).ptp = s.ptp := rfl
@[simp] theorem State.withHost_pins : (s.withHost h).pins = s.pins := rfl
@[simp] theorem State.withHost_igs : (s.withHost h).igs = s.igs := rfl
@[simp] theorem State.withHost_gaide : (s.withHost h).gaide = s.gaide := rfl
@[simp] theorem State.withHost_packets : (s.withHost h).packets = s.packets := rfl
@[simp] theorem State.withHost_barriers : (s.withHost h).barriers = s.barriers := rfl
@[simp] theorem State.withHost_image : (s.withHost h).image = s.image := rfl
@[simp] theorem State.withHost_free : (s.withHost h).free = s.free := rfl
@[simp] theorem State.withHost_pending : (s.withHost h).pending = s.pending := rfl
@[simp] theorem State.withHost_present : (s.withHost h).present e = s.present e := rfl

/-! ### State.onHost -/

@[simp] theorem State.onHost_straps (f : HostSide → HostSide) : (s.onHost f).straps = s.straps := rfl
@[simp] theorem State.onHost_otp (f : HostSide → HostSide) : (s.onHost f).otp = s.otp := rfl
@[simp] theorem State.onHost_gsc (f : HostSide → HostSide) : (s.onHost f).gsc = s.gsc := rfl
@[simp] theorem State.onHost_clocks (f : HostSide → HostSide) : (s.onHost f).clocks = s.clocks := rfl
@[simp] theorem State.onHost_dies (f : HostSide → HostSide) : (s.onHost f).dies = s.dies := rfl
@[simp] theorem State.onHost_canvases (f : HostSide → HostSide) : (s.onHost f).canvases = s.canvases := rfl
@[simp] theorem State.onHost_sec (f : HostSide → HostSide) : (s.onHost f).sec = s.sec := rfl
@[simp] theorem State.onHost_nvm (f : HostSide → HostSide) : (s.onHost f).nvm = s.nvm := rfl
@[simp] theorem State.onHost_sns (f : HostSide → HostSide) : (s.onHost f).sns = s.sns := rfl
@[simp] theorem State.onHost_power (f : HostSide → HostSide) : (s.onHost f).power = s.power := rfl
@[simp] theorem State.onHost_ptp (f : HostSide → HostSide) : (s.onHost f).ptp = s.ptp := rfl
@[simp] theorem State.onHost_pins (f : HostSide → HostSide) : (s.onHost f).pins = s.pins := rfl
@[simp] theorem State.onHost_igs (f : HostSide → HostSide) : (s.onHost f).igs = s.igs := rfl
@[simp] theorem State.onHost_gaide (f : HostSide → HostSide) : (s.onHost f).gaide = s.gaide := rfl
@[simp] theorem State.onHost_packets (f : HostSide → HostSide) : (s.onHost f).packets = s.packets := rfl
@[simp] theorem State.onHost_barriers (f : HostSide → HostSide) : (s.onHost f).barriers = s.barriers := rfl
@[simp] theorem State.onHost_image (f : HostSide → HostSide) : (s.onHost f).image = s.image := rfl
@[simp] theorem State.onHost_free (f : HostSide → HostSide) : (s.onHost f).free = s.free := rfl
@[simp] theorem State.onHost_pending (f : HostSide → HostSide) : (s.onHost f).pending = s.pending := rfl
@[simp] theorem State.onHost_present (f : HostSide → HostSide) : (s.onHost f).present e = s.present e := rfl

/-! ### State.writeHost -/

@[simp] theorem State.writeHost_straps (a : Nat) (bs : List Byte) : (s.writeHost a bs).straps = s.straps := rfl
@[simp] theorem State.writeHost_otp (a : Nat) (bs : List Byte) : (s.writeHost a bs).otp = s.otp := rfl
@[simp] theorem State.writeHost_gsc (a : Nat) (bs : List Byte) : (s.writeHost a bs).gsc = s.gsc := rfl
@[simp] theorem State.writeHost_clocks (a : Nat) (bs : List Byte) : (s.writeHost a bs).clocks = s.clocks := rfl
@[simp] theorem State.writeHost_dies (a : Nat) (bs : List Byte) : (s.writeHost a bs).dies = s.dies := rfl
@[simp] theorem State.writeHost_fns (a : Nat) (bs : List Byte) : (s.writeHost a bs).fns = s.fns := rfl
@[simp] theorem State.writeHost_hostRegs (a : Nat) (bs : List Byte) : (s.writeHost a bs).hostRegs = s.hostRegs := rfl
@[simp] theorem State.writeHost_canvases (a : Nat) (bs : List Byte) : (s.writeHost a bs).canvases = s.canvases := rfl
@[simp] theorem State.writeHost_sec (a : Nat) (bs : List Byte) : (s.writeHost a bs).sec = s.sec := rfl
@[simp] theorem State.writeHost_nvm (a : Nat) (bs : List Byte) : (s.writeHost a bs).nvm = s.nvm := rfl
@[simp] theorem State.writeHost_sns (a : Nat) (bs : List Byte) : (s.writeHost a bs).sns = s.sns := rfl
@[simp] theorem State.writeHost_power (a : Nat) (bs : List Byte) : (s.writeHost a bs).power = s.power := rfl
@[simp] theorem State.writeHost_ptp (a : Nat) (bs : List Byte) : (s.writeHost a bs).ptp = s.ptp := rfl
@[simp] theorem State.writeHost_pins (a : Nat) (bs : List Byte) : (s.writeHost a bs).pins = s.pins := rfl
@[simp] theorem State.writeHost_igs (a : Nat) (bs : List Byte) : (s.writeHost a bs).igs = s.igs := rfl
@[simp] theorem State.writeHost_gaide (a : Nat) (bs : List Byte) : (s.writeHost a bs).gaide = s.gaide := rfl
@[simp] theorem State.writeHost_packets (a : Nat) (bs : List Byte) : (s.writeHost a bs).packets = s.packets := rfl
@[simp] theorem State.writeHost_barriers (a : Nat) (bs : List Byte) : (s.writeHost a bs).barriers = s.barriers := rfl
@[simp] theorem State.writeHost_image (a : Nat) (bs : List Byte) : (s.writeHost a bs).image = s.image := rfl
@[simp] theorem State.writeHost_free (a : Nat) (bs : List Byte) : (s.writeHost a bs).free = s.free := rfl
@[simp] theorem State.writeHost_pending (a : Nat) (bs : List Byte) : (s.writeHost a bs).pending = s.pending := rfl
@[simp] theorem State.writeHost_die (a : Nat) (bs : List Byte) : (s.writeHost a bs).die d = s.die d := rfl
@[simp] theorem State.writeHost_present (a : Nat) (bs : List Byte) : (s.writeHost a bs).present e = s.present e := rfl

/-! ### State.onCanvas -/

@[simp] theorem State.onCanvas_straps (cv : CanvasId) (f : Canvas → Canvas) : (s.onCanvas cv f).straps = s.straps := rfl
@[simp] theorem State.onCanvas_otp (cv : CanvasId) (f : Canvas → Canvas) : (s.onCanvas cv f).otp = s.otp := rfl
@[simp] theorem State.onCanvas_gsc (cv : CanvasId) (f : Canvas → Canvas) : (s.onCanvas cv f).gsc = s.gsc := rfl
@[simp] theorem State.onCanvas_clocks (cv : CanvasId) (f : Canvas → Canvas) : (s.onCanvas cv f).clocks = s.clocks := rfl
@[simp] theorem State.onCanvas_dies (cv : CanvasId) (f : Canvas → Canvas) : (s.onCanvas cv f).dies = s.dies := rfl
@[simp] theorem State.onCanvas_fns (cv : CanvasId) (f : Canvas → Canvas) : (s.onCanvas cv f).fns = s.fns := rfl
@[simp] theorem State.onCanvas_hostRegs (cv : CanvasId) (f : Canvas → Canvas) : (s.onCanvas cv f).hostRegs = s.hostRegs := rfl
@[simp] theorem State.onCanvas_sec (cv : CanvasId) (f : Canvas → Canvas) : (s.onCanvas cv f).sec = s.sec := rfl
@[simp] theorem State.onCanvas_nvm (cv : CanvasId) (f : Canvas → Canvas) : (s.onCanvas cv f).nvm = s.nvm := rfl
@[simp] theorem State.onCanvas_sns (cv : CanvasId) (f : Canvas → Canvas) : (s.onCanvas cv f).sns = s.sns := rfl
@[simp] theorem State.onCanvas_power (cv : CanvasId) (f : Canvas → Canvas) : (s.onCanvas cv f).power = s.power := rfl
@[simp] theorem State.onCanvas_ptp (cv : CanvasId) (f : Canvas → Canvas) : (s.onCanvas cv f).ptp = s.ptp := rfl
@[simp] theorem State.onCanvas_pins (cv : CanvasId) (f : Canvas → Canvas) : (s.onCanvas cv f).pins = s.pins := rfl
@[simp] theorem State.onCanvas_igs (cv : CanvasId) (f : Canvas → Canvas) : (s.onCanvas cv f).igs = s.igs := rfl
@[simp] theorem State.onCanvas_gaide (cv : CanvasId) (f : Canvas → Canvas) : (s.onCanvas cv f).gaide = s.gaide := rfl
@[simp] theorem State.onCanvas_packets (cv : CanvasId) (f : Canvas → Canvas) : (s.onCanvas cv f).packets = s.packets := rfl
@[simp] theorem State.onCanvas_barriers (cv : CanvasId) (f : Canvas → Canvas) : (s.onCanvas cv f).barriers = s.barriers := rfl
@[simp] theorem State.onCanvas_image (cv : CanvasId) (f : Canvas → Canvas) : (s.onCanvas cv f).image = s.image := rfl
@[simp] theorem State.onCanvas_hostMem (cv : CanvasId) (f : Canvas → Canvas) : (s.onCanvas cv f).hostMem = s.hostMem := rfl
@[simp] theorem State.onCanvas_free (cv : CanvasId) (f : Canvas → Canvas) : (s.onCanvas cv f).free = s.free := rfl
@[simp] theorem State.onCanvas_pending (cv : CanvasId) (f : Canvas → Canvas) : (s.onCanvas cv f).pending = s.pending := rfl
@[simp] theorem State.onCanvas_die (cv : CanvasId) (f : Canvas → Canvas) : (s.onCanvas cv f).die d = s.die d := rfl
@[simp] theorem State.onCanvas_present (cv : CanvasId) (f : Canvas → Canvas) : (s.onCanvas cv f).present e = s.present e := rfl

/-! ### State.raise -/

@[simp] theorem State.raise_straps (evt mask : Nat) : (s.raise d evt mask).straps = s.straps := rfl
@[simp] theorem State.raise_otp (evt mask : Nat) : (s.raise d evt mask).otp = s.otp := rfl
@[simp] theorem State.raise_gsc (evt mask : Nat) : (s.raise d evt mask).gsc = s.gsc := rfl
@[simp] theorem State.raise_clocks (evt mask : Nat) : (s.raise d evt mask).clocks = s.clocks := rfl
@[simp] theorem State.raise_canvases (evt mask : Nat) : (s.raise d evt mask).canvases = s.canvases := rfl
@[simp] theorem State.raise_sec (evt mask : Nat) : (s.raise d evt mask).sec = s.sec := rfl
@[simp] theorem State.raise_nvm (evt mask : Nat) : (s.raise d evt mask).nvm = s.nvm := rfl
@[simp] theorem State.raise_sns (evt mask : Nat) : (s.raise d evt mask).sns = s.sns := rfl
@[simp] theorem State.raise_power (evt mask : Nat) : (s.raise d evt mask).power = s.power := rfl
@[simp] theorem State.raise_ptp (evt mask : Nat) : (s.raise d evt mask).ptp = s.ptp := rfl
@[simp] theorem State.raise_pins (evt mask : Nat) : (s.raise d evt mask).pins = s.pins := rfl
@[simp] theorem State.raise_igs (evt mask : Nat) : (s.raise d evt mask).igs = s.igs := rfl
@[simp] theorem State.raise_gaide (evt mask : Nat) : (s.raise d evt mask).gaide = s.gaide := rfl
@[simp] theorem State.raise_packets (evt mask : Nat) : (s.raise d evt mask).packets = s.packets := rfl
@[simp] theorem State.raise_barriers (evt mask : Nat) : (s.raise d evt mask).barriers = s.barriers := rfl
@[simp] theorem State.raise_image (evt mask : Nat) : (s.raise d evt mask).image = s.image := rfl
@[simp] theorem State.raise_free (evt mask : Nat) : (s.raise d evt mask).free = s.free := rfl
@[simp] theorem State.raise_pending (evt mask : Nat) : (s.raise d evt mask).pending = s.pending := rfl
@[simp] theorem State.raise_present (evt mask : Nat) : (s.raise d evt mask).present e = s.present e := rfl

/-! ### State.countRaise -/

@[simp] theorem State.countRaise_straps (cnt evt mask : Nat) : (s.countRaise d cnt evt mask).straps = s.straps := rfl
@[simp] theorem State.countRaise_otp (cnt evt mask : Nat) : (s.countRaise d cnt evt mask).otp = s.otp := rfl
@[simp] theorem State.countRaise_gsc (cnt evt mask : Nat) : (s.countRaise d cnt evt mask).gsc = s.gsc := rfl
@[simp] theorem State.countRaise_clocks (cnt evt mask : Nat) : (s.countRaise d cnt evt mask).clocks = s.clocks := rfl
@[simp] theorem State.countRaise_canvases (cnt evt mask : Nat) : (s.countRaise d cnt evt mask).canvases = s.canvases := rfl
@[simp] theorem State.countRaise_sec (cnt evt mask : Nat) : (s.countRaise d cnt evt mask).sec = s.sec := rfl
@[simp] theorem State.countRaise_nvm (cnt evt mask : Nat) : (s.countRaise d cnt evt mask).nvm = s.nvm := rfl
@[simp] theorem State.countRaise_sns (cnt evt mask : Nat) : (s.countRaise d cnt evt mask).sns = s.sns := rfl
@[simp] theorem State.countRaise_power (cnt evt mask : Nat) : (s.countRaise d cnt evt mask).power = s.power := rfl
@[simp] theorem State.countRaise_ptp (cnt evt mask : Nat) : (s.countRaise d cnt evt mask).ptp = s.ptp := rfl
@[simp] theorem State.countRaise_pins (cnt evt mask : Nat) : (s.countRaise d cnt evt mask).pins = s.pins := rfl
@[simp] theorem State.countRaise_igs (cnt evt mask : Nat) : (s.countRaise d cnt evt mask).igs = s.igs := rfl
@[simp] theorem State.countRaise_gaide (cnt evt mask : Nat) : (s.countRaise d cnt evt mask).gaide = s.gaide := rfl
@[simp] theorem State.countRaise_packets (cnt evt mask : Nat) : (s.countRaise d cnt evt mask).packets = s.packets := rfl
@[simp] theorem State.countRaise_barriers (cnt evt mask : Nat) : (s.countRaise d cnt evt mask).barriers = s.barriers := rfl
@[simp] theorem State.countRaise_image (cnt evt mask : Nat) : (s.countRaise d cnt evt mask).image = s.image := rfl
@[simp] theorem State.countRaise_free (cnt evt mask : Nat) : (s.countRaise d cnt evt mask).free = s.free := rfl
@[simp] theorem State.countRaise_pending (cnt evt mask : Nat) : (s.countRaise d cnt evt mask).pending = s.pending := rfl
@[simp] theorem State.countRaise_present (cnt evt mask : Nat) : (s.countRaise d cnt evt mask).present e = s.present e := rfl

/-! ### Die.setReg -/

@[simp] theorem Die.setReg_latch (off : Nat) (w : Word) : (x.setReg off w).latch = x.latch := rfl
@[simp] theorem Die.setReg_force (off : Nat) (w : Word) : (x.setReg off w).force = x.force := rfl
@[simp] theorem Die.setReg_lut (off : Nat) (w : Word) : (x.setReg off w).lut = x.lut := rfl
@[simp] theorem Die.setReg_lutForce (off : Nat) (w : Word) : (x.setReg off w).lutForce = x.lutForce := rfl
@[simp] theorem Die.setReg_coef (off : Nat) (w : Word) : (x.setReg off w).coef = x.coef := rfl
@[simp] theorem Die.setReg_coefForce (off : Nat) (w : Word) : (x.setReg off w).coefForce = x.coefForce := rfl
@[simp] theorem Die.setReg_choices (off : Nat) (w : Word) : (x.setReg off w).choices = x.choices := rfl
@[simp] theorem Die.setReg_bigTop (off : Nat) (w : Word) : (x.setReg off w).bigTop = x.bigTop := rfl
@[simp] theorem Die.setReg_bigTopPoison (off : Nat) (w : Word) : (x.setReg off w).bigTopPoison = x.bigTopPoison := rfl
@[simp] theorem Die.setReg_dram (off : Nat) (w : Word) : (x.setReg off w).dram = x.dram := rfl
@[simp] theorem Die.setReg_dramPoison (off : Nat) (w : Word) : (x.setReg off w).dramPoison = x.dramPoison := rfl
@[simp] theorem Die.setReg_dramAlloc (off : Nat) (w : Word) : (x.setReg off w).dramAlloc = x.dramAlloc := rfl
@[simp] theorem Die.setReg_engines (off : Nat) (w : Word) : (x.setReg off w).engines = x.engines := rfl
@[simp] theorem Die.setReg_tsl (off : Nat) (w : Word) : (x.setReg off w).tsl = x.tsl := rfl
@[simp] theorem Die.setReg_streams (off : Nat) (w : Word) : (x.setReg off w).streams = x.streams := rfl
@[simp] theorem Die.setReg_pools (off : Nat) (w : Word) : (x.setReg off w).pools = x.pools := rfl
@[simp] theorem Die.setReg_inflight (off : Nat) (w : Word) : (x.setReg off w).inflight = x.inflight := rfl
@[simp] theorem Die.setReg_head (off : Nat) (w : Word) : (x.setReg off w).head = x.head := rfl
@[simp] theorem Die.setReg_sources (off : Nat) (w : Word) : (x.setReg off w).sources = x.sources := rfl
@[simp] theorem Die.setReg_sfn (off : Nat) (w : Word) : (x.setReg off w).sfn = x.sfn := rfl
@[simp] theorem Die.setReg_boot (off : Nat) (w : Word) : (x.setReg off w).boot = x.boot := rfl
@[simp] theorem Die.setReg_links (off : Nat) (w : Word) : (x.setReg off w).links = x.links := rfl
@[simp] theorem Die.setReg_thermal (off : Nat) (w : Word) : (x.setReg off w).thermal = x.thermal := rfl
@[simp] theorem Die.setReg_scrub (off : Nat) (w : Word) : (x.setReg off w).scrub = x.scrub := rfl
@[simp] theorem Die.setReg_patrol (off : Nat) (w : Word) : (x.setReg off w).patrol = x.patrol := rfl
@[simp] theorem Die.setReg_ceRecent (off : Nat) (w : Word) : (x.setReg off w).ceRecent = x.ceRecent := rfl
@[simp] theorem Die.setReg_calDone (off : Nat) (w : Word) : (x.setReg off w).calDone = x.calDone := rfl
@[simp] theorem Die.setReg_recorder (off : Nat) (w : Word) : (x.setReg off w).recorder = x.recorder := rfl
@[simp] theorem Die.setReg_poolUsedKib (off : Nat) (w : Word) : (x.setReg off w).poolUsedKib = x.poolUsedKib := rfl

/-! ### Die.setField -/

@[simp] theorem Die.setField_latch (off hi lo v : Nat) : (x.setField off hi lo v).latch = x.latch := rfl
@[simp] theorem Die.setField_force (off hi lo v : Nat) : (x.setField off hi lo v).force = x.force := rfl
@[simp] theorem Die.setField_lut (off hi lo v : Nat) : (x.setField off hi lo v).lut = x.lut := rfl
@[simp] theorem Die.setField_lutForce (off hi lo v : Nat) : (x.setField off hi lo v).lutForce = x.lutForce := rfl
@[simp] theorem Die.setField_coef (off hi lo v : Nat) : (x.setField off hi lo v).coef = x.coef := rfl
@[simp] theorem Die.setField_coefForce (off hi lo v : Nat) : (x.setField off hi lo v).coefForce = x.coefForce := rfl
@[simp] theorem Die.setField_choices (off hi lo v : Nat) : (x.setField off hi lo v).choices = x.choices := rfl
@[simp] theorem Die.setField_bigTop (off hi lo v : Nat) : (x.setField off hi lo v).bigTop = x.bigTop := rfl
@[simp] theorem Die.setField_bigTopPoison (off hi lo v : Nat) : (x.setField off hi lo v).bigTopPoison = x.bigTopPoison := rfl
@[simp] theorem Die.setField_dram (off hi lo v : Nat) : (x.setField off hi lo v).dram = x.dram := rfl
@[simp] theorem Die.setField_dramPoison (off hi lo v : Nat) : (x.setField off hi lo v).dramPoison = x.dramPoison := rfl
@[simp] theorem Die.setField_dramAlloc (off hi lo v : Nat) : (x.setField off hi lo v).dramAlloc = x.dramAlloc := rfl
@[simp] theorem Die.setField_engines (off hi lo v : Nat) : (x.setField off hi lo v).engines = x.engines := rfl
@[simp] theorem Die.setField_tsl (off hi lo v : Nat) : (x.setField off hi lo v).tsl = x.tsl := rfl
@[simp] theorem Die.setField_streams (off hi lo v : Nat) : (x.setField off hi lo v).streams = x.streams := rfl
@[simp] theorem Die.setField_pools (off hi lo v : Nat) : (x.setField off hi lo v).pools = x.pools := rfl
@[simp] theorem Die.setField_inflight (off hi lo v : Nat) : (x.setField off hi lo v).inflight = x.inflight := rfl
@[simp] theorem Die.setField_head (off hi lo v : Nat) : (x.setField off hi lo v).head = x.head := rfl
@[simp] theorem Die.setField_sources (off hi lo v : Nat) : (x.setField off hi lo v).sources = x.sources := rfl
@[simp] theorem Die.setField_sfn (off hi lo v : Nat) : (x.setField off hi lo v).sfn = x.sfn := rfl
@[simp] theorem Die.setField_boot (off hi lo v : Nat) : (x.setField off hi lo v).boot = x.boot := rfl
@[simp] theorem Die.setField_links (off hi lo v : Nat) : (x.setField off hi lo v).links = x.links := rfl
@[simp] theorem Die.setField_thermal (off hi lo v : Nat) : (x.setField off hi lo v).thermal = x.thermal := rfl
@[simp] theorem Die.setField_scrub (off hi lo v : Nat) : (x.setField off hi lo v).scrub = x.scrub := rfl
@[simp] theorem Die.setField_patrol (off hi lo v : Nat) : (x.setField off hi lo v).patrol = x.patrol := rfl
@[simp] theorem Die.setField_ceRecent (off hi lo v : Nat) : (x.setField off hi lo v).ceRecent = x.ceRecent := rfl
@[simp] theorem Die.setField_calDone (off hi lo v : Nat) : (x.setField off hi lo v).calDone = x.calDone := rfl
@[simp] theorem Die.setField_recorder (off hi lo v : Nat) : (x.setField off hi lo v).recorder = x.recorder := rfl
@[simp] theorem Die.setField_poolUsedKib (off hi lo v : Nat) : (x.setField off hi lo v).poolUsedKib = x.poolUsedKib := rfl

/-! ### Die.count -/

@[simp] theorem Die.count_latch (off n : Nat) : (x.count off n).latch = x.latch := rfl
@[simp] theorem Die.count_force (off n : Nat) : (x.count off n).force = x.force := rfl
@[simp] theorem Die.count_lut (off n : Nat) : (x.count off n).lut = x.lut := rfl
@[simp] theorem Die.count_lutForce (off n : Nat) : (x.count off n).lutForce = x.lutForce := rfl
@[simp] theorem Die.count_coef (off n : Nat) : (x.count off n).coef = x.coef := rfl
@[simp] theorem Die.count_coefForce (off n : Nat) : (x.count off n).coefForce = x.coefForce := rfl
@[simp] theorem Die.count_choices (off n : Nat) : (x.count off n).choices = x.choices := rfl
@[simp] theorem Die.count_bigTop (off n : Nat) : (x.count off n).bigTop = x.bigTop := rfl
@[simp] theorem Die.count_bigTopPoison (off n : Nat) : (x.count off n).bigTopPoison = x.bigTopPoison := rfl
@[simp] theorem Die.count_dram (off n : Nat) : (x.count off n).dram = x.dram := rfl
@[simp] theorem Die.count_dramPoison (off n : Nat) : (x.count off n).dramPoison = x.dramPoison := rfl
@[simp] theorem Die.count_dramAlloc (off n : Nat) : (x.count off n).dramAlloc = x.dramAlloc := rfl
@[simp] theorem Die.count_engines (off n : Nat) : (x.count off n).engines = x.engines := rfl
@[simp] theorem Die.count_tsl (off n : Nat) : (x.count off n).tsl = x.tsl := rfl
@[simp] theorem Die.count_streams (off n : Nat) : (x.count off n).streams = x.streams := rfl
@[simp] theorem Die.count_pools (off n : Nat) : (x.count off n).pools = x.pools := rfl
@[simp] theorem Die.count_inflight (off n : Nat) : (x.count off n).inflight = x.inflight := rfl
@[simp] theorem Die.count_head (off n : Nat) : (x.count off n).head = x.head := rfl
@[simp] theorem Die.count_sources (off n : Nat) : (x.count off n).sources = x.sources := rfl
@[simp] theorem Die.count_sfn (off n : Nat) : (x.count off n).sfn = x.sfn := rfl
@[simp] theorem Die.count_boot (off n : Nat) : (x.count off n).boot = x.boot := rfl
@[simp] theorem Die.count_links (off n : Nat) : (x.count off n).links = x.links := rfl
@[simp] theorem Die.count_thermal (off n : Nat) : (x.count off n).thermal = x.thermal := rfl
@[simp] theorem Die.count_scrub (off n : Nat) : (x.count off n).scrub = x.scrub := rfl
@[simp] theorem Die.count_patrol (off n : Nat) : (x.count off n).patrol = x.patrol := rfl
@[simp] theorem Die.count_ceRecent (off n : Nat) : (x.count off n).ceRecent = x.ceRecent := rfl
@[simp] theorem Die.count_calDone (off n : Nat) : (x.count off n).calDone = x.calDone := rfl
@[simp] theorem Die.count_recorder (off n : Nat) : (x.count off n).recorder = x.recorder := rfl
@[simp] theorem Die.count_poolUsedKib (off n : Nat) : (x.count off n).poolUsedKib = x.poolUsedKib := rfl

/-! ### Die.setWide -/

@[simp] theorem Die.setWide_latch (lo v : Nat) : (x.setWide lo v).latch = x.latch := rfl
@[simp] theorem Die.setWide_force (lo v : Nat) : (x.setWide lo v).force = x.force := rfl
@[simp] theorem Die.setWide_lut (lo v : Nat) : (x.setWide lo v).lut = x.lut := rfl
@[simp] theorem Die.setWide_lutForce (lo v : Nat) : (x.setWide lo v).lutForce = x.lutForce := rfl
@[simp] theorem Die.setWide_coef (lo v : Nat) : (x.setWide lo v).coef = x.coef := rfl
@[simp] theorem Die.setWide_coefForce (lo v : Nat) : (x.setWide lo v).coefForce = x.coefForce := rfl
@[simp] theorem Die.setWide_choices (lo v : Nat) : (x.setWide lo v).choices = x.choices := rfl
@[simp] theorem Die.setWide_bigTop (lo v : Nat) : (x.setWide lo v).bigTop = x.bigTop := rfl
@[simp] theorem Die.setWide_bigTopPoison (lo v : Nat) : (x.setWide lo v).bigTopPoison = x.bigTopPoison := rfl
@[simp] theorem Die.setWide_dram (lo v : Nat) : (x.setWide lo v).dram = x.dram := rfl
@[simp] theorem Die.setWide_dramPoison (lo v : Nat) : (x.setWide lo v).dramPoison = x.dramPoison := rfl
@[simp] theorem Die.setWide_dramAlloc (lo v : Nat) : (x.setWide lo v).dramAlloc = x.dramAlloc := rfl
@[simp] theorem Die.setWide_engines (lo v : Nat) : (x.setWide lo v).engines = x.engines := rfl
@[simp] theorem Die.setWide_tsl (lo v : Nat) : (x.setWide lo v).tsl = x.tsl := rfl
@[simp] theorem Die.setWide_streams (lo v : Nat) : (x.setWide lo v).streams = x.streams := rfl
@[simp] theorem Die.setWide_pools (lo v : Nat) : (x.setWide lo v).pools = x.pools := rfl
@[simp] theorem Die.setWide_inflight (lo v : Nat) : (x.setWide lo v).inflight = x.inflight := rfl
@[simp] theorem Die.setWide_head (lo v : Nat) : (x.setWide lo v).head = x.head := rfl
@[simp] theorem Die.setWide_sources (lo v : Nat) : (x.setWide lo v).sources = x.sources := rfl
@[simp] theorem Die.setWide_sfn (lo v : Nat) : (x.setWide lo v).sfn = x.sfn := rfl
@[simp] theorem Die.setWide_boot (lo v : Nat) : (x.setWide lo v).boot = x.boot := rfl
@[simp] theorem Die.setWide_links (lo v : Nat) : (x.setWide lo v).links = x.links := rfl
@[simp] theorem Die.setWide_thermal (lo v : Nat) : (x.setWide lo v).thermal = x.thermal := rfl
@[simp] theorem Die.setWide_scrub (lo v : Nat) : (x.setWide lo v).scrub = x.scrub := rfl
@[simp] theorem Die.setWide_patrol (lo v : Nat) : (x.setWide lo v).patrol = x.patrol := rfl
@[simp] theorem Die.setWide_ceRecent (lo v : Nat) : (x.setWide lo v).ceRecent = x.ceRecent := rfl
@[simp] theorem Die.setWide_calDone (lo v : Nat) : (x.setWide lo v).calDone = x.calDone := rfl
@[simp] theorem Die.setWide_recorder (lo v : Nat) : (x.setWide lo v).recorder = x.recorder := rfl
@[simp] theorem Die.setWide_poolUsedKib (lo v : Nat) : (x.setWide lo v).poolUsedKib = x.poolUsedKib := rfl

/-! ### Die.countWide -/

@[simp] theorem Die.countWide_latch (lo n : Nat) : (x.countWide lo n).latch = x.latch := rfl
@[simp] theorem Die.countWide_force (lo n : Nat) : (x.countWide lo n).force = x.force := rfl
@[simp] theorem Die.countWide_lut (lo n : Nat) : (x.countWide lo n).lut = x.lut := rfl
@[simp] theorem Die.countWide_lutForce (lo n : Nat) : (x.countWide lo n).lutForce = x.lutForce := rfl
@[simp] theorem Die.countWide_coef (lo n : Nat) : (x.countWide lo n).coef = x.coef := rfl
@[simp] theorem Die.countWide_coefForce (lo n : Nat) : (x.countWide lo n).coefForce = x.coefForce := rfl
@[simp] theorem Die.countWide_choices (lo n : Nat) : (x.countWide lo n).choices = x.choices := rfl
@[simp] theorem Die.countWide_bigTop (lo n : Nat) : (x.countWide lo n).bigTop = x.bigTop := rfl
@[simp] theorem Die.countWide_bigTopPoison (lo n : Nat) : (x.countWide lo n).bigTopPoison = x.bigTopPoison := rfl
@[simp] theorem Die.countWide_dram (lo n : Nat) : (x.countWide lo n).dram = x.dram := rfl
@[simp] theorem Die.countWide_dramPoison (lo n : Nat) : (x.countWide lo n).dramPoison = x.dramPoison := rfl
@[simp] theorem Die.countWide_dramAlloc (lo n : Nat) : (x.countWide lo n).dramAlloc = x.dramAlloc := rfl
@[simp] theorem Die.countWide_engines (lo n : Nat) : (x.countWide lo n).engines = x.engines := rfl
@[simp] theorem Die.countWide_tsl (lo n : Nat) : (x.countWide lo n).tsl = x.tsl := rfl
@[simp] theorem Die.countWide_streams (lo n : Nat) : (x.countWide lo n).streams = x.streams := rfl
@[simp] theorem Die.countWide_pools (lo n : Nat) : (x.countWide lo n).pools = x.pools := rfl
@[simp] theorem Die.countWide_inflight (lo n : Nat) : (x.countWide lo n).inflight = x.inflight := rfl
@[simp] theorem Die.countWide_head (lo n : Nat) : (x.countWide lo n).head = x.head := rfl
@[simp] theorem Die.countWide_sources (lo n : Nat) : (x.countWide lo n).sources = x.sources := rfl
@[simp] theorem Die.countWide_sfn (lo n : Nat) : (x.countWide lo n).sfn = x.sfn := rfl
@[simp] theorem Die.countWide_boot (lo n : Nat) : (x.countWide lo n).boot = x.boot := rfl
@[simp] theorem Die.countWide_links (lo n : Nat) : (x.countWide lo n).links = x.links := rfl
@[simp] theorem Die.countWide_thermal (lo n : Nat) : (x.countWide lo n).thermal = x.thermal := rfl
@[simp] theorem Die.countWide_scrub (lo n : Nat) : (x.countWide lo n).scrub = x.scrub := rfl
@[simp] theorem Die.countWide_patrol (lo n : Nat) : (x.countWide lo n).patrol = x.patrol := rfl
@[simp] theorem Die.countWide_ceRecent (lo n : Nat) : (x.countWide lo n).ceRecent = x.ceRecent := rfl
@[simp] theorem Die.countWide_calDone (lo n : Nat) : (x.countWide lo n).calDone = x.calDone := rfl
@[simp] theorem Die.countWide_recorder (lo n : Nat) : (x.countWide lo n).recorder = x.recorder := rfl
@[simp] theorem Die.countWide_poolUsedKib (lo n : Nat) : (x.countWide lo n).poolUsedKib = x.poolUsedKib := rfl

/-! ### Die.writeDram -/

@[simp] theorem Die.writeDram_regs (a : Nat) (bs : List Byte) : (x.writeDram a bs).regs = x.regs := rfl
@[simp] theorem Die.writeDram_latch (a : Nat) (bs : List Byte) : (x.writeDram a bs).latch = x.latch := rfl
@[simp] theorem Die.writeDram_force (a : Nat) (bs : List Byte) : (x.writeDram a bs).force = x.force := rfl
@[simp] theorem Die.writeDram_lut (a : Nat) (bs : List Byte) : (x.writeDram a bs).lut = x.lut := rfl
@[simp] theorem Die.writeDram_lutForce (a : Nat) (bs : List Byte) : (x.writeDram a bs).lutForce = x.lutForce := rfl
@[simp] theorem Die.writeDram_coef (a : Nat) (bs : List Byte) : (x.writeDram a bs).coef = x.coef := rfl
@[simp] theorem Die.writeDram_coefForce (a : Nat) (bs : List Byte) : (x.writeDram a bs).coefForce = x.coefForce := rfl
@[simp] theorem Die.writeDram_choices (a : Nat) (bs : List Byte) : (x.writeDram a bs).choices = x.choices := rfl
@[simp] theorem Die.writeDram_bigTop (a : Nat) (bs : List Byte) : (x.writeDram a bs).bigTop = x.bigTop := rfl
@[simp] theorem Die.writeDram_bigTopPoison (a : Nat) (bs : List Byte) : (x.writeDram a bs).bigTopPoison = x.bigTopPoison := rfl
@[simp] theorem Die.writeDram_dramPoison (a : Nat) (bs : List Byte) : (x.writeDram a bs).dramPoison = x.dramPoison := rfl
@[simp] theorem Die.writeDram_dramAlloc (a : Nat) (bs : List Byte) : (x.writeDram a bs).dramAlloc = x.dramAlloc := rfl
@[simp] theorem Die.writeDram_engines (a : Nat) (bs : List Byte) : (x.writeDram a bs).engines = x.engines := rfl
@[simp] theorem Die.writeDram_tsl (a : Nat) (bs : List Byte) : (x.writeDram a bs).tsl = x.tsl := rfl
@[simp] theorem Die.writeDram_streams (a : Nat) (bs : List Byte) : (x.writeDram a bs).streams = x.streams := rfl
@[simp] theorem Die.writeDram_pools (a : Nat) (bs : List Byte) : (x.writeDram a bs).pools = x.pools := rfl
@[simp] theorem Die.writeDram_inflight (a : Nat) (bs : List Byte) : (x.writeDram a bs).inflight = x.inflight := rfl
@[simp] theorem Die.writeDram_head (a : Nat) (bs : List Byte) : (x.writeDram a bs).head = x.head := rfl
@[simp] theorem Die.writeDram_sources (a : Nat) (bs : List Byte) : (x.writeDram a bs).sources = x.sources := rfl
@[simp] theorem Die.writeDram_sfn (a : Nat) (bs : List Byte) : (x.writeDram a bs).sfn = x.sfn := rfl
@[simp] theorem Die.writeDram_boot (a : Nat) (bs : List Byte) : (x.writeDram a bs).boot = x.boot := rfl
@[simp] theorem Die.writeDram_links (a : Nat) (bs : List Byte) : (x.writeDram a bs).links = x.links := rfl
@[simp] theorem Die.writeDram_thermal (a : Nat) (bs : List Byte) : (x.writeDram a bs).thermal = x.thermal := rfl
@[simp] theorem Die.writeDram_scrub (a : Nat) (bs : List Byte) : (x.writeDram a bs).scrub = x.scrub := rfl
@[simp] theorem Die.writeDram_patrol (a : Nat) (bs : List Byte) : (x.writeDram a bs).patrol = x.patrol := rfl
@[simp] theorem Die.writeDram_ceRecent (a : Nat) (bs : List Byte) : (x.writeDram a bs).ceRecent = x.ceRecent := rfl
@[simp] theorem Die.writeDram_calDone (a : Nat) (bs : List Byte) : (x.writeDram a bs).calDone = x.calDone := rfl
@[simp] theorem Die.writeDram_recorder (a : Nat) (bs : List Byte) : (x.writeDram a bs).recorder = x.recorder := rfl
@[simp] theorem Die.writeDram_poolUsedKib (a : Nat) (bs : List Byte) : (x.writeDram a bs).poolUsedKib = x.poolUsedKib := rfl
@[simp] theorem Die.writeDram_reg (a : Nat) (bs : List Byte) (k : Nat) : (x.writeDram a bs).reg k = x.reg k := rfl

/-! ### Die.writeBigTop -/

@[simp] theorem Die.writeBigTop_regs (a : Nat) (bs : List Byte) : (x.writeBigTop a bs).regs = x.regs := rfl
@[simp] theorem Die.writeBigTop_latch (a : Nat) (bs : List Byte) : (x.writeBigTop a bs).latch = x.latch := rfl
@[simp] theorem Die.writeBigTop_force (a : Nat) (bs : List Byte) : (x.writeBigTop a bs).force = x.force := rfl
@[simp] theorem Die.writeBigTop_lut (a : Nat) (bs : List Byte) : (x.writeBigTop a bs).lut = x.lut := rfl
@[simp] theorem Die.writeBigTop_lutForce (a : Nat) (bs : List Byte) : (x.writeBigTop a bs).lutForce = x.lutForce := rfl
@[simp] theorem Die.writeBigTop_coef (a : Nat) (bs : List Byte) : (x.writeBigTop a bs).coef = x.coef := rfl
@[simp] theorem Die.writeBigTop_coefForce (a : Nat) (bs : List Byte) : (x.writeBigTop a bs).coefForce = x.coefForce := rfl
@[simp] theorem Die.writeBigTop_choices (a : Nat) (bs : List Byte) : (x.writeBigTop a bs).choices = x.choices := rfl
@[simp] theorem Die.writeBigTop_bigTopPoison (a : Nat) (bs : List Byte) : (x.writeBigTop a bs).bigTopPoison = x.bigTopPoison := rfl
@[simp] theorem Die.writeBigTop_dram (a : Nat) (bs : List Byte) : (x.writeBigTop a bs).dram = x.dram := rfl
@[simp] theorem Die.writeBigTop_dramPoison (a : Nat) (bs : List Byte) : (x.writeBigTop a bs).dramPoison = x.dramPoison := rfl
@[simp] theorem Die.writeBigTop_dramAlloc (a : Nat) (bs : List Byte) : (x.writeBigTop a bs).dramAlloc = x.dramAlloc := rfl
@[simp] theorem Die.writeBigTop_engines (a : Nat) (bs : List Byte) : (x.writeBigTop a bs).engines = x.engines := rfl
@[simp] theorem Die.writeBigTop_tsl (a : Nat) (bs : List Byte) : (x.writeBigTop a bs).tsl = x.tsl := rfl
@[simp] theorem Die.writeBigTop_streams (a : Nat) (bs : List Byte) : (x.writeBigTop a bs).streams = x.streams := rfl
@[simp] theorem Die.writeBigTop_pools (a : Nat) (bs : List Byte) : (x.writeBigTop a bs).pools = x.pools := rfl
@[simp] theorem Die.writeBigTop_inflight (a : Nat) (bs : List Byte) : (x.writeBigTop a bs).inflight = x.inflight := rfl
@[simp] theorem Die.writeBigTop_head (a : Nat) (bs : List Byte) : (x.writeBigTop a bs).head = x.head := rfl
@[simp] theorem Die.writeBigTop_sources (a : Nat) (bs : List Byte) : (x.writeBigTop a bs).sources = x.sources := rfl
@[simp] theorem Die.writeBigTop_sfn (a : Nat) (bs : List Byte) : (x.writeBigTop a bs).sfn = x.sfn := rfl
@[simp] theorem Die.writeBigTop_boot (a : Nat) (bs : List Byte) : (x.writeBigTop a bs).boot = x.boot := rfl
@[simp] theorem Die.writeBigTop_links (a : Nat) (bs : List Byte) : (x.writeBigTop a bs).links = x.links := rfl
@[simp] theorem Die.writeBigTop_thermal (a : Nat) (bs : List Byte) : (x.writeBigTop a bs).thermal = x.thermal := rfl
@[simp] theorem Die.writeBigTop_scrub (a : Nat) (bs : List Byte) : (x.writeBigTop a bs).scrub = x.scrub := rfl
@[simp] theorem Die.writeBigTop_patrol (a : Nat) (bs : List Byte) : (x.writeBigTop a bs).patrol = x.patrol := rfl
@[simp] theorem Die.writeBigTop_ceRecent (a : Nat) (bs : List Byte) : (x.writeBigTop a bs).ceRecent = x.ceRecent := rfl
@[simp] theorem Die.writeBigTop_calDone (a : Nat) (bs : List Byte) : (x.writeBigTop a bs).calDone = x.calDone := rfl
@[simp] theorem Die.writeBigTop_recorder (a : Nat) (bs : List Byte) : (x.writeBigTop a bs).recorder = x.recorder := rfl
@[simp] theorem Die.writeBigTop_poolUsedKib (a : Nat) (bs : List Byte) : (x.writeBigTop a bs).poolUsedKib = x.poolUsedKib := rfl
@[simp] theorem Die.writeBigTop_reg (a : Nat) (bs : List Byte) (k : Nat) : (x.writeBigTop a bs).reg k = x.reg k := rfl

end Sys2Proof.Machine
end

