-- ==== Sys2Proof/Laws/Ops.lean ====
section
/-! SUPPORT. What the shared operations on registers and event flags do, said once. -/

namespace Sys2Proof.Machine

variable (s : State) (x : Die) (d e : DieIx)

theorem State.reg_setReg (off k : Nat) (w : Word) :
    (s.setReg d off w).reg e k = if d = e ∧ s.present d = true ∧ off = k then w else s.reg e k := by
  simp only [State.reg, State.setReg, State.die_onDie]
  by_cases h : d = e ∧ s.present d = true
  · obtain ⟨rfl, p⟩ := h
    simp [p, Die.reg_setReg]
  · rw [if_neg h, if_neg (fun k => h ⟨k.1, k.2.1⟩)]

@[simp] theorem State.reg_setReg_same {off : Nat} {w : Word} (p : s.present d = true) : (s.setReg d off w).reg d off = w := by
  simp [State.reg_setReg, p]

theorem State.die_setReg (off : Nat) (w : Word) :
    (s.setReg d off w).die e = if d = e ∧ s.present d = true then (s.die d).setReg off w else s.die e :=
  s.die_onDie d e

/-- Raising flags sets the bits of one register of one die, and may post to the host. -/
theorem State.die_raise (evt mask : Nat) :
    (s.raise d evt mask).die e = (s.setReg d evt (s.reg d evt ||| BitVec.ofNat 32 mask)).die e := rfl

theorem State.reg_raise (evt mask k : Nat) :
    (s.raise d evt mask).reg e k =
      if d = e ∧ s.present d = true ∧ evt = k then s.reg d evt ||| BitVec.ofNat 32 mask else s.reg e k :=
  s.reg_setReg d e evt k _

theorem State.die_raiseHead (evt mask : Nat) :
    (s.raiseHead d evt mask).die e = (s.setReg d evt (s.reg d evt ||| BitVec.ofNat 32 mask)).die e := by
  unfold State.raiseHead
  split
  · rfl
  · dsimp only
    split <;> rfl

theorem State.reg_raiseHead (evt mask k : Nat) :
    (s.raiseHead d evt mask).reg e k =
      if d = e ∧ s.present d = true ∧ evt = k then s.reg d evt ||| BitVec.ofNat 32 mask else s.reg e k := by
  rw [State.reg, State.die_raiseHead]
  exact s.reg_setReg d e evt k _

/-- Raising flags of a head changes one register and the host side alone. -/
theorem State.raiseHead_frame (evt mask : Nat) : ∃ h : HostSide,
    s.raiseHead d evt mask = (s.setReg d evt (s.reg d evt ||| BitVec.ofNat 32 mask)).withHost h := by
  unfold State.raiseHead
  split
  · exact ⟨_, rfl⟩
  · dsimp only
    split
    · exact ⟨s.host, rfl⟩
    · exact ⟨_, rfl⟩

/-- A field of a register set: the register's word with those bits replaced, all else as before. -/
theorem Die.reg_setField (off hi lo v k : Nat) :
    (x.setField off hi lo v).reg k = if off = k then setBits (x.reg off) hi lo v else x.reg k := x.reg_setReg off k _

theorem Die.reg_count (off n k : Nat) :
    (x.count off n).reg k = if off = k then satCount (x.reg off) n else x.reg k := x.reg_setReg off k _

theorem State.reg_count (off n k : Nat) :
    (s.count d off n).reg e k = if d = e ∧ s.present d = true ∧ off = k then satCount (s.reg d off) n else s.reg e k :=
  s.reg_setReg d e off k _

end Sys2Proof.Machine
end

