-- ==== Sys2Proof/Tests/Slice0.lean ====
section
/-! SUPPORT. Tests of the model: ill-formed commands are refused by the well-formedness check, every statement's hypotheses are met by
a small state, and single steps give what the manual's tables give. -/

namespace Sys2Proof.Tests

open Sys2Proof Sys2Proof.Machine

-- one theorem after another: side by side, each takes a stack of its own
set_option Elab.async false

/-! ### Small states -/

/-- The part with its clocks released, ten seconds after reset. -/
def up : State := { State.reset with clocks := true, gsc := 1_000_000_000 }

/-- The state with its die 0 changed. -/
def die0 (f : Die → Die) (s : State) : State := s.onDie 0 f

/-- The state with the head of die 0 changed. -/
def head0 (f : Head → Head) : State → State := die0 fun x => { x with head := f x.head }

/-- The state with the Safety Net of die 0 changed. -/
def net0 (f : Sfn → Sfn) : State → State := die0 fun x => { x with sfn := f x.sfn }

/-- A mode of 64 by 64 at 240 Hz (R36). -/
def mode64 : Mode := { w := 64, h := 64, vtotal := 300, htotal := 100, rate := 240_000 }

/-- Head 0 scans that mode, at a line. -/
def scanning (line : Nat) : State := head0 (fun h => { h with mode := some mode64, running := true, line := line, vtotalNow := 300 }) up

/-- A session of a role over PCIe. -/
def signedIn (role : Fin 3) (s : State) : State := { s with sec := { s.sec with pf := some { role := role, until_ := 2_000_000_000 } } }

/-- A queue of 16 entries. -/
def queue (id : Nat) (kind : QKind) (cq head tail : Nat) : Queue :=
  { id := id, kind := kind, state := .run, log2 := 4, base := 0x10_0000, head := head, tail := tail, phase := true, home := 0, cq := cq,
    vector := none, count := 1, timer := 0, posted := 0, firstPost := none, seq := 0, lost := 0, lostFlag := false, cur := none }

/-- Function 0 with its admin queues, a CQ 2, an EQ 3 and an SQ 4 with a descriptor at its head, and one window. -/
def fn0 : Fn :=
  { Fn.reset with
    queues := [queue 0 .sq 1 0 1, queue 1 .cq 0 0 0, queue 2 .cq 0 0 0, queue 3 .eq 0 0 0, queue 4 .sq 2 0 1]
    windows := (Vector.replicate 16 none).set 0 (some (0, 0x1_0000_0000)) }

/-- The part with that function. -/
def hosted : State := (up.onHost fun h => h.onFn 0 fun _ => fn0).onHost fun h => h.setReg 0x100 16

/-- A descriptor of an SQ of function 0. -/
def hdr (sq : Nat) : DescHdr := { func := 0, sq := sq, tag := 7, fence := false, quiet := false, resv := false }

/-- A firmware object of a value. -/
def object (v : Nat) : TslObj := TslObj.fresh 0 none none v

/-- Object 5 of die 0 at a value. -/
def counting (v : Nat) : State := die0 (fun x => { x with tsl := x.tsl.setObj 5 (object v) }) up

/-- An operation of the Ringmaster of die 0. -/
def asks (op : TslOp) : TslReq := { iss := { cls := 0, die := 0, inst := 0, queue := 0 }, op := op, opIx := 0, step := 0, seq := 0 }

/-! ### Ill-formed commands -/

theorem test_wf_refuses_long_transaction : Instr.wf (.senseTransactionEnd 0 (.ok (List.replicate 9 0))) = false := by
  decide

/-- A load of an item of Matrix Engine e of die 0. -/
def loadOf (e : EngIx) (t b : Nat) (tiles : List TileId) (errors : Nat) : TileLoad :=
  ⟨⟨⟨0, 1⟩, 0, .me e, 0, 0⟩, t, b, tiles, ⟨errors, false⟩⟩

/-- The command of a load. -/
def loadCmd (l : TileLoad) (other : Option TileLoad) : Instr := .tileLoad l.it l.t l.b ⟨l.tiles, l.acc⟩ other

theorem test_wf_refuses_wide_tile : Instr.wf (loadCmd (loadOf 0 65536 0 [] 0) none) = false := by
  simp [Instr.wf, TileLoad.wf, loadCmd, loadOf]

theorem test_wf_refuses_deep_block : Instr.wf (loadCmd (loadOf 0 0 65536 [] 0) none) = false := by
  simp [Instr.wf, TileLoad.wf, loadCmd, loadOf]

theorem test_wf_refuses_seventeen_tiles : Instr.wf (loadCmd (loadOf 0 0 0 (List.replicate 17 ⟨0, 0, 0⟩) 0) none) = false := by
  simp [Instr.wf, TileLoad.wf, loadCmd, loadOf]

theorem test_wf_refuses_errors_without_entries : Instr.wf (loadCmd (loadOf 0 0 0 [] 1) none) = false := by
  simp [Instr.wf, TileLoad.wf, loadCmd, loadOf]

theorem test_wf_refuses_two_loads_of_one_engine : Instr.wf (loadCmd (loadOf 0 0 0 [] 0) (some (loadOf 0 0 0 [] 0))) = false ∧
    Instr.wf (loadCmd (loadOf 0 0 0 [] 0) (some (loadOf 1 0 0 [] 0))) = true := by
  simp [Instr.wf, TileLoad.wf, loadCmd, loadOf]

theorem test_wf_refuses_line_8192 : Instr.wf (.sourceLineArrival 0 0 0 8192 0 []) = false := by decide

theorem test_wf_refuses_wide_form :
    Instr.wf (.sourceFrameStart 0 0 0 0 true ⟨7681, 64, 10, false, false, none⟩) = false := by decide

theorem test_wf_refuses_tall_form :
    Instr.wf (.sourceFrameStart 0 0 0 0 true ⟨64, 8193, 10, false, false, none⟩) = false := by decide

theorem test_wf_refuses_stripe_1024 : Instr.wf (.fallbackComplete 0 0 1024) = false := by decide

theorem test_wf_refuses_other_kind_of_wait : Instr.wf (.waitGe 0 (.phys 0) (asks (.waitSub 1)) []) = false ∧
    Instr.wf (.waitSub 0 (.phys 0) (asks (.waitGe 1)) []) = false := by decide

theorem test_wf_refuses_other_kind_of_signal : Instr.wf (.add 0 (.phys 0) (asks (.sub 1)) []) = false ∧
    Instr.wf (.sub 0 (.phys 0) (asks (.set 1)) []) = false ∧ Instr.wf (.set 0 (.phys 0) (asks (.add 1)) []) = false := by decide

theorem test_wf_refuses_wide_amount : Instr.wf (.add 0 (.phys 0) (asks (.add (2 ^ 31))) []) = false ∧
    Instr.wf (.add 0 (.phys 0) (asks (.add 1)) [asks (.waitGe (2 ^ 31))]) = false := by decide

theorem test_wf_refuses_wide_issuer : Instr.wf (.fenceComplete ⟨5, 0, 1024, 0⟩) = false ∧
    Instr.wf (.fenceComplete ⟨5, 0, 0, 32768⟩) = false := by decide

theorem test_wf_refuses_wide_queue : Instr.wf (.hostReadError 0 262144 true) = false ∧
    Instr.wf (.descriptorCompletion 0 262144) = false ∧ Instr.wf (.msixTimerExpiry 0 262144) = false ∧
    Instr.wf (.nop (hdr 262144)) = false := by decide

theorem test_wf_refuses_short_copy : Instr.wf (.copy (hdr 4) 0 0 0 0 2 [0]) = false ∧
    Instr.wf (.admitBundle (hdr 0) 0 2 0 [0]) = false ∧ Instr.wf (.bind (hdr 0) 0 2 0 [0]) = false := by decide

theorem test_wf_refuses_tall_frame (n : Nat) (h : 8192 < n) :
    Instr.wf (.frame (hdr 4) 1 0 0 0 0 0 0 (List.replicate n [])) = false := by
  simp [Instr.wf]; omega

theorem test_wf_refuses_long_image (n : Nat) (h : 2 ^ 25 < n) : Instr.wf (.imageVerify 0 (List.replicate n 0)) = false := by
  simp [Instr.wf]; omega

theorem test_wf_refuses_long_request (n : Nat) (h : 2 ^ 17 ≤ n) : Instr.wf (.auth .pf (List.replicate n 0)) = false := by
  simp [Instr.wf]; omega

theorem test_wf_refuses_fifteen_sensors : Instr.wf (.thermalReading 0 (List.replicate 15 0) 0 0) = false ∧
    Instr.wf (.thermalReading 0 (List.replicate 16 1024) 0 0) = false := by decide

theorem test_wf_refuses_wide_offset : Instr.wf (.ptpMessage 0 ⟨0, 2 ^ 31, true, 0, []⟩) = false := by decide

theorem test_wf_refuses_access_beyond_bar : Instr.wf (.registerWrite (.bar0 0x0800_0000) 4 0 0) = false ∧
    Instr.wf (.registerWrite (.fnBar 0 0x2_0000) 4 0 0) = false ∧ Instr.wf (.registerWrite (.bar0 0) 9 0 0) = false ∧
    Instr.wf (.registerWrite (.bar0 0) 0 0 0) = false := by decide

/-! ### What each statement asks for is met: the step, resets, counters, latches -/

theorem wit_step_runs_front : ({ up with pending := [.tripN] } : State).pending = .tripN :: [] := by decide

theorem wit_idle_step_is_a_tick : up.pending = [] ∧ up.clocks = true ∧ State.reset.clocks = false := by decide

theorem wit_step_keeps_canonical_form : up.wf ∧ step up = .next { up with gsc := 1_000_000_001 } := by
  unfold State.wf; exact ⟨by decide, rfl⟩

theorem wit_otp_changes_by_audit_program_alone : Instr.tripN ≠ .auditProgram ∧
    exec .tripN up = .next { up with pins := { up.pins with tripN := false } } := ⟨by decide, rfl⟩

theorem wit_straps_change_at_power_on_alone : (∀ st, Instr.tripN ≠ .powerOn st) ∧
    exec .tripN up = .next { up with pins := { up.pins with tripN := false } } := ⟨fun _ => by simp, rfl⟩

theorem wit_device_time_stands_during_commands : step up = .next { up with gsc := 1_000_000_001 } := rfl

theorem wit_counter_clears_and_latches : up.present 0 = true ∧ up.present 7 = true := by decide

/-! ### Heads and links -/

/-- Head 0 in command mode: it waits for an edge, or not. -/
def commanded (waiting : Bool) : State :=
  head0 (fun h => { h with te := { h.te with waiting := waiting } })
    (die0 (fun x => { x with force := sSet regReset x.force Reg.scnTeCtrl 1 }) (scanning 60))

theorem wit_command_mode_edges : (commanded true).present 0 = true ∧ ((commanded true).die 0).head.running = true ∧
    ((commanded true).die 0).fField Reg.scnTeCtrl 0 0 = 1 ∧ ((commanded true).die 0).head.te.waiting = true ∧
    ((commanded false).die 0).fField Reg.scnTeCtrl 0 0 = 1 ∧ ((commanded false).die 0).head.te.waiting = false ∧
    ((commanded true).die 0).head.mode = some mode64 ∧ true = decide (((commanded true).die 0).fField Reg.scnTeCtrl 1 1 = 0) ∧
    ¬ false = decide (((commanded true).die 0).fField Reg.scnTeCtrl 1 1 = 0) ∧
    2 * 10 ^ 11 ≤ ((commanded true).gsc - ((commanded true).die 0).head.te.edgeAt) * mode64.rate := by decide

/-- A link that is up, with HDCP enabled and asked for. -/
def linked : State :=
  let s := head0 (fun h => { h with linkUp := true }) (die0 (fun x => { x with force := sSet regReset x.force Reg.scnCtrl 0x4000 }) up)
  { s with otp := { s.otp with features := 1 } }

theorem wit_links_up_and_down : up.drivesLink 0 = true ∧ (up.die 0).head.linkUp = false ∧ (linked.die 0).head.linkUp = true ∧
    (linked.die 0).fField Reg.scnCtrl 14 14 = 1 ∧ linked.otp.features.getLsbD 0 = true := by decide

theorem wit_line_counter_advances : (scanning 0).present 0 = true ∧ (scanning 0).headCanvas 0 = none ∧
    ((scanning 0).die 0).head.mode = some mode64 ∧ ((scanning 0).die 0).head.running = true ∧
    ((scanning 0).die 0).head.te.waiting = false ∧ 0 + 1 ≠ mode64.h ∧ ((scanning 299).die 0).head.vtotalNow ≤ 299 + 1 := by decide

/-- A layer of head 0 holds a frame since reset. -/
def holding : State :=
  head0 (fun h => { h with layers := h.layers.set 0 { LayerRt.reset with held := true, holdFrom := some 0 } }) up

theorem wit_hold_limit_begins_fill : (holding.die 0).head.layers[0].held = true ∧ (holding.die 0).head.layers[0].fill = false ∧
    (holding.die 0).head.layers[0].holdFrom = some 0 ∧
    100_000 * (holding.die 0).field Reg.cmpHoldLimit 15 0 ≤ holding.gsc - 0 := by decide

/-! ### Sources -/

/-- A captured form of 64 by 2. -/
def form64 : VideoForm := ⟨64, 2, 10, false, false, none⟩

/-- A frame of it with some lines. -/
def frame64 (lines : List (Nat × SrcLine)) : SrcFrame :=
  { index := 0, counter := 1, ts := 5, lastAt := 5, smoothed := 5, lines := lines, form := form64, bad := false, repeated := false }

/-- A line. -/
def line64 : SrcLine := { bytes := [], crc := 0, counter := 0, ts := 0 }

/-- A source of port 0 that captures a frame with some lines. -/
def source64 (lines : List (Nat × SrcLine)) : Source :=
  { port := 0, stream := 0, host := none, form := form64, capturing := some (frame64 lines), frames := [], nextIndex := 1
    stamps := [], recorded := 0, meanPeriod := 0, cadence := .none, oldLast := none, newRateFrames := none }

/-- A port that captures a frame with some lines. -/
def capturing (lines : List (Nat × SrcLine)) : State :=
  die0 (fun x => { x.setReg Reg.pwrPortEn 7 with sources := [source64 lines] }) up

theorem wit_source_capture : (capturing []).present 0 = true ∧ ((capturing []).die 0).portOn 0 = true ∧
    (((capturing []).die 0).portSource 0 0).map Source.capturing = some (some (frame64 [])) ∧ 1 < form64.height ∧
    (frame64 [(0, line64), (1, line64)]).lines.length = form64.height ∧
    (((capturing [(0, line64), (1, line64)]).die 0).portSource 0 0).map Source.capturing =
      some (some (frame64 [(0, line64), (1, line64)])) ∧ (frame64 []).lines.length ≠ form64.height := by decide

/-! ### Safety Net -/

/-- Die 0 is ARMED at an operating point that runs neural work. -/
def armed : State :=
  let s := net0 (fun x => { x with phase := .armed }) up
  { s with power := { s.power with point := .op0, held := false } }

/-- A restart of die 0 in a phase, triggered at reset. -/
def restarting (p : RestartPhase) (s : State) : State := net0 (fun x => { x with restart := some { at_ := 0, phase := p } }) s

/-- Die 0 with its neural domain latched off, and an installer. -/
def off0 : State := signedIn 1 (net0 (fun x => { x with latchedOff := true }) armed)

theorem wit_restart_sequence : ((restarting .gated armed).die 0).sfn.restart = some ⟨0, .gated⟩ ∧ 0 + 105_000 ≤ armed.gsc ∧
    ((restarting .powered armed).die 0).sfn.restart = some ⟨0, .powered⟩ ∧
    ((restarting .restaged (scanning 0)).die 0).sfn.restart = some ⟨0, .restaged⟩ ∧
    (0 : BitVec 18) &&& 0b100010111010001101 = 0 ∧ (restarting .restaged (scanning 0)).hasRaster 0 = true ∧
    (1 : BitVec 18) &&& 0b100010111010001101 ≠ 0 ∧ 1 ≤ off0.role .pf ∧ off0.auditRoom = true ∧ (off0.die 0).sfn.latchedOff = true ∧
    (off0.die 0).sfn.restart = none ∧ (off0.die 0).sfn.phase = .armed := by decide

/-- A golden stripe runs on engine 0. -/
def golden : State := net0 (fun x => { x with goldenStarted := true }) armed

theorem wit_golden_mismatch_restarts : (golden.die 0).sfn.goldenStarted = true ∧ ((golden.die 0).engines[0]).slot15 = none ∧
    (golden.die 0).sfn.goldenEngine = 0 ∧ (∀ e : Word, ∃ crc, crc = e) ∧ (∀ e : Word, ∃ crc, crc ≠ e) :=
  ⟨by decide, by decide, by decide, fun e => ⟨e, rfl⟩, fun e => ⟨e + 1, by bv_omega⟩⟩

/-- The golden stripe finds slot 15 in use. -/
def goldenBusy : State :=
  die0 (fun x => { x with engines := x.engines.set 0 { Engine.reset with
    slots := [(15, { it := ⟨⟨0, 1⟩, 0, .me 0, 0, 0⟩, tile := ⟨0, 0, 0⟩, next := 0, entries := [] })] } }) golden

theorem wit_golden_runs_and_deferrals : armed.neuralOn 0 = true ∧ armed.hasRaster 0 = false ∧ (scanning 0).hasRaster 0 = true ∧
    up.neuralOn 0 = false ∧ (armed.die 0).sfn.goldenStarted = false ∧
    (goldenBusy.die 0).sfn.goldenStarted = true ∧ (goldenBusy.die 0).sfn.goldenDefer < 2 ∧
    ((goldenBusy.die 0).engines[0]).slot15.isSome = true ∧
    ((net0 (fun x => { x with goldenDefer := 2 }) armed).die 0).sfn.goldenDefer = 2 := by decide

theorem wit_monitors_and_watchdogs : armed.present 0 = true ∧ (armed.die 0).sfn.phase ≠ .safe ∧
    ((scanning 0).die 0).head.running = true ∧ ((scanning 0).die 0).head.te.waiting = false := by decide

/-- Channel 3 of the current guard, on, with a limit of 100 and whether its latest sample exceeded it, selected by an installer. -/
def guarded (exceeded tripped : Bool) : State :=
  let s := signedIn 1 (die0 (fun x => x.setReg Reg.sfnIgSel 3) up)
  s.onIg 3 fun _ => { cfg := 1, limit := 100, last := if exceeded then 101 else 100, exceeded := exceeded, tripped := tripped, timeout := false }

theorem wit_current_guard : bit ((guarded false false).ig 3).cfg 0 = true ∧
    ¬ (bits ((guarded false false).ig 3).limit 15 0 < (101 : BitVec 16).toNat ∧ ((guarded false false).ig 3).exceeded = true) ∧
    bits ((guarded true false).ig 3).limit 15 0 < (101 : BitVec 16).toNat ∧ ((guarded true false).ig 3).exceeded = true ∧
    ((guarded true false).ig 3).tripped = false ∧ ((guarded true true).ig 3).tripped = true ∧ 1 ≤ (guarded false true).role .pf ∧
    (guarded false true).auditRoom = true ∧ (Fin.ofNat 32 ((guarded false true).field 0 Reg.sfnIgSel 4 0)) = 3 ∧
    ((guarded false true).ig 3).last.toNat ≤ bits ((guarded false true).ig 3).limit 15 0 := by decide

/-- The receiver echo is on with ECHO_N 2, one bad frame so far and one digest sent. -/
def echoing : State :=
  head0 (fun h => { h with echo := { h.echo with digests := [5], bad := 1, good := 1, failing := true } })
    (die0 (fun x => x.setReg Reg.sfnEchoCtrl 0x81) up)

theorem wit_receiver_echo : echoing.field 0 Reg.sfnEchoCtrl 0 0 = 1 ∧ (echoing.die 0).head.echo.lastSeq ≠ some 9 ∧
    1 ≤ echoing.field 0 Reg.sfnEchoCtrl 9 6 ∧ (6 : Word) ∉ (echoing.die 0).head.echo.digests ∧
    (5 : Word) ∈ (echoing.die 0).head.echo.digests ∧ echoing.field 0 Reg.sfnEchoCtrl 9 6 ≤ (echoing.die 0).head.echo.bad + 1 ∧
    (up.die 0).head.echo.bad + 1 < echoing.field 0 Reg.sfnEchoCtrl 9 6 := by decide

/-- The staging buffer of audit entries is full. -/
def full (s : State) : State := { s with sec := { s.sec with staging := List.replicate 16 (s.auditEntry 0 0 0 0 0 0 0 0) } }

theorem wit_threshold_writes : up.role .pf = 0 ∧ 1 ≤ (signedIn 1 up).role .pf ∧
    (up.die 0).withinEnvelope Reg.sfnTMean (writeWord (fieldsAt Reg.sfnTMean) (up.reg 0 Reg.sfnTMean) 0xFFFF 0) = false ∧
    (up.die 0).withinEnvelope Reg.sfnTMean (writeWord (fieldsAt Reg.sfnTMean) (up.reg 0 Reg.sfnTMean) 0 0) = true ∧
    up.field 0 Reg.detRecCtrl 0 0 = 0 ∧ (signedIn 1 up).auditRoom = true ∧ (signedIn 1 up).hasRaster 0 = false ∧
    (signedIn 1 (scanning 0)).hasRaster 0 = true ∧ (full (signedIn 1 up)).auditRoom = false ∧ 1 ≤ (full (signedIn 1 up)).role .pf := by
  decide

/-- Every die has its injection under way. -/
def injecting : State := up.onDies up.dieList fun _ x => { x with sfn := { x.sfn with injBusy := true } }

theorem wit_error_injection : (up.die 0).sfn.injBusy = false ∧ up.power.point = .op3 ∧ armed.power.point ≠ .op3 ∧
    (armed.die 0).sfn.injBusy = false ∧
    (∀ d, injecting.present d = true → (injecting.die d).sfn.injBusy = true ∧ (injecting.die d).boot.alone = false) ∧
    (∀ d : DieIx, injecting.present d = true → ([] : List (BitVec 18)).getD d.val 0 = 0) ∧
    (∃ d : DieIx, injecting.present d = true ∧ ([1] : List (BitVec 18)).getD d.val 0 ≠ 0) := by decide

/-! ### Turnstiles -/

/-- An operation of an issuer of a class on a die. -/
def by_ (cls : Fin 9) (d : DieIx) (op : TslOp) : TslReq := { asks op with iss := { cls := cls, die := d, inst := 0, queue := 0 } }

theorem wit_turnstile_operations : (counting 5).present 0 = true ∧ ((counting 5).die 0).tsl.obj 5 = some (object 5) ∧
    ((counting 5).die 0).tsl.frozen = false ∧ (counting 5).ctxCanvas 0 0 = none ∧
    (∀ b ∈ (counting 5).barriers, ∀ k : Fin 8, b.arr[k.val] ≠ 5) ∧ (asks (.add 1)).iss.cls = 0 ∧ (asks (.add 1)).iss.die = 0 ∧
    reqAllowed (asks (.add 1)) 0 ((counting 5).firmwareRef 0 (.phys 5)) = true ∧
    reqAllowed (by_ 5 0 (.set 1)) 0 ((counting 5).firmwareRef 0 (.phys 5)) = false ∧
    reqAllowed (by_ 5 1 (.add 1)) 0 ((counting 5).firmwareRef 0 (.virt 9 4)) = true ∧ (up.die 0).tsl.translate 9 4 0 = none ∧
    reqAllowed (by_ 5 0 (.add 1)) 0 (up.firmwareRef 0 (.virt 9 4)) = true ∧
    (object 5).poison = false ∧ (object 5).waiters = [] ∧ (object 5).retry = [] ∧ 5 ≤ (object 5).value ∧ (object 5).value < 6 ∧
    (object 5).value + 1 ≤ 2 ^ 31 - 1 ∧ 2 ^ 31 - 1 < (object 5).value + (2 ^ 31 - 1) := by decide

theorem wit_turnstile_waiters_released_in_order : (object 5).poison = false ∧ (object 5).retry = [] ∧ (asks (.add 7)).op = .add 7 ∧
    ({ object 5 with poison := true }).poison = true := by decide

/-- An ADD in flight from die 1 to object 5 of die 0. -/
def travelling : State := { counting 5 with gaide := [{ src := 1, dst := 0, ref := .phys 5, req := asks (.add 1) }] }

/-- A barrier whose node on a die is complete. -/
def node (d : DieIx) : Barrier :=
  { id := 1, owner := ⟨0, 1⟩, op := 0, expected := Vector.replicate 8 1, arr := Vector.replicate 8 6, rel := Vector.replicate 8 5
    generation := 0, combining := [d] }

/-- The part with that barrier. -/
def barrier (d : DieIx) : State := { counting 5 with barriers := [node d] }

theorem wit_turnstiles_over_gaide : travelling.present 0 = true ∧
    travelling.gaide.find? (fun k => k.src == 1 && k.dst == 0) = some ⟨1, 0, .phys 5, asks (.add 1), none, []⟩ ∧
    (travelling.die 0).tsl.obj 5 = some (object 5) ∧ (travelling.die 0).tsl.frozen = false ∧ travelling.ctxCanvas 0 0 = none ∧
    travelling.barriers = [] ∧ (barrier 1).barriers.find? (fun b => b.id == 1 && b.combining.contains 1) = some (node 1) ∧
    (barrier 0).barriers.find? (fun b => b.id == 1 && b.combining.contains 0) = some (node 0) ∧
    (barrierParent .pv8800 1).isSome = true ∧ barrierParent .pv8800 0 = none ∧ ((barrier 0).die 0).tsl.obj 5 = some (object 5) ∧
    (∀ c ∈ (barrier 0).barriers, ∀ k : Fin 8, c.arr[k.val] ≠ 5) ∧ (up.die 0).tsl.translate 9 4 0 = none ∧ up.ctxCanvas 0 9 = none := by
  decide

/-- A dump of die 0 under way. -/
def dumping : State :=
  die0 (fun x => { x with tsl := { x.tsl with dump := some { dies := [0], freeze := true, addr := 0, bytes := [1], status := .ok }, frozen := true } }) up

theorem wit_turnstile_capture_and_dump : bit (5 : Word) 31 = false ∧ bit (1 : Word) 0 = true ∧ up.field 0 Reg.tslDumpCtrl 3 3 = 0 ∧
    bit (5 : Word) 2 = true ∧ bit (1 : Word) 2 = false ∧ (dumping.die 0).tsl.dump.isSome = true ∧
    (∀ e, (dumping.die e).tsl.held = []) ∧ ((up.tslSeen 0).obj (bits (5 : Word) 13 0)) = none ∧
    (((counting 5).tslSeen 0).obj (bits (5 : Word) 13 0)).isSome = true ∧ bit (0 : Word) 0 = false ∧
    (die0 (fun x => x.setReg Reg.tslDumpCtrl 8) up).field 0 Reg.tslDumpCtrl 3 3 = 1 ∧
    (∀ e, e ≠ 0 → (dumping.die e).tsl.dump = none) ∧ (dumping.reg 0 (Reg.tslEvt + 4)).getLsbD 5 = true ∧
    (up.die 0).tsl.dump = none := by decide

/-! ### The host's queues -/

/-- Queue x of function 0 as it is. -/
def q0 (id : Nat) : Option Queue := hosted.host.queue 0 id

/-- A descriptor in progress at the head of SQ 4, as it waits or is done. -/
def running (a : Option Await) (e : Option Completion) : State :=
  hosted.onHost fun h => h.onQueue 0 4 fun q => { q with cur := some { tag := 7, quiet := false, await := a, done := e } }

/-- CQ 2 with a vector, a coalescing timer of 1 ms and a record posted at reset. -/
def coalescing : State :=
  hosted.onHost fun h => h.onQueue 0 2 fun q => { q with vector := some 3, timer := 1_000, posted := 1, firstPost := some 0 }

theorem wit_doorbells_and_completions : (hosted.host.fn 0).ready = true ∧ (q0 (bits (2 * 0x4_0000 + 4 : Word) 17 0)).map Queue.kind = some .sq ∧
    4 < hosted.host.quota 0 ∧ (q0 4).map Queue.state = some .run ∧ bits (2 * 0x4_0000 + 4 : Word) 31 18 = 2 ∧
    ¬ (2 + 16 - 0) % 16 < (1 + 16 - 0) % 16 ∧ (q0 2).map Queue.kind = some .cq ∧ ¬ (0 + 16 - 0) % 16 < (0 + 16 - 0) % 16 ∧
    (16 : Nat) ≤ bits (16 * 0x4_0000 + 4 : Word) 31 18 ∧ q0 9 = none ∧ (q0 4).map Queue.cur = some none ∧
    ((running (some .transfer) none).current (hdr 4)).map Current.await = some (some .transfer) ∧
    ((running none (some (.plain .ok))).current (hdr 4)).map Current.done = some (some (.plain .ok)) ∧
    (q0 4).map Queue.cq = some 2 ∧ (q0 2).map Queue.accepts = some true ∧
    ((coalescing.host.queue 0 2).map fun q => (q.vector, q.firstPost, q.timer)) = some (some 3, some 0, 1_000) ∧
    0 + 100 * 1_000 ≤ coalescing.gsc := by decide

/-- Function 1 is disabled. -/
def disabled1 : State := up.onHost fun h => h.onFn 1 fun x => { x with disabled := true }

/-- Function 0 with rings of 16 entries asked for. -/
def asking : State := (up.onHost fun h => (h.setFnReg 0 0x010 4).setFnReg 0 0x018 4).onHost fun h => h.setReg 0x100 16

theorem wit_admin_rings_and_device_registers : (asking.host.fn 0).ready = true ∧ bit (asking.host.fnReg 0 0x020) 0 = false ∧
    2 ≤ asking.host.quota 0 ∧ bits (asking.host.fnReg 0 0x010) 3 0 = 4 ∧ bits (asking.host.fnReg 0 0x018) 3 0 = 4 ∧
    (asking.host.fn 0).disabled = false ∧ bits (up.host.fnReg 0 0x010) 3 0 < 4 ∧ (up.host.fn 1).disabled = false ∧
    (disabled1.host.fn 1).disabled = true ∧ up.host.quotaSum 0 16 ≤ 262144 ∧ ¬ up.host.quotaSum 0 262145 ≤ 262144 ∧
    (up.host.fn 0).queues = [] ∧ up.headCanvas 0 = none ∧ bit (0 : Word) 31 = (up.host.fn 1).disabled := by decide

theorem wit_function_resets : (1 : FnIx) ≠ 0 ∧ up.auditRoom = true ∧ up.sec.pf = none ∧
    ((up.onHost fun h => h.onFn 1 fun x => { x with ready := false }).host.fn 1).ready = false := by decide

/-- An allocation of 64 KiB of die 0 by function 0. -/
def allocated0 : State := die0 (fun x => { x with dramAlloc := [(0, 65536, 0)] }) hosted

theorem wit_descriptors_start : hosted.Starts (hdr 0) (queue 0 .sq 1 0 1) ∧ hosted.Starts (hdr 4) (queue 4 .sq 2 0 1) ∧
    allocated0.Starts (hdr 4) (queue 4 .sq 2 0 1) ∧ allocated0.Starts (hdr 0) (queue 0 .sq 1 0 1) := by
  unfold State.Starts; decide

theorem wit_descriptors_of_queues_and_memory : (0 : Byte).toNat < allocated0.nDies ∧ (64 : Word).toNat % 64 = 0 ∧
    allocated0.host.inWindow 0 0x1000 64 = true ∧ (allocated0.die 0).allocated 0 0 64 = true ∧
    (List.replicate 64 (1 : Byte)).length = (64 : Word).toNat ∧ (∀ u ∈ unitsOf 0 64, u ∉ (allocated0.die 0).dramPoison) ∧
    (15 : Byte).toNat ≤ 15 ∧ (0x1000 : Dword).toNat % 4096 = 0 ∧ 2 ≤ (5 : Word).toNat ∧ (5 : Word).toNat < hosted.host.quota 0 ∧
    ((hosted.host.queue 0 2).map Queue.kind) = some .cq ∧ hosted.host.inWindow 0 0x1000 (64 * 2 ^ 4) = true ∧
    hosted.host.inWindow 0 0x1000 (64 * 2 ^ 14) = true ∧ hosted.host.queue 0 5 = none ∧
    hosted.queueNamed 0 (queue 4 .sq 2 0 1) = false ∧ hosted.maskOk 3 = true ∧ (65536 : Dword).toNat % 65536 = 0 ∧
    (hosted.allocAt (maskDies 3) 65536).isSome = true ∧ allocated0.maskOk 1 = true ∧
    (∀ d ∈ maskDies 1, ((allocated0.die d).dramAlloc.find? fun e => e.1 == 0 && e.2.2 == 0) = some (0, 65536, 0) ∧
      allocated0.regionUsed d 0 65536 = false) := by decide

theorem wit_evict :
    let s := hosted.onHost fun h => h.onFn 0 fun x => { x with bundles := [{ handle := 1, image := [] }] }
    s.Starts (hdr 0) (queue 0 .sq 1 0 1) ∧ (∃ b ∈ (s.host.fn 0).bundles, b.handle = 1) ∧ s.canvases = [] := by
  unfold State.Starts; decide

/-- Function 0 with number 9 mapped to object 1,024 of die 0, at 5. -/
def mapped : State :=
  die0 (fun x => { x with tsl := { x.tsl with
    objs := [(1024, TslObj.fresh 1 (some 9) none 5)]
    ctxs := x.tsl.ctxs ++ [(1, { owner := .func 0, table := [(9, { base := 1024, banked := false, imported := false })] })] } }) hosted

/-- The same with SQ 4 at home on die 1. -/
def far : State := mapped.onHost fun h => h.onQueue 0 4 fun q => { q with home := 1 }

theorem wit_descriptors_of_turnstiles : mapped.host.startable (hdr 4) = some (queue 4 .sq 2 0 1) ∧ (9 : BitVec 16).toNat ≤ 4095 ∧
    mapped.present 0 = true ∧ mapped.fnTsl 0 0 9 = some (1, 1024) ∧ (mapped.die 0).tsl.translate 1 9 0 = some 1024 ∧
    ((mapped.die 0).tsl.obj 1024).map TslObj.value = some 5 ∧ (mapped.die 0).tsl.frozen = false ∧ mapped.barriers = [] ∧
    (far.host.startable (hdr 4)).map Queue.home = some 1 ∧ ({ hdr 4 with fence := true } : DescHdr).fence = true ∧
    (((hosted.die 0).tsl.funcCtx 0).bind fun c => ((hosted.die 0).tsl.ctx c).bind fun x => x.entry 9) = none ∧
    (((hosted.die 0).tsl.withFuncCtx 0).bind fun e => e.1.map e.2 9 false 5).isSome = true ∧ (mapped.die 0).tsl.funcCtx 0 = some 1 ∧
    (((mapped.die 0).tsl.ctx 1).bind fun x => x.entry 9).isSome = true ∧ (∀ d ∈ maskDies 1, mapped.present d = true) ∧
    mapped.canvases = [] := by decide

/-! ### Registers, resets, boot -/

theorem wit_event_wins_over_clear : up.present 0 = true ∧ (up.die 0).boot.inReset = false ∧ Reg.sfnEvt < 0x100_0000 ∧ Reg.sfnEvt % 4 = 0 ∧
    (∃ f ∈ fieldsAt Reg.sfnEvt, f.access = .w1c ∧ f.lo ≤ 2 ∧ 2 ≤ f.hi) ∧ (4 : Word).getLsbD 2 = true ∧
    (∃ f ∈ fieldsAt Reg.secEvt, f.access = .w1c ∧ f.lo ≤ 2 ∧ 2 ≤ f.hi) := by decide

theorem wit_register_writes : (8 : Nat) ≠ 4 ∧ (2 : Nat) % 4 ≠ 0 ∧ up.nDies ≤ 0x800_0000 / 0x100_0000 ∧
    ((die0 (fun x => { x with boot := { x.boot with inReset := true } }) up).die 0).boot.inReset = true ∧
    (up.die 0).head.commit.pending = false ∧
    ((head0 (fun h => { h with commit := { h.commit with pending := true } }) up).die 0).head.commit.pending = true ∧
    (up.field 0 Reg.detRecCtrl 0 0 = 0) ∧ ((die0 (fun x => x.setReg Reg.detRecCtrl 1) up).field 0 Reg.detRecCtrl 0 0 = 1) ∧
    bit (0 : Word) 0 = false ∧
    (((up.onHost fun h => h.onFn 0 fun x => x.setVector 3 { addr := 8, data := 1, masked := true, pendingBit := true }).host.fn 0).vector 3).pendingBit
      = true := by decide

/-- Die 1 in SAFE since reset, with automatic resets of such dies on. -/
def failed1 : State :=
  (die0 (fun x => x.setReg Reg.secReset 0x100) up).onDie 1 fun x => { x with sfn := { x.sfn with phase := .safe } }

theorem wit_resets_of_part_and_die : 1 ≤ (signedIn 1 up).role .pf ∧ (signedIn 1 up).auditRoom = true ∧ up.role .pf = 0 ∧ (1 : DieIx) ≠ 0 ∧
    up.present 1 = true ∧ failed1.field 0 Reg.secReset 8 8 = 1 ∧ (failed1.die 1).sfn.phase = .safe ∧
    (failed1.die 1).sfn.safeAt + 100_000_000 ≤ failed1.gsc := by decide

/-- The packages' clocks are locked. -/
def locked : State := { State.reset with pins := { State.reset.pins with pkgLock := true, pkgSync := true } }

/-- Die 1 in reset on its own since reset. -/
def down1 : State := up.onDie 1 fun x => { x with boot := { x.boot with alone := true, inReset := true } }

/-- Every die released. -/
def released : State := up.onDies up.dieList fun _ x => { x with boot := { x.boot with released := true } }

/-- Every die running, its memory trained or not. -/
def running_ (trained : Bool) : State :=
  up.onDies up.dieList fun _ x => { x with boot := { x.boot with released := true, phase := .running, trained := trained } }

theorem wit_boot_steps : State.reset.clocks = false ∧ State.reset.pins.resetN = true ∧ locked.clocks = false ∧ locked.pins.pkgSync = true ∧
    down1.clocks = true ∧ down1.gsc % 2 = 0 ∧ down1.power.standby = false ∧ (down1.die 1).boot.alone = true ∧
    (down1.die 1).boot.inReset = true ∧ (down1.die 1).boot.resetAt + 100_000 ≤ down1.gsc ∧ (released.die 0).boot.released = true ∧
    (released.die 0).boot.inReset = false ∧ (released.die 0).boot.phase = .rom ∧ released.straps.bootHost = false ∧
    (∀ b : Bool, b = true ∨ b = false) ∧ ((running_ false).die 3).boot.phase = .running ∧ ((running_ false).die 3).boot.trained = false ∧
    (running_ true).sec.loaded = false ∧ (∀ d, (running_ true).present d = true → ((running_ true).die d).boot.phase = .running ∧
      ((running_ true).die d).boot.trained = true) := by decide

/-- Links 0 of dies 0 and 1 are up, after a number of retries. -/
def linked01 (run : Nat) : State :=
  [0, 1].foldl (fun s d => s.onDie d fun x => { x with links := x.links.set 0 { up := true, failed := false, run := run } }) (running_ true)

theorem wit_background_work_and_links : (up.die 0).boot.inReset = false ∧ ((running_ true).die 0).boot.trained = true ∧
    (running_ true).calDue 0 0 = true ∧ (running_ true).inBlanking 0 = true ∧ linkPeer .pv8800 0 0 = some 1 ∧
    (linked01 0).present 1 = true ∧ (linked01 0).linkUp 0 0 = true ∧ 15 ≤ (((linked01 15).die 0).links[0]).run ∧
    (((linked01 0).die 0).links[0]).run < 15 ∧
    ((die0 (fun x => { x with calDone := x.calDone.set 0 up.gsc }) (running_ true)).calDue 0 0 = false) := by decide

/-! ### Roles, requests, settings -/

theorem wit_role_sessions : (∀ b : Bool, b = true ∨ b = false) ∧ up.sec.lockedUntil = none ∧ up.auditRoom = true ∧
    up.sec.failures + 1 < 8 ∧ ({ up with sec := { up.sec with lockedUntil := some 2_000_000_000 } } : State).gsc < 2_000_000_000 ∧
    (signedIn 1 up).sec.pf.isSome = true ∧ up.gsc < 2_000_000_000 ∧ (signedIn 2 up).session .pf = some ⟨2, 2_000_000_000⟩ ∧
    (2_000_000_000 : Nat) ≤ ({ signedIn 2 up with gsc := 2_000_000_000 } : State).gsc := by decide

/-- The request buffer of 64 KiB is at an address that a window holds. -/
def buffered (role : Fin 3) : State := signedIn role (die0 (fun x => (x.setReg Reg.secReqAddrLo 0x1000).setReg Reg.secReqLen 65536) hosted)

theorem wit_security_requests : (buffered 2).field 0 Reg.secReqCtrl 2 2 = 0 ∧ 64 ≤ (buffered 2).reqBuffer.2 ∧ (buffered 2).reqBuffer.2 ≤ 65536 ∧
    (buffered 2).host.inWindow 0 (buffered 2).reqBuffer.1 (buffered 2).reqBuffer.2 = true ∧
    64 + 4 + (buffered 2).sec.logBytes.length + 2592 + 4627 + 4627 ≤ (buffered 2).reqBuffer.2 ∧ (buffered 1).role .pf < 2 ∧
    (buffered 2).role .pf = 2 ∧ (buffered 2).auditRoom = true ∧ leAt [(3 : Byte)] 0 1 < 4 ∧
    (∀ x : BitVec 512, x &&& ~~~ x = 0) ∧
    ((die0 (fun x => { x with boot := { x.boot with phase := .waitHost } }) up).die 0).boot.phase = .waitHost := by
  refine ⟨?_, ?_, ?_, ?_, ?_, ?_, ?_, ?_, ?_, fun x => ?_, ?_⟩ <;> first | decide | exact BitVec.and_not_self x

/-- A store of settings whose entry is staged, or already programmed. -/
def storing (waits : Bool) : State :=
  let e := up.auditEntry 4 0 0 0xFF 0 0 0 0
  { up with nvm := { up.nvm with storing := some up.captureSettings },
            sec := { up.sec with staging := if waits then [e] else [], deferred := if waits then [(e.seq, .pf, .key 1 5)] else [] } }

theorem wit_settings_and_audit_ring : up.field 0 Reg.nvmCtrl 1 1 = 0 ∧ up.nvm.pickSlot = some 0 ∧ up.auditRoom = true ∧
    (die0 (fun x => x.setReg Reg.nvmCtrl 2) up).field 0 Reg.nvmCtrl 1 1 = 1 ∧ (storing false).nvm.storing.isSome = true ∧
    (storing false).sec.deferred = [] ∧ (storing true).sec.staging.length = 1 ∧
    (storing true).sec.deferred = [(0, .pf, .key 1 5)] := by
  refine ⟨?_, ?_, ?_, ?_, ?_, ?_, ?_, rfl⟩ <;> decide

/-! ### Power, pins, tasks -/

/-- A change of point that awaits die 0 alone. -/
def awaiting (s : State) : State := { s with power := { s.power with held := false, target := some .op1, awaited := [0] } }

/-- Sixteen sensors at a temperature in quarter degrees. -/
def heat (t : Int) : List Int := List.replicate 16 t

/-- Die 0 hot for 999 readings at level 4, with thermal steps on. -/
def hot : State :=
  let s := die0 (fun x => { x.setReg Reg.pwrCtrl 0x10 with thermal := { x.thermal with level := 4, hotMs := 999, critical := true } }) (scanning 0)
  { s with power := { s.power with point := .op0, held := false } }

/-- The part in standby, to return to OP3. -/
def asleep : State := { up with power := { up.power with standby := true } }

theorem wit_points_heat_and_standby : bit (4 : Word) 2 = true ∧ bit (4 : Word) 3 = false ∧ bits (4 : Word) 5 4 < 2 ∧
    bits (4 : Word) 5 4 = up.field 0 Reg.pwrCtrl 5 4 ∧ bits (4 : Word) 5 4 = up.field 0 Reg.detConfig 17 16 ∧ up.power.standby = false ∧
    up.power.standbyReq = false ∧ up.power.held = true ∧ armed.power.held = false ∧ opOfCode (bits (4 : Word) 1 0) = armed.power.point ∧
    opOfCode (bits (5 : Word) 1 0) ≠ armed.power.point ∧ (scanning 0).anyBoundary = true ∧ (0 : DieIx) ∈ (awaiting up).power.awaited ∧
    (awaiting up).power.target = some .op1 ∧ (awaiting (scanning 0)).anyBoundary = true ∧ (awaiting up).canvases = [] ∧
    (∀ e, ((awaiting up).die e).head.running = false ∧ ((awaiting up).die e).inflight = []) ∧ up.present 0 = true ∧
    (up.die 0).boot.inReset = false ∧ (∀ v ∈ (heat 381).take 16, v < up.junctionMax + 40) ∧ up.field 0 Reg.pwrCtrl 5 4 ≠ 1 ∧
    hot.field 0 Reg.pwrCtrl 5 4 = 1 ∧ (hot.die 0).thermal.level = 4 ∧ 999 ≤ (hot.die 0).thermal.hotMs ∧
    (∃ v ∈ (heat 381).take 16, hot.junctionMax - 20 < v) ∧ hot.power.target = none ∧ hot.power.point.below = some .op1 ∧
    hot.anyBoundary = true ∧ (∃ v ∈ (heat 440).take 16, up.junctionMax + 40 ≤ v) ∧ bit (8 : Word) 3 = true ∧ bit (8 : Word) 2 = false ∧
    up.canvases = [] ∧ (∃ h, (scanning 0).present h = true ∧ ((scanning 0).die h).head.running = true) ∧
    (∀ h, (up.die h).head.running = false) ∧ asleep.power.standby = true ∧ asleep.power.standbyPoint = asleep.power.point ∧
    up.role .pf = 0 ∧ 1 ≤ (signedIn 1 up).role .pf ∧ 4 * bits (1 : Word) 7 0 < op3Watts up.straps.part ∧
    op3Watts up.straps.part ≤ 4 * bits (255 : Word) 7 0 ∧ (∀ d, up.field d Reg.detConfig 15 8 = up.field 0 Reg.detConfig 15 8) ∧
    up.nDies < bits (9 : Word) 3 0 := by decide

/-- Task 0 runs a transaction on bus 0, and task 1 waits for that bus. -/
def tasked (wait : Bool) : State :=
  let w : Vector Word 4 := Vector.replicate 4 0
  let t : Task := { Task.reset with running := some w }
  let u : Task := { Task.reset with words := w, dueSince := if wait then some up.gsc else none }
  { up with sns := { up.sns with tasks := (up.sns.tasks.set 0 t).set 1 u } }

theorem wit_pins_tasks_and_pwm : bit ((die0 (fun x => x.setReg Reg.snsGpioDir 1) up).reg 0 Reg.snsGpioDir) 0 = true ∧
    bit (up.reg 0 Reg.snsGpioDir) 0 = false ∧ up.power.standby = false ∧ asleep.power.standby = true ∧
    bit ((die0 (fun x => x.setReg Reg.snsGpioWake 1) asleep).reg 0 Reg.snsGpioWake) 0 = true ∧ (up.task 0).running = none ∧
    ((tasked false).task 0).running = some (Vector.replicate 4 0) ∧ (tasked false).waitingTasks 0 = [] ∧
    (tasked true).waitingTasks 0 = [(up.gsc, 1)] ∧ (tasked true).framePassed 0 up.gsc = false ∧
    (∀ j : Fin 64, j ≠ 0 → ((tasked true).task j).running = none) ∧ bits (0 : Word) 26 26 = up.field 0 (Reg.snsPwm 0) 26 26 := by decide

/-! ### Bundles and canvases -/

/-- Bytes of a record: offset, width and value of each field. -/
def bytesOf (n : Nat) (fs : List (Nat × Nat × Nat)) : List Byte :=
  fs.foldl (fun b f => b.take f.1 ++ leBytes f.2.1 f.2.2 ++ b.drop (f.1 + f.2.1)) (List.replicate n 0)

/-- Header of a bundle of two ops, three tensors and two declarations, and INPUT of an RGB8 picture (tensor 0) to tensor 1: Tables 8.1
and 8.3. -/
def bundleHead : List Byte :=
  bytesOf 128 [(0, 4, 0x3142_5650), (4, 2, 1), (8, 4, 640), (12, 2, 2), (14, 2, 3), (20, 4, 128), (24, 4, 384), (38, 2, 2), (44, 4, 576)] ++
  bytesOf 128 [(0, 2, 0x40), (4, 4, 1), (32, 8, 0xFFFF_FFFF_FFFF_0000), (40, 4, 0xFFFF_0001), (44, 6, 0xFFFF_FFFF_FFFF),
    (54, 2, 0xFFFF), (80, 1, 10)]

/-- OUTPUT to the picture of tensor 2, the tensors, and the row Turnstiles: Tables 8.2 and 8.3, R196. -/
def bundleTail : List Byte :=
  bytesOf 128 [(0, 2, 0x41), (4, 4, 2), (32, 8, 0xFFFF_FFFF_FFFF_0001), (40, 4, 0xFFFF_0002), (44, 6, 0xFFFF_FFFF_FFFF),
    (54, 2, 0xFFFF), (80, 1, 10)] ++
  bytesOf 64 [(0, 2, 1), (6, 2, 3), (8, 1, 10), (9, 1, 4), (16, 4, 0xFFFF_FFFF)] ++
  bytesOf 64 [(0, 2, 1), (6, 2, 3), (8, 1, 3), (16, 4, 0xFFFF_FFFF)] ++
  bytesOf 64 [(0, 2, 1), (6, 2, 3), (8, 1, 10), (9, 1, 4), (16, 4, 0xFFFF_FFFF)] ++
  bytesOf 64 [(0, 2, 1), (2, 1, 1), (4, 2, 1), (8, 2, 2), (10, 1, 1), (12, 2, 2)]

/-- The bundle: its HASH is the SHA3-256 of the other bytes (R192; `wit_admission_checks` computes it). -/
def bundle : List Byte :=
  bundleHead.take 64 ++ leBytes 32 0x9df2_c72e_23b6_f1fc_9fe2_787b_c894_85b0_2186_db19_1cfe_ebd9_592b_caec_bebf_a855 ++
    bundleHead.drop 96 ++ bundleTail

/-- A binding block: bundle 1 on head 0, 64 by 64, one source from the host, one layer. Table 12.10. -/
def block (flags : Nat) : List Byte :=
  bytesOf 128 [(0, 2, 1), (2, 1, flags), (3, 1, 8), (5, 1, 1), (6, 1, 1), (8, 2, 64), (10, 2, 64), (12, 2, 300), (14, 2, 100),
    (16, 4, 240_000), (40, 4, 2), (44, 4, 3), (48, 6, 0xFFFF_0000_FFFF), (54, 1, 1), (55, 1, 1)] ++
  bytesOf 32 [(2, 1, 3), (8, 2, 64), (10, 2, 64), (12, 1, 10), (17, 1, 10), (18, 2, 1)]

/-- An image of one CONV op of 1 by 1 from tensor 0 to tensor 1, both of one row, with some columns, input channels and groups, and program
0 as its weight-side stream. -/
def convImage (scope w cin groups : Nat) : List Byte :=
  bytesOf 128 [(0, 4, 0x3142_5650), (8, 4, 384), (12, 2, 1), (14, 2, 2), (20, 4, 128), (24, 4, 256)] ++
  bytesOf 128 [(0, 2, 1), (3, 1, scope), (4, 4, 2), (32, 8, 0xFFFF_FFFF_FFFF_0000), (40, 4, 0xFFFF_0001), (44, 6, 0xFFFF_FFFF_0000),
    (54, 2, 0xFFFF), (80, 6, 0x0101_0101_0101), (92, 2, groups)] ++
  bytesOf 64 [(0, 2, 1), (2, 2, 1), (4, 2, w), (6, 2, cin), (11, 1, 8), (16, 4, 0xFFFF_FFFF)] ++
  bytesOf 64 [(0, 2, 1), (2, 2, 1), (4, 2, w), (6, 2, 1), (8, 1, 6), (11, 1, 8), (16, 4, 0xFFFF_FFFF)]

/-- The bundle with a CONV op of 1 by 1, of program 0, in place of OUTPUT: it reads what INPUT writes. -/
def chainImage : List Byte :=
  bundleHead ++
  bytesOf 128 [(0, 2, 1), (4, 4, 2), (32, 8, 0xFFFF_FFFF_FFFF_0001), (40, 4, 0xFFFF_0002), (44, 6, 0xFFFF_FFFF_0000),
    (54, 2, 0xFFFF), (80, 6, 0x0101_0101_0101), (92, 2, 1)] ++ bundleTail.drop 128

/-- A canvas of an image, as BIND makes it, at device time 0. -/
def canvasOf (flags : Nat) (image : List Byte) : Canvas := Canvas.fresh ⟨0, 1⟩ (readBinding (block flags)) image 1 [0] 0

/-- The part with a canvas. -/
def bound (c : Canvas) (s : State) : State := { s with canvases := [c] }

/-! ### Canvases at work -/

/-- The live canvas of the bundle, and its identity. -/
def cv0 : CanvasId := ⟨0, 1⟩
def live0 : Canvas := canvasOf 0 bundle

/-- Its lock in a state. -/
def locked0 (l : LockState) (src : Nat) : Canvas := { live0 with lock := { live0.lock with state := l }
                                                                 binding := { live0.binding with lock := src } }

/-- Messages of PTP are taken on die 0. -/
def ptpOn (s : State) : State := die0 (fun x => x.setReg Reg.clkPtpCtrl 1) s

theorem wit_lock_references : (bound live0 up).canvas cv0 = some live0 ∧ live0.binding.lock = 0 ∧ live0.replays = false ∧
    (bound live0 up).inCommand live0.stepDie = false ∧ (locked0 .acquire 0).lock.state = .acquire ∧
    3 * (bound (locked0 .acquire 0) up).refDiv (locked0 .acquire 0) * 10 ^ 11 ≤
      ((bound (locked0 .acquire 0) up).gsc - (locked0 .acquire 0).lock.lastRef) * (locked0 .acquire 0).binding.rate ∧
    (ptpOn up).field 0 Reg.clkPtpCtrl 0 0 = 1 ∧ (ptpOn up).field 0 Reg.clkPtpCtrl 3 1 = 0 ∧ (ptpOn up).canvases = [] ∧
    (bound (locked0 .free 1) (ptpOn up)).field 0 Reg.clkPtpCtrl 0 0 = 1 ∧ (locked0 .free 1).binding.lock = 1 :=
  ⟨rfl, by decide, by decide, by decide, rfl, by decide, by decide, by decide, rfl, by decide, rfl⟩

/-- The part of stripe 0 of frame 0 on head 0. -/
def part0 : PartSt :=
  { id := ⟨0, 0, 0, 0⟩, frame := 0, computeDie := 0, stepSeq := 0, released := true, complete := true, failed := none, abandoned := false
    fallbackStarted := true, fallbackDone := true, verdict := none, degraded := false, choice := none, read := false, carried := none }

/-- The canvas with that part. -/
def withPart (p : PartSt) : Canvas := { live0 with parts := [p] }

/-- Layer 0 of head 0 of an armed part holds its frame. -/
def held0 : State := head0 (fun h => { h with layers := h.layers.set 0 { LayerRt.reset with held := true } }) armed

theorem wit_deadline_choice : up.power.point = .op3 ∧ armed.forcedPart live0 part0 = false ∧ armed.sourcePart live0 part0 = false ∧
    held0.forcedPart live0 part0 = false ∧ (held0.die 0).head.layers[0].held = true ∧
    live0.layerEntry 0 = some ⟨0, 10, 1, 0⟩ ∧ ({ part0 with abandoned := true } : PartSt).abandoned = true ∧
    part0.complete = true ∧ part0.verdict = none ∧ armed.present part0.id.head = true ∧
    (bound (withPart part0) armed).canvas (withPart part0).id = some (withPart part0) ∧
    (withPart part0).parts.find? (fun r => r.id == part0.id && r.frame == part0.frame) = some part0 :=
  ⟨by decide, by decide, by decide, by decide, by decide, by decide, rfl, rfl, rfl, by decide, rfl, by decide⟩

theorem wit_verdict_and_fallback : (bound (withPart part0) armed).present 0 = true ∧
    (bound (withPart part0) armed).headCanvas 0 = some (withPart part0) ∧ (withPart part0).replays = false ∧
    (bound (withPart part0) armed).canvas cv0 = some (withPart part0) ∧
    (withPart part0).parts.find? (fun r => r.id == part0.id && r.frame == (withPart part0).frameNo) = some part0 ∧
    (withPart part0).layerEntry part0.id.layer = some ⟨0, 10, 1, 0⟩ ∧ part0.fallbackDone = true ∧ part0.failed = none ∧
    (armed.die 0).sfn.phase = .armed := ⟨by decide, rfl, by decide, rfl, by decide, by decide, rfl, rfl, rfl⟩

/-! ### Engines -/

/-- An item of op 0 on Matrix Engine e of die 0. -/
def itemOn (e : EngIx) : Item := Item.fresh ⟨cv0, 0, .me e, 0, 0⟩ 0 0

/-- Items that die 0 has in flight. -/
def flying (l : List Item) (s : State) : State := die0 (fun x => { x with inflight := l.map Item.id }) s

/-- A canvas of an image at work: its items, and what its weight-side streams have delivered. -/
def working (image : List Byte) (items : List Item) (feeds : List Feed) : Canvas :=
  { canvasOf 0 image with items := items, feeds := feeds }

/-- What program 0 has delivered for op 0: some runs of Big Top, a block at byte 0 in each. -/
def feed0 (runs : Nat) : Feed := { die := 0, prog := 0, op := 0, stepSeq := 0, runs := List.replicate runs (0, 65600), ended := true }

/-- An armed part at work on a canvas; the block at byte 0 of Big Top has KIND 3 and position 0. -/
def atWork (c : Canvas) : State := die0 (fun x => { x with bigTop := [(2, 3)] }) (flying c.items (bound c armed))

/-- The one tile of the op of `convImage`, and its load. -/
def tile0 : TileId := ⟨0, 0, 0⟩
def load0 (it : Item) (acc : AccRead) : TileLoad := ⟨it.id, 0, 0, [tile0], acc⟩
def noError : AccRead := ⟨0, false⟩
def doubleBit : AccRead := ⟨0, true⟩

/-- The first stream of die 0 for bundles, at an instruction, with windows over the first 4 KiB of DRAM and of Big Top. -/
def st0 : StreamId := ⟨0, 12, 0⟩
def flow (cv : Option CanvasId) (word : Dword) : Stream := Stream.launch cv 0 none [word] 0xFFFF [⟨1, 0, 0, 4096⟩, ⟨0, 0, 0, 4096⟩] 0

/-- The part runs that stream. -/
def flowing (x : Stream) (s : State) : State := die0 (fun d => { d with streams := [(st0, x)] }) s

/-- The context of the canvas, with a number of it mapped to object 1,024 of a value, poisoned or not. -/
def context (virt : BitVec 12) (v : Nat) (bad : Bool) (s : State) : State :=
  die0 (fun x => { x with tsl := { x.tsl with
    objs := [(1024, { TslObj.fresh 1 (some virt) none v with poison := bad })]
    ctxs := x.tsl.ctxs ++ [(1, { owner := .bundle cv0, table := [(virt, { base := 1024, banked := false, imported := false })] })] } }) s

/-- A CONV op of 16 input channels, its one tile to load. -/
def loadCanvas (runs : Nat) : Canvas := working (convImage 0 1 16 1) [itemOn 0] [feed0 runs]

/-- A CONV op that reads what INPUT writes, on Matrix Engine 0. -/
def chainItem : Item := Item.fresh ⟨cv0, 0, .me 0, 1, 0⟩ 0 0
def chainCanvas : Canvas := working chainImage [chainItem] []

/-- A CONV op of two M-tiles, one on each engine, whose stream has delivered nothing. -/
def wideCanvas : Canvas := working (convImage 0 128 16 1) [itemOn 0, itemOn 1] [feed0 0]

theorem feedAddrs_one (n : Nat) : feedAddrs [(0, n)] 0 n = (List.range n).map fun i => i := by
  cases n <;> simp [feedAddrs]

theorem feedAddrs_next (a n k : Nat) (rest : List (Nat × Nat)) : feedAddrs ((a, n) :: rest) n k = feedAddrs rest 0 k := by
  simp [feedAddrs]

/-- A block of the bytes that a function gives: its fields are those of its header. -/
theorem blockAt_range (f : Nat → Byte) (size : Nat) : ∃ p, blockAt ((List.range (64 + size)).map f) size 0 =
    some { tag := BitVec.ofNat 16 (leNat [f 0, f 1]), kind := BitVec.ofNat 8 (leNat [f 2]), fmt := BitVec.ofNat 8 (leNat [f 3]),
           op := BitVec.ofNat 16 (leNat [f 4, f 5]), form := BitVec.ofNat 8 (leNat [f 6]), payload := p } := by
  have h : List.range (64 + size) = [0, 1, 2, 3, 4, 5, 6] ++ (List.range (57 + size)).map (7 + ·) := by
    rw [show 64 + size = 7 + (57 + size) by omega, List.range_add]; rfl
  rw [h]
  exact ⟨_, by simp [blockAt, leAt]; exact ⟨by omega, rfl⟩⟩

/-- The block of KIND 3 that `atWork` puts into Big Top, where a stream has delivered it. -/
theorem blockIn_atWork (c : Canvas) (pos : Nat) (h : c.blockPlace 0 0 0 65536 pos = some ((List.range (64 + 65536)).map fun i => i)) :
    ∃ p, (atWork c).blockIn c 0 0 0 65536 pos = some { tag := 0, kind := 3, fmt := 0, op := 0, form := 0, payload := p } := by
  obtain ⟨p, e⟩ := blockAt_range (fun a => sGet zeroByte ((atWork c).die 0).bigTop a) 65536
  refine ⟨p, ?_⟩
  rw [State.blockIn, h, Option.bind_some, List.map_map]
  exact e.trans rfl

theorem wit_weight_loads_fold : (atWork (loadCanvas 1)).loadOk (loadCanvas 1) (itemOn 0) 0 (load0 (itemOn 0) noError) = true ∧
    (∃ w, (atWork (loadCanvas 1)).loadEnd (loadCanvas 1) (itemOn 0) 0 (load0 (itemOn 0) noError) = .folds [⟨3, 0⟩] [w]) ∧
    ((loadCanvas 1).opOf 0).form = 0 ∧ quantGroup ((loadCanvas 1).opOf 0).quant = 0 := by
  refine ⟨by decide +kernel, ?_, by decide, by decide⟩
  obtain ⟨p, h⟩ := blockIn_atWork (loadCanvas 1) 0 (by rw [← feedAddrs_one]; rfl)
  refine ⟨{ tag := 0, kind := 3, fmt := 0, op := 0, form := 0, payload := p }, ?_⟩
  have hp : (atWork (loadCanvas 1)).planOf (loadCanvas 1) (itemOn 0) 0 (load0 (itemOn 0) noError) = [⟨3, 0⟩] := by decide +kernel
  have hb : (atWork (loadCanvas 1)).blocksAt (loadCanvas 1) (itemOn 0) [⟨3, 0⟩] =
      [some { tag := 0, kind := 3, fmt := 0, op := 0, form := 0, payload := p }] := congrArg (fun b => [b]) h
  have hn : (load0 (itemOn 0) noError).tiles.any (fun x => (atWork (loadCanvas 1)).needsPoisoned (loadCanvas 1) (itemOn 0)
      ((loadCanvas 1).itemBand (itemOn 0)) ((loadCanvas 1).tileRow ((loadCanvas 1).opOf 0) x).2
      (((loadCanvas 1).tileRow ((loadCanvas 1).opOf 0) x).2 + 1)) = false := by decide +kernel
  have hi : (load0 (itemOn 0) noError).tiles.any (fun x => (atWork (loadCanvas 1)).inputsPoisoned (loadCanvas 1) (itemOn 0)
      ((loadCanvas 1).tileRow ((loadCanvas 1).opOf 0) x).2
      (((loadCanvas 1).tileRow ((loadCanvas 1).opOf 0) x).2 + 1)) = false := by decide +kernel
  have hq : ∀ prog seq size pos, (atWork (loadCanvas 1)).blockPoisoned (loadCanvas 1) 0 prog seq size pos = false := fun prog seq size pos => by
    rw [State.blockPoisoned, show ((atWork (loadCanvas 1)).die 0).bigTopPoison = [] from rfl]
    cases (loadCanvas 1).blockPlace 0 prog seq size pos <;> simp
  have hf : firstSkew ((loadCanvas 1).opOf 0) [⟨3, 0⟩]
      [some { tag := 0, kind := 3, fmt := 0, op := 0, form := 0, payload := p }] = none := rfl
  unfold State.loadEnd
  rw [show (itemOn 0).id.op = 0 from rfl, show (itemOn 0).id.die = 0 from rfl]
  simp only [hp, hb, hq, hn, hi, hf]
  rfl

theorem wit_weight_loads :
    (atWork (loadCanvas 0)).present 0 = true ∧ (atWork (loadCanvas 0)).canvas cv0 = some (loadCanvas 0) ∧
    (loadCanvas 0).item (itemOn 0).id = some (itemOn 0) ∧ 0 < (bHeader (loadCanvas 0).image).nops ∧
    (bound (loadCanvas 0) armed).loadOk (loadCanvas 0) (itemOn 0) 0 (load0 (itemOn 0) noError) = false ∧
    (flowing (flow (some cv0) 0) (atWork (loadCanvas 0))).loadOk (loadCanvas 0) (itemOn 0) 0 (load0 (itemOn 0) noError) = true ∧
    (flowing (flow (some cv0) 0) (atWork (loadCanvas 0))).loadEnd (loadCanvas 0) (itemOn 0) 0 (load0 (itemOn 0) noError) = .waits ∧
    (context 1 0 true (atWork chainCanvas)).loadOk chainCanvas chainItem 0 (load0 chainItem noError) = true ∧
    (context 1 0 true (atWork chainCanvas)).loadEnd chainCanvas chainItem 0 (load0 chainItem noError) = .poisoned ∧
    (context 1 0 false (atWork chainCanvas)).loadOk chainCanvas chainItem 0 (load0 chainItem noError) = false ∧
    (atWork (loadCanvas 0)).loadOk (loadCanvas 0) (itemOn 0) 0 (load0 (itemOn 0) doubleBit) = true ∧
    (atWork (loadCanvas 0)).loadEnd (loadCanvas 0) (itemOn 0) 0 (load0 (itemOn 0) doubleBit) = .aborted ∧
    (atWork (loadCanvas 0)).loadEnd (loadCanvas 0) (itemOn 0) 0 (load0 (itemOn 0) noError) = .skewed ⟨⟨3, 0⟩, 0, false, true⟩ := by
  refine ⟨by decide, rfl, by decide, by decide, ?_, ?_, ?_, ?_, ?_, ?_, ?_, ?_, ?_⟩ <;> decide +kernel

/-- The loads of both engines of that op, each of its own M-tile. -/
def wideLoad (e : EngIx) : TileLoad := ⟨(itemOn e).id, 0, 0, [⟨0, e.val, 0⟩], noError⟩

theorem wit_weight_loads_of_both_engines :
    (atWork wideCanvas).judgeLoad (wideLoad 0) = some (.skewed ⟨⟨3, 0⟩, 0, false, true⟩) ∧
    (atWork wideCanvas).judgeLoad (wideLoad 1) = some (.skewed ⟨⟨3, 0⟩, 0, false, true⟩) := by decide +kernel

/-- The item of the one tile, with the steps of its loop nest that it has done and the tiles that it has converted. -/
def itemAt (pos : Nat) (tiles : List TileId) : Item := { itemOn 0 with pos := pos, tiles := tiles }
def foldCanvas (pos : Nat) (tiles : List TileId) (runs : Nat) : Canvas := working (convImage 0 1 16 1) [itemAt pos tiles] [feed0 runs]

/-- Engine e of die 0 holds the tile of its item, folded up to a K-block, with an entry. -/
def tiled (e : EngIx) (next : Nat) (v : Word) (s : State) : State :=
  die0 (fun x => { x with engines := x.engines.set e.val { Engine.reset with
    slots := [(0, { it := (itemOn e).id, tile := tile0, next := next, entries := [v] })] } e.isLt }) s

/-- What that engine holds. -/
def slot0 (next : Nat) : Slot := ⟨(itemOn 0).id, tile0, next, [7]⟩

theorem wit_tiles_convert : (tiled 0 1 7 (atWork (foldCanvas 1 [] 0))).present 0 = true ∧
    (tiled 0 1 7 (atWork (foldCanvas 1 [] 0))).canvas cv0 = some (foldCanvas 1 [] 0) ∧
    (foldCanvas 1 [] 0).item (itemOn 0).id = some (itemAt 1 []) ∧ (itemAt 1 []).live = true ∧ (foldCanvas 1 [] 0).pause = .running ∧
    (((tiled 0 1 7 (atWork (foldCanvas 1 [] 0))).die 0).engines[0]).partial_ (itemOn 0).id tile0 = some (slot0 1) ∧
    (((tiled 0 0 7 (atWork (foldCanvas 0 [] 0))).die 0).engines[0]).partial_ (itemOn 0).id tile0 = some (slot0 0) ∧
    (((atWork (foldCanvas 1 [] 0)).die 0).engines[0]).partial_ (itemOn 0).id tile0 = none ∧
    (tiled 0 1 7 (atWork (foldCanvas 1 [] 0))).tileFinished (foldCanvas 1 [] 0) (itemAt 1 []) (slot0 1) = true ∧
    (tiled 0 0 7 (atWork (foldCanvas 0 [] 0))).tileFinished (foldCanvas 0 [] 0) (itemAt 0 []) (slot0 0) = false ∧
    (tiled 0 1 7 (atWork (foldCanvas 1 [] 0))).allFolded (foldCanvas 1 [] 0) 0 0 0 = true ∧
    (tiled 0 1 7 (atWork (foldCanvas 1 [] 0))).longStream (foldCanvas 1 [] 0) ((foldCanvas 1 [] 0).opOf 0) 0 0 = none ∧
    (atWork (foldCanvas 1 [] 2)).allFolded (foldCanvas 1 [] 2) 0 0 0 = true := by
  refine ⟨by decide, rfl, by decide, rfl, rfl, ?_, ?_, ?_, ?_, ?_, ?_, ?_, ?_⟩ <;> decide +kernel

/-- A stream that has delivered a second block is too long for the op. -/
theorem wit_tiles_convert_long : ∃ k, (atWork (foldCanvas 1 [] 2)).longStream (foldCanvas 1 [] 2) ((foldCanvas 1 [] 2).opOf 0) 0 0 = some k := by
  have hp : (foldCanvas 1 [] 2).blockPlace 0 0 0 65536 1 = some (feedAddrs [(0, 65600), (0, 65600)] 65600 65600) := rfl
  rw [feedAddrs_next, feedAddrs_one] at hp
  obtain ⟨p, h⟩ := blockIn_atWork (foldCanvas 1 [] 2) 1 hp
  refine ⟨⟨⟨3, 1⟩, 0, false, true⟩, ?_⟩
  have hs : ((foldCanvas 1 [] 2).opOf 0).streams ((foldCanvas 1 [] 2).shape ((foldCanvas 1 [] 2).opOf 0)).nt
      ((foldCanvas 1 [] 2).shape ((foldCanvas 1 [] 2).opOf 0)).nb = [(0, 3, 1), (0xFFFF, 5, 0), (0xFFFF, 6, 0), (0xFFFF, 7, 0)] := by decide +kernel
  have hz : payloadBytes 3 ((foldCanvas 1 [] 2).opOf 0).form ((foldCanvas 1 [] 2).opOf 0).quant = 65536 := by decide +kernel
  unfold State.longStream
  simp only [hs, List.findSome?_cons, hz, h]
  rfl

theorem wit_items_retire : (foldCanvas 1 [tile0] 0).mayEnd (itemAt 1 [tile0]) = true ∧ (itemAt 1 [tile0]).live = true ∧
    (((atWork (foldCanvas 1 [tile0] 0)).die 0).inflight).contains (itemOn 0).id = true ∧
    (((atWork (foldCanvas 1 [tile0] 0)).schedule (foldCanvas 1 [tile0] 0) (itemAt 1 [tile0])).map List.length).sum ≤ 1 ∧
    (foldCanvas 1 [tile0] 0).prefixRows ((foldCanvas 1 [tile0] 0).opOf 0) ((foldCanvas 1 [tile0] 0).itemBand (itemAt 1 [tile0])) 2 0 [tile0] = 1 ∧
    ¬ (((atWork (foldCanvas 0 [] 0)).schedule (foldCanvas 0 [] 0) (itemAt 0 [])).map List.length).sum ≤ 0 ∧
    ({ foldCanvas 0 [] 0 with pause := .resuming none } : Canvas).mayEnd (itemAt 0 []) = false := by
  decide +kernel

/-- An INPUT item, whose source shows no frame, and an OUTPUT item that reads what it writes. -/
def inputItem : Item := Item.fresh ⟨cv0, 0, .jgl, 0, 0⟩ 0 0
def outputItem : Item := Item.fresh ⟨cv0, 0, .jgl, 1, 0⟩ 0 0
def inputCanvas : Canvas := { live0 with items := [inputItem] }
def outputCanvas : Canvas := { live0 with items := [outputItem] }

/-- An item of a depthwise CONV op, which the Juggler runs. -/
def depthwise (runs : Nat) : Canvas := working (convImage 0 1 2 2) [inputItem] [feed0 runs]

/-- Bytes 0 to 63 of Big Top of die 0 are poisoned. -/
def poisonedWord (s : State) : State := die0 (fun x => { x with bigTopPoison := [0] }) s

theorem wit_items_of_other_units_retire : (atWork inputCanvas).canvas cv0 = some inputCanvas ∧
    inputCanvas.item inputItem.id = some inputItem ∧ inputItem.live = true ∧ inputCanvas.mayEnd inputItem = true ∧
    ((atWork inputCanvas).die 0).inflight.contains inputItem.id = true ∧ (∀ e : EngIx, inputItem.id.unit ≠ .me e) ∧
    (atWork inputCanvas).inputsReady inputCanvas inputItem (inputCanvas.itemBand inputItem) (inputCanvas.itemBand inputItem).y0
      (inputCanvas.itemBand inputItem).y1 = true ∧ (atWork inputCanvas).served inputCanvas inputItem = true ∧
    (atWork inputCanvas).needsPoisoned inputCanvas inputItem (inputCanvas.itemBand inputItem) (inputCanvas.itemBand inputItem).y0
      (inputCanvas.itemBand inputItem).y1 = false ∧
    (atWork inputCanvas).inputsPoisoned inputCanvas inputItem (inputCanvas.itemBand inputItem).y0 (inputCanvas.itemBand inputItem).y1 = false ∧
    (atWork inputCanvas).sideEnd inputCanvas inputItem = .folds [] [] ∧ (inputCanvas.opOf 0).out1 = 0xFFFF ∧
    (context 1 0 false (atWork outputCanvas)).inputsReady outputCanvas outputItem (outputCanvas.itemBand outputItem) 0 1 = false ∧
    (context 1 0 true (atWork outputCanvas)).inputsReady outputCanvas outputItem (outputCanvas.itemBand outputItem)
      (outputCanvas.itemBand outputItem).y0 (outputCanvas.itemBand outputItem).y1 = true ∧
    (context 1 0 true (atWork outputCanvas)).needsPoisoned outputCanvas outputItem (outputCanvas.itemBand outputItem)
      (outputCanvas.itemBand outputItem).y0 (outputCanvas.itemBand outputItem).y1 = true ∧
    (bound inputCanvas armed).served inputCanvas inputItem = false := by
  refine ⟨rfl, rfl, ?_, ?_, ?_, ?_, ?_, ?_, ?_, ?_, ?_, ?_, ?_, ?_, ?_, ?_⟩ <;> decide +kernel

theorem wit_items_of_the_juggler_with_streams : (flowing (flow (some cv0) 0) (atWork (depthwise 0))).sideEnd (depthwise 0) inputItem = .waits ∧
    (poisonedWord (atWork (depthwise 1))).streamLive (depthwise 1) 0 0 0 = false ∧
    (atWork (depthwise 0)).sideEnd (depthwise 0) inputItem = .skewed ⟨⟨3, 0⟩, 0, false, true⟩ := by decide +kernel

theorem wit_items_of_the_juggler_with_poison : (poisonedWord (atWork (depthwise 1))).blockPoisoned (depthwise 1) 0 0 0 65536 0 = true := by
  have hp : (depthwise 1).blockPlace 0 0 0 65536 0 = some ((List.range 65600).map fun i => i) := by rw [← feedAddrs_one]; rfl
  rw [State.blockPoisoned, hp, Option.any_some, List.any_map, List.any_eq_true]
  exact ⟨0, List.mem_range.mpr (by norm_num), by decide⟩

/-- The same with a share of the pool of die 0, and a poisoned word where tensor 0 begins. -/
def pooledCanvas : Canvas := { depthwise 0 with pool := [(0, 0, 65536)] }
def poisonedInput : State := die0 (fun x => { x with bigTopPoison := [Config.bufferWord 1 0 0] }) (atWork pooledCanvas)

/-- The first byte of a buffer holds the first byte of its first element. -/
theorem place_at_base (t b n r l c p z : Nat) (hn : 0 < n) (hr : 0 < r) (hl : 0 < l) (hc : 0 < c * p * z) :
    ({ tensor := t, base := b, nb := n, rows := r, lp := l, cols := c, cp := p, z := z } : Buffer).place b = some (0, 0, 0, 0, 0) := by
  have h : 0 < n * r * l := Nat.mul_pos (Nat.mul_pos hn hr) hl
  have hb : ¬ b + n * r * l ≤ b := by omega
  have hc' : ¬ c * p * z = 0 := by omega
  simp [Buffer.place, hb, hc', -mul_eq_zero]

/-- A poisoned word where the buffer of tensor 0 begins, wherever the model puts it, ends an item that reads the tensor. -/
theorem wit_items_that_read_poison : poisonedInput.inputsPoisoned pooledCanvas inputItem 0 1 = true := by
  have hb : pooledCanvas.buffer 0 0 =
      some { tensor := 0, base := 64 * Config.bufferWord 1 0 0 + 0, nb := 1, rows := 1, lp := 64, cols := 1, cp := 16, z := 1 } := by
    rw [show 64 * Config.bufferWord 1 0 0 + 0 = 0 + 64 * Config.bufferWord 1 0 0 by omega]; rfl
  have he : pooledCanvas.elemAt 0 0 (64 * Config.bufferWord 1 0 0 + 0) = some (0, 0, pooledCanvas.ringRow 0 0
      { tensor := 0, base := 64 * Config.bufferWord 1 0 0 + 0, nb := 1, rows := 1, lp := 64, cols := 1, cp := 16, z := 1 } 0,
      (pooledCanvas.region 0).elim 0 (fun q => pooledCanvas.base 0 q.x0) + 0, 0, 0) := by
    have hn : (bHeader pooledCanvas.image).ntens = 2 := by decide
    rw [Canvas.elemAt, hn, show List.range 2 = 0 :: [1] from rfl, List.findSome?_cons, hb, Option.bind_some, place_at_base _ _ _ _ _ _ _ _
      (by decide) (by decide) (by decide) (by decide)]
    rfl
  have hr : pooledCanvas.rowsPoisoned 0 0 [Config.bufferWord 1 0 0] 0 0 1 = true := by
    rw [Canvas.rowsPoisoned, List.any_cons, show List.range 64 = 0 :: (List.range 63).map (· + 1) from rfl, List.any_cons, he, Option.any_some]
    decide +kernel
  have hz : (pooledCanvas.opOf 0).ins.zipIdx = (0, 0) :: [(0xFFFF, 1), (0xFFFF, 2), (0xFFFF, 3)] := by decide +kernel
  have h0 : (pooledCanvas.readSpan (pooledCanvas.opOf 0) false 0 0 1).1 = 0 := by decide +kernel
  have h1 : pooledCanvas.rowsAwaited (pooledCanvas.opOf 0) 0 0 (pooledCanvas.stepOf 0) 0 1 = 1 := by decide +kernel
  rw [State.inputsPoisoned, show inputItem.id.op = 0 from rfl, show inputItem.id.die = 0 from rfl, show inputItem.stripe = 0 from rfl,
    show inputItem.frame = 0 from rfl, show (poisonedInput.die 0).bigTopPoison = [Config.bufferWord 1 0 0] from rfl]
  simp only [hz, List.any_cons, h0, h1, hr]
  rfl

/-- A CONV op of frame scope over 256 input channels on two engines, each with its partial tile whole. -/
def splitCanvas : Canvas := working (convImage 1 1 256 1) [itemOn 0, itemOn 1] []
def split : State := tiled 1 2 5 (tiled 0 1 7 (bound splitCanvas armed))

theorem wit_split_k_combines : split.canvas cv0 = some splitCanvas ∧ splitCanvas.item (itemOn 0).id = some (itemOn 0) ∧
    (splitCanvas.opOf 0).frameScope = true ∧ (split.participant splitCanvas (splitCanvas.opOf 0) (itemOn 0).id).1 = 0 ∧
    participants (opNb splitCanvas.image (splitCanvas.opOf 0)) split.engines split.nDies = 2 ∧
    (combineNodes 8 0 2)[0]? = some (0, 0) ∧ (itemOn 0).nodes.contains 0 = false ∧
    ({ itemOn 0 with nodes := [0] } : Item).nodes.contains 0 = true ∧
    (split.participant splitCanvas (splitCanvas.opOf 0) (itemOn 1).id).1 = 1 ∧ split.atBarrier (itemOn 0) = false ∧
    split.atBarrier (itemOn 1) = false ∧
    (((splitCanvas.wholeBand 1).rows).map fun y => (splitCanvas.rowTiles (splitCanvas.opOf 0) (splitCanvas.wholeBand 1) 2 0 y).length).sum = 1 ∧
    (split.partials (itemOn 0).id).map Slot.next = [(kRange 0 2 2).2] ∧ (split.partials (itemOn 1).id).map Slot.next = [(kRange 1 2 2).2] := by
  refine ⟨rfl, rfl, ?_, ?_, ?_, ?_, ?_, ?_, ?_, ?_, ?_, ?_, ?_, ?_⟩ <;> decide +kernel

/-! ### Carousel streams -/

/-- The stream issues an instruction, in the state that runs it. -/
def issues (x : Stream) (s : State) (i : CInstr) : Prop := (flowing x s).issue st0 = some (flowing x s, x, i)

/-- LOOP of two passes stands open at ENDL, its index at some value. -/
def looping (idx : Nat) : Stream :=
  { flow none 0x6000_0000_0000_0000 with loops := [(0, 0, 2)], idx := (Vector.replicate 4 0).set 0 idx }

theorem wit_carousel_address_instructions : up.issue st0 = none ∧ (12 : Nat) ≤ st0.crs.val ∧
    issues (flow none 0) up .nop ∧ issues (flow none 0x1080_0000_0000_0040) up (.setb 0 1 0 64) ∧
    issues (flow (some cv0) 0x1080_0000_0000_0040) (bound live0 up) (.setb 0 1 0 64) ∧ (bound live0 up).canvas cv0 = some live0 ∧
    issues (flow none 0x2000_00FF_FFFF_FFC0) up (.sets 0 0 (-64)) ∧ issues (flow none 0x3000_0000_0000_0100) up (.setm 0 256) ∧
    issues (flow none 0x4000_0000_0000_0005) up (.setc 0 0 5) ∧ issues (flow none 0x4400_0000_0000_0005) up (.setc 0 4 5) ∧
    issues (flow none 0x5C00_0000_0000_0002) up (.loop 3 3) ∧ issues (looping 0) up (.endl 0) ∧ issues (looping 1) up (.endl 0) ∧
    (looping 0).idx[0] + 1 < 2 ∧ 2 ≤ (looping 1).idx[0] + 1 :=
  ⟨rfl, by decide, rfl, rfl, rfl, rfl, rfl, rfl, rfl, rfl, rfl, rfl, rfl, by decide, by decide⟩

/-- MOVE of 64 bytes from generator 0 to generator 1, both in DRAM, the second at some address, as it is or by a codec; and a transfer
under way. -/
def moving (word : Dword) (base : Nat) : Stream :=
  let g (b : Nat) : AddrGen := { AddrGen.zero with space := 1, base := BitVec.ofNat 64 b }
  { flow none word with gens := ((Vector.replicate 4 AddrGen.zero).set 0 (g 0)).set 1 (g base) }
def transferring (space : Fin 8) : Stream :=
  { flow none 0 with moves := [{ space := space, die := 0, writes := [(5, 9)], source := none, feeds := false, uncoded := 64, coded := 64 }] }

/-- Byte 0 of the DRAM of die 0 lies in a poisoned unit. -/
def poisonedUnit (s : State) : State := die0 (fun x => { x with dramPoison := [0] }) s

/-- Of a MOVE from generator 0 to generator 1: whether its accesses lie in windows, whether it reads poison, whether a page fails. -/
def moveFacts (u : State) (x : Stream) (codec rate efmt istr len : Nat) : Bool × Bool × Bool :=
  let a := x.gens[0]
  let b := x.gens[1]
  let offs := u.moveOffsets x st0 a [] codec rate efmt len
  let reads := offs.map (a.byteAddr x.idx)
  let coded := (offs.zip reads).map fun e => (e.1, u.sideByte x st0 a [] e.1 e.2)
  let bytes := if codec = 2 then sliceOf coded (moveReads codec rate efmt len) else coded.map Prod.snd
  let r := moveResult codec rate efmt istr len bytes
  (u.sideOk x false a reads && u.sideOk x true b ((r.1.map fun e => (b.byteAddr x.idx e.1, e.2)).map Prod.fst), u.sidePoisoned x st0 a reads, r.2.2)

theorem wit_carousel_moves :
    issues (moving 0x7100_0000_0000_0000 64) up (.move 0 1 0 0 0 1 0) ∧
    moveFacts (flowing (moving 0x7100_0000_0000_0000 64) up) (moving 0x7100_0000_0000_0000 64) 0 0 0 1 0 = (true, false, false) ∧
    moveFacts (flowing (moving 0x7100_0000_0000_0000 4096) up) (moving 0x7100_0000_0000_0000 4096) 0 0 0 1 0 = (false, false, false) ∧
    issues (moving 0x7100_0000_0000_0000 64) (poisonedUnit up) (.move 0 1 0 0 0 1 0) ∧
    moveFacts (poisonedUnit (flowing (moving 0x7100_0000_0000_0000 64) up)) (moving 0x7100_0000_0000_0000 64) 0 0 0 1 0 = (true, true, false) ∧
    issues (moving 0x7140_0000_0000_0000 0) up (.move 0 1 2 0 0 1 0) ∧
    moveFacts (flowing (moving 0x7140_0000_0000_0000 0) up) (moving 0x7140_0000_0000_0000 0) 2 0 0 1 0 = (true, false, true) ∧
    (moving 0x7100_0000_0000_0000 64).moves = [] ∧ ((moving 0x7100_0000_0000_0000 64).gens[0]).space = 1 ∧
    ((moving 0x7100_0000_0000_0000 64).gens[0]).image = false ∧ (∀ k ∈ up.canvases, k.runs = []) ∧ (up.die 0).stream st0 = none ∧
    ((flowing (flow none 0) up).die 0).stream st0 = some (flow none 0) ∧ (flow none 0).moves = [] ∧
    ((flowing (transferring 1) up).die 0).stream st0 = some (transferring 1) ∧ (transferring 1).fencing = none ∧
    ((flowing (transferring 0) up).die 0).stream st0 = some (transferring 0) ∧
    ((flowing (transferring 3) up).die 0).stream st0 = some (transferring 3) := by
  refine ⟨rfl, ?_, ?_, rfl, ?_, rfl, ?_, rfl, rfl, rfl, by decide, rfl, rfl, rfl, rfl, rfl, rfl, rfl⟩ <;> decide +kernel

/-- A program of the canvas waits for a count of Turnstile 9 at some value. -/
def waiting0 (need : Nat) (sub : Bool) : Stream :=
  { flow (some cv0) (if sub then 0x8800_9000_0000_0000 else 0x8000_9000_0000_0000) with
    counts := (Vector.replicate 2 CountGen.zero).set 0 { CountGen.zero with base := BitVec.ofNat 64 need } }

/-- The part with the canvas and its context. -/
def programmed : State := context 9 5 false (bound live0 up)

/-- A stream with a transfer under way, at an instruction. -/
def busyStream (word : Dword) : Stream := { transferring 1 with canvas := some cv0, program := [word] }

theorem wit_carousel_waits_signals_and_ends :
    issues (waiting0 5 false) programmed (.wait false 0 9) ∧ issues (waiting0 6 true) programmed (.wait true 0 9) ∧
    programmed.canvas cv0 = some live0 ∧ live0.ctx < 256 ∧ (programmed.die 0).tsl.translate 1 9 0 = some 1024 ∧
    (programmed.die 0).tsl.obj 1024 = some (TslObj.fresh 1 (some 9) none 5) ∧ (programmed.die 0).tsl.frozen = false ∧
    programmed.barriers = [] ∧ ((waiting0 5 false).counts[0]).value (waiting0 5 false).idx = 5 ∧
    ((waiting0 6 true).counts[0]).value (waiting0 6 true).idx = 6 ∧
    ((context 9 5 true (bound live0 up)).die 0).tsl.obj 1024 = some { TslObj.fresh 1 (some 9) none 5 with poison := true } ∧
    issues (waiting0 5 false) (context 9 5 true (bound live0 up)) (.wait false 0 9) ∧
    issues (waiting0 5 false) (context 8 5 false (bound live0 up)) (.wait false 0 9) ∧
    ((context 8 5 false (bound live0 up)).die 0).tsl.translate 1 9 0 = none ∧
    issues (flow (some cv0) 0x9900_9000_0000_0003) programmed (.sig true 1 9 3) ∧ (flow (some cv0) 0x9900_9000_0000_0003).moves = [] ∧
    issues (flow (some cv0) 0x9000_9000_0000_0003) programmed (.sig false 0 9 3) ∧
    issues (busyStream 0x9000_9000_0000_0003) programmed (.sig false 0 9 3) ∧
    issues (busyStream 0xC000_0000_0000_0000) programmed .endp ∧ issues (flow (some cv0) 0xC000_0000_0000_0000) programmed .endp ∧
    live0.runs = [] ∧ (∀ o ∈ bOps live0.image, o.progs.contains 0 = false) :=
  ⟨rfl, rfl, rfl, by decide, by decide, by decide, by decide, rfl, by decide, by decide, by decide, rfl, rfl, by decide, rfl, rfl, rfl, rfl, rfl, rfl,
    rfl, by decide⟩

theorem wit_a_stream_ends_short :
    issues (flow (some cv0) 0xC000_0000_0000_0000) (bound (loadCanvas 0) armed) .endp ∧
    ((bOps (loadCanvas 0).image).filter fun o => o.progs.contains 0) = [(loadCanvas 0).opOf 0] ∧
    (loadCanvas 0).shortStream 0 (flow (some cv0) 0xC000_0000_0000_0000) ((loadCanvas 0).opOf 0) = some ⟨⟨3, 0⟩, 0, false, true⟩ ∧
    ((loadCanvas 0).items.find? fun j => j.id.op == 0 && j.id.die == 0 && j.id.stepSeq == 0 && j.live) = some (itemOn 0) :=
  ⟨rfl, by decide +kernel, by decide +kernel, by decide +kernel⟩

/-- A pool of the canvas on die 0 of 4 units, of which the stream of program 0 holds some, with some requests of it that wait. -/
def pool0 (held : Nat) (w : List CreditReq) : Pool :=
  { canvas := some cv0, index := 3, unitBytes := 64, capacity := 4, members := [{ prog := 0, stream := some st0, floor := 0, held := held }]
    waiting := w, stalled := false }
def pooled (held : Nat) (w : List CreditReq) (s : State) : State := die0 (fun x => { x with pools := [(7, pool0 held w)] }) s

/-- The canvas of the op that returns units to pool 0, at work; and the pool of that number. -/
def returning : Canvas := { live0 with image := live0.image.take 128 ++ bytesOf 128 [(0, 2, 0x40), (52, 2, 1)] ++ live0.image.drop 256, items := [inputItem] }
def pool1 : Pool := { pool0 4 [⟨st0, 0, 1⟩] with index := 0 }
def starved (c : Canvas) : State := die0 (fun x => { x with pools := [(7, pool1)] }) (bound c up)

theorem wit_credits : ((pooled 1 [] (bound live0 up)).die 0).bundlePool cv0 3 = some (7, pool0 1 []) ∧
    ((pooled 1 [] (bound live0 up)).die 0).pool 7 = some (pool0 1 []) ∧
    issues (flow (some cv0) 0xA00C_0000_0000_0003) (pooled 1 [] (bound live0 up)) (.cred 3 3) ∧
    (pool0 1 []).members.find? (fun k => k.prog == 0) = some ⟨0, some st0, 0, 1⟩ ∧
    max (1 + 3) 0 - max 1 0 ≤ 4 - (((pool0 1 []).members.map fun k => max k.held k.floor).sum) ∧
    ¬ max (2 + 3) 0 - max 2 0 ≤ 4 - (((pool0 2 []).members.map fun k => max k.held k.floor).sum) ∧
    issues (flow (some cv0) 0xB00C_0000_0000_0001) (pooled 1 [] (bound live0 up)) (.ret 3 1) ∧
    issues (flow (some cv0) 0xB00C_0000_0000_0001) (pooled 0 [] (bound live0 up)) (.ret 3 1) ∧
    ((pool0 1 []).giveBack (some 0) 1).isSome = true ∧ ((pool0 1 []).members.map Member.held).sum = 1 ∧
    issues (flow (some cv0) 0xA00C_0000_0000_0003) (bound live0 up) (.cred 3 3) ∧
    issues (flow (some cv0) 0xB00C_0000_0000_0001) (bound live0 up) (.ret 3 1) ∧ ((bound live0 up).die 0).bundlePool cv0 3 = none ∧
    ((starved returning).die 0).pool 7 = some pool1 ∧ (starved returning).poolConsumed 0 pool1 = true ∧ pool1.waiting = [⟨st0, 0, 1⟩] ∧
    (starved live0).poolConsumed 0 pool1 = false ∧ returning.runs = [] :=
  ⟨rfl, rfl, rfl, by decide, by decide, by decide, rfl, rfl, by decide, by decide, rfl, rfl, by decide, rfl, by decide, rfl, by decide, rfl⟩

/-! ### Pauses, releases, the recorder, Replay -/

/-- The canvas saves its context. -/
def saving0 : Canvas := { live0 with pause := .saving (0, 0) 0x10000 [], items := [inputItem] }

theorem wit_context_save : (bound saving0 up).canvas cv0 = some saving0 ∧ saving0.pause = .saving (0, 0) 0x10000 [] ∧
    (bound saving0 up).atSavePoint saving0 [] = true ∧ (∀ i ∈ saving0.items, i.id.canvas = saving0.id) ∧
    ({ saving0 with pause := .saving (0, 0) 0x10000 [inputItem.id] } : Canvas).pause = .saving (0, 0) 0x10000 [inputItem.id] ∧
    (bound saving0 up).atSavePoint saving0 [inputItem.id] = false ∧ saving0.dies.Nodup ∧ (bound live0 up).canvas ⟨0, 2⟩ = none :=
  ⟨rfl, rfl, by decide, by decide, rfl, by decide, by decide, rfl⟩

/-- Step 9 of stripe 1 of frame 0 is held on die 0, an item of step 1 at work there or not. -/
def deferring (items : List Item) : Canvas :=
  { live0 with
    deferred := [(0, 9)], released := [(9, 0), (1, 0)], items := items
    parts := [{ part0 with stepSeq := 9, released := false, complete := false }] }
def earlyItem : Item := Item.fresh ⟨cv0, 0, .jgl, 0, 1⟩ 0 0

theorem wit_releases_of_steps : (bound (deferring []) up).canvas cv0 = some (deferring []) ∧
    ((deferring []).deferred.find? fun e => e.1 == 0) = some (0, 9) ∧ (deferring []).pause = .running ∧
    (bound (deferring []) up).stepFree (deferring []) 0 9 = true ∧
    (bound (deferring [earlyItem]) up).stepFree (deferring [earlyItem]) 0 9 = false ∧
    ((deferring []).released.find? fun e => e.1 == 9) = some (9, 0) ∧ ((deferring []).parts.find? fun p => p.stepSeq == 9).isSome = true ∧
    (live0.deferred.find? fun e => e.1 == 0) = none :=
  ⟨rfl, by decide, rfl, by decide, by decide, by decide, by decide, by decide⟩

/-- The frame-scope op of a canvas whose stripes of frame 0 have all been released; and that of one of which none has. -/
def frameIdle : Canvas := canvasOf 0 (convImage 1 1 256 1)
def frameWide : Canvas :=
  { frameIdle with parts := (List.range frameIdle.binding.stripes).map fun k => { part0 with id := ⟨0, 0, k, 0⟩ } }

theorem wit_releases_of_ops : 0 < (bHeader frameWide.image).nops ∧ (frameWide.opOf 0).frameScope = true ∧
    (armed.die (dieOf frameWide.binding.head0)).head.opForced = false ∧ frameWide.scopeFrame (frameWide.opOf 0) = some 0 ∧
    frameWide.pause = .running ∧ onMatrix frameWide.image (frameWide.opOf 0) = true ∧
    (∀ e ∈ frameWide.partics (frameWide.opOf 0) 2 8, (bound frameWide armed).neuralOn e.2.1 = true) ∧ (bound frameWide armed).engines = 2 ∧
    (∃ e ∈ frameWide.partics (frameWide.opOf 0) 2 8, (bound frameWide up).neuralOn e.2.1 = false) ∧
    ((bOps frameWide.image).filter fun r => r.ix != 0 && r.reads.any (frameWide.opOf 0).writes.contains) = [] ∧
    frameIdle.scopeFrame (frameIdle.opOf 0) = none := by decide +kernel

/-- The canvas on dies 0 and 1, whose first release is announced for a time, some dies having begun. -/
def announced (at_ : Nat) (l : List DieIx) : Canvas := { live0 with dies := [0, 1], firstAt := some at_, started := l, due := [(0, 0)] }

theorem wit_first_releases :
    (announced up.gsc []).firstAt = some up.gsc ∧ (0 : DieIx) ∉ (announced up.gsc []).started ∧
    (∃ e ∈ (announced up.gsc []).dies, e ≠ 0 ∧ e ∉ (announced up.gsc []).started) ∧ (announced 5 []).firstAt = some 5 ∧ 5 < up.gsc ∧
    (∀ e ∈ (announced up.gsc [1]).dies, e ≠ 0 → e ∈ (announced up.gsc [1]).started) ∧ (announced up.gsc [1]).replays = false ∧
    (5 : DieIx) ∉ (announced 5 []).dies :=
  ⟨rfl, by decide, by decide, rfl, by decide, by decide, by decide, by decide⟩

/-- Die 0 with a ring of 64 KiB and a value of DET_REC_CTRL. -/
def ringed (ctrl : Word) : State := die0 (fun x => (x.setReg Reg.detRecSize 1).setReg Reg.detRecCtrl ctrl) up

/-- Die 0 records and writes a checkpoint of every frame; every stripe of frame 0 has been released, and its work has ended. -/
def recording : State := die0 (fun x => (x.setReg Reg.detStatus 4).setReg Reg.detCkptCtrl 1) up
def checkpointed : Canvas := { live0 with parts := [{ part0 with id := ⟨0, 0, 7, 0⟩, stepSeq := 7 }], released := [(7, 0)] }

/-- Frame 0 of a recording, of given source counters, and a Replay canvas before it, or in it with a part. -/
def frame0 (counter : Word) : ReplayFrame :=
  { step := 6, counters := (counter, counter), phase := 0, flags := 0, choices := [], abandoned := [], reset := false, commits := [] }
def replaying (l : List ReplayFrame) : Canvas := { canvasOf 1 bundle with firstAt := none, frameStep := 5, replay := l }
def showing (p : PartSt) : Canvas := { replaying [frame0 0] with frameStep := 6, parts := [p] }

theorem wit_recorder :
    bit ((ringed 0).reg 0 Reg.detRecCtrl) 0 = false ∧
    ((ringed 0).die 0).mayRecord (writeWord (fieldsAt Reg.detRecCtrl) 0 0x0001_0001 0) = true ∧
    ((ringed 0).die 0).mayRecord (writeWord (fieldsAt Reg.detRecCtrl) 0 0x0000_0001 0) = false ∧
    bit ((ringed 0x0001_0001).reg 0 Reg.detRecCtrl) 0 = true ∧
    writeWord (fieldsAt Reg.detRecCtrl) 0x0001_0001 0x0001_0000 0 = 0x0001_0001 &&& ~~~ 1 ∧
    writeWord (fieldsAt Reg.detRecCtrl) 0x0001_0001 0x0002_0000 0 ≠ 0x0001_0001 &&& ~~~ 1 ∧
    (bound checkpointed recording).canvas cv0 = some checkpointed ∧ (0 : DieIx) ∈ checkpointed.dies ∧ (1 : DieIx) ∉ checkpointed.dies ∧
    (bound checkpointed recording).ckptFrame checkpointed 0 = some 0 ∧ (bound live0 recording).ckptFrame live0 0 = none ∧
    (∀ e ∈ checkpointed.dies, (bound checkpointed recording).present e = true) :=
  ⟨by decide, by decide, by decide, by decide, by decide, by decide, rfl, by decide, by decide, by decide, by decide, by decide⟩

theorem wit_replay : live0.replays = false ∧ (replaying []).replays = true ∧ (replaying []).pause = .running ∧ (replaying []).firstAt = none ∧
    (replaying []).replay = [] ∧ (replaying []).unbinding = false ∧ ({ replaying [] with unbinding := true } : Canvas).unbinding = true ∧
    (bound (replaying [frame0 0]) up).canvas cv0 = some (replaying [frame0 0]) ∧ (replaying [frame0 0]).replayBegun (frame0 0) = false ∧
    (bound (replaying [frame0 0]) up).fed (replaying [frame0 0]) (frame0 0) = true ∧
    (bound (replaying [frame0 1]) up).fed (replaying [frame0 1]) (frame0 1) = false ∧ (replaying [frame0 0]).items = [] ∧
    (showing part0).replayBegun (frame0 0) = true ∧
    (((bound (showing { part0 with choice := some .late }) up).replayLatch cv0).canvas cv0).any Canvas.allChosen = true ∧
    (((bound (showing { part0 with fallbackDone := false }) up).replayLatch cv0).canvas cv0).any Canvas.allChosen = false ∧
    (bound (showing { part0 with verdict := some true }) up).replayReady (showing { part0 with verdict := some true })
      { part0 with verdict := some true } = true := by
  refine ⟨by decide, by decide, rfl, rfl, rfl, rfl, rfl, rfl, ?_, ?_, ?_, rfl, ?_, ?_, ?_, ?_⟩ <;> decide +kernel

/-- Function 0 with the bundle admitted, and with the canvas bound. -/
def admitted : State := hosted.onHost fun h => h.onFn 0 fun x => { x with bundles := [{ handle := 1, image := bundle }] }
def hosting (c : Canvas) : State := bound c admitted

/-- The canvas as a pause left it. -/
def paused0 (v : Saved) : Canvas := { live0 with pause := .saved v }

/-- Its buffer: 64 KiB of die 0, allocated to function 0. -/
def allocated1 (c : Canvas) : State := die0 (fun x => { x with dramAlloc := [(0, 65536, 0)] }) (hosting c)

theorem wit_admission : hosted.Starts (hdr 0) (queue 0 .sq 1 0 1) ∧ hosted.bufferOk 0 0x1000 640 0 = true ∧
    lowestFree 1 4095 ((hosted.host.fn 0).bundles.map Admitted.handle) = some 1 ∧ bundle.length = (640 : Word).toNat ∧
    hosted.bufferOk 0 0x1000 1 0 = true ∧ ([0] : List Byte).length = (1 : Word).toNat := by
  unfold State.Starts; decide +kernel

theorem wit_admission_checks : hosted.admitFail bundle = none ∧ (hosted.admitFail [0]).isSome = true := by decide +kernel

theorem wit_binding : admitted.Starts (hdr 0) (queue 0 .sq 1 0 1) ∧ admitted.bufferOk 0 0x1000 160 0 = true ∧
    (block 0).length = (160 : Word).toNat ∧ admitted.canvas cv0 = none := by
  unfold State.Starts; decide +kernel

theorem wit_binding_checks : (admitted.bindCheck 0 (block 0)).toOption.map (fun p => p.canvas.id) = some cv0 ∧
    (admitted.bindCheck 0 (block 32)).toOption.isSome = false := by decide +kernel

theorem wit_canvas_descriptors : (hosting live0).Starts (hdr 0) (queue 0 .sq 1 0 1) ∧
    (hosting live0).canvas { func := 0, handle := (1 : BitVec 16).toNat } = some live0 ∧ live0.unbindQueue = none ∧
    (hosting live0).hasBoundary live0 = false ∧ (head0 (fun x => { x with running := true }) (hosting live0)).hasBoundary live0 = true ∧
    live0.pause = .running ∧ (allocated1 live0).saveFits live0 0 = true ∧
    (paused0 ⟨0, [], [], false⟩).pause = .saved ⟨0, [], [], false⟩ ∧
    ((allocated1 (paused0 ⟨0, [], [], false⟩)).restoreDies (paused0 ⟨0, [], [], false⟩) ⟨0, [], [], false⟩).isSome = true := by
  refine ⟨?_, rfl, rfl, by decide, by decide, rfl, by decide, rfl, by decide⟩
  unfold State.Starts; decide +kernel

theorem wit_frames : (hosting live0).Starts (hdr 4) (queue 4 .sq 2 0 1) ∧ live0.binding.sources[(0 : Byte).toNat]? =
      some ⟨0, 3, 0, 0, 0, 64, 64, 10, 0⟩ ∧ (hosting live0).present (dieOf 0) = true ∧
    (List.replicate 64 (List.replicate 192 (1 : Byte))).length = 64 ∧
    (∀ x ∈ [(0x1000 : Dword), 0, 0].zipIdx.take (pixPlanes 10),
      ((hosting live0).host.fn 0).inWindow x.1.toNat ((192 : Word).toNat * planeRows 10 x.2 64) = true) := by
  unfold State.Starts; decide +kernel

/-! ### Commits -/

/-- Head 0 asks for HDCP, which the part does not enable; and a commit is pending there. -/
def asksHdcp (s : State) : State := die0 (fun x => x.setReg Reg.scnCtrl 0x4000) s
def committing : State := head0 (fun h => { h with commit := { h.commit with pending := true } }) up

theorem wit_commits : (up.die 0).head.commit.pending = false ∧ (committing.die 0).head.commit.pending = true ∧
    up.commitStatus 0 = .ok ∧ (asksHdcp up).commitStatus 0 = .role ∧ (bound live0 up).headCanvas 0 = some live0 ∧
    dieOf live0.binding.head0 = 0 ∧ (∀ e ∈ live0.binding.heads, (bound live0 up).present e.1 = true ∧
      ((bound live0 up).die e.1).head.commit.pending = false) ∧
    (∀ e ∈ live0.binding.heads, (bound live0 up).commitStatus e.1 = .ok) ∧
    ((live0.binding.heads.map fun e => (bound live0 (asksHdcp up)).commitStatus e.1).find? fun st => st != .ok) = some .role ∧
    up.headCanvas 0 = none :=
  ⟨by decide, by decide, by decide +kernel, by decide +kernel, rfl, by decide, by decide, by decide +kernel, by decide +kernel, rfl⟩

/-! ### Further clauses: Gaide, queues, descriptors -/

/-- Messages under way from die 1 to die 0. -/
def carrying (m : GaideMsg) (s : State) : State := { s with gaide := [m] }
def message (ref : TslRef) (part : Option (CanvasId × Nat × PartId)) : GaideMsg :=
  { src := 1, dst := 0, ref := ref, req := asks (.add 1), part := part, links := [] }

/-- SQ 4 of function 0, at home on a die, waits for the fence of its SIGNAL. -/
def fenced (home : DieIx) : State :=
  mapped.onHost fun h => h.onQueue 0 4 fun q =>
    { q with home := home, cur := some { tag := 7, quiet := false, await := some (.fence 0 9 false 2), done := none } }

/-- The issuer that SQ is. -/
def sq4 : Issuer := { cls := 8, die := 0, inst := 0, queue := 4 }

/-- A stream of the canvas that fences a SIG on its own die or on die 1, with a transfer under way or not. -/
def fencing (remote : Bool) (moves : List Transfer) : Stream :=
  { flow (some cv0) 0x9000_9000_0000_0003 with fencing := some (remote, if remote then 1 else 0, 9, 3), moves := moves }

/-- The issuer that stream is. -/
def streamOf0 : Issuer := { cls := 5, die := 0, inst := 48, queue := 0 }

theorem wit_turnstiles_over_gaide_clauses :
    up.gaide.find? (fun k => k.src == 1 && k.dst == 0) = none ∧
    (carrying (message (.phys 5) (some (cv0, 0, part0.id))) (bound (withPart part0) up)).gaide.find? (fun k => k.src == 1 && k.dst == 0) =
      some (message (.phys 5) (some (cv0, 0, part0.id))) ∧
    (bound (withPart part0) up).canvas cv0 = some (withPart part0) ∧ part0 ∈ (withPart part0).parts ∧
    (carrying (message (.virt 9 4) none) up).gaide.find? (fun k => k.src == 1 && k.dst == 0) = some (message (.virt 9 4) none) ∧
    (up.die 0).tsl.translate 9 4 0 = none ∧
    (∀ e ∈ ((object 5).resolve [asks (.add 1)] up.gsc 4096).results, e.2 ≠ .refused) ∧
    up.barriers.find? (fun b => b.id == 1 && b.combining.contains 1) = none := by
  refine ⟨rfl, rfl, rfl, ?_, rfl, ?_, ?_, ?_⟩ <;> decide

theorem wit_fences : sq4.cls = 8 ∧ (Fin.ofNat 64 sq4.inst : FnIx) = 0 ∧
    ((fenced 0).host.queue 0 4).bind Queue.cur = some { tag := 7, quiet := false, await := some (.fence 0 9 false 2), done := none } ∧
    (fenced 0).fnTsl 0 0 9 = some (1, 1024) ∧ ((fenced 1).host.queue 0 4).map Queue.home = some 1 ∧
    ((fenced 0).host.queue 0 4).map Queue.home = some 0 ∧ ((fenced 0).die 0).tsl.translate 1 9 0 = some 1024 ∧
    ((fenced 0).die 0).tsl.obj 1024 = some (TslObj.fresh 1 (some 9) none 5) ∧ ((fenced 0).die 0).tsl.frozen = false ∧
    ((mapped.host.queue 0 4).bind Queue.cur) = none ∧ issuerStream streamOf0 = st0 ∧ streamOf0.cls = 5 ∧
    ((flowing (fencing true []) programmed).die 0).stream st0 = some (fencing true []) ∧
    ((flowing (fencing false []) programmed).die 0).stream st0 = some (fencing false []) ∧
    ((flowing (fencing false (transferring 1).moves) programmed).die 0).stream st0 = some (fencing false (transferring 1).moves) ∧
    (transferring 1).moves ≠ [] ∧ ((flowing (fencing false []) programmed).die 0).tsl.translate live0.ctx 9 0 = some 1024 ∧
    (fencing false []).state = .running := by
  refine ⟨?_, ?_, ?_, ?_, ?_, ?_, ?_, ?_, ?_, ?_, ?_, ?_, rfl, rfl, rfl, ?_, ?_, rfl⟩ <;> decide

/-- Function 0 as it is, but in a reset; and with its SQ 4 changed. -/
def resetting0 : State := hosted.onHost fun h => h.onFn 0 fun x => { x with ready := false }
def sqWith (f : Queue → Queue) : State := hosted.onHost fun h => h.onQueue 0 4 f

/-- Its SQ 4 is done with a descriptor whose CQ 2 is in ERROR. -/
def deaf : State := (running none (some (.plain .ok))).onHost fun h => h.onQueue 0 2 fun q => { q with state := .error }

/-- Its SQ 4 is done with a QUIET descriptor. -/
def quietDone : State :=
  sqWith fun q => { q with cur := some { tag := 7, quiet := true, await := none, done := some (.plain .ok) } }

theorem wit_doorbells_and_completions_clauses : (resetting0.host.fn 0).ready = false ∧
    ((sqWith fun q => { q with state := .error }).host.queue 0 4).map Queue.state = some .error ∧ (q0 4).map Queue.head ≠ (q0 4).map Queue.tail ∧
    (q0 2).map Queue.kind ≠ some .sq ∧ (q0 4).bind Queue.cur = none ∧ (deaf.host.queue 0 2).map Queue.accepts = some false ∧
    ((deaf.host.queue 0 4).bind Queue.cur).bind Current.done = some (.plain .ok) ∧
    ((quietDone.host.queue 0 4).bind Queue.cur).map Current.quiet = some true ∧ (q0 2).bind Queue.vector = none ∧
    coalescing.gsc - coalescing.gsc < 100 * 1_000 ∧
    ((coalescing.onHost fun h => h.onQueue 0 2 fun q => { q with firstPost := some coalescing.gsc }).host.queue 0 2).bind Queue.firstPost =
      some coalescing.gsc := by decide

/-- Function 1 with rings of 16 entries asked for, disabled; and function 0 with EN 1. -/
def askingDisabled : State :=
  (disabled1.onHost fun h => (h.setFnReg 1 0x010 4).setFnReg 1 0x018 4).onHost fun h => h.setReg 0x104 16
def enabled0 : State := hosted.onHost fun h => h.setFnReg 0 0x020 1

theorem wit_admin_rings_clauses : (askingDisabled.host.fn 1).ready = true ∧ bit (askingDisabled.host.fnReg 1 0x020) 0 = false ∧
    2 ≤ askingDisabled.host.quota 1 ∧ bits (askingDisabled.host.fnReg 1 0x010) 3 0 = 4 ∧ bits (askingDisabled.host.fnReg 1 0x018) 3 0 = 4 ∧
    (askingDisabled.host.fn 1).disabled = true ∧ (resetting0.host.fn 0).ready = false ∧ bit (enabled0.host.fnReg 0 0x020) 0 = true ∧
    (enabled0.host.fn 0).ready = true ∧ (enabled0.host.queue 0 1).isSome = true ∧ (hosted.host.fn 0).disabled = false ∧
    (∃ q ∈ (hosted.host.fn 0).queues, ¬ ((q.id = 0 ∨ q.id = 1) ∧ q.quiet = true)) ∧
    bit (0x8000_0000 : Word) 31 ≠ (up.host.fn 1).disabled ∧ (bound live0 up).headCanvas 0 ≠ none := by
  refine ⟨?_, ?_, ?_, ?_, ?_, ?_, ?_, ?_, ?_, ?_, ?_, ?_, ?_, by rw [show (bound live0 up).headCanvas 0 = some live0 from rfl]; simp⟩ <;> decide

theorem wit_descriptors_turned_away : hosted.host.startable (hdr 9) = none ∧ descHeader (.nop (hdr 9)) = some (hdr 9) ∧
    ((sqWith fun q => { q with state := .disabled }).host.startable (hdr 4)).map Queue.state = some .disabled ∧
    ({ hdr 4 with resv := true } : DescHdr).resv = true ∧ (hosted.host.startable { hdr 4 with resv := true }).isSome = true ∧
    forAnyQueue (.evict (hdr 4) 1) = false ∧ (hdr 4).sq ≠ 0 ∧ (hosted.host.startable (hdr 4)).map Queue.cq = some 2 := by decide

/-- The allocation of function 0 with a poisoned unit; and a canvas that uses it. -/
def spoiled0 : State := die0 (fun x => { x with dramPoison := [0] }) allocated0
def using0 : State := bound { live0 with dramAt := [(0, 0)] } allocated0

theorem wit_descriptors_of_queues_and_memory_fail : ¬ (8 : Byte).toNat < hosted.nDies ∧ hosted.host.inWindow 0 0x2_0000_0000 64 = false ∧
    (hosted.die 0).allocated 0 0 64 = false ∧ (∃ u ∈ unitsOf 0 64, u ∈ (spoiled0.die 0).dramPoison) ∧
    (List.replicate 63 (1 : Byte)).length ≠ (64 : Word).toNat ∧ ¬ (16 : Byte).toNat ≤ 15 ∧ ¬ 2 ≤ (1 : Word).toNat ∧
    hosted.host.inWindow 0 0x2_0000_0000 (64 * 2 ^ 4) = false ∧ hosted.host.quota 0 ≤ (16 : Word).toNat ∧
    hosted.host.queue 0 (4 : Word).toNat ≠ none ∧ hosted.host.queue 0 (9 : Word).toNat = none ∧
    hosted.queueNamed 0 (queue 2 .cq 0 0 0) = true ∧ hosted.maskOk 0 = false ∧
    hosted.allocAt (maskDies 1) (2 ^ 60) = none ∧ (∃ d ∈ maskDies 1, ((hosted.die d).dramAlloc.find? fun e => e.1 == 0 && e.2.2 == 0) = none) ∧
    using0.regionUsed 0 0 65536 = true ∧ (∀ b ∈ (hosted.host.fn 0).bundles, b.handle ≠ 1) ∧
    (∃ c ∈ using0.canvases, c.id.func = 0 ∧ c.binding.bundle = 1) := by
  refine ⟨?_, ?_, ?_, ?_, ?_, ?_, ?_, ?_, ?_, ?_, ?_, ?_, ?_, ?_, ?_, ?_, ?_, ?_⟩ <;> decide +kernel

/-! ### Further clauses: Turnstile and canvas descriptors -/

/-- Every context number of die 0 is taken. -/
def noContext : State :=
  die0 (fun x => { x with tsl := { x.tsl with ctxs := (List.range 256).map fun k => (k, { owner := .func 1, table := [] }) } }) hosted

/-- A canvas that imports an object of the context of function 0 on die 0. -/
def importing : State :=
  bound { live0 with binding := { live0.binding with imports := [{ bundleVirt := 1, funcVirt := 9, die := 0 }] } } mapped

theorem wit_descriptors_of_turnstiles_fail : ¬ (4096 : BitVec 16).toNat ≤ 4095 ∧ ¬ (8 : Byte).toNat < mapped.nDies ∧
    2 ^ 31 - 1 < (0x8000_0000 : Word).toNat ∧ hosted.fnTsl 0 0 9 = none ∧ ¬ 1 ≤ (0 : Word).toNat ∧
    mapped.host.startable (hdr 0) = some (queue 0 .sq 1 0 1) ∧
    (((mapped.die 0).tsl.funcCtx 0).bind fun c => ((mapped.die 0).tsl.ctx c).bind fun x => x.entry 9).isSome = true ∧
    (((hosted.die 0).tsl.funcCtx 0).bind fun c => ((hosted.die 0).tsl.ctx c).bind fun x => x.entry 9) = none ∧
    (((noContext.die 0).tsl.withFuncCtx 0).bind fun e => e.1.map e.2 9 false 5) = none ∧
    (∃ d ∈ maskDies 1, (importing.die d).tsl.funcCtx 0 ≠ none ∧ ∃ c ∈ importing.canvases, c.id.func = 0 ∧ c.importsOn d = true) ∧
    (∃ d ∈ maskDies 1, (mapped.die d).tsl.funcCtx 0 ≠ none) ∧ mapped.canvases = [] := by
  refine ⟨?_, ?_, ?_, ?_, ?_, ?_, ?_, ?_, ?_, ?_, ?_, ?_⟩ <;> decide +kernel

theorem wit_canvas_descriptors_fail : admitted.Starts (hdr 0) (queue 0 .sq 1 0 1) ∧ admitted.bufferOk 0 0x2_0000_0000 640 0 = false ∧
    ([0] : List Byte).length ≠ (2 : Word).toNat ∧ admitted.canvas { func := 0, handle := (9 : BitVec 16).toNat } = none ∧
    1 < (2 : Byte).toNat ∧ (hosting live0).saveFits live0 0 = false ∧
    ({ live0 with pause := .resuming none } : Canvas).pause = .resuming none ∧
    (∀ v, live0.pause ≠ .saved v) ∧ (1 : Dword) ≠ (⟨0, [], [], false⟩ : Saved).addr ∧
    (paused0 ⟨0, [], [], true⟩).pause = .saved ⟨0, [], [], true⟩ ∧ live0.binding.sources[(9 : Byte).toNat]? = none ∧
    ¬ ((hosting live0).host.fn 0).inWindow 0x2_0000_0000 64 = true ∧ ([] : List (List Byte)).length ≠ 64 ∧
    ({ live0 with binding := { live0.binding with sources := [⟨0, 0, 0, 0, 0, 64, 64, 10, 0⟩] } } : Canvas).binding.flags.getLsbD 0 = false := by
  refine ⟨?_, ?_, ?_, ?_, ?_, ?_, rfl, fun v => by simp [live0, canvasOf, Canvas.fresh], ?_, rfl, ?_, ?_, ?_, ?_⟩
  · unfold State.Starts; decide +kernel
  all_goals decide +kernel

/-! ### Further clauses: resets, boot, background work -/

theorem wit_resets_of_part_and_die_clauses : 1 ≤ (full (signedIn 1 up)).role .pf ∧ (full (signedIn 1 up)).auditRoom = false ∧ up.role .pf = 0 ∧
    ¬ (up.die 1).sfn.phase = .safe := by decide

theorem wit_boot_steps_clauses : up.clocks = true ∧ State.reset.clocks = false ∧ State.reset.pins.pkgSync = false ∧
    ({ up with gsc := 1_000_000_001 } : State).gsc % 2 = 1 ∧ asleep.power.standby = true ∧ asleep.clocks = true ∧
    (∀ d, up.present d = true → (up.die d).boot.alone = true → (up.die d).boot.inReset = true → up.gsc < (up.die d).boot.resetAt + 100_000) ∧
    (State.reset.die 0).boot.released = false ∧ ((running_ false).die 0).boot.phase ≠ .rom ∧ ((running_ false).die 0).boot.phase ≠ .verifying ∧
    ((running_ true).die 0).boot.trained = true ∧ ((running_ false).die 0).boot.trained = false ∧ (running_ true).sec.loaded = false ∧
    ({ running_ true with sec := { (running_ true).sec with loaded := true } } : State).sec.loaded = true ∧
    (released.die 0).boot.phase = .rom ∧ ((running_ false).die 3).recorder.lost = 0 ∧ State.reset.otp.accepts [] = false := by
  refine ⟨?_, ?_, ?_, ?_, ?_, ?_, ?_, ?_, ?_, ?_, ?_, ?_, ?_, ?_, ?_, ?_, ?_⟩ <;> decide +kernel

theorem wit_background_work_and_links_clauses : (down1.die 1).boot.inReset = true ∧ ((running_ false).die 0).boot.trained = false ∧
    (running_ true).linkUp 0 0 = false ∧ linkPeer .pv8800 0 0 = some 1 ∧ ((running_ true).die 0).boot.trained = true := by decide

/-! ### Further clauses: roles, requests, settings -/

/-- The request buffer is busy; and a management session of a maker. -/
def busyRequest : State := die0 (fun x => x.setReg Reg.secReqCtrl 4) (buffered 2)
def managed : State := { up with sec := { up.sec with mctp := some { role := 2, until_ := 2_000_000_000 } } }

theorem wit_role_sessions_clauses : busyRequest.field 0 Reg.secReqCtrl 2 2 = 1 ∧ up.field 0 Reg.secReqCtrl 2 2 = 0 ∧
    ¬ (64 ≤ up.reqBuffer.2 ∧ up.reqBuffer.2 ≤ 65536 ∧ up.host.inWindow 0 up.reqBuffer.1 up.reqBuffer.2 = true) ∧
    up.authGranted .pf [] = false ∧ 8 ≤ ({ up with sec := { up.sec with failures := 7 } } : State).sec.failures + 1 ∧
    (full up).auditRoom = false ∧ up.sec.pf = none ∧ up.session .mctp = none ∧ managed.session .mctp = some ⟨2, 2_000_000_000⟩ ∧
    managed.gsc < 2_000_000_000 := by
  refine ⟨?_, ?_, ?_, ?_, ?_, ?_, ?_, ?_, ?_, ?_⟩ <;> decide +kernel

theorem wit_security_requests_clauses : busyRequest.field 0 Reg.secReqCtrl 2 2 = 1 ∧ up.role .mctp < 2 ∧ managed.role .mctp = 2 ∧
    managed.auditRoom = true ∧ (up.die 0).boot.phase ≠ .waitHost ∧ 4 ≤ leAt [(4 : Byte)] 0 1 ∧
    (let s := die0 (fun x => x.setReg Reg.secReqLen 64) (buffered 2)
     64 ≤ s.reqBuffer.2 ∧ s.host.inWindow 0 s.reqBuffer.1 s.reqBuffer.2 = true ∧
       s.reqBuffer.2 < 64 + 4 + s.sec.logBytes.length + 2592 + 4627 + 4627) ∧
    (∃ x v : BitVec 512, x &&& ~~~ v ≠ 0) := by
  refine ⟨?_, ?_, ?_, ?_, ?_, ?_, ?_, ⟨BitVec.allOnes 512, 0, ?_⟩⟩ <;> decide +kernel

/-- No slot of the settings is in the rotation; and a store waits for its entry. -/
def worn : State := { up with nvm := { up.nvm with live := 0 } }
def storeWaits : State :=
  { storing true with sec := { (storing true).sec with deferred := [(0, .pf, .store)] } }

theorem wit_settings_and_audit_ring_clauses : worn.nvm.pickSlot = none ∧ worn.field 0 Reg.nvmCtrl 1 1 = 0 ∧ (full up).auditRoom = false ∧
    (full up).nvm.pickSlot ≠ none ∧ up.nvm.storing = none ∧ storeWaits.nvm.pickSlot ≠ none ∧ (∃ y ∈ storeWaits.sec.deferred, y.2.2 = .store) ∧
    ({ worn with nvm := { worn.nvm with storing := some up.captureSettings } } : State).nvm.storing ≠ none ∧ up.sec.staging = [] := by
  refine ⟨?_, ?_, ?_, ?_, rfl, ?_, ⟨_, List.mem_singleton.mpr rfl, rfl⟩, by simp, rfl⟩ <;> decide +kernel

/-! ### Further clauses: points, heat, standby -/

/-- A die's regulator waits at the point in force. -/
def regulating : State := { awaiting up with power := { (awaiting up).power with target := none } }

theorem wit_points_heat_and_standby_clauses : (0 : DieIx) ∉ up.power.awaited ∧ regulating.power.target = none ∧
    (0 : DieIx) ∈ regulating.power.awaited ∧ (down1.die 1).boot.inReset = true ∧ (full (signedIn 1 up)).auditRoom = false ∧
    1 ≤ (full (signedIn 1 up)).role .pf ∧ (up.die 0).thermal.level = 0 ∧ (∃ v ∈ (heat 381).take 16, up.junctionMax - 20 < v) ∧
    (∀ e, ((awaiting up).die e).streams = []) ∧ up.power.standby = false ∧ (bound live0 up).canvases ≠ [] ∧
    bits (1 : Word) 3 0 ≤ up.nDies ∧ opOfCode (bits (4 : Word) 1 0) ≠ up.power.point := by
  refine ⟨?_, ?_, ?_, ?_, ?_, ?_, ?_, ?_, ?_, ?_, by simp [bound], ?_, ?_⟩ <;> decide +kernel

end Sys2Proof.Tests
end

section
/-! SUPPORT. Proofs of the statements of 00_scope. -/

namespace Sys2Proof.Machine

/-! ### Completion -/

/-- A step answers a next state whose queue has lost its front. -/
theorem step_completes (s : State) : ∃ t, step s = .next t ∧ t.pending = s.pending.tail := by
  unfold step
  cases h : s.pending with
  | nil =>
    refine ⟨s.tick, rfl, ?_⟩
    have ht : s.tick.pending = s.pending := by unfold State.tick; split <;> rfl
    rw [ht, h, List.tail_nil]
  | cons c rest =>
    obtain ⟨t, he, -, hp⟩ := exec_next c { s with pending := rest }
    exact ⟨t, he, hp⟩

/-- Settles O5: every command is shown to answer a next state with its queue kept, and a step takes the front first. -/
theorem everyStepCompletes : Obligations.every_step_completes := by
  unfold Obligations.every_step_completes
  refine ⟨fun c s => ?_, step_completes⟩
  obtain ⟨t, he, -, hp⟩ := exec_next c s
  exact ⟨t, he, hp⟩

/-- Settles O4: the reset state is one that `ofReset` makes, with host memory empty. -/
theorem resetIsCanonical : Obligations.reset_is_canonical := by
  unfold Obligations.reset_is_canonical State.reset
  exact ofReset_wf _ _ _ rfl

/-! ### Bit fields -/

theorem testBit_natBits (w hi lo i : Nat) :
    (natBits w hi lo).testBit i = (decide (i < hi + 1 - lo) && w.testBit (lo + i)) := by
  rw [natBits, Nat.testBit_mod_two_pow, Nat.testBit_div_two_pow, Nat.add_comm i lo]

/-- A number cut at the ends of a field: what stands above it, in it and below it. -/
theorem natSetBits_eq (w hi lo v : Nat) : natSetBits w hi lo v =
    2 ^ lo * (2 ^ (hi + 1 - lo) * (w / 2 ^ lo / 2 ^ (hi + 1 - lo)) + v % 2 ^ (hi + 1 - lo)) + w % 2 ^ lo := by
  have hw := Nat.div_add_mod w (2 ^ lo)
  have hm := Nat.div_add_mod (w / 2 ^ lo) (2 ^ (hi + 1 - lo))
  rw [natSetBits, natBits]
  generalize w % 2 ^ lo = l at *
  generalize w / 2 ^ lo = q at *
  generalize q % 2 ^ (hi + 1 - lo) = m at *
  generalize v % 2 ^ (hi + 1 - lo) = u
  generalize q / 2 ^ (hi + 1 - lo) = a at *
  subst hm hw
  rw [Nat.mul_add, Nat.mul_add, Nat.mul_comm m, Nat.mul_comm u]
  omega

/-- A number with a field replaced: the field's bits are the new value's, all others are as before. -/
theorem testBit_natSetBits (w hi lo v k : Nat) :
    (natSetBits w hi lo v).testBit k = if lo ≤ k ∧ k ≤ hi then v.testBit (k - lo) else w.testBit k := by
  rw [natSetBits_eq, Nat.testBit_two_pow_mul_add _ (Nat.mod_lt _ (Nat.two_pow_pos _)),
    Nat.testBit_two_pow_mul_add _ (Nat.mod_lt _ (Nat.two_pow_pos _))]
  simp only [Nat.testBit_mod_two_pow, Nat.testBit_div_two_pow]
  by_cases hlo : k < lo
  · simp [hlo]
  · by_cases hhi : k ≤ hi
    · have : k - lo < hi + 1 - lo := by omega
      simp [hlo, hhi, this, show lo ≤ k by omega]
    · have : ¬ k - lo < hi + 1 - lo := by omega
      rw [if_neg hlo, if_neg this, if_neg (fun h => hhi h.2)]
      congr 1
      omega

/-! ### Writes by access code (R8, R11) -/

/-- A write of a field leaves every bit outside the field as it was. -/
theorem Field.testBit_write_out (f : Field) (old value hw k : Nat) (h : ¬ (f.lo ≤ k ∧ k ≤ f.hi)) :
    (f.write old value hw).testBit k = old.testBit k := by
  unfold Field.write
  cases f.access with
  | rw => simp only [testBit_natSetBits, if_neg h]
  | ro => rfl
  | w1c => simp only [testBit_natSetBits, if_neg h]
  | wo => rfl

/-- A field that software writes takes the value's bits. -/
theorem Field.testBit_write_rw {f : Field} (ha : f.access = .rw) {k : Nat} (hlo : f.lo ≤ k) (hhi : k ≤ f.hi)
    (old value hw : Nat) : (f.write old value hw).testBit k = value.testBit k := by
  have hk : k - f.lo < f.hi + 1 - f.lo := by omega
  simp only [Field.write, ha, testBit_natSetBits, testBit_natBits, hlo, hhi, and_self, if_true, hk, decide_true,
    Bool.true_and, Nat.add_sub_cancel' hlo]

/-- A W1C bit that an event sets in the cycle of the write is 1 after it, whatever is written (R11). -/
theorem Field.testBit_write_event {f : Field} (ha : f.access = .w1c) {k : Nat} (hlo : f.lo ≤ k) (hhi : k ≤ f.hi)
    {hw : Nat} (he : hw.testBit k = true) (old value : Nat) : (f.write old value hw).testBit k = true := by
  have hk : k - f.lo < f.hi + 1 - f.lo := by omega
  simp only [Field.write, ha, testBit_natSetBits, testBit_natBits, Nat.testBit_and, Nat.testBit_or, Nat.testBit_xor,
    Nat.testBit_two_pow_sub_one, hlo, hhi, and_self, if_true, hk, decide_true, Bool.true_and, Nat.add_sub_cancel' hlo, he]
  simp

/-- Writes of fields keep a bit's value where every field that holds the bit would give it that value. -/
theorem testBit_foldl_write_keep {fields : List Field} {value hw k : Nat} {b : Bool}
    (hb : ∀ f ∈ fields, f.lo ≤ k → k ≤ f.hi → ∀ old, (f.write old value hw).testBit k = b) {old : Nat} (h : old.testBit k = b) :
    (fields.foldl (fun acc f => f.write acc value hw) old).testBit k = b := by
  induction fields generalizing old with
  | nil => exact h
  | cons f rest ih =>
    refine ih (fun g hg => hb g (List.mem_cons_of_mem _ hg)) ?_
    by_cases hin : f.lo ≤ k ∧ k ≤ f.hi
    · exact hb f List.mem_cons_self hin.1 hin.2 old
    · rw [f.testBit_write_out _ _ _ _ hin, h]

/-- A bit that some field of a register holds, and on whose value every field that holds it agrees, has that value after a write of
the register. -/
theorem testBit_foldl_write {fields : List Field} {value hw k : Nat} {b : Bool}
    (hb : ∀ f ∈ fields, f.lo ≤ k → k ≤ f.hi → ∀ old, (f.write old value hw).testBit k = b)
    (hf : ∃ f ∈ fields, f.lo ≤ k ∧ k ≤ f.hi) (old : Nat) :
    (fields.foldl (fun acc f => f.write acc value hw) old).testBit k = b := by
  obtain ⟨f, hmem, hlo, hhi⟩ := hf
  obtain ⟨pre, post, rfl⟩ := List.append_of_mem hmem
  rw [List.foldl_append, List.foldl_cons]
  exact testBit_foldl_write_keep (fun g hg => hb g (by simp [hg])) (hb f hmem hlo hhi _)

/-- A register all of whose bits software writes takes the value. -/
theorem writeWord_rw {fields : List Field} (hrw : ∀ f ∈ fields, f.access = .rw)
    (hall : ∀ k < 32, ∃ f ∈ fields, f.lo ≤ k ∧ k ≤ f.hi) (old value hw : Word) : writeWord fields old value hw = value := by
  refine BitVec.eq_of_getLsbD_eq fun k hk => ?_
  rw [writeWord, BitVec.getLsbD_ofNat, testBit_foldl_write
    (fun f hf hlo hhi old => Field.testBit_write_rw (hrw f hf) hlo hhi old value.toNat hw.toNat) (hall k hk)]
  simp [hk, BitVec.getLsbD]

/-- In a register of W1C fields an event of the same cycle wins over the clear. -/
theorem getLsbD_writeWord_event {fields : List Field} (hw1c : ∀ f ∈ fields, f.access = .w1c) {f : Field} (hf : f ∈ fields)
    {k : Nat} (hlo : f.lo ≤ k) (hhi : k ≤ f.hi) {hw : Word} (he : hw.getLsbD k = true) (old value : Word) :
    (writeWord fields old value hw).getLsbD k = true := by
  have hk : k < 32 := BitVec.lt_of_getLsbD he
  rw [writeWord, BitVec.getLsbD_ofNat, testBit_foldl_write
    (fun g hg hlo hhi old => Field.testBit_write_event (hw1c g hg) hlo hhi he old value.toNat) ⟨f, hf, hlo, hhi⟩]
  simp [hk]

/-! ### Where registers lie -/

/-- The offsets of the _EVT registers of a die window (R8, R331). -/
def flagOffs : List Nat :=
  [Reg.mxeEvt 0, Reg.mxeEvt 1, Reg.winEvt, Reg.rmsPlaceEvt, Reg.crsEvt, Reg.jglEvt, Reg.motEvt, Reg.cmpEvt, Reg.scnEvt, Reg.tslEvt,
    Reg.detEvt, Reg.sfnEvt, Reg.secEvt, Reg.nvmEvt, Reg.clkEvt, Reg.pwrEvt, Reg.snsEvt]

theorem findRow_some {rows : List Row} {off : Nat} {r : Row} (h : findRow rows off = some r) :
    r ∈ rows ∧ r.off ≤ off ∧ (off - r.off) % r.stride = 0 ∧ (off - r.off) / r.stride < r.count := by
  have hp := List.find?_some h
  simp only [Bool.and_eq_true, decide_eq_true_eq] at hp
  exact ⟨List.mem_of_find?_eq_some h, hp.1.1, hp.1.2, hp.2⟩

/-- A register of a die window belongs to a layer, to a Carousel, or to a block at a fixed base. -/
theorem dieRow_some {off : Nat} {r : Row} (h : dieRow off = some r) :
    r ∈ cmpSubRows ∨ r ∈ crsSubRows ∨ ∃ b ∈ fixedBlocks, b.1 ≤ off ∧ findRow b.2.2 (off - b.1) = some r := by
  unfold dieRow at h
  split at h
  · exact .inl (findRow_some h).1
  split at h
  · exact .inr (.inl (findRow_some h).1)
  split at h
  next base size rows hb =>
    have hp := List.find?_some hb
    simp only [Bool.and_eq_true, decide_eq_true_eq] at hp
    exact .inr (.inr ⟨_, List.mem_of_find?_eq_some hb, hp.1, h⟩)
  next => cases h

/-- No register of a layer or of a Carousel holds a flag. -/
theorem subRows_hold_no_flag : ∀ r ∈ cmpSubRows ++ crsSubRows, ∀ f ∈ r.fields, f.access ≠ .w1c := by decide

/-- In the fixed blocks a flag stands in a register of its own, at one of the offsets listed. -/
theorem fixedBlocks_flags : ∀ b ∈ fixedBlocks, ∀ r ∈ b.2.2, (∃ f ∈ r.fields, f.access = .w1c) →
    r.count = 1 ∧ r.stride = 4 ∧ b.1 + r.off ∈ flagOffs := by decide

/-- A register that holds a W1C bit is an _EVT register. -/
theorem mem_flagOffs {off : Nat} {f : Field} (hf : f ∈ fieldsAt off) (ha : f.access = .w1c) : off ∈ flagOffs := by
  unfold fieldsAt at hf
  split at hf
  next r hr =>
    obtain hc | hc | ⟨b, hb, hle, hrow⟩ := dieRow_some hr
    · exact absurd ha (subRows_hold_no_flag r (List.mem_append_left _ hc) f hf)
    · exact absurd ha (subRows_hold_no_flag r (List.mem_append_right _ hc) f hf)
    · obtain ⟨hmem, hoff, hmod, hdiv⟩ := findRow_some hrow
      obtain ⟨hcount, hstride, hin⟩ := fixedBlocks_flags b hb r hmem ⟨f, hf, ha⟩
      rw [hcount, hstride] at hdiv
      rw [hstride] at hmod
      rwa [show off = b.1 + r.off by omega]
  next => cases hf

/-- An _EVT register holds W1C bits alone. -/
theorem dieRow_flagOffs : ∀ off ∈ flagOffs, ∃ r, dieRow off = some r ∧ isFlags r.fields = true := by
  have h : ∀ off ∈ flagOffs, (dieRow off).any (fun r => isFlags r.fields) = true := by decide
  intro off hoff
  have ho := h off hoff
  cases hr : dieRow off with
  | none => simp [hr] at ho
  | some r => exact ⟨r, rfl, by simpa [hr] using ho⟩

/-! ### Which writes do more than store -/

/-- Registers of a die window with an effect of their own (entry 13): of security and settings, of clocks, power and tasks, the counter
clears, of the Composer, Turnstiles and the recorder, and of the Safety Net. -/
def effectOffs : List Nat :=
  [Reg.secReqCtrl, Reg.secReset, Reg.nvmCtrl, Reg.nvmAuditSel] ++
  [Reg.pwrCtrl, Reg.pwrCap, Reg.clkLockCfg, Reg.snsTaskSel] ++
  [Reg.mxeCntClr 0, Reg.mxeCntClr 1, Reg.winCntClr, Reg.rmsCntClr, Reg.crsCntClr, Reg.jglCntClr, Reg.motCntClr, Reg.cmpCntClr,
    Reg.scnCntClr, Reg.tslCntClr, Reg.detCntClr, Reg.sfnCntClr, Reg.secCntClr, Reg.nvmCntClr, Reg.pwrCntClr, Reg.snsCntClr,
    Reg.gdeCntClr] ++
  [Reg.cmpCommit, Reg.cmpLutData, Reg.cmpCoefData, Reg.cmpHoldLimit, Reg.tslSel, Reg.tslWsel, Reg.tslDumpCtrl, Reg.detRecCtrl,
    Reg.detRecRptr] ++
  [Reg.sfnTMean, Reg.sfnTMax, Reg.sfnHf, Reg.sfnTFlash, Reg.sfnCap, Reg.sfnBright, Reg.sfnInjCtrl, Reg.sfnCtrl]

/-- A write of the register at an offset may do more than store: it is listed, or an echo or current-guard register, a PWM output, or a
staged word of a task. -/
abbrev HasEffect (off : Nat) : Prop :=
  off ∈ effectOffs ∨ (Reg.sfnEchoCtrl ≤ off ∧ off ≤ Reg.sfnIgTripCnt) ∨ (Reg.snsPwm 0 ≤ off ∧ off < Reg.snsPwm 8) ∨
    (Reg.snsTaskData 0 ≤ off ∧ off < Reg.snsTaskData 4)

/-- An offset of a range that die 0 alone has (R405, R406, R425). -/
abbrev OnDieZero (off : Nat) : Prop :=
  (Reg.secRole ≤ off ∧ off ≤ Reg.secAuthFailCnt) ∨ (0x52_0000 ≤ off ∧ off < 0x52_1000) ∨ (0x58_0000 ≤ off ∧ off < 0x58_1000)

/-- The registers that place the recorder's ring, which EN locks (R312). -/
def ringOffs : List Nat := [Reg.detRecBaseLo, Reg.detRecBaseHi, Reg.detRecSize]

section
variable {s : State} {d : DieIx} {off : Nat} (value hw : Word)

theorem secWrite_eq_none (hd : OnDieZero off → d = 0) (he : ¬ HasEffect off) : s.secWrite d off value = none := by
  have hz : ¬ ((Reg.secRole ≤ off ∧ off ≤ Reg.secAuthFailCnt ∨ 0x52_0000 ≤ off ∧ off < 0x52_1000) ∧ d.val ≠ 0) :=
    fun ⟨hr, hne⟩ => hne (congrArg Fin.val (hd (hr.imp_right .inl)))
  simp only [HasEffect, effectOffs, List.mem_append, List.mem_cons, List.not_mem_nil, or_false, not_or] at he
  rw [State.secWrite, if_neg hz]
  simp only [he, if_false]

theorem clockWrite_eq_none (hd : OnDieZero off → d = 0) (he : ¬ HasEffect off) : s.clockWrite d off value = none := by
  have hz : 0x58_0000 ≤ off ∧ off < 0x58_1000 → ¬ d.val ≠ 0 := fun hr hne => hne (congrArg Fin.val (hd (.inr (.inr hr))))
  simp only [HasEffect, effectOffs, List.mem_append, List.mem_cons, List.not_mem_nil, or_false, not_or] at he
  simp only [State.clockWrite, he, if_false, false_and]
  split
  · rw [if_neg (hz ‹_›)]
  · rfl

theorem clearWrite_eq_none (he : ¬ HasEffect off) : s.clearWrite d off value hw = none := by
  simp only [HasEffect, effectOffs, List.mem_append, List.mem_cons, List.not_mem_nil, or_false, not_or] at he
  simp only [State.clearWrite, he, if_false]

theorem pictureWrite_eq_none (he : ¬ HasEffect off) (hr : off ∈ ringOffs → s.field d Reg.detRecCtrl 0 0 ≠ 1) :
    s.pictureWrite d off value = none := by
  simp only [HasEffect, effectOffs, List.mem_append, List.mem_cons, List.not_mem_nil, or_false, not_or] at he
  simp only [ringOffs, List.mem_cons, List.not_mem_nil, or_false] at hr
  simp only [State.pictureWrite, he, not_and.mpr hr, if_false, false_and]

theorem sfnWrite_eq_none (he : ¬ HasEffect off) : s.sfnWrite d off value hw = none := by
  simp only [HasEffect, effectOffs, List.mem_append, List.mem_cons, List.not_mem_nil, or_false, not_or] at he
  simp only [State.sfnWrite, he, if_false]

/-- A write of a register without an effect of its own is a plain write. -/
theorem dieWrite_eq_plainWrite (hd : OnDieZero off → d = 0) (he : ¬ HasEffect off)
    (hr : off ∈ ringOffs → s.field d Reg.detRecCtrl 0 0 ≠ 1) : s.dieWrite d off value hw = s.plainWrite d off value hw := by
  simp only [State.dieWrite, secWrite_eq_none value hd he, clockWrite_eq_none value hd he, clearWrite_eq_none value hw he,
    pictureWrite_eq_none value he hr, sfnWrite_eq_none value hw he, Option.or_none]

theorem plainWrite_of_flags {r : Row} (hr : dieRow off = some r) (hf : isFlags r.fields = true) :
    s.plainWrite d off value hw = s.clearFlags d off value hw := by
  simp only [State.plainWrite, hr, hf, if_true]

theorem plainWrite_of_shadow {r : Row} (hr : dieRow off = some r) (hf : isFlags r.fields = false) (hs : r.shadow = true) :
    s.plainWrite d off value hw = s.lockedWrite d fun x => x.setReg off (s.shadowWord d off value) := by
  simp only [State.plainWrite, hr, hf, hs, if_true, if_false, Bool.false_eq_true]

theorem plainWrite_of_store {r : Row} (hr : dieRow off = some r) (hf : isFlags r.fields = false) (hs : r.shadow = false) :
    s.plainWrite d off value hw = s.storeReg d off value := by
  simp only [State.plainWrite, hr, hf, hs, if_false, Bool.false_eq_true]

end

/-! ### REGISTER_WRITE -/

/-- A write of four bytes in the window of a die that the part has, outside the HST_ block, is a write of that die's register. -/
theorem exec_registerWrite_die {s : State} {d : DieIx} {off : Nat} (value hw : Word) (hp : s.present d = true)
    (hi : (s.die d).boot.inReset = false) (hlt : off < 0x100_0000) (h4 : off % 4 = 0)
    (hh : ¬ (0x10_0000 ≤ off ∧ off < 0x10_1000)) :
    exec (.registerWrite (.bar0 (0x100_0000 * d.val + off)) 4 value hw) s = .next (s.dieWrite d off value hw) := by
  have hdiv : (0x100_0000 * d.val + off) / 0x100_0000 = d.val := by omega
  have hmod : (0x100_0000 * d.val + off) % 0x100_0000 = off := by omega
  have hdie : dieOf d.val = d := Fin.ofNat_val_eq_self d
  have hpd : ¬ s.nDies ≤ d.val := by simpa [State.present] using hp
  have hal : ¬ (0x100_0000 * d.val + off) % 4 ≠ 0 := by omega
  refine congrArg Host.Outcome.next ?_
  simp only [fxRegisterWrite, hdiv, hmod, hdie, hi, hpd, hal, hh, if_false, ne_eq, not_true_eq_false, false_or, Bool.false_eq_true]

/-! ### Flags -/

/-- No flag register lies in the HST_ block, none is of the recorder's ring, and none has an effect of its own. -/
theorem flagOffs_plain : ∀ off ∈ flagOffs, ¬ (0x10_0000 ≤ off ∧ off < 0x10_1000) ∧ off ∉ ringOffs ∧ ¬ HasEffect off := by decide

/-- Of the flag registers that die 0 alone has, SEC_EVT stands below SEC_ROLE_DENY_CNT. -/
theorem flagOffs_onDieZero : ∀ off ∈ flagOffs, OnDieZero off →
    0x50_0008 ≤ off ∧ off ≤ 0x50_004C ∨ 0x52_0000 ≤ off ∧ off < 0x52_1000 ∨ 0x58_0000 ≤ off ∧ off < 0x58_1000 := by decide

/-- After a write of a flag register its word is the written one, by access code, over what events have raised. -/
theorem reg_clearFlags {s : State} {d : DieIx} (off : Nat) (value hw : Word) (hp : s.present d = true) :
    ∃ old : Word, (s.clearFlags d off value hw).reg d off = writeWord (fieldsAt off) old value hw := by
  refine ⟨_, State.reg_setReg_same _ _ ?_⟩
  split
  · obtain ⟨h, e⟩ := s.raiseHead_frame d off (hw &&& fieldsMask (fieldsAt off)).toNat
    rw [e]
    exact hp
  · exact hp

theorem isFlags_w1c {fields : List Field} (h : isFlags fields = true) : ∀ f ∈ fields, f.access = .w1c := by
  simp only [isFlags, Bool.and_eq_true, List.all_eq_true, beq_iff_eq] at h
  exact h.2

/-- An event of the same cycle wins over the clear of a flag of a die (R11). -/
theorem clearFlags_event {s : State} {d : DieIx} {off k : Nat} {r : Row} {f : Field} {hw : Word} (value : Word)
    (hp : s.present d = true) (hr : dieRow off = some r) (hflags : isFlags r.fields = true) (hf : f ∈ fieldsAt off)
    (hlo : f.lo ≤ k) (hhi : k ≤ f.hi) (he : hw.getLsbD k = true) :
    ((s.clearFlags d off value hw).reg d off).getLsbD k = true := by
  obtain ⟨old, e⟩ := reg_clearFlags off value hw hp
  have hfields : fieldsAt off = r.fields := by rw [fieldsAt, hr]
  rw [e]
  exact getLsbD_writeWord_event (hfields ▸ isFlags_w1c hflags) hf hlo hhi he old value

/-- The row of HST_EVT (Table 12.14). -/
def hstEvtRow : Row :=
  ⟨0xc, 1, 4, false, [⟨0, 0, .w1c, 0, .none⟩, ⟨1, 1, .w1c, 0, .none⟩, ⟨2, 2, .w1c, 0, .none⟩, ⟨3, 3, .w1c, 0, .none⟩]⟩

theorem findRow_hstEvt : findRow hstRows 0x00C = some hstEvtRow := by decide

theorem host_reg_onHost (s : State) (f : HostSide → HostSide) (k : Nat) : (s.onHost f).host.reg k = (f s.host).reg k := rfl

/-- After a write of HST_EVT its word is the written one, by access code, over what events have raised. -/
theorem reg_hostWrite_evt (s : State) (value hw : Word) :
    ∃ old : Word, (s.hostWrite 0x00C value hw).host.reg 0x00C = writeWord hstEvtRow.fields old value hw := by
  have hflags : isFlags hstEvtRow.fields = true := by decide
  refine ⟨(s.raiseHost (hw &&& fieldsMask hstEvtRow.fields).toNat).host.reg 0x00C, ?_⟩
  simp [State.hostWrite, findRow_hstEvt, hflags, host_reg_onHost]

/-- An event of the same cycle wins over the clear of a flag of HST_EVT (R11). -/
theorem hostWrite_event (s : State) {k : Nat} (value : Word) {hw : Word} (hk : k < 4) (he : hw.getLsbD k = true) :
    ((s.hostWrite 0x00C value hw).host.reg 0x00C).getLsbD k = true := by
  have hcover : ∀ k < 4, ∃ f ∈ hstEvtRow.fields, f.lo ≤ k ∧ k ≤ f.hi := by decide
  obtain ⟨f, hf, hlo, hhi⟩ := hcover k hk
  obtain ⟨old, e⟩ := reg_hostWrite_evt s value hw
  rw [e]
  exact getLsbD_writeWord_event (isFlags_w1c (by decide)) hf hlo hhi he old value

theorem two_le_nDies (s : State) : 2 ≤ s.nDies := by
  unfold State.nDies
  cases s.straps.part <;> decide

/-- A write of four bytes of HST_EVT is a write of the HST_ block. -/
theorem exec_registerWrite_hstEvt {s : State} (value hw : Word) (hi : (s.die 0).boot.inReset = false) :
    exec (.registerWrite (.bar0 0x10_000C) 4 value hw) s = .next (s.hostWrite 0x00C value hw) := by
  have hn : ¬ s.nDies ≤ 0 := by have := two_le_nDies s; omega
  refine congrArg Host.Outcome.next ?_
  simp [fxRegisterWrite, hn, show dieOf 0 = 0 from rfl, hi]

/-- Settles O49: a W1C bit stands in an _EVT register, and a write of it clears no bit that an event sets in its cycle. -/
theorem eventWinsOverClear : Obligations.event_wins_over_clear := by
  unfold Obligations.event_wins_over_clear
  refine ⟨fun s d off k value hw f hp hi hlt h4 hf ha hlo hhi he hzero => ?_, fun s k value hw hi hk he => ?_⟩
  · have hoff := mem_flagOffs hf ha
    obtain ⟨hhost, hring, heff⟩ := flagOffs_plain off hoff
    obtain ⟨r, hr, hflags⟩ := dieRow_flagOffs off hoff
    refine ⟨_, exec_registerWrite_die value hw hp hi hlt h4 hhost, ?_⟩
    rw [dieWrite_eq_plainWrite value hw (fun h => hzero (flagOffs_onDieZero off hoff h)) heff (fun h => absurd h hring),
      plainWrite_of_flags value hw hr hflags]
    exact clearFlags_event value hp hr hflags hf hlo hhi he
  · exact ⟨_, exec_registerWrite_hstEvt value hw hi, hostWrite_event s value hk he⟩

/-! ### Frames of the shared updates -/

section
variable (s : State) (d : DieIx)

theorem State.onlyDie_onDie (f : Die → Die) : s.OnlyDie (s.onDie d f) d :=
  ⟨rfl, fun e ne => s.die_onDie_ne d e ne.symm⟩

theorem Die.onlyRegs_setReg (x : Die) (off : Nat) (w : Word) : x.OnlyRegs (x.setReg off w) [off] :=
  ⟨rfl, fun k hk => x.reg_setReg_ne w fun e => hk (by simp [e])⟩

/-- Setting a register changes it and nothing else. -/
theorem State.setReg_frame (off : Nat) (w : Word) (hp : s.present d = true) : s.OnlyDie (s.setReg d off w) d ∧
    (s.die d).OnlyRegs ((s.setReg d off w).die d) [off] ∧ (s.setReg d off w).reg d off = w := by
  refine ⟨s.onlyDie_onDie d _, ?_, s.reg_setReg_same d hp⟩
  rw [State.setReg, s.die_onDie_same d hp]
  exact (s.die d).onlyRegs_setReg off w

/-- Raising a flag of a head sets it, and changes nothing besides that register and what is posted to the host. -/
theorem State.raiseHead_onlyDieHost (evt mask : Nat) (hp : s.present d = true) :
    s.OnlyDieHost (s.raiseHead d evt mask) d ∧ (s.die d).OnlyRegs ((s.raiseHead d evt mask).die d) [evt] ∧
      (s.raiseHead d evt mask).reg d evt = s.reg d evt ||| BitVec.ofNat 32 mask := by
  obtain ⟨h, e⟩ := s.raiseHead_frame d evt mask
  obtain ⟨⟨-, hd⟩, hregs, hreg⟩ := s.setReg_frame d evt (s.reg d evt ||| BitVec.ofNat 32 mask) hp
  rw [e]
  exact ⟨⟨rfl, hd⟩, hregs, hreg⟩

end

/-! ### Layer destinations -/

/-- The row of CMP_LAYER_DST_XY (Table 9.11). -/
def layerDstXyRow : Row := ⟨0xc, 1, 4, true, [⟨15, 0, .rw, 0, .none⟩, ⟨31, 16, .rw, 0, .none⟩]⟩

/-- CMP_LAYER_DST_XY is a shadow in the Composer's layer block, with no effect of its own. -/
theorem cmpLayerDstXy_plain : ∀ l : LayerIx, dieRow (Reg.cmpLayerDstXy l) = some layerDstXyRow ∧
    Reg.cmpLayerDstXy l < 0x100_0000 ∧ Reg.cmpLayerDstXy l % 4 = 0 ∧ ¬ OnDieZero (Reg.cmpLayerDstXy l) ∧
    ¬ HasEffect (Reg.cmpLayerDstXy l) ∧ Reg.cmpLayerDstXy l ∉ ringOffs ∧
    ¬ (0x10_0000 ≤ Reg.cmpLayerDstXy l ∧ Reg.cmpLayerDstXy l < 0x10_1000) := by decide

/-- The binding of a canvas does not make a layer's destination read-only: its shadow takes the value (R227). -/
theorem shadowWord_layerDstXy (s : State) (d : DieIx) (l : LayerIx) (value : Word) :
    s.shadowWord d (Reg.cmpLayerDstXy l) value = value := by
  obtain ⟨hrow, -⟩ := cmpLayerDstXy_plain l
  have hw : ∀ old : Word, writeWord (fieldsAt (Reg.cmpLayerDstXy l)) old value 0 = value := fun old => by
    rw [fieldsAt, hrow]
    exact writeWord_rw (by decide) (by decide) old value 0
  have hk : (Reg.cmpLayerDstXy l - 0x38_1000) % 0x80 = 0x0C := by
    simp only [Reg.cmpLayerDstXy]
    omega
  simp only [State.shadowWord, hw, hk, Nat.reduceEqDiff, or_self, if_false, ite_self]

/-- A write of a layer's destination is a write of its shadow, which PENDING locks (R240). -/
theorem exec_registerWrite_layerDstXy {s : State} {d : DieIx} (l : LayerIx) (value hw : Word) (hp : s.present d = true)
    (hi : (s.die d).boot.inReset = false) :
    exec (.registerWrite (.bar0 (0x100_0000 * d.val + Reg.cmpLayerDstXy l)) 4 value hw) s =
      .next (s.lockedWrite d fun x => x.setReg (Reg.cmpLayerDstXy l) value) := by
  obtain ⟨hrow, hlt, h4, hzero, heff, hring, hhost⟩ := cmpLayerDstXy_plain l
  rw [exec_registerWrite_die value hw hp hi hlt h4 hhost,
    dieWrite_eq_plainWrite value hw (fun h => absurd h hzero) heff (fun h => absurd h hring),
    plainWrite_of_shadow value hw hrow (by decide) rfl, shadowWord_layerDstXy]

/-! ### The recorder's ring -/

/-- The row of DET_REC_BASE_LO (Table 11.8). -/
def recBaseLoRow : Row := ⟨0x24, 1, 4, false, [⟨31, 0, .rw, 0, .none⟩]⟩

theorem dieRow_recBaseLo : dieRow Reg.detRecBaseLo = some recBaseLoRow := by decide

theorem recBaseLo_place : ¬ OnDieZero Reg.detRecBaseLo ∧ ¬ HasEffect Reg.detRecBaseLo ∧ Reg.detRecBaseLo ∈ ringOffs := by decide

/-- While the recorder is enabled a write of its ring's address is discarded (R312). -/
theorem dieWrite_recBaseLo_enabled {s : State} {d : DieIx} (value hw : Word) (hen : s.field d Reg.detRecCtrl 0 0 = 1) :
    s.dieWrite d Reg.detRecBaseLo value hw = s := by
  obtain ⟨hzero, heff, -⟩ := recBaseLo_place
  have hpic : s.pictureWrite d Reg.detRecBaseLo value = some s := by
    simp only [HasEffect, effectOffs, List.mem_append, List.mem_cons, List.not_mem_nil, or_false, not_or] at heff
    simp only [State.pictureWrite, heff, hen, if_false, false_and, true_or, and_self, if_true]
  simp only [State.dieWrite, secWrite_eq_none value (fun h => absurd h hzero) heff, clockWrite_eq_none value (fun h => absurd h hzero) heff,
    clearWrite_eq_none value hw heff, hpic, Option.none_or, Option.some_or]

/-- A register without a role stores what is written. -/
theorem storeReg_of_noRole {s : State} {d : DieIx} {off : Nat} {value : Word}
    (h : roleNeeded (fieldsAt off) (s.reg d off) value = 0) :
    s.storeReg d off value = s.setReg d off (writeWord (fieldsAt off) (s.reg d off) value 0) := by
  simp only [State.storeReg, State.guardedWrite, h, Nat.not_lt_zero, if_false, if_true]

/-- While the recorder is off the ring's address takes the value. -/
theorem dieWrite_recBaseLo_off {s : State} {d : DieIx} (value hw : Word) (hen : s.field d Reg.detRecCtrl 0 0 = 0) :
    s.dieWrite d Reg.detRecBaseLo value hw = s.setReg d Reg.detRecBaseLo value := by
  obtain ⟨hzero, heff, -⟩ := recBaseLo_place
  have hfields : fieldsAt Reg.detRecBaseLo = recBaseLoRow.fields := by rw [fieldsAt, dieRow_recBaseLo]
  rw [dieWrite_eq_plainWrite value hw (fun h => absurd h hzero) heff (fun _ => by omega),
    plainWrite_of_store value hw dieRow_recBaseLo (by decide) rfl, storeReg_of_noRole (by rw [hfields]; rfl), hfields,
    writeWord_rw (by decide) (by decide)]

theorem exec_registerWrite_recBaseLo {s : State} {d : DieIx} (value hw : Word) (hp : s.present d = true)
    (hi : (s.die d).boot.inReset = false) :
    exec (.registerWrite (.bar0 (0x100_0000 * d.val + Reg.detRecBaseLo)) 4 value hw) s = .next (s.dieWrite d Reg.detRecBaseLo value hw) :=
  exec_registerWrite_die value hw hp hi (by decide) (by decide) (by decide)

/-! ### MSI-X -/

theorem find?_eq_sLookup {α : Type} (m : SMap α) (k : Nat) : (m.find? fun e => e.1 == k).map Prod.snd = sLookup m k := by
  induction m with
  | nil => rfl
  | cons e rest ih =>
    obtain ⟨j, v⟩ := e
    by_cases h : j = k
    · simp [sLookup, h]
    · simp [sLookup, h, ih]

/-- A vector's entry reads as it was set. -/
theorem Fn.vector_setVector_same (x : Fn) (v : Nat) (m : Msix) : (x.setVector v m).vector v = m := by
  simp [Fn.vector, Fn.setVector, find?_eq_sLookup, sLookup_sInsert]

/-- Unmasking a vector whose pending bit is set sends its message and clears the bit (R334). -/
theorem Fn.msixWrite_unmask {x : Fn} {v : Nat} {value : Word} (hbit : bit value 0 = false)
    (hpend : (x.vector v).pendingBit = true) (haddr : (x.vector v).addr ≠ 0) :
    (x.msixWrite v 3 value).messages = v :: x.messages ∧ ((x.msixWrite v 3 value).vector v).pendingBit = false ∧
      ((x.msixWrite v 3 value).vector v).masked = false := by
  have hm : (x.vector v).write 3 value = { x.vector v with masked := false } := by simp [Msix.write, hbit]
  have hy : x.msixWrite v 3 value =
      { x.setVector v { x.vector v with masked := false, pendingBit := false } with messages := v :: x.messages } := by
    simp only [Fn.msixWrite, hm]
    exact if_pos ⟨trivial, trivial, hpend, haddr⟩
  have hv : ((x.msixWrite v 3 value).vector v) = { x.vector v with masked := false, pendingBit := false } := by
    rw [hy]
    exact x.vector_setVector_same v _
  exact ⟨by rw [hy], by rw [hv], by rw [hv]⟩

/-- A write of the control word of an MSI-X vector through its function's BAR (R315). -/
theorem exec_registerWrite_msixControl (s : State) (f : FnIx) {k : Nat} (value hw : Word) (hk : k < 2048) :
    exec (.registerWrite (.fnBar f (0x1_0000 + 16 * k + 12)) 4 value hw) s =
      .next (s.onHost fun h => h.onFn f fun x => x.msixWrite k 3 value) := by
  have hdiv : (0x1_0000 + 16 * k + 12 - 0x1_0000) / 16 = k := by omega
  have hmod : (0x1_0000 + 16 * k + 12) % 16 / 4 = 3 := by omega
  have hal : ¬ (0x1_0000 + 16 * k + 12) % 4 ≠ 0 := by omega
  have hpage : ∀ n < 0x1000, 0x1_0000 + 16 * k + 12 ≠ n := by omega
  have hlt : 0x1_0000 + 16 * k + 12 < 0x1_8000 := by omega
  have hge : 0x1_0000 ≤ 0x1_0000 + 16 * k + 12 := by omega
  have haq : ¬ (Reg.hstFnAsqLo ≤ 0x1_0000 + 16 * k + 12 ∧ 0x1_0000 + 16 * k + 12 ≤ Reg.hstFnAcqHi) := by
    simp only [Reg.hstFnAcqHi]
    omega
  refine congrArg Host.Outcome.next ?_
  simp only [fxRegisterWrite, ne_eq, not_true_eq_false, false_or, hal, if_false, State.fnWrite, hpage Reg.hstFnDb (by decide),
    hpage Reg.hstFnAqCtrl (by decide), hpage Reg.hstFnCntClr (by decide), haq, hge, hlt, and_self, if_true, hdiv, hmod]

/-- Settles O52, kind of write by kind of write. -/
theorem registerWrites : Obligations.register_writes := by
  unfold Obligations.register_writes
  refine ⟨fun s a bytes v hw h => congrArg Host.Outcome.next (if_pos h),
    fun s f off bytes v hw h => congrArg Host.Outcome.next (if_pos h), fun s d v hw hp hi => ⟨?_, ?_, ?_, ?_⟩,
    fun s f v hw => ⟨rfl, fun k hk hbit hpend haddr => ?_⟩⟩
  · intro l hpending
    refine ⟨_, exec_registerWrite_layerDstXy l v hw hp hi, ?_⟩
    rw [State.lockedWrite, if_neg (by simp [hpending])]
    exact s.setReg_frame d _ v hp
  · intro l hpending
    refine ⟨_, exec_registerWrite_layerDstXy l v hw hp hi, ?_⟩
    rw [State.lockedWrite, if_pos hpending]
    obtain ⟨hdie, hregs, hreg⟩ := s.raiseHead_onlyDieHost d Reg.cmpEvt 0x04 hp
    exact ⟨hdie, hregs, by rw [hreg]; simp⟩
  · intro hen
    rw [exec_registerWrite_recBaseLo v hw hp hi, dieWrite_recBaseLo_enabled v hw hen]
  · intro hen
    refine ⟨_, exec_registerWrite_recBaseLo v hw hp hi, ?_⟩
    rw [dieWrite_recBaseLo_off v hw hen]
    exact s.setReg_frame d _ v hp
  · obtain ⟨hmsg, hclear, hmask⟩ := Fn.msixWrite_unmask hbit hpend haddr
    refine ⟨_, exec_registerWrite_msixControl s f v hw hk, rfl, ?_⟩
    have hfn : ((s.onHost fun h => h.onFn f fun x => x.msixWrite k 3 v).host).fn f = (s.host.fn f).msixWrite k 3 v :=
      HostSide.fn_onFn_same s.host f fun x => x.msixWrite k 3 v
    rw [hfn]
    exact ⟨hmsg, hclear, hmask⟩

/-! ### The raster of a head -/

/-- What a head's raster consists of: its mode, whether it runs, its line and vertical total, and the committed state. -/
def Head.raster (x : Head) : Option Mode × Bool × Nat × Nat × Commit := (x.mode, x.running, x.line, x.vtotalNow, x.commit)

/-- Every canvas, and the raster of a head, are the same in two states. -/
structure State.KeepsRaster (h : DieIx) (s t : State) : Prop where
  canvases : t.canvases = s.canvases
  raster : (t.die h).head.raster = (s.die h).head.raster

namespace State.KeepsRaster

variable {h : DieIx} {s0 s t : State}

protected theorem refl (h : DieIx) (s : State) : s.KeepsRaster h s := ⟨rfl, rfl⟩

theorem trans (k : s0.KeepsRaster h s) (j : s.KeepsRaster h t) : s0.KeepsRaster h t :=
  ⟨j.canvases.trans k.canvases, j.raster.trans k.raster⟩

/-- A head without a canvas stays without one. -/
theorem headCanvas (k : s0.KeepsRaster h s) (hc : s0.headCanvas h = none) : s.headCanvas h = none := by
  rw [State.headCanvas, k.canvases]
  exact hc

theorem foldl {α : Type} {f : State → α → State} {l : List α} (hf : ∀ t x, s0.KeepsRaster h t → s0.KeepsRaster h (f t x))
    (k : s0.KeepsRaster h s) : s0.KeepsRaster h (l.foldl f s) := foldl_inv hf k

theorem ite {c : Prop} [Decidable c] (k : s0.KeepsRaster h s) (j : s0.KeepsRaster h t) : s0.KeepsRaster h (if c then s else t) := by
  split
  · exact k
  · exact j

theorem onDie (k : s0.KeepsRaster h s) (d : DieIx) {f : Die → Die} (hf : ∀ x : Die, (f x).head.raster = x.head.raster) :
    s0.KeepsRaster h (s.onDie d f) := by
  refine k.trans ⟨rfl, ?_⟩
  rw [State.die_onDie]
  split
  next e =>
    obtain ⟨rfl, -⟩ := e
    exact hf _
  next => rfl

theorem withHost (k : s0.KeepsRaster h s) (x : HostSide) : s0.KeepsRaster h (s.withHost x) := k.trans ⟨rfl, rfl⟩

theorem setReg (k : s0.KeepsRaster h s) (d : DieIx) (off : Nat) (w : Word) : s0.KeepsRaster h (s.setReg d off w) :=
  k.onDie d fun _ => rfl

theorem count (k : s0.KeepsRaster h s) (d : DieIx) (off n : Nat) : s0.KeepsRaster h (s.count d off n) := k.onDie d fun _ => rfl

theorem raise (k : s0.KeepsRaster h s) (d : DieIx) (evt mask : Nat) : s0.KeepsRaster h (s.raise d evt mask) :=
  (k.setReg d evt _).withHost _

theorem countRaise (k : s0.KeepsRaster h s) (d : DieIx) (cnt evt mask : Nat) : s0.KeepsRaster h (s.countRaise d cnt evt mask) :=
  (k.count d cnt 1).raise d evt mask

theorem raiseHead (k : s0.KeepsRaster h s) (d : DieIx) (evt mask : Nat) : s0.KeepsRaster h (s.raiseHead d evt mask) := by
  obtain ⟨x, e⟩ := s.raiseHead_frame d evt mask
  rw [e]
  exact (k.setReg d evt _).withHost x

theorem onLayer (k : s0.KeepsRaster h s) (d : DieIx) (l : LayerIx) (f : LayerRt → LayerRt) : s0.KeepsRaster h (s.onLayer d l f) :=
  k.onDie d fun _ => rfl

theorem onTask (k : s0.KeepsRaster h s) (slot : Fin 64) (f : Task → Task) : s0.KeepsRaster h (s.onTask slot f) := k.trans ⟨rfl, rfl⟩

/-! #### Scan-out -/

theorem wbLine (k : s0.KeepsRaster h s) (d : DieIx) (line : Nat) (px : List (BitVec 16)) (accept : Bool) :
    s0.KeepsRaster h (s.wbLine d line px accept) := by
  unfold State.wbLine
  dsimp only
  split
  · exact k
  · split
    · exact k.onDie d fun _ => rfl
    · exact ((k.count d _ 1).raiseHead d _ _).onDie d fun _ => rfl

theorem scanLine (k : s0.KeepsRaster h s) (d : DieIx) (line : Nat) (accept : Bool) :
    s0.KeepsRaster h (s.scanLine d line accept) := by
  unfold State.scanLine
  dsimp only
  split
  · exact k
  · exact ((k.setReg d _ _).onDie d fun _ => by rfl).wbLine d line _ accept

theorem endDown (k : s0.KeepsRaster h s) (d : DieIx) : s0.KeepsRaster h (s.endDown d) := by
  unfold State.endDown
  split
  · exact k
  · exact (k.onDie d fun _ => by rfl).count d _ _

theorem scanNow (k : s0.KeepsRaster h s) (d : DieIx) (line : Nat) (accept : Bool) :
    s0.KeepsRaster h (s.scanNow d line accept) := by
  unfold State.scanNow
  dsimp only
  exact ite ((k.scanLine d line accept).endDown d) ((k.scanLine d line accept).onDie d fun _ => rfl)

/-! #### Port layers -/

theorem reportHold (k : s0.KeepsRaster h s) (hc : s0.headCanvas h = none) (l : LayerIx) (old new : LayerRt) :
    s0.KeepsRaster h (s.reportHold h l old new) := by
  unfold State.reportHold
  simp only [k.headCanvas hc]
  exact ite (k.raiseHead h _ _) k

/-- A layer of a head without a canvas has no recurrent state to reset. -/
theorem setLayer (k : s0.KeepsRaster h s) (hc : s0.headCanvas h = none) (l : LayerIx) (new : LayerRt) :
    s0.KeepsRaster h (s.setLayer h l new) := by
  unfold State.setLayer
  simp only [k.headCanvas hc, ite_self]
  exact (k.onLayer h l _).reportHold hc l _ _

theorem retimePorts (k : s0.KeepsRaster h s) (hc : s0.headCanvas h = none) : s0.KeepsRaster h (s.retimePorts h) := by
  unfold State.retimePorts
  dsimp only
  split
  · exact k
  · refine k.foldl fun t l j => ?_
    split
    · exact j.setLayer hc l _
    · exact j

theorem soloLine (k : s0.KeepsRaster h s) (hc : s0.headCanvas h = none) (r first : Int) :
    s0.KeepsRaster h (s.soloLine h r first) := ite (k.retimePorts hc) k

/-! #### The fetch -/

theorem portVectors (k : s0.KeepsRaster h s) (d : DieIx) (badVector : List LayerIx) :
    s0.KeepsRaster h (s.portVectors d badVector) :=
  k.foldl fun _ l j => (j.onLayer d l _).countRaise d _ _ _

/-- A head without a canvas has no parts to mark as read. -/
theorem partsRead (k : s0.KeepsRaster h s) (hc : s0.headCanvas h = none) (line : Nat) :
    s0.KeepsRaster h (s.partsRead h line) := by
  unfold State.partsRead
  simp only [k.headCanvas hc]
  exact k

theorem fetchLine (k : s0.KeepsRaster h s) (hc : s0.headCanvas h = none) (line : Nat) (badRows badVector : List LayerIx) :
    s0.KeepsRaster h (s.fetchLine h line badRows badVector) := by
  have kp := k.portVectors h badVector
  unfold State.fetchLine
  exact ((ite kp ((kp.count h _ _).raise h _ _)).onDie h fun _ => by rfl).partsRead hc line

/-! #### Task slots -/

theorem skipTask (k : s0.KeepsRaster h s) (slot : Fin 64) : s0.KeepsRaster h (s.skipTask slot) :=
  (k.onTask slot _).countRaise 0 _ _ _

theorem taskLine (k : s0.KeepsRaster h s) (d : DieIx) (line : Nat) (slot : Fin 64) :
    s0.KeepsRaster h (s.taskLine d line slot) := by
  unfold State.taskLine
  exact ite k (ite (k.onTask slot _) ((ite ((k.onTask slot _).skipTask slot) (k.onTask slot _)).onTask slot _))

theorem serveBus (k : s0.KeepsRaster h s) (bus : Nat) : s0.KeepsRaster h (s.serveBus bus) := by
  exact k.foldl fun _ e j => ite j (ite (j.skipTask e.2) (j.onTask e.2 _))

theorem senseLine (k : s0.KeepsRaster h s) (d : DieIx) (line : Nat) : s0.KeepsRaster h (s.senseLine d line) :=
  (k.foldl fun _ slot j => j.taskLine d line slot).foldl fun _ bus j => j.serveBus bus

/-- The work of a line of a head without a canvas leaves its raster and every canvas as they are. -/
theorem lineWork (k : s0.KeepsRaster h s) (hc : s0.headCanvas h = none) (m : Mode) (inp : LineIn) :
    s0.KeepsRaster h (s.lineWork h m inp) := by
  unfold State.lineWork
  dsimp only
  have k1 := ite (c := 0 ≤ (s.die h).head.relLine m.h ∧ (s.die h).head.relLine m.h < m.h)
    (k.scanNow h ((s.die h).head.relLine m.h).toNat inp.wbAccept) k
  rw [k1.headCanvas hc]
  have k2 := k1.soloLine hc ((s.die h).head.relLine m.h) ((m.h : Int) - (s.die h).head.vtotalNow)
  exact (ite (k2.fetchLine hc _ _ _) k2).senseLine h _

end State.KeepsRaster

/-! ### LINE_START -/

/-- The line that a head goes on to: 0 after the last of its frame (R37). -/
def Head.nextLine (x : Head) : Nat := if x.vtotalNow ≤ x.line + 1 then 0 else x.line + 1

theorem State.head_advanceLine {s : State} {h : DieIx} (hp : s.present h = true) :
    ((s.advanceLine h).die h).head = { (s.die h).head with line := (s.die h).head.nextLine } := by
  rw [State.advanceLine, s.die_onDie_same h hp]
  rfl

/-- A running head that does not wait, on a line that is no frame boundary, goes on to its next line and does that line's work. -/
theorem fxLineStart_within_frame {s : State} {h : DieIx} {m : Mode} (inp : LineIn) (hp : s.present h = true)
    (hm : (s.die h).head.mode = some m) (hrun : (s.die h).head.running = true) (hwait : (s.die h).head.te.waiting = false)
    (hne : (s.die h).head.nextLine ≠ m.h) : fxLineStart h inp s = (s.advanceLine h).lineWork h m inp := by
  simp only [fxLineStart, State.head_advanceLine hp, hm, hrun, hwait, hne, Bool.true_eq_false, Bool.false_eq_true, or_self, if_true, if_false]

/-- Settles O18: within a frame LINE_START moves the line on, and the rest of its work keeps the raster. -/
theorem lineCounterAdvances : Obligations.line_counter_advances := by
  unfold Obligations.line_counter_advances
  intro s h inp m hp hc x next hm hrun hwait hne
  have e := fxLineStart_within_frame inp hp hm hrun hwait hne
  have hc' : (s.advanceLine h).headCanvas h = none := hc
  have k : (s.advanceLine h).KeepsRaster h (fxLineStart h inp s) := by
    rw [e]
    exact (State.KeepsRaster.refl h (s.advanceLine h)).lineWork hc' m inp
  have hr := k.raster
  rw [State.head_advanceLine hp] at hr
  simp only [Head.raster, Prod.mk.injEq] at hr
  obtain ⟨hmode, hrunning, hline, hvtotal, hcommit⟩ := hr
  exact ⟨_, rfl, hline, hmode.trans hm, hrunning.trans hrun, hvtotal, hcommit, k.canvases⟩

end Sys2Proof.Machine
end

section
/-! SUPPORT. Proofs of the statements of 02_raster_pipeline. -/

namespace Sys2Proof.Machine

/-! ### Lists and stores -/

theorem find?_updFirst_of_find? {α : Type} {p q : α → Bool} {f : α → α} {l : List α} {x : α} (h : l.find? q = some x)
    (hx : p x = true) (hpq : ∀ y, p y = true → q y = true) (hf : q (f x) = true) : (updFirst p f l).find? q = some (f x) := by
  induction l with
  | nil => simp at h
  | cons y rest ih =>
    by_cases hq : q y = true
    · rw [List.find?_cons_of_pos hq, Option.some.injEq] at h
      subst h
      simp [updFirst, hx, hf]
    · rw [List.find?_cons_of_neg hq] at h
      have hp : ¬ p y = true := fun e => hq (hpq y e)
      simp [updFirst, hp, hq, ih h]

theorem find?_updFirst_of_disjoint {α : Type} {p q : α → Bool} {f : α → α} (l : List α)
    (h : ∀ y, p y = true → q y = false ∧ q (f y) = false) : (updFirst p f l).find? q = l.find? q := by
  induction l with
  | nil => rfl
  | cons y rest ih =>
    rw [updFirst]
    split
    · obtain ⟨hy, hfy⟩ := h y ‹_›
      simp [hy, hfy]
    · simp [List.find?_cons, ih]

/-- A fold reaches what one of its elements establishes, where every element keeps what is needed and what is reached. -/
theorem foldl_reaches {σ α : Type} {P Q : σ → Prop} {f : σ → α → σ} {l : List α} {x : σ} {a : α} (ha : a ∈ l)
    (keepP : ∀ y, ∀ b ∈ l, P y → P (f y b)) (keepQ : ∀ y, ∀ b ∈ l, Q y → Q (f y b)) (make : ∀ y, P y → Q (f y a)) (h : P x) :
    Q (l.foldl f x) := by
  induction l generalizing x with
  | nil => simp at ha
  | cons b rest ih =>
    obtain rfl | ha := List.mem_cons.mp ha
    · exact List.foldlRecOn rest f (make x h) fun y hy c hc => keepQ y c (List.mem_cons_of_mem _ hc) hy
    · exact ih ha (fun y c hc => keepP y c (List.mem_cons_of_mem _ hc)) (fun y c hc => keepQ y c (List.mem_cons_of_mem _ hc))
        (keepP x b List.mem_cons_self h)

section
variable {s : State} {cv v : CanvasId} {c : Canvas}

theorem State.id_of_canvas (h : s.canvas cv = some c) : c.id = cv := by
  simpa using List.find?_some h

theorem State.canvas_onCanvas_same {f : Canvas → Canvas} (h : s.canvas cv = some c) (hf : (f c).id = cv) :
    (s.onCanvas cv f).canvas cv = some (f c) :=
  find?_updFirst_of_find? h (by simp [State.id_of_canvas h]) (fun _ => id) (by simp [hf])

theorem State.canvas_onCanvas_ne {f : Canvas → Canvas} (hf : ∀ k, (f k).id = k.id) (ne : v ≠ cv) :
    (s.onCanvas cv f).canvas v = s.canvas v :=
  find?_updFirst_of_disjoint _ fun k hk => by
    rw [beq_iff_eq] at hk
    simp [hf, hk, ne.symm]

end

/-! ### Reports -/

/-- What a report leaves in a state: registers, the recorder with its ring in DRAM, and the host side may differ. -/
structure State.OnlyReports (s t : State) : Prop where
  frame : t = { s with dies := t.dies, fns := t.fns, hostRegs := t.hostRegs, hostMem := t.hostMem }
  die : ∀ e, t.die e = { s.die e with regs := (t.die e).regs, dram := (t.die e).dram, recorder := (t.die e).recorder }

namespace State.OnlyReports

variable {s0 s t : State}

protected theorem refl (s : State) : s.OnlyReports s := ⟨rfl, fun _ => rfl⟩

theorem trans (h : s0.OnlyReports s) (k : s.OnlyReports t) : s0.OnlyReports t := by
  refine ⟨?_, fun e => ?_⟩
  · rw [k.frame, h.frame]
  · rw [k.die e, h.die e]

theorem ite {c : Prop} [Decidable c] (h : s0.OnlyReports s) (k : s0.OnlyReports t) : s0.OnlyReports (if c then s else t) := by
  split
  · exact h
  · exact k

theorem onDie (h : s0.OnlyReports s) (d : DieIx) {f : Die → Die}
    (hf : ∀ x, f x = { x with regs := (f x).regs, dram := (f x).dram, recorder := (f x).recorder }) :
    s0.OnlyReports (s.onDie d f) := by
  refine h.trans ⟨rfl, fun e => ?_⟩
  rw [State.die_onDie]
  split
  next he =>
    obtain ⟨rfl, -⟩ := he
    exact hf _
  next => rfl

theorem withHost (h : s0.OnlyReports s) (x : HostSide) : s0.OnlyReports (s.withHost x) := h.trans ⟨rfl, fun _ => rfl⟩

theorem onHost (h : s0.OnlyReports s) (f : HostSide → HostSide) : s0.OnlyReports (s.onHost f) := h.withHost _

theorem setReg (h : s0.OnlyReports s) (d : DieIx) (off : Nat) (w : Word) : s0.OnlyReports (s.setReg d off w) :=
  h.onDie d fun _ => rfl

theorem countRaise (h : s0.OnlyReports s) (d : DieIx) (cnt evt mask : Nat) : s0.OnlyReports (s.countRaise d cnt evt mask) :=
  ((h.onDie d fun _ => rfl).setReg d evt _).withHost _

theorem raise (h : s0.OnlyReports s) (d : DieIx) (evt mask : Nat) : s0.OnlyReports (s.raise d evt mask) :=
  (h.setReg d evt _).withHost _

theorem canvasEvent (h : s0.OnlyReports s) (c : Canvas) (kind layer value : Nat) :
    s0.OnlyReports (s.canvasEvent c kind layer value) := h.onHost _

/-! #### The recorder -/

theorem loseRecord (h : s0.OnlyReports s) (d : DieIx) : s0.OnlyReports (s.loseRecord d) :=
  (h.onDie d fun _ => by rfl).countRaise d _ _ _

theorem ringWrite (h : s0.OnlyReports s) (d : DieIx) (bs : Die → List Byte) : s0.OnlyReports (s.onDie d fun x => x.ringWrite (bs x)) :=
  h.onDie d fun _ => by rfl

theorem recordOne (h : s0.OnlyReports s) (d : DieIx) (tick : Nat) (r : Rec) : s0.OnlyReports (s.recordOne d tick r) := by
  unfold State.recordOne
  dsimp only
  exact ite h (ite (h.loseRecord d) (ite ((h.onDie d fun _ => by rfl).raise d _ _) ((ite (h.ringWrite d _) h).ringWrite d _)))

theorem recordGap (h : s0.OnlyReports s) (d : DieIx) (tick : Nat) : s0.OnlyReports (s.recordGap d tick) := by
  unfold State.recordGap
  exact ite h ((h.onDie d fun _ => by rfl).recordOne d tick _)

theorem record (h : s0.OnlyReports s) (d : DieIx) (tick : Nat) (r : Rec) : s0.OnlyReports (s.record d tick r) := by
  unfold State.record
  split
  · exact h.onDie d fun _ => by rfl
  · exact ((h.recordGap d tick).recordOne d tick r).recordGap d tick

theorem recordEvent (h : s0.OnlyReports s) (kind : Nat) (cv : Option CanvasId) (step : Dword) (w : List Byte) :
    s0.OnlyReports (s.recordEvent kind cv step w) := by
  unfold State.recordEvent
  exact ite h (h.record 0 _ _)

/-! #### What a report leaves -/

theorem canvases (h : s.OnlyReports t) : t.canvases = s.canvases := by rw [h.frame]

theorem gsc (h : s.OnlyReports t) : t.gsc = s.gsc := by rw [h.frame]

theorem canvas (h : s.OnlyReports t) (cv : CanvasId) : t.canvas cv = s.canvas cv := by rw [State.canvas, h.canvases]; rfl

end State.OnlyReports

/-! ### The hold limit -/

/-- A layer held past the limit and not yet filled is marked for the fill of the next frame boundary (R69). -/
theorem fxHoldLimitExpiry_expired {s : State} {h : DieIx} {l : LayerIx} {from_ : Nat}
    (hheld : (s.die h).head.layers[l.val].held = true) (hfill : (s.die h).head.layers[l.val].fill = false)
    (hfrom : (s.die h).head.layers[l.val].holdFrom = some from_)
    (hlimit : 100_000 * (s.die h).field Reg.cmpHoldLimit 15 0 ≤ s.gsc - from_) :
    fxHoldLimitExpiry h l s = s.onLayer h l fun _ => { (s.die h).head.layers[l.val] with fillNext := some true } := by
  simp only [fxHoldLimitExpiry, hfrom, hheld, hfill, hlimit, and_self, if_true]
  rfl

/-- Changing a layer of a head changes that layer and nothing else. -/
theorem State.onLayer_frame (s : State) (h : DieIx) (l : LayerIx) (f : LayerRt → LayerRt) (hp : s.present h = true) :
    s.OnlyDie (s.onLayer h l f) h ∧
      (s.onLayer h l f).die h =
        { s.die h with head := { (s.die h).head with layers := ((s.onLayer h l f).die h).head.layers } } ∧
      ((s.onLayer h l f).die h).head.layers[l.val] = f (s.die h).head.layers[l.val] ∧
      ∀ k : LayerIx, k ≠ l → ((s.onLayer h l f).die h).head.layers[k.val] = (s.die h).head.layers[k.val] := by
  refine ⟨s.onlyDie_onDie h _, ?_, ?_, fun k hk => ?_⟩
  all_goals rw [State.onLayer, s.die_onDie_same h hp]
  · exact Vector.getElem_set_self _
  · exact Vector.getElem_set_ne l.isLt k.isLt fun e => hk (Fin.ext e.symm)

/-- Settles O17: past the limit the expiry is an update of one layer. -/
theorem holdLimitBeginsFill : Obligations.hold_limit_begins_fill := by
  unfold Obligations.hold_limit_begins_fill
  intro s h l from_ hp x hheld hfill hfrom hlimit
  refine ⟨_, rfl, ?_⟩
  rw [fxHoldLimitExpiry_expired hheld hfill hfrom hlimit]
  exact s.onLayer_frame h l _ hp

/-! ### The choice at the deadline (R44) -/

section
variable {s : State} {c : Canvas} {p : PartSt}

theorem State.choose_of_forced (h : s.forcedPart c p = true) : s.choose c p = .forced := if_pos h

theorem State.choose_of_source (hf : s.forcedPart c p = false) (hs : s.sourcePart c p = true) : s.choose c p = .source := by
  simp [State.choose, hf, hs]

theorem State.choose_of_fault (hf : s.forcedPart c p = false) (hs : s.sourcePart c p = false)
    (h : p.failed.isSome = true ∨ p.abandoned = true) : s.choose c p = .fault := by
  simp only [State.choose, hf, hs, h, Bool.false_eq_true, if_false, if_true]

/-- The cause of a part that neither failed nor was abandoned. -/
def PartSt.judged (p : PartSt) : Cause :=
  if p.complete = false then .late
  else match p.verdict with
    | none => .late
    | some false => .reject
    | some true => .neural

theorem State.choose_of_judged (hf : s.forcedPart c p = false) (hs : s.sourcePart c p = false) (h1 : p.failed = none)
    (h2 : p.abandoned = false) : s.choose c p = p.judged := by
  have h : ¬ (p.failed.isSome = true ∨ p.abandoned = true) := by simp [h1, h2]
  simp only [State.choose, hf, hs, h, Bool.false_eq_true, if_false]
  rfl

/-- A die that restarts, is latched off or is not ARMED takes no neural work, nor does any in OP3. -/
theorem State.neuralOn_eq_false_iff (s : State) (d : DieIx) : s.neuralOn d = false ↔
    s.power.point = .op3 ∨ (s.die d).sfn.restart.isSome = true ∨ (s.die d).sfn.latchedOff = true ∨ (s.die d).sfn.phase ≠ .armed := by
  simp only [State.neuralOn, Bool.and_eq_false_iff, bne_eq_false_iff_eq, Option.isNone_eq_false_iff, Bool.not_eq_false',
    beq_eq_false_iff_ne, or_assoc]

theorem State.forcedPart_of_neuralOff (h : s.neuralOn p.computeDie = false) : s.forcedPart c p = true := by
  simp [State.forcedPart, h]

theorem State.sourcePart_of_layer (h : (s.die p.id.head).head.layers[p.id.layer.val].withheld = true ∨
    ((∃ e, c.layerEntry p.id.layer = some e ∧ e.source ≠ 0xFF) ∧ ((s.die p.id.head).head.layers[p.id.layer.val].held = true ∨
      (s.die p.id.head).head.layers[p.id.layer.val].fill = true ∨ c.changing = true))) : s.sourcePart c p = true := by
  unfold State.sourcePart
  rcases h with h | ⟨⟨e, he, hne⟩, h | h | h⟩
  · simp [h]
  all_goals simp [he, hne, h]

end

/-! ### Latching a choice (R50) -/

/-- The counter of a choice by its place in a die. -/
def Die.choiceCount (x : Die) (k : Nat) : BitVec 64 := sGet (fun _ => 0) x.choices k

theorem Die.choiceCount_countChoice_eq (x : Die) (l : LayerIx) (cause : Cause) (k : Nat) :
    (x.countChoice l cause).choiceCount k = if l.val * 8 + cause.code = k then
      (if x.choiceCount (l.val * 8 + cause.code) = BitVec.allOnes 64 then x.choiceCount (l.val * 8 + cause.code)
       else x.choiceCount (l.val * 8 + cause.code) + 1) else x.choiceCount k :=
  sGet_sSet _ _ _ _

/-- A counter after one more choice: a full one stays full. -/
theorem Die.choiceCount_countChoice (x : Die) (l : LayerIx) (cause : Cause) (k : Nat) :
    (x.countChoice l cause).choiceCount k =
      x.choiceCount k + (if x.choiceCount k ≠ BitVec.allOnes 64 ∧ k = l.val * 8 + cause.code then 1 else 0) := by
  rw [Die.choiceCount_countChoice_eq]
  by_cases hk : l.val * 8 + cause.code = k
  · subst hk
    by_cases hfull : x.choiceCount (l.val * 8 + cause.code) = BitVec.allOnes 64
    · rw [if_pos rfl, if_pos hfull, if_neg fun h => h.1 hfull]
      exact (BitVec.add_zero _).symm
    · rw [if_pos rfl, if_neg hfull, if_pos ⟨hfull, rfl⟩]
  · simp [hk, Ne.symm hk]

/-- The counters that a latched choice adds to. -/
def Die.countLatched (x : Die) (l : LayerIx) (cause : Cause) (degraded : Bool) : Die :=
  if cause = .neural ∧ degraded = true then (x.countChoice l cause).countChoice l .degraded else x.countChoice l cause

theorem Die.choiceCount_countLatched (x : Die) (l : LayerIx) (cause : Cause) (degraded : Bool) (k : Nat) :
    (x.countLatched l cause degraded).choiceCount k = x.choiceCount k +
      (if x.choiceCount k ≠ BitVec.allOnes 64 ∧ (k = l.val * 8 + cause.code ∨
        (k = l.val * 8 + Cause.degraded.code ∧ cause = .neural ∧ degraded = true)) then 1 else 0) := by
  unfold Die.countLatched
  by_cases h : cause = .neural ∧ degraded = true
  · obtain ⟨rfl, rfl⟩ := h
    have hne : Cause.neural.code ≠ Cause.degraded.code := by decide
    by_cases hk : k = l.val * 8 + Cause.neural.code
    · subst hk
      simp [Die.choiceCount_countChoice, hne]
    · simp [Die.choiceCount_countChoice, hk]
  · rw [if_neg h, Die.choiceCount_countChoice]
    simp [h]

/-- Every canvas and every choice counter are the same in two states. -/
def State.SameChoices (s t : State) : Prop := t.canvases = s.canvases ∧ ∀ e, (t.die e).choices = (s.die e).choices

theorem State.SameChoices.onDie {s0 s : State} (h : s0.SameChoices s) (d : DieIx) {f : Die → Die}
    (hf : ∀ x, (f x).choices = x.choices) : s0.SameChoices (s.onDie d f) := by
  refine ⟨h.1, fun e => ?_⟩
  rw [State.die_onDie]
  split
  next he =>
    obtain ⟨rfl, -⟩ := he
    exact (hf _).trans (h.2 d)
  next => exact h.2 e

/-- A state in which the choice of a part is stored and counted. -/
def State.storeChoice (s : State) (c : Canvas) (p : PartSt) (cause : Cause) : State :=
  (s.onPart c.id p.frame p.id fun q => { q with choice := some cause }).onDie p.id.head fun x =>
    x.countLatched p.id.layer cause p.degraded

/-- Besides storing and counting the choice, latching reports it and takes the part into the history. -/
theorem State.latchPart_frame (s : State) (c : Canvas) (p : PartSt) (cause : Cause) :
    (s.storeChoice c p cause).SameChoices (s.latchPart c p cause) := by
  have h3 : (s.storeChoice c p cause).SameChoices
      (if cause = .late then (s.storeChoice c p cause).timing 1 else s.storeChoice c p cause) := by
    split
    · exact State.SameChoices.onDie ⟨rfl, fun _ => rfl⟩ 0 fun _ => rfl
    · exact ⟨rfl, fun _ => rfl⟩
  unfold State.latchPart
  cases c.layerEntry p.id.layer with
  | none =>
    dsimp only
    split
    · exact h3
    · exact h3
  | some x =>
    have h4 := h3.onDie p.id.head (f := fun d =>
      { d with sfn := { d.sfn with history := (d.sfn.history.filter fun e => e.part != p.id) ++ [c.newHistory x p cause] } }) fun _ => rfl
    dsimp only
    split
    · exact h4
    · exact h4

/-- The count of a choice counter of a die after a choice is latched (R50). -/
theorem State.choiceCount_latchPart (s : State) (c : Canvas) (p : PartSt) (cause : Cause) (hp : s.present p.id.head = true)
    (d : DieIx) (k : Nat) : ((s.latchPart c p cause).die d).choiceCount k = (s.die d).choiceCount k +
      (if d = p.id.head ∧ (s.die d).choiceCount k ≠ BitVec.allOnes 64 ∧ (k = p.id.layer.val * 8 + cause.code ∨
        (k = p.id.layer.val * 8 + Cause.degraded.code ∧ cause = .neural ∧ p.degraded = true)) then 1 else 0) := by
  have e : ((s.latchPart c p cause).die d).choiceCount k = ((s.storeChoice c p cause).die d).choiceCount k := by
    rw [Die.choiceCount, (s.latchPart_frame c p cause).2 d, Die.choiceCount]
  rw [e, State.storeChoice]
  by_cases hd : d = p.id.head
  · subst hd
    rw [State.die_onDie_same _ _ (show (s.onPart _ _ _ _).present _ = true from hp), Die.choiceCount_countLatched]
    simp only [true_and]
    rfl
  · rw [State.die_onDie_ne _ _ _ (Ne.symm hd)]
    simp only [hd, false_and, if_false]
    exact (BitVec.add_zero _).symm

theorem State.canvas_latchPart (s : State) (c : Canvas) (p : PartSt) (cause : Cause) :
    (s.latchPart c p cause).canvas c.id = (s.onPart c.id p.frame p.id fun q => { q with choice := some cause }).canvas c.id := by
  rw [State.canvas, (s.latchPart_frame c p cause).1]
  rfl

/-- A part of a canvas that is changed is found as changed. -/
theorem State.onPart_find {s : State} {cv : CanvasId} {c : Canvas} {frame : Nat} {id : PartId} {q : PartSt} {f : PartSt → PartSt}
    (hc : s.canvas cv = some c) (hq : c.parts.find? (fun r => r.id == id && r.frame == frame) = some q)
    (hf : (f q).id = q.id ∧ (f q).frame = q.frame) :
    ∃ k, (s.onPart cv frame id f).canvas cv = some k ∧ k.parts.find? (fun r => r.id == id && r.frame == frame) = some (f q) := by
  have hp := List.find?_some hq
  have hid : c.id = cv := State.id_of_canvas hc
  exact ⟨_, State.canvas_onCanvas_same hc hid, find?_updFirst_of_find? hq hp (fun _ h => h) (by rw [hf.1, hf.2]; exact hp)⟩

/-- Settles O19: the rows of Table 2.2 are the branches of `choose`, and latching counts once. -/
theorem deadlineChoice : Obligations.deadline_choice := by
  unfold Obligations.deadline_choice
  refine ⟨fun s c p => ⟨fun h => ?_, fun hf h => ?_, fun hf hs => ⟨State.choose_of_fault hf hs, fun h1 h2 => ?_⟩⟩,
    fun s c p cause hp => ⟨fun q hc hq => ?_, s.choiceCount_latchPart c p cause hp⟩⟩
  · exact State.choose_of_forced (State.forcedPart_of_neuralOff ((s.neuralOn_eq_false_iff _).mpr h))
  · exact State.choose_of_source hf (State.sourcePart_of_layer h)
  · rw [State.choose_of_judged hf hs h1 h2]
    refine ⟨fun hc => ?_, fun hc => ⟨fun hv => ?_, fun hv => ?_, fun hv => ?_⟩⟩
    all_goals simp [PartSt.judged, *]
  · rw [s.canvas_latchPart c p cause]
    exact State.onPart_find hc hq ⟨rfl, rfl⟩

/-! ### A change of lock (R59) -/

section
variable {s : State} {cv v : CanvasId} {c : Canvas} {f : Lock → Lock}

/-- The canvas whose lock changes, and what besides it: a report where the lock's state changes. -/
theorem State.setLock_frame (h : s.canvas cv = some c) (f : Lock → Lock) :
    (s.onCanvas cv fun k => { k with lock := f c.lock }).OnlyReports (s.setLock cv f) := by
  simp only [State.setLock, h]
  split
  · exact .refl _
  · exact (((State.OnlyReports.refl _).canvasEvent _ _ _ _).raise _ _ _).recordEvent _ _ _ _

theorem State.setLock_of_same_state (h : s.canvas cv = some c) (hf : (f c.lock).state = c.lock.state) :
    s.setLock cv f = s.onCanvas cv fun k => { k with lock := f c.lock } := by
  simp only [State.setLock, h]
  exact if_pos hf

theorem State.canvas_setLock_same (h : s.canvas cv = some c) (f : Lock → Lock) :
    (s.setLock cv f).canvas cv = some { c with lock := f c.lock } := by
  rw [(State.setLock_frame h f).canvas]
  exact State.canvas_onCanvas_same h (State.id_of_canvas (c := c) h)

theorem State.setLock_of_none (h : s.canvas cv = none) (f : Lock → Lock) : s.setLock cv f = s := by
  simp only [State.setLock, h]

theorem State.canvas_setLock_ne (s : State) (f : Lock → Lock) (ne : v ≠ cv) : (s.setLock cv f).canvas v = s.canvas v := by
  cases h : s.canvas cv with
  | none => rw [State.setLock_of_none h]
  | some c =>
    rw [(State.setLock_frame h f).canvas]
    exact State.canvas_onCanvas_ne (fun _ => by rfl) ne

end

/-! ### The raster under a change of lock -/

/-- Time, the PTP map, and every head with its settings in force are the same in two states: what a reference is measured by. -/
structure State.SameRaster (s t : State) : Prop where
  gsc : t.gsc = s.gsc
  ptp : t.ptp = s.ptp
  head : ∀ e, (t.die e).head = (s.die e).head
  force : ∀ e, (t.die e).force = (s.die e).force

namespace State.SameRaster

variable {s0 s t : State}

protected theorem refl (s : State) : s.SameRaster s := ⟨rfl, rfl, fun _ => rfl, fun _ => rfl⟩

theorem trans (h : s0.SameRaster s) (k : s.SameRaster t) : s0.SameRaster t :=
  ⟨k.gsc.trans h.gsc, k.ptp.trans h.ptp, fun e => (k.head e).trans (h.head e), fun e => (k.force e).trans (h.force e)⟩

theorem of_reports (h : s.OnlyReports t) : s.SameRaster t :=
  ⟨h.gsc, by rw [h.frame], fun e => by rw [h.die e], fun e => by rw [h.die e]⟩

theorem setLock (h : s0.SameRaster s) (cv : CanvasId) (f : Lock → Lock) : s0.SameRaster (s.setLock cv f) := by
  cases hc : s.canvas cv with
  | none => rwa [State.setLock_of_none hc]
  | some c =>
    have k := of_reports (State.setLock_frame hc f)
    exact h.trans ⟨k.gsc, k.ptp, k.head, k.force⟩

theorem fField (h : s.SameRaster t) (d : DieIx) (off hi lo : Nat) : (t.die d).fField off hi lo = (s.die d).fField off hi lo := by
  simp only [Die.fField, Die.inForce, h.force]

theorem lockOffset (h : s.SameRaster t) (c : Canvas) : t.lockOffset c = s.lockOffset c := by
  simp only [State.lockOffset, h.fField]

theorem rasterClocks (h : s.SameRaster t) (c : Canvas) (pixel : Nat) : t.rasterClocks c pixel = s.rasterClocks c pixel := by
  simp only [State.rasterClocks, State.leadHead, h.head]

theorem follows (h : s.SameRaster t) (c : Canvas) (source : Nat) : t.follows c source = s.follows c source := by
  simp only [State.follows, State.inCommand, h.head, h.fField]

end State.SameRaster

/-! ### A reference (R60, R61) -/

/-- The place where a raster meets its reference: that of the first reference since line mode placed it, else the lock's target. -/
def Lock.placed (x : Lock) (place : Int) : Option Int := if x.retarget then some place else x.target

/-- A lock with the target that a reference at a place sets. -/
def Lock.aim (x : Lock) (place : Int) : Lock := if x.retarget then { x with retarget := false, target := some place } else x

theorem Lock.aim_spec (x : Lock) (place : Int) : (x.aim place).target = x.placed place ∧ (x.aim place).retarget = false ∧
    (x.aim place).state = x.state ∧ (x.aim place).trim = x.trim ∧ (x.aim place).edges = x.edges := by
  unfold Lock.aim Lock.placed
  split
  · exact ⟨rfl, rfl, rfl, rfl, rfl⟩
  · exact ⟨rfl, Bool.eq_false_iff.mpr ‹_›, rfl, rfl, rfl⟩

/-- The state after a reference: FREE, and HOLDOVER at its second edge, become ACQUIRE. -/
def Lock.stateAfter (x : Lock) : LockState :=
  match x.state with
  | .free => .acquire
  | .holdover => if 1 ≤ x.edges then .acquire else .holdover
  | .acquire => .acquire
  | .locked => .locked

theorem Lock.reference_spec (x : Lock) (now : Nat) (err : Int) :
    (x.reference now err).lastRef = now ∧ (x.reference now err).phaseErr = err ∧ (x.reference now err).target = x.target ∧
      (x.reference now err).retarget = x.retarget ∧ (x.reference now err).trim = x.trim ∧
      (x.reference now err).state = x.stateAfter := by
  unfold Lock.reference Lock.stateAfter
  cases hs : x.state with
  | free => exact ⟨rfl, rfl, rfl, rfl, rfl, rfl⟩
  | acquire => exact ⟨rfl, rfl, rfl, rfl, rfl, rfl⟩
  | locked => exact ⟨rfl, rfl, rfl, rfl, rfl, rfl⟩
  | holdover =>
    by_cases he : 1 ≤ x.edges
    · simp [he]
    · simp [he]

/-- A lock that takes a reference, where the place wanted is `nominal`. -/
def Lock.take (x : Lock) (c : Canvas) (now : Nat) (at_ nominal : Int) : Lock :=
  (x.aim (at_ - nominal)).reference now (c.clockErr at_ (nominal + (x.aim (at_ - nominal)).target.getD 0))

theorem State.lockTo_eq (s : State) (c : Canvas) (at_ want : Int) : s.lockTo c at_ want =
    s.setLock c.id fun x => x.take c s.gsc at_ (want - s.lockOffset c * (c.binding.htotal : Nat)) := rfl

theorem Lock.take_spec (x : Lock) (c : Canvas) (now : Nat) (at_ nominal : Int) :
    (x.take c now at_ nominal).lastRef = now ∧ (x.take c now at_ nominal).target = x.placed (at_ - nominal) ∧
      (x.take c now at_ nominal).phaseErr = c.clockErr at_ (nominal + (x.take c now at_ nominal).target.getD 0) ∧
      (x.take c now at_ nominal).retarget = false ∧ (x.take c now at_ nominal).trim = x.trim ∧
      (x.take c now at_ nominal).state = x.stateAfter := by
  obtain ⟨htarget, hretarget, hstate, htrim, hedges⟩ := x.aim_spec (at_ - nominal)
  obtain ⟨hr1, hr2, hr3, hr4, hr5, hr6⟩ := (x.aim (at_ - nominal)).reference_spec now
    (c.clockErr at_ (nominal + (x.aim (at_ - nominal)).target.getD 0))
  refine ⟨hr1, hr3.trans htarget, ?_, hr4.trans hretarget, hr5.trans htrim, ?_⟩
  · rw [Lock.take, hr3, hr2]
  · rw [Lock.take, hr6, Lock.stateAfter, hstate, hedges]
    rfl

/-! ### GENLOCK_EDGE and HOLDOVER -/

section
variable {s : State} {cv : CanvasId} {c : Canvas}

theorem State.follows_eq (hr : c.replays = false) (hcmd : s.inCommand c.stepDie = false) (source : Nat) :
    s.follows c source = (c.binding.lock == source) := by
  simp [State.follows, hr, hcmd]

theorem fxGenlockEdge_taken {ref : Fin 9} (pixel : Nat) (hc : s.canvas cv = some c) (hr : c.replays = false)
    (hcmd : s.inCommand c.stepDie = false) (h : c.binding.lock = 0 ∧ (s.die c.stepDie).fField Reg.clkLockCfg 3 0 = ref.val) :
    fxGenlockEdge cv ref pixel s = s.lockTo c (s.rasterClocks c pixel) 0 := by
  simp [fxGenlockEdge, hc, State.follows_eq hr hcmd, h]

theorem fxGenlockEdge_ignored {ref : Fin 9} (pixel : Nat) (hc : s.canvas cv = some c) (hr : c.replays = false)
    (hcmd : s.inCommand c.stepDie = false) (h : ¬ (c.binding.lock = 0 ∧ (s.die c.stepDie).fField Reg.clkLockCfg 3 0 = ref.val)) :
    fxGenlockEdge cv ref pixel s = s := by
  simp only [fxGenlockEdge, hc, State.follows_eq hr hcmd]
  exact if_neg (by simpa using h)

/-- A lock that loses its reference. -/
def Lock.lost (x : Lock) : Lock := { x with state := .holdover, good := 0, bad := 0, edges := 0 }

theorem fxHoldover_lost (hc : s.canvas cv = some c) (hr : c.replays = false) (hcmd : s.inCommand c.stepDie = false)
    (hs : c.lock.state = .acquire ∨ c.lock.state = .locked) (hl : c.binding.lock = 1 ∨
      (c.binding.lock = 0 ∧ 3 * s.refDiv c * 10 ^ 11 ≤ (s.gsc - c.lock.lastRef) * c.binding.rate)) :
    fxHoldover cv s = s.setLock cv Lock.lost := by
  have hf : (s.follows c 0 || s.follows c 1) = true := by
    rw [State.follows_eq hr hcmd, State.follows_eq hr hcmd]
    obtain h | ⟨h, -⟩ := hl <;> simp [h]
  have hlate : s.refLate c = true := by
    unfold State.refLate
    obtain h | ⟨-, h⟩ := hl <;> simp only [h, beq_self_eq_true, decide_true, Bool.true_or, Bool.or_true]
  simp only [fxHoldover, hc]
  exact if_pos ⟨hs, hf, hlate⟩

end

/-! ### PTP_MESSAGE -/

/-- A lock has taken the reference of a Sync: what a canvas's lock holds, whatever lock `x` it had before the message. -/
structure Lock.Took (k x : Lock) (c : Canvas) (now : Nat) (at_ nominal : Int) : Prop where
  lastRef : k.lastRef = now
  target : k.target = x.placed (at_ - nominal)
  phaseErr : k.phaseErr = c.clockErr at_ (nominal + k.target.getD 0)
  retarget : k.retarget = false

theorem Lock.took_take {k x : Lock} {c : Canvas} {now : Nat} {at_ nominal : Int} (h : k.placed (at_ - nominal) = x.placed (at_ - nominal)) :
    (k.take c now at_ nominal).Took x c now at_ nominal := by
  obtain ⟨h1, h2, h3, h4, -⟩ := k.take_spec c now at_ nominal
  exact ⟨h1, h2.trans h, h3, h4⟩

theorem Lock.Took.placed {k x : Lock} {c : Canvas} {now : Nat} {at_ nominal : Int} (h : k.Took x c now at_ nominal) :
    k.placed (at_ - nominal) = x.placed (at_ - nominal) := by
  rw [Lock.placed, h.retarget]
  exact h.target

/-- A lock under a new grandmaster whose phase is out leaves LOCKED (R61). -/
def Lock.unlock (x : Lock) : Lock := if x.state = .locked then { x with state := .acquire, good := 0, bad := 0 } else x

theorem Lock.Took.unlock {k x : Lock} {c : Canvas} {now : Nat} {at_ nominal : Int} (h : k.Took x c now at_ nominal) :
    k.unlock.Took x c now at_ nominal := by
  unfold Lock.unlock
  split
  · exact ⟨h.lastRef, h.target, h.phaseErr, h.retarget⟩
  · exact h

section
variable {s s0 : State} {c : Canvas} {m : PtpMsg} {changed : Bool}

/-- The place of a canvas's raster at a message. -/
def State.ptpPlace (s : State) (c : Canvas) (m : PtpMsg) : Int :=
  s.rasterClocks c (((m.pixels.find? fun e => e.1 == c.id).map Prod.snd).getD 0)

/-- The place that a Sync asks for. -/
def State.ptpNominal (s : State) (c : Canvas) (m : PtpMsg) : Int := c.sinceAlignment m.timeNs - s.lockOffset c * (c.binding.htotal : Nat)

/-- A Sync message is a reference of the canvas (R61). -/
def State.syncTo (s : State) (c : Canvas) (m : PtpMsg) : State :=
  if m.sync then s.setLock c.id fun x => x.take c s.gsc (s.ptpPlace c m) (s.ptpNominal c m) else s

theorem State.ptpCanvas_ignored (h : s.follows c 1 = false) : s.ptpCanvas c m changed = s := if_pos h

/-- A canvas under PTP takes the reference of a Sync, and then may leave LOCKED. -/
theorem State.ptpCanvas_followed (h : s.follows c 1 = true) (m : PtpMsg) (changed : Bool) : ∃ out : Bool, s.ptpCanvas c m changed =
    if out then (s.syncTo c m).setLock c.id Lock.unlock else s.syncTo c m := by
  unfold State.ptpCanvas
  rw [if_neg (by simp [h])]
  exact ⟨_, rfl⟩

theorem State.SameRaster.ptpCanvas (h : s0.SameRaster s) (c : Canvas) (m : PtpMsg) (changed : Bool) :
    s0.SameRaster (s.ptpCanvas c m changed) := by
  have h1 : s0.SameRaster (s.syncTo c m) := by
    unfold State.syncTo
    split
    · exact h.setLock _ _
    · exact h
  cases hf : s.follows c 1 with
  | false => rwa [State.ptpCanvas_ignored hf]
  | true =>
    obtain ⟨out, e⟩ := State.ptpCanvas_followed hf m changed
    rw [e]
    split
    · exact h1.setLock _ _
    · exact h1

theorem State.SameRaster.ptpCanvases (m : PtpMsg) (changed : Bool) (l : List Canvas) (s : State) :
    s.SameRaster (l.foldl (fun t c => t.ptpCanvas c m changed) s) :=
  foldl_inv (P := s.SameRaster) (fun _ c h => h.ptpCanvas c m changed) (.refl s)

/-- Under a message only the lock of the canvas named may change. -/
theorem State.canvas_ptpCanvas_ne (s : State) (m : PtpMsg) (changed : Bool) {v : CanvasId} (ne : v ≠ c.id) :
    (s.ptpCanvas c m changed).canvas v = s.canvas v := by
  have h1 : (s.syncTo c m).canvas v = s.canvas v := by
    unfold State.syncTo
    split
    · exact s.canvas_setLock_ne _ ne
    · rfl
  cases hf : s.follows c 1 with
  | false => rw [State.ptpCanvas_ignored hf]
  | true =>
    obtain ⟨out, e⟩ := State.ptpCanvas_followed hf m changed
    rw [e]
    split
    · rw [State.canvas_setLock_ne _ _ ne, h1]
    · exact h1

/-- A canvas under PTP that a Sync reaches has taken its reference. -/
theorem State.took_ptpCanvas {x k : Lock} (hsync : m.sync = true) (hf : s.follows c 1 = true)
    (hc : s.canvas c.id = some { c with lock := k })
    (hk : k.placed (s.ptpPlace c m - s.ptpNominal c m) = x.placed (s.ptpPlace c m - s.ptpNominal c m)) :
    ∃ j : Lock, (s.ptpCanvas c m changed).canvas c.id = some { c with lock := j } ∧
      j.Took x c s.gsc (s.ptpPlace c m) (s.ptpNominal c m) := by
  have h1 : (s.syncTo c m).canvas c.id =
      some { c with lock := k.take c s.gsc (s.ptpPlace c m) (s.ptpNominal c m) } := by
    rw [State.syncTo, if_pos hsync]
    exact State.canvas_setLock_same hc _
  have htook := Lock.took_take (c := c) (now := s.gsc) hk
  obtain ⟨out, e⟩ := State.ptpCanvas_followed hf m changed
  rw [e]
  split
  · exact ⟨_, State.canvas_setLock_same h1 _, htook.unlock⟩
  · exact ⟨_, h1, htook⟩

/-- A canvas under PTP that is the only one of its identity has taken the reference once a Sync has reached every canvas. -/
theorem State.took_ptpCanvases {l : List Canvas} (hsync : m.sync = true) (hf : s.follows c 1 = true) (hmem : c ∈ l)
    (hone : ∀ k ∈ l, k.id = c.id → k = c) (hc : s.canvas c.id = some c) :
    ∃ j : Lock, (l.foldl (fun s c => s.ptpCanvas c m changed) s).canvas c.id = some { c with lock := j } ∧
      j.Took c.lock c s.gsc (s.ptpPlace c m) (s.ptpNominal c m) := by
  have reach (u : State) (k : Lock) (hu : s.SameRaster u) (hk : u.canvas c.id = some { c with lock := k })
      (hp : k.placed (s.ptpPlace c m - s.ptpNominal c m) = c.lock.placed (s.ptpPlace c m - s.ptpNominal c m)) :
      ∃ j : Lock, (u.ptpCanvas c m changed).canvas c.id = some { c with lock := j } ∧
        j.Took c.lock c s.gsc (s.ptpPlace c m) (s.ptpNominal c m) := by
    have hplace : u.ptpPlace c m = s.ptpPlace c m := hu.rasterClocks c _
    have hnominal : u.ptpNominal c m = s.ptpNominal c m := by rw [State.ptpNominal, hu.lockOffset]; rfl
    rw [← hplace, ← hnominal] at hp ⊢
    rw [← hu.gsc]
    exact State.took_ptpCanvas hsync ((hu.follows c 1).trans hf) hk hp
  have other (u : State) (b : Canvas) (hb : b ∈ l) (ne : b ≠ c) : (u.ptpCanvas b m changed).canvas c.id = u.canvas c.id :=
    u.canvas_ptpCanvas_ne m changed fun e => ne (hone b hb e.symm)
  have hQ := foldl_reaches (f := fun s c => State.ptpCanvas s c m changed) hmem
    (P := fun u => s.SameRaster u ∧ ∃ k : Lock, u.canvas c.id = some { c with lock := k } ∧
      k.placed (s.ptpPlace c m - s.ptpNominal c m) = c.lock.placed (s.ptpPlace c m - s.ptpNominal c m))
    (Q := fun u => s.SameRaster u ∧ ∃ j : Lock, u.canvas c.id = some { c with lock := j } ∧
      j.Took c.lock c s.gsc (s.ptpPlace c m) (s.ptpNominal c m))
    (fun u b hb ⟨hu, k, hk, hp⟩ => ?_) (fun u b hb ⟨hu, k, hk, hp⟩ => ?_)
    (fun u ⟨hu, k, hk, hp⟩ => ⟨hu.ptpCanvas c m changed, reach u k hu hk hp⟩) ⟨.refl s, c.lock, hc, rfl⟩
  · exact hQ.2
  · refine ⟨hu.ptpCanvas b m changed, ?_⟩
    by_cases e : b = c
    · subst e
      obtain ⟨j, hj, ht⟩ := reach u k hu hk hp
      exact ⟨j, hj, ht.placed⟩
    · exact ⟨k, (other u b hb e).trans hk, hp⟩
  · refine ⟨hu.ptpCanvas b m changed, ?_⟩
    by_cases e : b = c
    · subst e
      exact reach u k hu hk hp.placed
    · exact ⟨k, (other u b hb e).trans hk, hp⟩

end

/-! #### The time map -/

theorem Die.OnlyRegs.trans {x y z : Die} {l r : List Nat} (h : x.OnlyRegs y l) (k : y.OnlyRegs z r) : x.OnlyRegs z (l ++ r) := by
  refine ⟨?_, fun off hoff => ?_⟩
  · rw [k.1, h.1]
  · rw [List.mem_append, not_or] at hoff
    exact (k.2 off hoff.2).trans (h.2 off hoff.1)

section
variable {s : State} {d : DieIx}

/-- The state with the grandmaster and the offset of a message. -/
def State.withPtp (s : State) (m : PtpMsg) : State := { s with ptp := { grandmaster := some m.grandmaster, offsetNs := m.offsetNs } }

/-- The part with the time map of a message: the offset's register, and a flag for a new grandmaster (R61, R422). -/
def State.ptpMap (s : State) (m : PtpMsg) : State :=
  let t := (s.withPtp m).setReg 0 Reg.clkPtpOffset (BitVec.ofInt 32 m.offsetNs)
  if s.ptp.grandmaster != some m.grandmaster then t.raise 0 Reg.clkEvt 0x04 else t

theorem fxPtpMessage_unnamed (m : PtpMsg) (h : s.field 0 Reg.clkPtpCtrl 0 0 = 0 ∨ s.field 0 Reg.clkPtpCtrl 3 1 ≠ d.val) :
    fxPtpMessage d m s = s := if_pos h

theorem fxPtpMessage_named (m : PtpMsg) (hen : s.field 0 Reg.clkPtpCtrl 0 0 = 1) (hd : s.field 0 Reg.clkPtpCtrl 3 1 = d.val) :
    fxPtpMessage d m s = (s.ptpMap m).canvases.foldl (fun t c => t.ptpCanvas c m (s.ptp.grandmaster != some m.grandmaster)) (s.ptpMap m) :=
  if_neg (by simp [hen, hd])

theorem State.ptpMap_reports (s : State) (m : PtpMsg) : (s.withPtp m).OnlyReports (s.ptpMap m) := by
  have h := (State.OnlyReports.refl (s.withPtp m)).setReg 0 Reg.clkPtpOffset (BitVec.ofInt 32 m.offsetNs)
  exact .ite (h.raise _ _ _) h

/-- The registers of die 0 that a message sets. -/
theorem State.ptpMap_regs (s : State) (m : PtpMsg) :
    (s.ptpMap m).reg 0 Reg.clkPtpOffset = BitVec.ofInt 32 m.offsetNs ∧
      (s.ptpMap m).reg 0 Reg.clkEvt = s.reg 0 Reg.clkEvt ||| (if s.ptp.grandmaster = some m.grandmaster then 0 else 0x04) ∧
      (s.die 0).OnlyRegs ((s.ptpMap m).die 0) [Reg.clkPtpOffset, Reg.clkEvt] ∧ ∀ e, e ≠ 0 → (s.ptpMap m).die e = s.die e := by
  have hp : s.present 0 = true := decide_eq_true (lt_of_lt_of_le Nat.zero_lt_two (two_le_nDies s))
  unfold State.ptpMap
  obtain ⟨⟨-, hdie⟩, hregs, hreg⟩ := (s.withPtp m).setReg_frame 0 Reg.clkPtpOffset (BitVec.ofInt 32 m.offsetNs) hp
  have hpt : ((s.withPtp m).setReg 0 Reg.clkPtpOffset (BitVec.ofInt 32 m.offsetNs)).present 0 = true := hp
  generalize (s.withPtp m).setReg 0 Reg.clkPtpOffset (BitVec.ofInt 32 m.offsetNs) = t at *
  have hevt : t.reg 0 Reg.clkEvt = s.reg 0 Reg.clkEvt := hregs.2 _ (by decide)
  by_cases hg : s.ptp.grandmaster = some m.grandmaster
  · simp only [hg, bne_self_eq_false, Bool.false_eq_true, if_false, if_true]
    refine ⟨hreg, by rw [hevt]; exact (BitVec.or_zero).symm, ⟨hregs.1, fun k hk => hregs.2 k fun h => hk ?_⟩, hdie⟩
    exact List.mem_cons.mpr (.inl (List.mem_singleton.mp h))
  · obtain ⟨⟨-, hdie'⟩, hregs', hreg'⟩ := t.setReg_frame 0 Reg.clkEvt (t.reg 0 Reg.clkEvt ||| BitVec.ofNat 32 0x04) hpt
    simp only [bne_iff_ne, ne_eq, hg, not_false_eq_true, if_true, if_false]
    refine ⟨?_, ?_, hregs.trans hregs', fun e ne => (hdie' e ne).trans (hdie e ne)⟩
    · exact (hregs'.2 _ (by decide)).trans hreg
    · exact hreg'.trans (by rw [hevt]; rfl)

end

/-- Settles O15: each row is a change of one lock, which reports no more than its state; a Sync reaches every canvas under PTP. -/
theorem lockReferences : Obligations.lock_references := by
  unfold Obligations.lock_references
  intro off takes
  refine ⟨fun s cv c ref pixel hc hr hcmd => ?_, fun s cv c hc hr hcmd hs hl => ?_, fun s d m => ⟨fun h => ?_, fun hen hd => ?_⟩⟩
  · split
    next h =>
      obtain rfl := State.id_of_canvas hc
      have e := fxGenlockEdge_taken pixel hc hr hcmd h
      rw [State.lockTo_eq] at e
      obtain ⟨h1, h2, h3, -, h5, h6⟩ := c.lock.take_spec c s.gsc (s.rasterClocks c pixel) (0 - s.lockOffset c * (c.binding.htotal : Nat))
      refine ⟨_, congrArg Host.Outcome.next e, _, State.canvas_setLock_same hc _, ⟨h1, h2, h3⟩, h5, h6, fun hsame => ?_,
        fun v ne => State.canvas_setLock_ne s _ ne⟩
      rw [State.setLock_of_same_state hc hsame]
      rfl
    next h => exact congrArg Host.Outcome.next (fxGenlockEdge_ignored pixel hc hr hcmd h)
  · exact ⟨_, congrArg Host.Outcome.next (fxHoldover_lost hc hr hcmd hs hl), fun v ne => State.canvas_setLock_ne s _ ne, _,
      State.canvas_setLock_same hc _, rfl, rfl, rfl, rfl⟩
  · exact congrArg Host.Outcome.next (fxPtpMessage_unnamed m h)
  · have hrep := State.SameRaster.of_reports (s.ptpMap_reports m)
    have hcan : (s.ptpMap m).canvases = s.canvases := (s.ptpMap_reports m).canvases
    refine ⟨_, congrArg Host.Outcome.next (fxPtpMessage_named m hen hd), ?_, fun hnone => ?_, fun cv c hsync hc hlock hr hone hcmd => ?_⟩
    · exact (State.SameRaster.ptpCanvases m _ _ (s.ptpMap m)).ptp.trans hrep.ptp
    · obtain ⟨hoff, hevt, hregs, hdie⟩ := s.ptpMap_regs m
      have e (f : State → Canvas → State) : (s.ptpMap m).canvases.foldl f (s.ptpMap m) = s.ptpMap m := by
        rw [hcan, hnone, List.foldl_nil]
      rw [e]
      exact ⟨by rw [hrep.ptp]; exact (s.ptpMap_reports m).frame, hoff, hevt, hregs, hdie⟩
    · obtain rfl := State.id_of_canvas hc
      have hmap : (s.ptpMap m).canvas c.id = some c := by rw [(s.ptpMap_reports m).canvas]; exact hc
      have hf : (s.ptpMap m).follows c 1 = true := by
        rw [hrep.follows]
        exact (State.follows_eq hr hcmd 1).trans (by simp [hlock])
      obtain ⟨k, hk, htook⟩ := State.took_ptpCanvases (changed := s.ptp.grandmaster != some m.grandmaster) hsync hf
        (List.mem_of_find?_eq_some hmap) (by rw [hcan]; exact hone) hmap
      have hplace : (s.ptpMap m).ptpPlace c m = s.ptpPlace c m := hrep.rasterClocks c _
      have hnominal : (s.ptpMap m).ptpNominal c m = s.ptpNominal c m := by rw [State.ptpNominal, hrep.lockOffset]; rfl
      rw [hplace, hnominal, hrep.gsc] at htook
      exact ⟨k, hk, htook.lastRef, htook.target, htook.phaseErr⟩

/-! ### The smoothed time of a frame (R245) -/

/-- A video form without lines, so that a frame of it is whole as soon as it starts. -/
def lineless : VideoForm := { width := 0, height := 0, pixfmt := 0, interlaced := false, bottomField := false, protect := none }

/-- A frame of that form, of a smoothed time. -/
def framed (index ts : Nat) (smoothed : Int) : SrcFrame :=
  { index := index, counter := 0, ts := ts, lastAt := ts, smoothed := smoothed, lines := [], form := lineless, bad := false,
    repeated := false }

/-- A store whose latest frame has a smoothed time below 0, and whose periods average 100 ticks with the frame being captured at time 0. -/
def backdated : Source :=
  { Source.fresh 0 0 none lineless with
    capturing := some (framed 1 0 0), frames := [framed 0 0 (-105)], nextIndex := 2, stamps := [(200, false), (0, false)] }

/-- The part with that store on port 0 of die 0. -/
def backdatedPart : State := State.reset.onDie 0 fun x => { x with sources := [backdated] }

/-- The smoothed time of the frame that completes is that of the last frame and a mean period: -5. -/
theorem smoothed_backdated : (((fxSourceFrameComplete 0 0 0 backdatedPart).die 0).portSource 0 0).map (fun q => q.frames.map SrcFrame.smoothed) =
    some [-105, -5] := by decide +kernel

/-- Refutes O16: its `sm` is a natural number, by `sm = f.ts`, while the model's smoothed time is an integer. In a state whose latest frame
has a smoothed time of -105 ticks, the next, one mean period of 100 ticks later, has -5. -/
theorem not_sourceCapture : ¬ Obligations.source_capture := by
  unfold Obligations.source_capture
  intro h
  obtain ⟨-, -, hrow⟩ := h backdatedPart 0 0 0 (by decide)
  obtain ⟨-, hcomplete, -⟩ := hrow backdated rfl
  obtain ⟨t, ht, -, r, sm, rep, hr, -, -, -, -, hframes⟩ := hcomplete (framed 1 0 0) rfl rfl
  obtain rfl : fxSourceFrameComplete 0 0 0 backdatedPart = t := Host.Outcome.next.inj ht
  replace hr : ((fxSourceFrameComplete 0 0 0 backdatedPart).die 0).portSource 0 0 = some r := hr
  have hsm := smoothed_backdated
  rw [hr, Option.map_some, hframes] at hsm
  simp [backdated] at hsm

/-! ### Waits of streams on dies that the part lacks -/

/-- A stream of die 2, as it waits on a Turnstile. -/
def strayStream : StreamId := { die := 2, crs := 12, idx := 0 }
def strayRun : Stream := { Stream.launch none 0 none [] 0 [] 0 with state := .waitTsl }

/-- Object 5 of die 0 at 0, on which that stream waits for 1. -/
def awaited : TslObj :=
  { TslObj.fresh 0 none none 0 with
    waiters := [⟨{ iss := streamIssuer strayStream, op := .waitGe 1, opIx := 0xFFFF, step := 0, seq := 0 }⟩] }

/-- An ADD of 1 to that object, under way from die 1. -/
def arriving : GaideMsg := { src := 1, dst := 0, ref := .phys 5, req := ringmaster 1 (.add 1) 0 }

/-- A PV-2200, which has dies 0 and 1 alone, with that object, that message and, in a die that it lacks, that stream. -/
def strayPart : State :=
  let s := State.ofReset { part := .pv2200, bootHost := false, refPcie := false, mgmtI3c := false, smbAddr := 0, dramGib := 16 }
    Otp.unprogrammed Nvm.blank []
  let t := s.onDie 0 fun x => { x with tsl := x.tsl.setObj 5 awaited }
  { t with dies := t.dies.set 2 { t.die 2 with streams := [(strayStream, strayRun)] }, gaide := [arriving] }

/-- The ADD satisfies the wait. -/
theorem awaited_released : ∃ e ∈ (awaited.resolve [arriving.req] strayPart.gsc (4096 - (strayPart.die 0).tsl.hostWaiters)).results,
    e.1.iss = streamIssuer strayStream ∧ e.2 = .proceeds .ok := by decide +kernel

/-- After the arrival the stream waits as before: nothing changes in a die that the part does not contain (R7). -/
theorem strayStream_waits : (((fxGaideTurnstileArrival 1 0 strayPart).die 2).stream strayStream).map Stream.state = some .waitTsl := by
  decide +kernel

/-- Refutes O38: it says that every stream whose wait proceeds goes on, while no stream changes in a die that the part lacks. On a
PV-2200 the operation that arrives satisfies the wait of a stream that the state holds in die 2, and the stream waits as before. -/
theorem not_turnstilesOverGaide : ¬ Obligations.turnstiles_over_gaide := by
  unfold Obligations.turnstiles_over_gaide
  rintro ⟨harrive, -⟩
  obtain ⟨-, hnext⟩ := harrive strayPart 1 0 (by decide)
  obtain ⟨-, hop⟩ := hnext arriving rfl
  obtain ⟨-, hobj⟩ := hop rfl
  obtain ⟨t, ht, ⟨-, hgo⟩, -⟩ := hobj 5 awaited rfl (by decide +kernel) (.inr rfl) rfl (List.forall_mem_nil _) (by decide +kernel)
  obtain rfl : fxGaideTurnstileArrival 1 0 strayPart = t := Host.Outcome.next.inj ht
  have hrun := hgo strayStream strayRun (by decide +kernel) rfl awaited_released
  have hwait := strayStream_waits
  rw [show strayStream.die = 2 from rfl] at hrun
  rw [hrun] at hwait
  simp at hwait

end Sys2Proof.Machine
end

section
/-! SUPPORT. Proofs of the statements of 03_arithmetic. -/

namespace Sys2Proof.Machine

/-! ### Counter clears -/

/-- A die with counters cleared one after another, each of which counts again where its increment falls in the same cycle. -/
def Die.clearAll (x : Die) (l : List (Nat × Bool)) : Die := l.foldl (fun y e => clearOne y e.1 e.2) x

theorem clearWide_eq_clearAll (x : Die) (lo : Nat) (counted : Bool) :
    clearWide x lo counted = x.clearAll [(lo, counted), (lo + 4, false)] := by cases counted <;> rfl

theorem Die.reg_clearAll_of_not_mem {l : List (Nat × Bool)} {k : Nat} (x : Die) (h : k ∉ l.map Prod.fst) :
    (x.clearAll l).reg k = x.reg k := by
  induction l generalizing x with
  | nil => rfl
  | cons e rest ih =>
    rw [List.map_cons, List.mem_cons, not_or] at h
    exact (ih _ h.2).trans (x.reg_setReg_ne _ (Ne.symm h.1))

theorem Die.clearAll_onlyRegs (x : Die) (l : List (Nat × Bool)) : x.OnlyRegs (x.clearAll l) (l.map Prod.fst) := by
  refine ⟨?_, fun k hk => x.reg_clearAll_of_not_mem hk⟩
  induction l generalizing x with
  | nil => rfl
  | cons e rest ih => exact ih (clearOne x e.1 e.2)

/-- Of distinct counters each reads 0 after the clear, or 1 where it counts in the same cycle. -/
theorem Die.reg_clearAll {l : List (Nat × Bool)} (x : Die) (hl : (l.map Prod.fst).Nodup) {e : Nat × Bool} (he : e ∈ l) :
    (x.clearAll l).reg e.1 = if e.2 then 1 else 0 := by
  induction l generalizing x with
  | nil => simp at he
  | cons a rest ih =>
    rw [List.map_cons, List.nodup_cons] at hl
    obtain rfl | he := List.mem_cons.mp he
    · exact (Die.reg_clearAll_of_not_mem _ hl.1).trans (x.reg_setReg_same _ _)
    · exact ih _ hl.2 he

/-- A clear of distinct counters of a die that the part has. -/
theorem clears_of_clearAll {s : State} {c : Instr} {d : DieIx} {l : List (Nat × Bool)} {flags : State → State}
    (hp : s.present d = true) (hl : (l.map Prod.fst).Nodup) (he : exec c s = .next (flags (s.onDie d fun x => x.clearAll l))) :
    Clears s c d l flags := by
  refine ⟨_, he, _, ⟨s.onlyDie_onDie d _, ?_, fun e h => ?_⟩, rfl⟩
  · rw [s.die_onDie_same d hp]
    exact (s.die d).clearAll_onlyRegs l
  · rw [State.reg, s.die_onDie_same d hp]
    exact (s.die d).reg_clearAll hl h

/-- A field of a register word that is set reads as the value's low bits. -/
theorem bits_setBits (w : Word) {hi : Nat} (lo v : Nat) (h : hi < 32) : bits (setBits w hi lo v) hi lo = v % 2 ^ (hi + 1 - lo) := by
  refine Nat.eq_of_testBit_eq fun i => ?_
  rw [bits, setBits, BitVec.toNat_ofNat, testBit_natBits, Nat.testBit_mod_two_pow, testBit_natSetBits, Nat.testBit_mod_two_pow]
  by_cases hin : i < hi + 1 - lo
  · simp [hin, show lo + i < 32 by omega, show lo + i ≤ hi by omega]
  · simp [hin]

section
variable {s : State} {d : DieIx}

/-- The counters that CRS_CNT_CLR sets to 0. -/
def crsCounters (co : Byte) : List (Nat × Bool) :=
  [(Reg.crsStallCnt, co.getLsbD 0), (Reg.crsCodecErr, co.getLsbD 1), (Reg.crsWindowErr, co.getLsbD 2), (Reg.crsCreditErr, co.getLsbD 3)]

/-- The state after CRS_CNT_CLR, flags apart: the counters and the peak of CRS_INFLIGHT are cleared (R190). -/
def State.crsCleared (s : State) (d : DieIx) (co : Byte) : State :=
  s.onDie d fun x => (x.clearAll (crsCounters co)).setField Reg.crsInflight 29 16 0

theorem State.crsCleared_spec (co : Byte) (hp : s.present d = true) : s.OnlyDie (s.crsCleared d co) d ∧
    (s.die d).OnlyRegs ((s.crsCleared d co).die d) ((crsCounters co).map Prod.fst ++ [Reg.crsInflight]) ∧
    (∀ e ∈ crsCounters co, (s.crsCleared d co).reg d e.1 = if e.2 then 1 else 0) ∧
    (s.crsCleared d co).field d Reg.crsInflight 29 16 = 0 := by
  have hdie : (s.crsCleared d co).die d = ((s.die d).clearAll (crsCounters co)).setField Reg.crsInflight 29 16 0 := s.die_onDie_same d hp
  have hother : ∀ e ∈ crsCounters co, Reg.crsInflight ≠ e.1 := by simp [crsCounters]; decide
  simp only [State.reg, State.field, hdie]
  refine ⟨s.onlyDie_onDie d _, ((s.die d).clearAll_onlyRegs _).trans (Die.onlyRegs_setReg _ _ _), fun e he => ?_, ?_⟩
  · exact (Die.reg_setReg_ne _ _ (hother e he)).trans (Die.reg_clearAll _ (by simp [crsCounters]; decide) he)
  · rw [Die.field, Die.reg_setField, if_pos rfl]
    exact bits_setBits _ 16 0 (by decide)

end

/-- Settles O10: each command clears a list of distinct counters, the 64-bit ones as two words. -/
theorem computeCounterClears : Obligations.compute_counter_clears := by
  unfold Obligations.compute_counter_clears
  intro s d hp
  have hmxe : ∀ e : EngIx, [Reg.mxeSatLo e, Reg.mxeSatHi e, Reg.mxeNanLo e, Reg.mxeNanHi e, Reg.mxeAccCe e].Nodup := by decide
  have hsat : ∀ e : EngIx, Reg.mxeSatLo e + 4 = Reg.mxeSatHi e ∧ Reg.mxeNanLo e + 4 = Reg.mxeNanHi e := by decide
  refine ⟨fun e co => clears_of_clearAll hp (hmxe e) ?_, fun co => clears_of_clearAll hp (by simp; decide) rfl,
    fun co => clears_of_clearAll hp (by simp; decide) rfl, fun co => ?_, fun co => clears_of_clearAll hp (by simp; decide) ?_,
    fun co => clears_of_clearAll hp (by simp; decide) ?_, fun co => clears_of_clearAll hp (by simp; decide) rfl⟩
  · obtain ⟨hs, hn⟩ := hsat e
    refine congrArg Host.Outcome.next ?_
    simp only [fxMxeCntClr, clearWide_eq_clearAll, hs, hn]
    rfl
  · obtain ⟨hdie, hregs, hval, hpeak⟩ := s.crsCleared_spec co hp
    simp only [crsCounters, List.forall_mem_cons] at hval
    obtain ⟨h0, h1, h2, h3, -⟩ := hval
    exact ⟨_, rfl, s.crsCleared d co, rfl, hdie, hregs, h0, h1, h2, h3, hpeak⟩
  · refine congrArg Host.Outcome.next ?_
    simp only [fxJglCntClr, clearWide_eq_clearAll]
    rfl
  · refine congrArg Host.Outcome.next ?_
    simp only [fxMotCntClr, clearWide_eq_clearAll]
    rfl

/-! ### Latching reads -/

theorem Die.lookup_latchHi (x : Die) (hi k : Nat) (w : Word) :
    sLookup (x.latchHi hi w).latch k = if hi = k then some w else sLookup x.latch k := by
  rw [Die.latchHi, sLookup_sInsert, sLookup_sErase]
  split <;> rfl

section
variable {s : State} {c : Instr} {d : DieIx}

/-- A command that latches a word of a die that the part has. -/
theorem latches_of_latchHi {hi : Nat} {w : Word} (hp : s.present d = true) (he : exec c s = .next (s.onDie d fun x => x.latchHi hi w)) :
    Latches s c d hi w := by
  refine ⟨_, he, s.onlyDie_onDie d _, ?_⟩
  rw [s.die_onDie_same d hp]
  refine ⟨rfl, ?_, fun k hk => ?_⟩
  · rw [Die.lookup_latchHi, if_pos rfl]
  · rw [Die.lookup_latchHi, if_neg hk.symm]

/-- The read of a _LO register latches its _HI register, which stands behind it. -/
theorem latches_of_readLo {lo hi : Nat} (hp : s.present d = true) (h : lo + 4 = hi) (he : exec c s = .next (s.readLo d lo)) :
    Latches s c d hi (s.reg d hi) := by
  subst h
  exact latches_of_latchHi hp he

end

/-- Settles O12: each read latches the register behind it, a half of the choice counter selected, or a half of the device time. -/
theorem loReadsLatchHighWords : Obligations.lo_reads_latch_high_words := by
  unfold Obligations.lo_reads_latch_high_words
  intro s d hp
  refine ⟨fun e => ⟨latches_of_readLo hp ?_ rfl, latches_of_readLo hp ?_ rfl⟩,
    fun c => ⟨latches_of_readLo hp ?_ rfl, latches_of_readLo hp ?_ rfl⟩, latches_of_readLo hp rfl rfl, latches_of_readLo hp rfl rfl,
    latches_of_latchHi hp rfl, latches_of_readLo hp rfl rfl, latches_of_latchHi hp rfl, latches_of_readLo hp rfl rfl,
    latches_of_readLo hp rfl rfl⟩
  · revert e; decide
  · revert e; decide
  · revert c; decide
  · revert c; decide

/-! ### What the work of the engines keeps

The operations by which items, streams and Turnstiles go on, fail or end leave every tensor, the results of every item, and the
registers of the Matrix Engines as they are; of the tiles that an engine holds they only take some away. -/

/-- A register of a Matrix Engine (Table 3.10). -/
abbrev IsMxeReg (off : Nat) : Prop := 0x30_0000 ≤ off ∧ off < 0x32_0000

/-- The registers of the Matrix Engines are the same in two dies, and their tiles are among those of the first. -/
structure Die.KeepsEngines (x y : Die) : Prop where
  regs : ∀ off, IsMxeReg off → y.reg off = x.reg off
  tiles : ∀ e : EngIx, y.engines[e.val].tiles ⊆ x.engines[e.val].tiles

namespace Die.KeepsEngines

variable {x y z : Die}

theorem of_eq (hr : y.regs = x.regs) (he : y.engines = x.engines) : x.KeepsEngines y :=
  ⟨fun off _ => by rw [Die.reg, hr, Die.reg], fun e => by rw [he]; exact List.Subset.refl _⟩

protected theorem refl (x : Die) : x.KeepsEngines x := of_eq rfl rfl

theorem trans (h : x.KeepsEngines y) (k : y.KeepsEngines z) : x.KeepsEngines z :=
  ⟨fun off ho => (k.regs off ho).trans (h.regs off ho), fun e => List.Subset.trans (k.tiles e) (h.tiles e)⟩

theorem setReg (x : Die) {off : Nat} (w : Word) (ho : ¬ IsMxeReg off) : x.KeepsEngines (x.setReg off w) :=
  ⟨fun _ hk => x.reg_setReg_ne w fun e => ho (e ▸ hk), fun _ => List.Subset.refl _⟩

end Die.KeepsEngines

theorem Engine.tiles_drop (e : Engine) (p : ItemId → Bool) : (e.drop p).tiles ⊆ e.tiles := by
  intro x
  simp only [Engine.tiles, Engine.drop, List.mem_append, List.mem_map, List.mem_filter, Option.mem_toList, Option.filter_eq_some_iff]
  rintro (((⟨q, ⟨hq, -⟩, rfl⟩ | ⟨h, -⟩) | ⟨h, -⟩) | ⟨h, -⟩)
  · exact .inl (.inl (.inl ⟨q, hq, rfl⟩))
  · exact .inl (.inl (.inr h))
  · exact .inl (.inr h)
  · exact .inr h

theorem Die.dropItems_keepsEngines (x : Die) (p : ItemId → Bool) : x.KeepsEngines (x.dropItems p) := by
  refine ⟨fun _ _ => rfl, fun e => ?_⟩
  rw [Die.dropItems, Vector.getElem_map]
  exact Engine.tiles_drop _ p

/-- What a canvas has computed: its tensors, and its items as far as a function of an item tells. -/
def Canvas.results (g : Item → Item) (c : Canvas) : CanvasId × List (Nat × TensorBuf) × List Item := (c.id, c.tensors, c.items.map g)

/-- What an item has computed, whether it ended or not, and whatever rows it has signalled. -/
def Item.result (i : Item) : Item := { i with ended := none, rowsDone := 0 }

/-- What every canvas has computed is the same in two states, and every die keeps its engines. -/
structure State.KeepsWork (g : Item → Item) (s t : State) : Prop where
  results : t.canvases.map (Canvas.results g) = s.canvases.map (Canvas.results g)
  dies : ∀ d, (s.die d).KeepsEngines (t.die d)

theorem map_updFirst {α β : Type} {p : α → Bool} {f : α → α} {h : α → β} (l : List α) (hf : ∀ x, h (f x) = h x) :
    (updFirst p f l).map h = l.map h := by
  induction l with
  | nil => rfl
  | cons x rest ih =>
    rw [updFirst]
    split
    · simp [hf]
    · simp [ih]

theorem Canvas.results_updItem {g f : Item → Item} (c : Canvas) (p : Item → Bool) (hf : ∀ i, g (f i) = g i) :
    ({ c with items := updFirst p f c.items } : Canvas).results g = c.results g :=
  Prod.ext rfl (Prod.ext rfl (map_updFirst c.items hf))

namespace State.KeepsWork

variable {g : Item → Item} {s0 s t : State}

protected theorem refl (g : Item → Item) (s : State) : s.KeepsWork g s := ⟨rfl, fun d => .refl (s.die d)⟩

theorem trans (k : s0.KeepsWork g s) (j : s.KeepsWork g t) : s0.KeepsWork g t :=
  ⟨j.results.trans k.results, fun d => (k.dies d).trans (j.dies d)⟩

/-- Items that are the same have computed the same. -/
theorem of_id (k : s.KeepsWork id t) (g : Item → Item) : s.KeepsWork g t := by
  refine ⟨?_, k.dies⟩
  have e : Canvas.results g = (fun r => (r.1, r.2.1, r.2.2.map g)) ∘ Canvas.results id := by
    funext c
    simp [Canvas.results]
  rw [e, ← List.map_map, ← List.map_map, k.results]

theorem ite {c : Prop} [Decidable c] (k : s0.KeepsWork g s) (j : s0.KeepsWork g t) : s0.KeepsWork g (if c then s else t) := by
  split
  · exact k
  · exact j

theorem foldl {α : Type} {f : State → α → State} {l : List α} (k : s0.KeepsWork g s)
    (hf : ∀ t a, s0.KeepsWork g t → s0.KeepsWork g (f t a)) : s0.KeepsWork g (l.foldl f s) := foldl_inv hf k

/-- A change of other fields than dies and canvases. -/
theorem copy (k : s0.KeepsWork g s) (hc : t.canvases = s.canvases) (hd : t.dies = s.dies) : s0.KeepsWork g t :=
  k.trans ⟨by rw [hc], fun d => by rw [State.die, State.die, hd]; exact .refl _⟩

theorem onDie (k : s0.KeepsWork g s) (d : DieIx) {f : Die → Die} (hf : ∀ x : Die, x.KeepsEngines (f x)) :
    s0.KeepsWork g (s.onDie d f) := by
  refine k.trans ⟨rfl, fun e => ?_⟩
  rw [State.die_onDie]
  split
  next h =>
    obtain ⟨rfl, -⟩ := h
    exact hf _
  next => exact .refl _

theorem onDies (k : s0.KeepsWork g s) (ds : List DieIx) {f : DieIx → Die → Die} (hf : ∀ (d : DieIx) (x : Die), x.KeepsEngines (f d x)) :
    s0.KeepsWork g (s.onDies ds f) := k.foldl fun _ d j => j.onDie d (hf d)

theorem onHost (k : s0.KeepsWork g s) (f : HostSide → HostSide) : s0.KeepsWork g (s.onHost f) := k.copy rfl rfl

theorem onCanvas (k : s0.KeepsWork g s) (cv : CanvasId) {f : Canvas → Canvas} (hf : ∀ c, (f c).results g = c.results g) :
    s0.KeepsWork g (s.onCanvas cv f) := k.trans ⟨map_updFirst _ hf, fun d => .refl (s.die d)⟩

/-! #### Registers and flags -/

variable {off cnt evt : Nat}

theorem setReg (k : s0.KeepsWork g s) (d : DieIx) (w : Word) (ho : ¬ IsMxeReg off) : s0.KeepsWork g (s.setReg d off w) :=
  k.onDie d fun x => .setReg x w ho

theorem raise (k : s0.KeepsWork g s) (d : DieIx) (mask : Nat) (ho : ¬ IsMxeReg evt) : s0.KeepsWork g (s.raise d evt mask) :=
  (k.setReg d _ ho).copy rfl rfl

theorem countRaise (k : s0.KeepsWork g s) (d : DieIx) (mask : Nat) (hc : ¬ IsMxeReg cnt) (ho : ¬ IsMxeReg evt) :
    s0.KeepsWork g (s.countRaise d cnt evt mask) :=
  (k.onDie d fun x => .setReg x _ hc).raise d mask ho

theorem untrusted (k : s0.KeepsWork g s) (d : DieIx) : s0.KeepsWork g (s.untrusted d) :=
  (k.onDie d fun _ => .of_eq (by rfl) (by rfl)).countRaise d _ (by decide) (by decide)

/-! #### Turnstiles -/

theorem onStream (k : s0.KeepsWork g s) (st : StreamId) (f : Stream → Stream) : s0.KeepsWork g (s.onStream st f) :=
  k.onDie _ fun _ => .of_eq (by rfl) (by rfl)

theorem sendGaide (k : s0.KeepsWork g s) (ms : List GaideMsg) : s0.KeepsWork g (s.sendGaide ms) :=
  k.foldl fun _ _ j => j.copy rfl rfl

theorem released (k : s0.KeepsWork g s) (q : TslReq) (st : Status) : s0.KeepsWork g (s.released q st) :=
  (k.onHost _).ite ((k.onStream _ _).ite k)

theorem tslFlags (k : s0.KeepsWork g s) (d : DieIx) (bundle : Bool) (r : TslResult) : s0.KeepsWork g (s.tslFlags d bundle r) := by
  cases r with
  | saturated =>
    have j := k.countRaise (cnt := Reg.tslOvfCnt) (evt := Reg.tslEvt) d 0x01 (by decide) (by decide)
    exact (j.untrusted d).ite j
  | refused => exact k.countRaise d _ (by decide) (by decide)
  | full => exact k.raise d _ (by decide)
  | proceeds _ => exact k
  | applied => exact k
  | poisoned => exact k
  | queued => exact k

theorem barrierArrive (k : s0.KeepsWork g s) (d : DieIx) (n : Nat) : s0.KeepsWork g (s.barrierArrive d n) := by
  unfold State.barrierArrive
  split
  · exact k
  · split
    · exact k
    · have j (o : TslObj) : s0.KeepsWork g (s.onDie d fun x => { x with tsl := x.tsl.setObj n o }) := k.onDie d fun _ => .of_eq rfl rfl
      exact k.ite ((j _).copy rfl rfl)

theorem tslCycle (k : s0.KeepsWork g s) (d : DieIx) (n : Nat) (ops : List TslReq) : s0.KeepsWork g (s.tslCycle d n ops).1 := by
  unfold State.tslCycle
  dsimp only
  split
  · exact k
  · refine ((k.onDie d fun _ => .of_eq (by rfl) (by rfl)).foldl fun t e j => ?_).barrierArrive d n
    split
    · exact j.released _ _
    · exact j.tslFlags d _ _

theorem settleParts (k : s0.KeepsWork g s) (cv : CanvasId) : s0.KeepsWork g (s.settleParts cv) := by
  unfold State.settleParts
  split
  · exact k
  · exact (k.onCanvas cv fun _ => by rfl).sendGaide _

theorem ringSet (k : s0.KeepsWork g s) (d : DieIx) (ctx : Nat) (v : Option (BitVec 12)) (seq value : Nat) :
    s0.KeepsWork g (s.ringSet d ctx v seq value) := by
  unfold State.ringSet
  split
  · exact k
  · split
    · exact k
    · exact k.tslCycle d _ _

/-! #### Entry into the queues -/

theorem syncInflight (k : s0.KeepsWork g s) (d : DieIx) : s0.KeepsWork g (s.syncInflight d) := by
  have j := k.onDie d (f := fun x => (x.setField Reg.crsInflight 13 0 (s.die d).flight).setField Reg.crsInflight 29 16
    (max (s.die d).flight (x.field Reg.crsInflight 29 16)))
    fun x => (Die.KeepsEngines.setReg x _ (by decide)).trans (.setReg _ _ (by decide))
  exact (j.raise d _ (by decide)).ite j

theorem enter (k : s0.KeepsWork g s) (d : DieIx) (e : Entrant) : s0.KeepsWork g (s.enter d e) := by
  refine k.ite ?_
  cases e with
  | item i => exact k.onDie d fun _ => .of_eq (by rfl) (by rfl)
  | run cv r =>
    dsimp only
    split
    · exact (k.onDie _ fun _ => .of_eq (by rfl) (by rfl)).onCanvas cv fun _ => by rfl
    · exact k

theorem refill (k : s0.KeepsWork g s) (d : DieIx) : s0.KeepsWork g (s.refill d) :=
  (k.foldl fun _ e j => j.enter d e.2).syncInflight d

/-! #### Abandonment and failure -/

theorem postItem (k : s0.KeepsWork g s) (c : Canvas) (d : DieIx) (op stripe : Nat) (step : Dword) (st : Status) (w : List Nat) :
    s0.KeepsWork g (s.postItem c d op stripe step st w) := (k.onHost _).ite k

theorem fillHalo (k : s0.KeepsWork g s) (cv : CanvasId) (d : DieIx) (frame stripe seq op : Nat) :
    s0.KeepsWork g (s.fillHalo cv d frame stripe seq op) := by
  unfold State.fillHalo
  split
  · exact k
  next c _ =>
    dsimp only
    have hrows {t : State} (j : s0.KeepsWork g t) (v : State → Nat) :
        s0.KeepsWork g ((c.opOf op).writes.foldl (fun s t => s.ringSet d c.ctx (c.rowVirt t) seq (v s)) t) :=
      j.foldl fun _ t j => j.ringSet _ _ _ _ _
    have hholes (l : List Hole) : s0.KeepsWork g (s.onCanvas cv fun k => { k with holes := k.holes ++ l }) := k.onCanvas cv fun _ => rfl
    split
    · exact hrows (hholes _) fun s => s.shares c (c.opOf op) d stripe * _
    · exact (hrows (hholes _) fun s => s.shares c (c.opOf op) d stripe * _).foldl fun _ t j => j.foldl fun _ e j => j.ringSet _ _ _ _ _

theorem resetBarrier (k : s0.KeepsWork g s) (cv : CanvasId) (op : Nat) : s0.KeepsWork g (s.resetBarrier cv op) := by
  unfold State.resetBarrier
  split
  · exact k
  · refine (k.onDies _ fun d x => ?_).copy rfl rfl
    split
    · split
      · exact .of_eq rfl rfl
      · exact .refl x
    · exact .refl x

end State.KeepsWork

/-! #### Items that end -/

section
variable (c : Canvas) (cv : CanvasId) (d : DieIx) (seq op : Nat)

/-- The ops whose work ends with that of an op in a stripe step (R54, R157). -/
def Canvas.lostOps : List Nat :=
  if (c.opOf op).frameScope then [op] else (c.dependents op).filter fun i => !(c.opOf i).frameScope

/-- The items whose work ends with that of an op. -/
def Canvas.losesItem (i : ItemId) : Bool :=
  i.canvas == cv && ((c.opOf op).frameScope || i.die == d) && i.stepSeq == seq && (c.lostOps op).contains i.op

/-- A canvas in which the work of an op of `c`, and what reads it, has ended with a status. -/
def Canvas.endWork (st : Status) (k : Canvas) : Canvas :=
  { k with
    items := k.items.map fun i => if c.losesItem cv d seq op i.id && i.live then { i with ended := some st } else i,
    parts := k.parts.map fun p => if p.computeDie == d && p.stepSeq == seq && !p.complete && p.failed.isNone && !p.abandoned &&
      ((c.partOp p).any fun o => (c.lostOps op).contains o.ix) then { p with failed := some st } else p }

theorem Canvas.endWork_results (st : Status) (k : Canvas) : (c.endWork cv d seq op st k).results Item.result = k.results Item.result := by
  simp only [Canvas.results, Canvas.endWork, List.map_map, Prod.mk.injEq, true_and]
  refine List.map_congr_left fun i _ => ?_
  rw [Function.comp_apply]
  split <;> rfl

end

/-- An op is among those whose work ends with its own. -/
theorem Canvas.mem_lostOps {c : Canvas} {op : Nat} (h : op < (bHeader c.image).nops) : op ∈ c.lostOps op := by
  unfold Canvas.lostOps
  split
  · exact List.mem_singleton_self op
  next hf =>
    refine List.mem_filter.mpr ⟨?_, by simpa using hf⟩
    refine foldl_reaches (P := fun _ => True) (Q := fun l => op ∈ l) (a := bOp c.image op)
      (List.mem_map_of_mem (List.mem_range.mpr h)) (fun _ _ _ _ => trivial) (fun l o _ hl => ?_) (fun l _ => ?_) trivial
    · split
      · exact List.mem_append_left _ hl
      · exact hl
    · rw [if_pos (.inl rfl)]
      exact List.mem_append_right _ (List.mem_singleton_self _)

namespace State.KeepsWork

variable {g : Item → Item} {s0 s : State} {cv : CanvasId} {c : Canvas}

/-- Besides the items and parts whose work has ended, abandonment changes nothing that has been computed. -/
theorem abandonOp_of_canvas (hc : s.canvas cv = some c) (d : DieIx) (frame stripe seq op : Nat) (st : Status) :
    (s.onCanvas cv (c.endWork cv d seq op st)).KeepsWork id (s.abandonOp cv d frame stripe seq op st) := by
  have hdrop {t : State} (ds : List DieIx) (k : (s.onCanvas cv (c.endWork cv d seq op st)).KeepsWork id t) :
      (s.onCanvas cv (c.endWork cv d seq op st)).KeepsWork id (t.onDies ds fun e x =>
        { x.dropItems (c.losesItem cv d seq op) with tsl := x.tsl.cancelItems c.ctx e seq (c.lostOps op) }) :=
    k.onDies ds fun _ x => (x.dropItems_keepsEngines _).trans (.of_eq rfl rfl)
  have hstop {t : State} (ds : List DieIx) (p : StreamId → Stream → Bool)
      (k : (s.onCanvas cv (c.endWork cv d seq op st)).KeepsWork id t) :
      (s.onCanvas cv (c.endWork cv d seq op st)).KeepsWork id (t.onDies ds fun _ x => x.removeStreams p) :=
    k.onDies ds fun _ _ => .of_eq rfl rfl
  have k := fun ds => hstop ds (fun _ y => y.canvas == some cv && y.stepSeq == seq && y.op.any fun o => (c.lostOps op).contains o)
    (hdrop ds (.refl _ _))
  unfold State.abandonOp
  simp only [hc]
  exact ((((k _).resetBarrier cv op).ite (k _)).foldl fun _ _ j => j.fillHalo _ _ _ _ _ _).foldl fun _ _ j => j.refill _

theorem abandonOp (k : s0.KeepsWork Item.result s) (cv : CanvasId) (d : DieIx) (frame stripe seq op : Nat) (st : Status) :
    s0.KeepsWork Item.result (s.abandonOp cv d frame stripe seq op st) := by
  cases hc : s.canvas cv with
  | none =>
    simp only [State.abandonOp, hc]
    exact k
  | some c => exact (k.onCanvas cv (c.endWork_results cv d seq op st)).trans ((abandonOp_of_canvas hc d frame stripe seq op st).of_id _)

theorem failItem (k : s0.KeepsWork Item.result s) (id : ItemId) (st : Status) (w : List Nat) :
    s0.KeepsWork Item.result (s.failItem id st w) := by
  unfold State.failItem
  split
  · exact k
  · split
    · exact k
    · exact k.ite ((k.abandonOp _ _ _ _ _ _ _).postItem _ _ _ _ _ _ _)

theorem endStream (k : s0.KeepsWork Item.result s) (st : StreamId) (why : Status) (w : List Nat) :
    s0.KeepsWork Item.result (s.endStream st why w) := by
  have k1 : s0.KeepsWork Item.result (s.onDie st.die fun y => y.removeStreams fun k _ => k == st) := k.onDie _ fun _ => .of_eq rfl rfl
  unfold State.endStream
  split
  · exact k
  · refine State.KeepsWork.refill ?_ st.die
    split
    · exact k1
    · split
      · exact k1
      · refine State.KeepsWork.postItem ?_ _ _ _ _ _ _ _
        split
        · exact k1.abandonOp _ _ _ _ _ _ _
        · exact k1

/-! #### Operations by reference, signals and returns -/

theorem failIssuer (k : s0.KeepsWork Item.result s) (cv : Option CanvasId) (q : TslReq) (st : Status) :
    s0.KeepsWork Item.result (s.failIssuer cv q st) := by
  unfold State.failIssuer
  refine (k.released q st).ite ((k.endStream _ _ _).ite (ite ?_ k))
  split
  · exact k.failItem _ _ _
  · exact k

theorem applyResult (k : s0.KeepsWork Item.result s) (cv : Option CanvasId) (e : TslReq × TslResult) :
    s0.KeepsWork Item.result (s.applyResult cv e) := by
  unfold State.applyResult
  split
  · exact k.failIssuer _ _ _
  · exact k.failIssuer _ _ _
  · exact k.ite (k.failIssuer _ _ _)
  · exact (k.released _ _).ite k
  · exact (k.released _ _).ite k
  · exact k
  · exact k

theorem tslOps (k : s0.KeepsWork Item.result s) (d : DieIx) (n : Nat) (ops : List TslReq) :
    s0.KeepsWork Item.result (s.tslOps d n ops) := by
  unfold State.tslOps
  dsimp only
  split
  · exact k
  · refine ite (k.onDie d fun _ => .of_eq (by rfl) (by rfl)) ?_
    have j (cv : Option CanvasId) := (k.tslCycle d n ops).foldl (l := (s.tslCycle d n ops).2) fun _ e j => j.applyResult cv e
    split
    · exact (j _).settleParts _
    · exact j _

theorem mapError (k : s0.KeepsWork Item.result s) (d : DieIx) (cv : Option CanvasId) (q : TslReq) :
    s0.KeepsWork Item.result (s.mapError d cv q) := by
  have j := k.countRaise (cnt := Reg.tslMapErrCnt) (evt := Reg.tslEvt) d 0x04 (by decide) (by decide)
  exact ((j.untrusted d).ite j).failIssuer _ _ _

theorem tslDo (k : s0.KeepsWork Item.result s) (d : DieIx) (r : TslRef) (q : TslReq) (cycle : List TslReq) :
    s0.KeepsWork Item.result (s.tslDo d r q cycle) := by
  cases r with
  | phys n => exact k.tslOps _ _ _
  | virt ctx v =>
    unfold State.tslDo
    dsimp only
    split
    · exact k.mapError _ _ _
    · exact k.tslOps _ _ _

theorem signalRows (k : s0.KeepsWork Item.result s) (c : Canvas) (id : ItemId) (before after allBefore allAfter : Nat) :
    s0.KeepsWork Item.result (s.signalRows c id before after allBefore allAfter) := by
  have hrows (q : TslReq) : s0.KeepsWork Item.result (if before < after then (c.opOf id.op).writes.foldl (fun s t =>
      match c.rowVirt t with
      | some v => s.tslDo id.die (.virt (Fin.ofNat 256 c.ctx) v) q []
      | none => s) s else s) := by
    refine ite (k.foldl fun _ n j => ?_) k
    split
    · exact j.tslDo _ _ _ _
    · exact j
  unfold State.signalRows
  dsimp only
  split
  · split
    · exact hrows _
    · exact (hrows _).sendGaide _
  · exact hrows _

theorem servePool (k : s0.KeepsWork g s) (d : DieIx) (n : Nat) : s0.KeepsWork g (s.servePool d n) := by
  unfold State.servePool
  split
  · exact k
  · refine foldl (k.onDie d fun _ => ?_) fun _ st j => j.onStream st _
    exact .of_eq rfl rfl

theorem engineReturn (k : s0.KeepsWork Item.result s) (id : ItemId) (pool units : Nat) :
    s0.KeepsWork Item.result (s.engineReturn id pool units) := by
  refine k.ite ?_
  split
  · exact k
  · split
    · refine (k.onDie _ fun _ => ?_).servePool _ _
      exact .of_eq rfl rfl
    · exact (k.countRaise _ _ (by decide) (by decide)).failItem _ _ _

theorem rowsFinished (k : s0.KeepsWork Item.result s) (cv : CanvasId) (id : ItemId) (after : Nat) :
    s0.KeepsWork Item.result (s.rowsFinished cv id after) := by
  unfold State.rowsFinished
  split
  · exact k
  · split
    · exact k
    · have k1 : s0.KeepsWork Item.result (s.onCanvas cv fun k =>
          { k with items := updFirst (fun j => j.id == id) (fun j => { j with rowsDone := after }) k.items }) :=
        k.onCanvas cv fun c => c.results_updItem _ fun _ => rfl
      refine (State.KeepsWork.signalRows ?_ _ _ _ _ _ _).engineReturn _ _ _
      exact ite (k1.onCanvas cv fun _ => rfl) k1

end State.KeepsWork

/-! ### What stands after work that is kept -/

section
variable {g : Item → Item} {s t : State} {cv : CanvasId} {c : Canvas} {it : ItemId} {i : Item}

theorem find?_map_eq {α β : Type} {f : α → β} {l m : List α} {p : β → Bool} {x : α} (h : m.map f = l.map f)
    (hx : l.find? (p ∘ f) = some x) : ∃ y, m.find? (p ∘ f) = some y ∧ f y = f x := by
  have e : (m.find? (p ∘ f)).map f = some (f x) := by rw [← List.find?_map, h, List.find?_map, hx, Option.map_some]
  exact Option.map_eq_some_iff.mp e

theorem State.KeepsWork.canvas (k : s.KeepsWork g t) (hc : s.canvas cv = some c) :
    ∃ b, t.canvas cv = some b ∧ b.results g = c.results g :=
  find?_map_eq (p := fun r : CanvasId × List (Nat × TensorBuf) × List Item => r.1 == cv) k.results hc

theorem Canvas.item_of_results {b : Canvas} (hg : ∀ i, (g i).id = i.id) (h : b.results g = c.results g) (hi : c.item it = some i) :
    ∃ j, b.item it = some j ∧ g j = g i := by
  have hitems : b.items.map g = c.items.map g := congrArg (fun r => r.2.2) h
  have hp : (fun i : Item => i.id == it) = (fun i : Item => i.id == it) ∘ g := by
    funext i
    simp [hg]
  rw [Canvas.item, hp] at hi ⊢
  exact find?_map_eq hitems hi

theorem State.KeepsWork.partial_none (k : s.KeepsWork g t) {d : DieIx} {e : EngIx} {tile : TileId}
    (h : ((s.die d).engines[e.val]).partial_ it tile = none) : ((t.die d).engines[e.val]).partial_ it tile = none := by
  rw [Engine.partial_, List.find?_eq_none] at h ⊢
  exact fun q hq => h q ((k.dies d).tiles e hq)

theorem Canvas.id_of_item (h : c.item it = some i) : i.id = it := by simpa using List.find?_some h

theorem Canvas.item_updItem {f : Item → Item} (hi : c.item it = some i) (hf : (f i).id = i.id) :
    ({ c with items := updFirst (fun j => j.id == it) f c.items } : Canvas).item it = some (f i) :=
  find?_updFirst_of_find? hi (by simp [Canvas.id_of_item hi]) (fun _ h => h) (by simp [hf, Canvas.id_of_item hi])

/-! #### Failure -/

/-- An item has ended with a status, and the tensors of its canvas are as they were. -/
def State.HasEnded (t : State) (it : ItemId) (c : Canvas) (st : Status) : Prop :=
  ∃ k j, t.canvas it.canvas = some k ∧ k.item it = some j ∧ j.ended = some st ∧ k.tensors = c.tensors

/-- In a canvas whose work from an op on has ended, a live item of that op has ended. -/
theorem Canvas.item_endWork (st : Status) (hi : c.item it = some i) (hcv : it.canvas = cv) (hl : i.live = true)
    (hop : it.op < (bHeader c.image).nops) : (c.endWork cv it.die it.stepSeq it.op st c).item it = some { i with ended := some st } := by
  have hhit : c.losesItem cv it.die it.stepSeq it.op it = true := by simp [Canvas.losesItem, hcv, Canvas.mem_lostOps hop]
  have e : (fun j : Item => j.id == it) ∘ (fun i =>
      if c.losesItem cv it.die it.stepSeq it.op i.id && i.live then { i with ended := some st } else i) = fun j : Item => j.id == it := by
    funext j
    rw [Function.comp_apply]
    split <;> rfl
  rw [Canvas.item, Canvas.endWork, List.find?_map, e]
  rw [Canvas.item] at hi
  rw [hi, Option.map_some, Canvas.id_of_item hi, hhit, hl]
  rfl

/-- Besides the work that ends with it, the failure of a live item leaves every item as it is. -/
theorem State.failItem_of_live (st : Status) (w : List Nat) (hc : s.canvas it.canvas = some c) (hi : c.item it = some i)
    (hl : i.live = true) : (s.onCanvas it.canvas (c.endWork it.canvas it.die it.stepSeq it.op st)).KeepsWork id (s.failItem it st w) := by
  have hf : c.items.find? (fun i => i.id == it) = some i := hi
  unfold State.failItem
  simp only [hc, hf, hl, Bool.true_eq_false, if_false]
  exact (State.KeepsWork.abandonOp_of_canvas hc _ _ _ _ _ st).postItem _ _ _ _ _ _ _

/-- A live item that fails ends, and nothing that has been computed changes (R54, R157). -/
theorem State.failItem_ended (st : Status) (w : List Nat) (hc : s.canvas it.canvas = some c) (hi : c.item it = some i)
    (hl : i.live = true) (hop : it.op < (bHeader c.image).nops) : (s.failItem it st w).HasEnded it c st := by
  have hcid : c.id = it.canvas := State.id_of_canvas hc
  obtain ⟨b, hb, hbr⟩ := (State.failItem_of_live st w hc hi hl).canvas (State.canvas_onCanvas_same hc hcid)
  obtain ⟨j, hj, hij⟩ := Canvas.item_of_results (fun _ => rfl) hbr (Canvas.item_endWork st hi rfl hl hop)
  exact ⟨b, j, hb, hj, by rw [hij], congrArg (fun r => r.2.1) hbr⟩

/-- A double-bit error of an entry ends its op and sets MXE_EVT.ACC_UE (R82). -/
theorem State.accLost_spec {e : EngIx} (hp : s.present it.die = true) (hu : it.unit = .me e) (hc : s.canvas it.canvas = some c)
    (hi : c.item it = some i) (hl : i.live = true) (hop : it.op < (bHeader c.image).nops) :
    ((s.accLost it).reg it.die (Reg.mxeEvt e)).getLsbD 3 = true ∧ (s.accLost it).HasEnded it c .aborted := by
  have hmxe : ∀ e : EngIx, IsMxeReg (Reg.mxeEvt e) := by decide
  have he : s.accLost it = (s.raise it.die (Reg.mxeEvt e) 8).failItem it .aborted [] := by simp only [State.accLost, hu]
  rw [he]
  refine ⟨?_, State.failItem_ended .aborted [] hc hi hl hop⟩
  have k := ((State.KeepsWork.refl Item.result (s.raise it.die (Reg.mxeEvt e) 8)).failItem it .aborted []).dies it.die
  rw [State.reg, k.regs _ (hmxe e)]
  change ((s.raise it.die (Reg.mxeEvt e) 8).reg it.die (Reg.mxeEvt e)).getLsbD 3 = true
  rw [State.reg_raise, if_pos ⟨rfl, hp, rfl⟩]
  simp

/-- A skew ends its op, and the registers of its engine show it (R103, R104). -/
theorem State.skew_spec {e : EngIx} (k : Skew) (hp : s.present it.die = true) (hc : s.canvas it.canvas = some c)
    (hi : c.item it = some i) (hl : i.live = true) (hop : it.op < (bHeader c.image).nops) :
    (s.skew it e k).HasEnded it c .scaleSkew ∧
      (s.skew it e k).reg it.die (Reg.mxeSkewLast e) = BitVec.ofNat 32 (k.exp.pos % 65536 + 65536 * k.got) ∧
      (s.skew it e k).reg it.die (Reg.mxeSkewCnt e) = satCount (s.reg it.die (Reg.mxeSkewCnt e)) 1 := by
  have hmxe : ∀ e : EngIx, IsMxeReg (Reg.mxeSkewLast e) ∧ IsMxeReg (Reg.mxeSkewCnt e) ∧ Reg.mxeSkewWhere e ≠ Reg.mxeSkewLast e ∧
      Reg.mxeSkewWhere e ≠ Reg.mxeSkewCnt e ∧ Reg.mxeSkewLast e ≠ Reg.mxeSkewCnt e := by decide
  obtain ⟨hlast, hcnt, hwl, hwc, hlc⟩ := hmxe e
  unfold State.skew
  dsimp only
  refine ⟨State.failItem_ended .scaleSkew _ hc hi hl hop, ?_, ?_⟩
  · rw [State.reg, (((State.KeepsWork.refl _ _).failItem it .scaleSkew _).dies it.die).regs _ hlast]
    change State.reg _ _ _ = _
    rw [State.reg_setReg, if_neg fun h => hwl h.2.2, State.reg_setReg_same]
    exact hp
  · rw [State.reg, (((State.KeepsWork.refl _ _).failItem it .scaleSkew _).dies it.die).regs _ hcnt]
    change State.reg _ _ _ = _
    rw [State.reg_setReg, if_neg fun h => hwc h.2.2, State.reg_setReg, if_neg fun h => hlc h.2.2,
      State.reg_count, if_pos ⟨rfl, hp, rfl⟩]

end

/-! ### Engines and their counters -/

section
variable (s : State) (d : DieIx) (e : EngIx)

theorem State.engine_onEngine_ne {d' : DieIx} {e' : EngIx} (f : Engine → Engine) (h : d ≠ d' ∨ e ≠ e') :
    ((s.onEngine d e f).die d').engines[e'.val] = (s.die d').engines[e'.val] := by
  rw [State.onEngine, State.die_onDie]
  split
  next hd =>
    obtain ⟨rfl, -⟩ := hd
    exact Vector.getElem_set_ne e.isLt e'.isLt fun he => h.elim (absurd rfl) fun ne => ne (Fin.ext he)
  next => rfl

theorem State.engine_onEngine_same (f : Engine → Engine) (hp : s.present d = true) :
    ((s.onEngine d e f).die d).engines[e.val] = f (s.die d).engines[e.val] := by
  rw [State.onEngine, s.die_onDie_same d hp]
  exact Vector.getElem_set_self _

theorem State.regs_onEngine (f : Engine → Engine) (d' : DieIx) : ((s.onEngine d e f).die d').regs = (s.die d').regs := by
  rw [State.onEngine, State.die_onDie]
  split
  next hd =>
    obtain ⟨rfl, -⟩ := hd
    rfl
  next => rfl

theorem State.countAcc_reports (n : Nat) : s.OnlyReports (s.countAcc d e n) :=
  .ite (.refl s) (((State.OnlyReports.refl s).onDie d fun _ => by rfl).raise d _ _)

theorem satCount_zero (w : Word) : satCount w 0 = w := by
  refine BitVec.eq_of_toNat_eq ?_
  have := w.isLt
  simp only [satCount, Nat.add_zero, BitVec.toNat_ofNat]
  omega

/-- Corrected errors count in MXE_ACC_CE of the engine. -/
theorem State.accCe_countAcc_same (n : Nat) (hp : s.present d = true) :
    (s.countAcc d e n).reg d (Reg.mxeAccCe e) = satCount (s.reg d (Reg.mxeAccCe e)) n := by
  have hne : ∀ e : EngIx, Reg.mxeEvt e ≠ Reg.mxeAccCe e := by decide
  unfold State.countAcc
  split
  next h => rw [h, satCount_zero]
  next => rw [State.reg_raise, if_neg fun h => hne e h.2.2, State.reg_count, if_pos ⟨rfl, hp, rfl⟩]

/-- They leave every register but that one and MXE_EVT of the engine. -/
theorem State.reg_countAcc_ne {d' : DieIx} {off : Nat} (n : Nat) (h : d ≠ d' ∨ (Reg.mxeAccCe e ≠ off ∧ Reg.mxeEvt e ≠ off)) :
    (s.countAcc d e n).reg d' off = s.reg d' off := by
  unfold State.countAcc
  split
  · rfl
  · rw [State.reg_raise, if_neg fun k => h.elim (· k.1) (·.2 k.2.2), State.reg_count, if_neg fun k => h.elim (· k.1) (·.1 k.2.2)]

end

/-! ### The split-K tree (R83, R84) -/

/-- The nodes of the combine tree stand in ascending order of level. -/
theorem combineNodes_pairwise (fuel level n : Nat) :
    (combineNodes fuel level n).Pairwise (fun a b => a.1 ≤ b.1) ∧ ∀ q ∈ combineNodes fuel level n, level ≤ q.1 := by
  induction fuel generalizing level n with
  | zero => simp [combineNodes]
  | succ fuel ih =>
    rw [combineNodes]
    split
    · simp
    · obtain ⟨hpair, hle⟩ := ih (level + 1) ((n + 1) / 2)
      have hrow : ∀ q ∈ (List.range (n / 2)).map (fun i => (level, i)), q.1 = level := by simp
      refine ⟨List.pairwise_append.mpr ⟨?_, hpair, fun a ha b hb => ?_⟩, fun q hq => ?_⟩
      · exact List.pairwise_of_forall_mem_list fun a ha b hb => by rw [hrow a ha, hrow b hb]
      · rw [hrow a ha]
        exact Nat.le_of_succ_le (hle b hb)
      · obtain hq | hq := List.mem_append.mp hq
        · exact (hrow q hq).ge
        · exact Nat.le_of_succ_le (hle q hq)

/-- Every node of a lower level than that of node k stands before it. -/
theorem combineNodes_lower {fuel n k lev i : Nat} (hk : (combineNodes fuel 0 n)[k]? = some (lev, i)) :
    ∀ q ∈ (combineNodes fuel 0 n).zipIdx, q.1.1 < lev → q.2 < k := by
  intro q hq hlt
  obtain ⟨hklt, hke⟩ := List.getElem?_eq_some_iff.mp hk
  obtain ⟨hqlt, hqe⟩ := List.getElem?_eq_some_iff.mp (List.mem_zipIdx_iff_getElem?.mp hq)
  by_contra hge
  obtain heq | hkq := Nat.eq_or_lt_of_le (Nat.le_of_not_lt hge)
  · rw [← hqe] at hlt
    simp [← heq, hke] at hlt
  · have hle := List.pairwise_iff_getElem.mp (combineNodes_pairwise fuel 0 n).1 k q.2 hklt hqlt hkq
    rw [hke, hqe] at hle
    exact absurd hlt (Nat.not_lt.mpr hle)

/-- A tile of the left operand with the entries of the right operand's tile added, where it has one. -/
def Slot.plus (o : Op) (rs : List Slot) (x : Slot) : Slot :=
  match rs.find? fun y => y.tile == x.tile with
  | some y => { x with entries := (x.entries.zip y.entries).map fun e => combineAdd o e.1 e.2 }
  | none => x

/-- The state in which the corrected errors of both operands are counted. -/
def State.counted (s : State) (a b : ItemId) (left right : AccRead) : State :=
  (s.countItemAcc a left.corrected).countItemAcc b right.corrected

/-- Their entries are added, and the tiles of operand b leave its engine. -/
def State.added (s : State) (o : Op) (a b : ItemId) (eb : EngIx) (left right : AccRead) : State :=
  (s.partials b).foldl (fun s y => s.onEngine b.die eb fun g => g.without b y.tile)
    ((s.counted a b left right).onPartials a (Slot.plus o (s.partials b)))

/-- Node k of an item's op has added item b to item a. -/
def State.combined (s : State) (c : Canvas) (id a b : ItemId) (eb : EngIx) (k : Nat) (left right : AccRead) : State :=
  (s.added (c.opOf id.op) a b eb left right).onCanvas c.id fun q =>
    { q with items := updFirst (fun j => j.id == id) (fun j => { j with nodes := j.nodes ++ [k] }) q.items }

section
variable {s : State} {id : ItemId} {c : Canvas} {it a b : Item} {k lev i : Nat}

/-- The participants of the op of an item. -/
abbrev State.splitCount (s : State) (c : Canvas) (id : ItemId) : Nat := participants (opNb c.image (c.opOf id.op)) s.engines s.nDies

/-- The item that is a participant of the op of an item, in its stripe step. -/
abbrev State.splitItem (s : State) (c : Canvas) (id : ItemId) (p : Nat) : Option Item :=
  c.items.find? fun j => j.id.op == id.op && j.id.stepSeq == id.stepSeq && (s.participant c (c.opOf id.op) j.id).1 == p

/-- A participant holds every tile folded over its whole range, and waits for no barrier. -/
abbrev State.splitWhole (s : State) (c : Canvas) (id : ItemId) (p : Nat) (j : Item) : Prop :=
  let o := c.opOf id.op
  (s.partials j.id).length = (((c.wholeBand o.out0).rows).map fun y => (c.rowTiles o (c.wholeBand o.out0) s.engines 0 y).length).sum ∧
    s.atBarrier j = false ∧ ∀ q ∈ s.partials j.id, q.next = (kRange p (s.splitCount c id) (c.shape o).nb).2

/-- Node k of the tree of an item's op, i of its level, may add: items a and b are its operands, both whole, and every lower node is
combined. -/
structure State.NodeReady (s : State) (id : ItemId) (c : Canvas) (it a b : Item) (k lev i : Nat) : Prop where
  canvas : s.canvas id.canvas = some c
  item : c.item id = some it
  live : it.live = true
  frame : (c.opOf id.op).frameScope = true
  first : (s.participant c (c.opOf id.op) id).1 = 0
  node : (combineNodes 8 0 (s.splitCount c id))[k]? = some (lev, i)
  fresh : it.nodes.contains k = false
  lower : ∀ j, j < k → it.nodes.contains j = true
  left : s.splitItem c id (2 * i * 2 ^ lev) = some a
  right : s.splitItem c id ((2 * i + 1) * 2 ^ lev) = some b
  leftWhole : s.splitWhole c id (2 * i * 2 ^ lev) a
  rightWhole : s.splitWhole c id ((2 * i + 1) * 2 ^ lev) b

theorem State.NodeReady.fx (h : s.NodeReady id c it a b k lev i) {eb : EngIx} (hub : b.id.unit = .me eb) (left right : AccRead) :
    fxSplitKCombine id k left right s =
      if left.uncorrectable then s.accLost a.id
      else if right.uncorrectable then s.accLost b.id
      else s.combined c id a.id b.id eb k left right := by
  have hcomb (p : Nat) : ((combineNodes 8 0 (s.splitCount c id)).zipIdx.all fun q => !(decide (q.1.1 < lev) &&
      decide (p ≤ 2 * q.1.2 * 2 ^ q.1.1) && decide (2 * q.1.2 * 2 ^ q.1.1 < p + 2 ^ lev)) || it.nodes.contains q.2) = true := by
    rw [List.all_eq_true]
    intro q hq
    by_cases hlt : q.1.1 < lev
    · rw [h.lower q.2 (combineNodes_lower h.node q hq hlt), Bool.or_true]
    · simp [hlt]
  have hfold {l : List Slot} {n : Nat} (h : ∀ q ∈ l, q.next = n) : (l.all fun q => q.next == n) = true :=
    List.all_eq_true.mpr fun q hq => beq_iff_eq.mpr (h q hq)
  obtain ⟨hla, hba, hna⟩ := h.leftWhole
  obtain ⟨hlb, hbb, hnb⟩ := h.rightWhole
  unfold fxSplitKCombine
  simp only [h.canvas, h.node, h.item, h.left, h.right, h.live, h.frame, h.first, h.fresh, hla, hba, hlb, hbb, hcomb,
    hfold hna, hfold hnb, hub]
  rw [if_neg (by simp)]
  rfl

end

section
variable (s : State) (c : Canvas) (id : ItemId)

/-- A node of an item that no longer runs, or that is combined, adds nothing. -/
theorem fxSplitKCombine_idle {it : Item} {k : Nat} (left right : AccRead) (hc : s.canvas id.canvas = some c) (hi : c.item id = some it)
    (h : it.live = false ∨ it.nodes.contains k = true) : fxSplitKCombine id k left right s = s := by
  unfold fxSplitKCombine
  simp only [hc, hi]
  split
  next lev i it' hn hit =>
    obtain rfl := Option.some.inj hit
    split
    · refine if_pos ?_
      obtain h | h := h <;> simp only [h, Bool.and_false, Bool.false_and, Bool.not_true, Bool.not_false]
    · rfl
  next => rfl

/-- The item that is a participant of an op is the one that its canvas has under its name. -/
theorem State.item_of_splitItem {p : Nat} {a : Item} (h : s.splitItem c id p = some a) : c.item a.id = some a ∧ a.id.op = id.op := by
  obtain ⟨ha, pre, post, hl, hpre⟩ := List.find?_eq_some_iff_append.mp h
  refine ⟨List.find?_eq_some_iff_append.mpr ⟨beq_self_eq_true _, pre, post, hl, fun x hx => ?_⟩, ?_⟩
  · have hne : ¬ x.id = a.id := by
      intro e
      have hp := hpre x hx
      rw [e, ha] at hp
      exact absurd hp (by decide)
    simpa using hne
  · simp only [Bool.and_eq_true, beq_iff_eq] at ha
    exact ha.1.1

end

/-! #### Tiles of engines -/

section
variable {s t : State} {it : ItemId} {e : EngIx} {x : Slot}

theorem State.mem_partials (hu : it.unit = .me e) :
    x ∈ s.partials it ↔ x ∈ ((s.die it.die).engines[e.val]).tiles ∧ x.it = it := by
  simp only [State.partials, hu, List.mem_filter, beq_iff_eq]

theorem Engine.tiles_without (g : Engine) (tile : TileId) :
    (g.without it tile).tiles = g.tiles.filter fun x => !(x.it == it && x.tile == tile) := by
  simp only [Engine.tiles, Engine.without, List.filter_append, List.filter_map, Option.toList_filter]
  rfl

/-- What an item holds of a tile is changed with the others. -/
theorem State.mem_partials_onPartials {f : Slot → Slot} (hp : s.present it.die = true) (hu : it.unit = .me e) (hf : (f x).it = x.it)
    (hx : x ∈ s.partials it) : f x ∈ (s.onPartials it f).partials it := by
  obtain ⟨hmem, hit⟩ := (State.mem_partials hu).mp hx
  refine (State.mem_partials hu).mpr ⟨?_, hf.trans hit⟩
  simp only [State.onPartials, hu]
  rw [State.engine_onEngine_same _ _ _ _ hp]
  simp only [Engine.tiles, List.mem_append, List.map_map, Option.toList_map] at hmem ⊢
  obtain ((hmem | hmem) | hmem) | hmem := hmem
  · obtain ⟨y, hy, rfl⟩ := List.mem_map.mp hmem
    exact .inl (.inl (.inl (List.mem_map.mpr ⟨y, hy, by rw [Function.comp_apply, if_pos hit]⟩)))
  · exact .inl (.inl (.inr (List.mem_map.mpr ⟨x, hmem, if_pos hit⟩)))
  · exact .inl (.inr (List.mem_map.mpr ⟨x, hmem, if_pos hit⟩))
  · exact .inr (List.mem_map.mpr ⟨x, hmem, if_pos hit⟩)

/-- Besides the engines of its dies, a state is the same. -/
structure State.OnlyEngines (s t : State) : Prop where
  frame : t = { s with dies := t.dies }
  regs : ∀ d, (t.die d).regs = (s.die d).regs

namespace State.OnlyEngines

protected theorem refl (s : State) : s.OnlyEngines s := ⟨rfl, fun _ => rfl⟩

theorem onEngine (h : s.OnlyEngines t) (d : DieIx) (e : EngIx) (f : Engine → Engine) : s.OnlyEngines (t.onEngine d e f) :=
  ⟨by
    rw [h.frame]
    rfl, fun d' => (t.regs_onEngine d e f d').trans (h.regs d')⟩

theorem onPartials (h : s.OnlyEngines t) (hu : it.unit = .me e) (f : Slot → Slot) : s.OnlyEngines (t.onPartials it f) := by
  simp only [State.onPartials, hu]
  exact h.onEngine _ _ _

theorem trans {u : State} (h : s.OnlyEngines t) (k : t.OnlyEngines u) : s.OnlyEngines u :=
  ⟨by
    rw [k.frame, h.frame], fun d => (k.regs d).trans (h.regs d)⟩

theorem present (h : s.OnlyEngines t) (d : DieIx) : t.present d = s.present d := by
  rw [h.frame]
  rfl

end State.OnlyEngines

/-- The right operand's tiles leave its engine, and nothing else changes. -/
theorem State.withoutAll_spec {rs : List Slot} (hp : s.present it.die = true) :
    let t := rs.foldl (fun s y => s.onEngine it.die e fun g => g.without it y.tile) s
    s.OnlyEngines t ∧ (∀ (d : DieIx) (f : EngIx), d ≠ it.die ∨ f ≠ e → (t.die d).engines[f.val] = (s.die d).engines[f.val]) ∧
      ∀ y ∈ rs, y.it = it → y ∉ ((t.die it.die).engines[e.val]).tiles := by
  intro t
  refine ⟨foldl_inv (fun u y h => h.onEngine _ _ _) (.refl s), fun d f hne => ?_, fun y hy hyit => ?_⟩
  · refine foldl_inv (P := fun u : State => (u.die d).engines[f.val] = (s.die d).engines[f.val]) (fun u y h => ?_) rfl
    rw [State.engine_onEngine_ne u it.die e _ (hne.imp Ne.symm Ne.symm), h]
  · suffices h : t.present it.die = true ∧ y ∉ ((t.die it.die).engines[e.val]).tiles from h.2
    refine foldl_reaches (P := fun u : State => u.present it.die = true)
      (Q := fun u : State => u.present it.die = true ∧ y ∉ ((u.die it.die).engines[e.val]).tiles) hy (fun u b _ h => h)
      (fun u b _ h => ?_) (fun u h => ?_) hp
    · obtain ⟨hu, hn⟩ := h
      refine ⟨hu, ?_⟩
      rw [u.engine_onEngine_same _ _ _ hu, Engine.tiles_without]
      exact fun k => hn (List.mem_filter.mp k).1
    · refine ⟨h, ?_⟩
      rw [u.engine_onEngine_same _ _ _ h, Engine.tiles_without]
      exact fun k => by simp [hyit] at k

end

/-! #### Both operands are sound -/

theorem Slot.plus_it (o : Op) (rs : List Slot) (x : Slot) : (x.plus o rs).it = x.it := by
  unfold Slot.plus
  split <;> rfl

section
variable {s : State} {o : Op} {a b : ItemId} {ea eb : EngIx} {left right : AccRead}

theorem State.OnlyReports.present {t : State} (h : s.OnlyReports t) (d : DieIx) : t.present d = s.present d := by
  rw [h.frame]
  rfl

theorem State.counted_reports (hua : a.unit = .me ea) (hub : b.unit = .me eb) : s.OnlyReports (s.counted a b left right) := by
  simp only [State.counted, State.countItemAcc, hua, hub]
  exact (s.countAcc_reports _ _ _).trans (State.countAcc_reports _ _ _ _)

theorem State.accCe_counted (hua : a.unit = .me ea) (hub : b.unit = .me eb) (hne : a.die ≠ b.die ∨ ea ≠ eb)
    (hpa : s.present a.die = true) (hpb : s.present b.die = true) :
    (s.counted a b left right).reg a.die (Reg.mxeAccCe ea) = satCount (s.reg a.die (Reg.mxeAccCe ea)) left.corrected ∧
      (s.counted a b left right).reg b.die (Reg.mxeAccCe eb) = satCount (s.reg b.die (Reg.mxeAccCe eb)) right.corrected := by
  have hoff : ∀ e f : EngIx, Reg.mxeEvt e ≠ Reg.mxeAccCe f ∧ (e ≠ f → Reg.mxeAccCe e ≠ Reg.mxeAccCe f) := by decide
  have hpb' : (s.countAcc a.die ea left.corrected).present b.die = true := by rw [(s.countAcc_reports _ _ _).present, hpb]
  simp only [State.counted, State.countItemAcc, hua, hub]
  constructor
  · rw [State.reg_countAcc_ne _ _ _ _ (hne.imp Ne.symm fun h => ⟨(hoff eb ea).2 h.symm, (hoff eb ea).1⟩),
      State.accCe_countAcc_same _ _ _ _ hpa]
  · rw [State.accCe_countAcc_same _ _ _ _ hpb',
      State.reg_countAcc_ne _ _ _ _ (hne.imp (fun h => h) fun h => ⟨(hoff ea eb).2 h, (hoff ea eb).1⟩)]

theorem State.counted_zero (hl : left.corrected = 0) (hr : right.corrected = 0) : s.counted a b left right = s := by
  have hzero (s : State) (i : ItemId) : s.countItemAcc i 0 = s := by
    unfold State.countItemAcc
    split <;> rfl
  rw [State.counted, hl, hr, hzero, hzero]

theorem State.counted_engines (hua : a.unit = .me ea) (hub : b.unit = .me eb) (d : DieIx) :
    ((s.counted a b left right).die d).engines = (s.die d).engines := by
  rw [(State.counted_reports hua hub).die]

/-- The state in which the entries are added, before the tiles of operand b leave. -/
theorem State.present_summed (hua : a.unit = .me ea) (hub : b.unit = .me eb) (f : Slot → Slot) (d : DieIx) :
    ((s.counted a b left right).onPartials a f).present d = s.present d := by
  rw [((State.OnlyEngines.refl _).onPartials hua _).present, (State.counted_reports hua hub).present]

theorem State.added_spec (o : Op) (hua : a.unit = .me ea) (hub : b.unit = .me eb) (hne : a.die ≠ b.die ∨ ea ≠ eb)
    (hpa : s.present a.die = true) (hpb : s.present b.die = true) :
    let t := s.added o a b eb left right
    (s.counted a b left right).OnlyEngines t ∧
      (∀ x ∈ s.partials a, x.plus o (s.partials b) ∈ t.partials a) ∧ ∀ y ∈ s.partials b, y ∉ t.partials b := by
  intro t
  have hk := State.counted_reports (s := s) (left := left) (right := right) hua hub
  obtain ⟨hon, heng, hout⟩ := State.withoutAll_spec (e := eb) (rs := s.partials b)
    (hpb ▸ State.present_summed (s := s) (left := left) (right := right) hua hub (Slot.plus o (s.partials b)) b.die)
  refine ⟨((State.OnlyEngines.refl _).onPartials hua _).trans hon, fun x hx => ?_, fun y hy h => ?_⟩
  · have hx' : x ∈ (s.counted a b left right).partials a := by
      rw [State.mem_partials hua, State.counted_engines hua hub]
      exact (State.mem_partials hua).mp hx
    have hmem := State.mem_partials_onPartials (hpa ▸ hk.present a.die) hua (Slot.plus_it o (s.partials b) x) hx'
    rw [State.mem_partials hua] at hmem ⊢
    exact (heng _ _ hne) ▸ hmem
  · exact hout y hy ((State.mem_partials hub).mp hy).2 ((State.mem_partials hub).mp h).1

end

/-- Settles O31: node k adds where its operands are whole; combined nodes and items that do not run add nothing. -/
theorem splitKCombines : Obligations.split_k_combines := by
  unfold Obligations.split_k_combines
  intro s id c it k left right hc hi
  refine ⟨fun h => ⟨_, rfl, fxSplitKCombine_idle s c id left right hc hi h⟩, ?_⟩
  intro a b ea eb lev i o n part find whole hop hlive hframe hfirst hnode hfresh hlower hfa hfb hwa hwb hua hub hne hpa hpb
  have hready : s.NodeReady id c it a b k lev i := ⟨hc, hi, hlive, hframe, hfirst, hnode, hfresh, hlower, hfa, hfb, hwa, hwb⟩
  obtain ⟨hia, hopa⟩ := State.item_of_splitItem s c id hfa
  obtain ⟨hib, hopb⟩ := State.item_of_splitItem s c id hfb
  have hfx := hready.fx hub left right
  refine ⟨fun hl hla hca => ⟨_, rfl, ?_⟩, fun hl hr hlb hcb => ⟨_, rfl, ?_⟩, fun hl hr => ⟨_, rfl, ?_⟩⟩
  · rw [hfx, if_pos hl, ← hca]
    exact State.accLost_spec hpa hua (hca ▸ hc) hia hla (hopa ▸ hop)
  · rw [hfx, hl, if_neg Bool.false_ne_true, if_pos hr, ← hcb]
    exact State.accLost_spec hpb hub (hcb ▸ hc) hib hlb (hopb ▸ hop)
  · rw [hfx, hl, hr, if_neg Bool.false_ne_true, if_neg Bool.false_ne_true]
    obtain ⟨hon, hsum, hout⟩ := State.added_spec (left := left) (right := right) o hua hub hne hpa hpb
    obtain ⟨hca, hcb⟩ := State.accCe_counted (left := left) (right := right) hua hub hne hpa hpb
    have hcan : (s.added o a.id b.id eb left right).canvas id.canvas = some c := by
      rw [State.canvas, hon.frame]
      exact ((State.counted_reports hua hub).canvas id.canvas).trans hc
    refine ⟨fun h0 h1 => ?_, ?_, ?_, ?_, fun x hx y hy => ?_, hout⟩
    · rw [State.counted_zero h0 h1] at hon
      refine ⟨?_, hon.regs⟩
      rw [State.combined, State.onCanvas, hon.frame]
    · rw [State.reg, Die.reg, ← hca, State.reg, Die.reg, ← hon.regs]
      rfl
    · rw [State.reg, Die.reg, ← hcb, State.reg, Die.reg, ← hon.regs]
      rfl
    · have hcid := State.id_of_canvas hc
      refine ⟨_, _, by rw [← hcid]; exact State.canvas_onCanvas_same (hcid ▸ hcan) rfl, rfl, Canvas.item_updItem hi rfl, rfl⟩
    · have h := hsum x hx
      rw [Slot.plus, hy] at h
      exact h

/-! ### Conversion and retirement (R82, R86, R91, R105, R177) -/

section
variable {s t : State} {c : Canvas} {id : ItemId} {i : Item} {e : EngIx} {tile : TileId} {acc : AccRead} {sl : Slot}

@[simp] theorem State.die_onCanvas (s : State) (cv : CanvasId) (f : Canvas → Canvas) (d : DieIx) :
    (s.onCanvas cv f).die d = s.die d := rfl

theorem Engine.partial_without (g : Engine) : (g.without id tile).partial_ id tile = none := by
  rw [Engine.partial_, Engine.tiles_without, List.find?_eq_none]
  intro x hx
  have h := (List.mem_filter.mp hx).2
  simp only [Bool.not_eq_true'] at h
  rw [h]
  exact Bool.false_ne_true

theorem State.OnlyReports.engines (h : s.OnlyReports t) (d : DieIx) : (t.die d).engines = (s.die d).engines := by
  rw [h.die]

theorem State.countWide_reports (s : State) (d : DieIx) (lo n evt mask : Nat) :
    s.OnlyReports (if n = 0 then s else (s.onDie d fun x => x.countWide lo n).raise d evt mask) :=
  .ite (.refl s) (((State.OnlyReports.refl s).onDie d fun _ => by rfl).raise d _ _)

theorem State.countMxe_reports (s : State) (d : DieIx) (e : EngIx) (sat nan : Nat) : s.OnlyReports (s.countMxe d e sat nan) :=
  (s.countWide_reports d _ sat _ _).trans (State.countWide_reports _ d _ nan _ _)

/-- A count of two words changes only them and the flag. -/
theorem State.reg_countWide_ne (s : State) {d d' : DieIx} {lo n evt mask off : Nat} (h : off ∉ [lo, lo + 4, evt]) :
    (if n = 0 then s else (s.onDie d fun x => x.countWide lo n).raise d evt mask).reg d' off = s.reg d' off := by
  simp only [List.mem_cons, List.not_mem_nil, or_false, not_or] at h
  obtain ⟨hlo, hhi, he⟩ := h
  split
  · rfl
  · rw [State.reg_raise, if_neg fun k => he k.2.2.symm]
    change ((s.onDie d fun x => x.countWide lo n).die d').reg off = (s.die d').reg off
    rw [State.die_onDie]
    split
    next hd =>
      obtain ⟨rfl, -⟩ := hd
      rw [Die.countWide, Die.setWide, Die.reg_setReg_ne _ _ (Ne.symm hhi), Die.reg_setReg_ne _ _ (Ne.symm hlo)]
    next => rfl

theorem State.accCe_countMxe (s : State) (d : DieIx) (e : EngIx) (sat nan : Nat) :
    (s.countMxe d e sat nan).reg d (Reg.mxeAccCe e) = s.reg d (Reg.mxeAccCe e) := by
  have hoff : ∀ e : EngIx, Reg.mxeAccCe e ∉ [Reg.mxeSatLo e, Reg.mxeSatLo e + 4, Reg.mxeEvt e] ∧
      Reg.mxeAccCe e ∉ [Reg.mxeNanLo e, Reg.mxeNanLo e + 4, Reg.mxeEvt e] := by decide
  obtain ⟨hsat, hnan⟩ := hoff e
  exact (State.reg_countWide_ne _ hnan).trans (s.reg_countWide_ne hsat)

/-- The elements of a tile of an item are written, and the tile is among those converted. -/
def Canvas.takeTile (k : Canvas) (id : ItemId) (i : Item) (t : Nat) (tile : TileId)
    (l : List ((Nat × Nat × Nat × Nat) × Conv)) : Canvas :=
  { (k.writeElems t i.frame (l.map fun x => (x.1, x.2.raw))) with
    items := updFirst (fun j => j.id == id) (fun j => { j with tiles := tile :: i.tiles }) k.items }

/-- A tile of an item has been converted: its elements stand in OUT0, and the engine no longer holds it. -/
def State.converted (s : State) (c : Canvas) (id : ItemId) (e : EngIx) (i : Item) (tile : TileId) (acc : AccRead) (sl : Slot) : State :=
  let l := c.convertTile i (c.itemBand i) tile sl.entries
  ((((s.countAcc id.die e acc.corrected).onEngine id.die e fun g => g.without id tile).onCanvas c.id fun k =>
    k.takeTile id i (c.opOf id.op).out0 tile l).countMxe id.die e (l.filter fun x => x.2.sat).length (l.filter fun x => x.2.nan).length)

/-- The rows that it finishes are then signalled. -/
def State.convertedRows (s : State) (c : Canvas) (id : ItemId) (e : EngIx) (i : Item) (tile : TileId) (acc : AccRead) (sl : Slot) : State :=
  let after := c.prefixRows (c.opOf id.op) (c.itemBand i) s.engines e.val (tile :: i.tiles)
  if i.rowsDone < after then (s.converted c id e i tile acc sl).rowsFinished c.id id after else s.converted c id e i tile acc sl

theorem fxTileConvert_idle (hc : s.canvas id.canvas = some c) (hi : c.item id = some i) (hu : id.unit = .me e)
    (h : ((s.die id.die).engines[e.val]).partial_ id tile = none ∨ i.live = false ∨ c.pause ≠ .running) :
    fxTileConvert id tile acc s = s := by
  simp only [fxTileConvert, hc, hu, hi]
  split
  next j sl hj hsl =>
    obtain rfl := Option.some.inj hj
    obtain h | h | h := h
    · rw [hsl] at h
      exact absurd h (by simp)
    · exact if_pos (.inl h)
    · exact if_pos (.inr (.inl h))
  next => rfl

theorem fxTileConvert_eq (hc : s.canvas id.canvas = some c) (hi : c.item id = some i) (hu : id.unit = .me e)
    (hheld : ((s.die id.die).engines[e.val]).partial_ id tile = some sl) (hl : i.live = true) (hrun : c.pause = .running) :
    fxTileConvert id tile acc s =
      if s.tileFinished c i sl = false then s
      else if acc.uncorrectable then s.accLost id
      else (if s.allFolded c id.op id.die id.stepSeq then s.longStream c (c.opOf id.op) id.die id.stepSeq else none).elim
        (s.convertedRows c id e i tile acc sl) ((s.countAcc id.die e acc.corrected).skew id e) := by
  simp only [fxTileConvert, hc, hu, hi, hheld, hl, hrun, Bool.true_eq_false, ne_eq, not_true_eq_false, false_or]
  split
  · rfl
  · split
    · rfl
    · split
      next h =>
        rw [h]
        rfl
      next h =>
        rw [h]
        rfl

theorem State.converted_spec (hp : s.present id.die = true) (hc : s.canvas id.canvas = some c) (hi : c.item id = some i) :
    let t := s.converted c id e i tile acc sl
    (∃ k, t.canvas id.canvas = some k ∧ k.item id = some { i with tiles := tile :: i.tiles } ∧ k.tensors =
      (c.writeElems (c.opOf id.op).out0 i.frame ((c.convertTile i (c.itemBand i) tile sl.entries).map fun x => (x.1, x.2.raw))).tensors) ∧
      ((t.die id.die).engines[e.val]).partial_ id tile = none ∧
      t.reg id.die (Reg.mxeAccCe e) = satCount (s.reg id.die (Reg.mxeAccCe e)) acc.corrected := by
  have hk := s.countAcc_reports id.die e acc.corrected
  have hcid := State.id_of_canvas hc
  have hc1 : ((s.countAcc id.die e acc.corrected).onEngine id.die e fun g => g.without id tile).canvas id.canvas = some c :=
    (hk.canvas id.canvas).trans hc
  have hm := State.countMxe_reports (((s.countAcc id.die e acc.corrected).onEngine id.die e fun g => g.without id tile).onCanvas c.id
    fun k => k.takeTile id i (c.opOf id.op).out0 tile (c.convertTile i (c.itemBand i) tile sl.entries)) id.die e
  refine ⟨⟨c.takeTile id i (c.opOf id.op).out0 tile (c.convertTile i (c.itemBand i) tile sl.entries), ?_, ?_, rfl⟩, ?_, ?_⟩
  · rw [State.converted, (hm _ _).canvas, hcid]
    exact State.canvas_onCanvas_same hc1 hcid
  · exact Canvas.item_updItem (f := fun j => { j with tiles := tile :: i.tiles }) hi rfl
  · rw [State.converted, (hm _ _).engines]
    rw [State.die_onCanvas, State.engine_onEngine_same _ _ _ _ (hp ▸ hk.present id.die)]
    exact Engine.partial_without _
  · rw [State.converted, State.accCe_countMxe, ← State.accCe_countAcc_same _ _ _ _ hp, State.reg,
      State.die_onCanvas, Die.reg, State.regs_onEngine]
    rfl

/-- A stream that is too long is recorded beside the corrected errors of the tile. -/
theorem State.skew_countAcc_spec (k : Skew) (hp : s.present id.die = true) (hc : s.canvas id.canvas = some c) (hi : c.item id = some i)
    (hl : i.live = true) (hop : id.op < (bHeader c.image).nops) :
    let t := (s.countAcc id.die e acc.corrected).skew id e k
    t.HasEnded id c .scaleSkew ∧ t.reg id.die (Reg.mxeSkewLast e) = BitVec.ofNat 32 (k.exp.pos % 65536 + 65536 * k.got) ∧
      t.reg id.die (Reg.mxeSkewCnt e) = satCount (s.reg id.die (Reg.mxeSkewCnt e)) 1 := by
  have hk := s.countAcc_reports id.die e acc.corrected
  have hoff : ∀ e : EngIx, Reg.mxeAccCe e ≠ Reg.mxeSkewCnt e ∧ Reg.mxeEvt e ≠ Reg.mxeSkewCnt e := by decide
  rw [← State.reg_countAcc_ne s id.die e acc.corrected (.inr (hoff e))]
  exact State.skew_spec k (hp ▸ hk.present id.die) ((hk.canvas _).trans hc) hi hl hop

end

section
variable {s : State} {c : Canvas} {id : ItemId} {i : Item} {e : EngIx} {tile : TileId} {acc : AccRead} {sl : Slot}

theorem State.convertedRows_spec (hp : s.present id.die = true) (hc : s.canvas id.canvas = some c) (hi : c.item id = some i) :
    let t := s.convertedRows c id e i tile acc sl
    (∃ k j, t.canvas id.canvas = some k ∧ k.item id = some j ∧ j.tiles = tile :: i.tiles ∧ k.tensors =
      (c.writeElems (c.opOf id.op).out0 i.frame ((c.convertTile i (c.itemBand i) tile sl.entries).map fun x => (x.1, x.2.raw))).tensors) ∧
      ((t.die id.die).engines[e.val]).partial_ id tile = none ∧
      t.reg id.die (Reg.mxeAccCe e) = satCount (s.reg id.die (Reg.mxeAccCe e)) acc.corrected := by
  intro t
  have hmxe : ∀ e : EngIx, IsMxeReg (Reg.mxeAccCe e) := by decide
  obtain ⟨⟨k, hk, hki, hkt⟩, hnone, hce⟩ := State.converted_spec (e := e) (tile := tile) (acc := acc) (sl := sl) hp hc hi
  have hkeep : (s.converted c id e i tile acc sl).KeepsWork Item.result t :=
    ((State.KeepsWork.refl _ _).rowsFinished _ _ _).ite (.refl _ _)
  obtain ⟨b, hb, hbk⟩ := hkeep.canvas hk
  obtain ⟨j, hj, hij⟩ := Canvas.item_of_results (g := Item.result) (fun _ => rfl) hbk hki
  refine ⟨⟨b, j, hb, hj, congrArg Item.tiles hij, (congrArg (fun r => r.2.1) hbk).trans hkt⟩, hkeep.partial_none hnone, ?_⟩
  rw [State.reg, (hkeep.dies id.die).regs _ (hmxe e)]
  exact hce

/-- An item that retires keeps what it has computed. -/
theorem State.retire_spec (hc : s.canvas id.canvas = some c) (hi : c.item id = some i) :
    ∃ k j, (s.retire id).canvas id.canvas = some k ∧ k.item id = some j ∧ j.retired = true ∧ k.tensors = c.tensors := by
  let retireItem (c : Canvas) : Canvas :=
    { c with items := updFirst (fun j => j.id == id) (fun j => { j with retired := true }) c.items }
  have hcid : c.id = id.canvas := State.id_of_canvas hc
  have hs := State.canvas_onCanvas_same (f := retireItem) hc hcid
  have hkeep := ((State.KeepsWork.refl Item.result (s.onCanvas id.canvas retireItem)).onDie id.die
    fun x => x.dropItems_keepsEngines fun j => j == id).refill id.die
  obtain ⟨b, hb, hbk⟩ := hkeep.canvas hs
  obtain ⟨j, hj, hij⟩ := Canvas.item_of_results (g := Item.result) (fun _ => rfl) hbk
    (Canvas.item_updItem (f := fun j => { j with retired := true }) hi rfl)
  exact ⟨b, j, hb, hj, congrArg Item.retired hij, congrArg (fun r => r.2.1) hbk⟩

/-- A share of a Matrix Engine has nothing more to do. -/
def State.shareDone (s : State) (c : Canvas) (id : ItemId) (i : Item) (e : EngIx) : Prop :=
  let bnd := c.itemBand i
  let nestDone := ((s.schedule c i).map List.length).sum ≤ i.pos
  if (s.participant c (c.opOf id.op) id).1 ≠ 0 ∧ (c.opOf id.op).frameScope = true then s.partials id = [] ∧ nestDone
  else nestDone ∧ bnd.y1 - bnd.y0 ≤ max i.rowsDone (c.prefixRows (c.opOf id.op) bnd s.engines e.val i.tiles)

theorem fxItemRetire_idle (hc : s.canvas id.canvas = some c) (hi : c.item id = some i)
    (h : i.live = false ∨ (s.die id.die).inflight.contains id = false ∨ c.mayEnd i = false) : fxItemRetire id s = s := by
  simp only [fxItemRetire, hc, hi]
  exact if_pos h

theorem fxItemRetire_me (hc : s.canvas id.canvas = some c) (hi : c.item id = some i) (hl : i.live = true)
    (hin : (s.die id.die).inflight.contains id = true) (hend : c.mayEnd i = true) (hu : id.unit = .me e) :
    (s.shareDone c id i e → fxItemRetire id s = s.retire id) ∧ (¬ s.shareDone c id i e → fxItemRetire id s = s) := by
  have hwhen {p : Prop} {b : Bool} (h : b = true ↔ p) :
      (p → (if b then s.retire id else s) = s.retire id) ∧ (¬ p → (if b then s.retire id else s) = s) :=
    ⟨fun hp => if_pos (h.mpr hp), fun hp => if_neg (hp ∘ h.mp)⟩
  simp only [fxItemRetire, hc, hi, hl, hin, hend, hu, State.shareDone, Bool.true_eq_false, or_self, if_false]
  by_cases hpart : (s.participant c (c.opOf id.op) id).1 ≠ 0 ∧ (c.opOf id.op).frameScope = true
  · rw [if_pos hpart, if_pos (by simpa using hpart)]
    exact hwhen (by simp)
  · rw [if_neg hpart, if_neg (by simpa using hpart)]
    exact hwhen (by simp)

/-- The canvas in which an item of another unit has written what it computes. -/
def State.unitWritten (s : State) (c : Canvas) (i : Item) (k : Canvas) : Canvas :=
  let o := c.opOf i.id.op
  let w := c.unitWork i (c.nextStepOf i.frame) (s.sideReader c i)
  let k1 := match w.bytes0 with
    | some bs => k.onBuf o.out0 i.frame fun u => u.ofBytes bs
    | none => k.writeElems o.out0 i.frame w.out0
  if o.out1 = 0xFFFF then k1 else k1.writeElems o.out1 i.frame w.out1

/-- It has then counted its work, signalled its rows and retired. -/
def State.unitRetired (s : State) (c : Canvas) (i : Item) (u : UnitIx) : State :=
  let o := c.opOf i.id.op
  let bnd := c.itemBand i
  let s1 := (s.sealHold c i).onCanvas c.id fun k => (s.unitWritten c i k).guardField i
  ((s1.countWork i.id.die u (opName o.opcode) (c.unitWork i (c.nextStepOf i.frame) (s.sideReader c i))).rowsFinished c.id i.id
    (bnd.y1 - bnd.y0)).retire i.id

/-- Where the blocks of its weight-side streams leave an item of another unit. -/
def State.unitEnd (s : State) (c : Canvas) (i : Item) (u : UnitIx) : LoadEnd → State
  | .waits => s
  | .poisoned => s.failItem i.id .poisoned []
  | .aborted => s.failItem i.id .aborted []
  | .skewed k => s.failItem i.id .scaleSkew [k.exp.pos % 65536 + 65536 * k.got, k.exp.kind + 8 * b2n k.hdr + 16 * b2n k.fin, 0]
  | .folds _ _ => s.unitRetired c i u

theorem fxItemRetire_unit (hc : s.canvas id.canvas = some c) (hi : c.item id = some i) (hl : i.live = true)
    (hin : (s.die id.die).inflight.contains id = true) (hend : c.mayEnd i = true) (hu : ∀ e : EngIx, id.unit ≠ .me e) :
    fxItemRetire id s =
      let bnd := c.itemBand i
      if s.inputsReady c i bnd bnd.y0 bnd.y1 = false ∨ s.served c i = false then s
      else if s.needsPoisoned c i bnd bnd.y0 bnd.y1 then s.failItem id .poisoned []
      else if s.inputsPoisoned c i bnd.y0 bnd.y1 then s.failItem id .aborted []
      else s.unitEnd c i id.unit (s.sideEnd c i) := by
  have hid := Canvas.id_of_item hi
  subst hid
  simp only [fxItemRetire, hc, hi, hl, hin, hend, Bool.true_eq_false, or_self, if_false]
  cases hunit : i.id.unit with
  | me e => exact absurd hunit (hu e)
  | jgl => cases s.sideEnd c i <;> rfl
  | win => cases s.sideEnd c i <;> rfl
  | mot => cases s.sideEnd c i <;> rfl

theorem State.countWork_reports (s : State) (d : DieIx) (u : UnitIx) (name : Option OpName) (w : Work) :
    s.OnlyReports (s.countWork d u name w) := by
  have hone (s : State) (cnt evt mask n : Nat) : s.OnlyReports (if n = 0 then s else (s.count d cnt n).raise d evt mask) :=
    .ite (.refl s) (((State.OnlyReports.refl s).onDie d fun _ => by rfl).raise d _ _)
  have htwo := fun s => State.countWide_reports s d
  cases u with
  | me e => exact s.countMxe_reports d e _ _
  | win => exact ((((hone _ _ _ _ _).trans (hone _ _ _ _ _)).trans (hone _ _ _ _ _)).trans (hone _ _ _ _ _)).trans (hone _ _ _ _ _)
  | jgl => exact ((htwo _ _ _ _ _).trans (htwo _ _ _ _ _)).trans (hone _ _ _ _ _)
  | mot => exact ((State.OnlyReports.refl s).onDie d fun _ => by rfl).trans (hone _ _ _ _ _)

theorem Canvas.guardField_spec (c : Canvas) (i : Item) :
    (c.guardField i).id = c.id ∧ (c.guardField i).items = c.items ∧ (c.guardField i).tensors = c.tensors := by
  unfold Canvas.guardField
  dsimp only
  split <;> exact ⟨rfl, rfl, rfl⟩

theorem State.unitWritten_spec (s : State) (c k : Canvas) (i : Item) :
    (s.unitWritten c i k).id = k.id ∧ (s.unitWritten c i k).items = k.items := by
  unfold State.unitWritten
  dsimp only
  split <;> split <;> exact ⟨rfl, rfl⟩

theorem State.sealHold_reports (s : State) (c : Canvas) (i : Item) : s.OnlyReports (s.sealHold c i) :=
  .ite ((State.OnlyReports.refl s).onDie _ fun _ => by rfl) (.refl s)

theorem State.unitRetired_spec (hc : s.canvas i.id.canvas = some c) (hi : c.item i.id = some i) (u : UnitIx) :
    ∃ k j, (s.unitRetired c i u).canvas i.id.canvas = some k ∧ k.item i.id = some j ∧ j.retired = true ∧
      k.tensors = (s.unitWritten c i c).tensors := by
  have hcid := State.id_of_canvas hc
  obtain ⟨hwid, hwitems⟩ := s.unitWritten_spec c c i
  obtain ⟨hgid, hgitems, hgtensors⟩ := (s.unitWritten c i c).guardField_spec i
  have hc0 : (s.sealHold c i).canvas i.id.canvas = some c := ((s.sealHold_reports c i).canvas _).trans hc
  have hc1 := State.canvas_onCanvas_same (f := fun k => (s.unitWritten c i k).guardField i) hc0 (hgid.trans (hwid.trans hcid))
  have hi1 : ((s.unitWritten c i c).guardField i).item i.id = some i := by
    rw [Canvas.item, hgitems, hwitems]
    exact hi
  have hc2 := ((State.countWork_reports _ i.id.die u (opName (c.opOf i.id.op).opcode)
    (c.unitWork i (c.nextStepOf i.frame) (s.sideReader c i))).canvas i.id.canvas).trans hc1
  obtain ⟨b, hb, hbk⟩ :=
    ((State.KeepsWork.refl Item.result _).rowsFinished c.id i.id ((c.itemBand i).y1 - (c.itemBand i).y0)).canvas hc2
  obtain ⟨j, hj, -⟩ := Canvas.item_of_results (g := Item.result) (fun _ => rfl) hbk hi1
  obtain ⟨k, l, hk, hl, hret, hten⟩ := State.retire_spec hb hj
  refine ⟨k, l, ?_, hl, hret, hten.trans ((congrArg (fun r => r.2.1) hbk).trans hgtensors)⟩
  rw [hcid] at hk
  rw [State.unitRetired, hcid]
  exact hk

end

/-- Settles O30: each branch of TILE_CONVERT and ITEM_RETIRE by the lemma on it. -/
theorem tilesConvertAndItemsRetire : Obligations.tiles_convert_and_items_retire := by
  unfold Obligations.tiles_convert_and_items_retire
  intro s id c i hp hc hi hop o bnd ended retired nestDone
  refine ⟨?_, fun h => ⟨_, rfl, fxItemRetire_idle hc hi h⟩, fun hl hin hend => ⟨fun e hu => ?_, fun hu => ?_⟩⟩
  · intro e tile acc hu held long
    refine ⟨fun h => ⟨_, rfl, fxTileConvert_idle hc hi hu h⟩, fun sl hheld hl hrun => ?_⟩
    have hfx := fxTileConvert_eq (acc := acc) hc hi hu hheld hl hrun
    refine ⟨fun hf => ⟨_, rfl, ?_⟩, fun hf hue => ⟨_, rfl, ?_⟩, fun k hf hue hlong => ⟨_, rfl, ?_⟩,
      fun hf hue hlong => ⟨_, rfl, ?_⟩⟩
    · rw [hfx, if_pos hf]
    · rw [hfx, if_neg (by simp [hf]), if_pos hue]
      exact State.accLost_spec hp hu hc hi hl hop
    · rw [hfx, if_neg (by simp [hf]), if_neg (by simp [hue])]
      simp only [long] at hlong
      rw [hlong]
      exact State.skew_countAcc_spec k hp hc hi hl hop
    · rw [hfx, if_neg (by simp [hf]), if_neg (by simp [hue])]
      simp only [long] at hlong
      rw [hlong]
      exact State.convertedRows_spec hp hc hi
  · obtain ⟨hdone, hnot⟩ := fxItemRetire_me hc hi hl hin hend hu
    refine ⟨fun h => ⟨_, rfl, ?_⟩, fun h => ⟨_, rfl, hnot h⟩⟩
    rw [hdone h]
    exact State.retire_spec hc hi
  · have hfx := fxItemRetire_unit hc hi hl hin hend hu
    have hid := Canvas.id_of_item hi
    have hfail (st : Status) (w : List Nat) := State.failItem_ended st w hc hi hl hop
    refine ⟨fun h => ⟨_, rfl, hfx.trans (if_pos h)⟩, fun hr hs => ?_⟩
    replace hfx := hfx.trans (if_neg (by simp [hr, hs, bnd]))
    refine ⟨fun hn => ⟨_, rfl, ?_⟩, fun hn => ?_⟩
    · rw [hfx, if_pos hn]
      exact hfail _ _
    replace hfx := hfx.trans (if_neg (by simpa using hn))
    refine ⟨fun hx => ⟨_, rfl, ?_⟩, fun hx => ?_⟩
    · rw [hfx, if_pos hx]
      exact hfail _ _
    replace hfx := hfx.trans (if_neg (by simpa using hx))
    refine ⟨fun hw => ⟨_, rfl, ?_⟩, fun hw => ⟨_, rfl, ?_⟩, fun k hw => ⟨_, rfl, ?_⟩,
      fun plan blocks hw => ⟨_, rfl, ?_⟩⟩ <;> rw [hfx, hw, State.unitEnd]
    · rw [hid]
      exact hfail _ _
    · rw [hid]
      exact hfail _ _
    · subst hid
      exact State.unitRetired_spec hc hi _

/-! ### Two engines of a die that the part lacks -/

/-- A bundle of one CONV op, of 1 by 1 and INT8, that reads tensor 0 of 16 channels and writes tensor 1 of one, both of one row of 128
pixels that stands once: two M-tiles, one for each engine (R83). -/
def twinImage : List Byte :=
  let cells : List (Nat × Nat) :=
    [(8, 0x80), (9, 0x01), (12, 1), (14, 2), (20, 128), (25, 1)] ++
    [(128, 1), (132, 2), (162, 0xFF), (163, 0xFF), (164, 0xFF), (165, 0xFF), (166, 0xFF), (167, 0xFF), (168, 1), (170, 0xFF), (171, 0xFF),
      (174, 0xFF), (175, 0xFF), (176, 0xFF), (177, 0xFF), (182, 0xFF), (183, 0xFF), (208, 1), (209, 1), (210, 1), (211, 1), (212, 1),
      (213, 1), (220, 1)] ++
    [(256, 1), (258, 1), (260, 128), (262, 16), (267, 8), (272, 0xFF), (273, 0xFF), (274, 0xFF), (275, 0xFF)] ++
    [(320, 1), (322, 1), (324, 128), (326, 1), (328, 6), (331, 8), (336, 0xFF), (337, 0xFF), (338, 0xFF), (339, 0xFF)]
  (List.range 384).map fun i => BitVec.ofNat 8 (((cells.find? fun x => x.1 == i).map Prod.snd).getD 0)

/-- The item of that op on an engine of die 2. -/
def twinItem (e : EngIx) : Item := Item.fresh ⟨⟨0, 1⟩, 2, .me e, 0, 0⟩ 0 0

/-- A canvas of that bundle with both items; its weight-side stream has delivered nothing and runs no longer. -/
def twinCanvas : Canvas :=
  { Canvas.fresh ⟨0, 1⟩ (readBinding []) twinImage 1 [2] 0 with items := [twinItem 0, twinItem 1] }

/-- The load of the M-tile of an engine. -/
def twinLoad (e : EngIx) : TileLoad := ⟨(twinItem e).id, 0, 0, [⟨0, e.val, 0⟩], ⟨0, false⟩⟩

/-- A PV-2200, which has dies 0 and 1 alone, with that canvas and both items in the queues of die 2. -/
def twinPart : State :=
  let s := State.ofReset { part := .pv2200, bootHost := false, refPcie := false, mgmtI3c := false, smbAddr := 0, dramGib := 16 }
    Otp.unprogrammed Nvm.blank []
  { s with canvases := [twinCanvas], power := { s.power with point := .op1 },
           dies := s.dies.set 2 { s.die 2 with inflight := [(twinItem 0).id, (twinItem 1).id] } }

/-- Neither load finds its block. -/
theorem twinLoads_skewed : twinPart.judgeLoad (twinLoad 0) = some (.skewed ⟨⟨3, 0⟩, 0, false, true⟩) ∧
    twinPart.judgeLoad (twinLoad 1) = some (.skewed ⟨⟨3, 0⟩, 0, false, true⟩) := by decide +kernel

/-- MXE_SKEW_CNT of die 2 reads 0 before the loads and after them: no register changes in a die that the part does not contain (R7). -/
theorem twinLoads_uncounted : twinPart.reg 2 (Reg.mxeSkewCnt 0) = 0 ∧
    (fxTileLoad (twinLoad 0) (some (twinLoad 1)) twinPart).reg 2 (Reg.mxeSkewCnt 0) = 0 := by decide +kernel

/-- Refutes O29: its clause on two engines does not say that the part has their die. On a PV-2200 both loads of items that the state
holds in die 2 fail their check, and MXE_SKEW_CNT counts neither. -/
theorem not_weightLoads : ¬ Obligations.weight_loads := by
  unfold Obligations.weight_loads
  rintro ⟨-, hboth⟩
  obtain ⟨h0, h1⟩ := twinLoads_skewed
  obtain ⟨hbefore, hafter⟩ := twinLoads_uncounted
  obtain ⟨u, hu, v, -, -, -, -, hcnt, -⟩ :=
    hboth twinPart (twinLoad 0) (twinLoad 1) _ _ rfl rfl h0 h1 rfl rfl rfl rfl (by decide +kernel) _ (.inl rfl)
  obtain rfl : fxTileLoad (twinLoad 0) (some (twinLoad 1)) twinPart = u := Host.Outcome.next.inj hu
  rw [show (twinLoad 0).it.die = 2 from rfl, hbefore, hafter] at hcnt
  exact absurd hcnt (by decide)

end Sys2Proof.Machine
end

section
/-! SUPPORT. Proofs of the statements of 04_quantisation. -/

namespace Sys2Proof.Machine

/-! ### A waiter record that an ended stream left

A dump with FREEZE holds the operations of bundle contexts (R283). A stream that ends meanwhile leaves its WAIT among them, since
`Tsl.cancel` removes what the objects have and not what a dump holds. `State.unfreeze` then gives the object a record in the name of a
stream that may run again. Behind a larger WAIT_SUB, which a later `Tsl.cancel` removes, the record stays although the object
satisfies it, and the next cycle of the object takes it. -/

/-- A stream of die 0. -/
def rerunStream : StreamId := { die := 0, crs := 12, idx := 0 }

/-- The canvas of its program, of context 1. -/
def rerunCanvas : Canvas := Canvas.fresh ⟨0, 1⟩ (readBinding []) [] 1 [0] 0

/-- The stream runs a program of that canvas at WAIT_GE of virtual number 9 with count 0, which gives 6. -/
def rerun : Stream :=
  { Stream.launch (some rerunCanvas.id) 0 none [0x8000_9000_0000_0000] 0xFFFF [] 0 with
    counts := (Vector.replicate 2 CountGen.zero).set 0 { CountGen.zero with base := 6 } }

/-- The object at 5, with a record of an earlier run of the stream: WAIT_SUB of 3. -/
def leftObject : TslObj :=
  { TslObj.fresh 1 (some 9) none 5 with
    waiters := [⟨{ iss := streamIssuer rerunStream, op := .waitSub 3, opIx := 0xFFFF, step := 0, seq := 0 }⟩] }

/-- The part with that canvas and, on die 0, that stream and that object, which its context names by number 9. -/
def rerunPart : State :=
  { State.reset.onDie 0 fun x =>
      { x with
        streams := [(rerunStream, rerun)]
        tsl := { x.tsl with
          objs := [(1024, leftObject)]
          ctxs := x.tsl.ctxs ++ [(1, { owner := .bundle rerunCanvas.id, table := [(9, { base := 1024, banked := false, imported := false })] })] } } with
    canvases := [rerunCanvas] }

/-- The record that was left takes 3 of the object and lets the stream go on, past a WAIT for 6 of an object at 5. -/
theorem rerun_passes_wait :
    (((fxCarouselWait rerunStream rerunPart).die 0).stream rerunStream).map Stream.state = some .running := by decide +kernel

/-- Refutes O34: it says that a stream waits whose count the object has not reached, while the cycle that its WAIT takes part in may
satisfy a record that the object has of that stream already. The object is at 5 and the count 6, and the record, a WAIT_SUB of 3,
lets the stream go on. -/
theorem not_carouselWaitsSignalsAndEnds : ¬ Obligations.carousel_waits_signals_and_ends := by
  unfold Obligations.carousel_waits_signals_and_ends
  intro h
  obtain ⟨hwait, -⟩ := h rerunPart rerunPart rerunStream rerun (.wait false 0 9) (by decide) rfl (by decide)
  obtain ⟨hopen, -⟩ := hwait false 0 9 rfl
  obtain ⟨-, hshort⟩ := hopen 1024 leftObject (by decide) ⟨rfl, rfl, .inl rfl, List.forall_mem_nil _⟩
  obtain ⟨t, ht, hwaits, -⟩ := hshort (by decide)
  obtain rfl : fxCarouselWait rerunStream rerunPart = t := Host.Outcome.next.inj ht
  have hruns := rerun_passes_wait
  rw [show rerunStream.die = 0 from rfl] at hwaits
  rw [hwaits] at hruns
  simp at hruns

end Sys2Proof.Machine
end

section
/-! SUPPORT. Proofs of the statements of 06_tiling_placement. -/

namespace Sys2Proof.Machine

/-! ### Golden runs (R143, R364, R365) -/

/-- A field of a register word above the one that is set reads as before. -/
theorem bits_setBits_above (w : Word) {hi lo hi' lo' : Nat} (v : Nat) (h : hi < lo') :
    bits (setBits w hi lo v) hi' lo' = bits w hi' lo' := by
  refine Nat.eq_of_testBit_eq fun i => ?_
  have hout : ¬ (lo ≤ lo' + i ∧ lo' + i ≤ hi) := by omega
  rw [bits, bits, setBits, BitVec.toNat_ofNat, testBit_natBits, testBit_natBits, Nat.testBit_mod_two_pow, testBit_natSetBits, if_neg hout]
  by_cases hw : lo' + i < 32
  · simp [hw]
  · have hzero : w.toNat.testBit (lo' + i) = false := Nat.testBit_lt_two_pow (w.isLt.trans_le (Nat.pow_le_pow_right (by decide) (by omega)))
    simp [hzero]

/-- An engine whose slot 15 gave way to the golden stripe: its tile, where it had one, is spilled (R143). -/
def Engine.spill15 (g : Engine) : Engine :=
  { g with slots := g.slots.filter fun p => p.1.val != 15, golden := g.slot15.or g.golden }

/-- With slot 15 free nothing gives way. -/
theorem Engine.spill15_of_free {g : Engine} (h : g.slot15 = none) : g.spill15 = g := by
  have hslots : g.slots.filter (fun p => p.1.val != 15) = g.slots := by
    rw [Engine.slot15, Option.map_eq_none_iff, List.find?_eq_none] at h
    exact List.filter_eq_self.mpr fun p hp => by simpa using h p hp
  simp [Engine.spill15, hslots, h]

section
variable {s : State} {d : DieIx}

/-- The state in which a run has its variant and its engine. -/
def State.goldenChosen (s : State) (d : DieIx) (step : Nat) (e : EngIx) : State :=
  s.onSfn d fun x => { x with goldenStarted := true, goldenVariant := Fin.ofNat 4 step, goldenEngine := e }

/-- A run that starts takes the variant and the engine of its frame step, and the third in a row pre-empts slot 15. -/
theorem State.startGolden_of_on (step : Nat) (hon : s.neuralOn d = true) {e : EngIx}
    (he : e = if s.power.point = .op2 then 0 else Fin.ofNat 2 (step / 4)) :
    s.startGolden d step = if (s.die d).sfn.goldenDefer < 2 then s.goldenChosen d step e
      else (s.goldenChosen d step e).onEngine d e Engine.spill15 := by
  have hspill : (fun g : Engine => match g.slot15 with
      | some t => { g with slots := g.slots.filter (fun x => x.1.val != 15), golden := some t }
      | none => g) = Engine.spill15 := by
    funext g
    split
    next t h => simp [Engine.spill15, h]
    next h => exact (Engine.spill15_of_free h).symm
  rw [State.startGolden, if_neg (by simp [hon]), he, ← hspill]
  rfl

/-- What a run that starts changes: the Safety Net's record of the run, and slot 15 of its engine from the third run in a row on. -/
theorem State.startGolden_spec (step : Nat) (hp : s.present d = true) (hon : s.neuralOn d = true) {e : EngIx}
    (he : e = if s.power.point = .op2 then 0 else Fin.ofNat 2 (step / 4)) : s.OnlyDie (s.startGolden d step) d ∧
    (s.startGolden d step).die d = { s.die d with
      engines := if (s.die d).sfn.goldenDefer < 2 then (s.die d).engines
        else (s.die d).engines.set e.val ((s.die d).engines[e.val]).spill15
      sfn := { (s.die d).sfn with goldenStarted := true, goldenVariant := Fin.ofNat 4 step, goldenEngine := e } } := by
  have hframe : s.OnlyDie (s.goldenChosen d step e) d := ⟨rfl, fun k ne => s.die_onDie_ne d k ne.symm⟩
  have hdie : (s.goldenChosen d step e).die d = _ := s.die_onDie_same d hp
  rw [State.startGolden_of_on step hon he]
  split
  · exact ⟨hframe, hdie⟩
  · refine ⟨⟨rfl, fun k ne => ?_⟩, ?_⟩
    · exact ((s.goldenChosen d step e).die_onDie_ne d k ne.symm).trans (hframe.2 k ne)
    · rw [State.onEngine, (s.goldenChosen d step e).die_onDie_same d hp, hdie]

/-- The state in which a run that waits for slot 15 has been deferred. -/
def State.goldenDeferred (s : State) (d : DieIx) : State :=
  (s.onSfn d fun y => { y with goldenStarted := false, goldenDefer := y.goldenDefer + 1 }).showDefer d

/-- A deferral ends the run, and SFN_GOLDEN.DEFER counts it (R364). -/
theorem State.goldenDeferred_spec (hp : s.present d = true) : s.OnlyDie (s.goldenDeferred d) d ∧
    (s.die d).OnlyRegs { (s.goldenDeferred d).die d with sfn := (s.die d).sfn } [Reg.sfnGolden] ∧
    ((s.goldenDeferred d).die d).sfn =
      { (s.die d).sfn with goldenStarted := false, goldenDefer := (s.die d).sfn.goldenDefer + 1 } ∧
    (s.goldenDeferred d).reg d Reg.sfnGolden = setBits (s.reg d Reg.sfnGolden) 1 0 ((s.die d).sfn.goldenDefer + 1) := by
  let u := s.onSfn d fun y => { y with goldenStarted := false, goldenDefer := y.goldenDefer + 1 }
  have hu : u.die d = { s.die d with sfn := { (s.die d).sfn with
      goldenStarted := false, goldenDefer := (s.die d).sfn.goldenDefer + 1 } } := s.die_onDie_same d hp
  have hdie : (s.goldenDeferred d).die d = (u.die d).setField Reg.sfnGolden 1 0 (u.die d).sfn.goldenDefer := u.die_onDie_same d hp
  rw [State.reg, hdie, hu]
  refine ⟨⟨rfl, fun k ne => ?_⟩, ⟨rfl, fun k hk => ?_⟩, rfl, Die.reg_setReg_same _ _ _⟩
  · exact (u.die_onDie_ne d k ne.symm).trans (s.die_onDie_ne d k ne.symm)
  · exact Die.reg_setReg_ne _ _ fun e => hk (by simp [e])

end

/-- Settles O23: a run that starts is an update of one die, and the deferral of one sets two bits of SFN_GOLDEN. -/
theorem goldenRunsAndDeferrals : Obligations.golden_runs_and_deferrals := by
  unfold Obligations.golden_runs_and_deferrals
  intro s d hp x e g
  refine ⟨fun hno => ⟨_, rfl, ?_⟩, fun hon hr => ?_, fun hstart hlt hbusy => ?_, fun hno => ⟨_, rfl, if_pos ?_⟩⟩
  · obtain hr | hoff := hno
    · exact if_pos hr
    · simp [fxGoldenStripePeriodicRun, State.startGolden, hoff]
  · have hgo : fxGoldenStripePeriodicRun d s = s.startGolden d s.gsc := if_neg (by rw [hr]; exact Bool.false_ne_true)
    have he : e = if s.power.point = .op2 then 0 else Fin.ofNat 2 (s.gsc / 4) := by
      have hmod : Fin.ofNat 2 (s.gsc / 4 % 2) = Fin.ofNat 2 (s.gsc / 4) := Fin.ext (Nat.mod_mod _ _)
      simp only [e, hmod]
    have hvariant : Fin.ofNat 4 (s.gsc % 4) = Fin.ofNat 4 s.gsc := Fin.ext (Nat.mod_mod _ _)
    obtain ⟨hframe, hdie⟩ := State.startGolden_spec s.gsc hp hon he
    refine ⟨_, congrArg Host.Outcome.next hgo, hframe, ?_⟩
    rw [hdie, hvariant]
    refine ⟨rfl, fun f ne => ?_, ?_⟩
    · dsimp only
      split
      · rfl
      · exact Vector.getElem_set_ne e.isLt f.isLt fun h => ne (Fin.ext h.symm)
    · dsimp only
      split
      · rfl
      · exact Vector.getElem_set_self _
  · have hgo : fxGoldenDefer d s = s.goldenDeferred d := if_neg fun h => by
      obtain h | h | h := h
      · exact absurd (hstart.symm.trans h) (by decide)
      · exact absurd hlt (Nat.not_lt.mpr h)
      · exact absurd (Option.isNone_iff_eq_none.mp h) (Option.isSome_iff_ne_none.mp hbusy)
    obtain ⟨hframe, hregs, hsfn, hreg⟩ := State.goldenDeferred_spec hp
    refine ⟨_, congrArg Host.Outcome.next hgo, hframe, hregs, hsfn, ?_, fun hi lo hlo => ?_⟩
    · have hmod : (x.sfn.goldenDefer + 1) % 4 = x.sfn.goldenDefer + 1 := by omega
      exact (congrArg (bits · 1 0) hreg).trans ((bits_setBits _ 0 _ (by decide)).trans hmod)
    · exact (congrArg (bits · hi lo) hreg).trans (bits_setBits_above _ _ hlo)
  · simpa using hno

/-! ### A first release beside a canvas of the same identifier (R33, R295)

A change of operating point that waits for its latch takes effect at a frame boundary, which the first frame of a Replay canvas has in the
cycle of its first release. The latch places every canvas of the list again, and `State.rePlace` stores each by its identifier. Two
canvases of one identifier, which the statement does not exclude (that of the context save does), are both stored in the place of the
first, so that what the release did to it is lost. -/

/-- A Replay canvas before its first frame, its first release announced for a device time. -/
def replayAnnounced (at_ : Nat) : Canvas := { Tests.replaying [Tests.frame0 0] with firstAt := some at_ }

/-- The part as such a canvas reaches S, with a second of the same identifier, announced for tick 5, while a change to OP1 waits for its
latch. -/
def sharedIdPart : State :=
  { Tests.up with canvases := [replayAnnounced Tests.up.gsc, replayAnnounced 5], power := { Tests.up.power with target := some .op1 } }

/-- The canvas found under the identifier after the first release is the second one, whose own first release is still to come. -/
theorem firstRelease_sharedIdPart_announced :
    ((fxFirstRelease 0 Tests.cv0 sharedIdPart).canvas Tests.cv0).bind Canvas.firstAt = some 5 := by decide +kernel

/-- Refutes O41: it says that a canvas whose last die reaches S awaits no first release any more, while a change of operating point that
latches in that cycle stores a second canvas of its identifier in its place. That canvas is announced for tick 5. -/
theorem not_releases : ¬ Obligations.releases := by
  unfold Obligations.releases
  intro h
  obtain ⟨-, -, hfirst⟩ := h sharedIdPart Tests.cv0 (replayAnnounced Tests.up.gsc) rfl
  obtain ⟨-, hreached⟩ := hfirst 0
  obtain ⟨-, -, hlast⟩ := hreached Tests.up.gsc rfl (by decide)
  obtain ⟨t, ht, k, hk, hnone, -⟩ := hlast rfl (by decide)
  obtain rfl : fxFirstRelease 0 Tests.cv0 sharedIdPart = t := Host.Outcome.next.inj ht
  have hstays := firstRelease_sharedIdPart_announced
  rw [hk, Option.bind_some, hnone] at hstays
  exact absurd hstays (by decide)

end Sys2Proof.Machine
end

section
/-! SUPPORT. Proofs of the statements of 07_streams_big_top. -/

namespace Sys2Proof.Machine

theorem present_zero (s : State) : s.present 0 = true := decide_eq_true (lt_of_lt_of_le Nat.zero_lt_two (two_le_nDies s))

/-! ### The words that scrub takes (R161, R187; entry 51) -/

theorem bigTopBank_bankWord {bank : Nat} (h : bank < 64) (k : Nat) : bigTopBank (64 * bankWord bank k) = bank := by
  have hword : bankWord bank k = 64 * k + (bank ^^^ k ^^^ k / 64) % 64 := rfl
  have hrow : bankWord bank k / 64 = k := by omega
  have hcol : bankWord bank k % 64 = (bank ^^^ k ^^^ k / 64) % 64 := by omega
  have hbank : bigTopBank (64 * bankWord bank k) = (bankWord bank k ^^^ bankWord bank k / 64 ^^^ bankWord bank k / 64 / 64) % 2 ^ 6 := by
    rw [bigTopBank, Nat.mul_div_cancel_left _ (by decide), Nat.div_div_eq_div_mul]
    rfl
  calc bigTopBank (64 * bankWord bank k)
      = (bank ^^^ k ^^^ k / 64 ^^^ k ^^^ k / 64) % 2 ^ 6 := by
        rw [hbank, hrow, Nat.xor_mod_two_pow, Nat.xor_mod_two_pow, show 2 ^ 6 = 64 from rfl, hcol]
        simp only [show 64 = 2 ^ 6 from rfl, Nat.xor_mod_two_pow]
    _ = bank % 2 ^ 6 := by
        congr 1
        rw [Nat.xor_right_comm (bank ^^^ k), Nat.xor_xor_cancel_right, Nat.xor_xor_cancel_right]
    _ = bank := Nat.mod_eq_of_lt h

theorem dramChannel_channelUnit {ch : Nat} (h : ch < 2) (k : Nat) : dramChannel (channelUnit ch k) = ch := by
  have hk : ∃ b < 2, channelUnit ch k = 512 * (k / 2) + 256 * b + 128 * (k % 2) ∧
      b = (ch + 512 * (k / 2) / 2 ^ 16 % 2 + 512 * (k / 2) / 2 ^ 24 % 2) % 2 := ⟨_, Nat.mod_lt _ (by decide), rfl, rfl⟩
  obtain ⟨b, hb, hunit, hbit⟩ := hk
  have h8 : channelUnit ch k / 2 ^ 8 % 2 = b := by omega
  have h16 : channelUnit ch k / 2 ^ 16 = 512 * (k / 2) / 2 ^ 16 := by omega
  have h24 : channelUnit ch k / 2 ^ 24 = 512 * (k / 2) / 2 ^ 24 := by omega
  rw [dramChannel, h8, h16, h24]
  omega

/-! ### Errors of stored bits (R374) -/

/-- An error that is counted and recorded changes no more of a die than its registers and the corrected errors of the last second. -/
structure State.OnlyEcc (s t : State) : Prop where
  frame : t = { s with dies := t.dies, fns := t.fns, hostRegs := t.hostRegs, hostMem := t.hostMem }
  die : ∀ e, t.die e = { s.die e with regs := (t.die e).regs, ceRecent := (t.die e).ceRecent }

theorem State.OnlyEcc.onDie {s0 s : State} (h : s0.OnlyEcc s) (d : DieIx) {f : Die → Die}
    (hf : ∀ x, f x = { x with regs := (f x).regs, ceRecent := (f x).ceRecent }) : s0.OnlyEcc (s.onDie d f) := by
  refine ⟨by rw [State.onDie, State.setDie, h.frame], fun e => ?_⟩
  rw [State.die_onDie]
  split
  next he =>
    obtain ⟨rfl, -⟩ := he
    rw [hf, h.die d]
  next => exact h.die e

theorem State.OnlyEcc.raise {s0 s : State} (h : s0.OnlyEcc s) (d : DieIx) (evt mask : Nat) : s0.OnlyEcc (s.raise d evt mask) :=
  have k : s0.OnlyEcc (s.setReg d evt (s.reg d evt ||| BitVec.ofNat 32 mask)) := h.onDie d fun _ => rfl
  ⟨by rw [State.raise, State.withHost, k.frame], k.die⟩

/-- The counter and the record of an error in the registers of its die. -/
def EccAt.note (w : EccAt) (ue : Bool) (x : Die) : Die :=
  ((x.count (if ue then w.counters.2 else w.counters.1) 1).setReg Reg.secEccLast
    (BitVec.ofNat 32 (w.place.1 + 16 * b2n ue + 32 * (w.place.2.1 % 64)))).setReg Reg.secEccAddr (BitVec.ofNat 32 w.place.2.2)

/-- The state with a corrected error among those of the last second. -/
def State.eccRecent (s : State) (d : DieIx) (w : EccAt) : State :=
  (s.onDie d (w.note false)).onDie d fun x => { x with ceRecent := (w.key, s.gsc) ::
    ((s.die d).ceRecent.filter fun e => decide (s.gsc < e.2 + 100_000_000)) }

theorem State.eccError_corrected (s : State) (d : DieIx) (w : EccAt) :
    s.eccError d w false = s.eccRecent d w ∨ s.eccError d w false = (s.eccRecent d w).raise 0 Reg.secEvt 0x08 := by
  unfold State.eccError
  dsimp only
  split
  next h => exact absurd h (by decide)
  next =>
    split
    · exact .inr rfl
    · exact .inl rfl

theorem State.eccError_onlyEcc (s : State) (d : DieIx) (w : EccAt) (ue : Bool) : s.OnlyEcc (s.eccError d w ue) := by
  have h : s.OnlyEcc (s.onDie d (w.note ue)) := State.OnlyEcc.onDie ⟨rfl, fun _ => rfl⟩ d fun _ => rfl
  cases ue with
  | true => exact h.raise 0 _ _
  | false =>
    have k : s.OnlyEcc (s.eccRecent d w) := h.onDie d fun _ => rfl
    obtain e | e := s.eccError_corrected d w <;> rw [e]
    · exact k
    · exact k.raise 0 _ _

/-- Besides SEC_EVT an error leaves in the registers what its note leaves. -/
theorem State.reg_eccError (s : State) (d e : DieIx) (w : EccAt) (ue : Bool) {k : Nat} (hk : k ≠ Reg.secEvt) :
    (s.eccError d w ue).reg e k = (s.onDie d (w.note ue)).reg e k := by
  have hraise (t : State) (mask : Nat) : (t.raise 0 Reg.secEvt mask).reg e k = t.reg e k := by
    rw [State.reg_raise, if_neg fun h => hk h.2.2.symm]
  cases ue with
  | true => exact hraise _ _
  | false =>
    have hrecent : (s.eccRecent d w).reg e k = (s.onDie d (w.note false)).reg e k := by
      rw [State.eccRecent, State.reg, State.die_onDie]
      split
      next h => rw [← h.1]; rfl
      next => rfl
    obtain h | h := s.eccError_corrected d w <;> rw [h]
    · exact hrecent
    · exact (hraise _ _).trans hrecent

theorem State.eccAddr_eccError (s : State) {d : DieIx} (w : EccAt) (ue : Bool) (hp : s.present d = true) :
    (s.eccError d w ue).reg d Reg.secEccAddr = BitVec.ofNat 32 w.place.2.2 := by
  rw [s.reg_eccError d d w ue (by decide), State.reg, s.die_onDie_same d hp]
  exact Die.reg_setReg_same _ _ _

/-- A flag that is raised is set. -/
theorem State.getLsbD_raise_same (s : State) {d : DieIx} (evt : Nat) {mask i : Nat} (hp : s.present d = true)
    (hi : (BitVec.ofNat 32 mask).getLsbD i = true) : ((s.raise d evt mask).reg d evt).getLsbD i = true := by
  rw [State.reg_raise, if_pos ⟨rfl, hp, rfl⟩, BitVec.getLsbD_or, hi, Bool.or_true]

theorem EccAt.reg_note {w : EccAt} {ue : Bool} {cnt : Nat} (x : Die) (h : cnt = if ue then w.counters.2 else w.counters.1)
    (hl : cnt ≠ Reg.secEccLast) (ha : cnt ≠ Reg.secEccAddr) : (w.note ue x).reg cnt = satCount (x.reg cnt) 1 := by
  subst h
  rw [EccAt.note, Die.reg_setReg_ne _ _ ha.symm, Die.reg_setReg_ne _ _ hl.symm]
  exact Die.reg_setReg_same _ _ _

/-- An error counts in the counter of its memory and kind. -/
theorem State.count_eccError (s : State) {d : DieIx} {w : EccAt} {ue : Bool} {cnt : Nat} (hp : s.present d = true)
    (h : cnt = if ue then w.counters.2 else w.counters.1) (hc : cnt ∉ [Reg.secEccLast, Reg.secEccAddr, Reg.secEvt]) :
    (s.eccError d w ue).reg d cnt = satCount (s.reg d cnt) 1 := by
  simp only [List.mem_cons, List.not_mem_nil, or_false, not_or] at hc
  rw [s.reg_eccError d d w ue hc.2.2, State.reg, s.die_onDie_same d hp]
  exact EccAt.reg_note _ h hc.1 hc.2.1

/-- An uncorrectable error is a security event of die 0 (R374, R405). -/
theorem State.event_eccError (s : State) (d : DieIx) (w : EccAt) : ((s.eccError d w true).reg 0 Reg.secEvt).getLsbD 4 = true :=
  State.getLsbD_raise_same _ _ (present_zero _) (by decide)

/-- What the check of stored bits finds changes in the state: nothing, a corrected error, or an uncorrectable one, which leaves its
unit poisoned (R164, R377). -/
def State.eccFound (s : State) (d : DieIx) (w : EccAt) : EccResult → State
  | .clean => s
  | .corrected => s.eccError d w false
  | .uncorrectable => (s.eccError d w true).onDie d w.poison

theorem State.present_eccError (s : State) (d e : DieIx) (w : EccAt) (ue : Bool) : (s.eccError d w ue).present e = s.present e := by
  rw [(s.eccError_onlyEcc d w ue).frame]
  rfl

/-- Whatever a check finds, memories and the places of the scrubs stay. -/
theorem State.eccFound_frame (s : State) {d : DieIx} (w : EccAt) (r : EccResult) (hp : s.present d = true) :
    ((s.eccFound d w r).die d).scrub = (s.die d).scrub ∧ ((s.eccFound d w r).die d).patrol = (s.die d).patrol ∧
      ((s.eccFound d w r).die d).bigTop = (s.die d).bigTop ∧ ((s.eccFound d w r).die d).dram = (s.die d).dram := by
  have hecc (ue : Bool) := (s.eccError_onlyEcc d w ue).die d
  cases r with
  | clean => exact ⟨rfl, rfl, rfl, rfl⟩
  | corrected =>
    rw [State.eccFound, hecc false]
    exact ⟨rfl, rfl, rfl, rfl⟩
  | uncorrectable =>
    rw [State.eccFound, State.die_onDie_same _ _ ((s.present_eccError d d w true).trans hp), hecc true]
    cases w <;> exact ⟨rfl, rfl, rfl, rfl⟩

section
variable {s : State} {d : DieIx} {w : EccAt} {cnt : Nat}

theorem State.eccFound_corrected (hp : s.present d = true) (h : cnt = w.counters.1)
    (hc : cnt ∉ [Reg.secEccLast, Reg.secEccAddr, Reg.secEvt]) :
    (s.eccFound d w .corrected).reg d cnt = satCount (s.reg d cnt) 1 ∧
      (s.eccFound d w .corrected).reg d Reg.secEccAddr = BitVec.ofNat 32 w.place.2.2 :=
  ⟨s.count_eccError hp h hc, s.eccAddr_eccError w false hp⟩

theorem mem_addNew (l : List Nat) (n : Nat) : n ∈ addNew l n := by
  unfold addNew
  split
  next h => exact List.contains_iff_mem.mp h
  next => exact List.mem_append_right _ (List.mem_singleton_self n)

theorem State.eccFound_uncorrectable (hp : s.present d = true) (h : cnt = w.counters.2)
    (hc : cnt ∉ [Reg.secEccLast, Reg.secEccAddr, Reg.secEvt]) :
    (s.eccFound d w .uncorrectable).reg d cnt = satCount (s.reg d cnt) 1 ∧
      (s.eccFound d w .uncorrectable).die d = w.poison ((s.eccError d w true).die d) ∧
      ((s.eccFound d w .uncorrectable).reg 0 Reg.secEvt).getLsbD 4 = true := by
  have hregs (e : DieIx) (k : Nat) : (s.eccFound d w .uncorrectable).reg e k = (s.eccError d w true).reg e k := by
    rw [State.eccFound, State.reg, State.die_onDie]
    split
    next he =>
      rw [← he.1]
      cases w <;> rfl
    next => rfl
  rw [hregs, hregs]
  exact ⟨s.count_eccError hp h hc, State.die_onDie_same _ _ ((s.present_eccError d d w true).trans hp), s.event_eccError d w⟩

end

/-! ### Scrub steps (R161, R187, R376, R377) -/

section
variable {s : State} {d : DieIx}

/-- The state after a bank's next word has been taken, errors apart. -/
def State.scrubbed (s : State) (d : DieIx) (bank : Fin 64) : State :=
  let x := (s.die d).scrub[bank.val]
  let t := s.onDie d fun y =>
    { y.setField Reg.secScrub 12 0 (min 8191 (max (s.field d Reg.secScrub 12 0) (s.scrubDebt d))) with
      scrub := y.scrub.set bank.val (x.work (s.fabricCycles d / 32_768) 4096) bank.isLt }
  if (s.die d).scrubPasses < (t.die d).scrubPasses then t.count d Reg.secScrubPass 1 else t

/-- The word of a bank that its next scrub step takes. -/
def Die.scrubWord (x : Die) (bank : Fin 64) : Nat := bankWord bank.val (x.scrub[bank.val].done % bankWords)

theorem fxBigTopScrubStep_idle (bank : Fin 64) (r : EccResult) (h : s.present d = false ∨ (s.die d).boot.inReset = true) :
    fxBigTopScrubStep d bank r s = s := if_pos h

theorem EccAt.poison_bigTop (w : Nat) :
    EccAt.poison (.bigTop (64 * w)) = fun x => { x with bigTopPoison := addNew x.bigTopPoison w } := by
  funext x
  rw [EccAt.poison, Nat.mul_div_cancel_left _ (by decide)]

theorem fxBigTopScrubStep_eq (bank : Fin 64) (r : EccResult) (hp : s.present d = true) (hr : (s.die d).boot.inReset = false) :
    fxBigTopScrubStep d bank r s = (s.scrubbed d bank).eccFound d (.bigTop (64 * (s.die d).scrubWord bank)) r := by
  rw [fxBigTopScrubStep, if_neg (by simp [hp, hr])]
  cases r with
  | clean => rfl
  | corrected => rfl
  | uncorrectable =>
    rw [State.eccFound, EccAt.poison_bigTop]
    rfl

theorem State.scrubbed_spec (bank : Fin 64) (hp : s.present d = true) : s.OnlyDie (s.scrubbed d bank) d ∧
    (s.scrubbed d bank).die d = { s.die d with
      regs := ((s.scrubbed d bank).die d).regs
      scrub := (s.die d).scrub.set bank.val ((s.die d).scrub[bank.val].work (s.fabricCycles d / 32_768) 4096) bank.isLt } ∧
    ∀ k, k ∉ [Reg.secScrub, Reg.secScrubPass] → (s.scrubbed d bank).reg d k = s.reg d k := by
  unfold State.scrubbed
  dsimp only
  generalize ht : s.onDie d _ = t
  have hdie : t.die d = { (s.die d).setField Reg.secScrub 12 0 (min 8191 (max (s.field d Reg.secScrub 12 0) (s.scrubDebt d))) with
      scrub := (s.die d).scrub.set bank.val ((s.die d).scrub[bank.val].work (s.fabricCycles d / 32_768) 4096) bank.isLt } :=
    ht ▸ s.die_onDie_same d hp
  have hframe : s.OnlyDie t d := ht ▸ s.onlyDie_onDie d _
  have hpt : t.present d = true := by subst ht; exact hp
  have hreg (k : Nat) (hk : k ≠ Reg.secScrub) : t.reg d k = s.reg d k := by
    rw [State.reg, hdie]
    exact Die.reg_setReg_ne _ _ hk.symm
  simp only [List.mem_cons, List.not_mem_nil, or_false, not_or]
  split
  · have hcount : (t.count d Reg.secScrubPass 1).die d = (t.die d).count Reg.secScrubPass 1 := t.die_onDie_same d hpt
    refine ⟨⟨?_, fun e he => ?_⟩, ?_, fun k hk => ?_⟩
    · rw [State.count, State.onDie, State.setDie, hframe.1]
    · exact (t.die_onDie_ne d e he.symm).trans (hframe.2 e he)
    · rw [hcount, Die.count, Die.setReg, hdie]; rfl
    · rw [State.reg_count, if_neg fun h => hk.2 h.2.2.symm, hreg k hk.1]
  · exact ⟨hframe, by rw [hdie]; rfl, fun k hk => hreg k hk.1⟩

/-- The state after a channel's next access unit has been taken, errors apart. -/
def State.patrolled (s : State) (d : DieIx) (ch : Fin 2) : State :=
  s.onDie d fun y => { y with patrol := y.patrol.set ch.val ((s.die d).patrol[ch.val].work (s.fabricCycles d / 262_144) 4096) ch.isLt }

/-- The access unit of a channel that its next patrol step takes. -/
def State.patrolUnit (s : State) (d : DieIx) (ch : Fin 2) : Nat := channelUnit ch.val ((s.die d).patrol[ch.val].done % s.channelUnits)

theorem fxDramPatrolScrubStep_idle (ch : Fin 2) (r : EccResult) (h : s.present d = false ∨ (s.die d).boot.trained = false) :
    fxDramPatrolScrubStep d ch r s = s := if_pos h

theorem fxDramPatrolScrubStep_eq (ch : Fin 2) (r : EccResult) (hp : s.present d = true) (ht : (s.die d).boot.trained = true) :
    fxDramPatrolScrubStep d ch r s = (s.patrolled d ch).eccFound d (.dram (s.patrolUnit d ch)) r := by
  rw [fxDramPatrolScrubStep, if_neg (by simp [hp, ht])]
  cases r <;> rfl

/-- A step takes the next word of its bank, and leaves what the word's check finds. -/
theorem fxBigTopScrubStep_spec (bank : Fin 64) (r : EccResult) (hp : s.present d = true) (hr : (s.die d).boot.inReset = false) :
    let w := (s.die d).scrubWord bank
    let t := fxBigTopScrubStep d bank r s
    ((t.die d).scrub[bank.val]).done = (s.die d).scrub[bank.val].done + 1 ∧ bigTopBank (64 * w) = bank.val ∧
      (t.die d).bigTop = (s.die d).bigTop ∧
      (r = .clean → s.OnlyDie t d ∧ (s.die d).OnlyRegs { t.die d with scrub := (s.die d).scrub } [Reg.secScrub, Reg.secScrubPass]) ∧
      (r = .corrected → t.reg d Reg.secCeBt = satCount (s.reg d Reg.secCeBt) 1 ∧ t.reg d Reg.secEccAddr = BitVec.ofNat 32 (64 * w)) ∧
      (r = .uncorrectable → t.reg d Reg.secUeBt = satCount (s.reg d Reg.secUeBt) 1 ∧ w ∈ (t.die d).bigTopPoison ∧
        (t.reg 0 Reg.secEvt).getLsbD 4 = true) := by
  intro w t
  subst w t
  obtain ⟨hframe, hdie, hregs⟩ := State.scrubbed_spec (s := s) bank hp
  have hps : (s.scrubbed d bank).present d = true := by rw [hframe.1]; exact hp
  have hce := hregs Reg.secCeBt (by decide)
  have hue := hregs Reg.secUeBt (by decide)
  rw [fxBigTopScrubStep_eq bank r hp hr]
  obtain ⟨hscrub, -, htop, -⟩ := (s.scrubbed d bank).eccFound_frame (.bigTop (64 * (s.die d).scrubWord bank)) r hps
  refine ⟨?_, bigTopBank_bankWord bank.isLt _, ?_, ?_, ?_, ?_⟩
  · rw [hscrub.trans (congrArg Die.scrub hdie), Vector.getElem_set_self]
    rfl
  · rw [htop, hdie]
  · rintro rfl
    refine ⟨hframe, ?_, hregs⟩
    rw [State.eccFound, hdie]
  · rintro rfl
    rw [← hce]
    exact State.eccFound_corrected hps rfl (by decide)
  · rintro rfl
    obtain ⟨hcount, hpoison, hevent⟩ := State.eccFound_uncorrectable (cnt := Reg.secUeBt)
      (w := .bigTop (64 * (s.die d).scrubWord bank)) hps rfl (by decide)
    refine ⟨hcount.trans (by rw [← hue]), ?_, hevent⟩
    rw [hpoison, EccAt.poison_bigTop]
    exact mem_addNew _ _

/-- A step takes the next access unit of its channel, and leaves what the unit's check finds. -/
theorem fxDramPatrolScrubStep_spec (ch : Fin 2) (r : EccResult) (hp : s.present d = true) (ht : (s.die d).boot.trained = true) :
    let a := s.patrolUnit d ch
    let t := fxDramPatrolScrubStep d ch r s
    ((t.die d).patrol[ch.val]).done = (s.die d).patrol[ch.val].done + 1 ∧ dramChannel a = ch.val ∧
      (t.die d).dram = (s.die d).dram ∧
      (r = .clean → s.OnlyDie t d ∧ t.die d = { s.die d with patrol := (t.die d).patrol }) ∧
      (r = .corrected → t.reg d Reg.secCeDram = satCount (s.reg d Reg.secCeDram) 1 ∧ t.reg d Reg.secEccAddr = BitVec.ofNat 32 a) ∧
      (r = .uncorrectable → t.reg d Reg.secUeDram = satCount (s.reg d Reg.secUeDram) 1 ∧ a / 128 ∈ (t.die d).dramPoison ∧
        (t.reg 0 Reg.secEvt).getLsbD 4 = true) := by
  have hdie : (s.patrolled d ch).die d = { s.die d with
      patrol := (s.die d).patrol.set ch.val ((s.die d).patrol[ch.val].work (s.fabricCycles d / 262_144) 4096) ch.isLt } :=
    s.die_onDie_same d hp
  have hreg (k : Nat) : (s.patrolled d ch).reg d k = s.reg d k := by rw [State.reg, hdie]; rfl
  intro a t
  subst t
  rw [fxDramPatrolScrubStep_eq ch r hp ht]
  obtain ⟨-, hpatrol, -, hdram⟩ := (s.patrolled d ch).eccFound_frame (.dram a) r hp
  refine ⟨?_, dramChannel_channelUnit ch.isLt _, ?_, ?_, ?_, ?_⟩
  · rw [hpatrol.trans (congrArg Die.patrol hdie), Vector.getElem_set_self]
    rfl
  · rw [hdram, hdie]
  · rintro rfl
    rw [State.eccFound]
    exact ⟨s.onlyDie_onDie d _, by rw [hdie]⟩
  · rintro rfl
    rw [← hreg]
    exact State.eccFound_corrected hp rfl (by decide)
  · rintro rfl
    obtain ⟨hcount, hpoison, hevent⟩ :=
      State.eccFound_uncorrectable (s := s.patrolled d ch) (cnt := Reg.secUeDram) (w := .dram a) hp rfl (by decide)
    refine ⟨hcount.trans (by rw [hreg]), ?_, hevent⟩
    rw [hpoison]
    exact mem_addNew _ _

/-! ### Calibration (R378) -/

theorem fxDdr5Calibration_idle {ch : Fin 2} (h : (s.die d).boot.trained = false ∨ s.calDue d ch = false ∨ s.inBlanking d = false ∨
    (ch = 1 ∧ s.calDue d 0 = true)) : fxDdr5Calibration d ch s = s :=
  if_pos (h.imp_right (.imp_right (.imp_right (.imp_left (congrArg Fin.val)))))

theorem fxDdr5Calibration_due {ch : Fin 2} (ht : (s.die d).boot.trained = true) (hdue : s.calDue d ch = true)
    (hb : s.inBlanking d = true) (h0 : ch = 1 → s.calDue d 0 = false) :
    fxDdr5Calibration d ch s = s.onDie d fun x => { x with calDone := x.calDone.set ch.val s.gsc ch.isLt } := by
  refine if_neg ?_
  rintro (h | h | h | ⟨h1, h⟩)
  · simp [ht] at h
  · simp [hdue] at h
  · simp [hb] at h
  · simp [h0 (Fin.ext h1)] at h

/-! ### Gaide links (R21, R23, R375) -/

section
variable {k : Fin 4} {e : DieIx}

/-- A link that has failed. -/
def GaideLink.dead : GaideLink := { up := false, failed := true, run := 0 }

theorem State.onLinkEnds_of_peer (f : GaideLink → GaideLink) (hl : linkPeer s.straps.part d k = some e) :
    s.onLinkEnds d k f = (s.onDie d fun x => x.onLink k f).onDie e fun x => x.onLink k f := by
  simp only [State.onLinkEnds, hl]

/-- A link fails at both ends, which is counted by the die that finds it and is a security event. -/
theorem State.failLink_spec (hl : linkPeer s.straps.part d k = some e) (hpd : s.present d = true)
    (hpe : s.present e = true) (ne : e ≠ d) :
    ((s.failLink d k).die d).links[k.val] = .dead ∧ ((s.failLink d k).die e).links[k.val] = .dead ∧
      ((s.failLink d k).reg 0 Reg.secEvt).getLsbD 5 = true ∧
      (s.failLink d k).reg d Reg.secCeOther = satCount (s.reg d Reg.secCeOther) 1 ∧
      ∀ off, off ∉ [Reg.secCeOther, Reg.secEvt] → (s.failLink d k).reg d off = s.reg d off := by
  let t := s.onLinkEnds d k fun _ => .dead
  let u := t.count d Reg.secCeOther 1
  have ht : t = (s.onDie d fun x => x.onLink k fun _ => .dead).onDie e fun x => x.onLink k fun _ => .dead := State.onLinkEnds_of_peer _ hl
  have hpt (a : DieIx) : t.present a = s.present a := by rw [ht]; rfl
  have htd : t.die d = (s.die d).onLink k fun _ => .dead := by
    rw [ht, State.die_onDie_ne _ _ _ ne, s.die_onDie_same d hpd]
  have hte : t.die e = (s.die e).onLink k fun _ => .dead := by
    rw [ht, State.die_onDie_same (s.onDie d _) e hpe, s.die_onDie_ne d e ne.symm]
  have hud : u.die d = (t.die d).count Reg.secCeOther 1 := t.die_onDie_same d ((hpt d).trans hpd)
  have hue : u.die e = t.die e := t.die_onDie_ne d e ne.symm
  have hlinks (a : DieIx) : ((s.failLink d k).die a).links = (u.die a).links := by
    change ((u.raise 0 Reg.secEvt 0x20).die a).links = _
    rw [State.die_raise, State.die_setReg]
    split
    next h => rw [← h.1]; rfl
    next => rfl
  have hreg (off : Nat) (hne : off ≠ Reg.secEvt) : (s.failLink d k).reg d off = u.reg d off := by
    change (u.raise 0 Reg.secEvt 0x20).reg d off = _
    rw [State.reg_raise, if_neg fun h => hne h.2.2.symm]
  have htreg (off : Nat) : t.reg d off = s.reg d off := by rw [State.reg, htd]; rfl
  refine ⟨?_, ?_, ?_, ?_, ?_⟩
  · rw [hlinks, hud, Die.count, Die.setReg, htd]
    exact Vector.getElem_set_self _
  · rw [hlinks, hue, hte]
    exact Vector.getElem_set_self _
  · exact State.getLsbD_raise_same u _ (present_zero u) (by decide)
  · rw [hreg _ (by decide), State.reg_count, if_pos ⟨rfl, (hpt d).trans hpd, rfl⟩, htreg]
  · intro off hoff
    simp only [List.mem_cons, List.not_mem_nil, or_false, not_or] at hoff
    rw [hreg off hoff.2, State.reg_count, if_neg fun h => hoff.1 h.2.2.symm, htreg]

/-- A die with a flit error of a link counted and recorded. -/
def Die.flitCounted (x : Die) (k : Fin 4) (run : Nat) (addr : Word) : Die :=
  ((((x.onLink k fun l => { l with run := run }).count (Reg.gdeRetry k.val) 1).count Reg.secCeOther 1).setReg Reg.secEccLast
    (BitVec.ofNat 32 (10 + 32 * k.val))).setReg Reg.secEccAddr addr

/-- The state with a flit error counted: its address is a free value (entry 48). -/
def State.flitCounted (s : State) (d : DieIx) (k : Fin 4) (run : Nat) : State :=
  { s.onDie d fun x => x.flitCounted k run (Config.flitAddress s.free) with free := s.free + 1 }

theorem fxGaideFlitError_eq (again : Bool) (hu : s.linkUp d k = true) :
    let run := if again then (s.die d).links[k.val].run + 1 else 1
    fxGaideFlitError d k again s = if 16 ≤ run then (s.flitCounted d k run).failLink d k else s.flitCounted d k run :=
  if_neg (by simp [hu])

theorem State.flitCounted_spec (run : Nat) (hp : s.present d = true) :
    s.OnlyDie { s.flitCounted d k run with free := s.free } d ∧
      ((s.flitCounted d k run).die d).links[k.val] = { (s.die d).links[k.val] with run := run } ∧
      (s.flitCounted d k run).reg d (Reg.gdeRetry k.val) = satCount (s.reg d (Reg.gdeRetry k.val)) 1 := by
  have hdie : (s.flitCounted d k run).die d = (s.die d).flitCounted k run (Config.flitAddress s.free) :=
    (rfl : _ = (s.onDie d fun x => x.flitCounted k run (Config.flitAddress s.free)).die d).trans (s.die_onDie_same d hp)
  have hk : ∀ j : Fin 4, Reg.gdeRetry j.val ∉ [Reg.secEccAddr, Reg.secEccLast, Reg.secCeOther] := by decide
  have hk := hk k
  simp only [List.mem_cons, List.not_mem_nil, or_false, not_or] at hk
  have hframe : s.OnlyDie (s.onDie d fun x => x.flitCounted k run (Config.flitAddress s.free)) d := s.onlyDie_onDie d _
  refine ⟨⟨rfl, hframe.2⟩, ?_, ?_⟩
  · rw [hdie]
    exact Vector.getElem_set_self _
  · rw [State.reg, hdie, Die.flitCounted, Die.reg_setReg_ne _ _ (Ne.symm hk.1), Die.reg_setReg_ne _ _ (Ne.symm hk.2.1), Die.count,
      Die.reg_setReg_ne _ _ (Ne.symm hk.2.2)]
    exact Die.reg_setReg_same _ _ _

end

/-! ### Wear of the settings memory (R403) -/

/-- The slot of the settings memory in whose sectors a sector lies (R403). -/
theorem getLsbD_not_one_shiftLeft (n : Nat) (k : Fin 4) : (~~~ ((1 : BitVec 4) <<< n)).getLsbD k.val = !decide (n = k.val) := by
  have hk := k.isLt
  simp only [BitVec.getLsbD_not, BitVec.getLsbD_shiftLeft, hk, decide_true, Bool.true_and]
  by_cases h : n = k.val
  · simp [h]
  · by_cases hlt : k.val < n
    · simp [hlt, h]
    · have : k.val - n ≠ 0 := by omega
      simp [h, this]

theorem Nvm.eraseSector_spec (n : Nvm) (i : Fin 64) :
    n.eraseSector i.val = { n with erase := (n.eraseSector i.val).erase, live := (n.eraseSector i.val).live } ∧
    (n.eraseSector i.val).erase = n.erase.set i.val (n.erase[i.val] + 1) i.isLt ∧
    ∀ k : Fin 4, (n.eraseSector i.val).live.getLsbD k.val = (n.live.getLsbD k.val &&
      !(decide (16 ≤ i.val) && decide (i.val < 48) && decide ((i.val - 16) / 8 = k.val) && decide (100_000 ≤ n.erase[i.val] + 1))) := by
  have hmod : i.val % 64 = i.val := Nat.mod_eq_of_lt i.isLt
  have herase : n.erase.set (i.val % 64) (n.erase[i.val % 64] + 1) (Nat.mod_lt _ (by decide)) =
      n.erase.set i.val (n.erase[i.val] + 1) i.isLt := by simp only [hmod]
  have hworn : (n.erase.set (i.val % 64) (n.erase[i.val % 64] + 1) (Nat.mod_lt _ (by decide)))[i.val % 64] = n.erase[i.val] + 1 := by
    rw [Vector.getElem_set_self]
    simp only [hmod]
  unfold Nvm.eraseSector
  dsimp only
  rw [hworn]
  split
  next h =>
    obtain ⟨hlo, hhi, hn⟩ := h
    refine ⟨rfl, herase, fun k => ?_⟩
    rw [BitVec.getLsbD_and, getLsbD_not_one_shiftLeft]
    simp [hlo, hhi, hn]
  next h =>
    refine ⟨rfl, herase, fun k => ?_⟩
    have hno : (decide (16 ≤ i.val) && decide (i.val < 48) && decide ((i.val - 16) / 8 = k.val) &&
        decide (100_000 ≤ n.erase[i.val] + 1)) = false := by
      simp only [← Bool.not_eq_true, Bool.and_eq_true, decide_eq_true_eq]
      rintro ⟨⟨⟨hlo, hhi⟩, -⟩, hn⟩
      exact h ⟨hlo, hhi, hn⟩
    rw [hno, Bool.not_false, Bool.and_true]

end

/-- The end of a link that has failed. -/
theorem State.failLink_failed {s : State} {d e : DieIx} {k : Fin 4} (hl : linkPeer s.straps.part d k = some e) (hpd : s.present d = true)
    (hpe : s.present e = true) (ne : e ≠ d) :
    (((s.failLink d k).die d).links[k.val]).failed = true ∧ (((s.failLink d k).die d).links[k.val]).up = false ∧
      (((s.failLink d k).die e).links[k.val]).failed = true ∧ ((s.failLink d k).reg 0 Reg.secEvt).getLsbD 5 = true := by
  obtain ⟨hd, he, hevt, -⟩ := State.failLink_spec hl hpd hpe ne
  rw [hd, he]
  exact ⟨rfl, rfl, rfl, hevt⟩

/-- Settles O55: a scrub step takes the next word and leaves what its check finds; the other tasks each change one field; a link that
fails does so at both ends. -/
theorem backgroundWorkAndLinks : Obligations.background_work_and_links := by
  unfold Obligations.background_work_and_links
  refine ⟨fun s d => ⟨fun bank r h => ⟨_, rfl, fxBigTopScrubStep_idle bank r h⟩,
      fun ch r h => ⟨_, rfl, fxDramPatrolScrubStep_idle ch r h⟩,
    fun ch h => ⟨_, rfl, fxDdr5Calibration_idle h⟩, fun k h => ?_⟩, fun s d hp => ⟨fun bank hr => ?_, fun ch ht => ?_,
    fun ch ht hdue hb h0 => ?_, fun k e hl hpe ne hu => ?_⟩, fun s => ⟨⟨_, rfl, rfl, rfl⟩, fun i => ?_⟩⟩
  · exact ⟨⟨_, rfl, if_neg (by simp [h])⟩, fun again => ⟨_, rfl, if_pos h⟩⟩
  · exact fun r => ⟨_, rfl, fxBigTopScrubStep_spec bank r hp hr⟩
  · exact fun r => ⟨_, rfl, fxDramPatrolScrubStep_spec ch r hp ht⟩
  · exact ⟨_, congrArg Host.Outcome.next (fxDdr5Calibration_due ht hdue hb h0), s.onlyDie_onDie d _, s.die_onDie_same d hp⟩
  · obtain ⟨-, -, -, hcount, -⟩ := State.failLink_spec hl hp hpe ne
    refine ⟨⟨_, congrArg Host.Outcome.next (if_pos hu), State.failLink_failed hl hp hpe ne, hcount⟩, fun again => ?_⟩
    have hgo := fxGaideFlitError_eq again hu
    generalize hrun : (if again then (s.die d).links[k.val].run + 1 else 1) = run at hgo
    obtain ⟨hframe, hlink, hretry⟩ := State.flitCounted_spec (k := k) run hp
    refine ⟨_, congrArg Host.Outcome.next hgo, ?_⟩
    dsimp only
    split
    next h16 =>
      obtain ⟨-, -, -, -, hkeep⟩ := State.failLink_spec (s := s.flitCounted d k run) hl hp hpe ne
      have hk : ∀ j : Fin 4, Reg.gdeRetry j.val ∉ [Reg.secCeOther, Reg.secEvt] := by decide
      refine ⟨(hkeep _ (hk k)).trans hretry, fun _ _ => State.failLink_failed hl hp hpe ne, fun h => ?_⟩
      split at hrun
      next ha => exact absurd h (by simp [ha]; omega)
      next => omega
    next h16 =>
      refine ⟨hretry, fun ha h15 => ?_, fun _ => ⟨hframe, hlink⟩⟩
      rw [if_pos ha] at hrun
      omega
  · obtain ⟨hframe, herase, hlive⟩ := s.nvm.eraseSector_spec i
    refine ⟨_, rfl, ?_, herase, hlive⟩
    rw [fxSectorErase, hframe]

/-! ### Instructions that issue (R105, R165) -/

section
variable {s u t : State} {st : StreamId} {x y : Stream} {i : CInstr}

theorem State.started_of_stream (h : 12 ≤ st.crs.val ∨ ((s.die st.die).stream st).isSome = true) : s.started st = s := by
  refine if_neg fun hc => ?_
  simp only [Bool.and_eq_true, decide_eq_true_eq] at hc
  obtain ⟨⟨hpict, hnone⟩, -⟩ := hc
  obtain h | h := h
  · omega
  · rw [Option.isNone_iff_eq_none] at hnone
    simp [hnone] at h

/-- A firmware stream that starts changes no more than the streams of its die, and none but itself. -/
theorem State.started_spec (s : State) (st : StreamId) : s.OnlyDie (s.started st) st.die ∧
    (s.started st).die st.die = { s.die st.die with streams := ((s.started st).die st.die).streams } ∧
    ∀ k, k ≠ st → ((s.started st).die st.die).stream k = (s.die st.die).stream k := by
  unfold State.started
  split
  · refine ⟨s.onlyDie_onDie _ _, ?_, fun k ne => ?_⟩
    · rw [State.die_onDie]
      split <;> rfl
    · rw [State.die_onDie]
      split
      · simp [Die.stream, List.find?_append, ne.symm]
      · rfl
  · exact ⟨⟨rfl, fun _ _ => rfl⟩, rfl, fun _ _ => rfl⟩

/-- What an instruction that issues finds: its stream runs, and the instruction stands at its program counter. -/
theorem State.issue_some (h : s.issue st = some (u, x, i)) :
    u = s.started st ∧ (u.die st.die).stream st = some x ∧ x.state = .running := by
  obtain ⟨⟨y, j⟩, hj, he⟩ := Option.map_eq_some_iff.mp h
  simp only [Prod.mk.injEq] at he
  obtain ⟨rfl, rfl, rfl⟩ := he
  unfold State.issuing at hj
  split at hj
  · cases hj
  next z hz =>
    dsimp only at hj
    split at hj
    next hrun =>
      obtain ⟨_, -, he⟩ := Option.map_eq_some_iff.mp hj
      obtain ⟨rfl, rfl⟩ := Prod.mk.inj he
      exact ⟨rfl, hz, hrun.1⟩
    · cases hj

/-! ### Updates of one stream -/

/-- A change of the first entry of a stream's key is a change of that stream. -/
theorem Die.stream_updStream (x : Die) (st k : StreamId) (f : Stream → Stream) :
    ({ x with streams := updFirst (fun e => e.1 == st) (fun e => (e.1, f e.2)) x.streams } : Die).stream k =
      if k = st then (x.stream k).map f else x.stream k := by
  simp only [Die.stream]
  induction x.streams with
  | nil => simp [updFirst]
  | cons e rest ih =>
    rw [updFirst]
    by_cases he : e.1 = st
    · by_cases hk : k = st
      · simp [he, hk]
      · simp [he, hk, Ne.symm hk]
    · by_cases hk : e.1 = k
      · have hne : k ≠ st := hk ▸ he
        simp [hk, hne]
      · simp only [beq_iff_eq, he, if_false, List.find?_cons, beq_eq_false_iff_ne.mpr hk]
        exact ih

theorem State.stream_onStream (s : State) {st : StreamId} (e : DieIx) (k : StreamId) (f : Stream → Stream)
    (hp : s.present st.die = true) :
    ((s.onStream st f).die e).stream k =
      if e = st.die ∧ k = st then ((s.die e).stream k).map f else (s.die e).stream k := by
  rw [State.onStream, State.die_onDie]
  by_cases he : e = st.die
  · subst he
    rw [if_pos ⟨rfl, hp⟩, Die.stream_updStream]
    simp
  · rw [if_neg fun h => he h.1.symm, if_neg fun h => he h.1]

/-- A change of one stream: the stream is as the change leaves it, and nothing else of the state changes. -/
theorem State.onStream_spec (f : Stream → Stream) (hp : u.present st.die = true) (h : (u.die st.die).stream st = some x) :
    u.OnlyDie (u.onStream st f) st.die ∧
      (u.onStream st f).die st.die = { u.die st.die with streams := ((u.onStream st f).die st.die).streams } ∧
      ((u.onStream st f).die st.die).stream st = some (f x) ∧
      ∀ k, k ≠ st → ((u.onStream st f).die st.die).stream k = (u.die st.die).stream k := by
  refine ⟨u.onlyDie_onDie _ _, ?_, ?_, fun k ne => ?_⟩
  · rw [State.onStream, u.die_onDie_same _ hp]
  · rw [u.stream_onStream _ _ f hp, if_pos ⟨rfl, rfl⟩, h, Option.map_some]
  · rw [u.stream_onStream _ _ f hp, if_neg fun h => ne h.2]

/-- The stream of an instruction that issues in `s` becomes `y`, and nothing else changes of the state `u` in which it runs. -/
def State.Becomes (s u : State) (st : StreamId) (y : Stream) (t : State) : Prop :=
  u.OnlyDie t st.die ∧ t.die st.die = { u.die st.die with streams := (t.die st.die).streams } ∧
    (t.die st.die).stream st = some y ∧ ∀ k, k ≠ st → (t.die st.die).stream k = (s.die st.die).stream k

theorem State.becomes_onStream {f : Stream → Stream} (hp : s.present st.die = true) (h : s.issue st = some (u, x, i)) (hy : f x = y) :
    s.Becomes u st y (u.onStream st f) := by
  obtain ⟨rfl, hx, -⟩ := State.issue_some h
  obtain ⟨hframe, -, hne⟩ := s.started_spec st
  have hpu : (s.started st).present st.die = true := by rw [hframe.1]; exact hp
  obtain ⟨h1, h2, h3, h4⟩ := State.onStream_spec f hpu hx
  exact ⟨h1, h2, hy ▸ h3, fun k ne => (h4 k ne).trans (hne k ne)⟩

end

theorem Stream.setc_step (x : Stream) (c : Fin 2) (lvl : Fin 4) (value : Nat) : x.setc c (lvl.val + 1) value =
    { x with pc := x.pc + 1, counts := x.counts.set c.val { x.counts[c.val] with
      step := (x.counts[c.val]).step.set lvl.val (BitVec.ofNat 64 value) } } := by
  have hmod : (lvl.val + 1 - 1) % 4 = lvl.val := by omega
  simp only [Stream.setc, Nat.succ_ne_zero, if_false, hmod]

theorem Stream.endl_of_loop {x : Stream} {lvl : Fin 4} {start count : Nat} {rest : List (Fin 4 × Nat × Nat)}
    (h : x.loops = (lvl, start, count) :: rest) : x.endl lvl =
      if x.idx[lvl.val] + 1 < count then { x with pc := start, idx := x.idx.set lvl.val (x.idx[lvl.val] + 1) }
      else { x with pc := x.pc + 1, idx := x.idx.set lvl.val 0, loops := rest } := by
  simp only [Stream.endl, h, true_and]

/-- The start of the extent that a base of a bundle program names (R438). -/
def Canvas.baseStart (c : Canvas) (d : DieIx) (space : Fin 8) (die : DieIx) (base : Nat) : Nat :=
  let pool (d : DieIx) : Nat := ((c.pool.find? fun e => e.1 == d).map fun e => e.2.1).getD 0
  let dram : Nat := ((c.dramAt.find? fun e => e.1 == d).map Prod.snd).getD 0
  let high := base.testBit 39
  match space.val with
  | 0 => if high then BtArea.gaide.range.1 else pool d
  | 1 => if high then dram else 0
  | 2 => if high then BtArea.gaide.range.1 else pool die
  | _ => 0

theorem State.reloc_bundle {u : State} {x : Stream} {c : Canvas} (st : StreamId) (space : Fin 8) (die : DieIx) (base : Nat)
    (hc : x.canvas.bind u.canvas = some c) :
    u.reloc x st space die base = (decide (space = 1) && !base.testBit 39, c.baseStart st.die space die base) := by
  simp only [State.reloc, hc, Extents.reloc, Canvas.baseStart]
  generalize base.testBit 39 = high
  cases high <;> fin_cases space <;> rfl

/-! ### The address instructions (Table 7.5) -/

section
variable {s u : State} {st : StreamId} {x : Stream}

theorem fxCarouselNop_of_issue (h : s.issue st = some (u, x, .nop)) : fxCarouselNop st s = u.onStream st Stream.advance := by
  rw [fxCarouselNop, h]

theorem fxSetb_firmware {g : Fin 4} {space : Fin 8} {die : DieIx} {base : Nat} (h : s.issue st = some (u, x, .setb g space die base))
    (hc : x.canvas = none) : fxSetb st s = u.onStream st fun y => y.setb g space die base false 0 := by
  rw [fxSetb, h]
  simp [hc, State.reloc]

theorem fxSetb_bundle {g : Fin 4} {space : Fin 8} {die : DieIx} {base : Nat} {c : Canvas}
    (h : s.issue st = some (u, x, .setb g space die base)) (hc : x.canvas.bind u.canvas = some c) :
    fxSetb st s = u.onStream st fun y =>
      y.setb g space die (base % 2 ^ 39) (decide (space = 1) && !base.testBit 39) (c.baseStart st.die space die base) := by
  have hsome : x.canvas.isSome = true := by
    obtain ⟨cv, hcv, -⟩ := Option.bind_eq_some_iff.mp hc
    rw [hcv]
    rfl
  rw [fxSetb, h]
  dsimp only
  rw [State.reloc_bundle st space die base hc, if_pos hsome]

theorem fxSets_of_issue {g lvl : Fin 4} {stride : Int} (h : s.issue st = some (u, x, .sets g lvl stride)) :
    fxSets st s = u.onStream st fun y => y.sets g lvl stride := by rw [fxSets, h]

theorem fxSetm_of_issue {g : Fin 4} {rsize : Nat} (h : s.issue st = some (u, x, .setm g rsize)) :
    fxSetm st s = u.onStream st fun y => y.setm g rsize := by rw [fxSetm, h]

theorem fxSetc_of_issue {c : Fin 2} {sel value : Nat} (h : s.issue st = some (u, x, .setc c sel value)) :
    fxSetc st s = u.onStream st fun y => y.setc c sel value := by rw [fxSetc, h]

theorem fxLoop_of_issue {lvl : Fin 4} {count : Nat} (h : s.issue st = some (u, x, .loop lvl count)) :
    fxLoop st s = u.onStream st fun y => y.loop lvl count := by rw [fxLoop, h]

theorem fxEndl_of_issue {lvl : Fin 4} (h : s.issue st = some (u, x, .endl lvl)) :
    fxEndl st s = u.onStream st fun y => y.endl lvl := by rw [fxEndl, h]

/-- A row whose stream issues no instruction changes nothing. -/
theorem carouselRows_idle (h : s.issue st = none) (cap : List Byte) :
    ∀ c ∈ [Instr.carouselNop st, .setb st, .sets st, .setm st, .setc st, .loop st, .endl st, .move st cap, .carouselWait st, .sig st,
      .cred st, .ret st, .endp st], exec c s = .next s := by
  have hnext {a : State} (he : a = s) : Host.Outcome.next (φ := Fault) (ρ := Refusal) a = .next s := congrArg Host.Outcome.next he
  simp only [List.forall_mem_cons]
  exact ⟨hnext (by rw [fxCarouselNop, h]), hnext (by rw [fxSetb, h]), hnext (by rw [fxSets, h]), hnext (by rw [fxSetm, h]),
    hnext (by rw [fxSetc, h]), hnext (by rw [fxLoop, h]), hnext (by rw [fxEndl, h]), hnext (by rw [fxMove, h]),
    hnext (by rw [fxCarouselWait, h]), hnext (by rw [fxSig, h]), hnext (by rw [fxCred, h]), hnext (by rw [fxRet, h]),
    hnext (by rw [fxEndp, h]), List.forall_mem_nil _⟩

end

/-- Settles O32: each row is a change of its stream, which Table 7.5 gives. -/
theorem carouselAddressInstructions : Obligations.carousel_address_instructions := by
  unfold Obligations.carousel_address_instructions
  refine ⟨fun s st cap h c hc => ⟨s, carouselRows_idle h cap c hc, rfl⟩, fun s u st x i hp h => ?_⟩
  intro becomes y
  have hbecomes {c : Instr} {z : Stream} {f : Stream → Stream} {a : State} (he : a = u.onStream st f) (hz : f x = z)
      (hx : exec c s = .next a) : becomes c z := ⟨a, hx, he ▸ State.becomes_onStream hp h hz⟩
  refine ⟨fun hs => (State.issue_some h).1.trans (State.started_of_stream hs), ?_, ?_, ?_, ?_, ?_, ?_, ?_, ?_, ?_⟩
  · rintro rfl
    exact hbecomes (fxCarouselNop_of_issue h) rfl rfl
  · rintro g space die base rfl hc
    exact hbecomes (fxSetb_firmware h hc) (by rw [Stream.setb, Nat.zero_add]) rfl
  · rintro g space die base c rfl hc
    exact hbecomes (fxSetb_bundle h hc) rfl rfl
  · rintro g lvl stride rfl
    exact hbecomes (fxSets_of_issue h) rfl rfl
  · rintro g rsize rfl
    exact hbecomes (fxSetm_of_issue h) rfl rfl
  · rintro c value rfl
    exact hbecomes (fxSetc_of_issue h) rfl rfl
  · rintro c lvl value rfl
    exact hbecomes (fxSetc_of_issue h) (x.setc_step c lvl value) rfl
  · rintro lvl count rfl
    exact hbecomes (fxLoop_of_issue h) rfl rfl
  · rintro lvl start count rest rfl hl
    have hend := Stream.endl_of_loop hl
    exact ⟨fun hlt => hbecomes (fxEndl_of_issue h) (hend.trans (if_pos hlt)) rfl,
      fun hle => hbecomes (fxEndl_of_issue h) (hend.trans (if_neg (Nat.not_lt.mpr hle))) rfl⟩

/-! ### A transfer to a die that the part lacks (R7, R170)

The statement says of the DRAM of every die that MOVE_COMPLETE lands a transfer there whose destination it is. The model writes to no
die that the part lacks. A MOVE to DRAM makes a transfer to the DRAM of its own die; but the statement is about every state. -/

/-- A transfer of one byte to the DRAM of die 2. -/
def lostTransfer : Transfer :=
  { space := 1, die := 2, writes := [(0, 1)], source := none, feeds := false, uncoded := 1, coded := 0 }

/-- A stream of die 0 that has the transfer under way. -/
def lostStream : StreamId := { die := 0, crs := 12, idx := 0 }
def lostRun : Stream := { Stream.launch none 0 none [] 0xFFFF [] 0 with moves := [lostTransfer] }

/-- A PV-2200, which has dies 0 and 1 alone, with that stream. -/
def lostPart : State :=
  (State.ofReset { part := .pv2200, bootHost := false, refPcie := false, mgmtI3c := false, smbAddr := 0, dramGib := 16 }
    Otp.unprogrammed Nvm.blank []).onDie 0 fun x => { x with streams := [(lostStream, lostRun)] }

/-- After the transfer has landed die 2 holds what it held: nothing. -/
theorem lostTransfer_writes_nothing : ((fxMoveComplete lostStream .done lostPart).die 2).dram = [] := by decide +kernel

/-- Refutes O33: it says that MOVE_COMPLETE writes the bytes of the transfer in the DRAM of its die, whatever that die is, while nothing
changes in a die that the part lacks. On a PV-2200 a transfer of one byte to the DRAM of die 2 leaves that DRAM empty. -/
theorem not_carouselMoves : ¬ Obligations.carousel_moves := by
  unfold Obligations.carousel_moves
  rintro ⟨-, hcomplete⟩
  obtain ⟨-, hruns⟩ := hcomplete lostPart lostStream .done (by decide)
  obtain ⟨-, hmoves⟩ := hruns lostRun rfl
  obtain ⟨⟨t, ht, hdram, -⟩, -⟩ := hmoves lostTransfer [] rfl
  obtain rfl : fxMoveComplete lostStream .done lostPart = t := Host.Outcome.next.inj ht
  have hlands := hdram 2
  rw [lostTransfer_writes_nothing] at hlands
  exact absurd hlands (by decide)

/-! ### Credit pools (R172) -/

theorem insertBy_perm {α : Type} (before : α → α → Bool) (x : α) (l : List α) : (insertBy before x l).Perm (x :: l) := by
  induction l with
  | nil => exact .refl _
  | cons y rest ih =>
    rw [insertBy]
    split
    · exact .refl _
    · exact (ih.cons y).trans (.swap x y rest)

theorem sortBy_perm {α : Type} (before : α → α → Bool) (l : List α) : (sortBy before l).Perm l := by
  have hfold (acc : List α) : (l.foldl (fun acc x => insertBy before x acc) acc).Perm (l ++ acc) := by
    induction l generalizing acc with
    | nil => exact .refl _
    | cons x rest ih =>
      exact (ih _).trans (((insertBy_perm before x acc).append_left rest).trans List.perm_middle)
  have h := hfold []
  rwa [List.append_nil] at h

/-- Units taken from one member: as many as it holds of those still to be taken. -/
def takeStep (acc : Nat × List Member) (m : Member) : Nat × List Member :=
  (acc.1 - min acc.1 m.held, acc.2 ++ [{ m with held := m.held - min acc.1 m.held }])

/-- The members in the order in which units are taken: those of the returning program first (entry 19). -/
def takeOrder (first : Option (BitVec 16)) (l : List Member) : List Member :=
  let order := sortBy (fun (a b : Member) => decide (a.prog.toNat < b.prog.toNat)) l
  (order.filter fun m => some m.prog == first) ++ order.filter fun m => some m.prog != first

theorem takeUnits_eq (first : Option (BitVec 16)) (n : Nat) (l : List Member) :
    takeUnits first n l = ((takeOrder first l).foldl takeStep (n, [])).2 := rfl

theorem takeOrder_perm (first : Option (BitVec 16)) (l : List Member) : (takeOrder first l).Perm l :=
  (List.filter_append_perm _ _).trans (sortBy_perm _ l)

/-- Members lose together what is taken, as far as they hold it. -/
theorem held_foldl_takeStep (l : List Member) (n : Nat) (acc : List Member) :
    (((l.foldl takeStep (n, acc)).2).map Member.held).sum = (acc.map Member.held).sum + ((l.map Member.held).sum - n) := by
  induction l generalizing n acc with
  | nil => simp
  | cons m rest ih =>
    rw [List.foldl_cons, takeStep, ih]
    simp only [List.map_append, List.map_cons, List.map_nil, List.sum_append, List.sum_cons, List.sum_nil]
    omega

theorem held_takeUnits (first : Option (BitVec 16)) (n : Nat) (l : List Member) :
    ((takeUnits first n l).map Member.held).sum = (l.map Member.held).sum - n := by
  rw [takeUnits_eq, held_foldl_takeStep, List.map_nil, List.sum_nil, Nat.zero_add, ((takeOrder_perm first l).map _).sum_eq]

section
variable {p q : Pool} {prog : BitVec 16} {m : Member}

theorem Pool.giveBack_of_held {first : Option (BitVec 16)} {n : Nat} (h : n ≤ (p.members.map Member.held).sum) :
    p.giveBack first n = some { p with members := takeUnits first n p.members } := if_neg (Nat.not_lt.mpr h)

theorem Pool.giveBack_refused {first : Option (BitVec 16)} {n : Nat} (h : (p.members.map Member.held).sum < n) :
    p.giveBack first n = none := if_pos h

theorem Pool.waiting_giveBack {first : Option (BitVec 16)} {n : Nat} (h : p.giveBack first n = some q) : q.waiting = p.waiting := by
  unfold Pool.giveBack at h
  split at h
  · cases h
  · cases h
    rfl

theorem Pool.member_of_find? (h : p.members.find? (fun k => k.prog == prog) = some m) : p.member prog = m := by
  rw [Pool.member, h, Option.getD_some]

/-- A grant adds to what the stream of one program holds, and to no other's. -/
theorem Pool.member_grant (n : Nat) (h : p.members.find? (fun k => k.prog == prog) = some m) :
    ((p.grant prog n).member prog).held = m.held + n ∧ ∀ k, k ≠ prog → (p.grant prog n).member k = p.member k := by
  have hm : (m.prog == prog) = true := by simpa using List.find?_some h
  have hsame := find?_updFirst_of_find? (p := fun k : Member => k.prog == prog) (f := fun k => { k with held := k.held + n }) h hm
    (fun _ => id) hm
  refine ⟨?_, fun k ne => ?_⟩
  · rw [Pool.member_of_find? hsame]
  · rw [Pool.member, Pool.member, Pool.grant]
    dsimp only
    rw [find?_updFirst_of_disjoint]
    intro x hx
    rw [beq_iff_eq] at hx
    simp [hx, ne.symm]

/-- One request alone is granted whole where it fits, and waits where it does not. -/
theorem Pool.serve_single (r : CreditReq) : Pool.serve false [r] p =
    if (p.member r.prog).need r.units = 0 ∨ (p.member r.prog).need r.units ≤ p.free then
      ({ p.grant r.prog r.units with waiting := [] }, [r.stream])
    else ({ p with waiting := [r] }, []) := by
  simp only [Pool.serve, true_and]

end

/-! ### Pools of a die -/

theorem sLookup_updFirst {α : Type} (l : SMap α) (n k : Nat) (f : α → α) :
    sLookup (updFirst (fun e => e.1 == n) (fun e => (e.1, f e.2)) l) k = if k = n then (sLookup l k).map f else sLookup l k := by
  induction l with
  | nil => simp [updFirst, sLookup]
  | cons e rest ih =>
    rw [updFirst]
    by_cases he : e.1 = n
    · by_cases hk : k = n
      · simp [he, hk, sLookup]
      · simp [he, hk, sLookup, Ne.symm hk]
    · by_cases hk : e.1 = k
      · have hne : k ≠ n := hk ▸ he
        simp [hk, hne, sLookup]
      · simp only [beq_iff_eq, he, if_false, sLookup, hk]
        exact ih

section
variable {s : State} {d : DieIx}

theorem State.die_onPool (n : Nat) (f : Pool → Pool) (hp : s.present d = true) : (s.onPool d n f).die d =
    { s.die d with pools := updFirst (fun e => e.1 == n) (fun e => (e.1, f e.2)) (s.die d).pools } := s.die_onDie_same d hp

theorem State.pool_onPool (n k : Nat) (f : Pool → Pool) (hp : s.present d = true) :
    ((s.onPool d n f).die d).pool k = if k = n then ((s.die d).pool k).map f else (s.die d).pool k := by
  rw [State.die_onPool n f hp]
  exact sLookup_updFirst _ _ _ _

theorem State.stream_onPool (n : Nat) (f : Pool → Pool) (e : DieIx) (k : StreamId) :
    ((s.onPool d n f).die e).stream k = (s.die e).stream k := by
  rw [State.onPool, State.die_onDie]
  split
  next h => rw [← h.1]; rfl
  next => rfl

theorem State.pool_onStream (st : StreamId) (f : Stream → Stream) (e : DieIx) (n : Nat) :
    ((s.onStream st f).die e).pool n = (s.die e).pool n := by
  rw [State.onStream, State.die_onDie]
  split
  next h => rw [← h.1]; rfl
  next => rfl

/-! ### Streams that go on past their CRED -/

/-- A stream past the instruction at which it waited. -/
def Stream.resumed (x : Stream) : Stream := { x with state := .running, pc := x.pc + 1 }

/-- The state in which some streams have gone on. -/
def State.resume (s : State) (l : List StreamId) : State := l.foldl (fun s st => s.onStream st Stream.resumed) s

theorem State.servePool_eq {n : Nat} {p : Pool} (h : (s.die d).pool n = some p) : s.servePool d n =
    (s.onPool d n fun _ => (Pool.serve false p.waiting p).1).resume (Pool.serve false p.waiting p).2 := by
  rw [State.servePool, h]
  rfl

theorem State.pool_resume (l : List StreamId) (e : DieIx) (n : Nat) : ((s.resume l).die e).pool n = (s.die e).pool n := by
  induction l generalizing s with
  | nil => rfl
  | cons st rest ih => exact (ih (s := s.onStream st Stream.resumed)).trans (State.pool_onStream st _ e n)

/-- Of streams that are named once each goes on once, and no other. -/
theorem State.stream_resume {l : List StreamId} (hp : s.present d = true) (hl : l.Nodup) {k : StreamId} (hk : k.die = d) :
    ((s.resume l).die d).stream k = if k ∈ l then ((s.die d).stream k).map Stream.resumed else (s.die d).stream k := by
  induction l generalizing s with
  | nil => simp [State.resume]
  | cons st rest ih =>
    obtain ⟨hst, hrest⟩ := List.nodup_cons.mp hl
    have hgo := ih (s := s.onStream st Stream.resumed) hp hrest
    rw [State.resume, List.foldl_cons, ← State.resume, hgo]
    by_cases hks : k = st
    · subst hks
      subst hk
      rw [if_neg hst, if_pos List.mem_cons_self, s.stream_onStream _ _ _ hp, if_pos ⟨rfl, rfl⟩]
    · have hsame : ((s.onStream st Stream.resumed).die d).stream k = (s.die d).stream k := by
        by_cases hps : s.present st.die = true
        · rw [s.stream_onStream _ _ _ hps, if_neg fun h => hks h.2]
        · rw [State.onStream, State.die_onDie, if_neg fun h => hps h.2]
      simp only [List.mem_cons, hks, false_or, hsame]

end

/-! ### CRED and RET (R172) -/

/-- A stream at its CRED whose request waits. -/
def Stream.pendingCredit (x : Stream) : Stream := { x with state := .waitCredit }

/-- The request of a stream for units. -/
def Stream.asks (x : Stream) (st : StreamId) (units : Nat) : CreditReq := { stream := st, prog := x.prog, units := units }

/-- A pool with a request behind those that wait. -/
def Pool.asked (p : Pool) (r : CreditReq) : Pool := { p with waiting := p.waiting ++ [r] }

section
variable {s u : State} {st : StreamId} {x : Stream} {cv : CanvasId} {index units n : Nat} {p q : Pool}

theorem fxCred_unpooled (h : s.issue st = some (u, x, .cred index units))
    (hp : (x.canvas.bind fun cv => (u.die st.die).bundlePool cv index) = none) : fxCred st s = u.onStream st Stream.advance := by
  rw [fxCred, h]
  dsimp only
  rw [hp]

theorem fxRet_unpooled (h : s.issue st = some (u, x, .ret index units))
    (hp : (x.canvas.bind fun cv => (u.die st.die).bundlePool cv index) = none) : fxRet st s = u.onStream st Stream.advance := by
  rw [fxRet, h]
  dsimp only
  rw [hp]

/-- The state in which a request has joined those of its pool. -/
def State.credAsked (s : State) (st : StreamId) (n : Nat) (r : CreditReq) : State :=
  (s.onStream st Stream.pendingCredit).onPool st.die n fun p => p.asked r

/-- The state in which a return has gone into its pool. -/
def State.credReturned (s : State) (st : StreamId) (n : Nat) (q : Pool) : State :=
  (s.onPool st.die n fun _ => q).onStream st Stream.advance

/-- A stream that issues is known to the state, which is therefore the one in which it runs. -/
theorem State.issue_known {i : CInstr} (h : s.issue st = some (u, x, i)) (hx : (s.die st.die).stream st = some x) :
    s.issue st = some (s, x, i) ∧ x.state = .running := by
  obtain ⟨hu, -, hrun⟩ := State.issue_some h
  rw [State.started_of_stream (.inr (by rw [hx]; rfl))] at hu
  exact ⟨hu ▸ h, hrun⟩

theorem fxCred_pooled (h : s.issue st = some (s, x, .cred index units)) (hcv : x.canvas = some cv)
    (hb : (s.die st.die).bundlePool cv index = some (n, p)) :
    fxCred st s = (s.credAsked st n (x.asks st units)).servePool st.die n := by
  rw [fxCred, h]
  dsimp only
  rw [hcv, Option.bind_some, hb]
  rfl

theorem fxRet_pooled (h : s.issue st = some (s, x, .ret index units)) (hcv : x.canvas = some cv)
    (hb : (s.die st.die).bundlePool cv index = some (n, p)) (hq : p.giveBack (some x.prog) units = some q) :
    fxRet st s = (s.credReturned st n q).servePool st.die n := by
  rw [fxRet, h]
  dsimp only
  rw [hcv, Option.bind_some, hb]
  dsimp only
  rw [hq]
  rfl

theorem fxRet_refused (h : s.issue st = some (s, x, .ret index units)) (hcv : x.canvas = some cv)
    (hb : (s.die st.die).bundlePool cv index = some (n, p)) (hq : p.giveBack (some x.prog) units = none) :
    fxRet st s = (s.creditError st.die).endStream st .aborted [] := by
  rw [fxRet, h]
  dsimp only
  rw [hcv, Option.bind_some, hb]
  dsimp only
  rw [hq]

theorem State.credAsked_spec (r : CreditReq) (hp : s.present st.die = true) (hx : (s.die st.die).stream st = some x)
    (hn : (s.die st.die).pool n = some p) : s.OnlyDie (s.credAsked st n r) st.die ∧
      ((s.credAsked st n r).die st.die).pool n = some (p.asked r) ∧
      ((s.credAsked st n r).die st.die).stream st = some x.pendingCredit ∧
      ∀ k, k ≠ st → ((s.credAsked st n r).die st.die).stream k = (s.die st.die).stream k := by
  obtain ⟨⟨hf, hd⟩, -, hst, hne⟩ := State.onStream_spec Stream.pendingCredit hp hx
  refine ⟨⟨rfl, fun e ne => ?_⟩, ?_, ?_, fun k ne => ?_⟩
  · exact (State.die_onDie_ne _ _ _ ne.symm).trans (hd e ne)
  · rw [State.credAsked, State.pool_onPool (s := s.onStream st _) _ _ _ hp, if_pos rfl, State.pool_onStream, hn, Option.map_some]
  · rw [State.credAsked, State.stream_onPool, hst]
  · rw [State.credAsked, State.stream_onPool, hne k ne]

theorem State.credReturned_spec (q : Pool) (hp : s.present st.die = true) (hx : (s.die st.die).stream st = some x)
    (hn : (s.die st.die).pool n = some p) : s.OnlyDie (s.credReturned st n q) st.die ∧
      ((s.credReturned st n q).die st.die).pool n = some q ∧
      ((s.credReturned st n q).die st.die).stream st = some x.advance := by
  have hst : ((s.onPool st.die n fun _ => q).die st.die).stream st = some x := by rw [State.stream_onPool, hx]
  obtain ⟨⟨hf, hd⟩, -, hadv, -⟩ := State.onStream_spec (u := s.onPool st.die n fun _ => q) Stream.advance hp hst
  refine ⟨⟨rfl, fun e ne => ?_⟩, ?_, hadv⟩
  · exact (hd e ne).trans (s.die_onDie_ne _ e ne.symm)
  · rw [State.credReturned, State.pool_onStream, State.pool_onPool _ _ _ hp, if_pos rfl, hn, Option.map_some]

theorem State.OnlyDie.trans {s t u : State} {d : DieIx} (h : s.OnlyDie t d) (k : t.OnlyDie u d) : s.OnlyDie u d :=
  ⟨by rw [k.1, h.1], fun e ne => (k.2 e ne).trans (h.2 e ne)⟩

theorem State.onlyDie_resume {d : DieIx} {l : List StreamId} (hl : ∀ k ∈ l, k.die = d) : s.OnlyDie (s.resume l) d := by
  induction l generalizing s with
  | nil => exact ⟨rfl, fun _ _ => rfl⟩
  | cons k rest ih =>
    obtain ⟨hk, hrest⟩ := List.forall_mem_cons.mp hl
    subst hk
    exact State.OnlyDie.trans (s.onlyDie_onDie k.die _) (ih hrest)

/-- What a pool's grants leave: the pool as it has served its requests, and the streams granted past their CRED. -/
theorem State.servePool_spec {d : DieIx} (hp : s.present d = true) (hn : (s.die d).pool n = some p) :
    let r := Pool.serve false p.waiting p
    ((s.servePool d n).die d).pool n = some r.1 ∧
      ∀ k, r.2.Nodup → k.die = d → ((s.servePool d n).die d).stream k =
        if k ∈ r.2 then ((s.die d).stream k).map Stream.resumed else (s.die d).stream k := by
  intro r
  rw [State.servePool_eq hn]
  refine ⟨?_, fun k hl hk => ?_⟩
  · rw [State.pool_resume, State.pool_onPool _ _ _ hp, if_pos rfl, hn, Option.map_some]
  · rw [State.stream_resume (s := s.onPool d n _) hp hl hk, State.stream_onPool]

/-- Grants to streams of the pool's die change that die alone. -/
theorem State.servePool_onlyDie {d : DieIx} (hn : (s.die d).pool n = some p)
    (hl : ∀ k ∈ (Pool.serve false p.waiting p).2, k.die = d) : s.OnlyDie (s.servePool d n) d := by
  rw [State.servePool_eq hn]
  exact State.OnlyDie.trans (s.onlyDie_onDie d _) (State.onlyDie_resume hl)

theorem Stream.resumed_pendingCredit (h : x.state = .running) : x.pendingCredit.resumed = { x with pc := x.pc + 1 } := by
  rw [Stream.pendingCredit, Stream.resumed, ← h]

end

section
variable {s : State} {st : StreamId} {x : Stream} {cv : CanvasId} {index units n : Nat} {p : Pool} {m : Member}

/-- A request joins those of its pool, which are then granted in order. -/
theorem fxCred_serves (hp : s.present st.die = true) (h : s.issue st = some (s, x, .cred index units)) (hcv : x.canvas = some cv)
    (hb : (s.die st.die).bundlePool cv index = some (n, p)) (hn : (s.die st.die).pool n = some p) :
    let r := Pool.serve false (p.asked (x.asks st units)).waiting (p.asked (x.asks st units))
    ((fxCred st s).die st.die).pool n = some r.1 ∧
      (r.2.Nodup → ∀ k, k.die = st.die → ((fxCred st s).die st.die).stream k =
        if k ∈ r.2 then (if k = st then some { x with pc := x.pc + 1 } else
          ((s.die st.die).stream k).map fun y => { y with state := .running, pc := y.pc + 1 })
        else if k = st then some { x with state := .waitCredit } else (s.die st.die).stream k) := by
  intro r
  obtain ⟨-, hx, hrun⟩ := State.issue_some h
  obtain ⟨hframe, hasked, hst, hne⟩ := State.credAsked_spec (x.asks st units) hp hx hn
  have hpa : (s.credAsked st n (x.asks st units)).present st.die = true := hp
  obtain ⟨hpool, hstreams⟩ := State.servePool_spec hpa hasked
  rw [fxCred_pooled h hcv hb]
  refine ⟨hpool, fun hl k hk => (hstreams k hl hk).trans ?_⟩
  by_cases hks : k = st
  · subst hks
    simp only [hst, if_true, Option.map_some, Stream.resumed_pendingCredit hrun]
    rfl
  · simp only [hne k hks, hks, if_false]
    rfl

/-- A request that finds none before it is granted whole where it fits beside the floors, and else waits. -/
theorem fxCred_alone (hp : s.present st.die = true) (h : s.issue st = some (s, x, .cred index units)) (hcv : x.canvas = some cv)
    (hb : (s.die st.die).bundlePool cv index = some (n, p)) (hn : (s.die st.die).pool n = some p)
    (hm : p.members.find? (fun k => k.prog == x.prog) = some m) (hw : p.waiting = []) :
    (m.need units = 0 ∨ m.need units ≤ p.free → s.OnlyDie (fxCred st s) st.die ∧
      ((fxCred st s).die st.die).stream st = some { x with pc := x.pc + 1 } ∧ ∃ q, ((fxCred st s).die st.die).pool n = some q ∧
        q.waiting = [] ∧ (q.member x.prog).held = m.held + units ∧ ∀ k, k ≠ x.prog → q.member k = p.member k) ∧
    (¬ (m.need units = 0 ∨ m.need units ≤ p.free) → s.OnlyDie (fxCred st s) st.die ∧
      ((fxCred st s).die st.die).stream st = some { x with state := .waitCredit } ∧
      ((fxCred st s).die st.die).pool n = some { p with waiting := [x.asks st units] }) := by
  have hserves := fxCred_serves hp h hcv hb hn
  obtain ⟨-, hx, -⟩ := State.issue_some h
  obtain ⟨hframe, hasked, -⟩ := State.credAsked_spec (x.asks st units) hp hx hn
  have hall : (p.asked (x.asks st units)).waiting = [x.asks st units] := by rw [Pool.asked, hw]; rfl
  have hmember : (p.asked (x.asks st units)).member (x.asks st units).prog = m := Pool.member_of_find? hm
  have hserve := Pool.serve_single (p := p.asked (x.asks st units)) (x.asks st units)
  rw [hmember] at hserve
  have honly (hl : ∀ k ∈ (Pool.serve false [x.asks st units] (p.asked (x.asks st units))).2, k.die = st.die) :
      s.OnlyDie (fxCred st s) st.die := by
    rw [fxCred_pooled h hcv hb]
    exact hframe.trans (State.servePool_onlyDie hasked (by rw [hall]; exact hl))
  rw [hall] at hserves
  refine ⟨fun hfit => ?_, fun hno => ?_⟩
  · rw [hserve.trans (if_pos hfit)] at hserves honly
    obtain ⟨hpool, hstreams⟩ := hserves
    obtain ⟨hheld, hothers⟩ := Pool.member_grant (p := p.asked (x.asks st units)) units hm
    refine ⟨honly (by simp [Stream.asks]), ?_, _, hpool, rfl, hheld, hothers⟩
    rw [hstreams (by simp) st rfl]
    simp [Stream.asks]
  · rw [hserve.trans (if_neg hno)] at hserves honly
    obtain ⟨hpool, hstreams⟩ := hserves
    refine ⟨honly (by simp), ?_, hpool⟩
    rw [hstreams (by simp) st rfl]
    simp

/-- A return goes into the pool, which then grants what fits. -/
theorem fxRet_serves {q : Pool} (hp : s.present st.die = true) (h : s.issue st = some (s, x, .ret index units)) (hcv : x.canvas = some cv)
    (hb : (s.die st.die).bundlePool cv index = some (n, p)) (hn : (s.die st.die).pool n = some p)
    (hq : p.giveBack (some x.prog) units = some q) :
    ((fxRet st s).die st.die).pool n = some (Pool.serve false p.waiting q).1 ∧
      (p.waiting = [] → s.OnlyDie (fxRet st s) st.die ∧ ((fxRet st s).die st.die).stream st = some { x with pc := x.pc + 1 }) := by
  obtain ⟨-, hx, -⟩ := State.issue_some h
  obtain ⟨hframe, hret, hst⟩ := State.credReturned_spec q hp hx hn
  have hpr : (s.credReturned st n q).present st.die = true := hp
  obtain ⟨hpool, hstreams⟩ := State.servePool_spec hpr hret
  rw [fxRet_pooled h hcv hb hq]
  rw [Pool.waiting_giveBack hq] at hpool hstreams
  refine ⟨hpool, fun hw => ?_⟩
  have hnone : (Pool.serve false p.waiting q).2 = [] := by rw [hw]; rfl
  refine ⟨hframe.trans (State.servePool_onlyDie hret ?_), ?_⟩
  · rw [Pool.waiting_giveBack hq, hnone]
    exact List.forall_mem_nil _
  · rw [hstreams st (by rw [hnone]; exact List.nodup_nil) rfl, hnone, if_neg List.not_mem_nil, hst]
    rfl

end

/-! ### What the end of streams and items leaves

Work that ends changes none of the reports of a Carousel's stalls and errors, lowers none of its flags, and changes the capacity of no
credit pool. Where no run waits for a stream, no stream appears, and the members of every pool hold what they held. -/

/-- The registers of a Carousel that report stalls and errors (Table 7.11). -/
abbrev IsCrsReport (off : Nat) : Prop := Reg.crsStallCnt ≤ off ∧ off ≤ Reg.crsCreditErr

/-- What work that ends leaves of a die; `idle`: no run waits for a stream. -/
structure Die.WindsDown (idle : Prop) (x y : Die) : Prop where
  reports : ∀ off, IsCrsReport off → y.reg off = x.reg off
  flags : ∀ i, (x.reg Reg.crsEvt).getLsbD i = true → (y.reg Reg.crsEvt).getLsbD i = true
  capacity : ∀ n, (y.pool n).map Pool.capacity = (x.pool n).map Pool.capacity
  streams : idle → ∀ k, x.stream k = none → y.stream k = none
  members : idle → ∀ n, (y.pool n).map Pool.members = (x.pool n).map Pool.members

namespace Die.WindsDown

variable {idle now : Prop} {x y z : Die}

theorem of_eq (hr : y.regs = x.regs) (hs : y.streams = x.streams) (hp : y.pools = x.pools) : x.WindsDown idle y where
  reports off _ := by rw [Die.reg, hr, Die.reg]
  flags i h := by rwa [Die.reg, hr]
  capacity n := by rw [Die.pool, hp, Die.pool]
  streams _ k h := by rwa [Die.stream, hs]
  members _ n := by rw [Die.pool, hp, Die.pool]

protected theorem refl (x : Die) : x.WindsDown idle x := of_eq rfl rfl rfl

theorem trans (h : x.WindsDown idle y) (hi : idle → now) (k : y.WindsDown now z) : x.WindsDown idle z where
  reports off ho := (k.reports off ho).trans (h.reports off ho)
  flags i hx := k.flags i (h.flags i hx)
  capacity n := (k.capacity n).trans (h.capacity n)
  streams c st hx := k.streams (hi c) st (h.streams c st hx)
  members c n := (k.members (hi c) n).trans (h.members c n)

/-- A register that is set, where it is no report and lowers no flag. -/
theorem setReg (x : Die) {off : Nat} (w : Word) (ho : ¬ IsCrsReport off)
    (hw : off = Reg.crsEvt → ∀ i, (x.reg off).getLsbD i = true → w.getLsbD i = true) : x.WindsDown idle (x.setReg off w) where
  reports k hk := x.reg_setReg_ne w fun e => ho (e ▸ hk)
  flags i h := by
    rw [Die.reg_setReg]
    split
    next e => exact hw e i (e ▸ h)
    next => exact h
  capacity _ := rfl
  streams _ _ h := h
  members _ _ := rfl

/-- A register that is neither a report nor CRS_EVT. -/
theorem setOther (x : Die) {off : Nat} (w : Word) (ho : ¬ IsCrsReport off ∧ off ≠ Reg.crsEvt) : x.WindsDown idle (x.setReg off w) :=
  setReg x w ho.1 fun e => absurd e ho.2

theorem inflight (x : Die) (cur : Nat) : x.WindsDown idle ((x.setField Reg.crsInflight 13 0 cur).setField Reg.crsInflight 29 16
    (max cur (x.field Reg.crsInflight 29 16))) :=
  (setOther x _ (by decide)).trans id (setOther _ _ (by decide))

end Die.WindsDown

theorem forall_mem_updFirst {α : Type} {P : α → Prop} {p : α → Bool} {f : α → α} {l : List α} (h : ∀ x ∈ l, P x)
    (hf : ∀ x, P x → P (f x)) : ∀ x ∈ updFirst p f l, P x := by
  induction l with
  | nil => exact h
  | cons x rest ih =>
    obtain ⟨hx, hrest⟩ := List.forall_mem_cons.mp h
    rw [updFirst]
    split
    · exact List.forall_mem_cons.mpr ⟨hf x hx, hrest⟩
    · exact List.forall_mem_cons.mpr ⟨hx, ih hrest⟩

theorem sLookup_map_of_key {α β : Type} {l : SMap α} {g : Nat × α → Nat × α} {φ : α → β}
    (hg : ∀ e, (g e).1 = e.1 ∧ φ (g e).2 = φ e.2) (n : Nat) : (sLookup (l.map g) n).map φ = (sLookup l n).map φ := by
  induction l with
  | nil => rfl
  | cons e rest ih =>
    obtain ⟨hk, hv⟩ := hg e
    simp only [List.map_cons, sLookup, hk]
    split
    · exact congrArg some hv
    · exact ih

theorem Die.stream_removeStreams (x : Die) (p : StreamId → Stream → Bool) {k : StreamId} (h : x.stream k = none) :
    (x.removeStreams p).stream k = none := by
  simp only [Die.stream, Die.removeStreams, Option.map_eq_none_iff, List.find?_eq_none] at h ⊢
  exact fun e he => h e (List.mem_filter.mp he).1

/-- Streams that leave take their requests off the pools, which keep all else. -/
theorem Die.pool_removeStreams {β : Type} {φ : Pool → β} (x : Die) (p : StreamId → Stream → Bool)
    (hφ : ∀ (q : Pool) w, φ { q with waiting := w } = φ q)
    (n : Nat) : ((x.removeStreams p).pool n).map φ = (x.pool n).map φ := by
  simp only [Die.pool, Die.removeStreams]
  refine sLookup_map_of_key (fun e => ?_) n
  exact ⟨rfl, hφ e.2 _⟩

theorem Die.windsDown_removeStreams {idle : Prop} (x : Die) (p : StreamId → Stream → Bool) : x.WindsDown idle (x.removeStreams p) where
  reports _ _ := rfl
  flags _ h := h
  capacity n := x.pool_removeStreams p (fun _ _ => rfl) n
  streams _ _ h := x.stream_removeStreams p h
  members _ n := x.pool_removeStreams p (fun _ _ => rfl) n

/-- No run of a Carousel program waits for a stream. -/
def State.NoRuns (s : State) : Prop := ∀ k ∈ s.canvases, k.runs = []

/-- What work that ends leaves of a state. -/
structure State.WindsDown (s t : State) : Prop where
  straps : t.straps = s.straps
  runs : s.NoRuns → t.NoRuns
  dies : ∀ d, (s.die d).WindsDown s.NoRuns (t.die d)

namespace State.WindsDown

variable {s0 s t : State}

protected theorem refl (s : State) : s.WindsDown s := ⟨rfl, id, fun d => .refl (s.die d)⟩

theorem trans (k : s0.WindsDown s) (j : s.WindsDown t) : s0.WindsDown t :=
  ⟨j.straps.trans k.straps, j.runs ∘ k.runs, fun d => (k.dies d).trans k.runs (j.dies d)⟩

theorem present (k : s.WindsDown t) (d : DieIx) : t.present d = s.present d := by
  rw [State.present, State.nDies, k.straps]
  rfl

theorem ite {c : Prop} [Decidable c] (k : s0.WindsDown s) (j : s0.WindsDown t) : s0.WindsDown (if c then s else t) := by
  split
  · exact k
  · exact j

theorem foldl {α : Type} {f : State → α → State} {l : List α} (k : s0.WindsDown s)
    (hf : ∀ t a, s0.WindsDown t → s0.WindsDown (f t a)) : s0.WindsDown (l.foldl f s) := foldl_inv hf k

/-- A change of other fields than straps, dies and canvases. -/
theorem copy (k : s0.WindsDown s) (hs : t.straps = s.straps) (hc : t.canvases = s.canvases) (hd : t.dies = s.dies) : s0.WindsDown t :=
  k.trans ⟨hs, fun h => by rwa [State.NoRuns, hc], fun d => by rw [State.die, State.die, hd]; exact .refl _⟩

theorem onDie (k : s0.WindsDown s) (d : DieIx) {f : Die → Die} (hf : (s.die d).WindsDown s0.NoRuns (f (s.die d))) :
    s0.WindsDown (s.onDie d f) := by
  refine ⟨k.straps, k.runs, fun e => ?_⟩
  rw [State.die_onDie]
  split
  next h =>
    obtain ⟨rfl, -⟩ := h
    exact (k.dies d).trans id hf
  next => exact k.dies e

theorem onDies (k : s0.WindsDown s) (ds : List DieIx) {f : DieIx → Die → Die}
    (hf : ∀ (d : DieIx) (x : Die), x.WindsDown s0.NoRuns (f d x)) :
    s0.WindsDown (s.onDies ds f) := k.foldl fun _ d j => j.onDie d (hf d _)

theorem onHost (k : s0.WindsDown s) (f : HostSide → HostSide) : s0.WindsDown (s.onHost f) := k.copy rfl rfl rfl

theorem onCanvas (k : s0.WindsDown s) (cv : CanvasId) {f : Canvas → Canvas} (hf : ∀ c, c.runs = [] → (f c).runs = []) :
    s0.WindsDown (s.onCanvas cv f) := ⟨k.straps, fun h => forall_mem_updFirst (k.runs h) hf, k.dies⟩

/-! #### Registers and flags -/

variable {off cnt evt : Nat}

theorem count (k : s0.WindsDown s) (d : DieIx) (n : Nat) (ho : ¬ IsCrsReport off ∧ off ≠ Reg.crsEvt) :
    s0.WindsDown (s.count d off n) :=
  k.onDie d (.setOther _ _ ho)

theorem raise (k : s0.WindsDown s) (d : DieIx) (mask : Nat) (ho : ¬ IsCrsReport evt) : s0.WindsDown (s.raise d evt mask) := by
  refine copy (s := s.setReg d evt (s.reg d evt ||| BitVec.ofNat 32 mask)) (k.onDie d (.setReg _ _ ho fun _ i hi => ?_)) rfl rfl rfl
  rw [BitVec.getLsbD_or, State.reg, hi, Bool.true_or]

theorem countRaise (k : s0.WindsDown s) (d : DieIx) (mask : Nat) (hc : ¬ IsCrsReport cnt ∧ cnt ≠ Reg.crsEvt)
    (ho : ¬ IsCrsReport evt) :
    s0.WindsDown (s.countRaise d cnt evt mask) := (k.count d 1 hc).raise d mask ho

theorem untrusted (k : s0.WindsDown s) (d : DieIx) : s0.WindsDown (s.untrusted d) :=
  (k.onDie d (.of_eq rfl rfl rfl)).countRaise d _ (by decide) (by decide)

/-! #### Turnstiles -/

theorem onStream (k : s0.WindsDown s) (st : StreamId) (f : Stream → Stream) : s0.WindsDown (s.onStream st f) := by
  refine k.onDie _ ⟨fun _ _ => rfl, fun _ h => h, fun _ => rfl, fun _ n h => ?_, fun _ _ => rfl⟩
  rw [Die.stream_updStream, h, Option.map_none, ite_self]

theorem released (k : s0.WindsDown s) (q : TslReq) (st : Status) : s0.WindsDown (s.released q st) :=
  (k.onHost _).ite ((k.onStream _ _).ite k)

theorem tslFlags (k : s0.WindsDown s) (d : DieIx) (bundle : Bool) (r : TslResult) : s0.WindsDown (s.tslFlags d bundle r) := by
  cases r with
  | saturated =>
    have j := k.countRaise (cnt := Reg.tslOvfCnt) (evt := Reg.tslEvt) d 0x01 (by decide) (by decide)
    exact (j.untrusted d).ite j
  | refused => exact k.countRaise d _ (by decide) (by decide)
  | full => exact k.raise d _ (by decide)
  | proceeds _ => exact k
  | applied => exact k
  | poisoned => exact k
  | queued => exact k

theorem onTsl (k : s0.WindsDown s) (d : DieIx) (f : Die → Tsl) : s0.WindsDown (s.onDie d fun x => { x with tsl := f x }) :=
  k.onDie d (.of_eq rfl rfl rfl)

theorem barrierArrive (k : s0.WindsDown s) (d : DieIx) (n : Nat) : s0.WindsDown (s.barrierArrive d n) := by
  unfold State.barrierArrive
  split
  · exact k
  · split
    · exact k
    · have j (o : TslObj) : s0.WindsDown (s.onDie d fun x => { x with tsl := x.tsl.setObj n o }) := k.onTsl d fun x => x.tsl.setObj n o
      exact k.ite ((j _).copy rfl rfl rfl)

theorem tslCycle (k : s0.WindsDown s) (d : DieIx) (n : Nat) (ops : List TslReq) : s0.WindsDown (s.tslCycle d n ops).1 := by
  unfold State.tslCycle
  dsimp only
  split
  · exact k
  · refine ((k.onTsl d _).foldl fun t e j => ?_).barrierArrive d n
    split
    · exact j.released _ _
    · exact j.tslFlags d _ _

theorem ringSet (k : s0.WindsDown s) (d : DieIx) (ctx : Nat) (v : Option (BitVec 12)) (seq value : Nat) :
    s0.WindsDown (s.ringSet d ctx v seq value) := by
  unfold State.ringSet
  split
  · exact k
  · split
    · exact k
    · exact k.tslCycle d _ _

/-! #### Entry into the queues -/

theorem syncInflight (k : s0.WindsDown s) (d : DieIx) : s0.WindsDown (s.syncInflight d) := by
  have j := k.onDie d (f := fun x => (x.setField Reg.crsInflight 13 0 (s.die d).flight).setField Reg.crsInflight 29 16
    (max (s.die d).flight (x.field Reg.crsInflight 29 16))) (.inflight _ _)
  exact (j.raise d _ (by decide)).ite j

/-- A launched run is the only entrant that is a stream. -/
theorem launch (k : s0.WindsDown s) (c : Canvas) (r : Run) (st : StreamId) (hbusy : ¬ s0.NoRuns) : s0.WindsDown (s.launch c r st) := by
  unfold State.launch
  refine k.onDie _ ?_
  refine ⟨fun _ _ => rfl, fun _ h => h, fun n => ?_, fun h => absurd h hbusy, fun h => absurd h hbusy⟩
  refine sLookup_map_of_key (φ := Pool.capacity) (fun e => ?_) n
  split <;> exact ⟨rfl, rfl⟩

theorem enter (k : s0.WindsDown s) (d : DieIx) (e : Entrant) (he : s0.NoRuns → ∃ i, e = .item i) : s0.WindsDown (s.enter d e) := by
  refine k.ite ?_
  cases e with
  | item i => exact k.onDie d (.of_eq rfl rfl rfl)
  | run cv r =>
    have hbusy : ¬ s0.NoRuns := fun h => by
      obtain ⟨i, hi⟩ := he h
      cases hi
    dsimp only
    split
    · exact (k.launch _ r _ hbusy).onCanvas cv fun c hc => by simp [hc]
    · exact k

end State.WindsDown

/-- Where no run waits for a stream, every entrant is an item. -/
theorem State.entrants_of_noRuns {s : State} (h : s.NoRuns) (d : DieIx) : ∀ e ∈ s.entrants d, ∃ i, e.2 = .item i := by
  intro e he
  rw [State.entrants, (sortBy_perm _ _).mem_iff, List.mem_flatMap] at he
  obtain ⟨c, hc, he⟩ := he
  split at he
  · cases he
  · rw [h c hc, List.filter_nil, List.map_nil, List.append_nil, List.mem_map] at he
    obtain ⟨i, -, rfl⟩ := he
    exact ⟨i.id, rfl⟩

namespace State.WindsDown

variable {s0 s t : State}

theorem refill (k : s0.WindsDown s) (d : DieIx) : s0.WindsDown (s.refill d) := by
  refine State.WindsDown.syncInflight ?_ d
  exact List.foldlRecOn _ _ k fun t j e he => j.enter d e.2 fun h => State.entrants_of_noRuns (k.runs h) d e he

/-! #### Abandonment and failure -/

theorem postItem (k : s0.WindsDown s) (c : Canvas) (d : DieIx) (op stripe : Nat) (step : Dword) (st : Status) (w : List Nat) :
    s0.WindsDown (s.postItem c d op stripe step st w) := (k.onHost _).ite k

theorem fillHalo (k : s0.WindsDown s) (cv : CanvasId) (d : DieIx) (frame stripe seq op : Nat) :
    s0.WindsDown (s.fillHalo cv d frame stripe seq op) := by
  unfold State.fillHalo
  split
  · exact k
  next c _ =>
    have hrows {t : State} (j : s0.WindsDown t) (v : State → Nat) :
        s0.WindsDown ((c.opOf op).writes.foldl (fun s t => s.ringSet d c.ctx (c.rowVirt t) seq (v s)) t) :=
      j.foldl fun _ _ j => j.ringSet _ _ _ _ _
    have hholes (l : List Hole) : s0.WindsDown (s.onCanvas cv fun k => { k with holes := k.holes ++ l }) := k.onCanvas cv fun _ h => h
    dsimp only
    split
    · exact hrows (hholes _) fun s => s.shares c (c.opOf op) d stripe * _
    · exact (hrows (hholes _) fun s => s.shares c (c.opOf op) d stripe * _).foldl fun _ _ j => j.foldl fun _ _ j => j.ringSet _ _ _ _ _

theorem resetBarrier (k : s0.WindsDown s) (cv : CanvasId) (op : Nat) : s0.WindsDown (s.resetBarrier cv op) := by
  unfold State.resetBarrier
  split
  · exact k
  · refine (k.onDies _ fun d x => ?_).copy rfl rfl rfl
    split
    · split
      · exact .of_eq rfl rfl rfl
      · exact .refl x
    · exact .refl x

theorem abandonOp (k : s0.WindsDown s) (cv : CanvasId) (d : DieIx) (frame stripe seq op : Nat) (st : Status) :
    s0.WindsDown (s.abandonOp cv d frame stripe seq op st) := by
  cases hc : s.canvas cv with
  | none =>
    simp only [State.abandonOp, hc]
    exact k
  | some c =>
    have hdrop (ds : List DieIx) : s0.WindsDown ((s.onCanvas cv (c.endWork cv d seq op st)).onDies ds fun e x =>
        { x.dropItems (c.losesItem cv d seq op) with tsl := x.tsl.cancelItems c.ctx e seq (c.lostOps op) }) :=
      (k.onCanvas cv (f := c.endWork cv d seq op st) fun _ h => h).onDies ds
        fun _ x => .of_eq (y := { x.dropItems _ with tsl := _ }) rfl rfl rfl
    have hstop (ds : List DieIx) := (hdrop ds).onDies ds fun _ x => x.windsDown_removeStreams fun _ y =>
      y.canvas == some cv && y.stepSeq == seq && y.op.any fun o => (c.lostOps op).contains o
    unfold State.abandonOp
    simp only [hc]
    exact ((((hstop _).resetBarrier cv op).ite (hstop _)).foldl fun _ _ j => j.fillHalo _ _ _ _ _ _).foldl fun _ _ j => j.refill _

theorem failItem (k : s0.WindsDown s) (id : ItemId) (st : Status) (w : List Nat) : s0.WindsDown (s.failItem id st w) := by
  unfold State.failItem
  split
  · exact k
  · split
    · exact k
    · exact k.ite ((k.abandonOp _ _ _ _ _ _ _).postItem _ _ _ _ _ _ _)

end State.WindsDown

/-- Beyond the stream that leaves its Carousel, the end of a stream only winds work down. -/
theorem State.endStream_windsDown {s : State} {st : StreamId} {x : Stream} (hx : (s.die st.die).stream st = some x)
    (why : Status) (w : List Nat) : (s.onDie st.die fun y => y.removeStreams fun k _ => k == st).WindsDown (s.endStream st why w) := by
  unfold State.endStream
  rw [hx]
  refine State.WindsDown.refill ?_ st.die
  split
  · exact .refl _
  · split
    · exact .refl _
    · refine State.WindsDown.postItem ?_ _ _ _ _ _ _ _
      split
      · exact State.WindsDown.abandonOp (.refl _) _ _ _ _ _ _ _
      · exact .refl _

theorem State.WindsDown.endStream {s0 s : State} (k : s0.WindsDown s) (st : StreamId) (why : Status) (w : List Nat) :
    s0.WindsDown (s.endStream st why w) := by
  cases hx : (s.die st.die).stream st with
  | none =>
    rw [State.endStream, hx]
    exact k
  | some x => exact (k.onDie _ (Die.windsDown_removeStreams _ _)).trans (State.endStream_windsDown hx why w)

/-- A stream that ends is gone, where no run waits to take its place. -/
theorem State.endStream_gone {s : State} {st : StreamId} (hp : s.present st.die = true) (hidle : s.NoRuns) (why : Status) (w : List Nat) :
    ((s.endStream st why w).die st.die).stream st = none := by
  cases hx : (s.die st.die).stream st with
  | none =>
    rw [State.endStream, hx]
    exact hx
  | some x =>
    have hgone : ((s.onDie st.die fun y => y.removeStreams fun k _ => k == st).die st.die).stream st = none := by
      rw [s.die_onDie_same _ hp]
      simp only [Die.stream, Die.removeStreams, Option.map_eq_none_iff, List.find?_eq_none]
      intro e he
      simpa using (List.mem_filter.mp he).2
    exact ((State.endStream_windsDown hx why w).dies st.die).streams hidle st hgone

/-! ### A stall and a return too many (R172, R175) -/

section
variable {s s0 t : State} {d : DieIx} {st : StreamId} {l : List StreamId} {words : List Nat} {p : Pool} {w : CreditReq}

/-- The streams that a stall ends, one after another. -/
def State.endStalled (s : State) (l : List StreamId) (words : List Nat) : State :=
  l.foldl (fun s st => s.endStream st .creditStall words) s

theorem State.WindsDown.endStalled (k : s0.WindsDown s) (l : List StreamId) (words : List Nat) : s0.WindsDown (s.endStalled l words) :=
  k.foldl fun _ _ j => j.endStream _ _ _

/-- Where no run waits, each stream that a stall ends is gone, and does not come back as work winds down. -/
theorem State.endStalled_gone (hp : s.present st.die = true) (hidle : s.NoRuns) (hst : st ∈ l)
    (j : (s.endStalled l words).WindsDown t) : (t.die st.die).stream st = none := by
  have hgone : s.WindsDown (s.endStalled l words) ∧ ((s.endStalled l words).die st.die).stream st = none := by
    refine foldl_reaches (P := s.WindsDown) (Q := fun t => s.WindsDown t ∧ (t.die st.die).stream st = none) hst
      (fun _ _ _ k => k.endStream _ _ _)
      (fun u b _ ⟨k, hnone⟩ => ⟨k.endStream _ _ _, ?_⟩) (fun u k => ⟨k.endStream _ _ _, ?_⟩) (.refl s)
    · exact (((State.WindsDown.refl u).endStream b _ _).dies st.die).streams (k.runs hidle) st hnone
    · exact State.endStream_gone ((k.present _).trans hp) (k.runs hidle) _ _
  obtain ⟨k, hnone⟩ := hgone
  exact (j.dies st.die).streams (k.runs hidle) st hnone

/-- A mark on a pool that concerns neither its capacity nor its members. -/
theorem State.WindsDown.onPool (k : s0.WindsDown s) (d : DieIx) (n : Nat) {f : Pool → Pool} (hf : ∀ q, (f q).capacity = q.capacity)
    (hm : ∀ q, (f q).members = q.members) : s0.WindsDown (s.onPool d n f) := by
  have hmap {β : Type} {φ : Pool → β} (hφ : ∀ q, φ (f q) = φ q) (i : Nat) :
      (sLookup (updFirst (fun e => e.1 == n) (fun e => (e.1, f e.2)) (s.die d).pools) i).map φ = ((s.die d).pool i).map φ := by
    rw [sLookup_updFirst]
    split
    · rw [Option.map_map]
      exact Option.map_congr fun q _ => hφ q
    · rfl
  exact k.onDie d ⟨fun _ _ => rfl, fun _ h => h, hmap hf, fun _ _ h => h, fun _ => hmap hm⟩

/-- The identifier of the greatest holder of a pool, as a stall reports it. -/
def Pool.holderWord (p : Pool) (d : DieIx) : Nat :=
  match p.stallHolder with
  | some m => m.word d
  | none => 0xFFFF_FFFF

theorem State.reg_setReg_other (s : State) (d : DieIx) {off k : Nat} (v : Word) (h : off ≠ k) :
    (s.setReg d off v).reg d k = s.reg d k := by
  rw [State.reg_setReg, if_neg fun c => h c.2.2]

theorem State.reg_countRaise_counter (s : State) {cnt evt mask : Nat} (hp : s.present d = true) (h : evt ≠ cnt) :
    (s.countRaise d cnt evt mask).reg d cnt = satCount (s.reg d cnt) 1 := by
  rw [State.countRaise, State.reg_raise, if_neg fun c => h c.2.2, State.reg_count, if_pos ⟨rfl, hp, rfl⟩]

/-- The three words that tell of a stall (Table 7.3). -/
def Pool.stallWords (p : Pool) (d : DieIx) (n : Nat) (w : CreditReq) : List Nat :=
  [streamWord w.stream w.prog, p.holderWord d, n + 65536 * w.units]

/-- The streams that a stall of a pool ends: those that wait, and the greatest holder. -/
def State.stalled (s : State) (p : Pool) : List StreamId :=
  p.waiting.map CreditReq.stream ++ (p.stallHolder.bind (s.holderStream p)).toList

/-- The report of a stall: the count and its flag, the waiter, the holder, and the units with the pool. -/
def State.stallReported (s : State) (d : DieIx) (n : Nat) (p : Pool) (w : CreditReq) : State :=
  (((s.countRaise d Reg.crsStallCnt Reg.crsEvt 0x01).setReg d Reg.crsStallWaiter (BitVec.ofNat 32 (streamWord w.stream w.prog))).setReg d
    Reg.crsStallHolder (BitVec.ofNat 32 (p.holderWord d))).setReg d Reg.crsStallPool (BitVec.ofNat 32 (n + 65536 * w.units))

/-- A report concerns registers alone. -/
theorem State.present_stallReported (s : State) (n : Nat) (p : Pool) (w : CreditReq) (e : DieIx) :
    (s.stallReported d n p w).present e = s.present e := by simp [State.stallReported]

theorem State.noRuns_stallReported {n : Nat} (h : s.NoRuns) : (s.stallReported d n p w).NoRuns := by
  simpa [State.NoRuns, State.stallReported] using h

theorem State.stallReported_spec (s : State) (n : Nat) (p : Pool) (w : CreditReq) (hp : s.present d = true) :
    let t := s.stallReported d n p w
    t.reg d Reg.crsStallCnt = satCount (s.reg d Reg.crsStallCnt) 1 ∧
      t.reg d Reg.crsStallWaiter = BitVec.ofNat 32 (streamWord w.stream w.prog) ∧
      t.reg d Reg.crsStallHolder = BitVec.ofNat 32 (p.holderWord d) ∧
      t.reg d Reg.crsStallPool = BitVec.ofNat 32 (n + 65536 * w.units) ∧ (t.reg d Reg.crsEvt).getLsbD 0 = true := by
  intro t
  have hthird (off : Nat) (h : Reg.crsStallPool ≠ off) : t.reg d off = _ := State.reg_setReg_other _ d _ h
  have hsecond (off : Nat) (h : Reg.crsStallPool ≠ off ∧ Reg.crsStallHolder ≠ off) : t.reg d off = _ :=
    (hthird off h.1).trans (State.reg_setReg_other _ d _ h.2)
  have hfirst (off : Nat) (h : (Reg.crsStallPool ≠ off ∧ Reg.crsStallHolder ≠ off) ∧ Reg.crsStallWaiter ≠ off) :
      t.reg d off = _ := (hsecond off h.1).trans (State.reg_setReg_other _ d _ h.2)
  exact ⟨(hfirst _ (by decide)).trans (s.reg_countRaise_counter hp (by decide)),
    (hsecond _ (by decide)).trans (State.reg_setReg_same _ _ hp), (hthird _ (by decide)).trans (State.reg_setReg_same _ _ hp),
    State.reg_setReg_same _ _ hp, by rw [hfirst _ (by decide)]; exact State.getLsbD_raise_same _ _ hp (by decide)⟩

theorem State.pool_creditError (s : State) {d : DieIx} (n : Nat) : ((s.creditError d).die d).pool n = (s.die d).pool n := by
  simp only [Die.pool, State.creditError, State.countRaise, State.die_raise, State.die_setReg, State.count, State.die_onDie]
  split <;> split <;> rfl

theorem fxCreditStallExpiry_idle {n : Fin 1024}
    (h : ∀ p, (s.die d).pool n.val = some p → p.waiting = [] ∨ s.poolConsumed d p = false) :
    fxCreditStallExpiry d n s = s := by
  unfold fxCreditStallExpiry
  split
  · rfl
  next p hn =>
    split
    · rfl
    next hw =>
      obtain hnone | hidle := h p hn
      · rw [hnone] at hw
        cases hw
      · exact if_pos hidle

theorem fxCreditStallExpiry_stalls {n : Fin 1024} {rest : List CreditReq} (hn : (s.die d).pool n.val = some p)
    (hc : s.poolConsumed d p = true) (hw : p.waiting = w :: rest) :
    ∃ s3, (s.stallReported d n.val p w).WindsDown s3 ∧
      (s3.endStalled (s.stalled p) (p.stallWords d n.val w)).WindsDown (fxCreditStallExpiry d n s) := by
  have hdet {t u : State} (k : t.WindsDown u) : t.WindsDown (u.onDie 0 fun x => x.countWide Reg.detTimingLo 1) :=
    k.onDie 0 ((Die.WindsDown.setOther _ _ (by decide)).trans id (.setOther _ _ (by decide)))
  unfold fxCreditStallExpiry
  rw [hn]
  dsimp only
  split
  next hnone =>
    rw [hw] at hnone
    cases hnone
  next v tail hv =>
  obtain ⟨rfl, rfl⟩ := List.cons.inj (hw.symm.trans hv)
  rw [if_neg (by simp [hc])]
  cases p.canvas.bind s.canvas with
  | none => exact ⟨s.stallReported d n.val p w, .refl _, .refl _⟩
  | some c =>
    refine ⟨if c.binding.fs != 0 && c.binding.fs != 8 then (s.stallReported d n.val p w).onDie 0 fun x => x.countWide Reg.detTimingLo 1
      else s.stallReported d n.val p w, (hdet (.refl _)).ite (.refl _), ?_⟩
    exact ((State.WindsDown.refl _).onPool (f := fun q => { q with stalled := true }) d n.val (fun _ => rfl) fun _ => rfl).foldl
      fun _ _ j => j.failItem _ _ _

/-- A stall is reported, and where no run waits each stream of the die that waited for the pool is gone. -/
theorem fxCreditStallExpiry_spec {n : Fin 1024} {rest : List CreditReq} (hp : s.present d = true) (hn : (s.die d).pool n.val = some p)
    (hc : s.poolConsumed d p = true) (hw : p.waiting = w :: rest) :
    let t := fxCreditStallExpiry d n s
    t.reg d Reg.crsStallCnt = satCount (s.reg d Reg.crsStallCnt) 1 ∧
      t.reg d Reg.crsStallWaiter = BitVec.ofNat 32 (streamWord w.stream w.prog) ∧
      t.reg d Reg.crsStallHolder = BitVec.ofNat 32 (p.holderWord d) ∧
      t.reg d Reg.crsStallPool = BitVec.ofNat 32 (n.val + 65536 * w.units) ∧ (t.reg d Reg.crsEvt).getLsbD 0 = true ∧
      (s.NoRuns → ∀ q ∈ p.waiting, q.stream.die = d → (t.die d).stream q.stream = none) := by
  intro t
  obtain ⟨s3, k, j⟩ := fxCreditStallExpiry_stalls hn hc hw
  have hall : (s.stallReported d n.val p w).WindsDown t := (k.endStalled _ _).trans j
  obtain ⟨hcnt, hwaiter, hholder, hpool, hflag⟩ := s.stallReported_spec n.val p w hp
  have hreg (off : Nat) (h : IsCrsReport off) := (hall.dies d).reports off h
  refine ⟨(hreg _ (by decide)).trans hcnt, (hreg _ (by decide)).trans hwaiter, (hreg _ (by decide)).trans hholder,
    (hreg _ (by decide)).trans hpool, (hall.dies d).flags 0 hflag, fun hidle q hq hqd => ?_⟩
  subst hqd
  exact State.endStalled_gone ((k.present _).trans ((s.present_stallReported _ _ _ _).trans hp))
    (k.runs (State.noRuns_stallReported hidle)) (List.mem_append_left _ (List.mem_map_of_mem hq)) j

/-- A return of more than the members hold counts and ends its stream; the pool stays as it was. -/
theorem fxRet_refused_spec {x : Stream} {cv : CanvasId} {index units n : Nat} (hp : s.present st.die = true)
    (h : s.issue st = some (s, x, .ret index units)) (hcv : x.canvas = some cv) (hb : (s.die st.die).bundlePool cv index = some (n, p))
    (hn : (s.die st.die).pool n = some p) (hq : p.giveBack (some x.prog) units = none) :
    let t := fxRet st s
    t.reg st.die Reg.crsCreditErr = satCount (s.reg st.die Reg.crsCreditErr) 1 ∧
      ((t.die st.die).pool n).map Pool.capacity = some p.capacity ∧ (s.NoRuns →
        (t.die st.die).stream st = none ∧ ((t.die st.die).pool n).map Pool.members = some p.members) := by
  intro t
  have ht : t = (s.creditError st.die).endStream st .aborted [] := fxRet_refused h hcv hb hq
  have hall : (s.creditError st.die).WindsDown t := by
    rw [ht]
    exact (State.WindsDown.refl _).endStream st _ _
  have hpool : ((s.creditError st.die).die st.die).pool n = some p := (s.pool_creditError n).trans hn
  refine ⟨((hall.dies st.die).reports _ (by decide)).trans (s.reg_countRaise_counter hp (by decide)), ?_, fun hidle => ⟨?_, ?_⟩⟩
  · rw [(hall.dies st.die).capacity n, hpool, Option.map_some]
  · rw [ht]
    exact State.endStream_gone (s := s.creditError st.die) hp hidle _ _
  · rw [(hall.dies st.die).members hidle n, hpool, Option.map_some]

end

/-- Settles O35: requests and returns are those of their pool, which grants in order, and work that ends only winds down. -/
theorem credits : Obligations.credits := by
  unfold Obligations.credits
  refine ⟨fun s u st x index units hp hpool => ⟨fun h => ?_, fun h => ?_⟩, ?_, fun s d n hp => ⟨fun h => ?_, ?_⟩⟩
  · obtain ⟨honly, hdie, hst, -⟩ := State.becomes_onStream (f := Stream.advance) hp h rfl
    exact ⟨_, congrArg Host.Outcome.next (fxCred_unpooled h hpool), honly, hdie, hst⟩
  · obtain ⟨honly, hdie, hst, -⟩ := State.becomes_onStream (f := Stream.advance) hp h rfl
    exact ⟨_, congrArg Host.Outcome.next (fxRet_unpooled h hpool), honly, hdie, hst⟩
  · intro s st x cv index units n p hp hcv hx hb hn req
    refine ⟨fun u hu => ?_, fun u hu => ?_⟩
    · obtain ⟨h, -⟩ := State.issue_known hu hx
      refine ⟨⟨_, rfl, fxCred_serves hp h hcv hb hn⟩, fun m hm hw => ?_⟩
      obtain ⟨hgrant, hwait⟩ := fxCred_alone hp h hcv hb hn hm hw
      exact ⟨fun hfit => ⟨_, rfl, hgrant hfit⟩, fun hneed hroom =>
        ⟨_, rfl, hwait fun hfit => hfit.elim hneed (Nat.not_le.mpr hroom)⟩⟩
    · obtain ⟨h, -⟩ := State.issue_known hu hx
      refine ⟨fun q hq => ⟨_, rfl, (fxRet_serves hp h hcv hb hn hq).1⟩, fun hle hw => ?_, fun hlt => ?_⟩
      · obtain ⟨hpool, hserved⟩ := fxRet_serves hp h hcv hb hn (Pool.giveBack_of_held hle)
        obtain ⟨honly, hst⟩ := hserved hw
        rw [hw] at hpool
        exact ⟨_, rfl, honly, hst, _, hpool, held_takeUnits _ _ _, rfl, rfl⟩
      · exact ⟨_, rfl, fxRet_refused_spec hp h hcv hb hn (Pool.giveBack_refused hlt)⟩
  · exact ⟨s, congrArg Host.Outcome.next (fxCreditStallExpiry_idle h), rfl⟩
  · intro p w rest hn hc hw
    exact ⟨_, rfl, fxCreditStallExpiry_spec hp hn hc hw⟩

end Sys2Proof.Machine
end

section
/-! SUPPORT. Proofs of the statements of 09_composition_scanout. -/

namespace Sys2Proof.Machine

/-! ### Counters of the host side (R344) -/

theorem HostSide.fnReg_setFnReg_same (x : HostSide) (f : FnIx) (off : Nat) (w : Word) : (x.setFnReg f off w).fnReg f off = w := by
  rw [HostSide.fnReg, HostSide.setFnReg, HostSide.fn_onFn_same]
  exact sGet_sSet_same _ _ _

theorem HostSide.fnReg_setFnReg_ne (x : HostSide) (f : FnIx) {off k : Nat} (w : Word) (h : off ≠ k) :
    (x.setFnReg f off w).fnReg f k = x.fnReg f k := by
  rw [HostSide.fnReg, HostSide.setFnReg, HostSide.fn_onFn_same]
  exact sGet_sSet_ne _ _ h

/-- Setting a register of a function page changes the registers of that function alone. -/
theorem HostSide.fn_setFnReg (x : HostSide) (f : FnIx) (off : Nat) (w : Word) :
    (x.setFnReg f off w).fn f = { x.fn f with regs := ((x.setFnReg f off w).fn f).regs } ∧
      ∀ g, g ≠ f → (x.setFnReg f off w).fn g = x.fn g := by
  refine ⟨?_, fun g hg => ?_⟩
  · rw [HostSide.setFnReg, HostSide.fn_onFn_same]
  · rw [HostSide.setFnReg, HostSide.fn_onFn, if_neg hg.symm]

/-- The counters of the HST_ block, cleared. -/
def HostSide.cleared (x : HostSide) (co : Byte) : HostSide :=
  (x.setReg 0x014 (if co.getLsbD 0 then 1 else 0)).setReg 0x018 (if co.getLsbD 1 then 1 else 0)

theorem HostSide.cleared_spec (x : HostSide) (co : Byte) :
    (x.cleared co).reg 0x014 = (if co.getLsbD 0 then 1 else 0) ∧ (x.cleared co).reg 0x018 = (if co.getLsbD 1 then 1 else 0) ∧
      ∀ k, k ≠ 0x014 → k ≠ 0x018 → (x.cleared co).reg k = x.reg k := by
  refine ⟨?_, HostSide.reg_setReg_same _ _ _, fun k h0 h1 => ?_⟩
  · exact (HostSide.reg_setReg_ne _ _ (by decide)).trans (HostSide.reg_setReg_same _ _ _)
  · exact (HostSide.reg_setReg_ne _ _ h1.symm).trans (HostSide.reg_setReg_ne _ _ h0.symm)

/-- The counters of a function page, cleared. -/
def HostSide.fnCleared (x : HostSide) (f : FnIx) (co : Byte) : HostSide :=
  (x.setFnReg f 0x024 (if co.getLsbD 0 then 1 else 0)).setFnReg f 0x028 (if co.getLsbD 1 then 1 else 0)

theorem HostSide.fnCleared_spec (x : HostSide) (f : FnIx) (co : Byte) :
    (∀ g, g ≠ f → (x.fnCleared f co).fn g = x.fn g) ∧
      (x.fnCleared f co).fn f = { x.fn f with regs := ((x.fnCleared f co).fn f).regs } ∧
      (x.fnCleared f co).fnReg f 0x024 = (if co.getLsbD 0 then 1 else 0) ∧
      (x.fnCleared f co).fnReg f 0x028 = (if co.getLsbD 1 then 1 else 0) ∧
      ∀ k, k ≠ 0x024 → k ≠ 0x028 → (x.fnCleared f co).fnReg f k = x.fnReg f k := by
  let y := x.setFnReg f 0x024 (if co.getLsbD 0 then 1 else 0)
  obtain ⟨hy, hother⟩ := x.fn_setFnReg f 0x024 (if co.getLsbD 0 then 1 else 0)
  obtain ⟨hz, hothers⟩ := y.fn_setFnReg f 0x028 (if co.getLsbD 1 then 1 else 0)
  refine ⟨fun g hg => (hothers g hg).trans (hother g hg), ?_, ?_, HostSide.fnReg_setFnReg_same _ _ _ _, fun k h0 h1 => ?_⟩
  · exact hz.trans (by rw [hy]; rfl)
  · exact (y.fnReg_setFnReg_ne f _ (by decide)).trans (x.fnReg_setFnReg_same f _ _)
  · exact (y.fnReg_setFnReg_ne f _ h1.symm).trans (x.fnReg_setFnReg_ne f _ h0.symm)

/-- The counters that SEC_CNT_CLR clears; the first two stand on die 0 alone (R405, R407). -/
def secCounters (d : DieIx) (co : BitVec 16) : List (Nat × Bool) :=
  (if d = 0 then [(Reg.secRoleDenyCnt, co.getLsbD 0), (Reg.secAuthFailCnt, co.getLsbD 1)] else []) ++
    [(Reg.secCeBt, co.getLsbD 2), (Reg.secUeBt, co.getLsbD 3), (Reg.secCeDram, co.getLsbD 4), (Reg.secUeDram, co.getLsbD 5),
      (Reg.secCeOther, co.getLsbD 6), (Reg.secUeOther, co.getLsbD 7), (Reg.secScrubPass, co.getLsbD 8), (Reg.secDownEvents, co.getLsbD 9)]

theorem secCounters_nodup (d : DieIx) (co : BitVec 16) : ((secCounters d co).map Prod.fst).Nodup := by
  have hoffs : (secCounters d co).map Prod.fst = (secCounters d 0).map Prod.fst := by
    unfold secCounters
    split <;> rfl
  have hnodup : ∀ e : DieIx, ((secCounters e 0).map Prod.fst).Nodup := by decide
  exact hoffs ▸ hnodup d

/-- SEC_CNT_CLR clears the list of its counters, and flags the increments of its cycle on die 0. -/
theorem fxSecCntClr_eq (s : State) (d : DieIx) (co : BitVec 16) :
    fxSecCntClr d co s = (s.onDie d fun x => x.clearAll (secCounters d co)).raiseSome 0 Reg.secEvt
      ((if d = 0 then coFlags co.toNat [1, 2] else 0) + (if co.getLsbD 3 || co.getLsbD 5 || co.getLsbD 7 then 0x10 else 0)) := by
  unfold secCounters
  by_cases h : d = 0
  · simp only [if_pos h, fxSecCntClr]; rfl
  · simp only [if_neg h, fxSecCntClr]; rfl

/-- Settles O11: on a die each command clears a list of distinct counters, and on the host side the two of its page. -/
theorem systemCounterClears : Obligations.system_counter_clears := by
  unfold Obligations.system_counter_clears
  refine ⟨fun s d hp => ⟨?_, ?_, ?_, ?_, ?_, ?_, ?_⟩, ?_, ?_, fun s co => ?_, fun s f co => ?_⟩
  · exact fun co => clears_of_clearAll hp (by simp) rfl
  · exact fun co => clears_of_clearAll hp (by simp; decide) rfl
  · exact fun co => clears_of_clearAll hp (by simp; decide) rfl
  · exact fun co => clears_of_clearAll hp (by simp; decide) rfl
  · exact fun co => clears_of_clearAll hp (secCounters_nodup d co) (congrArg Host.Outcome.next (fxSecCntClr_eq s d co))
  · exact fun co => clears_of_clearAll hp (by simp) rfl
  · exact fun co => clears_of_clearAll hp (by simp; decide) rfl
  · exact fun s co => clears_of_clearAll (present_zero s) (by simp) rfl
  · exact fun s co => clears_of_clearAll (present_zero s) (by simp; decide) rfl
  · exact ⟨_, rfl, s.onHost fun x => x.cleared co, rfl, rfl, s.host.cleared_spec co⟩
  · exact ⟨_, rfl, rfl, s.host.fnCleared_spec f co⟩

/-! ### Updates of a head (R240, R252, R256) -/

theorem State.OnlyDie.toHost {s t : State} {d : DieIx} (h : s.OnlyDie t d) : s.OnlyDieHost t d := ⟨by rw [h.1], h.2⟩

namespace State.OnlyDieHost

variable {s t u : State} {d : DieIx}

theorem trans (h : s.OnlyDieHost t d) (k : t.OnlyDieHost u d) : s.OnlyDieHost u d :=
  ⟨by rw [k.1, h.1], fun e ne => (k.2 e ne).trans (h.2 e ne)⟩

theorem gsc (h : s.OnlyDieHost t d) : t.gsc = s.gsc := by rw [h.1]

theorem present (h : s.OnlyDieHost t d) (e : DieIx) : t.present e = s.present e := by
  rw [h.1]
  rfl

end State.OnlyDieHost

namespace Die.OnlyHead

variable {x y z : Die} {l r : List Nat}

theorem mono (h : x.OnlyHead y l) (hsub : l ⊆ r) : x.OnlyHead y r := ⟨h.1, fun k hk => h.2 k fun hm => hk (hsub hm)⟩

theorem trans (h : x.OnlyHead y l) (k : y.OnlyHead z r) : x.OnlyHead z (l ++ r) := by
  refine ⟨?_, fun off hoff => ?_⟩
  · rw [k.1, h.1]
  · rw [List.mem_append, not_or] at hoff
    exact (k.2 off hoff.2).trans (h.2 off hoff.1)

/-- One register more is set. -/
theorem setReg (h : x.OnlyHead y l) (off : Nat) (w : Word) : x.OnlyHead (y.setReg off w) (off :: l) := by
  refine ⟨?_, fun k hk => ?_⟩
  · conv_lhs => rw [Die.setReg, h.1]
    rfl
  · rw [List.mem_cons, not_or] at hk
    exact (y.reg_setReg_ne w fun e => hk.1 e.symm).trans (h.2 k hk.2)

end Die.OnlyHead

/-- A die with its head changed. -/
def Die.onHead (x : Die) (f : Head → Head) : Die := { x with head := f x.head }

/-- A die whose head is changed has every register as before. -/
theorem Die.onlyHead_onHead (x : Die) (f : Head → Head) : x.OnlyHead (x.onHead f) [] := ⟨rfl, fun _ _ => rfl⟩

section
variable (s : State) (h : DieIx)

theorem State.onDie_congr {f g : Die → Die} (hfg : f (s.die h) = g (s.die h)) : s.onDie h f = s.onDie h g := by
  rw [State.onDie, State.onDie, hfg]

/-- Two changes of one die are one. -/
theorem State.onDie_onDie (f g : Die → Die) : (s.onDie h f).onDie h g = s.onDie h fun x => g (f x) := by
  by_cases hp : s.present h = true
  · have hp' : (s.onDie h f).present h = true := hp
    rw [State.onDie, s.die_onDie_same h hp, State.setDie, if_pos hp']
    simp [State.onDie, State.setDie, hp]
  · simp [State.onDie, State.setDie, hp]

/-- A head and some registers of its die change, and then flags of the head are raised in another register. -/
theorem State.onDie_raiseHead_spec (f : Die → Die) {l : List Nat} (evt mask : Nat) (hp : s.present h = true)
    (hf : (s.die h).OnlyHead (f (s.die h)) l) (hevt : evt ∉ l) :
    let t := (s.onDie h f).raiseHead h evt mask
    s.OnlyDieHost t h ∧ (s.die h).OnlyHead (t.die h) (evt :: l) ∧ (t.die h).head = (f (s.die h)).head ∧
      (∀ k, k ≠ evt → t.reg h k = (f (s.die h)).reg k) ∧ t.reg h evt = s.reg h evt ||| BitVec.ofNat 32 mask := by
  intro t
  have hdie : t.die h = (f (s.die h)).setReg evt ((f (s.die h)).reg evt ||| BitVec.ofNat 32 mask) := by
    rw [State.die_raiseHead, State.setReg, (s.onDie h f).die_onDie_same h hp, State.reg, s.die_onDie_same h hp]
  simp only [State.reg, hdie]
  refine ⟨(s.onlyDie_onDie h f).toHost.trans ((s.onDie h f).raiseHead_onlyDieHost h evt mask hp).1, hf.setReg _ _, rfl,
    fun k hk => Die.reg_setReg_ne _ _ hk.symm, ?_⟩
  rw [Die.reg_setReg_same, hf.2 evt hevt]

end

/-! ### Command mode (R251, R252) -/

section
variable {s : State} {h : DieIx}

theorem inCommand_of_running (hr : (s.die h).head.running = true) (hc : (s.die h).fField Reg.scnTeCtrl 0 0 = 1) :
    s.inCommand h = true := by
  rw [State.inCommand, hr, hc]
  rfl

theorem teCounts_iff {rising : Bool} : s.teCounts h rising = true ↔ rising = decide ((s.die h).fField Reg.scnTeCtrl 1 1 = 0) := by
  rw [State.teCounts, beq_iff_eq, eq_comm]
  rfl

/-- An edge of the other polarity has no effect. -/
theorem fxTeEdge_idle {rising : Bool} (hr : s.teCounts h rising = false) : fxTeEdge h rising s = s := if_pos (.inr hr)

/-- In command mode an edge of the polarity asked for counts. -/
theorem fxTeEdge_counts {rising : Bool} (hc : s.inCommand h = true) (hr : s.teCounts h rising = true) :
    fxTeEdge h rising s = s.teEdge h := if_neg (by simp [hc, hr])

/-- The command-mode state after an edge that ends a wait. -/
def TeState.endWait (x : TeState) (now : Nat) : TeState := { x with waiting := false, edgeAt := now }

/-- The command-mode state with an edge held; one already held keeps its time. -/
def TeState.hold (x : TeState) (now : Nat) : TeState :=
  { x with earlyEdge := true, edgeAt := if x.earlyEdge then x.edgeAt else now }

/-- The command-mode state after a timeout: the latest good buffer, where there is one, is repeated. -/
def TeState.timeout (x : TeState) (now : Nat) : TeState :=
  { x with waiting := false, repeatFrame := x.good.isSome, edgeAt := now }

/-- An edge ends a wait. -/
theorem State.teEdge_ends (hp : s.present h = true) (hw : (s.die h).head.te.waiting = true) : s.OnlyDie (s.teEdge h) h ∧
    (s.teEdge h).die h = (s.die h).onHead fun x => { x with te := x.te.endWait s.gsc } := by
  rw [State.teEdge, if_pos hw]
  exact ⟨s.onlyDie_onDie h _, s.die_onDie_same h hp⟩

/-- Without a wait an edge is held, and sets TE_EARLY. -/
theorem State.teEdge_held (hp : s.present h = true) (hw : (s.die h).head.te.waiting = false) :
    s.OnlyDieHost (s.teEdge h) h ∧ (s.die h).OnlyHead ((s.teEdge h).die h) [Reg.scnEvt] ∧
      ((s.teEdge h).die h).head = { (s.die h).head with te := (s.die h).head.te.hold s.gsc } ∧
      (s.teEdge h).reg h Reg.scnEvt = s.reg h Reg.scnEvt ||| 0x08 := by
  obtain ⟨hframe, honly, hhead, -, hevt⟩ := s.onDie_raiseHead_spec h
    (fun x => x.onHead fun y => { y with te := y.te.hold s.gsc }) Reg.scnEvt 0x08 hp (Die.onlyHead_onHead _ _) (by simp)
  rw [State.teEdge, if_neg (by simp [hw])]
  exact ⟨hframe, honly, hhead, hevt⟩

/-- The time of a timeout has come on a head in command mode that waits. -/
def State.TimesOut (s : State) (h : DieIx) : Prop :=
  s.inCommand h = true ∧ (s.die h).head.te.waiting = true ∧ s.teLate h = true

theorem teLate_of_mode {m : Mode} (hm : (s.die h).head.mode = some m)
    (hl : 2 * 10 ^ 11 ≤ (s.gsc - (s.die h).head.te.edgeAt) * m.rate) : s.teLate h = true := by
  rw [State.teLate, hm]
  exact decide_eq_true hl

/-- An edge of the same cycle wins over a timeout. -/
theorem fxTeTimeout_edge (ht : s.TimesOut h) : fxTeTimeout h true s = s.teEdge h := by
  obtain ⟨hc, hw, hl⟩ := ht
  rw [fxTeTimeout, if_neg (by simp [hc, hw, hl]), if_pos rfl]

/-- A die whose head's wait has timed out, flags apart: a repeat is counted. -/
def Die.timedOut (x : Die) (now : Nat) : Die := (x.onHead fun y => { y with te := y.te.timeout now }).count Reg.scnRepeatCnt 1

theorem fxTeTimeout_repeats (ht : s.TimesOut h) :
    fxTeTimeout h false s = (s.onDie h fun x => x.timedOut s.gsc).raiseHead h Reg.scnEvt 0x04 := by
  obtain ⟨hc, hw, hl⟩ := ht
  have hone : s.onDie h (fun x => x.timedOut s.gsc) = (s.onTe h fun x => x.timeout s.gsc).count h Reg.scnRepeatCnt 1 := by
    rw [State.onTe, State.count, State.onDie_onDie]
    rfl
  rw [fxTeTimeout, if_neg (by simp [hc, hw, hl]), if_neg Bool.false_ne_true, hone]
  rfl

end

/-- Settles O13: an edge that counts ends a wait or is held, and a timeout counts a repeat where no edge falls in its cycle. -/
theorem commandModeEdges : Obligations.command_mode_edges := by
  unfold Obligations.command_mode_edges
  intro s h hp hrun hcmd x te counts ended
  have hc := inCommand_of_running hrun hcmd
  refine ⟨fun r hr => ?_, fun r hr hw => ?_, fun r hr hw => ?_, fun m hm hw hlate => ?_⟩
  · exact congrArg Host.Outcome.next (fxTeEdge_idle (Bool.eq_false_iff.mpr fun k => hr (teCounts_iff.mp k)))
  · exact ⟨_, congrArg Host.Outcome.next (fxTeEdge_counts hc (teCounts_iff.mpr hr)), State.teEdge_ends hp hw⟩
  · exact ⟨_, congrArg Host.Outcome.next (fxTeEdge_counts hc (teCounts_iff.mpr hr)), State.teEdge_held hp hw⟩
  · have ht : s.TimesOut h := ⟨hc, hw, teLate_of_mode hm hlate⟩
    have htimed : x.OnlyHead (x.timedOut s.gsc) [Reg.scnRepeatCnt] := (x.onlyHead_onHead _).setReg _ _
    obtain ⟨hframe, honly, hhead, hreg, hevt⟩ := s.onDie_raiseHead_spec h (fun y => y.timedOut s.gsc) Reg.scnEvt 0x04 hp htimed
      (by decide)
    refine ⟨⟨_, congrArg Host.Outcome.next (fxTeTimeout_edge ht), State.teEdge_ends hp hw⟩,
      _, congrArg Host.Outcome.next (fxTeTimeout_repeats ht), hframe, honly, hhead, ?_, hevt⟩
    exact (hreg _ (by decide)).trans (Die.reg_setReg_same _ _ _)

/-! ### Output links (R244, R256, R382, R397) -/

/-- A link that completes training is up, and trained from then on. -/
def Head.train (x : Head) : Head := { x with linkUp := true, trained := true }

/-- A link that drops is down, and its encryption has ended. -/
def Head.drop (x : Head) : Head := { x with linkUp := false, hdcp := none }

/-- The die of a head whose link has come up. -/
def Die.linkShown (x : Die) : Die := (x.onHead Head.train).setField Reg.scnStatus 0 0 1

/-- The die of a head whose link has completed training, flags apart: from the second time on it counts as a retraining. -/
def Die.linkTrained (x : Die) : Die := if x.head.trained then x.linkShown.count Reg.scnRetrainCnt 1 else x.linkShown

theorem Die.linkTrained_spec (x : Die) : x.OnlyHead x.linkTrained [Reg.scnStatus, Reg.scnRetrainCnt] ∧
    x.linkTrained.head = x.head.train ∧ x.linkTrained.reg Reg.scnStatus = setBits (x.reg Reg.scnStatus) 0 0 1 ∧
    x.linkTrained.reg Reg.scnRetrainCnt =
      if x.head.trained then satCount (x.reg Reg.scnRetrainCnt) 1 else x.reg Reg.scnRetrainCnt := by
  have hframe : x.OnlyHead x.linkShown [Reg.scnStatus] := (x.onlyHead_onHead _).setReg _ _
  have hstatus : x.linkShown.reg Reg.scnStatus = setBits (x.reg Reg.scnStatus) 0 0 1 := Die.reg_setReg_same _ _ _
  have hcnt := hframe.2 Reg.scnRetrainCnt (by decide)
  unfold Die.linkTrained
  by_cases ht : x.head.trained = true
  · rw [if_pos ht, if_pos ht, ← hcnt]
    exact ⟨(hframe.setReg _ _).mono (by simp), rfl, (Die.reg_setReg_ne _ _ (by decide)).trans hstatus, Die.reg_setReg_same _ _ _⟩
  · rw [if_neg ht, if_neg ht]
    exact ⟨hframe.mono (by simp), rfl, hstatus, hcnt⟩

/-- The die of a head whose link has dropped, flags apart. -/
def Die.linkDropped (x : Die) : Die := ((x.onHead Head.drop).setField Reg.scnStatus 0 0 0).setField Reg.scnStatus 5 5 0

theorem Die.linkDropped_spec (x : Die) : x.OnlyHead x.linkDropped [Reg.scnStatus] ∧
    x.linkDropped.reg Reg.scnStatus = setBits (setBits (x.reg Reg.scnStatus) 0 0 0) 5 5 0 := by
  have hstatus : ((x.onHead Head.drop).setField Reg.scnStatus 0 0 0).reg Reg.scnStatus = setBits (x.reg Reg.scnStatus) 0 0 0 :=
    Die.reg_setReg_same _ _ _
  refine ⟨(((x.onlyHead_onHead _).setReg _ _).setReg _ _).mono (by simp), ?_⟩
  rw [← hstatus]
  exact Die.reg_setReg_same _ _ _

/-- The die of a head with a loss counted, where one is to be: an interval of SEC_DOWN_MS begins (R382). -/
def Die.lossCounted (x : Die) (counts : Bool) (now : Nat) : Die :=
  if counts then (x.onHead fun y => { y with downSince := some now }).count Reg.secDownEvents 1 else x

theorem Die.lossCounted_spec (x : Die) (counts : Bool) (now : Nat) :
    x.OnlyHead (x.lossCounted counts now) [Reg.secDownEvents] ∧
    (x.lossCounted counts now).head = { x.head with downSince := if counts then some now else x.head.downSince } ∧
    (x.lossCounted counts now).reg Reg.secDownEvents =
      if counts then satCount (x.reg Reg.secDownEvents) 1 else x.reg Reg.secDownEvents := by
  cases counts with
  | true => exact ⟨(x.onlyHead_onHead _).setReg _ _, rfl, Die.reg_setReg_same _ _ _⟩
  | false => exact ⟨⟨rfl, fun _ _ => rfl⟩, rfl, rfl⟩

/-- The die of a head whose encryption has failed, flags apart. -/
def Die.hdcpLost (x : Die) : Die := (x.onHead fun y => { y with hdcp := none }).setField Reg.scnStatus 5 5 0

/-- The die of a head whose link is encrypted for a content type. -/
def Die.hdcpActive (x : Die) (ct : Fin 2) : Die := (x.onHead fun y => { y with hdcp := some ct }).setField Reg.scnStatus 5 5 1

section
variable {s : State} {h : DieIx}

theorem fxLinkUp_trains (hd : s.drivesLink h = true) (hl : (s.die h).head.linkUp = false) :
    fxLinkUp h s = (s.onDie h Die.linkTrained).raiseHead h Reg.scnEvt 0x02 := by
  have hone : (if (s.die h).head.trained then (s.onDie h Die.linkShown).count h Reg.scnRetrainCnt 1 else s.onDie h Die.linkShown) =
      s.onDie h Die.linkTrained := by
    by_cases ht : (s.die h).head.trained = true
    · rw [if_pos ht, State.count, State.onDie_onDie]
      exact State.onDie_congr _ _ (if_pos ht).symm
    · rw [if_neg ht]
      exact State.onDie_congr _ _ (if_neg ht).symm
  rw [fxLinkUp, if_neg (by simp [hd, hl])]
  exact congrArg (State.raiseHead · h Reg.scnEvt 0x02) hone

theorem State.dropLink_trained (hl : (s.die h).head.linkUp = true) :
    s.dropLink h = (s.onDie h Die.linkDropped).raiseHead h Reg.scnEvt 0x01 := if_pos hl

/-- An interval of SEC_DOWN_MS begins where none runs. -/
theorem State.startDown_spec (hp : s.present h = true) : s.OnlyDie (s.startDown h) h ∧
    (s.startDown h).die h = (s.die h).lossCounted (s.die h).head.downSince.isNone s.gsc := by
  unfold State.startDown
  cases hs : (s.die h).head.downSince with
  | some at_ => exact ⟨⟨rfl, fun _ _ => rfl⟩, rfl⟩
  | none =>
    rw [if_neg (by simp), State.count, State.onDie_onDie]
    exact ⟨s.onlyDie_onDie h _, s.die_onDie_same h hp⟩

/-- LINK_DOWN on a trained link: it drops, and while the sink stays attached a head that runs counts the loss, unless an interval runs
already. -/
theorem fxLinkDown_spec (hotPlug : Bool) (hp : s.present h = true) (hl : (s.die h).head.linkUp = true)
    (hframe : s.OnlyDieHost (s.dropLink h) h) : s.OnlyDieHost (fxLinkDown h hotPlug s) h ∧
    (fxLinkDown h hotPlug s).die h = ((s.dropLink h).die h).lossCounted
      (hotPlug && (s.die h).head.running && ((s.dropLink h).die h).head.downSince.isNone) s.gsc := by
  rw [fxLinkDown, if_neg (by simp [hl])]
  by_cases hc : (hotPlug && (s.die h).head.running) = true
  · obtain ⟨hstart, hdown⟩ := (s.dropLink h).startDown_spec (h := h) ((hframe.present h).trans hp)
    rw [if_pos hc, hc, Bool.true_and, ← hframe.gsc]
    exact ⟨hframe.trans hstart.toHost, hdown⟩
  · rw [if_neg hc, Bool.eq_false_iff.mpr hc, Bool.false_and]
    exact ⟨hframe, rfl⟩

theorem fxHdcpAuthenticated_eq (ct : Fin 2) (hl : (s.die h).head.linkUp = true) (hr : (s.die h).fField Reg.scnCtrl 14 14 = 1)
    (hf : s.otp.features.getLsbD 0 = true) : fxHdcpAuthenticated h ct s = s.onDie h fun x => x.hdcpActive ct := by
  rw [fxHdcpAuthenticated, if_neg (by simp [hl, hr, hf])]
  rfl

end

/-- Settles O14: each event is an update of the head's die, which a flag of the head follows but for HDCP_AUTHENTICATED. -/
theorem linksUpAndDown : Obligations.links_up_and_down := by
  unfold Obligations.links_up_and_down
  intro s h hp x st
  refine ⟨fun hd hl => ?_, fun hotPlug hl => ?_, fun ct hl hr hf => ?_, ?_⟩
  · obtain ⟨htrained, htrain, hstatus, hcnt⟩ := x.linkTrained_spec
    obtain ⟨hframe, honly, hhead, hreg, hevt⟩ := s.onDie_raiseHead_spec h Die.linkTrained Reg.scnEvt 0x02 hp htrained (by decide)
    exact ⟨_, congrArg Host.Outcome.next (fxLinkUp_trains hd hl), hframe, honly, hhead.trans htrain,
      (hreg _ (by decide)).trans hstatus, (hreg _ (by decide)).trans hcnt, hevt⟩
  · obtain ⟨hdropped, hstatus⟩ := x.linkDropped_spec
    obtain ⟨hframe, honly, hhead, hreg, hevt⟩ := s.onDie_raiseHead_spec h Die.linkDropped Reg.scnEvt 0x01 hp hdropped (by decide)
    rw [← State.dropLink_trained hl] at hframe honly hhead hreg hevt
    have hsince : ((s.dropLink h).die h).head.downSince = x.head.downSince := by rw [hhead]; rfl
    have hcount : ((s.dropLink h).die h).reg Reg.secDownEvents = x.reg Reg.secDownEvents := honly.2 _ (by decide)
    obtain ⟨hframe', hdie⟩ := fxLinkDown_spec hotPlug hp hl hframe
    rw [hsince] at hdie
    obtain ⟨hloss, hdown, hcnt⟩ := ((s.dropLink h).die h).lossCounted_spec
      (hotPlug && x.head.running && x.head.downSince.isNone) s.gsc
    rw [← hdie] at hloss hdown hcnt
    rw [hcount] at hcnt
    rw [hhead] at hdown
    exact ⟨_, rfl, hframe', honly.trans hloss, hdown, (hloss.2 _ (by decide)).trans ((hreg _ (by decide)).trans hstatus),
      (hloss.2 _ (by decide)).trans hevt, hcnt⟩
  · have hdie : (s.onDie h fun y => y.hdcpActive ct).die h = x.hdcpActive ct := s.die_onDie_same h hp
    refine ⟨_, congrArg Host.Outcome.next (fxHdcpAuthenticated_eq ct hl hr hf), s.onlyDie_onDie h _, ?_⟩
    rw [State.reg, hdie]
    exact ⟨(x.onlyHead_onHead _).setReg _ _, rfl, Die.reg_setReg_same _ _ _⟩
  · have hlost : x.OnlyHead x.hdcpLost [Reg.scnStatus] := (x.onlyHead_onHead _).setReg _ _
    obtain ⟨hframe, honly, hhead, hreg, hevt⟩ := s.onDie_raiseHead_spec h Die.hdcpLost Reg.scnEvt 0x10 hp hlost (by decide)
    exact ⟨_, rfl, hframe, honly, hhead, (hreg _ (by decide)).trans (Die.reg_setReg_same _ _ _), hevt⟩

/-! ### Commits (R238, R240, R241) -/

/-- A die with the commit of its head changed, which CMP_COMMIT shows. -/
def Die.onCommit (x : Die) (f : Commit → Commit) : Die := (x.onHead fun y => { y with commit := f y.commit }).showCommit

/-- A commit that is pending since a time. -/
def Commit.accepted (c : Commit) (span : Bool) (now : Nat) : Commit := { c with pending := true, span := span, goAt := now }

/-- A commit that is refused. -/
def Commit.refused (c : Commit) (st : Status) : Commit := { c with pending := false, span := false, status := BitVec.ofNat 8 st.code }

theorem Die.onlyHead_onCommit (x : Die) (f : Commit → Commit) : x.OnlyHead (x.onCommit f) [Reg.cmpCommit] :=
  (x.onlyHead_onHead _).setReg _ _

/-- PENDING of CMP_COMMIT shows whether the commit is pending. -/
theorem Die.field_showCommit_pending (x : Die) (hc : x.head.commit.pending = true) : x.showCommit.field Reg.cmpCommit 3 3 = 1 := by
  have hview : x.field Reg.cmpCommit 2 2 < 2 := Nat.mod_lt _ (by decide)
  rw [Die.showCommit, Die.field, Die.reg_setReg_same, hc, bits, natBits, BitVec.toNat_ofNat]
  simp only [b2n, if_true]
  omega

section
variable {s : State} {h : DieIx}

theorem State.acceptCommit_spec (span : Bool) (hp : s.present h = true) : s.OnlyDie (s.acceptCommit h span) h ∧
    (s.acceptCommit h span).die h = (s.die h).onCommit fun c => c.accepted span s.gsc :=
  ⟨s.onlyDie_onDie h fun x => x.onCommit fun c => c.accepted span s.gsc, s.die_onDie_same h hp⟩

/-- A refusal sets REFUSED, and its status in a commit that is not pending. -/
theorem State.refuseCommit_spec (st : Status) (hp : s.present h = true) : s.OnlyDieHost (s.refuseCommit h st) h ∧
    (s.die h).OnlyHead ((s.refuseCommit h st).die h) [Reg.cmpCommit, Reg.cmpEvt] ∧
    ((s.refuseCommit h st).die h).head = { (s.die h).head with commit := (s.die h).head.commit.refused st } ∧
    ((s.refuseCommit h st).reg h Reg.cmpEvt).getLsbD 1 = true := by
  obtain ⟨hframe, honly, hhead, -, hevt⟩ := s.onDie_raiseHead_spec h
    (fun x => x.onCommit fun c => c.refused st) Reg.cmpEvt 0x02 hp (Die.onlyHead_onCommit _ _) (by decide)
  exact ⟨hframe, honly.mono (by simp), hhead, (congrArg (BitVec.getLsbD · 1) hevt).trans (by simp)⟩

end

/-- A head's commit is pending under a spanning GO at a time. -/
def Die.GoesSpanning (x : Die) (now : Nat) : Prop :=
  x.head.commit.pending = true ∧ x.head.commit.span = true ∧ x.head.commit.goAt = now

/-- A spanning GO that is accepted makes every head of a list pending, and changes nothing in force and no other die. -/
theorem foldl_acceptCommit_spec (l : List DieIx) (s : State) (hl : ∀ g ∈ l, s.present g = true) :
    let t := l.foldl (fun u g => u.acceptCommit g true) s
    t = { s with dies := t.dies } ∧ (∀ g ∈ l, (t.die g).GoesSpanning s.gsc) ∧ (∀ d, (t.die d).force = (s.die d).force) ∧
      ∀ d, d ∉ l → t.die d = s.die d := by
  induction l generalizing s with
  | nil => exact ⟨rfl, by simp, fun _ => rfl, fun _ _ => rfl⟩
  | cons g rest ih =>
    obtain ⟨⟨-, hother⟩, hdie⟩ := State.acceptCommit_spec true (hl g List.mem_cons_self)
    obtain ⟨hframe, hgo, hforce, hrest⟩ := ih (s.acceptCommit g true) fun e he => hl e (List.mem_cons_of_mem _ he)
    refine ⟨by rw [List.foldl_cons, hframe]; rfl, fun e he => ?_, fun d => (hforce d).trans ?_, fun d hd => ?_⟩
    · by_cases hin : e ∈ rest
      · exact hgo e hin
      · obtain rfl := (List.mem_cons.mp he).resolve_right hin
        rw [List.foldl_cons, hrest e hin, hdie]
        exact ⟨rfl, rfl, rfl⟩
    · by_cases hd : d = g
      · rw [hd, hdie]
        rfl
      · rw [hother d hd]
    · rw [List.mem_cons, not_or] at hd
      exact (hrest d hd.2).trans (hother d hd.1)

section
variable {s : State} {h : DieIx}

theorem fxCommit_pending (hc : (s.die h).head.commit.pending = true) : fxCommit h s = s := if_pos hc

theorem fxCommitSpan_pending (hc : (s.die h).head.commit.pending = true) : fxCommitSpan h s = s := if_pos hc

theorem fxCommit_accepts (hc : (s.die h).head.commit.pending = false) (hs : s.commitStatus h = .ok) :
    fxCommit h s = s.acceptCommit h false := by
  rw [fxCommit, if_neg (by simp [hc])]
  exact if_pos hs

theorem fxCommit_refuses (hc : (s.die h).head.commit.pending = false) (hs : s.commitStatus h ≠ .ok) :
    fxCommit h s = s.refuseCommit h (s.commitStatus h) := by
  rw [fxCommit, if_neg (by simp [hc])]
  exact if_neg hs

/-- A spanning GO on a head that is not the lowest of a canvas is refused. -/
theorem fxCommitSpan_misplaced (hc : (s.die h).head.commit.pending = false)
    (hcv : ∀ c, s.headCanvas h = some c → dieOf c.binding.head0 ≠ h) : fxCommitSpan h s = s.refuseCommit h .layerConfig := by
  rw [fxCommitSpan, if_neg (by simp [hc])]
  cases hh : s.headCanvas h with
  | none => rfl
  | some c => exact if_pos (hcv c hh)

/-- A spanning GO on the lowest head of a canvas of which no head is pending goes by the first head that fails. -/
theorem fxCommitSpan_lowest {c : Canvas} (hc : (s.die h).head.commit.pending = false) (hcv : s.headCanvas h = some c)
    (hlow : dieOf c.binding.head0 = h) (hidle : ∀ e ∈ c.binding.heads, (s.die e.1).head.commit.pending = false) :
    fxCommitSpan h s = match (c.binding.heads.map fun e => s.commitStatus e.1).find? fun st => st != .ok with
      | some st => s.refuseCommit h st
      | none => (c.binding.heads.map fun e => e.1).foldl (fun u g => u.acceptCommit g true) s := by
  have hnone : ¬ ((c.binding.heads.map fun e => e.1).any fun g => (s.die g).head.commit.pending) = true := by
    simpa using hidle
  rw [fxCommitSpan, if_neg (by simp [hc]), hcv]
  dsimp only
  rw [if_neg (not_not_intro hlow), if_neg hnone, List.map_map]
  rfl

end

/-! ### Loads of the encode table and the coefficients (R231, R233, R240) -/

/-- A die with an entry of the encode table stored and the index moved on; no entry lies above index 1,024 (entry 36). -/
def Die.lutStored (x : Die) (value : Word) : Die :=
  let i := x.field Reg.cmpLutAddr 10 0
  let y := if i ≤ 1024 then { x with lut := sSet lutReset x.lut i (BitVec.ofNat 32 (bits value 15 0)) } else x
  y.setField Reg.cmpLutAddr 10 0 (i + 1)

/-- A die with a coefficient stored and the index moved on. -/
def Die.coefStored (x : Die) (value : Word) : Die :=
  let i := x.field Reg.cmpCoefAddr 10 0
  let y := { x with coef := sSet coefReset x.coef i (BitVec.ofNat 32 (bits value 9 0)) }
  y.setField Reg.cmpCoefAddr 10 0 (i + 1)

/-- While a commit is pending a write to a shadow is discarded and sets LOCKED (R240). -/
theorem State.lockedWrite_pending {s : State} {d : DieIx} (f : Die → Die) (hp : s.present d = true)
    (hc : (s.die d).head.commit.pending = true) : s.OnlyDieHost (s.lockedWrite d f) d ∧
    (s.die d).OnlyRegs ((s.lockedWrite d f).die d) [Reg.cmpEvt] ∧ ((s.lockedWrite d f).reg d Reg.cmpEvt).getLsbD 2 = true := by
  obtain ⟨hframe, honly, hevt⟩ := s.raiseHead_onlyDieHost d Reg.cmpEvt 0x04 hp
  rw [State.lockedWrite, if_pos hc]
  exact ⟨hframe, honly, by rw [hevt]; simp⟩

/-- A write to a shadow of a head whose commit is not pending changes its die. -/
theorem State.lockedWrite_open {s : State} {d : DieIx} (f : Die → Die) (hp : s.present d = true)
    (hc : (s.die d).head.commit.pending = false) : s.OnlyDie (s.lockedWrite d f) d ∧ (s.lockedWrite d f).die d = f (s.die d) := by
  rw [State.lockedWrite, if_neg (by simp [hc])]
  exact ⟨s.onlyDie_onDie d f, s.die_onDie_same d hp⟩

/-- An index register that moves on counts modulo 2,048, and no other register changes. -/
theorem Die.indexMoved_spec (x : Die) (off i : Nat) : (∀ k, k ≠ off → (x.setField off 10 0 (i + 1)).reg k = x.reg k) ∧
    (x.setField off 10 0 (i + 1)).field off 10 0 = (i + 1) % 2048 := by
  refine ⟨fun k hk => x.reg_setReg_ne _ hk.symm, ?_⟩
  rw [Die.field, Die.reg_setField, if_pos rfl]
  exact bits_setBits _ 0 _ (by decide)

theorem Die.lutStored_spec (x : Die) (value : Word) :
    x.lutStored value = { x with regs := (x.lutStored value).regs, lut := (x.lutStored value).lut } ∧
      (∀ k, k ≠ Reg.cmpLutAddr → (x.lutStored value).reg k = x.reg k) ∧
      (x.lutStored value).field Reg.cmpLutAddr 10 0 = (x.field Reg.cmpLutAddr 10 0 + 1) % 2048 ∧
      (x.field Reg.cmpLutAddr 10 0 ≤ 1024 → ∀ i, sGet lutReset (x.lutStored value).lut i =
        if i = x.field Reg.cmpLutAddr 10 0 then BitVec.ofNat 32 (bits value 15 0) else sGet lutReset x.lut i) := by
  unfold Die.lutStored
  by_cases hi : x.field Reg.cmpLutAddr 10 0 ≤ 1024
  · obtain ⟨hregs, hidx⟩ := Die.indexMoved_spec
      { x with lut := sSet lutReset x.lut (x.field Reg.cmpLutAddr 10 0) (BitVec.ofNat 32 (bits value 15 0)) } Reg.cmpLutAddr
      (x.field Reg.cmpLutAddr 10 0)
    simp only [if_pos hi]
    refine ⟨rfl, hregs, hidx, fun _ i => (sGet_sSet _ _ _ _).trans ?_⟩
    simp only [eq_comm]
  · obtain ⟨hregs, hidx⟩ := x.indexMoved_spec Reg.cmpLutAddr (x.field Reg.cmpLutAddr 10 0)
    simp only [if_neg hi]
    exact ⟨rfl, hregs, hidx, fun h => absurd h hi⟩

theorem Die.coefStored_spec (x : Die) (value : Word) :
    x.coefStored value = { x with regs := (x.coefStored value).regs, coef := (x.coefStored value).coef } ∧
      (∀ k, k ≠ Reg.cmpCoefAddr → (x.coefStored value).reg k = x.reg k) ∧
      (x.coefStored value).field Reg.cmpCoefAddr 10 0 = (x.field Reg.cmpCoefAddr 10 0 + 1) % 2048 ∧
      ∀ i, sGet coefReset (x.coefStored value).coef i =
        if i = x.field Reg.cmpCoefAddr 10 0 then BitVec.ofNat 32 (bits value 9 0) else sGet coefReset x.coef i := by
  obtain ⟨hregs, hidx⟩ := Die.indexMoved_spec
    { x with coef := sSet coefReset x.coef (x.field Reg.cmpCoefAddr 10 0) (BitVec.ofNat 32 (bits value 9 0)) } Reg.cmpCoefAddr
    (x.field Reg.cmpCoefAddr 10 0)
  refine ⟨rfl, hregs, hidx, fun i => (sGet_sSet _ _ _ _).trans ?_⟩
  simp only [eq_comm]

/-- Settles O51: a GO is accepted or refused by the checks, of every head of a canvas where it spans, and PENDING locks the shadows. -/
theorem commits : Obligations.commits := by
  unfold Obligations.commits
  intro s h hp x
  refine ⟨fun hc => ?_, fun hc => ⟨fun hs => ?_, fun hs => ?_, fun c hcv hlow hheads => ?_, fun hcv => ?_, fun w => ⟨?_, ?_⟩⟩,
    fun hc w c hcw => ?_⟩
  · exact ⟨congrArg Host.Outcome.next (fxCommit_pending hc), congrArg Host.Outcome.next (fxCommitSpan_pending hc)⟩
  · obtain ⟨hframe, hdie⟩ := State.acceptCommit_spec false hp
    refine ⟨_, congrArg Host.Outcome.next (fxCommit_accepts hc hs), hframe, hdie ▸ x.onlyHead_onCommit _, congrArg Die.head hdie, ?_⟩
    rw [State.field, hdie]
    exact Die.field_showCommit_pending _ rfl
  · obtain ⟨hframe, honly, hhead, hevt⟩ := State.refuseCommit_spec (s.commitStatus h) hp
    exact ⟨_, congrArg Host.Outcome.next (fxCommit_refuses hc hs), hframe, honly, hevt, hhead⟩
  · have hgo := fxCommitSpan_lowest hc hcv hlow fun e he => (hheads e he).2
    refine ⟨fun hok => ?_, fun st hst => ?_⟩
    · have hnone : ((c.binding.heads.map fun e => s.commitStatus e.1).find? fun st => st != .ok) = none := by simpa using hok
      rw [hnone] at hgo
      obtain ⟨hframe, hspans, hforce, hrest⟩ := foldl_acceptCommit_spec (c.binding.heads.map fun e => e.1) s
        (List.forall_mem_map.mpr fun e he => (hheads e he).1)
      refine ⟨_, congrArg Host.Outcome.next hgo, hframe, fun e he => ?_, fun d hd => hrest d ?_⟩
      · obtain ⟨hpend, hspan, hat⟩ := hspans e.1 (List.mem_map_of_mem he)
        exact ⟨hpend, hspan, hat, hforce e.1⟩
      · intro hm
        obtain ⟨e, he, hed⟩ := List.mem_map.mp hm
        exact hd e he hed
    · rw [hst] at hgo
      obtain ⟨hframe, -, hhead, hevt⟩ := State.refuseCommit_spec st hp
      exact ⟨_, congrArg Host.Outcome.next hgo, hframe, by rw [hhead]; rfl, by rw [hhead]; rfl, hevt⟩
  · obtain ⟨hframe, -, hhead, -⟩ := State.refuseCommit_spec .layerConfig hp
    exact ⟨_, congrArg Host.Outcome.next (fxCommitSpan_misplaced hc hcv), hframe, by rw [hhead]; rfl, by rw [hhead]; rfl⟩
  · obtain ⟨hframe, hdie⟩ := State.lockedWrite_open (fun y => y.lutStored w) hp hc
    refine ⟨s.lockedWrite h fun y => y.lutStored w, rfl, hframe, ?_⟩
    simp only [State.reg, State.field, hdie]
    exact x.lutStored_spec w
  · obtain ⟨hframe, hdie⟩ := State.lockedWrite_open (fun y => y.coefStored w) hp hc
    refine ⟨s.lockedWrite h fun y => y.coefStored w, rfl, hframe, ?_⟩
    simp only [State.reg, State.field, hdie]
    exact x.coefStored_spec w
  · obtain rfl | rfl := hcw
    · exact ⟨_, rfl, State.lockedWrite_pending _ hp hc⟩
    · exact ⟨_, rfl, State.lockedWrite_pending _ hp hc⟩

end Sys2Proof.Machine
end

section
/-! SUPPORT. Proofs of the statements of 10_turnstiles. -/

namespace Sys2Proof.Machine

/-! ### Waits of streams on dies that the part lacks -/

/-- An ADD of 1 by the Ringmaster of die 0. -/
def addOne : TslReq := ringmaster 0 (.add 1) 0

/-- The ADD satisfies the wait of the stream of a die that the part lacks. -/
theorem awaited_released_addOne : ∃ e ∈ (awaited.resolve [addOne] strayPart.gsc (4096 - (strayPart.die 0).tsl.hostWaiters)).results,
    e.1.iss = streamIssuer strayStream ∧ e.2 = .proceeds .ok := by decide +kernel

/-- After the ADD the stream waits as before: nothing changes in a die that the part does not contain (R7). -/
theorem strayStream_waits_addOne : (((fxAdd 0 (.phys 5) addOne [] strayPart).die 2).stream strayStream).map Stream.state =
    some .waitTsl := by decide +kernel

/-- Refutes O36: it says that every stream whose wait proceeds goes on, while no stream changes in a die that the part lacks. On a
PV-2200 an ADD on die 0 satisfies the wait of a stream that the state holds in die 2, and the stream waits as before. -/
theorem not_turnstileOperations : ¬ Obligations.turnstile_operations := by
  unfold Obligations.turnstile_operations
  intro h
  obtain ⟨-, -, -, hcycle⟩ := h strayPart 0 (.phys 5) addOne [] (by decide)
  obtain ⟨hresolves, -⟩ := hcycle 5 awaited (by decide +kernel) rfl rfl (.inr rfl) (List.forall_mem_nil _) rfl
  obtain ⟨t, ht, -, hgo⟩ := hresolves (by decide +kernel)
  obtain rfl : fxAdd 0 (.phys 5) addOne [] strayPart = t := Host.Outcome.next.inj ht
  have hrun := hgo strayStream strayRun (by decide +kernel) rfl awaited_released_addOne
  have hwait := strayStream_waits_addOne
  rw [show strayStream.die = 2 from rfl] at hrun
  rw [hrun] at hwait
  simp at hwait

/-! ### One cycle of an object (R261) -/

/-- What a WAIT_SUB takes from VALUE. -/
def reqAmount (q : TslReq) : Option Nat :=
  match q.op with
  | .waitSub n => some n
  | .waitGe _ | .add _ | .sub _ | .set _ => none

theorem reqAmount_eq_some {q : TslReq} {n : Nat} : reqAmount q = some n ↔ q.op = .waitSub n := by
  rw [reqAmount]
  cases q.op <;> simp

theorem reqAmount_of_waitGe {q : TslReq} {n : Nat} (h : q.op = .waitGe n) : reqAmount q = none := by rw [reqAmount, h]

theorem reqGeFits_of_waitGe {q : TslReq} {n : Nat} (h : q.op = .waitGe n) (v : Nat) : reqGeFits q v = decide (n ≤ v) := by
  rw [reqGeFits, h]

/-- The amounts of the WAIT_SUBs among waiting requests. -/
def subAmounts (l : List (Bool × TslReq)) : List Nat := l.filterMap fun q => reqAmount q.2

/-- After the first WAIT_SUB that does not fit, all stay. -/
theorem takeSubs_stopped (v : Nat) (l : List (Bool × TslReq)) : takeSubs v true l = (v, [], l) := by
  induction l with
  | nil => rfl
  | cons q rest ih =>
    rw [takeSubs]
    split <;> simp [ih]

/-- A request that takes nothing stays where it is. -/
theorem takeSubs_other {q : Bool × TslReq} (v : Nat) (rest : List (Bool × TslReq)) (h : reqAmount q.2 = none) :
    takeSubs v false (q :: rest) = ((takeSubs v false rest).1, (takeSubs v false rest).2.1, q :: (takeSubs v false rest).2.2) := by
  rw [takeSubs]
  split
  next n hq => rw [reqAmount_eq_some.mpr hq] at h; cases h
  all_goals rfl

theorem takeSubs_fits {q : Bool × TslReq} {v n : Nat} (rest : List (Bool × TslReq)) (h : reqAmount q.2 = some n) (hn : n ≤ v) :
    takeSubs v false (q :: rest) =
      ((takeSubs (v - n) false rest).1, q.2 :: (takeSubs (v - n) false rest).2.1, (takeSubs (v - n) false rest).2.2) := by
  simp [takeSubs, reqAmount_eq_some.mp h, hn]

theorem takeSubs_short {q : Bool × TslReq} {v n : Nat} (rest : List (Bool × TslReq)) (h : reqAmount q.2 = some n) (hn : v < n) :
    takeSubs v false (q :: rest) = (v, [], q :: rest) := by
  simp [takeSubs, reqAmount_eq_some.mp h, Nat.not_le.mpr hn, takeSubs_stopped]

/-- Step 4 of R261: of the WAIT_SUBs those from the head proceed, and the first that stays does not fit what is left; all else stays in order. -/
theorem takeSubs_spec (l : List (Bool × TslReq)) (v : Nat) :
    let r := takeSubs v false l
    List.Sublist r.2.2 l ∧ (∀ q ∈ l, reqAmount q.2 = none → q ∈ r.2.2) ∧
      ∃ k, subAmounts r.2.2 = (subAmounts l).drop k ∧ ((subAmounts l).take k).sum ≤ v ∧ r.1 = v - ((subAmounts l).take k).sum ∧
        ∀ n, (subAmounts l)[k]? = some n → v - ((subAmounts l).take k).sum < n := by
  intro r
  induction l generalizing v with
  | nil => exact ⟨List.Sublist.slnil, fun _ h => absurd h List.not_mem_nil, 0, rfl, Nat.zero_le v, rfl, fun _ h => nomatch h⟩
  | cons q rest ih =>
    cases hq : reqAmount q.2 with
    | none =>
      obtain ⟨hsub, hmem, k, hdrop, hsum, hval, hnext⟩ := ih v
      have he : subAmounts (q :: rest) = subAmounts rest := by simp [subAmounts, hq]
      have hr : r = ((takeSubs v false rest).1, (takeSubs v false rest).2.1, q :: (takeSubs v false rest).2.2) := takeSubs_other v rest hq
      rw [hr, he]
      refine ⟨hsub.cons_cons q, fun p hp hn => ?_, k, by rw [← hdrop]; simp [subAmounts, hq], hsum, hval, hnext⟩
      obtain rfl | hp := List.mem_cons.mp hp
      · exact List.mem_cons_self
      · exact List.mem_cons_of_mem _ (hmem p hp hn)
    | some n =>
      have he : subAmounts (q :: rest) = n :: subAmounts rest := by simp [subAmounts, hq]
      by_cases hn : n ≤ v
      · obtain ⟨hsub, hmem, k, hdrop, hsum, hval, hnext⟩ := ih (v - n)
        have hr : r = _ := takeSubs_fits rest hq hn
        rw [hr, he]
        refine ⟨hsub.cons q, fun p hp hnone => ?_, k + 1, hdrop, ?_, ?_, fun m hm => ?_⟩
        · obtain rfl | hp := List.mem_cons.mp hp
          · rw [hq] at hnone
            cases hnone
          · exact hmem p hp hnone
        · rw [List.take_succ_cons, List.sum_cons]
          omega
        · rw [List.take_succ_cons, List.sum_cons, hval]
          omega
        · rw [List.take_succ_cons, List.sum_cons]
          have := hnext m hm
          omega
      · rw [Nat.not_le] at hn
        have hr : r = (v, [], q :: rest) := takeSubs_short rest hq hn
        rw [hr, he]
        refine ⟨List.Sublist.refl _, fun _ hp _ => hp, 0, rfl, Nat.zero_le v, rfl, fun m hm => ?_⟩
        obtain rfl : n = m := Option.some.inj hm
        exact hn

/-- A listed waiter as a cycle takes it. -/
def Waiter.listed (w : Waiter) : Bool × TslReq := (false, w.req)

/-- The amounts of the WAIT_SUBs of a list. -/
def waiterAmounts (l : List Waiter) : List Nat := l.filterMap fun w => reqAmount w.req

theorem subAmounts_listed (l : List Waiter) : subAmounts (l.map Waiter.listed) = waiterAmounts l := List.filterMap_map

/-- Step 4 of R261 over listed waiters alone. -/
theorem takeSubs_listed (l : List Waiter) (v : Nat) : ∃ kept, (takeSubs v false (l.map Waiter.listed)).2.2 = kept.map Waiter.listed ∧
    kept.Sublist l ∧ (∀ w ∈ l, reqAmount w.req = none → w ∈ kept) ∧
      ∃ k, waiterAmounts kept = (waiterAmounts l).drop k ∧ ((waiterAmounts l).take k).sum ≤ v ∧
        (takeSubs v false (l.map Waiter.listed)).1 = v - ((waiterAmounts l).take k).sum ∧
        ∀ n, (waiterAmounts l)[k]? = some n → v - ((waiterAmounts l).take k).sum < n := by
  obtain ⟨hsub, hstay, hk⟩ := takeSubs_spec (l.map Waiter.listed) v
  obtain ⟨kept, hkept, he⟩ := List.sublist_map_iff.mp hsub
  rw [he, subAmounts_listed, subAmounts_listed] at hk
  refine ⟨kept, he, hkept, fun w hw hn => ?_, hk⟩
  have hm := hstay w.listed (List.mem_map_of_mem hw) hn
  rw [he] at hm
  obtain ⟨x, hx, hxw⟩ := List.mem_map.mp hm
  obtain ⟨rfl⟩ : x = w := congrArg (fun q => (⟨q.2⟩ : Waiter)) hxw
  exact hx

theorem TslObj.change_frame (o : TslObj) (q : TslReq) (gsc : Nat) :
    (o.change q gsc).1.waiters = o.waiters ∧ (o.change q gsc).1.retry = o.retry := by
  rw [TslObj.change]
  split
  · split <;> exact ⟨rfl, rfl⟩
  · split <;> exact ⟨rfl, rfl⟩
  all_goals exact ⟨rfl, rfl⟩

theorem opWaitsForZero_of_changes {op : TslOp} (h : opChanges op = true) : opWaitsForZero op = false := by
  cases op with
  | waitGe n => cases h
  | waitSub n => cases h
  | add _ | sub _ | set _ => rfl

/-- The waiters of an object that VALUE v does not let go as WAIT_GEs. -/
def TslObj.unmet (o : TslObj) (v : Nat) : List Waiter := o.waiters.filter fun w => !(reqGeFits w.req v)

/-- The WAIT_GEs that go have no amounts. -/
theorem waiterAmounts_unmet (o : TslObj) (v : Nat) : waiterAmounts (o.unmet v) = waiterAmounts o.waiters := by
  rw [waiterAmounts, TslObj.unmet, List.filterMap_filter]
  refine List.filterMap_congr fun w _ => ?_
  cases ha : reqAmount w.req with
  | none => exact ite_self _
  | some n => simp [reqGeFits, reqAmount_eq_some.mp ha]

/-- One ADD, SUB or SET alone, where no host wait is retried. -/
theorem TslObj.resolve_change {o : TslObj} {q : TslReq} (gsc free : Nat) (hp : o.poison = false) (hr : o.retry = [])
    (hq : opChanges q.op = true) :
    let c := o.change q gsc
    let t := takeSubs c.1.value false ((o.unmet c.1.value).map Waiter.listed)
    o.resolve [q] gsc free =
      { obj := { c.1 with value := t.1, waiters := t.2.2.map fun w => ⟨w.2⟩, retry := [] },
        results := (q, c.2) :: ((o.waiters.filter fun w => reqGeFits w.req c.1.value).map fun w => (w.req, .proceeds .ok)) ++
          t.2.1.map fun q => (q, .proceeds .ok) } := by
  intro c t
  obtain ⟨hw, hretry⟩ := o.change_frame q gsc
  obtain ⟨kept, hkept, -⟩ := takeSubs_listed (o.unmet c.1.value) c.1.value
  have ht : takeSubs c.1.value false ((o.waiters.filter fun w => !reqGeFits w.req c.1.value).map fun w => (false, w.req)) =
    (t.1, t.2.1, kept.map fun w => (false, w.req)) := Prod.ext rfl (Prod.ext rfl hkept)
  rw [hkept]
  rw [TslObj.resolve, if_neg (by simp [hp])]
  simp [sortReqs, insertReq, hq, opWaitsForZero_of_changes hq, TslObj.changeAll, hr, hw, hretry, List.filter_map, Function.comp_def, ht, c,
    Waiter.listed]

/-- VALUE after an ADD (R262). -/
theorem TslObj.value_change_add {o : TslObj} {q : TslReq} {v : Nat} (gsc : Nat) (hq : q.op = .add v) :
    (o.change q gsc).1.value = min (o.value + v) tslMax := by
  simp only [TslObj.change, hq]
  split
  next h => exact (Nat.min_eq_right h.le).symm
  next h => exact (Nat.min_eq_left (Nat.not_lt.mp h)).symm

/-- Settles O37: with one ADD the waiters stay or proceed as steps 3 and 4 of R261 leave them; a poisoned object changes nothing. -/
theorem turnstileWaitersReleasedInOrder : Obligations.turnstile_waiters_released_in_order := by
  unfold Obligations.turnstile_waiters_released_in_order
  refine ⟨fun o q v gsc free hp hretry hq => ?_, fun o ops gsc free hp => ?_⟩
  · intro r now amount subs
    have hr : r = _ := TslObj.resolve_change gsc free hp hretry (by rw [hq]; rfl)
    rw [show (o.change q gsc).1.value = now from TslObj.value_change_add gsc hq] at hr
    obtain ⟨kept, hkept, hsub, hstay, k, hdrop, hsum, hval, hnext⟩ := takeSubs_listed (o.unmet now) now
    have hw : r.obj.waiters = kept := by
      rw [hr, hkept, List.map_map]
      exact List.map_id kept
    have hv : r.obj.value = now - ((waiterAmounts (o.unmet now)).take k).sum := by rw [hr, hval]
    have hsubs : waiterAmounts (o.unmet now) = subs := waiterAmounts_unmet o now
    rw [hw, hv]
    rw [hsubs] at hdrop hsum hnext ⊢
    refine ⟨fun w hm n hn hle => ⟨?_, fun h => ?_⟩, fun w hm n hn hlt => ?_, hsub.trans List.filter_sublist,
      k, hdrop, hsum, rfl, hnext⟩
    · rw [hr]
      refine List.mem_append_left _ (List.mem_cons_of_mem _ (List.mem_map_of_mem (List.mem_filter.mpr ⟨hm, ?_⟩)))
      rw [reqGeFits_of_waitGe hn]
      exact decide_eq_true hle
    · have hf := List.of_mem_filter (hsub.subset h)
      simp [reqGeFits_of_waitGe hn, hle] at hf
    · refine hstay w (List.mem_filter.mpr ⟨hm, ?_⟩) (reqAmount_of_waitGe hn)
      simpa [reqGeFits_of_waitGe hn] using hlt
  · rw [TslObj.resolve, if_pos hp]
    exact ⟨rfl, rfl⟩

section

/-! ### What Turnstile work leaves

The operations by which Turnstiles, items and streams go on, fail or end make no object, change no context, no dump and no queue's
existence, and freeze no die; what a dump reports stays as it is. -/

/-! #### The queues of the functions -/

/-- The queues that a function has, by identifier. -/
def HostSide.queueIds (h : HostSide) (f : FnIx) : List Nat := (h.fn f).queues.map Queue.id

/-- Every function has the same queues in two host sides. -/
def HostSide.SameQueues (h k : HostSide) : Prop := ∀ f, k.queueIds f = h.queueIds f

namespace HostSide.SameQueues

variable {h0 h k : HostSide}

protected theorem refl (h : HostSide) : h.SameQueues h := fun _ => rfl

theorem trans (a : h0.SameQueues h) (b : h.SameQueues k) : h0.SameQueues k := fun f => (b f).trans (a f)

theorem ite {c : Prop} [Decidable c] (a : h0.SameQueues h) (b : h0.SameQueues k) : h0.SameQueues (if c then h else k) := by
  split
  · exact a
  · exact b

theorem onFn (a : h0.SameQueues h) (f : FnIx) {u : Fn → Fn} (hu : ∀ x, (u x).queues.map Queue.id = x.queues.map Queue.id) :
    h0.SameQueues (h.onFn f u) := by
  refine a.trans fun g => ?_
  rw [HostSide.queueIds, HostSide.fn_onFn]
  split
  next e => rw [hu, e, HostSide.queueIds]
  next => rfl

theorem onQueue (a : h0.SameQueues h) (f : FnIx) (q : Nat) {g : Queue → Queue} (hg : ∀ x, (g x).id = x.id) :
    h0.SameQueues (h.onQueue f q g) := a.onFn f fun x => map_updFirst x.queues hg

theorem setReg (a : h0.SameQueues h) (off : Nat) (w : Word) : h0.SameQueues (h.setReg off w) := a

theorem fire (x : Fn) (v : Nat) : (x.fire v).queues = x.queues := by
  unfold Fn.fire
  extract_lets m
  split <;> rfl

theorem posted (a : h0.SameQueues h) (f : FnIx) (q : Nat) : h0.SameQueues (h.posted f q) := by
  unfold HostSide.posted
  split
  · exact a
  · split
    · exact a
    · exact ite ((a.onQueue f q fun _ => by rfl).onFn f fun x => congrArg _ (fire x _)) (a.onQueue f q fun _ => by rfl)

theorem append (a : h0.SameQueues h) (f : FnIx) (q : Nat) (mk : Bool → List Byte) : h0.SameQueues (h.append f q mk) := by
  unfold HostSide.append
  split
  · exact a
  next x _ =>
    have b : h0.SameQueues (h.write (x.base.toNat + 64 * x.tail) (sliceBytes (mk x.phase) 0 64)) := a
    exact (b.onQueue f q fun _ => by rfl).posted f q

theorem settleAll (a : h0.SameQueues h) (f : FnIx) : h0.SameQueues (h.settleAll f) := by
  have hsettle (q : Queue) : (h.settle f q).id = q.id := by
    unfold HostSide.settle
    repeat' split
    all_goals rfl
  refine a.onFn f fun x => ?_
  rw [List.map_map]
  exact List.map_congr_left fun q _ => hsettle q

theorem postCpl (a : h0.SameQueues h) (f : FnIx) (cq kind die step : Nat) (st : Status) (detail : List Byte) :
    h0.SameQueues (h.postCpl f cq kind die step st detail) := by
  unfold HostSide.postCpl
  split
  · exact a
  · exact ite (((a.append f cq _).onQueue f cq fun _ => by rfl).settleAll f) ((a.onQueue f cq fun _ => by rfl).onFn f fun _ => by rfl)

theorem appendEvent (a : h0.SameQueues h) (f : FnIx) (q type die : Nat) (payload : List Byte) :
    h0.SameQueues (h.appendEvent f q type die payload) := by
  unfold HostSide.appendEvent
  split
  · exact a
  · exact (a.append f q _).onQueue f q fun _ => by rfl

theorem postEvents (a : h0.SameQueues h) (f : FnIx) (q : Nat) (rs : List (Nat × Nat × List Byte)) :
    h0.SameQueues (h.postEvents f q rs) := by
  have lose {k : HostSide} (b : h0.SameQueues k) (n : Nat) : h0.SameQueues (k.loseEvents f q n) := b.onQueue f q fun _ => by rfl
  unfold HostSide.postEvents
  split
  · exact a
  next x _ =>
    have b : h0.SameQueues (if 0 < x.lost ∧ 0 < x.room then
        (h.appendEvent f q 0x0006 0 (leBytes 4 x.lost)).onQueue f q fun y => { y with lost := 0 } else h) :=
      ite ((a.appendEvent f q _ _ _).onQueue f q fun _ => by rfl) a
    exact a.ite ((lose a _).ite (ite (foldl_inv (fun _ _ c => c.appendEvent f q _ _ _) b) (lose b _)))

theorem postDie (a : h0.SameQueues h) (d : DieIx) (type : Nat) (payload : List Byte) : h0.SameQueues (h.postDie d type payload) := by
  unfold HostSide.postDie
  split
  · exact a.postEvents _ _ _
  · have b : h0.SameQueues ((h.count 0x014 1).setReg 0x00C (h.reg 0x00C ||| 4)) := a
    dsimp only
    split
    · split
      · exact b.postEvents _ _ _
      · exact b
    · exact b

end HostSide.SameQueues

/-- The same queues are there to be found. -/
theorem HostSide.SameQueues.queue_isSome {h k : HostSide} (a : h.SameQueues k) (f : FnIx) (q : Nat) :
    (k.queue f q).isSome = (h.queue f q).isSome := by
  have e (h : HostSide) : (h.queue f q).isSome = (h.queueIds f).contains q := by
    rw [Bool.eq_iff_iff, HostSide.queue, HostSide.queueIds, List.find?_isSome, List.contains_iff_mem, List.mem_map]
    simp
  rw [e, e, a f]

/-! #### Dies -/

/-- The registers that tell of a dump, and TSL_EVT_EN (Table 10.10). -/
abbrev IsDumpReg (off : Nat) : Prop := off = Reg.tslDumpCtrl ∨ off = Reg.tslDumpBytes ∨ off = Reg.tslEvt + 4

/-- What Turnstile work leaves of a die's Turnstile memory. -/
structure Tsl.Keeps (x y : Tsl) : Prop where
  dump : y.dump = x.dump
  ctxs : y.ctxs = x.ctxs
  frozen : y.frozen = true → x.frozen = true
  free : ∀ n, x.obj n = none → y.obj n = none

namespace Tsl.Keeps

variable {x y z : Tsl}

protected theorem refl (x : Tsl) : x.Keeps x := ⟨rfl, rfl, id, fun _ => id⟩

theorem trans (h : x.Keeps y) (k : y.Keeps z) : x.Keeps z :=
  ⟨k.dump.trans h.dump, k.ctxs.trans h.ctxs, fun hz => h.frozen (k.frozen hz), fun n hn => k.free n (h.free n hn)⟩

/-- A change of an object that is there. -/
theorem setObj {n : Nat} {o : TslObj} (p : TslObj) (h : x.obj n = some o) : x.Keeps (x.setObj n p) where
  dump := rfl
  ctxs := rfl
  frozen := id
  free k hk := by
    rw [Tsl.obj, Tsl.setObj, sLookup_sInsert, if_neg fun e => ?_]
    · exact hk
    · rw [e, hk] at h
      cases h

/-- Objects changed one by one, where they are. -/
theorem mapObjs (x : Tsl) {g : Nat × TslObj → Nat × TslObj} (hg : ∀ e, (g e).1 = e.1) : x.Keeps { x with objs := x.objs.map g } where
  dump := rfl
  ctxs := rfl
  frozen := id
  free n hn := by
    have e := sLookup_map_of_key (l := x.objs) (φ := fun _ => ()) (fun e => ⟨hg e, rfl⟩) n
    rw [show sLookup x.objs n = none from hn] at e
    exact Option.map_eq_none_iff.mp e

theorem cancel (x : Tsl) (p : TslReq → Bool) : x.Keeps (x.cancel p) := mapObjs x fun _ => rfl

theorem cancelItems (x : Tsl) (ctx : Nat) (d : DieIx) (seq : Nat) (ops : List Nat) : x.Keeps (x.cancelItems ctx d seq ops) :=
  mapObjs x fun _ => (apply_ite Prod.fst _ _ _).trans (ite_self _)

theorem poison (x : Tsl) (ctx : Nat) : x.Keeps (x.poison ctx).1 := by
  unfold Tsl.poison
  split
  · exact .refl x
  · exact mapObjs x fun _ => (apply_ite Prod.fst _ _ _).trans (ite_self _)

end Tsl.Keeps

/-- What Turnstile work leaves of a die. -/
structure Die.KeepsTsl (x y : Die) : Prop where
  regs : ∀ off, IsDumpReg off → y.reg off = x.reg off
  tsl : x.tsl.Keeps y.tsl

namespace Die.KeepsTsl

variable {x y z : Die}

theorem of_eq (hr : y.regs = x.regs) (ht : x.tsl.Keeps y.tsl) : x.KeepsTsl y := ⟨fun off _ => by rw [Die.reg, hr, Die.reg], ht⟩

protected theorem refl (x : Die) : x.KeepsTsl x := of_eq rfl (.refl _)

theorem trans (h : x.KeepsTsl y) (k : y.KeepsTsl z) : x.KeepsTsl z :=
  ⟨fun off ho => (k.regs off ho).trans (h.regs off ho), h.tsl.trans k.tsl⟩

theorem setReg (x : Die) {off : Nat} (w : Word) (ho : ¬ IsDumpReg off) : x.KeepsTsl (x.setReg off w) :=
  ⟨fun _ hk => x.reg_setReg_ne w fun e => ho (e ▸ hk), .refl _⟩

theorem removeStreams (x : Die) (p : StreamId → Stream → Bool) : x.KeepsTsl (x.removeStreams p) := by
  let gone := (x.streams.filter fun e => p e.1 e.2).map Prod.fst
  exact of_eq rfl (.cancel x.tsl fun q => q.iss.cls.val == 5 && gone.contains (issuerStream q.iss))

end Die.KeepsTsl

/-! #### States -/

/-- What Turnstile work leaves of a state. -/
structure State.KeepsTsl (s t : State) : Prop where
  straps : t.straps = s.straps
  queues : s.host.SameQueues t.host
  dies : ∀ d, (s.die d).KeepsTsl (t.die d)

namespace State.KeepsTsl

variable {s0 s t : State}

protected theorem refl (s : State) : s.KeepsTsl s := ⟨rfl, .refl _, fun d => .refl (s.die d)⟩

theorem trans (k : s0.KeepsTsl s) (j : s.KeepsTsl t) : s0.KeepsTsl t :=
  ⟨j.straps.trans k.straps, k.queues.trans j.queues, fun d => (k.dies d).trans (j.dies d)⟩

theorem present (k : s.KeepsTsl t) (d : DieIx) : t.present d = s.present d := by
  rw [State.present, State.nDies, k.straps]
  rfl

theorem ite {c : Prop} [Decidable c] (k : s0.KeepsTsl s) (j : s0.KeepsTsl t) : s0.KeepsTsl (if c then s else t) := by
  split
  · exact k
  · exact j

theorem foldl {α : Type} {f : State → α → State} {l : List α} (k : s0.KeepsTsl s)
    (hf : ∀ t a, s0.KeepsTsl t → s0.KeepsTsl (f t a)) : s0.KeepsTsl (l.foldl f s) := foldl_inv hf k

/-- A change of other fields than straps, functions and dies. -/
theorem copy (k : s0.KeepsTsl s) (hs : t.straps = s.straps) (hf : t.fns = s.fns) (hd : t.dies = s.dies) : s0.KeepsTsl t :=
  k.trans ⟨hs, fun f => by simp only [HostSide.queueIds, HostSide.fn, State.host, hf],
    fun d => by rw [State.die, State.die, hd]; exact .refl _⟩

theorem onDie (k : s0.KeepsTsl s) (d : DieIx) {f : Die → Die} (hf : (s.die d).KeepsTsl (f (s.die d))) :
    s0.KeepsTsl (s.onDie d f) := by
  refine k.trans ⟨rfl, .refl _, fun e => ?_⟩
  rw [State.die_onDie]
  split
  next h =>
    obtain ⟨rfl, -⟩ := h
    exact hf
  next => exact .refl _

theorem onDies (k : s0.KeepsTsl s) (ds : List DieIx) {f : DieIx → Die → Die} (hf : ∀ (d : DieIx) (x : Die), x.KeepsTsl (f d x)) :
    s0.KeepsTsl (s.onDies ds f) := k.foldl fun _ d j => j.onDie d (hf d _)

theorem onHost (k : s0.KeepsTsl s) {f : HostSide → HostSide} (hf : s.host.SameQueues (f s.host)) : s0.KeepsTsl (s.onHost f) :=
  k.trans ⟨rfl, fun g => hf g, fun d => .refl (s.die d)⟩

theorem onCanvas (k : s0.KeepsTsl s) (cv : CanvasId) (f : Canvas → Canvas) : s0.KeepsTsl (s.onCanvas cv f) := k.copy rfl rfl rfl

/-! #### Registers and flags -/

variable {off cnt evt : Nat}

theorem setReg (k : s0.KeepsTsl s) (d : DieIx) (w : Word) (ho : ¬ IsDumpReg off) : s0.KeepsTsl (s.setReg d off w) :=
  k.onDie d (.setReg _ w ho)

theorem raise (k : s0.KeepsTsl s) (d : DieIx) (mask : Nat) (ho : ¬ IsDumpReg evt) : s0.KeepsTsl (s.raise d evt mask) :=
  (k.setReg d (s.reg d evt ||| BitVec.ofNat 32 mask) ho).onHost (f := fun _ => _)
    (.ite (.refl _) (.postDie (.refl _) _ _ _))

theorem countRaise (k : s0.KeepsTsl s) (d : DieIx) (mask : Nat) (hc : ¬ IsDumpReg cnt) (ho : ¬ IsDumpReg evt) :
    s0.KeepsTsl (s.countRaise d cnt evt mask) := (k.setReg d _ hc).raise d mask ho

theorem untrusted (k : s0.KeepsTsl s) (d : DieIx) : s0.KeepsTsl (s.untrusted d) :=
  (k.onDie d (.of_eq rfl (.refl _))).countRaise d _ (by decide) (by decide)

/-! #### Turnstiles -/

theorem onStream (k : s0.KeepsTsl s) (st : StreamId) (f : Stream → Stream) : s0.KeepsTsl (s.onStream st f) :=
  k.onDie _ (.of_eq rfl (.refl _))

theorem sendGaide (k : s0.KeepsTsl s) (ms : List GaideMsg) : s0.KeepsTsl (s.sendGaide ms) :=
  k.foldl fun _ _ j => j.copy rfl rfl rfl

theorem released (k : s0.KeepsTsl s) (q : TslReq) (st : Status) : s0.KeepsTsl (s.released q st) :=
  (k.onHost (.onQueue (.refl _) _ _ fun _ => by rfl)).ite ((k.onStream _ _).ite k)

theorem tslFlags (k : s0.KeepsTsl s) (d : DieIx) (bundle : Bool) (r : TslResult) : s0.KeepsTsl (s.tslFlags d bundle r) := by
  cases r with
  | saturated =>
    have j := k.countRaise (cnt := Reg.tslOvfCnt) (evt := Reg.tslEvt) d 0x01 (by decide) (by decide)
    exact (j.untrusted d).ite j
  | refused => exact k.countRaise d _ (by decide) (by decide)
  | full => exact k.raise d _ (by decide)
  | proceeds _ => exact k
  | applied => exact k
  | poisoned => exact k
  | queued => exact k

theorem setObj (k : s0.KeepsTsl s) {d : DieIx} {n : Nat} {o : TslObj} (p : TslObj) (h : (s.die d).tsl.obj n = some o) :
    s0.KeepsTsl (s.onDie d fun x => { x with tsl := x.tsl.setObj n p }) := k.onDie d (.of_eq rfl (.setObj p h))

theorem barrierArrive (k : s0.KeepsTsl s) (d : DieIx) (n : Nat) : s0.KeepsTsl (s.barrierArrive d n) := by
  unfold State.barrierArrive
  split
  · exact k
  · split
    · exact k
    next o ho => exact k.ite ((k.setObj _ ho).copy rfl rfl rfl)

theorem tslCycle (k : s0.KeepsTsl s) (d : DieIx) (n : Nat) (ops : List TslReq) : s0.KeepsTsl (s.tslCycle d n ops).1 := by
  unfold State.tslCycle
  dsimp only
  split
  · exact k
  next o ho =>
    refine ((k.setObj _ ho).foldl fun t e j => ?_).barrierArrive d n
    split
    · exact j.released _ _
    · exact j.tslFlags d _ _

theorem settleParts (k : s0.KeepsTsl s) (cv : CanvasId) : s0.KeepsTsl (s.settleParts cv) := by
  unfold State.settleParts
  split
  · exact k
  · exact (k.onCanvas cv _).sendGaide _

theorem ringSet (k : s0.KeepsTsl s) (d : DieIx) (ctx : Nat) (v : Option (BitVec 12)) (seq value : Nat) :
    s0.KeepsTsl (s.ringSet d ctx v seq value) := by
  unfold State.ringSet
  split
  · exact k
  · split
    · exact k
    · exact k.tslCycle d _ _

/-! #### Entry into the queues -/

theorem syncInflight (k : s0.KeepsTsl s) (d : DieIx) : s0.KeepsTsl (s.syncInflight d) := by
  have j := k.onDie d (f := fun x => (x.setField Reg.crsInflight 13 0 (s.die d).flight).setField Reg.crsInflight 29 16
    (max (s.die d).flight (x.field Reg.crsInflight 29 16))) ((Die.KeepsTsl.setReg _ _ (by decide)).trans (.setReg _ _ (by decide)))
  exact (j.raise d _ (by decide)).ite j

theorem enter (k : s0.KeepsTsl s) (d : DieIx) (e : Entrant) : s0.KeepsTsl (s.enter d e) := by
  refine k.ite ?_
  cases e with
  | item i => exact k.onDie d (.of_eq rfl (.refl _))
  | run cv r =>
    dsimp only
    split
    · exact (k.onDie _ (.of_eq rfl (.refl _))).onCanvas cv _
    · exact k

theorem refill (k : s0.KeepsTsl s) (d : DieIx) : s0.KeepsTsl (s.refill d) :=
  (k.foldl fun _ e j => j.enter d e.2).syncInflight d

/-! #### Abandonment and failure -/

theorem postItem (k : s0.KeepsTsl s) (c : Canvas) (d : DieIx) (op stripe : Nat) (step : Dword) (st : Status) (w : List Nat) :
    s0.KeepsTsl (s.postItem c d op stripe step st w) := (k.onHost (.postCpl (.refl _) _ _ _ _ _ _ _)).ite k

theorem fillHalo (k : s0.KeepsTsl s) (cv : CanvasId) (d : DieIx) (frame stripe seq op : Nat) :
    s0.KeepsTsl (s.fillHalo cv d frame stripe seq op) := by
  unfold State.fillHalo
  split
  · exact k
  next c _ =>
    have hrows {t : State} (j : s0.KeepsTsl t) (v : State → Nat) :
        s0.KeepsTsl ((c.opOf op).writes.foldl (fun s t => s.ringSet d c.ctx (c.rowVirt t) seq (v s)) t) :=
      j.foldl fun _ _ j => j.ringSet _ _ _ _ _
    dsimp only
    split
    · exact hrows (k.onCanvas cv _) fun s => s.shares c (c.opOf op) d stripe * _
    · exact (hrows (k.onCanvas cv _) fun s => s.shares c (c.opOf op) d stripe * _).foldl
        fun _ _ j => j.foldl fun _ _ j => j.ringSet _ _ _ _ _

theorem resetBarrier (k : s0.KeepsTsl s) (cv : CanvasId) (op : Nat) : s0.KeepsTsl (s.resetBarrier cv op) := by
  unfold State.resetBarrier
  split
  · exact k
  · refine (k.onDies _ fun d x => ?_).copy rfl rfl rfl
    split
    next o ho =>
      split
      · exact .of_eq rfl (.setObj _ ho)
      · exact .refl x
    · exact .refl x

theorem abandonOp (k : s0.KeepsTsl s) (cv : CanvasId) (d : DieIx) (frame stripe seq op : Nat) (st : Status) :
    s0.KeepsTsl (s.abandonOp cv d frame stripe seq op st) := by
  cases hc : s.canvas cv with
  | none =>
    simp only [State.abandonOp, hc]
    exact k
  | some c =>
    have hdrop (ds : List DieIx) : s0.KeepsTsl ((s.onCanvas cv (c.endWork cv d seq op st)).onDies ds fun e x =>
        { x.dropItems (c.losesItem cv d seq op) with tsl := x.tsl.cancelItems c.ctx e seq (c.lostOps op) }) :=
      (k.onCanvas cv _).onDies ds fun e x => .of_eq rfl (.cancelItems _ _ _ _ _)
    have hstop (ds : List DieIx) := (hdrop ds).onDies ds fun _ x => Die.KeepsTsl.removeStreams x fun _ y =>
      y.canvas == some cv && y.stepSeq == seq && y.op.any fun o => (c.lostOps op).contains o
    unfold State.abandonOp
    simp only [hc]
    exact ((((hstop _).resetBarrier cv op).ite (hstop _)).foldl fun _ _ j => j.fillHalo _ _ _ _ _ _).foldl fun _ _ j => j.refill _

theorem failItem (k : s0.KeepsTsl s) (id : ItemId) (st : Status) (w : List Nat) : s0.KeepsTsl (s.failItem id st w) := by
  unfold State.failItem
  split
  · exact k
  · split
    · exact k
    · exact k.ite ((k.abandonOp _ _ _ _ _ _ _).postItem _ _ _ _ _ _ _)

theorem endStream (k : s0.KeepsTsl s) (st : StreamId) (why : Status) (w : List Nat) : s0.KeepsTsl (s.endStream st why w) := by
  have k1 := k.onDie st.die (f := fun y => y.removeStreams fun j _ => j == st) (.removeStreams _ _)
  unfold State.endStream
  split
  · exact k
  · refine State.KeepsTsl.refill ?_ st.die
    split
    · exact k1
    · split
      · exact k1
      · refine State.KeepsTsl.postItem ?_ _ _ _ _ _ _ _
        split
        · exact k1.abandonOp _ _ _ _ _ _ _
        · exact k1

theorem failIssuer (k : s0.KeepsTsl s) (cv : Option CanvasId) (q : TslReq) (st : Status) : s0.KeepsTsl (s.failIssuer cv q st) := by
  unfold State.failIssuer
  refine (k.released q st).ite ((k.endStream _ _ _).ite (ite ?_ k))
  split
  · exact k.failItem _ _ _
  · exact k

/-! #### Operations by reference, and contexts -/

theorem applyResult (k : s0.KeepsTsl s) (cv : Option CanvasId) (e : TslReq × TslResult) : s0.KeepsTsl (s.applyResult cv e) := by
  unfold State.applyResult
  split
  · exact k.failIssuer _ _ _
  · exact k.failIssuer _ _ _
  · exact k.ite (k.failIssuer _ _ _)
  · exact (k.released _ _).ite k
  · exact (k.released _ _).ite k
  · exact k
  · exact k

theorem tslOps (k : s0.KeepsTsl s) (d : DieIx) (n : Nat) (ops : List TslReq) : s0.KeepsTsl (s.tslOps d n ops) := by
  unfold State.tslOps
  dsimp only
  split
  · exact k
  · refine ite (k.onDie d (.of_eq rfl ⟨rfl, rfl, id, fun _ => id⟩)) ?_
    have j (cv : Option CanvasId) := (k.tslCycle d n ops).foldl (l := (s.tslCycle d n ops).2) fun _ e j => j.applyResult cv e
    split
    · exact (j _).settleParts _
    · exact j _

theorem poisonCtx (k : s0.KeepsTsl s) (d : DieIx) (ctx : Nat) : s0.KeepsTsl (s.poisonCtx d ctx) := by
  unfold State.poisonCtx
  split
  · exact k
  · exact ((k.onDie d (f := fun x => { x with tsl := ((s.die d).tsl.poison ctx).1 }) (.of_eq rfl (.poison _ _))).countRaise d _
      (by decide) (by decide)).foldl fun _ q j => j.failIssuer _ _ _

end State.KeepsTsl

end

section

/-! ### Fields of a register that is written -/

/-- A field that lies within a field that is replaced. -/
theorem bits_setBits_inside (w : Word) {hi lo hi' lo' : Nat} (v : Nat) (hlo : lo ≤ lo') (hle : lo' ≤ hi') (hhi : hi' ≤ hi)
    (h : hi < 32) :
    bits (setBits w hi lo v) hi' lo' = natBits v (hi' - lo) (lo' - lo) := by
  refine Nat.eq_of_testBit_eq fun i => ?_
  rw [bits, setBits, BitVec.toNat_ofNat, testBit_natBits, testBit_natBits, Nat.testBit_mod_two_pow, testBit_natSetBits]
  by_cases hin : i < hi' + 1 - lo'
  · simp [hin, show lo' + i < 32 by omega, show lo ≤ lo' + i ∧ lo' + i ≤ hi by omega, show i < hi' - lo + 1 - (lo' - lo) by omega,
      show lo' + i - lo = lo' - lo + i by omega]
  · simp [hin, show ¬ i < hi' - lo + 1 - (lo' - lo) by omega]

/-- A field is what its bits are. -/
theorem bits_writeWord {fields : List Field} {old value hw w : Word} {hi lo : Nat}
    (h : ∀ k, lo ≤ k → k ≤ hi →
      (fields.foldl (fun acc f => f.write acc value.toNat hw.toNat) old.toNat).testBit k = w.toNat.testBit k) :
    bits (writeWord fields old value hw) hi lo = bits w hi lo := by
  refine Nat.eq_of_testBit_eq fun i => ?_
  rw [bits, bits, writeWord, BitVec.toNat_ofNat, testBit_natBits, testBit_natBits, Nat.testBit_mod_two_pow]
  by_cases hin : i < hi + 1 - lo
  · rw [h (lo + i) (by omega) (by omega)]
    by_cases hk : lo + i < 32
    · simp [hk]
    · simp [hk, Nat.testBit_lt_two_pow (w.isLt.trans_le (Nat.pow_le_pow_right (by decide) (Nat.not_lt.mp hk)))]
  · simp [hin]

/-- A field that software writes takes the value's bits. -/
theorem bits_writeWord_rw {fields : List Field} {hi lo : Nat}
    (h : ∀ k, lo ≤ k → k ≤ hi →
      (∀ f ∈ fields, f.lo ≤ k → k ≤ f.hi → f.access = .rw) ∧ ∃ f ∈ fields, f.lo ≤ k ∧ k ≤ f.hi)
    (old value hw : Word) : bits (writeWord fields old value hw) hi lo = bits value hi lo :=
  bits_writeWord fun k hlo hhi => testBit_foldl_write
    (fun f hf hl hu _ => Field.testBit_write_rw ((h k hlo hhi).1 f hf hl hu) hl hu _ _ _) (h k hlo hhi).2 _

/-- A field that software does not write stays. -/
theorem bits_writeWord_ro {fields : List Field} {hi lo : Nat}
    (h : ∀ k, lo ≤ k → k ≤ hi → ∀ f ∈ fields, f.lo ≤ k → k ≤ f.hi → f.access = .ro) (old value hw : Word) :
    bits (writeWord fields old value hw) hi lo = bits old hi lo :=
  bits_writeWord fun k hlo hhi => by
    refine List.foldlRecOn (motive := fun w : Nat => w.testBit k = old.toNat.testBit k) fields _ rfl fun w hw f hf => ?_
    by_cases hin : f.lo ≤ k ∧ k ≤ f.hi
    · rw [Field.write, h k hlo hhi f hf hin.1 hin.2, hw]
    · rw [f.testBit_write_out _ _ _ _ hin, hw]

/-! ### Capture (R282) -/

section
variable {s : State} {d : DieIx} {w : Word}

theorem bit_eq_testBit (w : Word) (n : Nat) : bit w n = (bits w n n).testBit 0 := by
  rw [bits, testBit_natBits]
  simp [bit]

/-- The object that a word selects. -/
theorem Tsl.select_eq (t : Tsl) (w : Word) : t.select w = if bit w 31 = false then t.obj (bits w 13 0) else
    (t.ctx (bits w 27 20)).bind fun c => (c.entry (BitVec.ofNat 12 (bits w 11 0))).bind fun e =>
      t.obj (if e.banked then e.base + bits w 30 28 else e.base) := by
  rw [Tsl.select]
  cases bit w 31 with
  | false => rfl
  | true =>
    simp only [if_true, Bool.true_eq_false, if_false]
    cases t.ctx (bits w 27 20) with
    | none => rfl
    | some c =>
      rw [Option.bind_some]
      cases hc : c.entry (BitVec.ofNat 12 (bits w 11 0)) <;> simp only [hc] <;> rfl

/-- The fields of TSL_SEL (Table 10.10). -/
def selFields : List Field :=
  [⟨13, 0, .rw, 0, .none⟩, ⟨27, 20, .rw, 0, .none⟩, ⟨30, 28, .rw, 0, .none⟩, ⟨31, 31, .rw, 0, .none⟩]

theorem fieldsAt_tslSel : fieldsAt Reg.tslSel = selFields := by decide

/-- What a write stores in a field of TSL_SEL. -/
theorem bits_selFields {f : Field} (hf : f ∈ selFields) {hi lo : Nat} (hlo : f.lo ≤ lo) (hhi : hi ≤ f.hi) (old value : Word) :
    bits (writeWord selFields old value 0) hi lo = bits value hi lo := by
  have hrw : ∀ g ∈ selFields, g.access = .rw := by decide
  exact bits_writeWord_rw (fun k hl hu => ⟨fun g hg _ _ => hrw g hg, f, hf, hlo.trans hl, hu.trans hhi⟩) _ _ _

/-- What a write of TSL_SEL selects. -/
theorem Tsl.select_written (t : Tsl) (old value : Word) : t.select (writeWord selFields old value 0) = t.select value := by
  have h {f : Field} (hf : f ∈ selFields) {hi lo : Nat} (hlo : f.lo ≤ lo) (hhi : hi ≤ f.hi) := bits_selFields hf hlo hhi old value
  rw [Tsl.select_eq, Tsl.select_eq, bit_eq_testBit, h (f := ⟨31, 31, .rw, 0, .none⟩) (by decide) (by decide) (by decide), ← bit_eq_testBit,
    h (f := ⟨13, 0, .rw, 0, .none⟩) (by decide) (by decide) (by decide),
    h (f := ⟨13, 0, .rw, 0, .none⟩) (hi := 11) (by decide) (by decide) (by decide),
    h (f := ⟨27, 20, .rw, 0, .none⟩) (by decide) (by decide) (by decide),
    h (f := ⟨30, 28, .rw, 0, .none⟩) (by decide) (by decide) (by decide)]

/-- The registers that return a capture. -/
theorem Die.showCapture_spec (x : Die) : x.showCapture = { x with regs := x.showCapture.regs } ∧
    x.showCapture.reg Reg.tslSel = x.reg Reg.tslSel ∧
    x.showCapture.reg Reg.tslValue = BitVec.ofNat 32 ((x.tsl.capture.obj.map TslObj.value).getD 0) ∧
    x.showCapture.reg Reg.tslWaiters = BitVec.ofNat 32 ((x.tsl.capture.obj.map fun o => o.waiters.length).getD 0) ∧
    x.showCapture.field Reg.tslFlags 0 0 = (if x.tsl.capture.obj.isSome then 1 else 0) ∧
    (x.tsl.capture.obj = none → x.showCapture.reg Reg.tslFlags = 0 ∧ x.showCapture.reg Reg.tslLastUnit = 0 ∧
      x.showCapture.reg Reg.tslLastStep = 0) := by
  refine ⟨rfl, ?_⟩
  unfold Die.showCapture
  cases h : x.tsl.capture.obj with
  | none =>
    simp [Die.field, Die.reg_setReg, Reg.tslSel, Reg.tslValue, Reg.tslWaiters, Reg.tslFlags, Reg.tslLastUnit, Reg.tslLastStep,
      Reg.tslWaiterN, Reg.tslWaiterId, bits, natBits]
  | some o =>
    simp [Die.field, Die.reg_setReg, Reg.tslSel, Reg.tslValue, Reg.tslWaiters, Reg.tslFlags, Reg.tslLastUnit, Reg.tslLastStep,
      Reg.tslWaiterN, Reg.tslWaiterId, bits, natBits]
    omega

/-- A die whose TSL_SEL holds a word and that has captured an object. -/
def Die.selected (x : Die) (w : Word) (pick : Option TslObj) : Die :=
  { x.setReg Reg.tslSel w with tsl := { x.tsl with capture := { obj := pick } } }

theorem Die.reg_selected (x : Die) (w : Word) (pick : Option TslObj) : (x.selected w pick).reg Reg.tslSel = w :=
  (rfl : _ = (x.setReg Reg.tslSel w).reg Reg.tslSel).trans (Die.reg_setReg_same _ _ _)

theorem fxTslSelWrite_eq (s : State) (d : DieIx) (w : Word) : fxTslSelWrite d w s = s.onDie d fun x =>
    (x.selected (writeWord selFields (x.reg Reg.tslSel) w 0) ((s.tslSeen d).select w)).showCapture := by
  unfold fxTslSelWrite
  rw [fieldsAt_tslSel]
  simp only [Tsl.select_written]
  rfl

theorem fxTslSelWrite_spec (w : Word) (hp : s.present d = true) :
    let t := fxTslSelWrite d w s
    let pick := (s.tslSeen d).select w
    s.OnlyDie t d ∧ (t.die d).tsl = { (s.die d).tsl with capture := { obj := pick } } ∧
      t.reg d Reg.tslValue = BitVec.ofNat 32 ((pick.map TslObj.value).getD 0) ∧
      t.reg d Reg.tslWaiters = BitVec.ofNat 32 ((pick.map fun o => o.waiters.length).getD 0) ∧
      t.field d Reg.tslFlags 0 0 = (if pick.isSome then 1 else 0) ∧
      (pick = none → t.reg d Reg.tslFlags = 0 ∧ t.reg d Reg.tslLastUnit = 0 ∧ t.reg d Reg.tslLastStep = 0) ∧
      t.field d Reg.tslSel 13 0 = bits w 13 0 := by
  intro t pick
  let y := (s.die d).selected (writeWord selFields ((s.die d).reg Reg.tslSel) w 0) pick
  have ht : t.die d = y.showCapture := by rw [show t = _ from fxTslSelWrite_eq s d w, s.die_onDie_same d hp]
  obtain ⟨hframe, hsel, hvalue, hwaiters, hflags, hnone⟩ := y.showCapture_spec
  have hdie : s.OnlyDie t d := by
    rw [show t = _ from fxTslSelWrite_eq s d w]
    exact s.onlyDie_onDie d _
  simp only [State.reg, State.field, ht]
  refine ⟨hdie, congrArg Die.tsl hframe, hvalue, hwaiters, hflags, hnone, ?_⟩
  rw [Die.field, hsel, Die.reg_selected]
  exact bits_selFields (f := ⟨13, 0, .rw, 0, .none⟩) (by decide) (by decide) (by decide) _ _

/-! ### Dump (R283) -/

/-- A Turnstile memory whose operations a dump holds, where it says so. -/
def Tsl.frozenIf (t : Tsl) (b : Bool) : Tsl := { t with frozen := t.frozen || b }

/-- A state in which a dump holds the Turnstile operations of some dies. -/
def State.freeze (s : State) (l : List DieIx) : State := s.onDies l fun _ x => { x with tsl := { x.tsl with frozen := true } }

theorem State.freeze_spec (l : List DieIx) (s : State) : s.freeze l = { s with dies := (s.freeze l).dies } ∧
    ∀ e, (s.freeze l).die e = { s.die e with tsl := (s.die e).tsl.frozenIf (decide (e ∈ l) && s.present e) } := by
  induction l generalizing s with
  | nil => exact ⟨rfl, fun e => by simp [State.freeze, State.onDies, Tsl.frozenIf]⟩
  | cons d rest ih =>
    obtain ⟨hframe, hdie⟩ := ih (s.onDie d fun x => { x with tsl := { x.tsl with frozen := true } })
    refine ⟨hframe, fun e => (hdie e).trans ?_⟩
    rw [State.die_onDie, State.onDie_present]
    by_cases he : d = e
    · subst he
      cases hp : s.present d <;> simp [Tsl.frozenIf]
    · simp [he, Ne.symm he]

/-- TSL_DUMP_CTRL (Table 10.10). -/
def ctrlFields : List Field :=
  [⟨0, 0, .wo, 0, .none⟩, ⟨1, 1, .rw, 0, .none⟩, ⟨2, 2, .rw, 0, .none⟩, ⟨3, 3, .ro, 0, .none⟩, ⟨11, 4, .ro, 0, .none⟩]

theorem fieldsAt_tslDumpCtrl : fieldsAt Reg.tslDumpCtrl = ctrlFields := by decide

/-- A write does not change BUSY. -/
theorem bits_ctrlFields (old value : Word) : bits (writeWord ctrlFields old value 0) 3 3 = bits old 3 3 := by
  have hro : ∀ f ∈ ctrlFields, f.lo ≤ 3 → 3 ≤ f.hi → f.access = .ro := by decide
  refine bits_writeWord_ro (fun k hlo hhi f hf => ?_) _ _ _
  obtain rfl : k = 3 := Nat.le_antisymm hhi hlo
  exact hro f hf

/-- A state in which a write of TSL_DUMP_CTRL has stored its fields. -/
def State.ctrlStored (s : State) (d : DieIx) (w : Word) : State :=
  s.onDie d fun x => x.setReg Reg.tslDumpCtrl (writeWord ctrlFields (x.reg Reg.tslDumpCtrl) w 0)

/-- A die that has started a dump. -/
def Die.dumping (x : Die) (p : TslDump) : Die := { x.setField Reg.tslDumpCtrl 3 3 1 with tsl := { x.tsl with dump := some p } }

theorem Die.field_dumping (x : Die) (p : TslDump) : (x.dumping p).field Reg.tslDumpCtrl 3 3 = 1 := by
  have h : (x.dumping p).reg Reg.tslDumpCtrl = (x.setField Reg.tslDumpCtrl 3 3 1).reg Reg.tslDumpCtrl := rfl
  rw [Die.field, h, Die.reg_setField, if_pos rfl, bits_setBits _ _ _ (by decide)]
  rfl

/-- The dies that a GO dumps. -/
def State.dumpDies (s : State) (d : DieIx) (w : Word) : List DieIx := if bit w 1 && d == 0 then s.dieList else [d]

/-- The buffer of a dump lies in the PF's window. -/
def State.dumpFits (s : State) (d : DieIx) : Bool :=
  (s.host.fn 0).inWindow ((s.reg d Reg.tslDumpAddrLo).toNat + 2 ^ 32 * (s.reg d Reg.tslDumpAddrHi).toNat)
    (max (s.reg d Reg.tslDumpLen).toNat 1)

theorem State.mem_dieList {e : DieIx} : e ∈ s.dieList ↔ s.present e = true := by simp [State.dieList]

theorem State.self_mem_dumpDies (hp : s.present d = true) : d ∈ s.dumpDies d w := by
  rw [State.dumpDies]
  split
  · exact State.mem_dieList.mpr hp
  · exact List.mem_singleton_self d

/-- The dies that a GO freezes. -/
def State.heldDies (s : State) (d : DieIx) (w : Word) : List DieIx := if bit w 2 && s.dumpFits d then s.dumpDies d w else []

theorem State.mem_heldDies {e : DieIx} : e ∈ s.heldDies d w ↔ bit w 2 = true ∧ s.dumpFits d = true ∧ e ∈ s.dumpDies d w := by
  rw [State.heldDies]
  split <;> simp_all

theorem fxTslDumpGo_stores (h : bit w 0 = false ∨ s.field d Reg.tslDumpCtrl 3 3 = 1) : fxTslDumpGo d w s = s.ctrlStored d w := by
  unfold fxTslDumpGo
  rw [fieldsAt_tslDumpCtrl]
  exact if_pos (h.imp_right beq_iff_eq.mpr)

theorem fxTslDumpGo_starts (hw : bit w 0 = true) (hb : s.field d Reg.tslDumpCtrl 3 3 ≠ 1) :
    ∃ p : TslDump, (s.dumpFits d = false → p.status = .hostRange ∧ p.bytes = []) ∧ fxTslDumpGo d w s =
      ((s.ctrlStored d w).freeze (s.heldDies d w)).onDie d fun x => x.dumping p := by
  unfold fxTslDumpGo
  rw [fieldsAt_tslDumpCtrl]
  dsimp only
  rw [if_neg (by simp [hw, hb])]
  refine ⟨_, fun h => ?_, by rw [← State.ctrlStored, Bool.not_not]; rfl⟩
  rw [State.dumpFits] at h
  simp only [h, Bool.not_false, if_true, and_self]

theorem State.ctrlStored_spec (w : Word) (hp : s.present d = true) : s.OnlyDie (s.ctrlStored d w) d ∧
    (s.die d).OnlyRegs ((s.ctrlStored d w).die d) [Reg.tslDumpCtrl] ∧
    (s.ctrlStored d w).field d Reg.tslDumpCtrl 3 3 = s.field d Reg.tslDumpCtrl 3 3 := by
  have hdie : (s.ctrlStored d w).die d = _ := s.die_onDie_same d hp
  refine ⟨s.onlyDie_onDie d _, hdie ▸ (s.die d).onlyRegs_setReg _ _, ?_⟩
  rw [State.field, hdie, Die.field, Die.reg_setReg_same]
  exact bits_ctrlFields _ _

/-- What a GO that starts a dump does. -/
theorem fxTslDumpGo_spec (hp : s.present d = true) (hw : bit w 0 = true) (hb : s.field d Reg.tslDumpCtrl 3 3 ≠ 1) :
    let t := fxTslDumpGo d w s
    t = { s with dies := t.dies } ∧ (∀ e, (t.die e).tsl.objs = (s.die e).tsl.objs) ∧ t.field d Reg.tslDumpCtrl 3 3 = 1 ∧
      (∃ p, (t.die d).tsl.dump = some p ∧ (s.dumpFits d = false → p.status = .hostRange ∧ p.bytes = [])) ∧
      ∀ e, (t.die e).tsl.frozen =
        ((s.die e).tsl.frozen || (decide (bit w 2 = true ∧ s.dumpFits d = true ∧ e ∈ s.dumpDies d w) && s.present e)) := by
  intro t
  obtain ⟨p, hbad, ht⟩ := fxTslDumpGo_starts hw hb
  replace ht : t = _ := ht
  let u := (s.ctrlStored d w).freeze (s.heldDies d w)
  obtain ⟨hframe, hfreeze⟩ : u = { s.ctrlStored d w with dies := u.dies } ∧ _ := State.freeze_spec _ _
  have hctrl (e : DieIx) : ((s.ctrlStored d w).die e).tsl = (s.die e).tsl := by
    rw [State.ctrlStored, State.die_onDie]
    split
    next h => rw [h.1]; rfl
    next => rfl
  have hu : u.present d = true := by rw [hframe]; exact hp
  have hd : t.die d = (u.die d).dumping p := by rw [ht]; exact u.die_onDie_same d hu
  have hrest (e : DieIx) : (t.die e).tsl.objs = (u.die e).tsl.objs ∧ (t.die e).tsl.frozen = (u.die e).tsl.frozen := by
    by_cases he : d = e
    · subst he
      rw [hd]
      exact ⟨rfl, rfl⟩
    · rw [ht, State.die_onDie_ne _ _ _ he]
      exact ⟨rfl, rfl⟩
  refine ⟨?_, fun e => ?_, ?_, ⟨p, by rw [hd]; rfl, hbad⟩, fun e => ?_⟩
  · rw [ht, show (s.ctrlStored d w).freeze _ = u from rfl, hframe]
    rfl
  · rw [(hrest e).1, hfreeze, ← hctrl]
    rfl
  · rw [State.field, hd, Die.field_dumping]
  · rw [(hrest e).2, hfreeze, ← hctrl, Tsl.frozenIf]
    simp only [State.mem_heldDies]
    rfl

/-! ### The end of a dump (R283) -/

/-- A die whose dump has ended. -/
def Die.dumped (x : Die) (p : TslDump) : Die :=
  { (x.setField Reg.tslDumpCtrl 11 3 (2 * p.status.code)).setReg Reg.tslDumpBytes (BitVec.ofNat 32 p.bytes.length) with
    tsl := { x.tsl with dump := none } }

theorem Die.dumped_spec (x : Die) (p : TslDump) : (x.dumped p).field Reg.tslDumpCtrl 3 3 = 0 ∧
    (x.dumped p).field Reg.tslDumpCtrl 11 4 = p.status.code ∧ (x.dumped p).reg Reg.tslDumpBytes = BitVec.ofNat 32 p.bytes.length ∧
    (x.dumped p).reg (Reg.tslEvt + 4) = x.reg (Reg.tslEvt + 4) := by
  have h (k : Nat) : (x.dumped p).reg k =
    ((x.setField Reg.tslDumpCtrl 11 3 (2 * p.status.code)).setReg Reg.tslDumpBytes (BitVec.ofNat 32 p.bytes.length)).reg k := rfl
  have hctrl : (x.dumped p).reg Reg.tslDumpCtrl = setBits (x.reg Reg.tslDumpCtrl) 11 3 (2 * p.status.code) := by
    rw [h, Die.reg_setReg_ne _ _ (by decide), Die.reg_setField, if_pos rfl]
  refine ⟨?_, ?_, ?_, ?_⟩
  · rw [Die.field, hctrl, bits_setBits_inside _ _ (by decide) (by decide) (by decide) (by decide), natBits]
    omega
  · rw [Die.field, hctrl, bits_setBits_inside _ _ (by decide) (by decide) (by decide) (by decide), natBits]
    cases p.status <;> decide
  · rw [h, Die.reg_setReg_same]
  · rw [h, Die.reg_setReg_ne _ _ (by decide), Die.reg_setField, if_neg (by decide)]

/-- Work that a dump held takes up. -/
theorem State.KeepsTsl.unfreeze {s0 : State} (k : s0.KeepsTsl s) (d : DieIx) : s0.KeepsTsl (s.unfreeze d) :=
  (k.onDie d (.of_eq rfl ⟨rfl, rfl, fun e => absurd e Bool.false_ne_true, fun _ => id⟩)).foldl fun _ e j => j.tslOps d e.1 e.2

theorem State.frozen_unfreeze (hp : s.present d = true) : ((s.unfreeze d).die d).tsl.frozen = false := by
  have k : (s.onDie d fun x => { x with tsl := { x.tsl with frozen := false, held := [] } }).KeepsTsl (s.unfreeze d) :=
    State.KeepsTsl.foldl (.refl _) fun _ e j => j.tslOps d e.1 e.2
  have h := (k.dies d).tsl.frozen
  rw [s.die_onDie_same d hp] at h
  exact Bool.eq_false_iff.mpr fun e => Bool.false_ne_true (h e)

theorem State.unfreeze_of_held_nil (h : (s.die d).tsl.held = []) :
    s.unfreeze d = s.onDie d fun x => { x with tsl := { x.tsl with frozen := false, held := [] } } := by
  rw [State.unfreeze, h]
  rfl

/-- A state in which the dump of a die has been written and has ended. -/
def State.dumped (s : State) (d : DieIx) (p : TslDump) : State := (s.onHost fun h => h.write p.addr p.bytes).onDie d fun x => x.dumped p

/-- Another dump still freezes a die. -/
def State.stillFrozen (s : State) (e : DieIx) : Bool :=
  s.dieList.any fun k => (s.die k).tsl.dump.any fun q => q.freeze && q.dies.contains e

/-- The dies of a dump that no other dump freezes take up their work. -/
def State.thaw (s : State) (l : List DieIx) : State :=
  l.foldl (fun t e => if (t.die e).tsl.frozen && !s.stillFrozen e then t.unfreeze e else t) s

theorem fxDumpDone_eq {p : TslDump} (h : (s.die d).tsl.dump = some p) :
    fxDumpDone d s = ((s.dumped d p).thaw p.dies).raise d Reg.tslEvt 0x20 := by
  unfold fxDumpDone
  rw [h]
  rfl

variable {p : TslDump}

theorem State.KeepsTsl.thaw (s : State) (l : List DieIx) : s.KeepsTsl (s.thaw l) :=
  State.KeepsTsl.foldl (.refl s) fun _ e j => (j.unfreeze e).ite j

/-- Each of the dies is frozen no more, where no other dump freezes it. -/
theorem State.frozen_thaw {l : List DieIx} {e : DieIx} (he : e ∈ l) (hp : s.present e = true) (hfree : s.stillFrozen e = false) :
    ((s.thaw l).die e).tsl.frozen = false := by
  have keep {t u : State} (k : t.KeepsTsl u) (h : (t.die e).tsl.frozen = false) : (u.die e).tsl.frozen = false :=
    Bool.eq_false_iff.mpr fun hu => Bool.eq_false_iff.mp h ((k.dies e).tsl.frozen hu)
  have step (t : State) (b : DieIx) : t.KeepsTsl (if (t.die b).tsl.frozen && !s.stillFrozen b then t.unfreeze b else t) :=
    ((State.KeepsTsl.refl t).unfreeze b).ite (.refl t)
  refine foldl_reaches (P := s.KeepsTsl) he (fun t b _ k => k.trans (step t b)) (fun t b _ h => keep (step t b) h) (fun t k => ?_) (.refl s)
  rw [hfree, Bool.not_false, Bool.and_true]
  split
  · exact State.frozen_unfreeze ((k.present e).trans hp)
  next h => exact Bool.eq_false_iff.mpr h

/-- Where no die holds operations, the end of a dump changes no object. -/
theorem State.thaw_of_held_nil (l : List DieIx) (h : ∀ e, (s.die e).tsl.held = []) :
    s.thaw l = { s with dies := (s.thaw l).dies } ∧ ∀ e, ((s.thaw l).die e).tsl.objs = (s.die e).tsl.objs := by
  have hall : s.thaw l = { s with dies := (s.thaw l).dies } ∧ ∀ e, ((s.thaw l).die e).tsl.objs = (s.die e).tsl.objs ∧
      ((s.thaw l).die e).tsl.held = [] := by
    refine foldl_inv (P := fun t : State => t = { s with dies := t.dies } ∧ ∀ e, (t.die e).tsl.objs = (s.die e).tsl.objs ∧
      (t.die e).tsl.held = []) (fun t b ⟨hframe, hdie⟩ => ?_) ⟨rfl, fun e => ⟨rfl, h e⟩⟩
    split
    · rw [State.unfreeze_of_held_nil (hdie b).2]
      refine ⟨by rw [hframe]; rfl, fun e => ?_⟩
      rw [State.die_onDie]
      split
      next he => exact ⟨(hdie b).1.trans (by rw [he.1]), rfl⟩
      next => exact hdie e
    · exact ⟨hframe, hdie⟩
  exact ⟨hall.1, fun e => (hall.2 e).1⟩

/-- A flag that rises where its enable bit is 0 reports nothing. -/
theorem State.hostMem_raise {evt mask : Nat} (h : BitVec.ofNat 32 mask &&& s.reg d (evt + 4) = 0) :
    (s.raise d evt mask).hostMem = s.hostMem := by
  have hrose : BitVec.ofNat 32 mask &&& ~~~ s.reg d evt &&& s.reg d (evt + 4) = 0 := by
    rw [BitVec.and_assoc, BitVec.and_comm (~~~ _), ← BitVec.and_assoc, h]
    exact BitVec.zero_and
  simp only [State.raise, hrose]
  rfl

theorem fxDumpDone_spec (hp : s.present d = true) (h : (s.die d).tsl.dump = some p) :
    let t := fxDumpDone d s
    (t.die d).tsl.dump = none ∧ t.field d Reg.tslDumpCtrl 3 3 = 0 ∧ t.field d Reg.tslDumpCtrl 11 4 = p.status.code ∧
      t.reg d Reg.tslDumpBytes = BitVec.ofNat 32 p.bytes.length ∧ (t.reg d Reg.tslEvt).getLsbD 5 = true ∧
      ((∀ e, e ≠ d → (s.die e).tsl.dump = none) → ∀ e ∈ p.dies, s.present e = true → (t.die e).tsl.frozen = false) ∧
      ((∀ e, (s.die e).tsl.held = []) → (∀ e, (t.die e).tsl.objs = (s.die e).tsl.objs) ∧
        ((s.reg d (Reg.tslEvt + 4)).getLsbD 5 = false → t.hostMem = sSetRange zeroByte s.hostMem p.addr p.bytes)) := by
  intro t
  have ht : t = ((s.dumped d p).thaw p.dies).raise d Reg.tslEvt 0x20 := fxDumpDone_eq h
  have k := State.KeepsTsl.thaw (s.dumped d p) p.dies
  have hd : (s.dumped d p).die d = (s.die d).dumped p := State.die_onDie_same _ d hp
  have hother (e : DieIx) : ((s.dumped d p).die e).tsl = { (s.die e).tsl with dump := if e = d then none else (s.die e).tsl.dump } := by
    by_cases he : e = d
    · rw [he, hd, if_pos rfl]
      rfl
    · rw [State.dumped, State.die_onDie_ne _ _ _ (Ne.symm he), if_neg he]
      rfl
  obtain ⟨hbusy, hstatus, hbytes, henable⟩ := (s.die d).dumped_spec p
  have htsl (e : DieIx) : (t.die e).tsl = (((s.dumped d p).thaw p.dies).die e).tsl := by
    rw [ht, State.die_raise, State.die_setReg]
    split
    next he => rw [he.1]; rfl
    next => rfl
  have hreg (off : Nat) (ho : IsDumpReg off) : t.reg d off = ((s.die d).dumped p).reg off := by
    have hne : Reg.tslEvt ≠ off := by obtain rfl | rfl | rfl := ho <;> decide
    rw [ht, State.reg_raise, if_neg fun c => hne c.2.2, State.reg, (k.dies d).regs off ho, hd]
  refine ⟨?_, ?_, ?_, (hreg _ (by decide)).trans hbytes, ?_, fun hdump e he hpe => ?_, fun hheld => ?_⟩
  · rw [htsl, (k.dies d).tsl.dump, hother, if_pos rfl]
  · rw [State.field, Die.field, ← State.reg, hreg _ (by decide)]
    exact hbusy
  · rw [State.field, Die.field, ← State.reg, hreg _ (by decide)]
    exact hstatus
  · rw [ht]
    exact State.getLsbD_raise_same _ _ ((k.present d).trans hp) (by decide)
  · have hnone (b : DieIx) : ((s.dumped d p).die b).tsl.dump = none := by
      rw [hother]
      by_cases hb : b = d
      · exact if_pos hb
      · exact (if_neg hb).trans (hdump b hb)
    rw [htsl]
    exact State.frozen_thaw he hpe (List.any_eq_false.mpr fun b _ => by simp [hnone])
  · obtain ⟨hframe, hobjs⟩ := (s.dumped d p).thaw_of_held_nil p.dies fun e => (congrArg Tsl.held (hother e)).trans (hheld e)
    refine ⟨fun e => ?_, fun hen => ?_⟩
    · rw [htsl, hobjs, hother]
    · have hmask : BitVec.ofNat 32 0x20 &&& ((s.dumped d p).thaw p.dies).reg d (Reg.tslEvt + 4) = 0 := by
        rw [State.reg, (k.dies d).regs _ (by decide), hd, henable, BitVec.and_comm]
        refine (BitVec.and_twoPow _ 5).trans ?_
        rw [State.reg] at hen
        rw [hen]
        rfl
      rw [ht, State.hostMem_raise hmask, hframe]
      rfl

end

/-- Settles O39: a capture, a GO and the end of a dump are each an update of the die, and work that a dump held keeps what it reports. -/
theorem turnstileCaptureAndDump : Obligations.turnstile_capture_and_dump := by
  unfold Obligations.turnstile_capture_and_dump
  intro s d hp x seen
  refine ⟨fun w => ?_, fun w => ⟨fun h => ?_, fun hw hb => ?_⟩, fun h => ?_, fun p h => ⟨_, rfl, fxDumpDone_spec hp h⟩⟩
  · refine ⟨_, rfl, ?_⟩
    rw [← Tsl.select_eq]
    exact fxTslSelWrite_spec w hp
  · exact ⟨_, congrArg Host.Outcome.next (fxTslDumpGo_stores h), State.ctrlStored_spec w hp⟩
  · obtain ⟨hframe, hobjs, hbusy, hdump, hfrozen⟩ := fxTslDumpGo_spec hp hw (by rw [hb]; decide)
    refine ⟨_, rfl, hframe, hobjs, hbusy, hdump, fun hfreeze hgood => ⟨?_, fun hall hd e he => ?_⟩, fun hno e => ?_⟩
    · rw [hfrozen, decide_eq_true ⟨hfreeze, hgood, State.self_mem_dumpDies hp⟩, hp]
      exact Bool.or_true _
    · have hmem : e ∈ s.dumpDies d w := by
        rw [State.dumpDies, if_pos (by simp [hall, hd])]
        exact State.mem_dieList.mpr he
      rw [hfrozen, decide_eq_true ⟨hfreeze, hgood, hmem⟩, he]
      exact Bool.or_true _
    · rw [hfrozen, decide_eq_false fun c => ?_]
      · exact Bool.or_false _
      · obtain h2 | hbad := hno
        · exact Bool.false_ne_true (h2.symm.trans c.1)
        · exact Bool.false_ne_true (hbad.symm.trans c.2.1)
  · exact ⟨_, congrArg Host.Outcome.next (by rw [fxDumpDone, h]), rfl⟩

end

section

/-! ### Descriptors that start -/

theorem HostSide.queue_onQueue_same {k : HostSide} {f : FnIx} {q : Nat} {x : Queue} {g : Queue → Queue} (hx : k.queue f q = some x)
    (hg : (g x).id = x.id) : (k.onQueue f q g).queue f q = some (g x) := by
  have hid : (x.id == q) = true := List.find?_some (p := fun y : Queue => y.id == q) hx
  rw [HostSide.queue, HostSide.onQueue, HostSide.fn_onFn_same]
  exact find?_updFirst_of_find? hx hid (fun _ => id) (by rw [hg]; exact hid)

/-- What an SQ holds of a descriptor that has started. -/
def DescEnd.begun (e : DescEnd) (h : DescHdr) : Current :=
  match e with
  | .done c => { tag := h.tag, quiet := h.quiet, await := none, done := some c }
  | .await a => { tag := h.tag, quiet := h.quiet, await := some a, done := none }

/-- The state with the descriptor of a header in progress. -/
def State.begun (s : State) (h : DescHdr) (e : DescEnd) : State := s.onHost fun x => x.begin_ h e

section
variable {s t : State} {h : DescHdr} {q : Queue} {e : DescEnd}

/-- The SQ of a descriptor that starts. -/
theorem State.Starts.queue (hs : s.Starts h q) : s.host.queue h.func h.sq = some q := by
  obtain ⟨hq, -⟩ := hs
  rw [HostSide.startable] at hq
  split at hq
  · cases hq
  next x hx =>
    obtain ⟨-, he⟩ := Option.ite_none_right_eq_some.mp hq
    rw [hx, he]

theorem State.begun_queue {x : Queue} (hx : s.host.queue h.func h.sq = some x) :
    (s.begun h e).host.queue h.func h.sq = some { x with cur := some (e.begun h) } := HostSide.queue_onQueue_same hx rfl

theorem State.begun_current (hx : (s.host.queue h.func h.sq).isSome) : (s.begun h e).current h = some (e.begun h) := by
  obtain ⟨x, hx⟩ := Option.isSome_iff_exists.mp hx
  rw [State.current, State.begun_queue hx]
  rfl

theorem State.begun_st (hs : s.Starts h q) (st : Status) :
    s.begun h (.st st) = { s with fns := (s.begun h (.st st)).fns } ∧ (s.begun h (.st st)).current h = doneAs h st 0 [] :=
  ⟨rfl, State.begun_current (by rw [hs.queue]; rfl)⟩

variable {admin ok : Bool} {act : State → Queue → State × DescEnd} {f : State → Queue → Except Status State}

/-- A descriptor with a field out of its range. -/
theorem State.descriptor_bad (hs : s.Starts h q) (hok : ok = false) : s.descriptor h 0 admin ok act = s.begun h (.st .badDesc) := by
  obtain ⟨hq, hrun, -⟩ := hs
  rw [State.descriptor, hq]
  dsimp only
  rw [if_neg (by simp [hrun]), if_pos (.inr (.inl hok))]
  rfl

/-- A descriptor that its SQ takes, with every field in its range. -/
theorem State.descriptor_good (hs : s.Starts h q) (hok : ok = true) (ha : admin = true → h.sq = 0) :
    s.descriptor h 0 admin ok act = (act s q).1.begun h (act s q).2 := by
  obtain ⟨hq, hrun, hresv⟩ := hs
  rw [State.descriptor, hq]
  dsimp only
  rw [if_neg (by simp [hrun]), if_neg (by simpa [hok, hresv] using ha)]
  rfl

theorem State.simple_bad (hs : s.Starts h q) (hok : ok = false) : s.simple h admin ok f = s.begun h (.st .badDesc) :=
  State.descriptor_bad hs hok

theorem State.simple_error {st : Status} (hs : s.Starts h q) (hok : ok = true) (ha : admin = true → h.sq = 0)
    (hf : f s q = .error st) : s.simple h admin ok f = s.begun h (.st st) := by
  rw [State.simple, State.descriptor_good hs hok ha, hf]

theorem State.simple_ok (hs : s.Starts h q) (hok : ok = true) (ha : admin = true → h.sq = 0) (hf : f s q = .ok t) :
    s.simple h admin ok f = t.begun h (.st .ok) := by
  rw [State.simple, State.descriptor_good hs hok ha, hf]

end

end

section

/-! ### An operation of a queue on an object that nothing waits on -/

theorem State.sendGaide_sides (s : State) (ms : List GaideMsg) : (s.sendGaide ms).dies = s.dies ∧ (s.sendGaide ms).host = s.host :=
  foldl_inv (P := fun t : State => t.dies = s.dies ∧ t.host = s.host) (fun _ _ h => h) ⟨rfl, rfl⟩

theorem State.settleParts_sides (s : State) (cv : CanvasId) : (s.settleParts cv).dies = s.dies ∧ (s.settleParts cv).host = s.host := by
  rw [State.settleParts]
  split
  · exact ⟨rfl, rfl⟩
  · exact State.sendGaide_sides _ _

theorem State.barrierArrive_eq_self {s : State} {d : DieIx} {n : Nat} (h : ∀ b ∈ s.barriers, ∀ i : Fin 8, b.arr[i.val] ≠ n) :
    s.barrierArrive d n = s := by
  rw [State.barrierArrive, List.find?_eq_none.mpr fun b hb => by simp [h b hb d]]

/-- What the operations of a cycle do to their issuers; the parts that they complete change no die and nothing of the host's side. -/
theorem State.tslOps_sides {s : State} {d : DieIx} {n : Nat} {o : TslObj} {ops : List TslReq} (ho : (s.die d).tsl.obj n = some o)
    (hz : (s.die d).tsl.frozen = false) :
    let t := (s.tslCycle d n ops).2.foldl (fun t e => t.applyResult (s.ctxCanvas d o.ctx) e) (s.tslCycle d n ops).1
    (s.tslOps d n ops).dies = t.dies ∧ (s.tslOps d n ops).host = t.host := by
  rw [State.tslOps, ho]
  dsimp only
  rw [if_neg (by simp [hz])]
  cases s.ctxCanvas d o.ctx with
  | none => exact ⟨rfl, rfl⟩
  | some c => exact State.settleParts_sides _ c

section
variable {s : State} {d : DieIx} {n : Nat} {o p : TslObj} {q : TslReq} {r : TslResult}

theorem State.released_queue (s : State) {st : Status} (hq : q.iss.cls.val = 8) : 
    s.released q st = { s with fns := (s.released q st).fns } := by
  simp only [State.released, if_pos hq]
  rfl

/-- The state with an object set. -/
def State.withObj (s : State) (d : DieIx) (n : Nat) (p : TslObj) : State := s.onDie d fun x => { x with tsl := x.tsl.setObj n p }

theorem State.released_withObj {st : Status} (hq : q.iss.cls.val = 8) : ((s.withObj d n p).released q st).dies = (s.withObj d n p).dies ∧
    ((s.withObj d n p).released q st).host = (s.released q st).host := by
  simp only [State.released, if_pos hq]
  exact ⟨rfl, rfl⟩

/-- A cycle with the operation of a queue alone. -/
theorem State.tslCycle_alone (ho : (s.die d).tsl.obj n = some o) (hq : q.iss.cls.val = 8)
    (hb : ∀ b ∈ s.barriers, ∀ i : Fin 8, b.arr[i.val] ≠ n)
    (hres : o.resolve [q] s.gsc (4096 - (s.die d).tsl.hostWaiters) = { obj := p, results := [(q, r)] })
    (hr : r = .proceeds .ok ∨ r = .applied ∨ r = .queued) :
    s.tslCycle d n [q] = (if r = .proceeds .ok then (s.withObj d n p).released q .ok else s.withObj d n p, [(q, r)]) := by
  have harrive (t : State) (h : t.barriers = s.barriers) : t.barrierArrive d n = t := State.barrierArrive_eq_self (by rwa [h])
  have hrel : ((s.withObj d n p).released q .ok).barriers = s.barriers := by
    rw [State.released_queue _ hq]
    rfl
  rw [State.tslCycle, ho]
  simp only [hres, List.foldl_cons, List.foldl_nil]
  obtain rfl | rfl | rfl := hr
  · rw [if_pos rfl]
    exact congrArg (·, _) (harrive _ hrel)
  · exact congrArg (·, _) (harrive _ rfl)
  · exact congrArg (·, _) (harrive _ rfl)

/-- The operation of a queue alone on an object: its descriptor is done where the operation takes effect. -/
theorem State.tslOps_alone (ho : (s.die d).tsl.obj n = some o) (hz : (s.die d).tsl.frozen = false) (hq : q.iss.cls.val = 8)
    (hb : ∀ b ∈ s.barriers, ∀ i : Fin 8, b.arr[i.val] ≠ n)
    (hres : o.resolve [q] s.gsc (4096 - (s.die d).tsl.hostWaiters) = { obj := p, results := [(q, r)] })
    (hr : r = .proceeds .ok ∨ r = .applied ∨ r = .queued) :
    (s.tslOps d n [q]).dies = (s.withObj d n p).dies ∧
      (s.tslOps d n [q]).host = if r = .queued then s.host else (s.released q .ok).host := by
  have hsides := State.tslOps_sides (ops := [q]) ho hz
  rw [State.tslCycle_alone ho hq hb hres hr] at hsides
  have hrel := State.released_withObj (s := s) (d := d) (n := n) (p := p) (st := .ok) hq
  obtain rfl | rfl | rfl := hr
  · simp only [List.foldl_cons, List.foldl_nil, State.applyResult, true_or, if_true] at hsides
    exact ⟨hsides.1.trans hrel.1, hsides.2.trans hrel.2⟩
  · simp only [List.foldl_cons, List.foldl_nil, State.applyResult, hq, if_true] at hsides
    exact ⟨hsides.1.trans hrel.1, hsides.2.trans hrel.2⟩
  · exact hsides

end

end

section

/-! ### A wait alone (R260, R261) -/

section
variable {o : TslObj} {q : TslReq} {n : Nat} (gsc : Nat) {free : Nat}

/-- A WAIT_GE alone that VALUE reaches. -/
theorem TslObj.resolve_waitGe_reached (hp : o.poison = false) (hw : o.waiters = []) (hr : o.retry = []) (hq : q.op = .waitGe n)
    (hn : n ≤ o.value) :
    o.resolve [q] gsc free = { obj := { o with waiters := [], retry := [] }, results := [(q, .proceeds .ok)] } := by
  rw [TslObj.resolve, if_neg (by simp [hp])]
  by_cases hz : n = 0
  · simp [sortReqs, insertReq, hq, hw, hr, opChanges, opWaitsForZero, hz, TslObj.changeAll, takeSubs]
  · simp [sortReqs, insertReq, hq, hw, hr, opChanges, opWaitsForZero, hz, hn, TslObj.changeAll, takeSubs, reqGeFits]

/-- A WAIT_SUB alone that VALUE reaches. -/
theorem TslObj.resolve_waitSub_reached (hp : o.poison = false) (hw : o.waiters = []) (hr : o.retry = []) (hq : q.op = .waitSub n)
    (hn : n ≤ o.value) : o.resolve [q] gsc free =
      { obj := { o with value := o.value - n, waiters := [], retry := [] }, results := [(q, .proceeds .ok)] } := by
  rw [TslObj.resolve, if_neg (by simp [hp])]
  by_cases hz : n = 0
  · simp [sortReqs, insertReq, hq, hw, hr, opChanges, opWaitsForZero, hz, TslObj.changeAll, takeSubs]
  · simp [sortReqs, insertReq, hq, hw, hr, opChanges, opWaitsForZero, hz, hn, TslObj.changeAll, takeSubs, reqGeFits]

/-- A wait alone that VALUE does not reach, where the die has a record for it. -/
theorem TslObj.resolve_wait_queued (hp : o.poison = false) (hw : o.waiters = []) (hr : o.retry = [])
    (hq : q.op = .waitGe n ∨ q.op = .waitSub n) (hn : o.value < n) (hf : 0 < free) :
    o.resolve [q] gsc free = { obj := { o with waiters := [⟨q⟩], retry := [] }, results := [(q, .queued)] } := by
  rw [TslObj.resolve, if_neg (by simp [hp])]
  have hz : n ≠ 0 := by omega
  have hle : ¬ n ≤ o.value := by omega
  have hfree : free ≠ 0 := by omega
  obtain hq | hq := hq <;>
  simp [sortReqs, insertReq, hq, hw, hr, opChanges, opWaitsForZero, hz, hle, hfree, TslObj.changeAll, takeSubs, reqGeFits]

end

/-! ### The operation of a descriptor -/

section
variable {u : State} {h : DescHdr} {x : Queue} {d e : DieIx} {op : TslOp}

theorem State.current_of_queue (hx : u.host.queue h.func h.sq = some x) : u.current h = x.cur := by
  rw [State.current, hx]
  rfl

/-- A queue whose operation has taken effect: its descriptor, where it awaits one, is done. -/
def Queue.letGo (x : Queue) (st : Status) : Queue :=
  { x with state := if x.state == .wait then .run else x.state,
           cur := x.cur.map fun c => match c.await with
             | some (.turnstile _) => { c with await := none, done := some { status := st, kind := 0, detail := [] } }
             | _ => c }

theorem State.released_queueReq (st : Status) :
    u.released (queueReq h e op) st = u.onHost fun k => k.onQueue h.func h.sq fun x => x.letGo st := by
  have hf : (Fin.ofNat 64 h.func.val : FnIx) = h.func := Fin.ofNat_val_eq_self h.func
  rw [State.released, if_pos (by rfl)]
  simp only [queueReq, hf]
  rfl

theorem State.released_current (hx : u.host.queue h.func h.sq = some x) (hc : x.cur = waitsFor h (.turnstile d)) :
    (u.released (queueReq h e op) .ok).current h = doneAs h .ok 0 [] := by
  have hq : (u.onHost fun k => k.onQueue h.func h.sq fun x => x.letGo .ok).host.queue h.func h.sq = some (x.letGo .ok) :=
    HostSide.queue_onQueue_same hx rfl
  rw [State.released_queueReq, State.current_of_queue hq, Queue.letGo, hc]
  rfl

theorem State.obj_withObj {n : Nat} {p : TslObj} (hd : u.present d = true) : ((u.withObj d n p).die d).tsl.obj n = some p := by
  rw [State.withObj, State.die_onDie_same _ _ hd, Tsl.obj, Tsl.setObj, sLookup_sInsert, if_pos rfl]

end

end

section

section
variable {s : State} {h : DescHdr} {q : Queue}

/-- The operation of a queue alone, on an object that nothing waits on: where it takes effect its descriptor is done. -/
theorem State.tslDo_alone {u : State} {d : DieIx} {x : Queue} {op : TslOp} {v : BitVec 12} {k : Fin 256} {n : Nat} {o p : TslObj}
    {r : TslResult} (hx : u.host.queue h.func h.sq = some x) (hc : x.cur = waitsFor h (.turnstile d)) (hd : u.present d = true)
    (ht : (u.die d).tsl.translate k.val v 0 = some n) (ho : (u.die d).tsl.obj n = some o) (hz : (u.die d).tsl.frozen = false)
    (hb : ∀ b ∈ u.barriers, ∀ i : Fin 8, b.arr[i.val] ≠ n)
    (hres : o.resolve [queueReq h d op] u.gsc (4096 - (u.die d).tsl.hostWaiters) = { obj := p, results := [(queueReq h d op, r)] })
    (hr : r = .proceeds .ok ∨ r = .applied ∨ r = .queued) :
    let t := u.tslDo d (.virt k v) (queueReq h d op) []
    (t.die d).tsl.obj n = some p ∧ (r ≠ .queued → t.current h = doneAs h .ok 0 []) ∧ (r = .queued → t.host = u.host) := by
  intro t
  have ht : t = u.tslOps d n [queueReq h d op] := by
    simp only [t, State.tslDo]
    rw [show (queueReq h d op).seq = 0 from rfl, ht]
  obtain ⟨hdies, hhost⟩ := State.tslOps_alone ho hz rfl hb hres hr
  rw [← ht] at hdies hhost
  refine ⟨?_, fun hq => ?_, fun hq => ?_⟩
  · rw [State.die, hdies]
    exact State.obj_withObj hd
  · rw [if_neg hq] at hhost
    rw [State.current, hhost]
    exact State.released_current hx hc
  · rw [hhost, if_pos hq]

/-! ### WAIT -/

/-- What a WAIT comes to, once its fields are in their ranges. -/
def waitAct (h : DescHdr) (home : DieIx) (v : BitVec 12) (n : Nat) (t : State) (_ : Queue) : State × DescEnd :=
  if tslMax < n then (t, .st .opFormat)
  else match t.fnTsl h.func home v with
    | none => (t, .st .notOwner)
    | some _ => (t.onHost fun x => x.onQueue h.func h.sq fun y => { y with state := .wait }, .await (.turnstile home))

/-- The operation of a WAIT that awaits its Turnstile. -/
def State.sendWait (s : State) (h : DescHdr) (home : DieIx) (v : BitVec 12) (op : TslOp) : State :=
  match s.current h, s.fnTsl h.func home v with
  | some c, some (ctx, _) => if c.await = some (.turnstile home) then s.tslDo home (.virt ctx v) (queueReq h home op) [] else s
  | _, _ => s

theorem fxWait_eq (hs : s.Starts h q) (tsl : BitVec 16) (kind : Byte) (w : Word) : fxWait h tsl kind w s =
    (s.descriptor h 0 false (decide (tsl.toNat ≤ 4095) && decide (kind.toNat ≤ 1))
      (waitAct h q.home (tsl.setWidth 12) w.toNat)).sendWait h q.home (tsl.setWidth 12) (if kind = 0 then .waitGe w.toNat else .waitSub w.toNat) := by
  rw [fxWait, hs.1]
  rfl

theorem State.sendWait_st (hs : s.Starts h q) (st : Status) (home : DieIx) (v : BitVec 12) (op : TslOp) :
    (s.begun h (.st st)).sendWait h home v op = s.begun h (.st st) := by
  rw [State.sendWait, State.begun_current (by rw [hs.queue]; rfl)]
  split
  · exact if_neg (by rename_i hc _; cases hc; nofun)
  · rfl

/-- The state in which a WAIT makes its operation. -/
def State.inWait (s : State) (h : DescHdr) (home : DieIx) : State :=
  (s.onHost fun x => x.onQueue h.func h.sq fun y => { y with state := .wait }).begun h (.await (.turnstile home))

theorem State.inWait_queue (hs : s.Starts h q) (home : DieIx) : (s.inWait h home).host.queue h.func h.sq =
    some { q with state := .wait, cur := waitsFor h (.turnstile home) } := by
  have hq : (s.onHost fun x => x.onQueue h.func h.sq fun y => { y with state := .wait }).host.queue h.func h.sq =
      some { q with state := .wait } := HostSide.queue_onQueue_same hs.queue rfl
  exact State.begun_queue hq

theorem fxWait_waits (hs : s.Starts h q) {tsl : BitVec 16} {kind : Byte} {w : Word} {k : Fin 256} {n : Nat}
    (hf : tsl.toNat ≤ 4095 ∧ kind.toNat ≤ 1) (hw : w.toNat ≤ 2 ^ 31 - 1)
    (hm : s.fnTsl h.func q.home (tsl.setWidth 12) = some (k, n)) :
    fxWait h tsl kind w s = (s.inWait h q.home).tslDo q.home (.virt k (tsl.setWidth 12))
      (queueReq h q.home (if kind = 0 then .waitGe w.toNat else .waitSub w.toNat)) [] := by
  have hact : waitAct h q.home (tsl.setWidth 12) w.toNat s q =
      (s.onHost fun x => x.onQueue h.func h.sq fun y => { y with state := .wait }, .await (.turnstile q.home)) := by
    rw [waitAct, if_neg (show ¬ tslMax < w.toNat from Nat.not_lt.mpr hw), hm]
  rw [fxWait_eq hs, State.descriptor_good hs (by simp [hf]) (by simp), hact]
  change (s.inWait h q.home).sendWait _ _ _ _ = _
  have hcur : (s.inWait h q.home).current h = waitsFor h (.turnstile q.home) := State.current_of_queue (State.inWait_queue hs _)
  have hm : (s.inWait h q.home).fnTsl h.func q.home (tsl.setWidth 12) = some (k, n) := hm
  rw [State.sendWait, hcur, hm]
  exact if_pos rfl

/-- A WAIT that ends with a status. -/
theorem fxWait_fails (hs : s.Starts h q) {tsl : BitVec 16} {kind : Byte} {w : Word} {st : Status}
    (hf : tsl.toNat ≤ 4095 ∧ kind.toNat ≤ 1) (ha : waitAct h q.home (tsl.setWidth 12) w.toNat s q = (s, .st st)) :
    fxWait h tsl kind w s = s.begun h (.st st) := by
  rw [fxWait_eq hs, State.descriptor_good hs (by simp [hf]) (by simp), ha, State.sendWait_st hs]

theorem fxWait_badDesc (hs : s.Starts h q) {tsl : BitVec 16} {kind : Byte} (w : Word) (hf : ¬ (tsl.toNat ≤ 4095 ∧ kind.toNat ≤ 1)) :
    fxWait h tsl kind w s = s.begun h (.st .badDesc) := by
  rw [fxWait_eq hs, State.descriptor_bad hs (by simpa using hf), State.sendWait_st hs]

/-- An object of a die that a virtual number names, under no freeze, unpoisoned and no barrier's, that nothing waits on. -/
structure State.IdleObj (s : State) (d : DieIx) (k : Fin 256) (v : BitVec 12) (n : Nat) (o : TslObj) : Prop where
  present : s.present d = true
  named : (s.die d).tsl.translate k.val v 0 = some n
  obj : (s.die d).tsl.obj n = some o
  unfrozen : (s.die d).tsl.frozen = false
  unpoisoned : o.poison = false
  waiters : o.waiters = []
  retry : o.retry = []
  noBarrier : ∀ b ∈ s.barriers, ∀ i : Fin 8, b.arr[i.val] ≠ n

section
variable {tsl : BitVec 16} {kind : Byte} {w : Word} {k j : Fin 256} {n m : Nat} {o : TslObj} (hs : s.Starts h q)
  (hf : tsl.toNat ≤ 4095 ∧ kind.toNat ≤ 1) (hw : w.toNat ≤ 2 ^ 31 - 1) (hm : s.fnTsl h.func q.home (tsl.setWidth 12) = some (k, m))
  (ho : s.IdleObj q.home k (tsl.setWidth 12) n o)
include hs hf hw hm ho

/-- A WAIT on an idle object whose VALUE reaches n completes at once. -/
theorem fxWait_reached (hn : w.toNat ≤ o.value) : (fxWait h tsl kind w s).current h = doneAs h .ok 0 [] ∧
    (((fxWait h tsl kind w s).die q.home).tsl.obj n).map TslObj.value = some (if kind = 0 then o.value else o.value - w.toNat) := by
  obtain ⟨hd, ht, hobj, hz, hp, hwait, hr, hb⟩ := ho
  rw [fxWait_waits hs hf hw hm]
  have alone (p : TslObj) := State.tslDo_alone (u := s.inWait h q.home) (p := p) (r := .proceeds .ok)
    (op := if kind = 0 then .waitGe w.toNat else .waitSub w.toNat) (State.inWait_queue hs _) rfl hd ht hobj hz hb
  split
  next hk =>
    rw [if_pos hk] at alone
    obtain ⟨hobj, hcur, -⟩ := alone _ (TslObj.resolve_waitGe_reached _ hp hwait hr rfl hn) (.inl rfl)
    exact ⟨hcur nofun, congrArg (Option.map TslObj.value) hobj⟩
  next hk =>
    rw [if_neg hk] at alone
    obtain ⟨hobj, hcur, -⟩ := alone _ (TslObj.resolve_waitSub_reached _ hp hwait hr rfl hn) (.inl rfl)
    exact ⟨hcur nofun, congrArg (Option.map TslObj.value) hobj⟩

/-- A WAIT on an idle object whose VALUE does not reach n holds its SQ. -/
theorem fxWait_held (hn : o.value < w.toNat) (hroom : (s.die q.home).tsl.hostWaiters < 4096) :
    (fxWait h tsl kind w s).current h = waitsFor h (.turnstile q.home) ∧
    (((fxWait h tsl kind w s).die q.home).tsl.obj n).map TslObj.value = some o.value ∧
    ((fxWait h tsl kind w s).host.queue h.func h.sq).map Queue.state = some .wait := by
  obtain ⟨hd, ht, hobj, hz, hp, hwait, hr, hb⟩ := ho
  have hop : (queueReq h q.home (if kind = 0 then .waitGe w.toNat else .waitSub w.toNat)).op = .waitGe w.toNat ∨
      (queueReq h q.home (if kind = 0 then .waitGe w.toNat else .waitSub w.toNat)).op = .waitSub w.toNat := by
    rw [queueReq]
    split
    · exact .inl rfl
    · exact .inr rfl
  obtain ⟨hobj, -, hhost⟩ := State.tslDo_alone (u := s.inWait h q.home) (State.inWait_queue hs _) rfl hd ht hobj hz hb
    (TslObj.resolve_wait_queued _ hp hwait hr hop hn (Nat.sub_pos_of_lt hroom)) (.inr (.inr rfl))
  rw [← fxWait_waits hs hf hw hm] at hobj hhost
  rw [State.current, hhost rfl, State.inWait_queue hs]
  exact ⟨rfl, congrArg (Option.map TslObj.value) hobj, rfl⟩

end

/-! ### SIGNAL -/

/-- What a SIGNAL comes to, once its fields are in their ranges. -/
def signalAct (h : DescHdr) (d : DieIx) (virt : BitVec 12) (sub : Bool) (v : Nat) (t : State) (_ : Queue) : State × DescEnd :=
  if v = 0 ∨ tslMax < v then (t, .st .opFormat)
  else match t.fnTsl h.func d virt with
    | none => (t, .st .notOwner)
    | some _ => (t, .await (if h.fence then .fence d virt sub v else .turnstile d))

/-- The operation of a SIGNAL that awaits its Turnstile. -/
def State.sendAwaited (s : State) (h : DescHdr) (home d : DieIx) (virt : BitVec 12) (op : TslOp) : State :=
  match s.current h with
  | some c => if c.await = some (.turnstile d) then s.sendSignal h home d virt op else s
  | none => s

section
variable {tsl : BitVec 16} {act die : Byte} {v : Word}

theorem fxSignal_eq (hs : s.Starts h q) : fxSignal h tsl act die v s =
    (s.descriptor h 0 false (decide (tsl.toNat ≤ 4095) && decide (act.toNat ≤ 1) && decide (die.toNat < s.nDies))
      (signalAct h (dieOf die.toNat) (tsl.setWidth 12) (act == 1) v.toNat)).sendAwaited
      h q.home (dieOf die.toNat) (tsl.setWidth 12) (if act = 1 then .sub v.toNat else .add v.toNat) := by
  have hop : signalOp (act == 1) v.toNat = if act = 1 then .sub v.toNat else .add v.toNat := by simp [signalOp]
  rw [fxSignal, hs.1, ← hop]
  rfl

theorem State.sendAwaited_other (hs : s.Starts h q) {e : DescEnd} {home d : DieIx} (he : (e.begun h).await ≠ some (.turnstile d))
    (virt : BitVec 12) (op : TslOp) : (s.begun h e).sendAwaited h home d virt op = s.begun h e := by
  rw [State.sendAwaited, State.begun_current (by rw [hs.queue]; rfl)]
  exact if_neg he

theorem fxSignal_badDesc (hs : s.Starts h q) (hf : ¬ (tsl.toNat ≤ 4095 ∧ act.toNat ≤ 1 ∧ die.toNat < s.nDies)) :
    fxSignal h tsl act die v s = s.begun h (.st .badDesc) := by
  rw [fxSignal_eq hs, State.descriptor_bad hs (by simpa [and_assoc] using hf),
    State.sendAwaited_other hs (by simp [DescEnd.st, DescEnd.begun])]

/-- The range of a SIGNAL's operand. -/
theorem signalInRange : ¬ (v.toNat = 0 ∨ tslMax < v.toNat) ↔ 1 ≤ v.toNat ∧ v.toNat ≤ 2 ^ 31 - 1 := by
  rw [tslMax]
  omega

theorem signalAct_mapped {d : DieIx} {virt : BitVec 12} {sub : Bool} {x : Fin 256 × Nat} (hv : 1 ≤ v.toNat ∧ v.toNat ≤ 2 ^ 31 - 1)
    (hm : s.fnTsl h.func d virt = some x) : signalAct h d virt sub v.toNat s q =
      (s, .await (if h.fence then .fence d virt sub v.toNat else .turnstile d)) := by
  rw [signalAct, if_neg (signalInRange.mpr hv), hm]

variable (hs : s.Starts h q) (hf : tsl.toNat ≤ 4095 ∧ act.toNat ≤ 1 ∧ die.toNat < s.nDies)
include hs hf

/-- A SIGNAL that ends, or awaits the writes of its SQ, before its operation. -/
theorem fxSignal_other {e : DescEnd} (ha : signalAct h (dieOf die.toNat) (tsl.setWidth 12) (act == 1) v.toNat s q = (s, e))
    (he : (e.begun h).await ≠ some (.turnstile (dieOf die.toNat))) : fxSignal h tsl act die v s = s.begun h e := by
  rw [fxSignal_eq hs, State.descriptor_good hs (by simp [hf]) (by simp), ha, State.sendAwaited_other hs he]

/-- A SIGNAL makes its operation. -/
theorem fxSignal_sends {k : Fin 256} {n : Nat} (hv : 1 ≤ v.toNat ∧ v.toNat ≤ 2 ^ 31 - 1) (hfence : h.fence = false)
    (hm : s.fnTsl h.func (dieOf die.toNat) (tsl.setWidth 12) = some (k, n)) :
    fxSignal h tsl act die v s = (s.begun h (.await (.turnstile (dieOf die.toNat)))).sendSignal h q.home (dieOf die.toNat)
      (tsl.setWidth 12) (if act = 1 then .sub v.toNat else .add v.toNat) := by
  rw [fxSignal_eq hs, State.descriptor_good hs (by simp [hf]) (by simp), signalAct_mapped hv hm, hfence, State.sendAwaited,
    State.begun_current (by rw [hs.queue]; rfl)]
  exact if_pos rfl

end

theorem State.sendSignal_home {s : State} {d : DieIx} {v : BitVec 12} {op : TslOp} {k : Fin 256} {n : Nat}
    (hm : s.fnTsl h.func d v = some (k, n)) : s.sendSignal h d d v op = s.tslDo d (.virt k v) (queueReq h d op) [] := by
  rw [State.sendSignal, hm]
  exact if_pos rfl

theorem State.sendSignal_away {s : State} {home d : DieIx} {v : BitVec 12} {op : TslOp} {k : Fin 256} {n : Nat}
    (hm : s.fnTsl h.func d v = some (k, n)) (hd : home ≠ d) : s.sendSignal h home d v op =
      s.sendGaide [{ src := home, dst := d, ref := .virt k v, req := queueReq h home op }] := by
  rw [State.sendSignal, hm]
  exact if_neg hd.symm

/-- An ADD or SUB alone on an object without waiters. -/
theorem TslObj.resolve_change_alone {o : TslObj} {q : TslReq} (gsc free : Nat) (hp : o.poison = false) (hw : o.waiters = [])
    (hr : o.retry = []) (hq : opChanges q.op = true) : o.resolve [q] gsc free =
      { obj := { (o.change q gsc).1 with waiters := [], retry := [] }, results := [(q, (o.change q gsc).2)] } := by
  rw [TslObj.resolve_change gsc free hp hr hq]
  simp [TslObj.unmet, hw, takeSubs]

/-- The operation of a SIGNAL on an idle object of its SQ's home die, which takes effect. -/
theorem State.signal_applied {d : DieIx} {k : Fin 256} {v : BitVec 12} {n value : Nat} {o : TslObj} {op : TslOp} (hs : s.Starts h q)
    (ho : s.IdleObj d k v n o) (hop : opChanges op = true) (happ : (o.change (queueReq h d op) s.gsc).2 = .applied)
    (hval : (o.change (queueReq h d op) s.gsc).1.value = value) :
    let t := (s.begun h (.await (.turnstile d))).tslDo d (.virt k v) (queueReq h d op) []
    t.current h = doneAs h .ok 0 [] ∧ ((t.die d).tsl.obj n).map TslObj.value = some value := by
  obtain ⟨hd, ht, hobj, hz, hp, hwait, hr, hb⟩ := ho
  have hres := TslObj.resolve_change_alone (q := queueReq h d op) s.gsc (4096 - (s.die d).tsl.hostWaiters) hp hwait hr hop
  obtain ⟨hobj, hcur, -⟩ := State.tslDo_alone (u := s.begun h (.await (.turnstile d))) (State.begun_queue hs.queue) rfl hd ht hobj hz hb
    (by rw [← happ]; exact hres) (.inr (.inl rfl))
  exact ⟨hcur nofun, by rw [hobj, ← hval]; rfl⟩

theorem TslObj.change_add {o : TslObj} {q : TslReq} {v : Nat} (gsc : Nat) (hq : q.op = .add v) (hv : o.value + v ≤ 2 ^ 31 - 1) :
    (o.change q gsc).2 = .applied ∧ (o.change q gsc).1.value = o.value + v := by
  simp only [TslObj.change, hq]
  rw [if_neg (show ¬ tslMax < o.value + v from Nat.not_lt.mpr hv)]
  exact ⟨rfl, rfl⟩

theorem TslObj.change_sub {o : TslObj} {q : TslReq} {v : Nat} (gsc : Nat) (hq : q.op = .sub v) (hv : v ≤ o.value) :
    (o.change q gsc).2 = .applied ∧ (o.change q gsc).1.value = o.value - v := by
  simp only [TslObj.change, hq]
  rw [if_neg (Nat.not_lt.mpr hv)]
  exact ⟨rfl, rfl⟩

end

end

section

/-! ### Turnstiles of a function -/

theorem nDies_le_eight (s : State) : s.nDies ≤ 8 := by
  unfold State.nDies
  cases s.straps.part <;> decide

theorem present_dieOf {s : State} {n : Nat} (h : n < s.nDies) : s.present (dieOf n) = true := by
  have hn : (dieOf n).val = n := Nat.mod_eq_of_lt (Nat.lt_of_lt_of_le h (nDies_le_eight s))
  simpa [State.present, hn] using h

theorem findRun_one {objs : SMap TslObj} {hi fuel p b : Nat} (h : findRun objs 1 hi fuel p = some b) : sLookup objs b = none := by
  induction fuel generalizing p with
  | zero => cases h
  | succ fuel ih =>
    rw [findRun] at h
    split at h
    · cases h
    · split at h
      next hnone =>
        obtain rfl := Option.some.inj h
        simpa using List.find?_eq_none.mp hnone 0 (by simp)
      · exact ih h

theorem Tsl.obj_findFree {t : Tsl} {ctx b : Nat} (h : t.findFree ctx 1 = some b) : t.obj b = none := by
  rw [Tsl.findFree] at h
  split at h
  · exact findRun_one h
  · exact findRun_one h

/-- The first entry of a test, with an entry of its key changed. -/
theorem find?_sInsert_of_lookup {α : Type} {l : SMap α} {p : α → Bool} {c : Nat} {x y : α}
    (hf : (l.find? fun e => p e.2).map Prod.fst = some c) (hl : sLookup l c = some x) (hp : p y = p x) :
    ((sInsert l c y).find? fun e => p e.2).map Prod.fst = some c := by
  induction l with
  | nil => cases hl
  | cons e rest ih =>
    obtain ⟨k, v⟩ := e
    rw [sInsert]
    split
    · cases hy : p y
      · rwa [List.find?_cons_of_neg (by simp [hy])]
      · rw [List.find?_cons_of_pos (by simp [hy])]
        rfl
    · split
      next hk =>
        subst hk
        rw [sLookup, if_pos rfl, Option.some.injEq] at hl
        subst hl
        cases hv : p v
        · rw [List.find?_cons_of_neg (by simp [hp, hv])]
          rwa [List.find?_cons_of_neg (by simp [hv])] at hf
        · rw [List.find?_cons_of_pos (by simp [hp, hv])]
          rfl
      next hk =>
        rw [sLookup, if_neg hk] at hl
        cases hv : p v
        · rw [List.find?_cons_of_neg (by simp [hv])] at hf ⊢
          exact ih hf hl
        · rw [List.find?_cons_of_pos (by simp [hv])] at hf
          exact absurd (Option.some.inj hf) hk

theorem find?_sInsert_of_none {α : Type} {l : SMap α} {p : α → Bool} {c : Nat} {y : α} (hf : (l.find? fun e => p e.2) = none)
    (hp : p y = true) : ((sInsert l c y).find? fun e => p e.2).map Prod.fst = some c := by
  induction l with
  | nil => simp [sInsert, hp]
  | cons e rest ih =>
    rw [List.find?_eq_none] at hf ih
    rw [sInsert]
    split
    · simp [hp]
    · split
      · simp [hp]
      · rw [List.find?_cons_of_neg (by simpa using hf e List.mem_cons_self)]
        exact ih fun x hx => hf x (List.mem_cons_of_mem _ hx)

/-- The entry of a function's context by which a virtual number names objects. -/
def Tsl.mapped (t : Tsl) (f : FnIx) (v : BitVec 12) : Option TslEntry := (t.funcCtx f).bind fun c => (t.ctx c).bind fun x => x.entry v

/-- The memory has a function's context, on which a virtual number names nothing yet. -/
structure Tsl.Unmapped (t : Tsl) (f : FnIx) (c : Nat) (x : TslCtx) (v : BitVec 12) : Prop where
  func : t.funcCtx f = some c
  ctx : t.ctx c = some x
  entry : x.entry v = none

variable {t t1 m : Tsl} {f : FnIx} {c : Nat} {v : BitVec 12} {value : Nat}

/-- A function's context, as it is there or as it is made. -/
theorem Tsl.withFuncCtx_unmapped (h : t.withFuncCtx f = some (t1, c)) (hx : (t1.ctx c).isSome)
    (hv : t.mapped f v = none) :
    t1.objs = t.objs ∧ ∃ x, t1.Unmapped f c x v := by
  rw [Tsl.withFuncCtx] at h
  cases hf : t.funcCtx f with
  | some c' =>
    rw [Tsl.mapped, hf] at hv
    rw [hf] at h
    obtain ⟨rfl, rfl⟩ : t = t1 ∧ c' = c := Prod.mk.inj (Option.some.inj h)
    obtain ⟨x, hx⟩ := Option.isSome_iff_exists.mp hx
    rw [Option.bind_some, hx] at hv
    exact ⟨rfl, x, hf, hx, hv⟩
  | none =>
    rw [hf] at h
    obtain ⟨c', -, he⟩ := Option.map_eq_some_iff.mp h
    obtain ⟨rfl, rfl⟩ := Prod.mk.inj he
    have hnone := Option.map_eq_none_iff.mp hf
    exact ⟨rfl, _, find?_sInsert_of_none (p := fun x : TslCtx => x.owner == .func f) hnone (beq_self_eq_true _),
      (sLookup_sInsert _ _ _ _).trans (if_pos rfl), rfl⟩

/-- Mapping a number makes an object that it names. -/
theorem Tsl.map_mapped {x : TslCtx} (h : t.Unmapped f c x v) (hm : t.map c v false value = some m) : ∃ n, t.obj n = none ∧
    m.obj n = some (TslObj.fresh c (some v) none value) ∧ m.funcCtx f = some c ∧ m.translate c v 0 = some n := by
  obtain ⟨hf, hc, he⟩ := h
  rw [Tsl.map, hc] at hm
  simp only [Bool.false_eq_true, if_false] at hm
  split at hm
  · cases hm
  · cases hb : t.findFree c 1 with
    | none => simp [hb] at hm
    | some b =>
      rw [hb] at hm
      obtain rfl := Option.some.inj hm
      have hobj : sLookup (sInsert t.objs b (TslObj.fresh c (some v) none value)) b = _ := (sLookup_sInsert _ _ _ _).trans (if_pos rfl)
      refine ⟨b, Tsl.obj_findFree hb, hobj, ?_, ?_⟩
      · exact find?_sInsert_of_lookup (p := fun x : TslCtx => x.owner == .func f) hf hc rfl
      · have hfind : x.table.find? (fun e => e.1 == v) = none := Option.map_eq_none_iff.mp he
        simp only [Tsl.translate, Tsl.ctx, sLookup_sInsert, if_pos, TslCtx.entry, List.find?_append, hfind]
        simp [Tsl.obj, sLookup_sInsert]

end

section

theorem Tsl.ctx_sErase {t u : Tsl} {c k : Nat} (h : u.ctxs = sErase t.ctxs k) (hc : t.ctx c = none) : u.ctx c = none := by
  rw [Tsl.ctx, h, sLookup_sErase]
  split
  · rfl
  · exact hc

theorem foldl_sErase_none {α : Type} {l : List Nat} {n : Nat} (m : SMap α) (h : n ∈ l ∨ sLookup m n = none) :
    sLookup (l.foldl sErase m) n = none := by
  induction l generalizing m with
  | nil => exact h.resolve_left List.not_mem_nil
  | cons k rest ih =>
    refine ih _ ?_
    rw [sLookup_sErase]
    obtain h | h := h
    · obtain rfl | h := List.mem_cons.mp h
      · exact .inr (if_pos rfl)
      · exact .inl h
    · exact .inr (by rw [h, ite_self])

theorem Tsl.obj_freeObjs {t : Tsl} {l : List Nat} {n : Nat} (h : n ∈ l) : (t.freeObjs l).obj n = none := foldl_sErase_none _ (.inl h)

/-- What is taken out of the contexts of a die that loses one. -/
theorem Tsl.destroy_ctxs (t : Tsl) (c : Nat) :
    (t.destroy c).1.ctxs = t.ctxs ∧ t.ctx c = none ∨ (t.destroy c).1.ctxs = sErase t.ctxs c := by
  rw [Tsl.destroy]
  cases h : t.ctx c with
  | none => exact .inl ⟨rfl, rfl⟩
  | some x => exact .inr rfl

variable {s : State} {h : DescHdr} {q : Queue} {d : DieIx} {c : Nat} {e : TslEntry} {v : BitVec 12}

/-- Destroying an object frees what its entry owns, and leaves the queues. -/
theorem State.freeTsl_spec (hd : s.present d = true) : (∀ n ∈ e.owns, ((s.freeTsl d c v e).die d).tsl.obj n = none) ∧
    s.host.SameQueues (s.freeTsl d c v e).host := by
  unfold State.freeTsl
  extract_lets last u t ws t1 t2
  have hu : s.KeepsTsl u := .ite ((State.KeepsTsl.refl s).poisonCtx d c) (.refl s)
  have ht2 : t2.objs = t1.objs := by
    simp only [t2]
    split <;> rfl
  have hfold : (u.onDie d fun x => { x with tsl := t2 }).KeepsTsl (ws.foldl (fun s q => s.failIssuer none q .poisoned)
      (u.onDie d fun x => { x with tsl := t2 })) := (State.KeepsTsl.refl _).foldl fun _ q j => j.failIssuer _ _ _
  refine ⟨fun n hn => (hfold.dies d).tsl.free n ?_, hu.queues.trans hfold.queues⟩
  rw [State.die_onDie_same _ _ (by rw [hu.present, hd])]
  change sLookup t2.objs n = none
  rw [ht2]
  exact Tsl.obj_freeObjs hn

/-- Destroying a context leaves the queues, the part and the contexts of the other dies. -/
theorem State.destroyCtx_spec (s : State) (d : DieIx) (c : Nat) : s.host.SameQueues (s.destroyCtx d c).host ∧
    (s.destroyCtx d c).straps = s.straps ∧
    (∀ e, ((s.destroyCtx d c).die e).tsl.ctxs = (s.die e).tsl.ctxs ∨
      ((s.destroyCtx d c).die e).tsl.ctxs = sErase (s.die e).tsl.ctxs c) ∧
    (∀ e, e ≠ d → ((s.destroyCtx d c).die e).tsl.ctxs = (s.die e).tsl.ctxs) ∧
    (s.present d = true → ((s.destroyCtx d c).die d).tsl.ctx c = none) := by
  rw [State.destroyCtx]
  cases hc : (s.die d).tsl.ctx c with
  | none => exact ⟨.refl _, rfl, fun _ => .inl rfl, fun _ _ => rfl, fun _ => hc⟩
  | some x =>
    dsimp only
    generalize (((s.tslSeen d).waitersOf x.owned).isEmpty && ((s.die d).tsl.waitersOf x.owned).isEmpty) = quiet
    have hk : s.KeepsTsl (if quiet then s else s.poisonCtx d c) := .ite (.refl s) ((State.KeepsTsl.refl s).poisonCtx d c)
    generalize (if quiet then s else s.poisonCtx d c) = u at hk ⊢
    refine ⟨hk.queues, hk.straps, fun e => ?_, fun e he => ?_, fun hd => ?_⟩
    · rw [State.die_onDie]
      split
      next he =>
        obtain ⟨rfl, -⟩ := he
        rw [← (hk.dies d).tsl.ctxs]
        exact ((u.die d).tsl.destroy_ctxs c).imp And.left id
      next => exact .inl (hk.dies e).tsl.ctxs
    · rw [State.die_onDie_ne _ _ _ he.symm, (hk.dies e).tsl.ctxs]
    · rw [State.die_onDie_same _ _ (by rw [hk.present, hd])]
      obtain ⟨hs, hn⟩ | hs := (u.die d).tsl.destroy_ctxs c
      · rwa [Tsl.ctx, hs]
      · rw [Tsl.ctx, hs, sLookup_sErase, if_pos rfl]

/-- A die loses its context of a function. -/
def State.destroyFuncCtx (s : State) (f : FnIx) (d : DieIx) : State :=
  match (s.die d).tsl.funcCtx f with
  | some c => s.destroyCtx d c
  | none => s

theorem State.destroyFuncCtx_spec (s : State) (f : FnIx) (d : DieIx) : s.host.SameQueues (s.destroyFuncCtx f d).host ∧
    (s.destroyFuncCtx f d).straps = s.straps ∧
    (∀ e c, (s.die e).tsl.ctx c = none → ((s.destroyFuncCtx f d).die e).tsl.ctx c = none) ∧
    (∀ e, e ≠ d → ((s.destroyFuncCtx f d).die e).tsl.ctxs = (s.die e).tsl.ctxs) ∧
    (∀ c, (s.die d).tsl.funcCtx f = some c → s.present d = true → ((s.destroyFuncCtx f d).die d).tsl.ctx c = none) := by
  rw [State.destroyFuncCtx]
  cases hf : (s.die d).tsl.funcCtx f with
  | none => exact ⟨.refl _, rfl, fun _ _ => id, fun _ _ => rfl, fun _ h => nomatch h⟩
  | some k =>
    obtain ⟨hq, hs, hall, hne, hd⟩ := s.destroyCtx_spec d k
    refine ⟨hq, hs, fun e c hc => ?_, hne, fun c h hp => Option.some.inj h ▸ hd hp⟩
    obtain he | he := hall e
    · rwa [Tsl.ctx, he]
    · exact Tsl.ctx_sErase he hc

/-- Each of some dies loses its context of a function. -/
theorem State.destroyFuncCtxs_spec (s : State) (f : FnIx) (ds : List DieIx) :
    let t := ds.foldl (fun t d => t.destroyFuncCtx f d) s
    s.host.SameQueues t.host ∧
      ∀ d ∈ ds, s.present d = true → ∀ c, (s.die d).tsl.funcCtx f = some c → (t.die d).tsl.ctx c = none := by
  intro t
  refine ⟨foldl_inv (P := fun t : State => s.host.SameQueues t.host) (fun t d j => j.trans (t.destroyFuncCtx_spec f d).1) (.refl _),
    fun d hd hp c hc => ?_⟩
  have hmake (u : State) (hu : u.present d = true ∧ ((u.die d).tsl.ctxs = (s.die d).tsl.ctxs ∨ (u.die d).tsl.ctx c = none)) :
      ((u.destroyFuncCtx f d).die d).tsl.ctx c = none := by
    obtain ⟨-, -, hkeep, -, hdone⟩ := u.destroyFuncCtx_spec f d
    obtain ⟨hp, hu | hu⟩ := hu
    · exact hdone c (by rwa [Tsl.funcCtx, hu]) hp
    · exact hkeep d c hu
  refine foldl_reaches (Q := fun u : State => (u.die d).tsl.ctx c = none) hd (fun u b _ hu => ?_)
    (fun u b _ hu => (u.destroyFuncCtx_spec f b).2.2.1 d c hu) hmake ⟨hp, .inl rfl⟩
  obtain ⟨-, hstraps, hkeep, hne, -⟩ := u.destroyFuncCtx_spec f b
  refine ⟨by rw [State.present, State.nDies, hstraps]; exact hu.1, ?_⟩
  by_cases hb : d = b
  · subst hb
    exact .inr (hmake u hu)
  · exact hu.2.imp (fun h => (hne d hb).trans h) (hkeep d c)

end

section

variable {s : State} {h : DescHdr} {q : Queue}

@[simp] theorem State.die_begun (d : DieIx) (h : DescHdr) (e : DescEnd) : (s.begun h e).die d = s.die d := rfl

section
variable {tsl : BitVec 16} {act die : Byte} {v : Word} {k : Fin 256} {n : Nat} (hs : s.Starts h q)
  (hf : tsl.toNat ≤ 4095 ∧ act.toNat ≤ 1 ∧ die.toNat < s.nDies) (hv : 1 ≤ v.toNat ∧ v.toNat ≤ 2 ^ 31 - 1)
  (hm : s.fnTsl h.func (dieOf die.toNat) (tsl.setWidth 12) = some (k, n))
include hs hf hv hm

/-- With FENCE a SIGNAL awaits the writes of its SQ. -/
theorem fxSignal_fenced (hfence : h.fence = true) :
    fxSignal h tsl act die v s = s.begun h (.await (.fence (dieOf die.toNat) (tsl.setWidth 12) (act == 1) v.toNat)) :=
  fxSignal_other hs hf (by rw [signalAct_mapped hv hm, hfence]; rfl) nofun

/-- A SIGNAL to another die goes over Gaide. -/
theorem fxSignal_away (hfence : h.fence = false) (hd : q.home ≠ dieOf die.toNat) : fxSignal h tsl act die v s =
    (s.begun h (.await (.turnstile (dieOf die.toNat)))).sendGaide
      [{ src := q.home, dst := dieOf die.toNat, ref := .virt k (tsl.setWidth 12),
         req := queueReq h q.home (if act = 1 then .sub v.toNat else .add v.toNat) }] := by
  rw [fxSignal_sends hs hf hv hfence hm]
  exact State.sendSignal_away hm hd

/-- A SIGNAL on its SQ's home die makes its operation at once. -/
theorem fxSignal_home (hfence : h.fence = false) (hd : q.home = dieOf die.toNat) : fxSignal h tsl act die v s =
    (s.begun h (.await (.turnstile (dieOf die.toNat)))).tslDo (dieOf die.toNat) (.virt k (tsl.setWidth 12))
      (queueReq h (dieOf die.toNat) (if act = 1 then .sub v.toNat else .add v.toNat)) [] := by
  rw [fxSignal_sends hs hf hv hfence hm, hd]
  exact State.sendSignal_home hm

end

theorem State.fnTsl_of {t : State} {f : FnIx} {d : DieIx} {v : BitVec 12} {c n : Nat} (hf : (t.die d).tsl.funcCtx f = some c)
    (ht : (t.die d).tsl.translate c v 0 = some n) : t.fnTsl f d v = some (Fin.ofNat 256 c, n) := by
  rw [State.fnTsl, hf]
  exact congrArg (Option.map fun n => (Fin.ofNat 256 c, n)) ht

/-- TSL_CREATE makes an object at the value, which the number names. -/
theorem State.tslCreate_made {f : FnIx} {d : DieIx} {v : BitVec 12} {value : Nat} {m : Tsl} (hd : s.present d = true)
    (hv : (s.die d).tsl.mapped f v = none)
    (hm : (((s.die d).tsl.withFuncCtx f).bind fun e => e.1.map e.2 v false value) = some m) :
    let t := s.onDie d fun x => { x with tsl := m }
    ∃ k n o, t.fnTsl f d v = some (k, n) ∧ (t.die d).tsl.obj n = some o ∧ o.value = value ∧ o.waiters = [] ∧ o.poison = false ∧
      (s.die d).tsl.obj n = none := by
  intro t
  obtain ⟨⟨t1, c⟩, hw, hm⟩ := Option.bind_eq_some_iff.mp hm
  have hctx : (t1.ctx c).isSome := by
    cases hc : t1.ctx c with
    | none => simp [Tsl.map, hc] at hm
    | some x => rfl
  obtain ⟨hobjs, x, hx⟩ := Tsl.withFuncCtx_unmapped hw hctx hv
  obtain ⟨n, hnone, hobj, hfunc, htrans⟩ := Tsl.map_mapped hx hm
  have hdie : (t.die d).tsl = m := by rw [State.die_onDie_same _ _ hd]
  refine ⟨_, n, _, State.fnTsl_of (by rw [hdie]; exact hfunc) (by rw [hdie]; exact htrans), by rw [hdie]; exact hobj, rfl, rfl, rfl, ?_⟩
  rwa [Tsl.obj, ← hobjs]

/-- A command that carries out a descriptor which ends with a status. -/
theorem State.Starts.ends {c : Instr} {t : State} {st : Status} (hs : s.Starts h q) (hc : exec c s = .next t)
    (ht : t = s.begun h (.st st)) : Does c s fun t => t = { s with fns := t.fns } ∧ t.current h = doneAs h st 0 [] :=
  ⟨t, hc, ht ▸ State.begun_st hs st⟩

/-- A descriptor of queue 0 that has done its work: its SQ, which is still there, holds it as done. -/
theorem State.Starts.begun_ok {t : State} (hs : s.Starts h q) (ht : s.host.SameQueues t.host) :
    (t.begun h (.st .ok)).current h = doneAs h .ok 0 [] :=
  State.begun_current (by rw [ht.queue_isSome, hs.queue]; rfl)

theorem tslCreate_fields {die : Byte} {virt : BitVec 16} {w : Word} (hf : die.toNat < s.nDies ∧ virt.toNat ≤ 4095)
    (hw : w.toNat ≤ 2 ^ 31 - 1) :
    (decide (die.toNat < s.nDies) && decide (virt.toNat ≤ 4095) && decide (w.toNat ≤ tslMax)) = true := by
  rw [decide_eq_true hf.1, decide_eq_true hf.2]
  exact decide_eq_true hw

section
variable (hs : s.Starts h q) (hsq : h.sq = 0) {die : Byte} {virt : BitVec 16} {w : Word}
  (hf : die.toNat < s.nDies ∧ virt.toNat ≤ 4095)
include hs hsq hf

/-- TSL_DESTROY of a mapped number. -/
theorem fxTslDestroy_mapped {e : TslEntry} (he : (s.die (dieOf die.toNat)).tsl.mapped h.func (virt.setWidth 12) = some e) :
    (fxTslDestroy h die virt s).current h = doneAs h .ok 0 [] ∧
      ∀ n ∈ e.owns, ((fxTslDestroy h die virt s).die (dieOf die.toNat)).tsl.obj n = none := by
  obtain ⟨c, hc, he⟩ := Option.bind_eq_some_iff.mp he
  obtain ⟨hobjs, hqueues⟩ := State.freeTsl_spec (c := c) (v := virt.setWidth 12) (e := e) (present_dieOf hf.1)
  have hfx : fxTslDestroy h die virt s = (s.freeTsl (dieOf die.toNat) c (virt.setWidth 12) e).begun h (.st .ok) :=
    State.simple_ok hs (by simpa using hf) (fun _ => hsq) (by simp only [hc, he])
  rw [hfx]
  exact ⟨hs.begun_ok hqueues, hobjs⟩

theorem fxTslDestroy_unmapped (he : (s.die (dieOf die.toNat)).tsl.mapped h.func (virt.setWidth 12) = none) :
    fxTslDestroy h die virt s = s.begun h (.st .notOwner) := by
  refine State.simple_error hs (by simpa using hf) (fun _ => hsq) ?_
  cases hc : (s.die (dieOf die.toNat)).tsl.funcCtx h.func with
  | none => simp only [hc]
  | some c =>
    rw [Tsl.mapped, hc, Option.bind_some] at he
    simp only [hc, he]

variable (hw : w.toNat ≤ 2 ^ 31 - 1)
include hw

theorem fxTslCreate_mapped (he : (s.die (dieOf die.toNat)).tsl.mapped h.func (virt.setWidth 12) ≠ none) :
    fxTslCreate h die virt w s = s.begun h (.st .inUse) := by
  refine State.simple_error hs (tslCreate_fields hf hw) (fun _ => hsq) ?_
  obtain ⟨e, he⟩ := Option.ne_none_iff_exists'.mp he
  rw [Tsl.mapped] at he
  simp only [he]

variable (he : (s.die (dieOf die.toNat)).tsl.mapped h.func (virt.setWidth 12) = none)
include he

theorem fxTslCreate_noRoom (hr : (((s.die (dieOf die.toNat)).tsl.withFuncCtx h.func).bind fun e =>
    e.1.map e.2 (virt.setWidth 12) false w.toNat) = none) :
    fxTslCreate h die virt w s = s.begun h (.st .placement) := by
  refine State.simple_error hs (tslCreate_fields hf hw) (fun _ => hsq) ?_
  rw [Tsl.mapped] at he
  simp only [he, hr]

theorem fxTslCreate_room {m : Tsl} (hr : (((s.die (dieOf die.toNat)).tsl.withFuncCtx h.func).bind fun e =>
    e.1.map e.2 (virt.setWidth 12) false w.toNat) = some m) :
    fxTslCreate h die virt w s = (s.onDie (dieOf die.toNat) fun x => { x with tsl := m }).begun h (.st .ok) := by
  refine State.simple_ok hs (tslCreate_fields hf hw) (fun _ => hsq) ?_
  rw [Tsl.mapped] at he
  simp only [he, hr]

end

/-- A bound canvas imports from a function's context on a die. -/
def State.ctxNamed (s : State) (f : FnIx) (d : DieIx) : Bool :=
  ((s.die d).tsl.funcCtx f).isSome && s.canvases.any fun c => c.id.func == f && c.importsOn d

theorem State.ctxNamed_iff (s : State) (f : FnIx) (d : DieIx) :
    s.ctxNamed f d = true ↔ (s.die d).tsl.funcCtx f ≠ none ∧ ∃ c ∈ s.canvases, c.id.func = f ∧ c.importsOn d = true := by
  simp [State.ctxNamed, Option.isSome_iff_ne_none]

section
variable (hs : s.Starts h q) (hsq : h.sq = 0) {mask : Byte} (hf : ∀ d ∈ maskDies mask, s.present d = true)
include hs hsq hf

theorem fxCtxDestroy_named (hn : ∃ d ∈ maskDies mask, s.ctxNamed h.func d = true) :
    fxCtxDestroy h mask s = s.begun h (.st .inUse) :=
  State.simple_error hs (List.all_eq_true.mpr hf) (fun _ => hsq) (if_pos (List.any_eq_true.mpr hn))

theorem fxCtxDestroy_free (hn : ¬ ∃ d ∈ maskDies mask, s.ctxNamed h.func d = true) :
    fxCtxDestroy h mask s = ((maskDies mask).foldl (fun t d => t.destroyFuncCtx h.func d) s).begun h (.st .ok) :=
  State.simple_ok hs (List.all_eq_true.mpr hf) (fun _ => hsq) (if_neg fun ha => hn (List.any_eq_true.mp ha))

end

/-- Settles O47: each descriptor starts as `State.descriptor` says, and its operation is one cycle of the object that its number names. -/
theorem descriptorsOfTurnstiles : Obligations.descriptors_of_turnstiles := by
  unfold Obligations.descriptors_of_turnstiles
  intro s h q hs f plain ends waiting
  have hends {c : Instr} {t : State} {st : Status} (hc : exec c s = .next t) (ht : t = s.begun h (.st st)) : ends c st := hs.ends hc ht
  have hbegun (a : Await) : waiting (s.begun h (.await a)) a := ⟨rfl, State.begun_current (by rw [hs.queue]; rfl)⟩
  refine ⟨fun tsl kind w => ?_, fun tsl act die w => ?_, fun hsq die virt => ?_, fun hsq mask => ?_⟩
  · intro fields c v
    refine ⟨fun hf => hends rfl (fxWait_badDesc hs w hf), fun hf hw => hends rfl (fxWait_fails hs hf (if_pos hw)),
      fun hf hw hm => hends rfl (fxWait_fails hs hf ?_), fun k n hf hw hm => ?_⟩
    · rw [waitAct, if_neg (show ¬ tslMax < w.toNat from Nat.not_lt.mpr hw), hm]
    · intro op
      have hq := State.inWait_queue hs q.home
      refine ⟨⟨_, rfl, s.inWait h q.home, ⟨rfl, State.current_of_queue hq⟩, by rw [hq]; rfl, fxWait_waits hs hf hw hm⟩,
        fun o hd ht ho hz hp hwait hr hb => ?_⟩
      have idle : s.IdleObj q.home k v n o := ⟨hd, ht, ho, hz, hp, hwait, hr, hb⟩
      exact ⟨fun hn => ⟨_, rfl, fxWait_reached hs hf hw hm idle hn⟩,
        fun hn hroom => ⟨_, rfl, fxWait_held hs hf hw hm idle hn hroom⟩⟩
  · intro d virt fields inRange c op
    refine ⟨fun hf => hends rfl (fxSignal_badDesc hs hf), fun hf hv => hends rfl (fxSignal_other hs hf (if_pos ?_) nofun),
      fun hf hv hm => hends rfl (fxSignal_other hs hf ?_ nofun), fun k n hf hv hm => ?_⟩
    · exact not_not.mp fun h => hv (signalInRange.mp h)
    · rw [signalAct, if_neg (signalInRange.mpr hv), hm]
    refine ⟨fun hfence => ?_, fun hfence hd => ?_, fun hfence hd => ?_, fun o hfence hd hp ht ho hz hpo hwait hr hb => ?_⟩
    · exact ⟨_, rfl, fxSignal_fenced hs hf hv hm hfence ▸ hbegun _⟩
    · have hsends := fxSignal_away hs hf hv hm hfence hd
      refine ⟨_, rfl, ?_⟩
      rw [hsends]
      exact ⟨rfl, (hbegun _).2, rfl, _, rfl, rfl⟩
    · exact ⟨_, rfl, _, hbegun _, fxSignal_home hs hf hv hm hfence hd⟩
    · have idle : s.IdleObj d k virt n o := ⟨hp, ht, ho, hz, hpo, hwait, hr, hb⟩
      have hhome := fxSignal_home hs hf hv hm hfence hd
      refine ⟨fun ha hn => ⟨_, rfl, ?_⟩, fun ha hn => ⟨_, rfl, ?_⟩⟩
      · rw [if_neg (by simp [ha])] at hhome
        obtain ⟨happ, hval⟩ := TslObj.change_add (q := queueReq h d (.add w.toNat)) s.gsc rfl hn
        exact hhome ▸ State.signal_applied hs idle rfl happ hval
      · rw [if_pos ha] at hhome
        obtain ⟨happ, hval⟩ := TslObj.change_sub (q := queueReq h d (.sub w.toNat)) s.gsc rfl hn
        exact hhome ▸ State.signal_applied hs idle rfl happ hval
  · intro d v mapped fields
    refine ⟨fun w => ?_, fun hf => hends rfl ?_, fun hf hm => hends rfl (fxTslDestroy_unmapped hs hsq hf hm),
      fun e hf hm => ⟨_, rfl, fxTslDestroy_mapped hs hsq hf hm⟩⟩
    · intro c room
      refine ⟨fun hf => hends rfl (State.simple_bad hs ?_), fun hf hw hm => hends rfl (fxTslCreate_mapped hs hsq hf hw hm),
        fun hf hw hm hr => hends rfl (fxTslCreate_noRoom hs hsq hf hw hm hr), fun hf hw hm hr => ⟨_, rfl, ?_⟩⟩
      · rw [Bool.eq_false_iff]
        intro ht
        rw [Bool.and_eq_true, Bool.and_eq_true, decide_eq_true_eq, decide_eq_true_eq, decide_eq_true_eq] at ht
        exact hf ht
      · obtain ⟨m, hr⟩ := Option.ne_none_iff_exists'.mp hr
        have hp := present_dieOf hf.1
        have hdie : (s.onDie d fun x => { x with tsl := m }).die d = { s.die d with tsl := m } := State.die_onDie_same _ _ hp
        rw [fxTslCreate_room hs hsq hf hw hm hr]
        exact ⟨rfl, hs.begun_ok (.refl _), fun e he => (State.die_begun _ _ _).trans (State.die_onDie_ne _ _ _ he.symm),
          by rw [State.die_begun, hdie], State.tslCreate_made hp hm hr⟩
    · exact State.simple_bad hs (by simpa [fields] using hf)
  · intro there named
    have hnamed : (∃ d ∈ maskDies mask, s.ctxNamed f d = true) ↔ named := by simp only [State.ctxNamed_iff, named]
    refine ⟨fun hf => hends rfl (State.simple_bad hs (by simpa [there] using hf)),
      fun hf hn => hends rfl (fxCtxDestroy_named hs hsq hf (hnamed.mpr hn)), fun hf hn => ⟨_, rfl, ?_⟩⟩
    obtain ⟨hqueues, hgone⟩ := s.destroyFuncCtxs_spec f (maskDies mask)
    rw [fxCtxDestroy_free hs hsq hf fun h => hn (hnamed.mp h)]
    exact ⟨hs.begun_ok hqueues, fun d hd => hgone d hd (hf d hd)⟩

end

section

/-! ### What a save writes (R308)

What a save reads of a die is its Big Top, Turnstiles, queues and head; the writes of the save change DRAM alone. -/

/-- A state with other dies. -/
def State.withDies (s : State) (ds : Vector Die 8) : State := { s with dies := ds }

/-- What a save reads of a die. -/
structure Die.SameSave (x y : Die) : Prop where
  tsl : y.tsl = x.tsl
  inflight : y.inflight = x.inflight
  bigTop : y.bigTop = x.bigTop
  head : y.head = x.head

section
variable {s : State} {ds : Vector Die 8} (h : ∀ d, (s.die d).SameSave ((s.withDies ds).die d))
include h

theorem State.needObj_withDies (c : Canvas) (i : Item) (n : Need) : (s.withDies ds).needObj c i n = s.needObj c i n := by
  simp only [State.needObj, (h _).tsl]

theorem State.needMet_withDies (c : Canvas) (i : Item) (n : Need) : (s.withDies ds).needMet c i n = s.needMet c i n := by
  simp only [State.needMet, State.needObj_withDies h]

theorem State.headWait_withDies (c : Canvas) (i : Item) : (s.withDies ds).headWait c i = s.headWait c i := by
  have hrows : (s.withDies ds).nextRows c i = s.nextRows c i := rfl
  have hneeds : (s.withDies ds).needs = s.needs := rfl
  simp only [State.headWait, State.needObj_withDies h, State.needMet_withDies h, hrows, hneeds]

theorem State.headWaits_withDies (d : DieIx) : (s.withDies ds).headWaits d = s.headWaits d := by
  have hcanvas : (s.withDies ds).canvas = s.canvas := rfl
  simp only [State.headWaits, Die.heads, (h _).inflight, State.headWait_withDies h, hcanvas]

theorem State.saveBytes_withDies (c : Canvas) (v : SavedDie) : (s.withDies ds).saveBytes c v = s.saveBytes c v := by
  simp only [State.saveBytes, State.tslSeen, State.headWaits_withDies h, Die.readBigTop, (h _).tsl, (h _).bigTop, (h _).head]

end

/-- Only the DRAM of dies differs between two states. -/
structure State.DramOnly (s t : State) : Prop where
  rest : ∃ ds, t = s.withDies ds
  dies : ∀ d, ∃ m p, t.die d = { s.die d with dram := m, dramPoison := p }

namespace State.DramOnly

variable {s t : State}

protected theorem refl (s : State) : s.DramOnly s := ⟨⟨s.dies, rfl⟩, fun _ => ⟨_, _, rfl⟩⟩

theorem saveBytes (k : s.DramOnly t) (c : Canvas) (v : SavedDie) : t.saveBytes c v = s.saveBytes c v := by
  obtain ⟨⟨ds, rfl⟩, hd⟩ := k
  refine State.saveBytes_withDies (fun d => ?_) c v
  obtain ⟨m, p, hd⟩ := hd d
  rw [hd]
  exact ⟨rfl, rfl, rfl, rfl⟩

theorem copyIn (k : s.DramOnly t) (d : DieIx) (addr : Nat) (bs : List Byte) : s.DramOnly (t.onDie d fun x => x.copyIn addr bs) := by
  obtain ⟨⟨ds, rfl⟩, hd⟩ := k
  refine ⟨⟨_, rfl⟩, fun e => ?_⟩
  rw [State.die_onDie]
  split
  next he =>
    obtain ⟨rfl, -⟩ := he
    obtain ⟨m, p, hd⟩ := hd d
    rw [hd]
    exact ⟨_, _, rfl⟩
  next => exact hd e

end State.DramOnly

/-- The save buffer of a die written. -/
def State.writeSave (s : State) (c : Canvas) (addr : Nat) (v : SavedDie) : State :=
  s.onDie v.die fun x => x.copyIn addr (s.saveBytes c v)

/-- The save buffers of some dies written: on each die, what the state before the save holds. -/
theorem State.writeSaves_spec {s t : State} (k : s.DramOnly t) (c : Canvas) (addr : Nat) (f : DieIx → SavedDie)
    (hf : ∀ d, (f d).die = d) (ds : List DieIx) :
    s.DramOnly ((ds.map f).foldl (fun t v => t.writeSave c addr v) t) ∧
      ∀ d, s.present d = true → ds.Nodup → (((ds.map f).foldl (fun t v => t.writeSave c addr v) t).die d).dram =
        if d ∈ ds then sSetRange zeroByte (t.die d).dram addr (s.saveBytes c (f d)) else (t.die d).dram := by
  induction ds generalizing t with
  | nil => exact ⟨k, fun _ _ _ => rfl⟩
  | cons e rest ih =>
    have hwrite : t.writeSave c addr (f e) = t.onDie e fun x => x.copyIn addr (s.saveBytes c (f e)) := by
      rw [State.writeSave, hf, k.saveBytes]
    obtain ⟨hk, hd⟩ := ih (hwrite ▸ k.copyIn e addr _)
    refine ⟨hk, fun d hp hn => ?_⟩
    obtain ⟨he, hn⟩ := List.nodup_cons.mp hn
    have hpt : t.present d = true := by
      obtain ⟨ds, rfl⟩ := k.rest
      exact hp
    rw [List.map_cons, List.foldl_cons, hd d hp hn, hwrite, State.die_onDie]
    by_cases hde : d = e
    · subst hde
      simp [he, hpt, Die.copyIn, Die.writeDram]
    · simp [hde, Ne.symm hde]

end

section

/-! ### What a save takes away (R278) -/

section
variable {s : State} {d : DieIx} {f : DieIx → Die → Die} {Q : Die → Prop}

theorem State.onDies_withDies (s : State) (ds : List DieIx) (f : DieIx → Die → Die) : ∃ l, s.onDies ds f = s.withDies l :=
  foldl_inv (P := fun t : State => ∃ l, t = s.withDies l) (fun t e ⟨_, h⟩ => ⟨(t.onDie e (f e)).dies, by rw [h]; rfl⟩)
    ⟨s.dies, rfl⟩

theorem State.die_onDies_keep (ds : List DieIx) (keep : ∀ x, Q x → Q (f d x)) (h : Q (s.die d)) : Q ((s.onDies ds f).die d) := by
  refine foldl_inv (P := fun t : State => Q (t.die d)) (fun t e ht => ?_) h
  rw [State.die_onDie]
  split
  next he =>
    obtain ⟨rfl, -⟩ := he
    exact keep _ ht
  next => exact ht

/-- Dies changed in turn, one of them perhaps more than once. -/
theorem State.die_onDies_reach {ds : List DieIx} (hd : d ∈ ds) (hp : s.present d = true) (keep : ∀ x, Q x → Q (f d x))
    (make : Q (f d (s.die d))) : Q ((s.onDies ds f).die d) := by
  induction ds generalizing s with
  | nil => cases hd
  | cons e rest ih =>
    by_cases he : e = d
    · subst he
      refine State.die_onDies_keep rest keep ?_
      rwa [State.die_onDie_same _ _ hp]
    · refine ih ((List.mem_cons.mp hd).resolve_left (Ne.symm he)) hp ?_
      rwa [State.die_onDie_ne _ _ _ he]

end

/-- A die on which a canvas has nothing in progress. -/
structure Die.Vacated (x y : Die) (c : Canvas) : Prop where
  streams : ∀ e ∈ y.streams, e.2.canvas ≠ some c.id
  inflight : ∀ i ∈ y.inflight, i.canvas ≠ c.id
  dram : y.dram = x.dram
  objs : ∀ k, x.tsl.ctx c.ctx = some k → ∀ n ∈ k.owned, y.tsl.obj n = none

theorem Die.vacate_vacated (x : Die) (c : Canvas) : x.Vacated (x.vacate c) c where
  streams e he := by simpa using List.of_mem_filter he
  inflight i hi := by simpa using List.of_mem_filter hi
  dram := rfl
  objs k hk n hn := by
    simp only [Die.vacate, hk]
    exact Tsl.obj_freeObjs hn

theorem Die.Vacated.vacate {x y : Die} {c : Canvas} (h : x.Vacated y c) : x.Vacated (y.vacate c) c where
  streams := (y.vacate_vacated c).streams
  inflight := (y.vacate_vacated c).inflight
  dram := h.dram
  objs k hk n hn := by
    have hnone := h.objs k hk n hn
    simp only [Die.vacate]
    split
    · exact hnone
    · exact foldl_sErase_none _ (.inr hnone)

/-! ### What enters the queues that a save leaves -/

/-- No run waits for a stream, and the items of a canvas do not enter. -/
def State.Quiet (s : State) (cv : CanvasId) : Prop :=
  ∀ k ∈ s.canvases, k.pause = .running → k.runs = [] ∧ ∀ i ∈ k.items, i.id.canvas ≠ cv

theorem State.Quiet.entrants {s : State} {cv : CanvasId} (h : s.Quiet cv) (d : DieIx) :
    ∀ e ∈ s.entrants d, ∃ i : ItemId, e.2 = .item i ∧ i.canvas ≠ cv := by
  intro e he
  rw [State.entrants, (sortBy_perm _ _).mem_iff, List.mem_flatMap] at he
  obtain ⟨c, hc, he⟩ := he
  split at he
  · cases he
  next hrun =>
    obtain ⟨hruns, hitems⟩ := h c hc (by simpa using hrun)
    rw [hruns, List.filter_nil, List.map_nil, List.append_nil, List.mem_map] at he
    obtain ⟨i, hi, rfl⟩ := he
    exact ⟨i.id, rfl, hitems i (List.mem_of_mem_filter hi)⟩

/-- What entry into the queues of a die leaves, where only items of other canvases enter. -/
structure Die.Refilled (x y : Die) (cv : CanvasId) : Prop where
  streams : y.streams = x.streams
  dram : y.dram = x.dram
  tsl : y.tsl = x.tsl
  inflight : ∀ i ∈ y.inflight, i ∈ x.inflight ∨ i.canvas ≠ cv

/-- What entry into the queues leaves of a state, where only items of other canvases enter. -/
structure State.Refilled (s t : State) (cv : CanvasId) : Prop where
  straps : t.straps = s.straps
  canvases : t.canvases = s.canvases
  dies : ∀ d, (s.die d).Refilled (t.die d) cv

namespace State.Refilled

variable {s0 s : State} {cv : CanvasId}

protected theorem refl (s : State) (cv : CanvasId) : s.Refilled s cv := ⟨rfl, rfl, fun _ => ⟨rfl, rfl, rfl, fun _ => .inl⟩⟩

theorem onDie (k : s0.Refilled s cv) (d : DieIx) {f : Die → Die} (hf : ∀ x, Die.Refilled x (f x) cv) :
    s0.Refilled (s.onDie d f) cv := by
  refine ⟨k.straps, k.canvases, fun e => ?_⟩
  obtain ⟨hs, hd, ht, hi⟩ := k.dies e
  rw [State.die_onDie]
  split
  next he =>
    obtain ⟨rfl, -⟩ := he
    obtain ⟨gs, gd, gt, gi⟩ := hf (s.die d)
    exact ⟨gs.trans hs, gd.trans hd, gt.trans ht, fun i h => (gi i h).elim (hi i) .inr⟩
  next => exact ⟨hs, hd, ht, hi⟩

theorem onHost (k : s0.Refilled s cv) (f : HostSide → HostSide) : s0.Refilled (s.onHost f) cv := ⟨k.straps, k.canvases, k.dies⟩

theorem setReg (k : s0.Refilled s cv) (d : DieIx) (off : Nat) (w : Word) : s0.Refilled (s.setReg d off w) cv :=
  k.onDie d fun _ => ⟨rfl, rfl, rfl, fun _ => .inl⟩

theorem syncInflight (k : s0.Refilled s cv) (d : DieIx) : s0.Refilled (s.syncInflight d) cv := by
  have j : s0.Refilled (s.onDie d fun x => (x.setField Reg.crsInflight 13 0 (s.die d).flight).setField Reg.crsInflight 29 16
      (max (s.die d).flight (x.field Reg.crsInflight 29 16))) cv := k.onDie d fun _ => ⟨rfl, rfl, rfl, fun _ => .inl⟩
  unfold State.syncInflight
  dsimp only
  split
  · exact (j.setReg d _ _).onHost fun _ => _
  · exact j

theorem enter (k : s0.Refilled s cv) (d : DieIx) {i : ItemId} (hi : i.canvas ≠ cv) : s0.Refilled (s.enter d (.item i)) cv := by
  rw [State.enter]
  split
  · exact k
  · refine k.onDie d fun x => ⟨rfl, rfl, rfl, fun j hj => ?_⟩
    obtain hj | hj := List.mem_append.mp hj
    · exact .inl hj
    · exact .inr (List.mem_singleton.mp hj ▸ hi)

theorem refill (k : s0.Refilled s cv) (hq : s0.Quiet cv) (d : DieIx) : s0.Refilled (s.refill d) cv := by
  have hs : s.Quiet cv := by
    rw [State.Quiet, k.canvases]
    exact hq
  refine State.Refilled.syncInflight ?_ d
  refine List.foldlRecOn (motive := fun t => s0.Refilled t cv) _ _ k fun t j e he => ?_
  obtain ⟨i, hi, hne⟩ := hs.entrants d e he
  rw [hi]
  exact j.enter d hne

end State.Refilled

/-! ### CONTEXT_SAVE_COMPLETE -/

section
variable {s : State} {cv : CanvasId} {c : Canvas} {q : FnIx × Nat} {addr : Dword} {ends : List ItemId}

theorem fxContextSaveComplete_early
    (h : ∀ c q addr ends, s.canvas cv = some c → c.pause = .saving q addr ends → s.atSavePoint c ends = false) :
    fxContextSaveComplete cv s = s := by
  rw [fxContextSaveComplete]
  split
  · rfl
  next c hc =>
    split
    next q addr ends hp => exact if_pos (h c q addr ends hc hp)
    · rfl

/-- A canvas as a save keeps it. -/
def Canvas.savedAs (k c : Canvas) (addr : Dword) (dies : List SavedDie) : Canvas :=
  { k with pause := .saved { addr := addr, items := c.items.filter Item.live, dies := dies, discarded := false },
           items := k.items.filter fun i => !i.live }

/-- The state of a save whose buffers are written, with the canvas's work gone from the dies. -/
def State.afterSave (s : State) (c : Canvas) (addr : Dword) : State :=
  let dies := c.dies.map fun d => (s.die d).capture c d
  ((dies.foldl (fun t v => t.writeSave c addr.toNat v) s).onDies c.dies fun _ x => x.vacate c).onCanvas c.id
    fun k => k.savedAs c addr dies

theorem fxContextSaveComplete_eq (hc : s.canvas cv = some c) (hp : c.pause = .saving q addr ends) (he : s.atSavePoint c ends = true) :
    fxContextSaveComplete cv s = (c.dies.foldl (fun t d => t.refill d) (s.afterSave c addr)).finish q (.save cv) (.plain .ok) := by
  obtain rfl := State.id_of_canvas hc
  rw [fxContextSaveComplete, hc]
  simp only [hp, he]
  rfl

/-- On each of its dies nothing of the canvas is left, and the buffer holds its state. -/
theorem State.afterSave_die (s : State) (c : Canvas) (addr : Dword) {d : DieIx} (hd : d ∈ c.dies) (hp : s.present d = true) :
    let y := (s.afterSave c addr).die d
    (∀ e ∈ y.streams, e.2.canvas ≠ some c.id) ∧ (∀ i ∈ y.inflight, i.canvas ≠ c.id) ∧
      (c.dies.Nodup → y.dram = sSetRange zeroByte (s.die d).dram addr.toNat (s.saveBytes c ((s.die d).capture c d))) ∧
      ∀ k, (s.die d).tsl.ctx c.ctx = some k → ∀ n ∈ k.owned, y.tsl.obj n = none := by
  intro y
  obtain ⟨hk, hdram⟩ := State.writeSaves_spec (.refl s) c addr.toNat (fun d => (s.die d).capture c d) (fun _ => rfl) c.dies
  let u := (c.dies.map fun d => (s.die d).capture c d).foldl (fun t v => t.writeSave c addr.toNat v) s
  have hpu : u.present d = true := by
    obtain ⟨l, hl⟩ := hk.rest
    rw [show u = s.withDies l from hl]
    exact hp
  have hv : (u.die d).Vacated y c := State.die_onDies_reach (Q := fun y => (u.die d).Vacated y c) (f := fun _ x => x.vacate c) hd hpu
    (fun _ hx => hx.vacate) ((u.die d).vacate_vacated c)
  obtain ⟨m, p, hu⟩ := hk.dies d
  refine ⟨hv.streams, hv.inflight, fun hn => ?_, fun k hc => hv.objs k ?_⟩
  · rw [hv.dram, hdram d hp hn, if_pos hd]
  · rw [show u.die d = _ from hu]
    exact hc

theorem State.afterSave_rest (s : State) (c : Canvas) (addr : Dword) : ∃ l, s.afterSave c addr =
    (s.withDies l).onCanvas c.id fun k => k.savedAs c addr (c.dies.map fun d => (s.die d).capture c d) := by
  obtain ⟨hk, -⟩ := State.writeSaves_spec (.refl s) c addr.toNat (fun d => (s.die d).capture c d) (fun _ => rfl) c.dies
  obtain ⟨l, hl⟩ := hk.rest
  obtain ⟨m, hm⟩ := State.onDies_withDies (s.withDies l) c.dies fun _ x => x.vacate c
  exact ⟨m, by rw [State.afterSave, hl, hm]; rfl⟩

/-- After the save only items of other canvases enter the queues, where no run of another canvas waits. -/
theorem State.afterSave_quiet (hp : c.pause ≠ .running)
    (h : ∀ k ∈ s.canvases, (k.id = c.id → k = c) ∧ (k.id ≠ c.id → k.runs = []) ∧ ∀ i ∈ k.items, i.id.canvas = k.id) :
    (s.afterSave c addr).Quiet c.id := by
  obtain ⟨l, hl⟩ := s.afterSave_rest c addr
  rw [hl]
  refine forall_mem_updFirst (fun k hk hrun => ?_) fun k _ hrun => nomatch hrun
  obtain ⟨hsame, hruns, hitems⟩ := h k hk
  have hne : k.id ≠ c.id := fun e => hp (hsame e ▸ hrun)
  exact ⟨hruns hne, fun i hi => hitems i hi ▸ hne⟩

theorem State.afterSave_canvas (hc : s.canvas c.id = some c) (addr : Dword) :
    (∀ v, v ≠ c.id → (s.afterSave c addr).canvas v = s.canvas v) ∧
      (s.afterSave c addr).canvas c.id = some (c.savedAs c addr (c.dies.map fun d => (s.die d).capture c d)) := by
  obtain ⟨l, hl⟩ := s.afterSave_rest c addr
  have hc : (s.withDies l).canvas c.id = some c := hc
  rw [hl]
  exact ⟨fun v hv => State.canvas_onCanvas_ne (fun _ => rfl) hv, State.canvas_onCanvas_same hc rfl⟩

end

/-- Settles O40: the buffers are written as the state before the save holds it, each die loses the canvas's work, and what then enters the
queues is of other canvases. -/
theorem contextSave : Obligations.context_save := by
  unfold Obligations.context_save
  refine ⟨fun s cv h => ⟨_, rfl, fxContextSaveComplete_early h⟩, fun s cv c q addr ends hc hp he hcanvases => ⟨_, rfl, ?_⟩⟩
  obtain rfl := State.id_of_canvas hc
  have hquiet := State.afterSave_quiet (addr := addr) (by rw [hp]; nofun) hcanvases
  obtain ⟨hne, hsame⟩ := State.afterSave_canvas hc addr
  let t := c.dies.foldl (fun t d => t.refill d) (s.afterSave c addr)
  have ht : (s.afterSave c addr).Refilled t c.id := 
    foldl_inv (P := fun t => (s.afterSave c addr).Refilled t c.id) (fun _ d k => k.refill hquiet d) (.refl _ _)
  have hcanvas (v : CanvasId) : t.canvas v = (s.afterSave c addr).canvas v := by rw [State.canvas, ht.canvases, State.canvas]
  rw [fxContextSaveComplete_eq hc hp he]
  refine ⟨fun v hv => (hcanvas v).trans (hne v hv), ⟨_, _, (hcanvas c.id).trans hsame, rfl, rfl, rfl, rfl, rfl⟩, fun d hd hpd => ?_⟩
  obtain ⟨hstreams, hinflight, hdram, hobjs⟩ := s.afterSave_die c addr hd hpd
  obtain ⟨rstreams, rdram, rtsl, rinflight⟩ := ht.dies d
  refine ⟨fun e h => hstreams e (rstreams ▸ h), fun i h => (rinflight i h).elim (hinflight i) id, fun hn => rdram.trans (hdram hn),
    fun x v e hx hv himp n hn => ?_⟩
  have hnone := hobjs x hx n (List.mem_flatMap.mpr ⟨(v, e), hv, hn⟩)
  rw [← rtsl] at hnone
  exact hnone

end

end Sys2Proof.Machine
end

section
/-! SUPPORT. Proofs of the statements of 11_determinism. -/

namespace Sys2Proof.Machine

/-! ### The device time -/

/-- A tick counts once the clocks run, and changes nothing else. -/
theorem State.tick_spec (s : State) : s.tick.gsc = (if s.clocks then s.gsc + 1 else s.gsc) ∧ { s.tick with gsc := s.gsc } = s := by
  unfold State.tick
  by_cases hc : s.clocks = true
  · rw [if_pos hc, if_pos hc]
    exact ⟨rfl, rfl⟩
  · rw [if_neg hc, if_neg hc]
    exact ⟨rfl, rfl⟩

/-- Settles O2: with no command at the front a step is `State.tick`. -/
theorem idleStepIsATick : Obligations.idle_step_is_a_tick := by
  unfold Obligations.idle_step_is_a_tick
  intro s hs
  exact ⟨s.tick, by rw [step, hs], s.tick_spec⟩

/-- A command takes no device time: it leaves the counter or returns it to 0. -/
theorem exec_gsc (c : Instr) (s : State) : ∃ t, exec c s = .next t ∧ (t.gsc = s.gsc ∨ t.gsc = 0) := by
  by_cases hpower : ∃ st, c = .powerOn st
  · obtain ⟨st, rfl⟩ := hpower
    obtain ⟨-, -, -, -, hgsc⟩ := fxPowerOn_spec st s
    exact ⟨_, rfl, .inr hgsc⟩
  · by_cases haudit : c = .auditProgram
    · obtain ⟨o, k⟩ := fxAuditProgram_keeps s
      exact haudit ▸ ⟨_, rfl, k.gsc⟩
    · obtain ⟨t, ht, k⟩ := exec_keeps c s (fun st e => hpower ⟨st, e⟩) haudit
      exact ⟨t, ht, k.gsc⟩

/-- Settles O8: a step is a tick where no command waits, and else one command. -/
theorem deviceTimeStandsDuringCommands : Obligations.device_time_stands_during_commands := by
  unfold Obligations.device_time_stands_during_commands
  intro s t ht
  rw [step] at ht
  cases hq : s.pending with
  | nil =>
    rw [hq] at ht
    obtain rfl : s.tick = t := Host.Outcome.next.inj ht
    obtain ⟨hgsc, -⟩ := s.tick_spec
    cases hc : s.clocks with
    | true => exact .inr (.inr ⟨rfl, rfl, by rw [hgsc, hc, if_pos rfl]⟩)
    | false => exact .inl (by rw [hgsc, hc]; rfl)
  | cons c rest =>
    rw [hq] at ht
    obtain ⟨u, hu, hgsc⟩ := exec_gsc c { s with pending := rest }
    obtain rfl : u = t := Host.Outcome.next.inj (hu.symm.trans ht)
    exact hgsc.imp_right .inl

/-! ### A replay beside a canvas of the same identifier (R33, R304)

The frame of a Replay canvas begins with a frame boundary of its heads, where a change of operating point that waits takes effect. As for
a first release (`not_releases`), the latch stores every canvas of the list by its identifier, so that of two canvases of one identifier
the second is stored over the first, whose new frame is lost. -/

/-- A Replay canvas that has yet to begin the frame of its first record, after a number of frames. -/
def replayAfter (n : Nat) : Canvas := { Tests.replaying [Tests.frame0 0] with frameNo := n }

/-- The part with such a canvas and a second of the same identifier, in frame 7, while a change to OP1 waits for its latch. -/
def sharedReplayPart : State :=
  { Tests.up with canvases := [replayAfter 0, replayAfter 7], power := { Tests.up.power with target := some .op1 } }

theorem fed_sharedReplayPart : sharedReplayPart.fed (replayAfter 0) (Tests.frame0 0) = true := by decide +kernel

/-- The canvas found under the identifier after the advance is in frame 7, not in frame 1. -/
theorem replayFrameAdvance_sharedReplayPart_frameNo :
    ((fxReplayFrameAdvance Tests.cv0 sharedReplayPart).canvas Tests.cv0).map Canvas.frameNo = some 7 := by decide +kernel

/-- Refutes O42: it says that a Replay canvas whose next frame has its source frames begins that frame, while a change of operating point
that latches at its boundary stores a second canvas of its identifier in its place. That canvas is in frame 7, and frame 1 is due. -/
theorem not_recorderAndReplay : ¬ Obligations.recorder_and_replay := by
  unfold Obligations.recorder_and_replay
  rintro ⟨-, h⟩
  obtain ⟨-, -, -, hreplay⟩ := h sharedReplayPart Tests.cv0 (replayAfter 0) rfl
  have hgoes : ¬ ((replayAfter 0).replays = false ∨ (replayAfter 0).pause ≠ .running ∨ (replayAfter 0).firstAt.isSome = true) := by
    decide
  have hidle : ¬ ∃ i ∈ (replayAfter 0).items, i.frame + 1 ≤ (replayAfter 0).frameNo ∧ i.live = true :=
    fun ⟨_, hi, _⟩ => List.not_mem_nil hi
  obtain ⟨-, hbegin, -⟩ := hreplay (Tests.frame0 0) [] hgoes rfl
  obtain ⟨-, hnext⟩ := hbegin (by decide) rfl
  obtain ⟨t, ht, k, hk, hone, -⟩ := hnext fed_sharedReplayPart hidle
  obtain rfl : fxReplayFrameAdvance Tests.cv0 sharedReplayPart = t := Host.Outcome.next.inj ht
  have hseven := replayFrameAdvance_sharedReplayPart_frameNo
  rw [hk, Option.map_some, hone] at hseven
  exact absurd hseven (by decide)

end Sys2Proof.Machine
end


section
/-! SUPPORT. Proofs of the statements of 11_determinism: boot (R291, R293, R383, R386, R388, R401). -/

namespace Sys2Proof.Machine

/-- A field of a register word below the one that is set reads as before. -/
theorem bits_setBits_below (w : Word) {hi lo hi' lo' : Nat} (v : Nat) (h : hi' < lo) :
    bits (setBits w hi lo v) hi' lo' = bits w hi' lo' := by
  refine Nat.eq_of_testBit_eq fun i => ?_
  rw [bits, bits, setBits, BitVec.toNat_ofNat, testBit_natBits, testBit_natBits, Nat.testBit_mod_two_pow, testBit_natSetBits]
  by_cases hin : i < hi' + 1 - lo'
  · rw [if_neg (by omega)]
    by_cases hw : lo' + i < 32
    · simp [hw]
    · have hzero : w.toNat.testBit (lo' + i) = false :=
        Nat.testBit_lt_two_pow (w.isLt.trans_le (Nat.pow_le_pow_right (by decide) (by omega)))
      simp [hzero]
  · simp [hin]

/-! ### Every die of the part changed -/

section
variable {s : State} {d : DieIx} {f : DieIx → Die → Die}

theorem State.die_onDies_of_not_mem {ds : List DieIx} (hd : d ∉ ds) : (s.onDies ds f).die d = s.die d := by
  induction ds generalizing s with
  | nil => rfl
  | cons e rest ih =>
    obtain ⟨hne, hrest⟩ := not_or.mp (mt List.mem_cons.mpr hd)
    exact (ih hrest).trans (State.die_onDie_ne _ _ _ (Ne.symm hne))

theorem State.die_onDies_of_mem {ds : List DieIx} (hn : ds.Nodup) (hd : d ∈ ds) (hp : s.present d = true) :
    (s.onDies ds f).die d = f d (s.die d) := by
  induction ds generalizing s with
  | nil => cases hd
  | cons e rest ih =>
    obtain ⟨hnot, hn⟩ := List.nodup_cons.mp hn
    by_cases he : e = d
    · subst he
      exact (State.die_onDies_of_not_mem hnot).trans (State.die_onDie_same _ _ hp)
    · exact (ih (s := s.onDie e (f e)) hn ((List.mem_cons.mp hd).resolve_left (Ne.symm he)) hp).trans (congrArg (f d) (State.die_onDie_ne s e d he))

/-- Each die of the part is changed once. -/
theorem State.die_onDies_dieList (hp : s.present d = true) : (s.onDies s.dieList f).die d = f d (s.die d) :=
  State.die_onDies_of_mem ((List.nodup_finRange 8).filter _) (State.mem_dieList.mpr hp) hp

end

/-! ### PKG_LOCK -/

section
variable {s : State} {d : DieIx}

theorem fxPkgLock_idle (h : s.clocks = true ∨ s.pins.resetN = false) : fxPkgLock s = s := if_pos h

theorem fxPkgLock_locks (hc : s.clocks = false) (hr : s.pins.resetN = true) : ∃ l, fxPkgLock s =
      { s.withDies l with pins := { s.pins with pkgLock := true, pkgSync := true } } ∧
    ∀ d, s.present d = true → (fxPkgLock s).die d = { s.die d with boot := { (s.die d).boot with pllLocked := true } } := by
  obtain ⟨l, hl⟩ := s.onDies_withDies s.dieList fun _ x => { x with boot := { x.boot with pllLocked := true } }
  have e : fxPkgLock s = { s.withDies l with pins := { s.pins with pkgLock := true, pkgSync := true } } := by
    rw [fxPkgLock, if_neg (by simp [hc, hr]), hl]
    rfl
  refine ⟨l, e, fun d hp => ?_⟩
  have hd := State.die_onDies_dieList (f := fun _ x => { x with boot := { x.boot with pllLocked := true } }) hp
  rw [hl] at hd
  rw [e]
  exact hd

end

/-! ### Links (R291) -/

/-- Only the Gaide links of dies differ between two states. -/
structure State.OnlyLinks (s t : State) : Prop where
  frame : t = s.withDies t.dies
  die : ∀ e, t.die e = { s.die e with links := (t.die e).links }

namespace State.OnlyLinks

variable {s0 s t : State}

protected theorem refl (s : State) : s.OnlyLinks s := ⟨rfl, fun _ => rfl⟩

theorem trans (h : s0.OnlyLinks s) (k : s.OnlyLinks t) : s0.OnlyLinks t :=
  ⟨by rw [k.frame, h.frame]; rfl, fun e => by rw [k.die e, h.die e]⟩

theorem onLink (h : s0.OnlyLinks s) (d : DieIx) (k : Fin 4) (f : GaideLink → GaideLink) :
    s0.OnlyLinks (s.onDie d fun x => x.onLink k f) := by
  refine h.trans ⟨rfl, fun e => ?_⟩
  rw [State.die_onDie]
  split
  next he =>
    obtain ⟨rfl, -⟩ := he
    rfl
  next => rfl

theorem trainLinks (h : s0.OnlyLinks s) (d : DieIx) : s0.OnlyLinks (s.trainLinks d) := by
  refine foldl_inv (P := fun t => s0.OnlyLinks t) (fun t k ht => ?_) h
  split
  · exact ht
  · dsimp only
    split
    · exact ht
    · exact (ht.onLink d k _).onLink _ k _

theorem boot (h : s.OnlyLinks t) (e : DieIx) : (t.die e).boot = (s.die e).boot := by rw [h.die e]

theorem field (h : s.OnlyLinks t) (e : DieIx) (off hi lo : Nat) : t.field e off hi lo = s.field e off hi lo := by
  rw [State.field, h.die e]
  rfl

theorem gsc (h : s.OnlyLinks t) : t.gsc = s.gsc := by rw [h.frame]; rfl

theorem clocks (h : s.OnlyLinks t) : t.clocks = s.clocks := by rw [h.frame]; rfl

theorem present (h : s.OnlyLinks t) (e : DieIx) : t.present e = s.present e := by rw [h.frame]; rfl

end State.OnlyLinks

/-! ### The release edge of the part (R291) -/

/-- The phase in which a die leaves the release edge: the ROM of die 0 waits for the host where BOOT_SRC says so (R383). -/
def State.firstPhase (s : State) (d : DieIx) : BootPhase := if d = 0 ∧ s.straps.bootHost = true then .waitHost else .rom

/-- A die as the release edge of the part leaves it, but for its links. -/
def Die.releasedAt (x : Die) (refPcie : Bool) (phase : BootPhase) : Die :=
  { ((x.setField Reg.detStatus 1 0 3).setField Reg.detConfig 4 4 (b2n refPcie)) with
    boot := { x.boot with released := true, phase := phase } }

section
variable {s : State} {d : DieIx}

theorem fxReleaseEdge_idle (hc : s.clocks = false) (hs : s.pins.pkgSync = false) : fxReleaseEdge s = s := by
  rw [fxReleaseEdge, if_neg (by simp [hc]), if_pos hs]

theorem fxReleaseEdge_part (hc : s.clocks = false) (hs : s.pins.pkgSync = true) :
    State.OnlyLinks { s.onDies s.dieList (fun d x => x.releasedAt s.straps.refPcie (s.firstPhase d)) with clocks := true, gsc := 0 }
      (fxReleaseEdge s) := by
  have hphase (d : DieIx) : (if d.val = 0 ∧ s.straps.bootHost = true then BootPhase.waitHost else .rom) = s.firstPhase d := by
    simp only [State.firstPhase, Fin.ext_iff]
    rfl
  rw [fxReleaseEdge, if_neg (by simp [hc]), if_neg (by simp [hs])]
  simp only [hphase]
  exact foldl_inv (P := fun t => State.OnlyLinks _ t) (fun _ d ht => ht.trainLinks d) (.refl _)

theorem fxReleaseEdge_part_die (hc : s.clocks = false) (hs : s.pins.pkgSync = true) (hp : s.present d = true) :
    (fxReleaseEdge s).field d Reg.detStatus 1 0 = 3 ∧ ((fxReleaseEdge s).die d).boot.released = true ∧
      ((fxReleaseEdge s).die d).boot.phase = s.firstPhase d := by
  have h := fxReleaseEdge_part hc hs
  have hd := State.die_onDies_dieList (f := fun d x => x.releasedAt s.straps.refPcie (s.firstPhase d)) hp
  refine ⟨?_, ?_, ?_⟩
  · rw [h.field, State.field]
    refine (congrArg (Die.field · Reg.detStatus 1 0) hd).trans ?_
    rw [Die.field]
    refine (congrArg (bits · 1 0) (Die.reg_setReg_ne _ _ (by decide))).trans ?_
    exact (congrArg (bits · 1 0) (Die.reg_setReg_same _ _ _)).trans (bits_setBits _ 0 3 (by decide))
  · rw [h.boot]
    exact congrArg (fun x => x.boot.released) hd
  · rw [h.boot]
    exact congrArg (fun x => x.boot.phase) hd

end

/-! ### The release edge of a die that was reset alone (R293) -/

/-- A die that starts its dividers, with the DET_CONFIG of die 0. -/
def Die.startDividers (x : Die) (config : Word) : Die :=
  { ((x.setField Reg.detStatus 0 0 1).setReg Reg.detConfig config) with
    boot := { x.boot with inReset := false, pllLocked := true, released := true } }

/-- XALIGNED of a die falls. -/
def State.misalign (s : State) (d : DieIx) : State :=
  if s.field d Reg.detStatus 1 1 = 1 then (s.setField d Reg.detStatus 1 1 0).raise d Reg.detEvt 0x10 else s

section
variable {s t : State} {d e : DieIx}

theorem State.loseAlignment_eq (s : State) : s.loseAlignment = s.dieList.foldl State.misalign s := rfl

theorem State.rejoinClock_eq (s : State) (d : DieIx) :
    s.rejoinClock d = ((s.onDie d fun x => x.startDividers (s.reg 0 Reg.detConfig)).loseAlignment).trainLinks d := rfl

theorem State.OnlyReports.misalign (h : s.OnlyReports t) (d : DieIx) : s.OnlyReports (t.misalign d) :=
  .ite ((h.onDie d fun _ => rfl).raise d _ _) h

theorem State.reg_misalign (s : State) (d e : DieIx) : (s.misalign d).reg e Reg.detStatus =
    if d = e ∧ s.present d = true ∧ s.field d Reg.detStatus 1 1 = 1 then setBits (s.reg d Reg.detStatus) 1 1 0
    else s.reg e Reg.detStatus := by
  unfold State.misalign
  by_cases h1 : s.field d Reg.detStatus 1 1 = 1
  · have hset : (s.setField d Reg.detStatus 1 1 0).reg e Reg.detStatus =
        if d = e ∧ s.present d = true ∧ Reg.detStatus = Reg.detStatus then setBits (s.reg d Reg.detStatus) 1 1 0
        else s.reg e Reg.detStatus := s.reg_setReg d e Reg.detStatus Reg.detStatus _
    rw [if_pos h1, State.reg_raise, if_neg fun h => absurd h.2.2 (by decide), hset]
    simp only [h1]
  · rw [if_neg h1, if_neg fun h => h1 h.2.2]

theorem State.clockOn_misalign (s : State) (d e : DieIx) :
    (s.misalign d).field e Reg.detStatus 0 0 = s.field e Reg.detStatus 0 0 := by
  refine (congrArg (bits · 0 0) (s.reg_misalign d e)).trans ?_
  split
  next h =>
    obtain ⟨rfl, -⟩ := h
    exact bits_setBits_below _ _ (by decide)
  next => rfl

theorem State.unaligned_misalign (h : s.field e Reg.detStatus 1 1 = 0 ∨ d = e ∧ s.present d = true) :
    (s.misalign d).field e Reg.detStatus 1 1 = 0 := by
  refine (congrArg (bits · 1 1) (s.reg_misalign d e)).trans ?_
  split
  next => exact bits_setBits _ 1 0 (by decide)
  next hno =>
    obtain h | ⟨rfl, hp⟩ := h
    · exact h
    · have hne : s.field d Reg.detStatus 1 1 ≠ 1 := fun h1 => hno ⟨rfl, hp, h1⟩
      have hlt : s.field d Reg.detStatus 1 1 < 2 := Nat.mod_lt _ (by decide)
      change s.field d Reg.detStatus 1 1 = 0
      omega

/-- Once alignment has fallen, XALIGNED is 0 on every die; no clock stops, and nothing but a register and a report changes. -/
theorem State.loseAlignment_spec (s : State) : s.OnlyReports s.loseAlignment ∧
    (∀ e, s.loseAlignment.field e Reg.detStatus 0 0 = s.field e Reg.detStatus 0 0) ∧
    ∀ e, s.present e = true → s.loseAlignment.field e Reg.detStatus 1 1 = 0 := by
  rw [s.loseAlignment_eq]
  refine ⟨foldl_inv (P := fun t => s.OnlyReports t) (fun _ d h => h.misalign d) (.refl s), fun e => ?_, fun e hp => ?_⟩
  · exact foldl_inv (P := fun t : State => t.field e Reg.detStatus 0 0 = s.field e Reg.detStatus 0 0)
      (fun t d h => (t.clockOn_misalign d e).trans h) rfl
  · exact foldl_reaches (P := fun t => s.OnlyReports t) (Q := fun t : State => t.field e Reg.detStatus 1 1 = 0)
      (State.mem_dieList.mpr hp) (fun _ d _ h => h.misalign d) (fun _ _ _ h => State.unaligned_misalign (.inl h))
      (fun _ h => State.unaligned_misalign (.inr ⟨rfl, (h.present e).trans hp⟩)) (.refl s)

/-- A die that rejoins: every other die keeps its boot state and its clock, and XALIGNED is 0 on every die. -/
theorem State.rejoinClock_spec (s : State) (d : DieIx) :
    (s.rejoinClock d).gsc = s.gsc ∧ (∀ e, (s.rejoinClock d).present e = s.present e) ∧
    (∀ e, ((s.rejoinClock d).die e).boot = if d = e ∧ s.present d = true then
      { (s.die d).boot with inReset := false, pllLocked := true, released := true } else (s.die e).boot) ∧
    (∀ e, (s.rejoinClock d).field e Reg.detStatus 0 0 = if d = e ∧ s.present d = true then 1 else s.field e Reg.detStatus 0 0) ∧
    ∀ e, s.present e = true → (s.rejoinClock d).field e Reg.detStatus 1 1 = 0 := by
  rw [s.rejoinClock_eq]
  generalize hu : (s.onDie d fun x => x.startDividers (s.reg 0 Reg.detConfig)) = u
  have hdie (e : DieIx) : u.die e = if d = e ∧ s.present d = true then (s.die d).startDividers (s.reg 0 Reg.detConfig) else s.die e := by
    rw [← hu, State.die_onDie]
  have hgsc : u.gsc = s.gsc := hu ▸ rfl
  have hpresent (e : DieIx) : u.present e = s.present e := hu ▸ rfl
  obtain ⟨hreports, hclock, haligned⟩ := u.loseAlignment_spec
  have hlinks := (State.OnlyLinks.refl u.loseAlignment).trainLinks d
  refine ⟨?_, fun e => ?_, fun e => ?_, fun e => ?_, fun e hp => ?_⟩
  · rw [hlinks.gsc, hreports.gsc, hgsc]
  · rw [hlinks.present, hreports.present, hpresent]
  · rw [hlinks.boot, hreports.die e, hdie e]
    split <;> rfl
  · rw [hlinks.field, hclock, State.field, hdie e]
    split
    · refine (congrArg (bits · 0 0) (Die.reg_setReg_ne _ _ (by decide))).trans ?_
      exact (congrArg (bits · 0 0) (Die.reg_setReg_same _ _ _)).trans (bits_setBits _ 0 1 (by decide))
    · rfl
  · rw [hlinks.field, haligned e ((hpresent e).trans hp)]

/-- The dies that a release edge brings back: each held in reset alone for 1 ms. -/
def State.rejoining (s : State) : List DieIx :=
  s.dieList.filter fun d => (s.die d).boot.alone && (s.die d).boot.inReset && decide ((s.die d).boot.resetAt + 100_000 ≤ s.gsc)

theorem State.mem_rejoining : d ∈ s.rejoining ↔ s.present d = true ∧ (s.die d).boot.alone = true ∧ (s.die d).boot.inReset = true ∧
    (s.die d).boot.resetAt + 100_000 ≤ s.gsc := by
  simp [State.rejoining, State.mem_dieList, and_assoc]

theorem fxReleaseEdge_late (hc : s.clocks = true) (h : s.gsc % 2 = 1 ∨ s.power.standby = true) : fxReleaseEdge s = s := by
  rw [fxReleaseEdge, if_pos hc, if_pos h]

theorem fxReleaseEdge_rejoins (hc : s.clocks = true) (hg : s.gsc % 2 = 0) (hs : s.power.standby = false) :
    fxReleaseEdge s = s.rejoining.foldl State.rejoinClock s := by
  rw [fxReleaseEdge, if_pos hc, if_neg (by simp [hg, hs])]
  rfl

theorem fxReleaseEdge_none (hc : s.clocks = true) (h : s.gsc % 2 = 1 ∨ s.power.standby = true ∨ ∀ d, s.present d = true →
    (s.die d).boot.alone = true → (s.die d).boot.inReset = true → s.gsc < (s.die d).boot.resetAt + 100_000) : fxReleaseEdge s = s := by
  by_cases hl : s.gsc % 2 = 1 ∨ s.power.standby = true
  · exact fxReleaseEdge_late hc hl
  · obtain ⟨hg, hs⟩ := not_or.mp hl
    have hall := (h.resolve_left hg).resolve_left hs
    have hnone : s.rejoining = [] := List.eq_nil_iff_forall_not_mem.mpr fun d hd => by
      obtain ⟨hp, halone, hreset, hat⟩ := State.mem_rejoining.mp hd
      exact absurd hat (Nat.not_le.mpr (hall d hp halone hreset))
    rw [fxReleaseEdge_rejoins hc (by omega) (Bool.eq_false_iff.mpr hs), hnone]
    rfl

/-- A die that has rejoined since a state, with no die aligned to another. -/
structure State.Rejoined (s t : State) (d : DieIx) : Prop where
  gsc : t.gsc = s.gsc
  present : ∀ e, t.present e = s.present e
  out : (t.die d).boot.inReset = false
  released : (t.die d).boot.released = true
  clock : t.field d Reg.detStatus 0 0 = 1
  unaligned : ∀ e, s.present e = true → t.field e Reg.detStatus 1 1 = 0

theorem State.Rejoined.make (hg : t.gsc = s.gsc) (hpr : ∀ e, t.present e = s.present e) (hp : s.present d = true) :
    s.Rejoined (t.rejoinClock d) d := by
  obtain ⟨hgsc, hpresent, hboot, hclock, haligned⟩ := t.rejoinClock_spec d
  have hd : d = d ∧ t.present d = true := ⟨rfl, (hpr d).trans hp⟩
  exact ⟨hgsc.trans hg, fun e => (hpresent e).trans (hpr e), by rw [hboot, if_pos hd], by rw [hboot, if_pos hd], by rw [hclock, if_pos hd],
    fun e he => haligned e ((hpr e).trans he)⟩

theorem State.Rejoined.keep (h : s.Rejoined t d) (e : DieIx) : s.Rejoined (t.rejoinClock e) d := by
  obtain ⟨hgsc, hpresent, hboot, hclock, haligned⟩ := t.rejoinClock_spec e
  refine ⟨hgsc.trans h.gsc, fun e => (hpresent e).trans (h.present e), ?_, ?_, ?_, fun e he => haligned e ((h.present e).trans he)⟩
  · rw [hboot]
    split
    · rfl
    · exact h.out
  · rw [hboot]
    split
    · rfl
    · exact h.released
  · rw [hclock]
    split
    · rfl
    · exact h.clock

theorem fxReleaseEdge_die (hc : s.clocks = true) (hg : s.gsc % 2 = 0) (hs : s.power.standby = false) (hd : d ∈ s.rejoining) :
    s.Rejoined (fxReleaseEdge s) d := by
  obtain ⟨hp, -⟩ := State.mem_rejoining.mp hd
  rw [fxReleaseEdge_rejoins hc hg hs]
  refine foldl_reaches (P := fun t : State => t.gsc = s.gsc ∧ ∀ e, t.present e = s.present e) (Q := fun t => s.Rejoined t d) hd
    (fun t e _ ⟨hg, hpr⟩ => ?_) (fun t e _ h => h.keep e) (fun t ⟨hg, hpr⟩ => .make hg hpr hp) ⟨rfl, fun _ => rfl⟩
  obtain ⟨hgsc, hpresent, -⟩ := t.rejoinClock_spec e
  exact ⟨hgsc.trans hg, fun e => (hpresent e).trans (hpr e)⟩

end

/-! ### Firmware images (R386, R387) -/

/-- What reports, requests and the audit ring leave of a die that boots: its boot state, and the words that show its firmware. -/
structure Die.SameFirmware (x y : Die) : Prop where
  boot : y.boot = x.boot
  secBoot : y.reg Reg.secBoot = x.reg Reg.secBoot
  build : y.reg Reg.detClassHi = x.reg Reg.detClassHi

section
variable {s t : State} {d : DieIx}

theorem Die.SameFirmware.setReg {x y : Die} (h : x.SameFirmware y) {off : Nat} (w : Word) (hb : off ≠ Reg.secBoot)
    (hc : off ≠ Reg.detClassHi) : x.SameFirmware (y.setReg off w) :=
  ⟨h.boot, (y.reg_setReg_ne w hb).trans h.secBoot, (y.reg_setReg_ne w hc).trans h.build⟩

/-- A register of another kind written on some die. -/
theorem State.sameFirmware_setReg (s : State) (d e : DieIx) {off : Nat} (w : Word) (hb : off ≠ Reg.secBoot) (hc : off ≠ Reg.detClassHi) :
    (s.die e).SameFirmware ((s.setReg d off w).die e) := by
  have hrefl : (s.die e).SameFirmware (s.die e) := ⟨rfl, rfl, rfl⟩
  rw [State.die_setReg]
  split
  next h =>
    obtain ⟨rfl, -⟩ := h
    exact hrefl.setReg w hb hc
  next => exact hrefl

theorem Die.SameFirmware.trans {x y z : Die} (h : x.SameFirmware y) (k : y.SameFirmware z) : x.SameFirmware z :=
  ⟨k.boot.trans h.boot, k.secBoot.trans h.secBoot, k.build.trans h.build⟩

theorem State.audited_sameFirmware (s : State) (a : AuditEntry) (e : DieIx) : (s.die e).SameFirmware ((s.audited a id).die e) := by
  unfold State.audited
  split
  · exact ⟨rfl, rfl, rfl⟩
  · exact s.sameFirmware_setReg 0 e _ (by decide) (by decide)

/-- The result of a boot request is shown on die 0 alone, in SEC_REQ_CTRL. -/
theorem State.endBootRequest_spec (s : State) (d : DieIx) (st : Status) :
    s.OnlyDie (s.endBootRequest d st) d ∧ ∀ e, (s.die e).SameFirmware ((s.endBootRequest d st).die e) := by
  unfold State.endBootRequest
  split
  next h =>
    obtain rfl : d = 0 := Fin.ext h.1
    have hreq : s.reqStatus .pf st = (s.setField 0 Reg.secReqCtrl 15 8 st.code).setField 0 Reg.secReqCtrl 2 2 0 := rfl
    rw [hreq]
    exact ⟨(s.onlyDie_onDie 0 _).trans (State.onlyDie_onDie _ 0 _), fun e =>
      (s.sameFirmware_setReg 0 e _ (by decide) (by decide)).trans (State.sameFirmware_setReg _ 0 e _ (by decide) (by decide))⟩
  next => exact ⟨⟨rfl, fun _ _ => rfl⟩, fun _ => ⟨rfl, rfl, rfl⟩⟩

/-- A die on which an image runs. -/
def Die.runs (x : Die) (img : List Byte) : Die :=
  let y := (((x.setField Reg.secBoot 10 3 0).setField Reg.secBoot 12 11 (leAt img 6 2)).setField Reg.secBoot 18 13 (leAt img 12 4)).setReg
    Reg.detClassHi (BitVec.ofNat 32 (leAt img 8 4))
  { y with boot := { y.boot with phase := .running } }

theorem Die.reg_runs_build (x : Die) (img : List Byte) : (x.runs img).reg Reg.detClassHi = BitVec.ofNat 32 (leAt img 8 4) :=
  Die.reg_setReg_same _ _ _

theorem Die.reg_runs_secBoot (x : Die) (img : List Byte) : (x.runs img).reg Reg.secBoot =
    setBits (setBits (setBits (x.reg Reg.secBoot) 10 3 0) 12 11 (leAt img 6 2)) 18 13 (leAt img 12 4) := by
  refine (Die.reg_setReg_ne _ _ (by decide)).trans ?_
  simp only [Die.reg_setField, if_true]

/-- The status of SEC_BOOT is ST_OK, and SVN is the image's, which fits its field. -/
theorem Die.secBoot_runs (x : Die) {img : List Byte} (h : leAt img 12 4 ≤ 63) :
    (x.runs img).field Reg.secBoot 10 3 = 0 ∧ (x.runs img).field Reg.secBoot 18 13 = leAt img 12 4 := by
  rw [Die.field, Die.field, x.reg_runs_secBoot]
  refine ⟨?_, ?_⟩
  · rw [bits_setBits_below _ _ (by decide), bits_setBits_below _ _ (by decide), bits_setBits _ 3 0 (by decide), Nat.zero_mod]
  · rw [bits_setBits _ 13 _ (by decide)]
    exact Nat.mod_eq_of_lt (by omega)

theorem State.runImage_sameFirmware (img : List Byte) (hp : s.present d = true) :
    ((s.die d).runs img).SameFirmware ((s.runImage d img).die d) := by
  have hd : (s.onDie d fun x => x.runs img).die d = (s.die d).runs img := s.die_onDie_same d hp
  unfold State.runImage
  dsimp only
  split
  · exact hd ▸ ⟨rfl, rfl, rfl⟩
  · refine Die.SameFirmware.trans ?_ (State.audited_sameFirmware _ _ d)
    exact hd ▸ ⟨rfl, rfl, rfl⟩

/-- An image that is accepted has a version of at most 63, and at least the rollback floor. -/
theorem Otp.accepts_version {o : Otp} {img : List Byte} (h : o.accepts img = true) : leAt img 12 4 ≤ 63 ∧ o.floor ≤ leAt img 12 4 := by
  simp only [Otp.accepts, Bool.and_eq_true, decide_eq_true_eq] at h
  obtain ⟨⟨⟨⟨hsound, -⟩, -⟩, hfloor⟩, -⟩ := h
  simp only [imageSound, Bool.and_eq_true, decide_eq_true_eq] at hsound
  obtain ⟨⟨⟨-, hversion⟩, -⟩, -⟩ := hsound
  exact ⟨hversion, hfloor⟩

end

section
variable {s : State} {d : DieIx}

/-- The image that the ROM of a die checks: die 0 fetches it from flash, unless the host has supplied one. -/
def State.fetchedImage (s : State) (d : DieIx) (image : List Byte) : List Byte :=
  if d = 0 ∧ (s.die d).boot.phase = .rom then image else s.image.getD image

/-- A die whose ROM has an image to check. -/
structure State.MayVerify (s : State) (d : DieIx) : Prop where
  present : s.present d = true
  released : (s.die d).boot.released = true
  out : (s.die d).boot.inReset = false
  waits : (s.die d).boot.phase = .rom ∨ (s.die d).boot.phase = .verifying
  supplied : s.image.isSome = true ∨ s.straps.bootHost = false

theorem fxImageVerify_idle (image : List Byte) (h : s.present d = false ∨ (s.die d).boot.released = false ∨
    (s.die d).boot.inReset = true ∨ ((s.die d).boot.phase ≠ .rom ∧ (s.die d).boot.phase ≠ .verifying) ∨
    (s.image = none ∧ s.straps.bootHost = true)) : fxImageVerify d image s = s := by
  refine if_pos ?_
  rwa [Option.isNone_iff_eq_none]

theorem fxImageVerify_eq (image : List Byte) (h : s.MayVerify d) : fxImageVerify d image s =
    if s.otp.accepts (s.fetchedImage d image) then (s.runImage d (s.fetchedImage d image)).endBootRequest d .ok
    else (s.refuseImage d (decide (d = 0 ∧ (s.die d).boot.phase = .rom))).endBootRequest d .auth := by
  have hflash : (decide (d.val = 0) && (s.die d).boot.phase == .rom) = decide (d = 0 ∧ (s.die d).boot.phase = .rom) := by
    simp only [Bool.decide_and, Fin.ext_iff]
    rfl
  have hgo : ¬ (s.present d = false ∨ (s.die d).boot.released = false ∨ (s.die d).boot.inReset = true ∨
      ((s.die d).boot.phase ≠ .rom ∧ (s.die d).boot.phase ≠ .verifying) ∨ (s.image.isNone = true ∧ s.straps.bootHost = true)) := by
    obtain ⟨hp, hr, hi, hw, hs⟩ := h
    simp only [hp, hr, hi, not_or, not_and, Bool.true_eq_false, Bool.false_eq_true, not_false_eq_true, true_and]
    refine ⟨fun hrom => not_not_intro (hw.resolve_left hrom), fun hnone => ?_⟩
    obtain hsome | hflash := hs
    · simp [Option.isNone_iff_eq_none.mp hnone] at hsome
    · simp [hflash]
  have hfetch : (if decide (d = 0 ∧ (s.die d).boot.phase = .rom) = true then image else s.image.getD image) =
      s.fetchedImage d image := if_congr decide_eq_true_iff rfl rfl
  rw [fxImageVerify, if_neg hgo, hflash, hfetch]

theorem fxImageVerify_accepted (image : List Byte) (h : s.MayVerify d) (ha : s.otp.accepts (s.fetchedImage d image) = true) :
    ((s.die d).runs (s.fetchedImage d image)).SameFirmware ((fxImageVerify d image s).die d) := by
  rw [fxImageVerify_eq image h, if_pos ha]
  obtain ⟨-, hsame⟩ := (s.runImage d (s.fetchedImage d image)).endBootRequest_spec d .ok
  exact (State.runImage_sameFirmware _ h.present).trans (hsame d)

theorem fxImageVerify_refused (image : List Byte) (h : s.MayVerify d) (ha : s.otp.accepts (s.fetchedImage d image) = false) :
    s.OnlyDie (fxImageVerify d image s) d ∧
      ((fxImageVerify d image s).die d).boot.phase = (if d = 0 ∧ (s.die d).boot.phase = .rom then .waitHost else .refused) ∧
      (fxImageVerify d image s).field d Reg.secBoot 10 3 = Status.auth.code := by
  have hd := s.die_onDie_same d (f := fun x => { (x.setField Reg.secBoot 10 3 Status.auth.code) with
    boot := { x.boot with phase := if decide (d = 0 ∧ (s.die d).boot.phase = .rom) then .waitHost else .refused } }) h.present
  rw [fxImageVerify_eq image h, if_neg (by simp [ha])]
  obtain ⟨honly, hsame⟩ := (s.refuseImage d (decide (d = 0 ∧ (s.die d).boot.phase = .rom))).endBootRequest_spec d .auth
  refine ⟨(s.onlyDie_onDie d _).trans honly, ?_, ?_⟩
  · rw [(hsame d).boot, State.refuseImage, hd]
    simp only [decide_eq_true_eq]
  · rw [State.field, Die.field, (hsame d).secBoot, State.refuseImage, hd]
    exact (congrArg (bits · 10 3) (Die.reg_setReg_same _ _ _)).trans (bits_setBits _ 3 _ (by decide))

end

/-! ### DRAM training (R388) -/

/-- A die whose DRAM accepts accesses, from a device time on; one that was reset alone then injects. -/
def Die.train (x : Die) (now : Nat) : Die :=
  { x with boot := { x.boot with trained := true }, calDone := Vector.replicate 2 now,
           sfn := { x.sfn with injBusy := x.sfn.injBusy || x.boot.alone } }

section
variable {s : State} {d : DieIx}

theorem fxDdr5TrainingComplete_idle (h : (s.die d).boot.phase ≠ .running ∨ (s.die d).boot.trained = true) :
    fxDdr5TrainingComplete d s = s := if_pos h

theorem fxDdr5TrainingComplete_trains (hr : (s.die d).boot.phase = .running) (ht : (s.die d).boot.trained = false) :
    fxDdr5TrainingComplete d s = (s.onDie d fun x => x.train s.gsc).recordGap d s.gsc := if_neg (by simp [hr, ht])

/-- Where no record has been lost there is no GAP record to write (R300). -/
theorem State.recordGap_of_none_lost (h : (s.die d).recorder.lost = 0) (tick : Nat) : s.recordGap d tick = s :=
  if_pos (.inr (.inr h))

theorem fxDdr5TrainingComplete_spec (hp : s.present d = true) (hr : (s.die d).boot.phase = .running)
    (ht : (s.die d).boot.trained = false) :
    ((fxDdr5TrainingComplete d s).die d).boot = { (s.die d).boot with trained := true } ∧
      ((s.die d).recorder.lost = 0 → fxDdr5TrainingComplete d s = s.onDie d fun x => x.train s.gsc) := by
  have hd : (s.onDie d fun x => x.train s.gsc).die d = (s.die d).train s.gsc := s.die_onDie_same d hp
  rw [fxDdr5TrainingComplete_trains hr ht]
  refine ⟨?_, fun hl => State.recordGap_of_none_lost (by rw [hd]; exact hl) _⟩
  rw [((State.OnlyReports.refl _).recordGap d s.gsc).die d, hd]
  rfl

end

/-! ### Stored settings (R401) -/

/-- What loading stored values leaves of a state: its dies, the audit ring and reports may differ. -/
structure State.KeepsLog (s t : State) : Prop where
  straps : t.straps = s.straps
  gsc : t.gsc = s.gsc
  otp : t.otp = s.otp
  log : t.sec.log = s.sec.log

namespace State.KeepsLog

variable {s0 s : State}

protected theorem refl (s : State) : s.KeepsLog s := ⟨rfl, rfl, rfl, rfl⟩

theorem onDie (h : s0.KeepsLog s) (d : DieIx) (f : Die → Die) : s0.KeepsLog (s.onDie d f) := ⟨h.straps, h.gsc, h.otp, h.log⟩

theorem raise (h : s0.KeepsLog s) (d : DieIx) (evt mask : Nat) : s0.KeepsLog (s.raise d evt mask) := ⟨h.straps, h.gsc, h.otp, h.log⟩

theorem audited (h : s0.KeepsLog s) (a : AuditEntry) : s0.KeepsLog (s.audited a id) := by
  unfold State.audited
  split
  · exact ⟨h.straps, h.gsc, h.otp, h.log⟩
  · exact h.raise 0 _ _

theorem loadValue (h : s0.KeepsLog s) (e : DieIx × Nat × Word) : s0.KeepsLog (s.loadValue e) := by
  obtain ⟨d, off, w⟩ := e
  unfold State.loadValue
  dsimp only
  split
  · exact h.onDie _ _
  · exact (h.audited _).raise 0 _ _

theorem applySettings (h : s0.KeepsLog s) (k : Fin 4) (x : Settings) : s0.KeepsLog (s.applySettings k x) := by
  have hvalues := foldl_inv (P := fun t => s0.KeepsLog t) (l := x.values) (fun _ e ht => ht.loadValue e) h
  have hcoefs := foldl_inv (P := fun t => s0.KeepsLog t) (l := x.coefs)
    (f := fun s e => s.onDie e.1 fun y => { y with coef := e.2, coefForce := e.2 }) (fun _ e ht => ht.onDie e.1 _) hvalues
  have hmodes := foldl_inv (P := fun t => s0.KeepsLog t) (l := x.modes)
    (f := fun s e => s.onDie e.1 fun y => { y with head := y.head.stored e.2 }) (fun _ e ht => ht.onDie e.1 _) hcoefs
  exact ⟨hmodes.straps, hmodes.gsc, hmodes.otp, hmodes.log⟩

end State.KeepsLog

section
variable {s : State} {d : DieIx}

/-- Settings in force: their operating point is kept, and NVM_CTRL and NVM_SEQ show their slot and SEQ. -/
theorem State.applySettings_shown (s : State) (k : Fin 4) (x : Settings) : (s.applySettings k x).power.stored = some x.op ∧
    (s.applySettings k x).nvm.inForce = k ∧ (s.applySettings k x).reg 0 Reg.nvmSeq = x.seq := by
  refine ⟨rfl, rfl, ?_⟩
  unfold State.applySettings
  dsimp only
  refine (State.reg_setReg _ 0 0 Reg.nvmCtrl Reg.nvmSeq _).trans ?_
  rw [if_neg fun h => absurd h.2.2 (by decide)]
  exact State.reg_setReg_same _ _ (present_zero _)

/-- The state in which the stored settings are loaded: a bad image is flagged, and the best one applied. -/
def State.flagBadImages (s : State) : State :=
  if s.nvm.slots.toList.any fun x => x.any fun i => !i.good then s.raise 0 Reg.nvmEvt 0x10 else s

/-- The settings of the good image of highest SEQ, where there is one, and their digest. -/
def State.loadLatest (s : State) : State × BitVec 512 := match s.nvm.latest with
  | none => (s, 0)
  | some (k, x) => (s.applySettings k x, Config.settingsDigest x.seq)

/-- A state that has measured the settings that it loaded. -/
def State.logSettings (s : State) (digest : BitVec 512) : State :=
  { s with sec := { s.sec with loaded := true, log := s.sec.log ++ [(3, digest)] } }

/-- A die that injects. -/
def Die.inject (x : Die) : Die := { x with sfn := { x.sfn with injBusy := true } }

theorem State.flagBadImages_keeps (s : State) : s.KeepsLog s.flagBadImages := by
  unfold State.flagBadImages
  split
  · exact (State.KeepsLog.refl s).raise 0 _ _
  · exact .refl s

theorem State.flagBadImages_nvm (s : State) : s.flagBadImages.nvm = s.nvm := by
  unfold State.flagBadImages
  split <;> rfl

theorem State.KeepsLog.loadLatest {s0 : State} (h : s0.KeepsLog s) : s0.KeepsLog s.loadLatest.1 := by
  unfold State.loadLatest
  split
  · exact h
  · exact h.applySettings _ _

/-- Firmware runs and DRAM is trained on every die of the part. -/
def State.Booted (s : State) : Prop := ∀ d, s.present d = true → (s.die d).boot.phase = .running ∧ (s.die d).boot.trained = true

theorem State.booted_iff : s.Booted ↔ (s.dieList.all fun d => (s.die d).boot.phase == .running && (s.die d).boot.trained) = true := by
  simp [State.Booted, State.mem_dieList]

theorem fxSettingsLoad_idle (h : s.sec.loaded = true ∨ ¬ s.Booted) : fxSettingsLoad s = s :=
  if_pos (h.imp_right fun hb => Bool.eq_false_iff.mpr (mt State.booted_iff.mpr hb))

theorem fxSettingsLoad_loads (hl : s.sec.loaded = false) (hb : s.Booted) :
    let t := s.flagBadImages.loadLatest.1.logSettings s.flagBadImages.loadLatest.2
    fxSettingsLoad s = t.onDies t.dieList fun _ x => x.inject :=
  if_neg (by simp [hl, State.booted_iff.mp hb])

theorem fxSettingsLoad_spec (hl : s.sec.loaded = false) (hb : s.Booted) : (fxSettingsLoad s).sec.loaded = true ∧
    (∀ d, s.present d = true → ((fxSettingsLoad s).die d).sfn.injBusy = true) ∧
    (fxSettingsLoad s).sec.log.length = s.sec.log.length + 1 ∧ (fxSettingsLoad s).gsc = s.gsc ∧ (fxSettingsLoad s).otp = s.otp ∧
    ∀ k x, s.nvm.latest = some (k, x) → (fxSettingsLoad s).power.stored = some x.op ∧ (fxSettingsLoad s).nvm.inForce = k ∧
      (fxSettingsLoad s).reg 0 Reg.nvmSeq = x.seq := by
  have hkeeps := s.flagBadImages_keeps.loadLatest
  have hlatest : s.flagBadImages.nvm.latest = s.nvm.latest := by rw [s.flagBadImages_nvm]
  have e := fxSettingsLoad_loads hl hb
  generalize s.flagBadImages = u at *
  have hdie (d : DieIx) (hp : s.present d = true) : ((fxSettingsLoad s).die d) = (u.loadLatest.1.die d).inject := by
    have hpresent : (u.loadLatest.1.logSettings u.loadLatest.2).present d = true := by
      change decide (d.val < partDies u.loadLatest.1.straps.part) = true
      rw [hkeeps.straps]
      exact hp
    rw [e]
    exact State.die_onDies_dieList (f := fun _ x => x.inject) hpresent
  obtain ⟨l, hw⟩ := (u.loadLatest.1.logSettings u.loadLatest.2).onDies_withDies
    (u.loadLatest.1.logSettings u.loadLatest.2).dieList fun _ x => x.inject
  replace e := e.trans hw
  refine ⟨by rw [e]; rfl, fun d hp => by rw [hdie d hp]; rfl, ?_, by rw [e]; exact hkeeps.gsc, by rw [e]; exact hkeeps.otp,
    fun k x hx => ?_⟩
  · rw [e, ← hkeeps.log]
    exact List.length_append
  · have happly : u.loadLatest.1 = u.applySettings k x := by rw [State.loadLatest, hlatest, hx]
    obtain ⟨hstored, hforce, hseq⟩ := u.applySettings_shown k x
    refine ⟨by rw [e]; exact happly ▸ hstored, by rw [e]; exact happly ▸ hforce, ?_⟩
    rw [State.reg, hdie 0 (present_zero s), happly]
    exact hseq

end

/-- Settles O54: each event does nothing until its conditions hold, and then what the lemmas on it say. -/
theorem bootSteps : Obligations.boot_steps := by
  unfold Obligations.boot_steps
  intro s
  refine ⟨fun hc hr => ?_, fun h => ⟨_, rfl, fxPkgLock_idle h⟩, fun hc hs => ⟨_, rfl, fxReleaseEdge_idle hc hs⟩,
    fun hc h => ⟨_, rfl, fxReleaseEdge_none hc h⟩, fun d image h => ⟨_, rfl, fxImageVerify_idle image h⟩,
    fun d h => ⟨_, rfl, fxDdr5TrainingComplete_idle h⟩, fun h => ⟨_, rfl, fxSettingsLoad_idle (h.imp_right ?_)⟩,
    fun hc hs => ⟨_, rfl, ?_⟩, fun d hc hg hs hp halone hin hat => ⟨_, rfl, ?_⟩,
    fun d image hp hr hi hw hsup => ?_, fun d hp hr ht => ⟨_, rfl, ?_⟩, fun hl hb => ⟨_, rfl, fxSettingsLoad_spec hl hb⟩⟩
  · obtain ⟨l, hframe, hdies⟩ := fxPkgLock_locks hc hr
    refine ⟨_, rfl, ?_, by rw [hframe], by rw [hframe], hdies⟩
    rw [hframe]
    rfl
  · rintro ⟨d, hp, hnot⟩ hb
    obtain ⟨hrun, htrained⟩ := hb d hp
    exact hnot.elim (· hrun) fun h => Bool.false_ne_true (h.symm.trans htrained)
  · have h := fxReleaseEdge_part hc hs
    exact ⟨h.clocks, h.gsc, fun d hp => fxReleaseEdge_part_die hc hs hp⟩
  · have h := fxReleaseEdge_die hc hg hs (State.mem_rejoining.mpr ⟨hp, halone, hin, hat⟩)
    exact ⟨h.out, h.released, h.gsc, h.clock, h.unaligned⟩
  · have hv : s.MayVerify d := ⟨hp, hr, hi, hw, hsup⟩
    refine ⟨fun ha => ⟨_, rfl, ?_⟩, fun ha => ⟨_, rfl, fxImageVerify_refused image hv ha⟩⟩
    have h := fxImageVerify_accepted image hv ha
    obtain ⟨hversion, hfloor⟩ := Otp.accepts_version ha
    obtain ⟨hstatus, hsvn⟩ := (s.die d).secBoot_runs hversion
    exact ⟨h.boot ▸ rfl, (congrArg (bits · 10 3) h.secBoot).trans hstatus, (congrArg (bits · 18 13) h.secBoot).trans hsvn, hfloor,
      h.build.trans (Die.reg_runs_build _ _)⟩
  · obtain ⟨hboot, hnone⟩ := fxDdr5TrainingComplete_spec hp hr ht
    refine ⟨hboot, fun hl => ?_⟩
    rw [hnone hl]
    refine ⟨s.onlyDie_onDie d _, ?_⟩
    rw [s.die_onDie_same d hp]
    rfl

end Sys2Proof.Machine
end

section
/-! SUPPORT. Proofs of the statements of 12_host_queues: what the reports, refusals and ends of work leave of the functions, the HST_
registers and the canvases. -/

namespace Sys2Proof.Machine

/-! ### Queues and functions -/

/-- What stands of a queue while work ends: a descriptor in progress is done only where it awaits what `ends` names. -/
structure Queue.Stands (ends : Await → Prop) (x y : Queue) : Prop where
  id : y.id = x.id
  disabled : y.state = .disabled ↔ x.state = .disabled
  cur : ∀ k, x.cur = some k → (∀ a, k.await = some a → ¬ ends a) → y.cur = some k

/-- What stands of a function. Only a queue that posts fires a vector. -/
structure Fn.Stands (ends : Await → Prop) (x y : Fn) : Prop where
  ready : y.ready = x.ready
  disabled : y.disabled = x.disabled
  windows : y.windows = x.windows
  bundles : y.bundles = x.bundles
  vfEnabled : y.vfEnabled = x.vfEnabled
  msix : x.queues = [] → y.msix = x.msix
  queues : List.Forall₂ (Queue.Stands ends) x.queues y.queues

/-- What stands of the host side: of the HST_ registers, HST_EVT takes further flags and HST_EQ_LOST counts. -/
structure HostSide.Stands (ends : Await → Prop) (h k : HostSide) : Prop where
  fns : ∀ f, (h.fn f).Stands ends (k.fn f)
  regs : ∀ off, off ≠ 0x00C → off ≠ 0x014 → k.reg off = h.reg off
  flags : ∀ i, (h.reg 0x00C).getLsbD i = true → (k.reg 0x00C).getLsbD i = true

section
variable {ends : Await → Prop}

namespace Queue.Stands

variable {x y z : Queue}

protected theorem refl (x : Queue) : x.Stands ends x := ⟨rfl, .rfl, fun _ h _ => h⟩

theorem trans (a : x.Stands ends y) (b : y.Stands ends z) : x.Stands ends z :=
  ⟨b.id.trans a.id, b.disabled.trans a.disabled, fun k h hk => b.cur k (a.cur k h hk) hk⟩

/-- A change of neither identifier, state nor descriptor. -/
theorem of_eq (hid : y.id = x.id) (hs : y.state = x.state) (hc : y.cur = x.cur) : x.Stands ends y :=
  ⟨hid, by rw [hs], fun _ h _ => hc.trans h⟩

/-- A descriptor that awaits what is named is done. -/
theorem finish (x : Queue) {a : Await} (ha : ends a) (c : Completion) : x.Stands ends
    { x with state := if x.state == .wait && x.cur.bind Current.await == some a then .run else x.state,
             cur := x.cur.map fun k => k.finish a c } where
  id := rfl
  disabled := by
    dsimp only
    split
    next h => simp [beq_iff_eq.mp (Bool.and_eq_true_iff.mp h).1]
    next => rfl
  cur k h hk := by
    have hne : k.await ≠ some a := fun e => hk a e ha
    simp [h, Current.finish, hne]

/-- An operation that a descriptor awaits has taken effect. -/
theorem letGo (x : Queue) (ha : ∀ d, ends (.turnstile d)) (st : Status) : x.Stands ends (x.letGo st) where
  id := rfl
  disabled := by
    rw [Queue.letGo]
    dsimp only
    split
    next h => simp [beq_iff_eq.mp h]
    next => rfl
  cur k h hk := by
    simp only [Queue.letGo, h, Option.map_some, Option.some.injEq]
    split
    next d hd => exact absurd (ha d) (hk _ hd)
    next => rfl

theorem settle (h : HostSide) (f : FnIx) (q : Queue) : q.Stands ends (h.settle f q) := by
  have keeps (st : QState) (hst : st ≠ .disabled) (hq : q.state = .idle ∨ q.state = .run ∨ q.state = .hold) :
      q.Stands ends { q with state := st } :=
    ⟨rfl, ⟨fun hd => absurd hd hst, fun hd => by simp [hd] at hq⟩, fun _ hc _ => hc⟩
  unfold HostSide.settle
  split
  next hs =>
    simp only [Bool.and_eq_true, Bool.or_eq_true, beq_iff_eq, or_assoc] at hs
    obtain ⟨-, hs⟩ := hs
    split
    · exact keeps _ nofun hs
    · split
      · split
        · exact keeps _ nofun hs
        · exact keeps _ nofun hs
      · exact keeps _ nofun hs
  next => exact .refl q

end Queue.Stands

theorem forall₂_updFirst {α : Type} {R : α → α → Prop} {p : α → Bool} {g : α → α} (l : List α) (hr : ∀ x, R x x)
    (hg : ∀ x, R x (g x)) : List.Forall₂ R l (updFirst p g l) := by
  induction l with
  | nil => exact .nil
  | cons x rest ih =>
    rw [updFirst]
    split
    · exact .cons (hg x) (List.forall₂_same.mpr fun y _ => hr y)
    · exact .cons (hr x) ih

theorem forall₂_trans {α : Type} {R : α → α → Prop} (hr : ∀ x y z, R x y → R y z → R x z) {l m n : List α}
    (h : List.Forall₂ R l m) (k : List.Forall₂ R m n) : List.Forall₂ R l n := by
  induction h generalizing n with
  | nil => exact k
  | cons hx _ ih =>
    cases k with
    | cons hy hrest => exact .cons (hr _ _ _ hx hy) (ih hrest)

namespace Fn.Stands

variable {x y z : Fn}

theorem trans (a : x.Stands ends y) (b : y.Stands ends z) : x.Stands ends z where
  ready := b.ready.trans a.ready
  disabled := b.disabled.trans a.disabled
  windows := b.windows.trans a.windows
  bundles := b.bundles.trans a.bundles
  vfEnabled := b.vfEnabled.trans a.vfEnabled
  msix h := (b.msix (List.forall₂_nil_left_iff.mp (h ▸ a.queues))).trans (a.msix h)
  queues := forall₂_trans (fun _ _ _ p q => p.trans q) a.queues b.queues

/-- A change of the queues alone. -/
theorem withQueues (x : Fn) {l : List Queue} (h : List.Forall₂ (Queue.Stands ends) x.queues l) : x.Stands ends { x with queues := l } :=
  ⟨rfl, rfl, rfl, rfl, rfl, fun _ => rfl, h⟩

/-- A change of none of what stands. -/
theorem of_eq (x : Fn) {regs aqErr messages} : x.Stands ends { x with regs := regs, aqErr := aqErr, messages := messages } :=
  ⟨rfl, rfl, rfl, rfl, rfl, fun _ => rfl, List.forall₂_same.mpr fun q _ => .refl q⟩

protected theorem refl (x : Fn) : x.Stands ends x := withQueues x (List.forall₂_same.mpr fun q _ => .refl q)

theorem updQueue (x : Fn) (q : Nat) {g : Queue → Queue} (hg : ∀ y, Queue.Stands ends y (g y)) :
    x.Stands ends { x with queues := updFirst (fun y => y.id == q) g x.queues } :=
  withQueues x (forall₂_updFirst _ .refl hg)

/-- A vector of a function that has a queue fires. -/
theorem fire (x : Fn) (v : Nat) (hx : x.queues ≠ []) : x.Stands ends (x.fire v) := by
  have hq : List.Forall₂ (Queue.Stands ends) x.queues x.queues := List.forall₂_same.mpr fun q _ => .refl q
  unfold Fn.fire
  dsimp only
  split
  · exact ⟨rfl, rfl, rfl, rfl, rfl, fun h => absurd h hx, hq⟩
  · exact .of_eq x

end Fn.Stands

namespace HostSide.Stands

variable {h0 h k : HostSide}

protected theorem refl (h : HostSide) : h.Stands ends h := ⟨fun f => .refl (h.fn f), fun _ _ _ => rfl, fun _ => id⟩

theorem trans (a : h0.Stands ends h) (b : h.Stands ends k) : h0.Stands ends k where
  fns f := (a.fns f).trans (b.fns f)
  regs off hc hl := (b.regs off hc hl).trans (a.regs off hc hl)
  flags i hi := b.flags i (a.flags i hi)

theorem ite {c : Prop} [Decidable c] (a : h0.Stands ends h) (b : h0.Stands ends k) : h0.Stands ends (if c then h else k) := by
  split
  · exact a
  · exact b

theorem onFn (a : h0.Stands ends h) (f : FnIx) {u : Fn → Fn} (hu : (h.fn f).Stands ends (u (h.fn f))) : h0.Stands ends (h.onFn f u) := by
  refine a.trans ⟨fun g => ?_, fun _ _ _ => rfl, fun _ => id⟩
  rw [HostSide.fn_onFn]
  split
  next e => exact e ▸ hu
  next => exact .refl _

theorem onQueue (a : h0.Stands ends h) (f : FnIx) (q : Nat) {g : Queue → Queue} (hg : ∀ y, Queue.Stands ends y (g y)) :
    h0.Stands ends (h.onQueue f q g) := a.onFn f (.updQueue _ q hg)

/-- A change of a queue that touches neither its identifier, its state nor its descriptor. -/
theorem note (a : h0.Stands ends h) (f : FnIx) (q : Nat) {g : Queue → Queue}
    (hg : ∀ y, ((g y).id, (g y).state, (g y).cur) = (y.id, y.state, y.cur)) : h0.Stands ends (h.onQueue f q g) :=
  a.onQueue f q fun y => by
    obtain ⟨hid, hs, hc⟩ := (Prod.mk.inj (hg y)).imp_right Prod.mk.inj
    exact .of_eq hid hs hc

/-- A register other than HST_EVT and HST_EQ_LOST keeps its value, so this is for those two. -/
theorem setLost (a : h0.Stands ends h) (w : Word) : h0.Stands ends (h.setReg 0x014 w) := by
  refine a.trans ⟨fun f => .refl (h.fn f), fun off _ hl => h.reg_setReg_ne w hl.symm, fun i hi => ?_⟩
  rwa [h.reg_setReg_ne w (by decide)]

theorem setFlags (a : h0.Stands ends h) (w : Word) : h0.Stands ends (h.setReg 0x00C (h.reg 0x00C ||| w)) := by
  refine a.trans ⟨fun f => .refl (h.fn f), fun off hc _ => h.reg_setReg_ne _ hc.symm, fun i hi => ?_⟩
  rw [h.reg_setReg_same, BitVec.getLsbD_or, hi, Bool.true_or]

theorem setFnReg (a : h0.Stands ends h) (f : FnIx) (off : Nat) (w : Word) : h0.Stands ends (h.setFnReg f off w) := a.onFn f (.of_eq _)

theorem queues_ne_nil {f : FnIx} {q : Nat} {x : Queue} (h : HostSide) (hx : h.queue f q = some x) : (h.fn f).queues ≠ [] := fun e => by
  rw [HostSide.queue, e] at hx
  cases hx

theorem posted (a : h0.Stands ends h) (f : FnIx) (q : Nat) : h0.Stands ends (h.posted f q) := by
  have hcount (n : Nat) (t : Option Nat) : h0.Stands ends (h.onQueue f q fun y => { y with posted := n, firstPost := t }) :=
    a.note f q fun _ => by rfl
  unfold HostSide.posted
  split
  · exact a
  next x hx =>
    split
    · exact a
    next v _ =>
      refine ite ((hcount _ _).onFn f (.fire _ v ?_)) (hcount _ _)
      obtain ⟨y, hy⟩ := Option.isSome_iff_exists.mp ((((HostSide.SameQueues.refl h).onQueue f q
        (g := fun y => { y with posted := 0, firstPost := none }) fun _ => by rfl).queue_isSome f q).trans (by rw [hx]; rfl))
      exact queues_ne_nil _ hy

theorem append (a : h0.Stands ends h) (f : FnIx) (q : Nat) (mk : Bool → List Byte) : h0.Stands ends (h.append f q mk) := by
  unfold HostSide.append
  split
  · exact a
  next x _ =>
    have b : h0.Stands ends (h.write (x.base.toNat + 64 * x.tail) (sliceBytes (mk x.phase) 0 64)) := ⟨a.fns, a.regs, a.flags⟩
    exact (b.note f q fun _ => by rfl).posted f q

theorem settleAll (a : h0.Stands ends h) (f : FnIx) : h0.Stands ends (h.settleAll f) := by
  refine a.onFn f (.withQueues _ ?_)
  rw [List.forall₂_map_right_iff]
  exact List.forall₂_same.mpr fun q _ => .settle h f q

theorem postCpl (a : h0.Stands ends h) (f : FnIx) (cq kind die step : Nat) (st : Status) (detail : List Byte) :
    h0.Stands ends (h.postCpl f cq kind die step st detail) := by
  unfold HostSide.postCpl
  split
  · exact a
  · exact ite (((a.append f cq _).note f cq fun _ => by rfl).settleAll f)
      ((a.note f cq fun _ => by rfl).setFnReg f 0x028 _)

theorem appendEvent (a : h0.Stands ends h) (f : FnIx) (q type die : Nat) (payload : List Byte) :
    h0.Stands ends (h.appendEvent f q type die payload) := by
  unfold HostSide.appendEvent
  split
  · exact a
  · exact (a.append f q _).note f q fun _ => by rfl

theorem postEvents (a : h0.Stands ends h) (f : FnIx) (q : Nat) (rs : List (Nat × Nat × List Byte)) :
    h0.Stands ends (h.postEvents f q rs) := by
  have lose {k : HostSide} (b : h0.Stands ends k) (n : Nat) : h0.Stands ends (k.loseEvents f q n) :=
    b.note f q fun _ => by rfl
  unfold HostSide.postEvents
  split
  · exact a
  next x _ =>
    have b : h0.Stands ends (if 0 < x.lost ∧ 0 < x.room then
        (h.appendEvent f q 0x0006 0 (leBytes 4 x.lost)).onQueue f q fun y => { y with lost := 0 } else h) :=
      ite ((a.appendEvent f q _ _ _).note f q fun _ => by rfl) a
    exact a.ite ((lose a _).ite (ite (foldl_inv (fun _ _ c => c.appendEvent f q _ _ _) b) (lose b _)))

theorem postDie (a : h0.Stands ends h) (d : DieIx) (type : Nat) (payload : List Byte) : h0.Stands ends (h.postDie d type payload) := by
  have e : (h.count 0x014 1).reg 0x00C = h.reg 0x00C := h.reg_setReg_ne _ (by decide)
  have b : h0.Stands ends ((h.count 0x014 1).setReg 0x00C (h.reg 0x00C ||| 4)) := e ▸ (a.setLost _).setFlags 4
  unfold HostSide.postDie
  split
  · exact a.postEvents _ _ _
  · dsimp only
    split
    · split
      · exact b.postEvents _ _ _
      · exact b.setLost _
    · exact b

theorem raise (a : h0.Stands ends h) (mask : Nat) : h0.Stands ends (h.raise mask) := by
  have b := a.setFlags (BitVec.ofNat 32 mask)
  exact b.ite (b.postDie _ _ _)

theorem raise_flag (h : HostSide) {mask i : Nat} (hi : (BitVec.ofNat 32 mask).getLsbD i = true) :
    ((h.raise mask).reg 0x00C).getLsbD i = true := by
  have hset : ((h.setReg 0x00C (h.reg 0x00C ||| BitVec.ofNat 32 mask)).reg 0x00C).getLsbD i = true := by
    rw [h.reg_setReg_same, BitVec.getLsbD_or, hi, Bool.or_true]
  have b : (h.setReg 0x00C (h.reg 0x00C ||| BitVec.ofNat 32 mask)).Stands (fun _ => True) (h.raise mask) :=
    (HostSide.Stands.refl _).ite ((HostSide.Stands.refl _).postDie _ _ _)
  exact b.flags i hset

end HostSide.Stands
end

/-! ### States -/

/-- What BIND and the requests to unbind, pause and resume make of a canvas, and no other work of it. -/
def Canvas.standing (c : Canvas) : CanvasId × Binding × PauseState × Bool × Option Nat :=
  (c.id, c.binding, c.pause, c.unbinding, c.firstAt)

/-- What a descriptor at a Turnstile awaits. -/
abbrev AtTurnstile (a : Await) : Prop := ∃ d, a = .turnstile d

/-- What stands of a state while work ends. -/
structure State.Stands (s t : State) : Prop where
  straps : t.straps = s.straps
  gsc : t.gsc = s.gsc
  sec : t.sec = s.sec
  host : s.host.Stands AtTurnstile t.host
  canvases : t.canvases.map Canvas.standing = s.canvases.map Canvas.standing

namespace State.Stands

variable {s0 s t : State}

protected theorem refl (s : State) : s.Stands s := ⟨rfl, rfl, rfl, .refl _, rfl⟩

theorem trans (k : s0.Stands s) (j : s.Stands t) : s0.Stands t :=
  ⟨j.straps.trans k.straps, j.gsc.trans k.gsc, j.sec.trans k.sec, k.host.trans j.host, j.canvases.trans k.canvases⟩

theorem ite {c : Prop} [Decidable c] (k : s0.Stands s) (j : s0.Stands t) : s0.Stands (if c then s else t) := by
  split
  · exact k
  · exact j

theorem foldl {α : Type} {f : State → α → State} {l : List α} (k : s0.Stands s)
    (hf : ∀ t a, s0.Stands t → s0.Stands (f t a)) : s0.Stands (l.foldl f s) := foldl_inv hf k

/-- A change of fields that are no part of what stands. -/
theorem copy (k : s0.Stands s) {dies gaide packets barriers} :
    s0.Stands { s with dies := dies, gaide := gaide, packets := packets, barriers := barriers } :=
  ⟨k.straps, k.gsc, k.sec, k.host, k.canvases⟩

theorem onDie (k : s0.Stands s) (d : DieIx) (f : Die → Die) : s0.Stands (s.onDie d f) := k.copy

theorem onDies (k : s0.Stands s) (ds : List DieIx) (f : DieIx → Die → Die) : s0.Stands (s.onDies ds f) :=
  k.foldl fun _ d j => j.onDie d (f d)

theorem withHost (k : s0.Stands s) {h : HostSide} (hh : s.host.Stands AtTurnstile h) : s0.Stands (s.withHost h) :=
  ⟨k.straps, k.gsc, k.sec, k.host.trans ⟨hh.fns, hh.regs, hh.flags⟩, k.canvases⟩

theorem onHost (k : s0.Stands s) {f : HostSide → HostSide} (hf : s.host.Stands AtTurnstile (f s.host)) : s0.Stands (s.onHost f) :=
  k.withHost hf

theorem onCanvas (k : s0.Stands s) (cv : CanvasId) {f : Canvas → Canvas} (hf : ∀ c, (f c).standing = c.standing) :
    s0.Stands (s.onCanvas cv f) := ⟨k.straps, k.gsc, k.sec, k.host, (map_updFirst _ hf).trans k.canvases⟩

/-! #### Registers, flags and records -/

theorem raise (k : s0.Stands s) (d : DieIx) (evt mask : Nat) : s0.Stands (s.raise d evt mask) :=
  (k.onDie d fun x => x.setReg evt (s.reg d evt ||| BitVec.ofNat 32 mask)).withHost ((HostSide.Stands.refl _).ite (.postDie (.refl _) _ _ _))

theorem countRaise (k : s0.Stands s) (d : DieIx) (cnt evt mask : Nat) : s0.Stands (s.countRaise d cnt evt mask) :=
  (k.onDie d fun x => x.count cnt 1).raise d evt mask

theorem raiseHead (k : s0.Stands s) (d : DieIx) (evt mask : Nat) : s0.Stands (s.raiseHead d evt mask) := by
  unfold State.raiseHead
  split
  · exact k.raise d evt mask
  · have j := k.onDie d fun x => x.setReg evt (s.reg d evt ||| BitVec.ofNat 32 mask)
    exact j.ite (j.onHost (.postEvents (.refl _) _ _ _))

theorem canvasEvent (k : s0.Stands s) (c : Canvas) (kind layer value : Nat) : s0.Stands (s.canvasEvent c kind layer value) :=
  k.onHost (.postEvents (.refl _) _ _ _)

theorem loseRecord (k : s0.Stands s) (d : DieIx) : s0.Stands (s.loseRecord d) := (k.onDie d _).countRaise d _ _ _

theorem recordOne (k : s0.Stands s) (d : DieIx) (tick : Nat) (r : Rec) : s0.Stands (s.recordOne d tick r) := by
  unfold State.recordOne
  exact ite k (ite (k.loseRecord d) (ite ((k.onDie d _).raise d _ _) ((ite (k.onDie d _) k).onDie d _)))

theorem recordGap (k : s0.Stands s) (d : DieIx) (tick : Nat) : s0.Stands (s.recordGap d tick) := by
  unfold State.recordGap
  exact ite k ((k.onDie d _).recordOne d tick _)

theorem record (k : s0.Stands s) (d : DieIx) (tick : Nat) (r : Rec) : s0.Stands (s.record d tick r) := by
  unfold State.record
  split
  · exact k.onDie d _
  · exact ((k.recordGap d tick).recordOne d tick r).recordGap d tick

theorem recordEvent (k : s0.Stands s) (kind : Nat) (cv : Option CanvasId) (step : Dword) (w : List Byte) :
    s0.Stands (s.recordEvent kind cv step w) := by
  unfold State.recordEvent
  exact ite k (k.record 0 _ _)

theorem untrusted (k : s0.Stands s) (d : DieIx) : s0.Stands (s.untrusted d) := (k.onDie d _).countRaise d _ _ _

/-! #### Turnstiles -/

theorem released (k : s0.Stands s) (q : TslReq) (st : Status) : s0.Stands (s.released q st) :=
  (k.onHost (.onQueue (.refl _) _ _ fun x => .letGo x (fun d => ⟨d, rfl⟩) st)).ite (ite (k.onDie _ _) k)

theorem tslFlags (k : s0.Stands s) (d : DieIx) (bundle : Bool) (r : TslResult) : s0.Stands (s.tslFlags d bundle r) := by
  cases r with
  | saturated =>
    have j := k.countRaise d Reg.tslOvfCnt Reg.tslEvt 0x01
    exact (j.untrusted d).ite j
  | refused => exact k.countRaise d _ _ _
  | full => exact k.raise d _ _
  | proceeds _ => exact k
  | applied => exact k
  | poisoned => exact k
  | queued => exact k

theorem barrierArrive (k : s0.Stands s) (d : DieIx) (n : Nat) : s0.Stands (s.barrierArrive d n) := by
  unfold State.barrierArrive
  split
  · exact k
  · split
    · exact k
    · exact k.ite (k.onDie d _).copy

theorem tslCycle (k : s0.Stands s) (d : DieIx) (n : Nat) (ops : List TslReq) : s0.Stands (s.tslCycle d n ops).1 := by
  unfold State.tslCycle
  dsimp only
  split
  · exact k
  · refine ((k.onDie d _).foldl fun t e j => ?_).barrierArrive d n
    split
    · exact j.released _ _
    · exact j.tslFlags d _ _

theorem ringSet (k : s0.Stands s) (d : DieIx) (ctx : Nat) (v : Option (BitVec 12)) (seq value : Nat) :
    s0.Stands (s.ringSet d ctx v seq value) := by
  unfold State.ringSet
  split
  · exact k
  · split
    · exact k
    · exact k.tslCycle d _ _

/-! #### Entry into the queues of the engines -/

theorem syncInflight (k : s0.Stands s) (d : DieIx) : s0.Stands (s.syncInflight d) := ((k.onDie d _).raise d _ _).ite (k.onDie d _)

theorem enter (k : s0.Stands s) (d : DieIx) (e : Entrant) : s0.Stands (s.enter d e) := by
  refine k.ite ?_
  cases e with
  | item i => exact k.onDie d _
  | run cv r =>
    dsimp only
    split
    · exact (k.onDie _ _).onCanvas cv fun _ => by rfl
    · exact k

theorem refill (k : s0.Stands s) (d : DieIx) : s0.Stands (s.refill d) := (k.foldl fun _ e j => j.enter d e.2).syncInflight d

/-! #### Abandonment and failure -/

theorem postItem (k : s0.Stands s) (c : Canvas) (d : DieIx) (op stripe : Nat) (step : Dword) (st : Status) (w : List Nat) :
    s0.Stands (s.postItem c d op stripe step st w) := (k.onHost (.postCpl (.refl _) _ _ _ _ _ _ _)).ite k

theorem fillHalo (k : s0.Stands s) (cv : CanvasId) (d : DieIx) (frame stripe seq op : Nat) :
    s0.Stands (s.fillHalo cv d frame stripe seq op) := by
  unfold State.fillHalo
  split
  · exact k
  next c _ =>
    have hrows {t : State} (j : s0.Stands t) (v : State → Nat) :
        s0.Stands ((c.opOf op).writes.foldl (fun s t => s.ringSet d c.ctx (c.rowVirt t) seq (v s)) t) :=
      j.foldl fun _ _ j => j.ringSet _ _ _ _ _
    have hholes (l : List Hole) : s0.Stands (s.onCanvas cv fun k => { k with holes := k.holes ++ l }) := k.onCanvas cv fun _ => rfl
    dsimp only
    split
    · exact hrows (hholes _) fun s => s.shares c (c.opOf op) d stripe * _
    · exact (hrows (hholes _) fun s => s.shares c (c.opOf op) d stripe * _).foldl fun _ _ j => j.foldl fun _ _ j => j.ringSet _ _ _ _ _

theorem resetBarrier (k : s0.Stands s) (cv : CanvasId) (op : Nat) : s0.Stands (s.resetBarrier cv op) := by
  unfold State.resetBarrier
  split
  · exact k
  · exact (k.onDies _ _).copy

theorem abandonOp (k : s0.Stands s) (cv : CanvasId) (d : DieIx) (frame stripe seq op : Nat) (st : Status) :
    s0.Stands (s.abandonOp cv d frame stripe seq op st) := by
  cases hc : s.canvas cv with
  | none =>
    simp only [State.abandonOp, hc]
    exact k
  | some c =>
    have hend := k.onCanvas cv (f := c.endWork cv d seq op st) fun _ => rfl
    unfold State.abandonOp
    simp only [hc]
    refine foldl ((ite (State.Stands.resetBarrier ?_ cv op) ?_).foldl fun _ _ j => j.fillHalo _ _ _ _ _ _) fun _ _ j => j.refill _
    · exact (hend.onDies _ _).onDies _ _
    · exact (hend.onDies _ _).onDies _ _

theorem failItem (k : s0.Stands s) (id : ItemId) (st : Status) (w : List Nat) : s0.Stands (s.failItem id st w) := by
  unfold State.failItem
  split
  · exact k
  · split
    · exact k
    · exact k.ite ((k.abandonOp _ _ _ _ _ _ _).postItem _ _ _ _ _ _ _)

theorem endStream (k : s0.Stands s) (st : StreamId) (why : Status) (w : List Nat) : s0.Stands (s.endStream st why w) := by
  have k1 := k.onDie st.die fun y => y.removeStreams fun j _ => j == st
  unfold State.endStream
  split
  · exact k
  · refine State.Stands.refill ?_ st.die
    split
    · exact k1
    · split
      · exact k1
      · refine State.Stands.postItem ?_ _ _ _ _ _ _ _
        split
        · exact k1.abandonOp _ _ _ _ _ _ _
        · exact k1

theorem failIssuer (k : s0.Stands s) (cv : Option CanvasId) (q : TslReq) (st : Status) : s0.Stands (s.failIssuer cv q st) := by
  unfold State.failIssuer
  refine (k.released q st).ite ((k.endStream _ _ _).ite (ite ?_ k))
  split
  · exact k.failItem _ _ _
  · exact k

theorem abandonWork (k : s0.Stands s) (cv : CanvasId) (st : Status) (p : Item → Bool) : s0.Stands (s.abandonWork cv st p) := by
  unfold State.abandonWork
  split
  · exact k
  · refine k.foldl fun t i j => ?_
    split
    · exact (j.abandonOp _ _ _ _ _ _ _).ite j
    · exact j

/-! #### Contexts (R273, R277) -/

theorem poisonCtx (k : s0.Stands s) (d : DieIx) (ctx : Nat) : s0.Stands (s.poisonCtx d ctx) := by
  unfold State.poisonCtx
  split
  · exact k
  · exact ((k.onDie d _).countRaise d _ _ _).foldl fun _ q j => j.failIssuer _ _ _

theorem poisonCanvas (k : s0.Stands s) (cv : CanvasId) : s0.Stands (s.poisonCanvas cv) := by
  unfold State.poisonCanvas
  split
  · exact k
  · exact k.foldl fun _ d j => j.poisonCtx d _

theorem poisonFn (k : s0.Stands s) (f : FnIx) : s0.Stands (s.poisonFn f) := by
  refine foldl (k.foldl fun t d j => ?_) fun _ c j => j.poisonCanvas _
  split
  · exact j.poisonCtx d _
  · exact j

theorem cancelFnWaits (k : s0.Stands s) (f : FnIx) : s0.Stands (s.cancelFnWaits f) := k.onDies _ _

theorem destroyCtx (k : s0.Stands s) (d : DieIx) (ctx : Nat) : s0.Stands (s.destroyCtx d ctx) := by
  unfold State.destroyCtx
  split
  · exact k
  · exact (ite k (k.poisonCtx d ctx)).onDie d _

/-! #### What stands of a canvas -/

theorem canvas (k : s.Stands t) (cv : CanvasId) : (t.canvas cv).map Canvas.standing = (s.canvas cv).map Canvas.standing := by
  have e (s : State) : (s.canvas cv).map Canvas.standing = (s.canvases.map Canvas.standing).find? fun x => x.1 == cv := by
    rw [List.find?_map]
    rfl
  rw [e, e, k.canvases]

end State.Stands

end Sys2Proof.Machine
end

section
/-! SUPPORT. Proofs of the statements of 12_host_queues: the canvases of a function on their way out (R337 to R339). -/

namespace Sys2Proof.Machine

/-! ### Queues that stand -/

theorem Queue.Stands.mono {e1 e2 : Await → Prop} {x y : Queue} (h : x.Stands e1 y) (he : ∀ a, e1 a → e2 a) : x.Stands e2 y :=
  ⟨h.id, h.disabled, fun k hk hn => h.cur k hk fun a ha hc => hn a ha (he a hc)⟩

theorem HostSide.Stands.mono {e1 e2 : Await → Prop} {h k : HostSide} (a : h.Stands e1 k) (he : ∀ w, e1 w → e2 w) : h.Stands e2 k where
  fns f := { a.fns f with queues := (a.fns f).queues.imp fun _ _ q => q.mono he }
  regs := a.regs
  flags := a.flags

theorem forall₂_map_eq {α β : Type} {R : α → α → Prop} {g : α → β} (hr : ∀ x y, R x y → g y = g x) {l m : List α}
    (h : List.Forall₂ R l m) : m.map g = l.map g := by
  induction h with
  | nil => rfl
  | cons hx _ ih => rw [List.map_cons, List.map_cons, hr _ _ hx, ih]

theorem HostSide.Stands.sameQueues {ends : Await → Prop} {h k : HostSide} (a : h.Stands ends k) : h.SameQueues k :=
  fun f => forall₂_map_eq (fun _ _ q => q.id) (a.fns f).queues

/-- Queues that are all disabled, or none of which is, stay so. -/
theorem Fn.Stands.disabled_mem {ends : Await → Prop} {x y : Fn} (a : x.Stands ends y) (b : Bool)
    (h : ∀ q ∈ x.queues, decide (q.state = .disabled) = b) : ∀ q ∈ y.queues, decide (q.state = .disabled) = b := by
  have hmap := forall₂_map_eq (g := fun q => decide (q.state = .disabled)) (fun _ _ q => by simp [q.disabled]) a.queues
  intro q hq
  have hmem := List.mem_map_of_mem (f := fun q => decide (q.state = .disabled)) hq
  rw [hmap, List.mem_map] at hmem
  obtain ⟨p, hp, he⟩ := hmem
  exact he.symm.trans (h p hp)

/-! ### Canvases under unbinding -/

/-- A canvas, where it is bound, is under unbinding. -/
def State.Leaving (s : State) (cv : CanvasId) : Prop := ∀ c, s.canvas cv = some c → c.unbinding = true

/-- What stands of a state while the canvases of a function are let go. -/
structure State.Unwinds (s t : State) : Prop where
  sec : t.sec = s.sec
  host : s.host.Stands (fun _ => True) t.host
  leaving : ∀ cv, s.Leaving cv → t.Leaving cv

theorem State.Leaving.of_standing {s t : State} {cv : CanvasId} (h : s.Leaving cv)
    (hs : (t.canvas cv).map Canvas.standing = (s.canvas cv).map Canvas.standing) : t.Leaving cv := fun c hc => by
  rw [hc, Option.map_some, eq_comm, Option.map_eq_some_iff] at hs
  obtain ⟨k, hk, he⟩ := hs
  exact (congrArg (fun x => x.2.2.2.1) he).symm.trans (h k hk)

theorem updFirst_of_find?_none {α : Type} {p : α → Bool} (g : α → α) {l : List α} (h : l.find? p = none) : updFirst p g l = l := by
  induction l with
  | nil => rfl
  | cons x rest ih =>
    rw [List.find?_eq_none, List.forall_mem_cons, ← List.find?_eq_none] at h
    rw [updFirst, if_neg h.1, ih h.2]

/-- A canvas that is not bound is not changed. -/
theorem State.onCanvas_of_none (s : State) {cv : CanvasId} (f : Canvas → Canvas) (h : s.canvas cv = none) : s.onCanvas cv f = s := by
  rw [State.onCanvas, updFirst_of_find?_none f h]

theorem State.canvas_onCanvas_some {s : State} {cv : CanvasId} {c : Canvas} {f : Canvas → Canvas} (hc : s.canvas cv = some c)
    (hf : ∀ k, (f k).id = k.id) : (s.onCanvas cv f).canvas cv = some (f c) :=
  State.canvas_onCanvas_same hc ((hf c).trans (State.id_of_canvas hc))

theorem State.Leaving.onCanvas {s : State} {cv v : CanvasId} (h : s.Leaving v) {f : Canvas → Canvas} (hid : ∀ c, (f c).id = c.id)
    (hf : ∀ c, c.unbinding = true → (f c).unbinding = true) : (s.onCanvas cv f).Leaving v := by
  by_cases hv : v = cv
  · subst hv
    cases hc : s.canvas v with
    | none => rwa [s.onCanvas_of_none f hc]
    | some c =>
      intro k hk
      rw [State.canvas_onCanvas_some hc hid] at hk
      exact Option.some.inj hk ▸ hf c (h c hc)
  · intro c hc
    exact h c (by rwa [State.canvas_onCanvas_ne hid hv] at hc)

namespace State.Unwinds

variable {s0 s t : State}

protected theorem refl (s : State) : s.Unwinds s := ⟨rfl, .refl _, fun _ => id⟩

theorem trans (a : s0.Unwinds s) (b : s.Unwinds t) : s0.Unwinds t :=
  ⟨b.sec.trans a.sec, a.host.trans b.host, fun cv h => b.leaving cv (a.leaving cv h)⟩

theorem foldl {α : Type} {f : State → α → State} {l : List α} (a : s0.Unwinds s)
    (hf : ∀ t x, s0.Unwinds t → s0.Unwinds (f t x)) : s0.Unwinds (l.foldl f s) := foldl_inv hf a

theorem stands (a : s0.Unwinds s) (b : s.Stands t) : s0.Unwinds t :=
  a.trans ⟨b.sec, b.host.mono fun _ _ => trivial, fun cv h => h.of_standing (b.canvas cv)⟩

theorem onCanvas (a : s0.Unwinds s) (cv : CanvasId) {f : Canvas → Canvas} (hid : ∀ c, (f c).id = c.id)
    (hf : ∀ c, c.unbinding = true → (f c).unbinding = true) : s0.Unwinds (s.onCanvas cv f) :=
  a.trans ⟨rfl, .refl _, fun _ h => h.onCanvas hid hf⟩

theorem finish (a : s0.Unwinds s) (q : FnIx × Nat) (w : Await) (c : Completion) : s0.Unwinds (s.finish q w c) :=
  a.trans ⟨rfl, .onQueue (.refl _) _ _ fun x => .finish x trivial c, fun _ => id⟩

theorem abortSave (a : s0.Unwinds s) (cv : CanvasId) : s0.Unwinds (s.abortSave cv) := by
  unfold State.abortSave
  split
  · exact a
  · split
    · exact (a.onCanvas cv (fun _ => by rfl) fun _ h => by exact h).finish _ _ _
    · exact a

theorem requestUnbind (a : s0.Unwinds s) (cv : CanvasId) (q : Option (FnIx × Nat)) : s0.Unwinds (s.requestUnbind cv q) :=
  a.onCanvas cv (fun _ => rfl) fun _ _ => rfl

end State.Unwinds

/-! ### The canvases of a function -/

/-- Every canvas of a function is asked to unbind (R338, R339). -/
def State.unbindFn (s : State) (f : FnIx) : State :=
  (s.canvases.filter fun c => c.id.func == f).foldl (fun s c => (s.abortSave c.id).requestUnbind c.id none) s

theorem State.Unwinds.unbindFn {s0 s : State} (a : s0.Unwinds s) (f : FnIx) : s0.Unwinds (s.unbindFn f) :=
  a.foldl fun _ c b => (b.abortSave c.id).requestUnbind c.id none

/-- A canvas that is asked to unbind is under unbinding. -/
theorem State.leaving_requestUnbind (s : State) (cv : CanvasId) (q : Option (FnIx × Nat)) : (s.requestUnbind cv q).Leaving cv := by
  intro k hk
  cases hc : s.canvas cv with
  | none =>
    rw [State.requestUnbind, s.onCanvas_of_none _ hc, hc] at hk
    cases hk
  | some c =>
    rw [State.requestUnbind, State.canvas_onCanvas_some hc fun _ => by rfl] at hk
    exact Option.some.inj hk ▸ rfl

theorem State.leaving_unbindFn (s : State) {f : FnIx} {cv : CanvasId} (hf : cv.func = f) : (s.unbindFn f).Leaving cv := by
  cases hc : s.canvas cv with
  | none =>
    refine (State.Unwinds.unbindFn (.refl s) f).leaving cv fun c h => ?_
    rw [hc] at h
    cases h
  | some c =>
    have hmem : c ∈ s.canvases.filter fun k => k.id.func == f :=
      List.mem_filter.mpr ⟨List.mem_of_find?_eq_some hc, by rw [State.id_of_canvas hc, hf, beq_self_eq_true]⟩
    have keeps (t : State) (k : Canvas) : t.Unwinds ((t.abortSave k.id).requestUnbind k.id none) :=
      ((State.Unwinds.refl t).abortSave k.id).requestUnbind k.id none
    refine foldl_reaches (P := fun _ => True) hmem (fun _ _ _ _ => trivial) (fun t k _ h => (keeps t k).leaving cv h) (fun t _ => ?_)
      trivial
    rw [State.id_of_canvas hc]
    exact State.leaving_requestUnbind _ cv none

end Sys2Proof.Machine
end

section
/-! SUPPORT. Proofs of the statements of 12_host_queues: admin rings and device registers (R320, R338, R342). -/

namespace Sys2Proof.Machine

/-! ### Admin rings (R320) -/

section
variable {s : State} {f : FnIx} {v : BitVec 11}

theorem bit_aqCtrl (en : Bool) (v : BitVec 11) : bit (aqCtrl en v) 0 = en := by
  have hv := v.isLt
  rw [bit, aqCtrl, BitVec.toNat_ofNat, Nat.testBit_zero, Nat.mod_mod_of_dvd _ (by decide)]
  cases en <;> simp [b2n] <;> omega

theorem State.fn_onHost (s : State) (u : HostSide → HostSide) (f : FnIx) : (s.onHost u).host.fn f = (u s.host).fn f := rfl

theorem State.fnReg_onHost (s : State) (u : HostSide → HostSide) (f : FnIx) (off : Nat) :
    (s.onHost u).host.fnReg f off = (u s.host).fnReg f off := rfl

/-- A change of a function that leaves its page. -/
theorem HostSide.fnReg_onFn (h : HostSide) (f : FnIx) {u : Fn → Fn} (hu : ∀ x, (u x).regs = x.regs) (off : Nat) :
    (h.onFn f u).fnReg f off = h.fnReg f off := by
  rw [HostSide.fnReg, HostSide.fn_onFn_same, hu, HostSide.fnReg]

/-- A quota and rings for which AQ_ENABLE creates queues 0 and 1. -/
def HostSide.adminReady (h : HostSide) (f : FnIx) : Prop :=
  2 ≤ h.quota f ∧ 4 ≤ bits (h.fnReg f 0x010) 3 0 ∧ bits (h.fnReg f 0x010) 3 0 ≤ 12 ∧
    4 ≤ bits (h.fnReg f 0x018) 3 0 ∧ bits (h.fnReg f 0x018) 3 0 ≤ 12

/-- A queue as it is created in a function, which may be disabled (R338). -/
def Fn.created (x : Fn) (q : Queue) : Queue := if x.disabled then { q with state := .disabled } else q

/-- Queue 0 as AQ_ENABLE makes it. -/
def HostSide.adminSq (h : HostSide) (f : FnIx) : Queue :=
  Queue.fresh 0 .sq (bits (h.fnReg f 0x010) 3 0) (h.adminBase f 0x010) 0 1 none 0 0

/-- Queue 1 as AQ_ENABLE makes it. -/
def HostSide.adminCq (h : HostSide) (f : FnIx) (v : BitVec 11) : Queue :=
  Queue.fresh 1 .cq (bits (h.fnReg f 0x018) 3 0) (h.adminBase f 0x018) 0 0 (some v.toNat) 1 0

theorem fxAqEnable_inReset (hr : (s.host.fn f).ready = false) : fxAqEnable f v s = s := if_pos hr

/-- With EN 1 the write stores VECTOR alone. -/
theorem fxAqEnable_again (hr : (s.host.fn f).ready = true) (he : bit (s.host.fnReg f 0x020) 0 = true) : fxAqEnable f v s =
    s.onHost fun h => (h.setFnReg f 0x020 (aqCtrl true v)).onQueue f 1 fun x => { x with vector := some v.toNat } := by
  rw [fxAqEnable, if_neg (by simp [hr]), if_pos he]

theorem fxAqEnable_refused (hr : (s.host.fn f).ready = true) (he : bit (s.host.fnReg f 0x020) 0 = false)
    (hg : ¬ s.host.adminReady f) : fxAqEnable f v s =
      s.onHost fun h => (h.setFnReg f 0x020 (aqCtrl false v)).onFn f fun x => { x with aqErr := true } := by
  rw [fxAqEnable, if_neg (by simp [hr]), if_neg (by simp [he]), if_pos (by rw [HostSide.adminReady] at hg; omega)]

theorem fxAqEnable_created (hr : (s.host.fn f).ready = true) (he : bit (s.host.fnReg f 0x020) 0 = false)
    (hg : s.host.adminReady f) : fxAqEnable f v s = s.onHost fun h => (h.setFnReg f 0x020 (aqCtrl true v)).onFn f fun x =>
      { x with queues := (s.host.fn f).created (s.host.adminSq f) :: (s.host.fn f).created (s.host.adminCq f v) :: x.queues } := by
  rw [fxAqEnable, if_neg (by simp [hr]), if_neg (by simp [he]), if_neg (by rw [HostSide.adminReady] at hg; omega)]
  rfl

/-- EN reads as it is written, whatever else of the function changes. -/
theorem HostSide.en_setFnReg (h : HostSide) (en : Bool) {u : Fn → Fn} (hu : ∀ x, (u x).regs = x.regs) :
    bit (((h.setFnReg f 0x020 (aqCtrl en v)).onFn f u).fnReg f 0x020) 0 = en := by
  rw [HostSide.fnReg_onFn _ f hu, HostSide.fnReg_setFnReg_same, bit_aqCtrl]

theorem fxAqDisable_freed (hq : ∀ q ∈ (s.host.fn f).queues, (q.id = 0 ∨ q.id = 1) ∧ q.quiet = true) : fxAqDisable f v s =
    s.onHost fun h => (h.setFnReg f 0x020 (aqCtrl false v)).onFn f fun x => { x with queues := [], aqErr := false } :=
  if_pos (List.all_eq_true.mpr fun q h => by simpa using hq q h)

theorem fxAqDisable_discarded (hq : ¬ ∀ q ∈ (s.host.fn f).queues, (q.id = 0 ∨ q.id = 1) ∧ q.quiet = true) : fxAqDisable f v s = s :=
  if_neg fun h => hq fun q hm => by simpa using List.all_eq_true.mp h q hm

theorem fxAqEnable_created_queues (hr : (s.host.fn f).ready = true) (he : bit (s.host.fnReg f 0x020) 0 = false)
    (hg : s.host.adminReady f) :
    let t := fxAqEnable f v s
    t = { s with fns := t.fns } ∧ bit (t.host.fnReg f 0x020) 0 = true ∧
      (t.host.fn f).queues = (s.host.fn f).created (s.host.adminSq f) :: (s.host.fn f).created (s.host.adminCq f v) ::
        (s.host.fn f).queues := by
  intro t
  have ht : t = _ := fxAqEnable_created hr he hg
  refine ⟨by rw [ht]; rfl, ?_, ?_⟩
  · rw [ht, State.fnReg_onHost]
    exact HostSide.en_setFnReg _ _ fun _ => rfl
  · rw [ht, State.fn_onHost, HostSide.fn_onFn_same, HostSide.setFnReg, HostSide.fn_onFn_same]

end

section
variable {s : State} {f : FnIx} {v : BitVec 11}

theorem fxAqEnable_refused_spec (hr : (s.host.fn f).ready = true) (he : bit (s.host.fnReg f 0x020) 0 = false)
    (hg : ¬ s.host.adminReady f) :
    let t := fxAqEnable f v s
    t = { s with fns := t.fns } ∧ (t.host.fn f).aqErr = true ∧ (t.host.fn f).queues = (s.host.fn f).queues ∧
      bit (t.host.fnReg f 0x020) 0 = false := by
  intro t
  have ht : t = _ := fxAqEnable_refused hr he hg
  refine ⟨by rw [ht]; rfl, ?_, ?_, ?_⟩
  · rw [ht, State.fn_onHost, HostSide.fn_onFn_same]
  · rw [ht, State.fn_onHost, HostSide.fn_onFn_same, HostSide.setFnReg, HostSide.fn_onFn_same]
  · rw [ht, State.fnReg_onHost]
    exact HostSide.en_setFnReg _ _ fun _ => rfl

theorem HostSide.queue_setFnReg (h : HostSide) (f : FnIx) (off : Nat) (w : Word) (q : Nat) :
    (h.setFnReg f off w).queue f q = h.queue f q := by
  rw [HostSide.queue, HostSide.setFnReg, HostSide.fn_onFn_same, HostSide.queue]

theorem State.queue_onHost (s : State) (u : HostSide → HostSide) (f : FnIx) (q : Nat) :
    (s.onHost u).host.queue f q = (u s.host).queue f q := rfl

theorem fxAqEnable_again_spec (hr : (s.host.fn f).ready = true) (he : bit (s.host.fnReg f 0x020) 0 = true) :
    let t := fxAqEnable f v s
    t = { s with fns := t.fns } ∧ t.host.fnReg f 0x020 = aqCtrl true v ∧
      ∀ y, s.host.queue f 1 = some y → t.host.queue f 1 = some { y with vector := some v.toNat } := by
  intro t
  have ht : t = _ := fxAqEnable_again hr he
  refine ⟨by rw [ht]; rfl, ?_, fun y hy => ?_⟩
  · rw [ht, State.fnReg_onHost]
    exact (HostSide.fnReg_onFn _ f (fun _ => by rfl) _).trans (HostSide.fnReg_setFnReg_same _ _ _ _)
  · rw [ht, State.queue_onHost]
    exact HostSide.queue_onQueue_same ((s.host.queue_setFnReg f _ _ 1).trans hy) rfl

theorem fxAqDisable_freed_spec (hq : ∀ q ∈ (s.host.fn f).queues, (q.id = 0 ∨ q.id = 1) ∧ q.quiet = true) :
    let t := fxAqDisable f v s
    t = { s with fns := t.fns } ∧ (t.host.fn f).queues = [] ∧ bit (t.host.fnReg f 0x020) 0 = false := by
  intro t
  have ht : t = _ := fxAqDisable_freed hq
  refine ⟨by rw [ht]; rfl, ?_, ?_⟩
  · rw [ht, State.fn_onHost, HostSide.fn_onFn_same]
  · rw [ht, State.fnReg_onHost]
    exact HostSide.en_setFnReg _ _ fun _ => rfl

end

/-! ### Disabling and enabling a VF (R338) -/

/-- A single bit of a register word that is set. -/
theorem bit_setBits (w : Word) {n : Nat} (v : Nat) (h : n < 32) : bit (setBits w n n v) n = v.testBit 0 := by
  rw [bit_eq_testBit, bits_setBits _ _ _ h, Nat.testBit_mod_two_pow]
  simp

theorem bit_setBits_above (w : Word) {hi lo n : Nat} (v : Nat) (h : hi < n) : bit (setBits w hi lo v) n = bit w n := by
  rw [bit_eq_testBit, bits_setBits_above _ _ h, ← bit_eq_testBit]

/-- The host side as the disabling of a VF begins. -/
def HostSide.markDisabled (h : HostSide) (f : FnIx) : HostSide :=
  (h.onFn f fun x => { x with disabled := true, queues := x.queues.map Queue.disable }).setReg (0x100 + 4 * f.val)
    (setBits (h.reg (0x100 + 4 * f.val)) 31 31 1)

/-- The host side of a VF that is enabled, before its SQs settle. -/
def HostSide.markEnabled (h : HostSide) (f : FnIx) : HostSide :=
  (h.onFn f fun x => { x with disabled := false, queues := x.queues.map fun q => { q with state := .run } }).setReg
    (0x100 + 4 * f.val) (setBits (h.reg (0x100 + 4 * f.val)) 31 30 0)

section
variable {s : State} {f : FnIx}

/-- The registers from 0x100 hold the quotas, DISABLE and DISABLED. -/
theorem HostSide.Stands.quotaReg {ends : Await → Prop} {h k : HostSide} (a : h.Stands ends k) (f : FnIx) :
    k.reg (0x100 + 4 * f.val) = h.reg (0x100 + 4 * f.val) := a.regs _ (by omega) (by omega)

theorem HostSide.fn_setReg (h : HostSide) (off : Nat) (w : Word) (f : FnIx) : (h.setReg off w).fn f = h.fn f := rfl

theorem HostSide.fn_markDisabled (h : HostSide) (f : FnIx) : (h.markDisabled f).fn f =
    { h.fn f with disabled := true, queues := (h.fn f).queues.map Queue.disable } := by
  rw [HostSide.markDisabled, HostSide.fn_setReg, HostSide.fn_onFn_same]

theorem HostSide.reg_markDisabled (h : HostSide) (f : FnIx) :
    (h.markDisabled f).reg (0x100 + 4 * f.val) = setBits (h.reg (0x100 + 4 * f.val)) 31 31 1 := by
  rw [HostSide.markDisabled, HostSide.reg_setReg_same]

theorem HostSide.fn_markEnabled (h : HostSide) (f : FnIx) : (h.markEnabled f).fn f =
    { h.fn f with disabled := false, queues := (h.fn f).queues.map fun q => { q with state := .run } } := by
  rw [HostSide.markEnabled, HostSide.fn_setReg, HostSide.fn_onFn_same]

theorem HostSide.reg_markEnabled (h : HostSide) (f : FnIx) :
    (h.markEnabled f).reg (0x100 + 4 * f.val) = setBits (h.reg (0x100 + 4 * f.val)) 31 30 0 := by
  rw [HostSide.markEnabled, HostSide.reg_setReg_same]

theorem HostSide.fn_syncDisabled (h : HostSide) (f g : FnIx) : (h.syncDisabled f).fn g = h.fn g := by
  rw [HostSide.syncDisabled, HostSide.fn_setReg]

theorem HostSide.Stands.stored {ends : Await → Prop} {h : HostSide} {s : State} {u : HostSide → HostSide}
    (a : h.Stands ends (u s.host)) : h.Stands ends (s.onHost u).host := ⟨a.fns, a.regs, a.flags⟩

/-- A VF is disabled by marking it, letting its work and canvases go, and reporting. -/
theorem State.disableVf_steps (hf : f ≠ 0) (hd : (s.host.fn f).disabled = false) :
    ∃ u, (s.onHost fun h => h.markDisabled f).Unwinds u ∧ (∀ cv, cv.func = f → u.Leaving cv) ∧
      s.disableVf f = (u.onHost fun h => (h.syncDisabled f).postFunc f 1).raiseHost 0x2 := by
  refine ⟨((((s.onHost fun h => h.markDisabled f).cancelFnWaits f).poisonFn f).unbindFn f), ?_, ?_, ?_⟩
  · exact ((State.Unwinds.refl _).stands ((State.Stands.refl _).cancelFnWaits f |>.poisonFn f)).unbindFn f
  · exact fun cv h => State.leaving_unbindFn _ h
  · rw [State.disableVf, if_neg (by simp [hd, Fin.val_eq_zero_iff, hf])]
    rfl

/-- What the reports of a disabled VF leave. -/
theorem State.reportDisabled_stands (u : State) (f : FnIx) : (u.host.syncDisabled f).Stands (fun _ => True)
    ((u.onHost fun h => (h.syncDisabled f).postFunc f 1).raiseHost 0x2).host :=
  (HostSide.Stands.raise (HostSide.Stands.stored ((HostSide.Stands.refl _).postDie _ _ _)) _).stored

theorem State.disableVf_queues (hf : f ≠ 0) (hd : (s.host.fn f).disabled = false) :
    ((s.disableVf f).host.fn f).disabled = true ∧ (∀ q ∈ ((s.disableVf f).host.fn f).queues, q.state = .disabled) ∧
      ((s.disableVf f).host.fn f).queues.map Queue.id = (s.host.fn f).queues.map Queue.id := by
  obtain ⟨u, hu, -, he⟩ := State.disableVf_steps hf hd
  have hst : ((s.host.markDisabled f).fn f).Stands (fun _ => True) ((s.disableVf f).host.fn f) := by
    have hrep := (u.reportDisabled_stands f).fns f
    have hlet := hu.host.fns f
    rw [← he, HostSide.fn_syncDisabled] at hrep
    rw [State.fn_onHost] at hlet
    exact hlet.trans hrep
  rw [HostSide.fn_markDisabled] at hst
  refine ⟨hst.disabled, fun q hq => ?_, ?_⟩
  · refine of_decide_eq_true (hst.disabled_mem true (fun p hp => ?_) q hq)
    obtain ⟨p, -, rfl⟩ := List.mem_map.mp hp
    rfl
  · refine (forall₂_map_eq (fun _ _ q => q.id) hst.queues).trans ?_
    simp [Queue.disable]

theorem State.disableVf_regs (hf : f ≠ 0) (hd : (s.host.fn f).disabled = false) :
    bit ((s.disableVf f).host.reg (0x100 + 4 * f.val)) 31 = true ∧ ((s.disableVf f).host.reg 0x00C).getLsbD 1 = true ∧
      (s.disableVf f).host.quota f = s.host.quota f := by
  obtain ⟨u, hu, -, he⟩ := State.disableVf_steps hf hd
  have hmark : u.host.reg (0x100 + 4 * f.val) = setBits (s.host.reg (0x100 + 4 * f.val)) 31 31 1 := by
    rw [hu.host.quotaReg f, host_reg_onHost, HostSide.reg_markDisabled]
  have hreg : (s.disableVf f).host.reg (0x100 + 4 * f.val) = (u.host.syncDisabled f).reg (0x100 + 4 * f.val) := by
    rw [he]
    exact (u.reportDisabled_stands f).quotaReg f
  rw [HostSide.syncDisabled, HostSide.reg_setReg_same, hmark] at hreg
  refine ⟨?_, ?_, ?_⟩
  · rw [hreg, bit_setBits_above _ _ (by decide), bit_setBits _ _ (by decide)]
    rfl
  · rw [he, State.raiseHost, host_reg_onHost]
    exact HostSide.Stands.raise_flag _ (by decide)
  · rw [HostSide.quota, hreg, bits_setBits_below _ _ (by decide), bits_setBits_below _ _ (by decide), HostSide.quota]

theorem State.Leaving.onHost {cv : CanvasId} (h : s.Leaving cv) (u : HostSide → HostSide) : (s.onHost u).Leaving cv := h

theorem State.disableVf_leaving (hf : f ≠ 0) (hd : (s.host.fn f).disabled = false) {cv : CanvasId} (hcv : cv.func = f) :
    (s.disableVf f).Leaving cv := by
  obtain ⟨u, -, hl, he⟩ := State.disableVf_steps hf hd
  rw [he]
  exact ((hl cv hcv).onHost _).onHost _

theorem State.enableVf_steps (hd : (s.host.fn f).disabled = true) :
    s.enableVf f = s.onHost fun h => ((h.markEnabled f).settleAll f).postFunc f 2 := if_neg (by simp [hd])

theorem HostSide.enabled_stands (h : HostSide) (f : FnIx) :
    (h.markEnabled f).Stands (fun _ => True) (((h.markEnabled f).settleAll f).postFunc f 2) :=
  ((HostSide.Stands.refl _).settleAll f).postDie _ _ _

theorem State.enableVf_queues (hd : (s.host.fn f).disabled = true) :
    ((s.enableVf f).host.fn f).disabled = false ∧ ∀ q ∈ ((s.enableVf f).host.fn f).queues, q.state ≠ .disabled := by
  have hst := (s.host.enabled_stands f).fns f
  rw [HostSide.fn_markEnabled] at hst
  rw [State.enableVf_steps hd, State.fn_onHost]
  refine ⟨hst.disabled, fun q hq => of_decide_eq_false (hst.disabled_mem false (fun p hp => ?_) q hq)⟩
  obtain ⟨p, -, rfl⟩ := List.mem_map.mp hp
  rfl

theorem State.enableVf_quotaReg (hd : (s.host.fn f).disabled = true) :
    (s.enableVf f).host.reg (0x100 + 4 * f.val) = setBits (s.host.reg (0x100 + 4 * f.val)) 31 30 0 := by
  rw [State.enableVf_steps hd, host_reg_onHost, (s.host.enabled_stands f).quotaReg f, HostSide.reg_markEnabled]

end

end Sys2Proof.Machine
end

section
/-! SUPPORT. Proofs of the statements of 12_host_queues: quotas, head owners and event queues of dies (R342), and O44. -/

namespace Sys2Proof.Machine

section
variable {s : State} {f : FnIx}

/-! ### Quotas -/

/-- A quota that a write of HST_QUOTA stores. -/
def HostSide.QuotaStored (h : HostSide) (f : FnIx) (n : Nat) : Prop :=
  h.quotaSum f n ≤ 262144 ∧ (∀ q ∈ (h.fn f).queues, q.id < n) ∧
    (f = 0 ∨ (h.fn f).vfEnabled = false ∨ bit (h.reg (0x100 + 4 * f.val)) 31 = true)

/-- A quota is stored, and HST_QFREE follows. -/
def State.storeQuota (s : State) (f : FnIx) (n : Nat) : State :=
  s.onHost fun h => (h.setReg (0x100 + 4 * f.val) (setBits (h.reg (0x100 + 4 * f.val)) 18 0 n)).setReg 0x008
    (BitVec.ofNat 32 (262144 - h.quotaSum f n))

/-- What a write of HST_QUOTA makes of a VF's DISABLE. -/
def State.setDisable (s : State) (f : FnIx) (b : Bool) : State :=
  if f.val = 0 then s else if b then s.disableVf f else s.enableVf f

theorem HostSide.quotaStored_iff (h : HostSide) (f : FnIx) (n : Nat) : h.QuotaStored f n ↔
    ¬ (262144 < h.quotaSum f n ∨ ((h.fn f).queues.any fun q => decide (n ≤ q.id)) = true ∨
      (f.val != 0 && (h.fn f).vfEnabled && !bit (h.reg (0x100 + 4 * f.val)) 31) = true) := by
  simp only [HostSide.QuotaStored, not_or, Nat.not_lt, List.any_eq_true, decide_eq_true_eq, not_exists, not_and, Nat.not_le,
    Bool.and_eq_true, Bool.not_eq_true', Bool.not_eq_false, bne_iff_ne, ne_eq, and_imp, Fin.val_eq_zero_iff]
  refine and_congr_right fun _ => and_congr_right fun _ => ⟨?_, fun h0 => ?_⟩
  · rintro (h0 | h0 | h0) hf hv
    · exact absurd h0 hf
    · rw [h0] at hv
      cases hv
    · exact h0
  · rw [← Bool.not_eq_true, ← imp_iff_not_or, or_iff_not_imp_left]
    exact h0

theorem fxHstQuotaWrite_stored {w : Word} (h : s.host.QuotaStored f (bits w 18 0)) :
    fxHstQuotaWrite f w s = (s.storeQuota f (bits w 18 0)).setDisable f (bit w 31) := by
  rw [fxHstQuotaWrite]
  rw [if_neg ((s.host.quotaStored_iff f _).mp h)]
  rfl

theorem fxHstQuotaWrite_kept {w : Word} (h : ¬ s.host.QuotaStored f (bits w 18 0)) :
    fxHstQuotaWrite f w s = s.setDisable f (bit w 31) := by
  rw [s.host.quotaStored_iff f, not_not] at h
  rw [fxHstQuotaWrite]
  rw [if_pos h]
  rfl

theorem State.fn_storeQuota (s : State) (f : FnIx) (n : Nat) : (s.storeQuota f n).host.fn f = s.host.fn f := by
  rw [State.storeQuota, State.fn_onHost, HostSide.fn_setReg, HostSide.fn_setReg]

theorem State.quota_storeQuota (s : State) (f : FnIx) (w : Word) : (s.storeQuota f (bits w 18 0)).host.quota f = bits w 18 0 := by
  rw [HostSide.quota, State.storeQuota, host_reg_onHost, HostSide.reg_setReg_ne _ _ (by omega), HostSide.reg_setReg_same,
    bits_setBits _ _ _ (by decide)]
  exact Nat.mod_eq_of_lt (Nat.mod_lt _ (by decide))

theorem State.onHost_only (s : State) (u : HostSide → HostSide) : s.onHost u =
    { s with fns := (s.onHost u).fns, hostRegs := (s.onHost u).hostRegs, hostMem := (s.onHost u).hostMem } := rfl

theorem State.onHost_regs (s : State) {u : HostSide → HostSide} (hf : (u s.host).fns = s.fns) (hm : (u s.host).hostMem = s.hostMem) :
    s.onHost u = { s with hostRegs := (s.onHost u).hostRegs } := by
  rw [State.onHost, State.withHost, hf, hm]

theorem State.storeQuota_only (s : State) (f : FnIx) (n : Nat) :
    s.storeQuota f n = { s with hostRegs := (s.storeQuota f n).hostRegs } := s.onHost_regs rfl rfl

theorem State.free_storeQuota (s : State) (f : FnIx) (n : Nat) :
    (s.storeQuota f n).host.reg 0x008 = BitVec.ofNat 32 (262144 - s.host.quotaSum f n) := by
  rw [State.storeQuota, host_reg_onHost, HostSide.reg_setReg_same]

theorem State.setDisable_same {b : Bool} (h : f = 0 ∨ b = (s.host.fn f).disabled) : s.setDisable f b = s := by
  rw [State.setDisable]
  obtain rfl | rfl := h
  · exact if_pos rfl
  · split
    · rfl
    · split
      next hd => exact if_pos (.inr hd)
      next hd => exact if_pos (by simpa using hd)

/-- A write that changes DISABLE disables or enables the VF and keeps its quota. -/
theorem State.setDisable_changes {b : Bool} (hf : f ≠ 0) (h : b ≠ (s.host.fn f).disabled) :
    ((s.setDisable f b).host.fn f).disabled = b ∧ (s.setDisable f b).host.quota f = s.host.quota f := by
  rw [State.setDisable, if_neg (by simpa [Fin.val_eq_zero_iff] using hf)]
  cases b with
  | true =>
    have hd : (s.host.fn f).disabled = false := by simpa using h.symm
    exact ⟨(State.disableVf_queues hf hd).1, (State.disableVf_regs hf hd).2.2⟩
  | false =>
    have hd : (s.host.fn f).disabled = true := by simpa using h.symm
    refine ⟨(State.enableVf_queues hd).1, ?_⟩
    rw [if_neg Bool.false_ne_true, HostSide.quota, State.enableVf_quotaReg hd, bits_setBits_below _ _ (by decide), HostSide.quota]

theorem quotaWrite_sameDisable {w : Word} (h : f = 0 ∨ bit w 31 = (s.host.fn f).disabled) :
    (s.host.QuotaStored f (bits w 18 0) → fxHstQuotaWrite f w s = s.storeQuota f (bits w 18 0)) ∧
      (¬ s.host.QuotaStored f (bits w 18 0) → fxHstQuotaWrite f w s = s) := by
  refine ⟨fun hs => ?_, fun hs => ?_⟩
  · rw [fxHstQuotaWrite_stored hs, State.setDisable_same (h.imp_right fun e => e.trans (by rw [State.fn_storeQuota]))]
  · rw [fxHstQuotaWrite_kept hs, State.setDisable_same h]

theorem quotaWrite_changesDisable {w : Word} (hf : f ≠ 0) (h : bit w 31 ≠ (s.host.fn f).disabled) :
    ((fxHstQuotaWrite f w s).host.fn f).disabled = bit w 31 ∧
      (s.host.QuotaStored f (bits w 18 0) → (fxHstQuotaWrite f w s).host.quota f = bits w 18 0) ∧
      (¬ s.host.QuotaStored f (bits w 18 0) → (fxHstQuotaWrite f w s).host.quota f = s.host.quota f) := by
  by_cases hs : s.host.QuotaStored f (bits w 18 0)
  · have hw := State.setDisable_changes (s := s.storeQuota f (bits w 18 0)) hf (by rwa [State.fn_storeQuota])
    rw [← fxHstQuotaWrite_stored hs, State.quota_storeQuota] at hw
    exact ⟨hw.1, fun _ => hw.2, fun hn => absurd hs hn⟩
  · have hw := State.setDisable_changes hf h
    rw [← fxHstQuotaWrite_kept hs] at hw
    exact ⟨hw.1, fun hp => absurd hp hs, fun _ => hw.2⟩

end

/-! ### Event queues of dies -/

/-- The fields of HST_DIE_EQ as they are written: QUEUE, and VALID in bit 31. -/
theorem dieEq_fields {q : Nat} (hq : q < 2 ^ 18) (b : Bool) :
    bits (BitVec.ofNat 32 (q + 2 ^ 31 * b2n b)) 17 0 = q ∧ bit (BitVec.ofNat 32 (q + 2 ^ 31 * b2n b)) 31 = b := by
  have hb : b2n b < 2 := by cases b <;> decide
  refine ⟨?_, ?_⟩
  · rw [bits, BitVec.toNat_ofNat, natBits]
    omega
  · rw [bit, BitVec.toNat_ofNat, Nat.testBit_eq_decide_div_mod_eq, show (q + 2 ^ 31 * b2n b) % 2 ^ 32 / 2 ^ 31 % 2 = b2n b by omega]
    cases b <;> rfl

/-- VALID is stored where QUEUE names an EQ of the PF. -/
theorem fxHstDieEqWrite_stores (s : State) (d : DieIx) (w : Word) :
    ∃ b, fxHstDieEqWrite d w s =
        s.onHost (fun x => x.setReg (0x020 + 4 * d.val) (BitVec.ofNat 32 (bits w 17 0 + 2 ^ 31 * b2n b))) ∧
      (b = true ↔ bit w 31 = true ∧ ∃ q, s.host.queue 0 (bits w 17 0) = some q ∧ q.kind = .eq) := by
  refine ⟨_, rfl, ?_⟩
  cases s.host.queue 0 (bits w 17 0) with
  | none => simp
  | some x => simp

theorem fxHstDieEqWrite_spec (s : State) (d : DieIx) (w : Word) :
    let t := fxHstDieEqWrite d w s
    t = { s with hostRegs := t.hostRegs } ∧ bits (t.host.reg (0x020 + 4 * d.val)) 17 0 = bits w 17 0 ∧
      (bit (t.host.reg (0x020 + 4 * d.val)) 31 = true ↔
        bit w 31 = true ∧ ∃ q, s.host.queue 0 (bits w 17 0) = some q ∧ q.kind = .eq) := by
  obtain ⟨b, he, hb⟩ := fxHstDieEqWrite_stores s d w
  obtain ⟨hq, hv⟩ := dieEq_fields (q := bits w 17 0) (Nat.mod_lt _ (by decide)) b
  have hreg : (fxHstDieEqWrite d w s).host.reg (0x020 + 4 * d.val) = BitVec.ofNat 32 (bits w 17 0 + 2 ^ 31 * b2n b) := by
    rw [he, host_reg_onHost, HostSide.reg_setReg_same]
  dsimp only
  rw [hreg, hq, hv]
  exact ⟨by rw [he]; rfl, rfl, hb⟩

theorem fxHstHeadOwnerWrite_spec (s : State) (d : DieIx) (w : Word) :
    (s.headCanvas d = none → fxHstHeadOwnerWrite d w s =
      s.onHost fun x => x.setReg (0x040 + 4 * d.val) (BitVec.ofNat 32 (bits w 5 0))) ∧
    (s.headCanvas d ≠ none → fxHstHeadOwnerWrite d w s = s) :=
  ⟨fun h => if_neg (by simp [h]), fun h => if_pos (Option.isSome_iff_ne_none.mpr h)⟩

/-- Settles O44: the outcomes of each write, by its conditions. -/
theorem adminRingsAndDeviceRegisters : Obligations.admin_rings_and_device_registers := by
  intro s f
  refine ⟨fun v hr he => ?enable, fun v => ?enable_again, fun h => ⟨_, rfl, if_pos (h.imp_left fun e => by rw [e]; rfl)⟩,
    fun h => ⟨_, rfl, if_pos h⟩, fun v => ?disable, fun hf hd => ?disable_vf, fun hd => ?enable_vf, fun w h => ?quota,
    fun w hf h => ?quota_disable, fun d w => ?dies⟩
  case enable =>
    refine ⟨fun hg hd => ?_, fun hg hd => ?_, fun hg => ⟨_, rfl, fxAqEnable_refused_spec hr he hg⟩⟩
    · obtain ⟨hst, hen, hq⟩ := fxAqEnable_created_queues hr he hg
      rw [Fn.created, Fn.created, if_neg (by simp [hd]), if_neg (by simp [hd])] at hq
      exact ⟨_, rfl, hst, hen, _, _, hq, rfl, rfl, rfl, rfl, rfl, rfl, rfl, rfl, rfl, rfl, rfl, rfl, rfl, rfl⟩
    · obtain ⟨hst, hen, hq⟩ := fxAqEnable_created_queues hr he hg
      rw [Fn.created, Fn.created, if_pos hd, if_pos hd] at hq
      exact ⟨_, rfl, hst, hen, _, _, hq, rfl, rfl, rfl, rfl, rfl, rfl⟩
  case enable_again => exact ⟨fun hr => ⟨_, rfl, fxAqEnable_inReset hr⟩, fun hr he => ⟨_, rfl, fxAqEnable_again_spec hr he⟩⟩
  case disable =>
    split
    next hq => exact ⟨_, rfl, fxAqDisable_freed_spec hq⟩
    next hq => exact congrArg Host.Outcome.next (fxAqDisable_discarded hq)
  case disable_vf =>
    obtain ⟨hdis, hall, hids⟩ := State.disableVf_queues hf hd
    obtain ⟨hbit, hevt, -⟩ := State.disableVf_regs hf hd
    exact ⟨_, rfl, hdis, hall, hids, hbit, hevt, fun cv k hcv => State.disableVf_leaving hf hd hcv k⟩
  case enable_vf =>
    obtain ⟨hdis, hall⟩ := State.enableVf_queues hd
    refine ⟨_, rfl, ?_, hdis, hall, ?_⟩
    · rw [fxVfEnable, State.enableVf_steps hd]
      exact s.onHost_only _
    · rw [fxVfEnable, State.enableVf_quotaReg hd, bits_setBits _ _ _ (by decide), Nat.zero_mod]
  case quota =>
    refine ⟨fun hs => ⟨_, rfl, ?_⟩, fun hs => congrArg Host.Outcome.next ((quotaWrite_sameDisable h).2 hs)⟩
    rw [(quotaWrite_sameDisable h).1 hs]
    exact ⟨s.storeQuota_only f _, s.quota_storeQuota f w, s.free_storeQuota f _⟩
  case quota_disable =>
    obtain ⟨hdis, hstored, hkept⟩ := quotaWrite_changesDisable hf h
    have hiff : s.host.QuotaStored f (bits w 18 0) ↔ s.host.quotaSum f (bits w 18 0) ≤ 262144 ∧
        (∀ q ∈ (s.host.fn f).queues, q.id < bits w 18 0) ∧
        ((s.host.fn f).vfEnabled = false ∨ bit (s.host.reg (0x100 + 4 * f.val)) 31 = true) := by
      rw [HostSide.QuotaStored, or_iff_right hf]
    exact ⟨_, rfl, hdis, fun hs => hstored (hiff.mpr hs), fun hs => hkept fun hp => hs (hiff.mp hp)⟩
  case dies =>
    refine ⟨fun h => ⟨_, rfl, ?_⟩, fun h => congrArg Host.Outcome.next ((fxHstHeadOwnerWrite_spec s d w).2 h),
      ⟨_, rfl, fxHstDieEqWrite_spec s d w⟩⟩
    rw [(fxHstHeadOwnerWrite_spec s d w).1 h]
    exact ⟨s.onHost_regs rfl rfl, HostSide.reg_setReg_same _ _ _⟩

end Sys2Proof.Machine
end

section
/-! SUPPORT. Proofs of the statements of 12_host_queues: resets of functions (R339, R340), and O45. -/

namespace Sys2Proof.Machine

section
variable {s t : State} {f g : FnIx} {vf : Bool}

/-- The host-facing state of a function in a reset, whose canvases are under unbinding. -/
def State.Clean (t : State) (f : FnIx) : Prop :=
  (t.host.fn f).ready = false ∧ (t.host.fn f).queues = [] ∧ (t.host.fn f).bundles = [] ∧
    (t.host.fn f).windows = Vector.replicate 16 none ∧ (t.host.fn f).msix = [] ∧
    ∀ cv k, cv.func = f → t.canvas cv = some k → k.unbinding = true

/-- A function in a reset has no queue that could take a record, so its state stands. -/
theorem State.Clean.of_stands {ends : Await → Prop} (h : s.Clean f) (a : (s.host.fn f).Stands ends (t.host.fn f))
    (hl : ∀ cv, s.Leaving cv → t.Leaving cv) : t.Clean f := by
  obtain ⟨hr, hq, hb, hw, hm, hc⟩ := h
  exact ⟨a.ready.trans hr, List.forall₂_nil_left_iff.mp (hq ▸ a.queues), a.bundles.trans hb, a.windows.trans hw, (a.msix hq).trans hm,
    fun cv k hf hk => hl cv (fun c h => hc cv c hf h) k hk⟩

/-! ### The reset of a function -/

/-- The state in which a function's host-facing state has its reset values. -/
def State.markReset (s : State) (f : FnIx) (vf : Bool) : State := s.onHost fun h => h.onFn f fun x => x.inReset vf

theorem State.fn_markReset (s : State) (f g : FnIx) (vf : Bool) :
    (s.markReset f vf).host.fn g = if f = g then (s.host.fn f).inReset vf else s.host.fn g := by
  rw [State.markReset, State.fn_onHost, HostSide.fn_onFn]

/-- The steps of R339 after the first: the function's work and canvases are let go, then its contexts and DRAM. -/
theorem State.resetFn_steps (s : State) (f : FnIx) (vf : Bool) : ∃ u, (s.markReset f vf).Unwinds u ∧
    (∀ cv, cv.func = f → u.Leaving cv) ∧ u.Stands (s.resetFn f vf) := by
  have hwork := ((State.Stands.refl (s.markReset f vf)).cancelFnWaits f).poisonFn f
  refine ⟨_, ((State.Unwinds.refl _).stands hwork).unbindFn f, fun cv h => State.leaving_unbindFn _ h, ?_⟩
  refine State.Stands.recordEvent (.onDies (.foldl (.refl _) fun t d a => ?_) _ _) _ _ _ _
  split
  · exact a.destroyCtx d _
  · exact a

theorem State.resetFn_unwinds (s : State) (f : FnIx) (vf : Bool) : (s.markReset f vf).Unwinds (s.resetFn f vf) := by
  obtain ⟨u, hu, -, ht⟩ := s.resetFn_steps f vf
  exact hu.stands ht

/-- What a reset leaves of the function it resets. -/
theorem State.resetFn_same (s : State) (f : FnIx) (vf : Bool) : (s.resetFn f vf).Clean f ∧
    ((s.resetFn f vf).host.fn f).disabled = (s.host.fn f).disabled ∧
    ((s.resetFn f vf).host.fn f).vfEnabled = (vf && (s.host.fn f).vfEnabled) := by
  obtain ⟨u, hu, hl, ht⟩ := s.resetFn_steps f vf
  have hfn := (hu.stands ht).host.fns f
  rw [State.fn_markReset, if_pos rfl] at hfn
  refine ⟨⟨hfn.ready, List.forall₂_nil_left_iff.mp hfn.queues, hfn.bundles, hfn.windows, hfn.msix rfl, fun cv k hf => ?_⟩, hfn.disabled,
    hfn.vfEnabled⟩
  exact (hl cv hf).of_standing (ht.canvas cv) k

/-- What a reset leaves of another function. -/
theorem State.resetFn_ne (s : State) (vf : Bool) (h : g ≠ f) : (s.host.fn g).Stands (fun _ => True) ((s.resetFn f vf).host.fn g) := by
  have hfn := (s.resetFn_unwinds f vf).host.fns g
  rwa [State.fn_markReset, if_neg h.symm] at hfn

theorem State.Leaving.markReset {cv : CanvasId} (h : s.Leaving cv) (f : FnIx) (vf : Bool) : (s.markReset f vf).Leaving cv := h.onHost _

theorem State.Clean.resetFn (h : s.Clean g) (f : FnIx) (vf : Bool) : (s.resetFn f vf).Clean g := by
  obtain rfl | e := eq_or_ne g f
  · exact (s.resetFn_same g vf).1
  · exact h.of_stands (s.resetFn_ne vf e) fun cv hl => (s.resetFn_unwinds f vf).leaving cv (hl.markReset f vf)

/-! ### The reset of the PF -/

/-- The sessions, and the registers of the HST_ block other than HST_EVT and HST_EQ_LOST. -/
structure State.KeepsDevice (s t : State) : Prop where
  sec : t.sec = s.sec
  regs : ∀ off, off ≠ 0x00C → off ≠ 0x014 → t.host.reg off = s.host.reg off

theorem State.resetFn_keepsDevice (s : State) (f : FnIx) (vf : Bool) : s.KeepsDevice (s.resetFn f vf) := by
  have h := s.resetFn_unwinds f vf
  exact ⟨h.sec, h.host.regs⟩

/-- Every function is reset, and VF Enable is cleared. -/
def State.resetAll (s : State) : State := (List.finRange 64).foldl (fun s f => s.resetFn f false) s

theorem State.resetAll_clean (s : State) (f : FnIx) : s.resetAll.Clean f ∧ (s.resetAll.host.fn f).vfEnabled = false := by
  refine foldl_reaches (P := fun _ => True) (Q := fun t : State => t.Clean f ∧ (t.host.fn f).vfEnabled = false) (List.mem_finRange f)
    (fun _ _ _ _ => trivial) (fun t g _ h => ⟨h.1.resetFn g false, ?_⟩) (fun t _ => ?_) trivial
  · obtain rfl | e := eq_or_ne f g
    · exact (t.resetFn_same f false).2.2
    · exact (t.resetFn_ne false e).vfEnabled.trans h.2
  · exact ⟨(t.resetFn_same f false).1, (t.resetFn_same f false).2.2⟩

theorem State.resetAll_keepsDevice (s : State) : s.KeepsDevice s.resetAll := by
  refine foldl_inv (P := fun t => s.KeepsDevice t) (fun t f h => ?_) ⟨rfl, fun _ _ _ => rfl⟩
  have k := t.resetFn_keepsDevice f false
  exact ⟨k.sec.trans h.sec, fun off hc hl => (k.regs off hc hl).trans (h.regs off hc hl)⟩

/-- The registers of the HST_ block that a reset of the PF returns to their reset values. -/
def pfResetOffs : List Nat := (List.range 8).map (fun d => 0x020 + 4 * d) ++ [0x00C, 0x014, 0x018]

theorem mem_pfResetOffs {off : Nat} :
    off ∈ pfResetOffs ↔ (∃ d, d < 8 ∧ 0x020 + 4 * d = off) ∨ off = 0x00C ∨ off = 0x014 ∨ off = 0x018 := by
  simp [pfResetOffs]

theorem sLookup_foldl_sErase {α : Type} {l : List Nat} {n : Nat} (m : SMap α) (h : n ∉ l) :
    sLookup (l.foldl sErase m) n = sLookup m n := by
  induction l generalizing m with
  | nil => rfl
  | cons k rest ih =>
    rw [List.mem_cons, not_or] at h
    rw [List.foldl_cons, ih _ h.2, sLookup_sErase, if_neg (Ne.symm h.1)]

/-- Registers of the HST_ block return to their reset values. -/
def HostSide.clearRegs (h : HostSide) (offs : List Nat) : HostSide := { h with hostRegs := offs.foldl sErase h.hostRegs }

theorem HostSide.fn_clearRegs (h : HostSide) (offs : List Nat) (f : FnIx) : (h.clearRegs offs).fn f = h.fn f := rfl

theorem HostSide.reg_clearRegs (h : HostSide) {offs : List Nat} {off : Nat} (hm : off ∈ offs) :
    (h.clearRegs offs).reg off = hostReset off := by
  rw [HostSide.reg, HostSide.clearRegs, sGet, foldl_sErase_none _ (.inl hm), Option.getD_none]

theorem HostSide.reg_clearRegs_ne (h : HostSide) {offs : List Nat} {off : Nat} (hm : off ∉ offs) :
    (h.clearRegs offs).reg off = h.reg off := by
  rw [HostSide.reg, HostSide.clearRegs, sGet, sLookup_foldl_sErase _ hm, HostSide.reg, sGet]

/-- The state of a PF reset before its session ends. -/
def State.pfReset (s : State) : State := s.resetAll.onHost fun h => h.clearRegs pfResetOffs

theorem fxPfFunctionLevelReset_eq (cause : PfResetCause) (s : State) : fxPfFunctionLevelReset cause s = s.pfReset.endSession .pf := by
  unfold fxPfFunctionLevelReset State.pfReset State.resetAll HostSide.clearRegs pfResetOffs
  rfl

theorem State.pfReset_clean (s : State) (f : FnIx) : s.pfReset.Clean f ∧ (s.pfReset.host.fn f).vfEnabled = false := by
  obtain ⟨hclean, hvf⟩ := s.resetAll_clean f
  have hfn : s.pfReset.host.fn f = s.resetAll.host.fn f := by rw [State.pfReset, State.fn_onHost, HostSide.fn_clearRegs]
  rw [hfn]
  refine ⟨hclean.of_stands (ends := AtTurnstile) ?_ fun cv hl => ?_, hvf⟩
  · rw [hfn]
    exact .refl _
  · rw [State.pfReset]
    exact hl.onHost _

theorem State.sec_onHost (s : State) (u : HostSide → HostSide) : (s.onHost u).sec = s.sec := rfl

theorem State.sec_pfReset (s : State) : s.pfReset.sec = s.sec := by
  rw [State.pfReset, State.sec_onHost, s.resetAll_keepsDevice.sec]

theorem State.reg_pfReset (s : State) {off : Nat} (hm : off ∈ pfResetOffs) : s.pfReset.host.reg off = hostReset off := by
  rw [State.pfReset, host_reg_onHost, HostSide.reg_clearRegs _ hm]

theorem State.reg_pfReset_ne (s : State) {off : Nat} (hm : off ∉ pfResetOffs) : s.pfReset.host.reg off = s.host.reg off := by
  have hne : off ≠ 0x00C ∧ off ≠ 0x014 := by
    rw [mem_pfResetOffs] at hm
    omega
  rw [State.pfReset, host_reg_onHost, HostSide.reg_clearRegs_ne _ hm, s.resetAll_keepsDevice.regs off hne.1 hne.2]

/-- A session that ends with room for its audit entry leaves the host side and the canvases. -/
theorem State.endSession_ended (s : State) (h : s.auditRoom = true ∨ s.sec.pf = none) :
    (s.endSession .pf).host = s.host ∧ (s.endSession .pf).canvases = s.canvases ∧ (s.endSession .pf).sec.pf = none := by
  unfold State.endSession
  split
  next hn => exact ⟨rfl, rfl, hn⟩
  next x hx =>
    have hroom : s.auditRoom = true := h.resolve_right fun hn => by
      rw [State.session, hn] at hx
      cases hx
    rw [State.audited, if_pos hroom]
    exact ⟨rfl, rfl, rfl⟩

theorem State.endSession_refused (s : State) (h : ¬ (s.auditRoom = true ∨ s.sec.pf = none)) : s.Stands (s.endSession .pf) := by
  rw [not_or] at h
  unfold State.endSession
  split
  next => exact .refl s
  next x hx =>
    rw [State.audited, if_neg h.1]
    exact (State.Stands.refl s).raise _ _ _

theorem pfFunctionLevelReset_keeps (cause : PfResetCause) (s : State) : s.pfReset.host.Stands AtTurnstile
    (fxPfFunctionLevelReset cause s).host ∧ ∀ cv, s.pfReset.Leaving cv → (fxPfFunctionLevelReset cause s).Leaving cv := by
  rw [fxPfFunctionLevelReset_eq]
  by_cases h : s.pfReset.auditRoom = true ∨ s.pfReset.sec.pf = none
  · obtain ⟨hhost, hcanvas, -⟩ := s.pfReset.endSession_ended h
    rw [hhost]
    refine ⟨.refl _, fun cv hl => ?_⟩
    rwa [State.Leaving, State.canvas, hcanvas]
  · have hst := s.pfReset.endSession_refused h
    exact ⟨hst.host, fun cv hl => hl.of_standing (hst.canvas cv)⟩

theorem pfFunctionLevelReset_clean (cause : PfResetCause) (s : State) (f : FnIx) :
    (fxPfFunctionLevelReset cause s).Clean f ∧ ((fxPfFunctionLevelReset cause s).host.fn f).vfEnabled = false := by
  obtain ⟨hhost, hleave⟩ := pfFunctionLevelReset_keeps cause s
  obtain ⟨hclean, hvf⟩ := s.pfReset_clean f
  exact ⟨hclean.of_stands (hhost.fns f) hleave, (hhost.fns f).vfEnabled.trans hvf⟩

/-! ### The end of a reset -/

theorem functionResetDone_spec (h : (s.host.fn f).ready = false) :
    let t := fxFunctionResetDone f s
    t = { s with fns := t.fns, hostRegs := t.hostRegs, hostMem := t.hostMem } ∧ (t.host.fn f).ready = true ∧
      (t.host.reg 0x00C).getLsbD 0 = true := by
  intro t
  have ht : t = (s.onHost fun h => (h.onFn f fun x => { x with ready := true }).postFunc f 0).raiseHost 0x1 := if_neg (by simp [h])
  have hst : (s.host.onFn f fun x => { x with ready := true }).Stands (fun _ => True) t.host := by
    rw [ht]
    exact (HostSide.Stands.raise (HostSide.Stands.stored ((HostSide.Stands.refl _).postDie _ _ _)) _).stored
  have hready := (hst.fns f).ready
  rw [HostSide.fn_onFn_same] at hready
  refine ⟨?_, hready, ?_⟩
  · rw [ht]
    rfl
  · rw [ht, State.raiseHost, host_reg_onHost]
    exact HostSide.Stands.raise_flag _ (by decide)

end

/-- Settles O45: a function in a reset keeps its reset values whatever else is let go. -/
theorem functionResets : Obligations.function_resets := by
  intro s
  refine ⟨fun f hf => ?_, ⟨_, rfl, rfl⟩, fun cause => ?_, fun cause h => ?_, fun f h => ⟨_, rfl, if_pos h⟩,
    fun f h => ⟨_, rfl, functionResetDone_spec h⟩⟩
  · obtain ⟨hclean, hdis, -⟩ := s.resetFn_same f true
    have he : fxFunctionLevelReset f s = s.resetFn f true := if_neg (by simpa [Fin.val_eq_zero_iff] using hf)
    refine ⟨_, rfl, ?_⟩
    rw [he]
    refine ⟨hclean, hdis, fun g hg => ?_⟩
    have hfn := s.resetFn_ne true hg
    exact ⟨hfn.ready, hfn.bundles, forall₂_map_eq (fun _ _ q => q.id) hfn.queues⟩
  · refine ⟨_, rfl, pfFunctionLevelReset_clean cause s, fun off hoff => ?_⟩
    have hne : off ∉ pfResetOffs := by
      rw [mem_pfResetOffs]
      omega
    rw [(pfFunctionLevelReset_keeps cause s).1.regs off (by omega) (by omega), s.reg_pfReset_ne hne]
  · have hended : s.pfReset.auditRoom = true ∨ s.pfReset.sec.pf = none := by
      rwa [State.auditRoom, s.sec_pfReset]
    obtain ⟨hhost, -, hpf⟩ := s.pfReset.endSession_ended hended
    refine ⟨_, rfl, ?_⟩
    rw [fxPfFunctionLevelReset_eq]
    dsimp only
    rw [hhost]
    refine ⟨fun d => s.reg_pfReset (mem_pfResetOffs.mpr (.inl ⟨d.val, d.isLt, rfl⟩)), fun off hoff => s.reg_pfReset ?_,
      fun off hoff => s.reg_pfReset_ne ?_, hpf⟩
    · exact mem_pfResetOffs.mpr (.inr (by simpa using hoff))
    · rw [mem_pfResetOffs]
      omega

end Sys2Proof.Machine
end

section
/-! SUPPORT. Proofs of the statements of 12_host_queues: descriptors of every kind, the placement registers, and ADMIT (R145, R335). -/

namespace Sys2Proof.Machine

/-! ### Descriptors of every kind of completion -/

section
variable {s t : State} {h : DescHdr} {q : Queue} {e : DescEnd}

/-- A descriptor that its SQ takes, with every field in its range, of any kind of completion. -/
theorem State.descriptor_acts {kind : Fin 3} {admin ok : Bool} {act : State → Queue → State × DescEnd} (hs : s.Starts h q) (hok : ok = true)
    (ha : admin = true → h.sq = 0) : s.descriptor h kind admin ok act = (act s q).1.begun h (act s q).2 := by
  obtain ⟨hq, hrun, hresv⟩ := hs
  rw [State.descriptor, hq]
  dsimp only
  rw [if_neg (by simp [hrun]), if_neg (by simpa [hok, hresv] using ha)]
  rfl

/-- A descriptor that awaits something, of any kind of completion. -/
theorem State.begun_await (hs : s.Starts h q) (a : Await) :
    s.begun h (.await a) = { s with fns := (s.begun h (.await a)).fns } ∧ (s.begun h (.await a)).current h = waitsFor h a :=
  ⟨rfl, State.begun_current (by rw [hs.queue]; rfl)⟩

/-- The SQ of a descriptor that starts is there while work ends. -/
theorem HostSide.Stands.begun_current {ends : Await → Prop} (hs : s.Starts h q) (a : s.host.Stands ends t.host) (e : DescEnd) :
    (t.begun h e).current h = some (e.begun h) :=
  State.begun_current (by rw [a.sameQueues.queue_isSome, hs.queue]; rfl)

theorem State.bundles_begun (s : State) (h : DescHdr) (e : DescEnd) (f : FnIx) :
    ((s.begun h e).host.fn f).bundles = (s.host.fn f).bundles := by
  unfold State.begun HostSide.begin_ HostSide.onQueue
  rw [State.fn_onHost, HostSide.fn_onFn]
  split
  next he => rw [he]
  next => rfl

theorem State.reg_begun (s : State) (h : DescHdr) (e : DescEnd) (d : DieIx) (off : Nat) : (s.begun h e).reg d off = s.reg d off := rfl

theorem State.canvases_begun (s : State) (h : DescHdr) (e : DescEnd) : (s.begun h e).canvases = s.canvases := rfl

end

/-! ### The placement registers (R145) -/

section
variable {s0 s : State}

namespace State.Stands

theorem writeHost (k : s0.Stands s) (addr : Nat) (bs : List Byte) : s0.Stands (s.writeHost addr bs) :=
  ⟨k.straps, k.gsc, k.sec, ⟨k.host.fns, k.host.regs, k.host.flags⟩, k.canvases⟩

theorem report (k : s0.Stands s) (addr : Dword) (ops : List Nat) : s0.Stands (s.report addr ops) := k.ite (k.writeHost _ _)

theorem placeFailed (k : s0.Stands s) (f : CheckFail) (b : Bool) : s0.Stands (s.placeFailed f b) := (k.onDie 0 _).countRaise 0 _ _ _

theorem placeDone (k : s0.Stands s) (n : Nat) : s0.Stands (s.placeDone n) :=
  (k.onDie 0 fun x => x.count Reg.rmsAdmitOk 1).ite (((k.onDie 0 fun x => x.count Reg.rmsAdmitOk 1).onDie 0 _).raise 0 _ _)

end State.Stands

namespace State.OnlyReports

theorem writeHost (k : s0.OnlyReports s) (addr : Nat) (bs : List Byte) : s0.OnlyReports (s.writeHost addr bs) :=
  k.trans ⟨rfl, fun _ => rfl⟩

theorem report (k : s0.OnlyReports s) (addr : Dword) (ops : List Nat) : s0.OnlyReports (s.report addr ops) := k.ite (k.writeHost _ _)

theorem placeFailed (k : s0.OnlyReports s) (f : CheckFail) (b : Bool) : s0.OnlyReports (s.placeFailed f b) :=
  (k.setReg 0 _ _).countRaise 0 _ _ _

theorem placeDone (k : s0.OnlyReports s) (n : Nat) : s0.OnlyReports (s.placeDone n) :=
  (k.onDie 0 fun _ => rfl).ite (((k.onDie 0 fun _ => rfl).onDie 0 fun _ => rfl).raise 0 _ _)

end State.OnlyReports

theorem State.reg_placeFailed (s : State) (f : CheckFail) (b : Bool) :
    (s.placeFailed f b).reg 0 Reg.rmsAdmitFail = satCount (s.reg 0 Reg.rmsAdmitFail) 1 := by
  rw [State.placeFailed, State.reg_countRaise_counter _ (present_zero _) (by decide), State.reg_setReg_other _ _ _ (by decide)]

theorem State.reg_placeDone (s : State) (n : Nat) :
    (s.placeDone n).reg 0 Reg.rmsAdmitOk = satCount (s.reg 0 Reg.rmsAdmitOk) 1 := by
  have hok : (s.count 0 Reg.rmsAdmitOk 1).reg 0 Reg.rmsAdmitOk = satCount (s.reg 0 Reg.rmsAdmitOk) 1 := by
    rw [State.reg_count, if_pos ⟨rfl, present_zero s, rfl⟩]
  rw [State.placeDone]
  split
  · exact hok
  · rw [State.reg_raise, if_neg fun c => absurd c.2.2 (by decide), State.reg_count, if_neg fun c => absurd c.2.2 (by decide), hok]

theorem State.reg_report (s : State) (addr : Dword) (ops : List Nat) (d : DieIx) (off : Nat) :
    (s.report addr ops).reg d off = s.reg d off := by
  have hwrite (a : Nat) (bs : List Byte) : (s.writeHost a bs).reg d off = s.reg d off := rfl
  rw [State.report]
  split
  · rfl
  · exact hwrite _ _

end

/-! ### ADMIT (R335) -/

section
variable {s : State} {h : DescHdr} {q : Queue} {base report : Dword} {len : Word} {data : List Byte}

/-- An admission that fails: it is reported, counted, and keeps nothing. -/
theorem admit_fails (hs : s.Starts h q) (e : CheckFail) (he : fxAdmitBundle h base len report data s =
    (s.placeFailed e false).begun h (.done (e.completion 1))) :
    let t := fxAdmitBundle h base len report data s
    (t.host.fn h.func).bundles = (s.host.fn h.func).bundles ∧
      t.current h = doneAs h e.status 1 (placeDetail 0 e.op e.level e.step 0 0 0) ∧
      t.reg 0 Reg.rmsAdmitFail = satCount (s.reg 0 Reg.rmsAdmitFail) 1 := by
  have hst := (State.Stands.refl s).placeFailed e false
  dsimp only
  rw [he, State.bundles_begun, State.reg_begun]
  exact ⟨(hst.host.fns _).bundles, hst.host.begun_current hs _, s.reg_placeFailed e false⟩

/-- The state with a bundle kept under a handle. -/
def State.withBundle (s : State) (f : FnIx) (n : Nat) (data : List Byte) : State :=
  let t := s.onHost fun x => x.onFn f fun y => { y with bundles := y.bundles ++ [{ handle := n, image := data }] }
  { t with sec := t.sec.measure (bHash data) }

/-- The state with an admission reported. -/
def State.admitted (s : State) (f : FnIx) (n : Nat) (report : Dword) (data : List Byte) : State :=
  ((s.withBundle f n data).report report (rewritten0 data)).placeDone (rewritten0 data).length

theorem State.host_withBundle (s : State) (f : FnIx) (n : Nat) (data : List Byte) : (s.withBundle f n data).host =
    s.host.onFn f fun y => { y with bundles := y.bundles ++ [{ handle := n, image := data }] } := rfl

theorem State.admitted_spec (hs : s.Starts h q) (n : Nat) (report : Dword) (data : List Byte) (e : DescEnd) :
    let t := (s.admitted h.func n report data).begun h e
    (t.host.fn h.func).bundles = (s.host.fn h.func).bundles ++ [{ handle := n, image := data }] ∧ t.current h = some (e.begun h) ∧
      t.reg 0 Reg.rmsAdmitOk = satCount (s.reg 0 Reg.rmsAdmitOk) 1 := by
  have hst : (s.withBundle h.func n data).Stands (s.admitted h.func n report data) :=
    ((State.Stands.refl _).report report _).placeDone _
  have hbundles := (hst.host.fns h.func).bundles
  have hqueue : ((s.withBundle h.func n data).host.queue h.func h.sq).isSome := by
    rw [State.host_withBundle, HostSide.queue, HostSide.fn_onFn_same]
    exact Option.isSome_iff_exists.mpr ⟨_, hs.queue⟩
  rw [State.host_withBundle, HostSide.fn_onFn_same] at hbundles
  dsimp only
  rw [State.bundles_begun, State.reg_begun, State.admitted, State.reg_placeDone, State.reg_report]
  exact ⟨hbundles, State.begun_current ((hst.host.sameQueues.queue_isSome _ _).trans hqueue), rfl⟩

section
variable (hs : s.Starts h q) (h0 : h.sq = 0)
include hs h0

theorem admit_outside (hb : s.bufferOk h.func base len report = false) : fxAdmitBundle h base len report data s =
    (s.placeFailed (outside .hostRange) false).begun h (.done ((outside .hostRange).completion 1)) := by
  rw [fxAdmitBundle, State.descriptor_acts hs rfl fun _ => h0]
  dsimp only
  rw [if_pos hb]

variable (hb : s.bufferOk h.func base len report = true)
include hb

theorem admit_full (hn : lowestFree 1 4095 ((s.host.fn h.func).bundles.map Admitted.handle) = none) :
    fxAdmitBundle h base len report data s =
      (s.placeFailed (outside .noResource) false).begun h (.done ((outside .noResource).completion 1)) := by
  rw [fxAdmitBundle, State.descriptor_acts hs rfl fun _ => h0]
  dsimp only
  rw [if_neg (by simp [hb]), hn]

variable {n : Nat} (hn : lowestFree 1 4095 ((s.host.fn h.func).bundles.map Admitted.handle) = some n)
include hn

theorem admit_waits (hd : data.length ≠ len.toNat) : fxAdmitBundle h base len report data s = s.begun h (.await .transfer) := by
  rw [fxAdmitBundle, State.descriptor_acts hs rfl fun _ => h0]
  dsimp only
  rw [if_neg (by simp [hb]), hn]
  dsimp only
  rw [if_pos hd]

theorem admit_checked (hd : data.length = len.toNat) {e : CheckFail} (he : s.admitFail data = some e) :
    fxAdmitBundle h base len report data s = (s.placeFailed e false).begun h (.done (e.completion 1)) := by
  rw [fxAdmitBundle, State.descriptor_acts hs rfl fun _ => h0]
  dsimp only
  rw [if_neg (by simp [hb]), hn]
  dsimp only
  rw [if_neg (not_not.mpr hd), he]

theorem admit_kept (hd : data.length = len.toNat) (he : s.admitFail data = none) :
    fxAdmitBundle h base len report data s = (s.admitted h.func n report data).begun h
      (.done { status := .ok, kind := 1, detail := placeDetail n 0xFFFF 0 0 (rewritten0 data).length 0 0 }) := by
  rw [fxAdmitBundle, State.descriptor_acts hs rfl fun _ => h0]
  dsimp only
  rw [if_neg (by simp [hb]), hn]
  dsimp only
  rw [if_neg (not_not.mpr hd), he]
  rfl

end

end

end Sys2Proof.Machine
end

section
/-! SUPPORT. Proofs of the statements of 12_host_queues: UNBIND (R337). -/

namespace Sys2Proof.Machine

/-! ### Queues that stand, one by one -/

theorem forall₂_find? {α : Type} {R : α → α → Prop} {p : α → Bool} (hp : ∀ x y, R x y → p y = p x) {l m : List α}
    (h : List.Forall₂ R l m) {x : α} (hx : l.find? p = some x) : ∃ y, m.find? p = some y ∧ R x y := by
  induction h with
  | nil => cases hx
  | @cons a b l m hab _ ih =>
    rw [List.find?_cons] at hx ⊢
    rw [hp a b hab]
    split at hx
    next => exact ⟨b, rfl, Option.some.inj hx ▸ hab⟩
    next => exact ih hx

section
variable {s t : State} {h : DescHdr} {q : Queue} {e : DescEnd} {ends : Await → Prop}

theorem HostSide.Stands.queue {x k : HostSide} (a : x.Stands ends k) {f : FnIx} {n : Nat} {y : Queue} (hy : x.queue f n = some y) :
    ∃ z, k.queue f n = some z ∧ y.Stands ends z :=
  forall₂_find? (fun _ _ r => by rw [r.id]) (a.fns f).queues hy

/-- A descriptor that awaits what work does not end is still in progress. -/
theorem HostSide.Stands.current (a : s.host.Stands ends t.host) {k : Current} (hk : s.current h = some k)
    (hn : ∀ w, k.await = some w → ¬ ends w) : t.current h = some k := by
  rw [State.current, Option.bind_eq_some_iff] at hk
  obtain ⟨x, hx, hcur⟩ := hk
  obtain ⟨y, hy, hxy⟩ := a.queue hx
  rw [State.current_of_queue hy, hxy.cur k hcur hn]

/-- A descriptor ends that awaits what has come. -/
theorem State.finish_current {w : Await} (hk : s.current h = waitsFor h w) :
    (s.finish (h.func, h.sq) w (.plain .ok)).current h = doneAs h .ok 0 [] := by
  rw [State.current, waitsFor, Option.bind_eq_some_iff] at hk
  obtain ⟨x, hx, hcur⟩ := hk
  have hf : (s.finish (h.func, h.sq) w (.plain .ok)).host.queue h.func h.sq = some _ := HostSide.queue_onQueue_same hx rfl
  rw [State.current_of_queue hf, hcur, Option.map_some, Current.finish, if_pos rfl]
  rfl

/-- The descriptor that UNBIND, PAUSE or RESUME has begun awaits no operation of a Turnstile. -/
theorem State.Stands.current (a : s.Stands t) {w : Await} (hk : s.current h = waitsFor h w) (hw : ∀ d, w ≠ .turnstile d) :
    t.current h = waitsFor h w :=
  a.host.current hk fun _ hv ⟨d, hd⟩ => hw d ((Option.some.inj hv).trans hd)

end

/-! ### The unbinding -/

section
variable {s s0 t : State} {cv : CanvasId} {c : Canvas}

namespace State.Stands

theorem fillUnbound (k : s0.Stands s) (c : Canvas) : s0.Stands (s.fillUnbound c) :=
  k.foldl fun _ _ j => j.foldl fun _ _ j => j.ite ((j.raiseHead _ _ _).canvasEvent _ _ _ _)

theorem freeBarriers (k : s0.Stands s) (cv : CanvasId) : s0.Stands (s.freeBarriers cv) := (k.onDies _ _).copy

end State.Stands

/-- What stands of a state that a canvas leaves. -/
structure State.Drops (s : State) (cv : CanvasId) (t : State) : Prop where
  host : s.host.Stands AtTurnstile t.host
  gone : t.canvas cv = none

theorem State.Stands.drops (k : s.Stands t) (cv : CanvasId) :
    s.Drops cv { t with canvases := t.canvases.filter fun k => k.id != cv } := by
  refine ⟨k.host, List.find?_eq_none.mpr fun c hc => ?_⟩
  simpa using (List.mem_filter.mp hc).2

theorem State.Drops.stands (k : s0.Drops cv s) (j : s.Stands t) : s0.Drops cv t := by
  refine ⟨k.host.trans j.host, Option.map_eq_none_iff.mp ((j.canvas cv).trans ?_)⟩
  rw [k.gone]
  rfl

theorem State.Drops.onDies (k : s0.Drops cv s) (ds : List DieIx) (f : DieIx → Die → Die) : s0.Drops cv (s.onDies ds f) :=
  k.stands ((State.Stands.refl s).onDies ds f)

theorem State.Drops.refills (k : s0.Drops cv s) (ds : List DieIx) : s0.Drops cv (ds.foldl (fun s d => s.refill d) s) :=
  k.stands ((State.Stands.refl s).foldl fun _ d j => j.refill d)

/-- The unbinding ends and frees work, its canvas goes, the engines' queues are filled, and its descriptor ends. -/
theorem State.unbindNow_drops (hc : s.canvas cv = some c) {q : FnIx × Nat} (hq : c.unbindQueue = some q) :
    ∃ w, s.Drops cv w ∧ s.unbindNow cv = w.finish q (.boundary cv) (.plain .ok) := by
  unfold State.unbindNow
  simp only [hc, hq]
  refine ⟨_, .onDies (.refills (State.Stands.drops ?_ cv) _) _ _, rfl⟩
  refine State.Stands.onDies (State.Stands.freeBarriers (State.Stands.onDies (State.Stands.onDies (State.Stands.onDies ?_ _ _) _ _) _ _) _) _ _
  have hwork (b : Bool) : s.Stands (if b = true then s.poisonCanvas cv else s) := .ite ((State.Stands.refl s).poisonCanvas cv) (.refl s)
  exact ((hwork _).fillUnbound c).foldl fun _ d j => j.destroyCtx d _

end

/-! ### The descriptor -/

section
variable {s : State} {h : DescHdr} {q : Queue} {n : BitVec 16} {c : Canvas}

/-- The canvas that a descriptor names by its handle. -/
abbrev namedCanvas (h : DescHdr) (n : BitVec 16) : CanvasId := { func := h.func, handle := n.toNat }

/-- The state with the descriptor of UNBIND in progress and its canvas under unbinding. -/
def State.unbinding (s : State) (h : DescHdr) (n : BitVec 16) : State :=
  (s.requestUnbind (namedCanvas h n) (some (h.func, h.sq))).begun h (.await (.boundary (namedCanvas h n)))

/-- A canvas that UNBIND has marked. -/
def Canvas.marked (c : Canvas) (h : DescHdr) : Canvas :=
  { c with unbinding := true, unbindQueue := c.unbindQueue.or (some (h.func, h.sq)) }

theorem State.canvas_unbinding (hc : s.canvas (namedCanvas h n) = some c) :
    (s.unbinding h n).canvas (namedCanvas h n) = some (c.marked h) := State.canvas_onCanvas_some hc fun _ => rfl

theorem State.current_unbinding (hs : s.Starts h q) : (s.unbinding h n).current h = waitsFor h (.boundary (namedCanvas h n)) :=
  State.begun_current (by rw [show (s.requestUnbind _ _).host = s.host from rfl, hs.queue]; rfl)

section
variable (hs : s.Starts h q) (h0 : h.sq = 0)
include hs h0

theorem fxUnbind_unbound (hc : s.canvas (namedCanvas h n) = none) : fxUnbind h n s = s.begun h (.st .notOwner) := by
  have hgone : (s.begun h (.st .notOwner)).canvas (namedCanvas h n) = none := hc
  obtain ⟨-, hcur⟩ := State.begun_st hs .notOwner
  rw [State.current] at hcur
  simp only [fxUnbind, State.descriptor_acts hs rfl fun _ => h0, hc, hgone, hs.1, hcur, doneAs]

theorem fxUnbind_bound (hc : s.canvas (namedCanvas h n) = some c) : fxUnbind h n s =
    if s.hasBoundary c then s.unbinding h n else (s.unbinding h n).unbindNow (namedCanvas h n) := by
  have hcur := State.current_unbinding (n := n) hs
  have hbound : (s.unbinding h n).hasBoundary (c.marked h) = s.hasBoundary c := rfl
  have hcv := State.canvas_unbinding (h := h) hc
  rw [State.current] at hcur
  rw [State.unbinding] at hcur hbound hcv
  simp only [fxUnbind, State.descriptor_acts hs rfl fun _ => h0, hc, hs.1, hcur, hcv, waitsFor, hbound, true_and]
  cases s.hasBoundary c <;> rfl

end

theorem unbind_now (hs : s.Starts h q) (hc : s.canvas (namedCanvas h n) = some c) :
    ((s.unbinding h n).unbindNow (namedCanvas h n)).canvas (namedCanvas h n) = none ∧
      (c.unbindQueue = none → ((s.unbinding h n).unbindNow (namedCanvas h n)).current h = doneAs h .ok 0 []) := by
  have hq : (c.marked h).unbindQueue = some (c.unbindQueue.getD (h.func, h.sq)) := by
    rw [Canvas.marked]
    cases c.unbindQueue <;> rfl
  obtain ⟨w, hw, he⟩ := State.unbindNow_drops (State.canvas_unbinding hc) hq
  rw [he]
  refine ⟨hw.gone, fun hn => ?_⟩
  rw [hn, Option.getD_none]
  refine State.finish_current (hw.host.current (State.current_unbinding hs) fun a ha ⟨d, hd⟩ => ?_)
  rw [hd] at ha
  cases ha

end

end Sys2Proof.Machine
end

section
/-! SUPPORT. Proofs of the statements of 12_host_queues: PAUSE (R278, R311). -/

namespace Sys2Proof.Machine

section
variable {s : State} {h : DescHdr} {q : Queue} {n : BitVec 16} {c : Canvas} {flags : Byte} {save : Dword}

/-- FLAGS of PAUSE in its range: save, or discard. -/
theorem pauseFlags (hf : flags.toNat ≤ 1) : flags = 0 ∨ flags = 1 := by
  have : flags.toNat = 0 ∨ flags.toNat = 1 := by omega
  exact this.imp (fun e => BitVec.eq_of_toNat_eq e) fun e => BitVec.eq_of_toNat_eq e

/-- The save buffer of a PAUSE is refused: it saves, and the buffer does not fit. -/
theorem pauseRefused_iff (hf : flags.toNat ≤ 1) :
    (flags.getLsbD 0 = false ∧ s.saveFits c save = false) ↔ ¬ (flags = 1 ∨ s.saveFits c save = true) := by
  obtain rfl | rfl := pauseFlags hf
  · simp
  · simp

/-- The request of a PAUSE. -/
def pauseReqOf (h : DescHdr) (flags : Byte) (save : Dword) : PauseReq :=
  { queue := (h.func, h.sq), addr := save, discard := flags.getLsbD 0 }

/-! ### A pause that begins -/

theorem State.canvases_onDies (s : State) (ds : List DieIx) (f : DieIx → Die → Die) : (s.onDies ds f).canvases = s.canvases := by
  obtain ⟨l, hl⟩ := s.onDies_withDies ds f
  rw [hl]
  rfl

theorem State.canvas_onDies (s : State) (ds : List DieIx) (f : DieIx → Die → Die) (cv : CanvasId) :
    (s.onDies ds f).canvas cv = s.canvas cv := by
  rw [State.canvas, s.canvases_onDies, State.canvas]

theorem State.discardCtx_spec {cv : CanvasId} (hc : s.canvas cv = some c) : s.host.Stands AtTurnstile (s.discardCtx cv).host ∧
    ∃ k v, (s.discardCtx cv).canvas cv = some k ∧ k.pause = .saved v ∧ v.discarded = true := by
  have hst : s.Stands ((s.poisonCanvas cv).abandonWork cv .poisoned fun _ => true) :=
    ((State.Stands.refl s).poisonCanvas cv).abandonWork cv _ _
  obtain ⟨k, hk⟩ : ∃ k, ((s.poisonCanvas cv).abandonWork cv .poisoned fun _ => true).canvas cv = some k := by
    have hmap := hst.canvas cv
    rw [hc, Option.map_some, Option.map_eq_some_iff] at hmap
    exact hmap.imp fun _ e => e.1
  unfold State.discardCtx
  simp only [hk]
  have hkeep (f : DieIx → Die → Die) := (State.canvas_onDies _ k.dies f cv).trans hk
  exact ⟨(hst.onDies _ _).host, _, _, State.canvas_onCanvas_some (hkeep _) (fun _ => by rfl), rfl, rfl⟩

/-! ### The descriptor -/

section
variable (hs : s.Starts h q) (h0 : h.sq = 0)
include hs h0

/-- The state with the descriptor of PAUSE in progress. -/
def State.pausing (s : State) (h : DescHdr) (n : BitVec 16) : State := s.begun h (.await (.save (namedCanvas h n)))

omit h0 in
theorem State.current_pausing : (s.pausing h n).current h = waitsFor h (.save (namedCanvas h n)) := (s.begun_await hs _).2

omit h0 in
theorem fxPause_badFlags (hf : 1 < flags.toNat) : fxPause h n flags save s = s.begun h (.st .badDesc) := by
  obtain ⟨-, hcur⟩ := State.begun_st hs .badDesc
  rw [State.current] at hcur
  have hok : decide (flags.toNat ≤ 1) = false := by simpa using hf
  simp only [fxPause, State.descriptor_bad hs hok, hs.1, hcur, doneAs]
  cases (s.begun h (.st .badDesc)).canvas { func := h.func, handle := n.toNat } <;> simp

variable (hf : flags.toNat ≤ 1)
include hf

theorem fxPause_unbound (hc : s.canvas (namedCanvas h n) = none) : fxPause h n flags save s = s.begun h (.st .notOwner) := by
  obtain ⟨-, hcur⟩ := State.begun_st hs .notOwner
  have hgone : (s.begun h (.st .notOwner)).canvas (namedCanvas h n) = none := hc
  rw [State.current] at hcur
  simp only [fxPause, State.descriptor_acts hs (decide_eq_true hf) fun _ => h0, hc, hgone, hs.1, hcur, doneAs]

variable (hc : s.canvas (namedCanvas h n) = some c)
include hc

theorem fxPause_refused (hr : ¬ (flags = 1 ∨ s.saveFits c save = true)) : fxPause h n flags save s = s.begun h (.st .notOwner) := by
  obtain ⟨-, hcur⟩ := State.begun_st hs .notOwner
  have hthere : (s.begun h (.st .notOwner)).canvas (namedCanvas h n) = some c := hc
  rw [State.current] at hcur
  rw [← pauseRefused_iff hf] at hr
  simp only [fxPause, State.descriptor_acts hs (decide_eq_true hf) fun _ => h0, hc, hthere, hs.1, hcur, doneAs, if_pos hr]
  simp

variable (hr : flags = 1 ∨ s.saveFits c save = true)
include hr

theorem fxPause_running (hp : c.pause = .running) :
    fxPause h n flags save s = (s.pausing h n).beginPause (namedCanvas h n) (pauseReqOf h flags save) := by
  have hcur := State.current_pausing (n := n) hs
  have hthere : (s.pausing h n).canvas (namedCanvas h n) = some c := hc
  rw [State.current] at hcur
  rw [State.pausing] at hcur hthere
  have hfit := mt (pauseRefused_iff (s := s) (c := c) (save := save) hf).mp (not_not.mpr hr)
  simp only [fxPause, State.descriptor_acts hs (decide_eq_true hf) fun _ => h0, hc, hthere, hs.1, hcur, waitsFor, if_neg hfit, hp,
    and_self, if_true]
  rfl

/-- The state in which a PAUSE waits for a resume to complete. -/
def State.pauseNext (s : State) (h : DescHdr) (n : BitVec 16) (r : PauseReq) : State :=
  (s.onCanvas (namedCanvas h n) fun k => { k with pause := .resuming (some r) }).begun h (.await (.save (namedCanvas h n)))

theorem fxPause_resuming (hp : c.pause = .resuming none) : fxPause h n flags save s = s.pauseNext h n (pauseReqOf h flags save) := by
  have hthere : (s.pauseNext h n (pauseReqOf h flags save)).canvas (namedCanvas h n) =
    some { c with pause := .resuming (some (pauseReqOf h flags save)) } := State.canvas_onCanvas_some hc fun _ => rfl
  have hfit := mt (pauseRefused_iff (s := s) (c := c) (save := save) hf).mp (not_not.mpr hr)
  have hcur : (s.pauseNext h n (pauseReqOf h flags save)).current h = waitsFor h (.save (namedCanvas h n)) :=
    State.current_pausing (n := n) hs
  rw [State.current] at hcur
  rw [State.pauseNext, pauseReqOf] at hthere hcur
  simp only [fxPause, State.descriptor_acts hs (decide_eq_true hf) fun _ => h0, hc, hthere, hs.1, hcur, waitsFor, if_neg hfit, hp,
    reduceCtorEq, and_false, if_false]
  rfl

/-- A canvas that is saving, saved, or has a pause waiting takes no other. -/
theorem fxPause_inUse (hrun : c.pause ≠ .running) (hres : c.pause ≠ .resuming none) :
    fxPause h n flags save s = s.begun h (.st .inUse) := by
  obtain ⟨-, hcur⟩ := State.begun_st hs .inUse
  have hthere : (s.begun h (.st .inUse)).canvas (namedCanvas h n) = some c := hc
  have hfit := mt (pauseRefused_iff (s := s) (c := c) (save := save) hf).mp (not_not.mpr hr)
  have hbusy : (∃ a b l, c.pause = .saving a b l) ∨ (∃ v, c.pause = .saved v) ∨ ∃ r, c.pause = .resuming (some r) := by
    cases hp : c.pause with
    | running => exact absurd hp hrun
    | saving a b l => exact .inl ⟨a, b, l, rfl⟩
    | saved v => exact .inr (.inl ⟨v, rfl⟩)
    | resuming r =>
      cases r with
      | none => exact absurd hp hres
      | some r => exact .inr (.inr ⟨r, rfl⟩)
  rw [State.current] at hcur
  obtain ⟨a, b, l, hp⟩ | ⟨v, hp⟩ | ⟨r, hp⟩ := hbusy
  all_goals
    simp only [fxPause, State.descriptor_acts hs (decide_eq_true hf) fun _ => h0, hc, hthere, hs.1, hcur, doneAs, if_neg hfit, hp,
      reduceCtorEq, false_and, if_false]

end

/-- The items that a save brings to their end first are items of the canvas. -/
theorem State.mem_workedOn {i : ItemId} (h : i ∈ s.workedOn c) : ∃ j ∈ c.items, j.id = i := by
  obtain ⟨j, hj, hi⟩ := List.mem_map.mp h
  exact ⟨j, (List.mem_filter.mp hj).1, hi⟩

theorem beginPause_saves (hs : s.Starts h q) (hc : s.canvas (namedCanvas h n) = some c) {r : PauseReq} (hr : r.discard = false) :
    let t := (s.pausing h n).beginPause (namedCanvas h n) r
    t = { s with fns := t.fns, canvases := t.canvases } ∧ t.current h = waitsFor h (.save (namedCanvas h n)) ∧
      ∃ l, t.canvas (namedCanvas h n) = some { c with pause := .saving r.queue r.addr l } ∧ ∀ i ∈ l, ∃ j ∈ c.items, j.id = i := by
  intro t
  have hthere : (s.pausing h n).canvas (namedCanvas h n) = some c := hc
  have ht : t = (s.pausing h n).onCanvas (namedCanvas h n) fun k =>
      { k with pause := .saving r.queue r.addr ((s.pausing h n).workedOn c) } := by
    simp only [t, State.beginPause, hr, hthere, if_neg Bool.false_ne_true]
  refine ⟨?_, ?_, (s.pausing h n).workedOn c, ?_, fun i hi => State.mem_workedOn hi⟩
  · rw [ht]
    rfl
  · rw [ht]
    exact State.current_pausing hs
  · rw [ht]
    exact State.canvas_onCanvas_some hthere fun _ => rfl

theorem beginPause_discards (hs : s.Starts h q) (hc : s.canvas (namedCanvas h n) = some c) {r : PauseReq} (hr : r.discard = true)
    (hq : r.queue = (h.func, h.sq)) :
    let t := (s.pausing h n).beginPause (namedCanvas h n) r
    t.current h = doneAs h .ok 0 [] ∧ ∃ k v, t.canvas (namedCanvas h n) = some k ∧ k.pause = .saved v ∧ v.discarded = true := by
  intro t
  have hthere : (s.pausing h n).canvas (namedCanvas h n) = some c := hc
  obtain ⟨hhost, hsaved⟩ := State.discardCtx_spec hthere
  have ht : t = ((s.pausing h n).discardCtx (namedCanvas h n)).finish (h.func, h.sq) (.save (namedCanvas h n)) (.plain .ok) := by
    simp only [t, State.beginPause, hr, hq, if_true]
  rw [ht]
  refine ⟨State.finish_current (hhost.current (State.current_pausing hs) fun a ha ⟨d, hd⟩ => ?_), hsaved⟩
  rw [hd] at ha
  cases ha

theorem pauseNext_spec (hs : s.Starts h q) (hc : s.canvas (namedCanvas h n) = some c) (r : PauseReq) :
    let t := s.pauseNext h n r
    t = { s with fns := t.fns, canvases := t.canvases } ∧ t.current h = waitsFor h (.save (namedCanvas h n)) ∧
      t.canvas (namedCanvas h n) = some { c with pause := .resuming (some r) } := by
  exact ⟨rfl, State.current_pausing (n := n) hs, State.canvas_onCanvas_some hc fun _ => rfl⟩

end

end Sys2Proof.Machine
end

section
/-! SUPPORT. Proofs of the statements of 12_host_queues: RESUME (R279, R310). -/

namespace Sys2Proof.Machine

section
variable {s s0 t u : State} {h : DescHdr} {q : Queue} {n : BitVec 16} {c : Canvas} {save : Dword} {cv : CanvasId} {v : Saved}

/-! ### What is restored -/

theorem State.Stands.canvas_some (k : s.Stands t) (hc : s.canvas cv = some c) : ∃ d, t.canvas cv = some d ∧ d.standing = c.standing := by
  have hmap := k.canvas cv
  rwa [hc, Option.map_some, Option.map_eq_some_iff] at hmap

theorem State.remakeCtx_stands (s : State) (c : Canvas) : s.Stands (s.remakeCtx c) :=
  State.Stands.onDies (State.Stands.foldl (.refl s) fun _ d j => j.destroyCtx d _) _ _

theorem State.restoreDies_stands (hu : s.restoreDies c v = some u) : s.Stands u := by
  refine foldl_inv (P := fun acc : Option State => ∀ u, acc = some u → s.Stands u) (fun acc e ih u hu => ?_)
    (fun u hu => Option.some.inj hu ▸ .refl s) u hu
  obtain ⟨w, hw, hx⟩ := Option.bind_eq_some_iff.mp hu
  obtain ⟨x, -, rfl⟩ := Option.map_eq_some_iff.mp hx
  exact (ih w hw).copy

/-- A canvas as its resume begins at a time. -/
def Canvas.resumed (k : Canvas) (v : Saved) (now : Nat) : Canvas :=
  { k with pause := .resuming none, items := k.items ++ v.items,
           firstAt := if k.replays then some (now + 200) else k.firstAt, started := if k.replays then [] else k.started,
           resets := if k.replays && v.discarded then k.resets ++ [k.frameNo + 1] else k.resets }

theorem State.beginResume_eq (u : State) (c : Canvas) (v : Saved) : u.beginResume c v =
    c.dies.foldl (fun s d => s.refill d) (u.onCanvas c.id fun k => k.resumed v u.gsc) := rfl

theorem State.beginResume_spec (k : s.Stands u) (hc : s.canvas cv = some c) :
    s.host.Stands AtTurnstile (u.beginResume c v).host ∧ ∃ d, (u.beginResume c v).canvas cv = some d ∧ d.pause = .resuming none ∧
      (c.replays = true → d.firstAt = some (s.gsc + 200)) := by
  obtain ⟨k0, hk, hst⟩ := k.canvas_some hc
  have hreplays : k0.replays = c.replays := congrArg (fun x => x.2.1.flags.getLsbD 0) hst
  have hrefill : (u.onCanvas cv fun k => k.resumed v u.gsc).Stands (u.beginResume c v) := by
    rw [State.beginResume_eq, State.id_of_canvas hc]
    exact (State.Stands.refl _).foldl fun _ d j => j.refill d
  obtain ⟨d, hd, hds⟩ := hrefill.canvas_some (State.canvas_onCanvas_some hk fun _ => rfl)
  refine ⟨k.host.trans hrefill.host, d, hd, congrArg (fun x => x.2.2.1) hds, fun hr => ?_⟩
  have hfirst : d.firstAt = if k0.replays = true then some (u.gsc + 200) else k0.firstAt := congrArg (fun x => x.2.2.2.2) hds
  rw [hfirst, hreplays, if_pos hr, k.gsc]

/-! ### The descriptor -/

section
variable (hs : s.Starts h q) (h0 : h.sq = 0)
include hs h0

theorem fxResume_unbound (hc : s.canvas (namedCanvas h n) = none) : fxResume h n save s = s.begun h (.st .notOwner) := by
  simp only [fxResume, State.descriptor_acts hs rfl fun _ => h0, hc]

variable (hc : s.canvas (namedCanvas h n) = some c)
include hc

theorem fxResume_notSaved (hp : ∀ v, c.pause ≠ .saved v) : fxResume h n save s = s.begun h (.st .inUse) := by
  simp only [fxResume, State.descriptor_acts hs rfl fun _ => h0, hc]

variable (hp : c.pause = .saved v)
include hp

theorem fxResume_otherSave (ha : save ≠ v.addr) : fxResume h n save s = s.begun h (.st .badDesc) := by
  simp only [fxResume, State.descriptor_acts hs rfl fun _ => h0, hc, hp, if_pos ha]

theorem fxResume_noPlace (ha : save = v.addr) (hd : v.discarded = false) (hr : s.restoreDies c v = none) :
    fxResume h n save s = s.begun h (.st .placement) := by
  simp only [fxResume, State.descriptor_acts hs rfl fun _ => h0, hc, hp, if_neg (not_not.mpr ha), hd, if_neg Bool.false_ne_true, hr]

/-- A canvas whose dies are restored, or whose discarded context is made anew, resumes. -/
theorem fxResume_resumes (ha : save = v.addr) (hd : v.discarded = true ∨ s.restoreDies c v ≠ none) : ∃ u, s.Stands u ∧
    fxResume h n save s = (u.beginResume c v).begun h (if c.replays then .st .ok else .await (.release (namedCanvas h n))) := by
  cases hdis : v.discarded with
  | true =>
    refine ⟨_, s.remakeCtx_stands c, ?_⟩
    simp only [fxResume, State.descriptor_acts hs rfl fun _ => h0, hc, hp, if_neg (not_not.mpr ha), hdis, if_true]
  | false =>
    obtain ⟨u, hu⟩ := Option.ne_none_iff_exists'.mp (hd.resolve_left (by simp [hdis]))
    refine ⟨u, State.restoreDies_stands hu, ?_⟩
    simp only [fxResume, State.descriptor_acts hs rfl fun _ => h0, hc, hp, if_neg (not_not.mpr ha), hdis, if_neg Bool.false_ne_true, hu]

theorem resume_spec (ha : save = v.addr) (hd : v.discarded = true ∨ s.restoreDies c v ≠ none) :
    let t := fxResume h n save s
    (∃ k, t.canvas (namedCanvas h n) = some k ∧ k.pause = .resuming none ∧ (c.replays = true → k.firstAt = some (s.gsc + 200))) ∧
      t.current h = if c.replays then doneAs h .ok 0 [] else waitsFor h (.release (namedCanvas h n)) := by
  obtain ⟨u, hu, he⟩ := fxResume_resumes hs h0 hc hp ha hd
  obtain ⟨hhost, hcanvas⟩ := State.beginResume_spec (v := v) hu hc
  dsimp only
  rw [he]
  refine ⟨hcanvas, (hhost.begun_current hs _).trans ?_⟩
  cases c.replays <;> rfl

end

end

end Sys2Proof.Machine
end

section
/-! SUPPORT. Proofs of the statements of 12_host_queues: the contexts that BIND makes (R196, R269, R270). -/

namespace Sys2Proof.Machine

/-! ### The context of a canvas on a die -/

/-- A die's Turnstile memory has a context of an owner. -/
def Tsl.Has (t : Tsl) (ctx : Nat) (o : CtxOwner) : Prop := ∃ k, t.ctx ctx = some k ∧ k.owner = o

/-- Two Turnstile memories with the same objects and the same entries of a context, whose owners may differ. -/
structure Tsl.SameEntries (t u : Tsl) (ctx : Nat) (o : CtxOwner) : Prop where
  objs : u.objs = t.objs
  entries : ∃ k l, t.ctx ctx = some k ∧ u.ctx ctx = some l ∧ l.table = k.table ∧ l.owner = o

section
variable {t u t' : Tsl} {ctx : Nat} {o : CtxOwner} {b : List Byte} {bd : Binding} {e : PlaceEnv} {d : DieIx} {cv cv' : CanvasId}

theorem Tsl.ctx_insert (t : Tsl) (ctx : Nat) (k : TslCtx) (objs : List (Nat × TslObj)) :
    ({ t with objs := objs, ctxs := sInsert t.ctxs ctx k } : Tsl).ctx ctx = some k := by
  rw [Tsl.ctx, sLookup_sInsert, if_pos rfl]

theorem Tsl.SameEntries.has (h : t.SameEntries u ctx o) : u.Has ctx o := by
  obtain ⟨-, l, -, hl, -, ho⟩ := h.entries
  exact ⟨l, hl, ho⟩

/-- An entry that one memory has room for is allocated alike in the other. -/
theorem Tsl.SameEntries.map (h : t.SameEntries u ctx o) {v : BitVec 12} {banked : Bool} {value : Nat}
    (ht : t.map ctx v banked value = some t') : ∃ u', u.map ctx v banked value = some u' ∧ t'.SameEntries u' ctx o := by
  obtain ⟨hobjs, k, l, hk, hl, htable, ho⟩ := h
  have howned : l.owned = k.owned := by rw [TslCtx.owned, htable, TslCtx.owned]
  have hfree (n : Nat) : u.findFree ctx n = t.findFree ctx n := by rw [Tsl.findFree, hobjs, Tsl.findFree]
  unfold Tsl.map at ht ⊢
  simp only [hk, hl, howned, hfree, hobjs] at ht ⊢
  generalize (if banked = true then 8 else 1) = size at ht ⊢
  split at ht
  next => cases ht
  next hroom =>
    rw [if_neg hroom]
    split at ht
    next => cases ht
    next base _ =>
      obtain rfl := Option.some.inj ht
      exact ⟨_, rfl, rfl, _, _, Tsl.ctx_insert .., Tsl.ctx_insert .., by rw [htable], ho⟩

theorem Tsl.SameEntries.declare (h : t.SameEntries u ctx o) {x : TslDecl} (ht : t.declare b bd e d ctx x = some t') :
    ∃ u', u.declare b bd e d ctx x = some u' ∧ t'.SameEntries u' ctx o := by
  unfold Tsl.declare at ht ⊢
  dsimp only at ht ⊢
  split at ht
  · exact h.map ht
  · split at ht
    next hrow =>
      rw [if_pos hrow]
      exact ⟨u, rfl, Option.some.inj ht ▸ h⟩
    next hrow =>
      rw [if_neg hrow]
      exact h.map ht
  · split at ht
    next hside =>
      rw [if_pos hside]
      exact h.map ht
    next hside =>
      rw [if_neg hside]
      exact ⟨u, rfl, Option.some.inj ht ▸ h⟩
  · exact ⟨u, rfl, Option.some.inj ht ▸ h⟩

theorem foldl_bind_none {α β : Type} (f : α → β → Option α) (l : List β) :
    l.foldl (fun acc x => acc.bind fun t => f t x) none = none := by
  induction l with
  | nil => rfl
  | cons x rest ih => exact ih

/-- What fits in the context of one canvas fits in that of another. -/
theorem Tsl.SameEntries.declares (h : t.SameEntries u ctx o) (l : List TslDecl)
    (ht : l.foldl (fun acc x => acc.bind fun t => t.declare b bd e d ctx x) (some t) = some t') :
    ∃ u', l.foldl (fun acc x => acc.bind fun t => t.declare b bd e d ctx x) (some u) = some u' ∧ t'.SameEntries u' ctx o := by
  induction l generalizing t u with
  | nil => exact ⟨u, rfl, Option.some.inj ht ▸ h⟩
  | cons x rest ih =>
    rw [List.foldl_cons, Option.bind_some] at ht ⊢
    cases hx : t.declare b bd e d ctx x with
    | none =>
      rw [hx, foldl_bind_none fun (t : Tsl) x => t.declare b bd e d ctx x] at ht
      cases ht
    | some t1 =>
      obtain ⟨u1, hu1, h1⟩ := h.declare hx
      rw [hx] at ht
      rw [hu1]
      exact ih h1 ht

/-- The declarations of a bundle that fit in a new context of a canvas fit in that of another, which is its owner. -/
theorem Tsl.declareAll_some (ht : t.declareAll b bd e d ctx cv' = some t') :
    ∃ u, t.declareAll b bd e d ctx cv = some u ∧ u.Has ctx (.bundle cv) := by
  have hnew : ({ t with ctxs := sInsert t.ctxs ctx { owner := .bundle cv', table := [] } } : Tsl).SameEntries
      { t with ctxs := sInsert t.ctxs ctx { owner := .bundle cv, table := [] } } ctx (.bundle cv) :=
    ⟨rfl, _, _, Tsl.ctx_insert .., Tsl.ctx_insert .., rfl, rfl⟩
  obtain ⟨u, hu, h⟩ := hnew.declares _ ht
  exact ⟨u, hu, h.has⟩

theorem Tsl.declareAll_has (ht : t.declareAll b bd e d ctx cv = some t') : t'.Has ctx (.bundle cv) := by
  obtain ⟨u, hu, h⟩ := Tsl.declareAll_some (cv := cv) ht
  rw [ht] at hu
  exact Option.some.inj hu ▸ h

theorem Tsl.Has.importEntry (h : t.Has ctx o) (v : BitVec 12) (base : Nat) : (t.importEntry ctx v base).Has ctx o := by
  obtain ⟨k, hk, ho⟩ := h
  unfold Tsl.importEntry
  simp only [hk]
  exact ⟨_, Tsl.ctx_insert t ctx _ t.objs, ho⟩

end

/-! ### The contexts of a canvas -/

section
variable {s : State} {c : Canvas} {d : DieIx}

theorem State.mapImport_has {t : Tsl} {o : CtxOwner} (h : t.Has c.ctx o) (x : TslDecl) : (s.mapImport c d t x).Has c.ctx o := by
  unfold State.mapImport
  split
  · exact h
  · split
    · exact h.importEntry _ _
    · exact h

theorem State.mapImports_has {t : Tsl} {o : CtxOwner} (h : t.Has c.ctx o) (l : List TslDecl) :
    (l.foldl (s.mapImport c d) t).Has c.ctx o :=
  foldl_inv (P := fun u : Tsl => u.Has c.ctx o) (fun _ x hu => State.mapImport_has hu x) h

/-- A die of a canvas on which the bundle's declarations fit has the canvas's context. -/
theorem State.makeContexts_has {env : PlaceEnv} (hd : d ∈ c.dies) (hp : s.present d = true)
    (hfit : ((s.die d).tsl.declareAll c.image c.binding env d c.ctx c.id).isSome) :
    ((s.makeContexts c env).die d).tsl.Has c.ctx (.bundle c.id) := by
  refine State.die_onDies_reach (Q := fun x : Die => x.tsl.Has c.ctx (.bundle c.id)) hd hp (fun x hx => ?_) ?_
  · split
    next => exact hx
    next t ht => exact State.mapImports_has (Tsl.declareAll_has ht) _
  · obtain ⟨t, ht⟩ := Option.isSome_iff_exists.mp hfit
    rw [ht]
    exact State.mapImports_has (Tsl.declareAll_has ht) _

end

end Sys2Proof.Machine
end

section
/-! SUPPORT. Proofs of the statements of 12_host_queues: BIND (R336, R295). -/

namespace Sys2Proof.Machine

/-! ### A binding that passes every check -/

section
variable {s : State} {f : FnIx} {data : List Byte} {p : BindPlan}

/-- What the checks of a binding find of the canvas that it makes. -/
structure State.Binds (s : State) (c : Canvas) : Prop where
  dies : c.dies = instanceDies c.image c.binding s.engines s.nDies
  ctx : c.ctx = (s.placeEnv c.image c.binding).ctxFree.getD 0
  firstAt : c.firstAt = some (s.gsc + 200)
  fits : ∃ ps, bindPlace c.image c.binding (s.placeEnv c.image c.binding) = .ok ps

theorem State.binds_fresh {id : CanvasId} {b : Binding} {image : List Byte} {n : Nat} {dies : List DieIx} {pool dramAt kInner}
    (hd : dies = instanceDies image b s.engines s.nDies) (hn : n = (s.placeEnv image b).ctxFree.getD 0)
    (hps : ∃ ps, bindPlace image b (s.placeEnv image b) = .ok ps) :
    s.Binds { Canvas.fresh id b image n dies s.gsc with pool := pool, dramAt := dramAt, kInner := kInner } := ⟨hd, hn, rfl, hps⟩

theorem State.bindCheck_ok (h : s.bindCheck f data = .ok p) : s.Binds p.canvas := by
  unfold State.bindCheck at h
  dsimp only at h
  split at h
  · cases h
  split at h
  · cases h
  split at h
  · cases h
  next a _ =>
    split at h
    · cases h
    split at h
    · cases h
    split at h
    · cases h
    split at h
    · cases h
    split at h
    · cases h
    next n _ =>
      split at h
      · cases h
      next ps x hplace =>
        have hps : ∃ qs, bindPlace a.image (readBinding data) (s.placeEnv a.image (readBinding data)) = .ok qs := by
          cases hb : bindPlace a.image (readBinding data) (s.placeEnv a.image (readBinding data)) with
          | error e =>
            rw [hb] at hplace
            cases hplace
          | ok qs => exact ⟨qs, rfl⟩
        split at h
        · obtain rfl := Except.ok.inj h
          exact State.binds_fresh rfl rfl hps
        · split at h
          · cases h
          · obtain rfl := Except.ok.inj h
            exact State.binds_fresh rfl rfl hps

/-- A placement that is found fits on every die of the part. -/
theorem bindPlace_fits {b : List Byte} {bd : Binding} {e : PlaceEnv} {ps : List DiePlace} (h : bindPlace b bd e = .ok ps) {d : DieIx}
    (hd : d.val < e.dies) : dieFits b bd e (instanceDies b bd e.engines e.dies) d = true := by
  unfold bindPlace at h
  dsimp only at h
  split at h
  · cases h
  split at h
  · cases h
  split at h
  next hall =>
    have hd8 := List.all_eq_true.mp (Bool.and_eq_true_iff.mp hall).1 d (List.mem_finRange d)
    simpa [Nat.not_le.mpr hd] using hd8
  · cases h

/-- A die that holds a canvas has a context number for it and room for the bundle's declarations. -/
theorem dieFits_declares {b : List Byte} {bd : Binding} {e : PlaceEnv} {ds : List DieIx} {d : DieIx} (h : dieFits b bd e ds d = true)
    (hd : d ∈ ds) : ∃ ctx t, e.ctxFree = some ctx ∧ e.tsl[d.val]? = some t ∧ (t.declareAll b bd e d ctx ⟨0, 0⟩).isSome := by
  unfold dieFits at h
  rw [Bool.and_eq_true] at h
  have h2 := h.2
  rw [List.contains_iff_mem.mpr hd, Bool.not_true, Bool.false_or, Bool.and_eq_true] at h2
  have h3 := h2.2
  split at h3
  next ctx t hctx ht => exact ⟨ctx, t, hctx, ht, h3⟩
  next => cases h3

theorem State.Binds.declares {c : Canvas} (h : s.Binds c) {d : DieIx} (hd : d ∈ c.dies) (hp : s.present d = true) :
    ((s.die d).tsl.declareAll c.image c.binding (s.placeEnv c.image c.binding) d c.ctx c.id).isSome := by
  obtain ⟨ps, hps⟩ := h.fits
  have hlt : d.val < (s.placeEnv c.image c.binding).dies := of_decide_eq_true hp
  obtain ⟨ctx, t, hctx, ht, hsome⟩ := dieFits_declares (bindPlace_fits hps hlt) (h.dies ▸ hd)
  have htsl : t = (s.die d).tsl := by
    have hget : (s.placeEnv c.image c.binding).tsl[d.val]? = some (s.die d).tsl := by simp [State.placeEnv]
    rw [ht] at hget
    exact Option.some.inj hget
  have hnum : c.ctx = ctx := by rw [h.ctx, hctx, Option.getD_some]
  obtain ⟨u, hu⟩ := Option.isSome_iff_exists.mp hsome
  obtain ⟨w, hw, -⟩ := Tsl.declareAll_some (cv := c.id) hu
  rw [hnum, ← htsl, hw]
  rfl

end

/-! ### A canvas at its checkpoint -/

/-- What a checkpoint leaves of a canvas that is bound. -/
structure Canvas.SameBinding (c k : Canvas) : Prop where
  id : k.id = c.id
  binding : k.binding = c.binding
  image : k.image = c.image
  ctx : k.ctx = c.ctx
  dies : k.dies = c.dies
  firstAt : k.firstAt = c.firstAt

namespace Canvas.SameBinding

variable {c0 c k : Canvas}

protected theorem refl (c : Canvas) : c.SameBinding c := ⟨rfl, rfl, rfl, rfl, rfl, rfl⟩

theorem trans (h : c0.SameBinding c) (j : c.SameBinding k) : c0.SameBinding k :=
  ⟨j.id.trans h.id, j.binding.trans h.binding, j.image.trans h.image, j.ctx.trans h.ctx, j.dies.trans h.dies, j.firstAt.trans h.firstAt⟩

theorem onBuf (h : c0.SameBinding c) (t frame : Nat) (f : TensorBuf → TensorBuf) : c0.SameBinding (c.onBuf t frame f) :=
  h.trans ⟨rfl, rfl, rfl, rfl, rfl, rfl⟩

theorem loadCkpt (h : c0.SameBinding c) (d : DieIx) (pl : List Byte) : c0.SameBinding (c.loadCkpt d pl) :=
  foldl_inv (P := fun acc : Canvas × Nat => c0.SameBinding acc.1) (fun _ _ h =>
    foldl_inv (P := fun acc : Canvas × Nat => c0.SameBinding acc.1) (fun _ _ h => by
      dsimp only
      exact h.onBuf _ _ _) h) h

theorem loadTracks (h : c0.SameBinding c) (d : DieIx) (pl : List Byte) : c0.SameBinding (c.loadTracks d pl) :=
  foldl_inv (P := fun k : Canvas => c0.SameBinding k) (fun _ _ h => h.onBuf _ _ _) h

theorem atCheckpoint (h : c0.SameBinding c) (r : ReplayPlan) : c0.SameBinding (c.atCheckpoint r) :=
  (foldl_inv (P := fun k : Canvas => c0.SameBinding k) (fun _ e h => (h.loadCkpt e.1 e.2).loadTracks e.1 e.2) h).trans
    ⟨rfl, rfl, rfl, rfl, rfl, rfl⟩

end Canvas.SameBinding

end Sys2Proof.Machine
end

section
/-! SUPPORT. Proofs of the statements of 12_host_queues: what BIND makes, and its descriptor (R336). -/

namespace Sys2Proof.Machine

/-! ### What the work of a binding leaves -/

theorem Tsl.ctxs_firmwareObj {x y : Tsl} {n : Nat} (h : x.firmwareObj = some (y, n)) : y.ctxs = x.ctxs := by
  obtain ⟨m, -, he⟩ := Option.map_eq_some_iff.mp h
  obtain ⟨rfl, -⟩ := Prod.mk.inj he
  rfl

theorem Die.tsl_withPools (x : Die) (c : Canvas) (env : PlaceEnv) (d : DieIx) : (x.withPools c env d).tsl = x.tsl := by
  refine foldl_inv (P := fun y : Die => y.tsl = x.tsl) (fun y i hy => ?_) rfl
  split
  · exact hy
  · exact hy

theorem Die.ctxs_placed (x : Die) (c : Canvas) (env : PlaceEnv) (p : DiePlace) : (x.placed c env p).tsl.ctxs = x.tsl.ctxs :=
  congrArg Tsl.ctxs (Die.tsl_withPools _ c env p.die)

theorem Die.tsl_force2 (x : Die) (off hi lo v : Nat) : (x.force2 off hi lo v).tsl = x.tsl := rfl

theorem Canvas.tsl_setLayerRegs (c : Canvas) (e : LayerEntry) (x : Die) : (c.setLayerRegs e x).tsl = x.tsl := by
  unfold Canvas.setLayerRegs
  simp only [Die.tsl_force2]

/-- The canvases, and the contexts of every die. -/
structure State.KeepsBound (s t : State) : Prop where
  canvases : t.canvases = s.canvases
  ctxs : ∀ e, (t.die e).tsl.ctxs = (s.die e).tsl.ctxs

namespace State.KeepsBound

variable {s0 s t : State}

protected theorem refl (s : State) : s.KeepsBound s := ⟨rfl, fun _ => rfl⟩

theorem trans (h : s0.KeepsBound s) (k : s.KeepsBound t) : s0.KeepsBound t :=
  ⟨k.canvases.trans h.canvases, fun e => (k.ctxs e).trans (h.ctxs e)⟩

theorem ite {c : Prop} [Decidable c] (h : s0.KeepsBound s) (k : s0.KeepsBound t) : s0.KeepsBound (if c then s else t) := by
  split
  · exact h
  · exact k

theorem iteOf {c : Prop} [Decidable c] (h : s0.KeepsBound s) (hf : s0.KeepsBound s → s0.KeepsBound t) :
    s0.KeepsBound (if c then t else s) := ite (hf h) h

theorem foldl {α : Type} {f : State → α → State} {l : List α} (h : s0.KeepsBound s)
    (hf : ∀ t a, s0.KeepsBound t → s0.KeepsBound (f t a)) : s0.KeepsBound (l.foldl f s) := foldl_inv hf h

theorem onDie (h : s0.KeepsBound s) (d : DieIx) {f : Die → Die} (hf : (f (s.die d)).tsl.ctxs = (s.die d).tsl.ctxs) :
    s0.KeepsBound (s.onDie d f) := by
  refine h.trans ⟨rfl, fun e => ?_⟩
  rw [State.die_onDie]
  split
  next he =>
    obtain ⟨rfl, -⟩ := he
    exact hf
  next => rfl

theorem onDies (h : s0.KeepsBound s) (ds : List DieIx) {f : DieIx → Die → Die} (hf : ∀ d x, (f d x).tsl.ctxs = x.tsl.ctxs) :
    s0.KeepsBound (s.onDies ds f) := h.foldl fun _ d k => k.onDie d (hf d _)

theorem reports (h : s0.KeepsBound s) (k : s.OnlyReports t) : s0.KeepsBound t :=
  h.trans ⟨k.canvases, fun e => by rw [k.die e]⟩

theorem raise (h : s0.KeepsBound s) (d : DieIx) (evt mask : Nat) : s0.KeepsBound (s.raise d evt mask) :=
  h.reports (.raise (.refl s) d evt mask)

theorem raiseHead (h : s0.KeepsBound s) (d : DieIx) (evt mask : Nat) : s0.KeepsBound (s.raiseHead d evt mask) := by
  unfold State.raiseHead
  split
  · exact h.raise d evt mask
  · have k (w : Word) := h.reports ((State.OnlyReports.refl s).setReg d evt w)
    exact (k _).ite ((k _).reports (.onHost (.refl _) _))

theorem refuseCommit (h : s0.KeepsBound s) (d : DieIx) (st : Status) : s0.KeepsBound (s.refuseCommit d st) :=
  (h.onDie d (by rfl)).raiseHead d _ _

/-! #### Placement, stores and heads -/

theorem placeCanvas (h : s0.KeepsBound s) (c : Canvas) (env : PlaceEnv) (ps : List DiePlace) : s0.KeepsBound (s.placeCanvas c env ps) :=
  h.foldl fun _ p k => ite ((k.onDie p.die (Die.ctxs_placed _ c env p)).raise _ _ _) (k.onDie p.die (Die.ctxs_placed _ c env p))

theorem loadRetiming (h : s0.KeepsBound s) (c : Canvas) (d : DieIx) (pl : List Byte) : s0.KeepsBound (s.loadRetiming c d pl) :=
  h.foldl fun _ _ k => ite k (k.onDie _ (by rfl))

theorem barrierObjs {e : Vector Nat 8} {l : List (Nat × Nat)} (h : s0.KeepsBound s) (ht : s.barrierObjs e = some (t, l)) :
    s0.KeepsBound t := by
  refine foldl_inv (P := fun acc : Option (State × List (Nat × Nat)) => ∀ u l, acc = some (u, l) → s0.KeepsBound u)
    (fun acc d ih u l hu => ?_) (fun u l hu => (Prod.mk.inj (Option.some.inj hu)).1 ▸ h) t l ht
  obtain ⟨⟨w, m⟩, hw, hu⟩ := Option.bind_eq_some_iff.mp hu
  dsimp only at hu
  split at hu
  · obtain ⟨rfl, -⟩ := Prod.mk.inj (Option.some.inj hu)
    exact ih _ _ hw
  · obtain ⟨⟨x, a⟩, hx, hu⟩ := Option.bind_eq_some_iff.mp hu
    obtain ⟨⟨y, r⟩, hy, hu⟩ := Option.map_eq_some_iff.mp hu
    obtain ⟨rfl, -⟩ := Prod.mk.inj hu
    exact (ih _ _ hw).onDie d ((Tsl.ctxs_firmwareObj hy).trans (Tsl.ctxs_firmwareObj hx))

theorem makeBarriers (h : s0.KeepsBound s) (c : Canvas) : s0.KeepsBound (s.makeBarriers c) := by
  refine h.foldl fun t o k => ?_
  dsimp only
  split
  · exact k
  · split
    · exact k
    next u l hu => exact (k.barrierObjs hu).trans ⟨rfl, fun _ => rfl⟩

theorem bindHeads (h : s0.KeepsBound s) (c : Canvas) : s0.KeepsBound (s.bindHeads c) := by
  have hlayers (x : Die) : (c.binding.layers.foldl (fun x e => c.setLayerRegs e x) x).tsl = x.tsl :=
    foldl_inv (P := fun y : Die => y.tsl = x.tsl) (fun y e hy => (c.tsl_setLayerRegs e y).trans hy) rfl
  unfold State.bindHeads
  dsimp only
  refine iteOf (foldl (h.onDies _ fun d x => ?_) fun t e k => k.refuseCommit e.1 .aborted) fun k => k.onDies _ fun _ _ => by rfl
  exact congrArg Tsl.ctxs (hlayers x)

end State.KeepsBound

/-! ### The binding -/

section
variable {s t : State} {p : BindPlan} {c : Canvas}

/-- The canvas that a binding makes: that of the plan, or in Replay mode that canvas at its checkpoint. -/
def BindPlan.bound (p : BindPlan) : Canvas :=
  match p.replay with
  | some r => p.canvas.atCheckpoint r
  | none => p.canvas

theorem BindPlan.bound_sameBinding (p : BindPlan) : p.canvas.SameBinding p.bound := by
  unfold BindPlan.bound
  split
  · exact .atCheckpoint (.refl _) _
  · exact .refl _

/-- The state in which a binding has placed its canvas, and the canvas is there. -/
def State.placeBound (s : State) (p : BindPlan) : State :=
  let env := s.placeEnv p.bound.image p.bound.binding
  let s1 := (s.makeContexts p.bound env).placeCanvas p.bound env p.places
  { s1 with canvases := s1.canvases ++ [p.bound] }

theorem State.placeBound_spec (s : State) (p : BindPlan) : (s.placeBound p).canvases = s.canvases ++ [p.bound] ∧
    ∀ d, ((s.placeBound p).die d).tsl.ctxs =
      ((s.makeContexts p.bound (s.placeEnv p.bound.image p.bound.binding)).die d).tsl.ctxs := by
  have h := (State.KeepsBound.refl (s.makeContexts p.bound (s.placeEnv p.bound.image p.bound.binding))).placeCanvas p.bound
    (s.placeEnv p.bound.image p.bound.binding) p.places
  exact ⟨congrArg (· ++ [p.bound]) (h.canvases.trans (s.canvases_onDies _ _)), h.ctxs⟩

theorem State.bindCanvas_keepsBound (s : State) (p : BindPlan) : (s.placeBound p).KeepsBound (s.bindCanvas p) := by
  unfold State.bindCanvas
  refine State.KeepsBound.reports (State.KeepsBound.onDies (State.KeepsBound.bindHeads (State.KeepsBound.makeBarriers ?_ _) _) _ fun _ _ => by rfl)
    (.record (.refl _) _ _ _)
  split
  · exact (State.KeepsBound.refl (s.placeBound p)).loadRetiming _ _ _
  · exact State.KeepsBound.refl (s.placeBound p)

/-- A binding whose checks passed: its canvas is there, with a context on every die of it, and the other canvases are as
they were. -/
theorem State.KeepsBound.binds (hb : s.Binds p.canvas) (hnew : s.canvas p.canvas.id = none) (ht : (s.placeBound p).KeepsBound t) :
    (∃ k, t.canvas p.canvas.id = some k ∧ p.canvas.SameBinding k) ∧
      (∀ d ∈ p.canvas.dies, s.present d = true → (t.die d).tsl.Has p.canvas.ctx (.bundle p.canvas.id)) ∧
      ∀ v, v ≠ p.canvas.id → t.canvas v = s.canvas v := by
  have hsame := p.bound_sameBinding
  obtain ⟨hcanvases, hctxs⟩ := s.placeBound_spec p
  have hall : t.canvases = s.canvases ++ [p.bound] := ht.canvases.trans hcanvases
  refine ⟨⟨p.bound, ?_, hsame⟩, fun d hd hp => ?_, fun v hv => ?_⟩
  · rw [State.canvas] at hnew
    rw [State.canvas, hall, List.find?_append, hnew, Option.none_or, List.find?_singleton, if_pos (by simp [hsame.id])]
  · have hfit := hb.declares hd hp
    rw [← hsame.id, ← hsame.image, ← hsame.binding, ← hsame.ctx] at hfit
    have hmade := State.makeContexts_has (c := p.bound) (hsame.dies ▸ hd) hp hfit
    rw [hsame.id, hsame.ctx] at hmade
    rwa [Tsl.Has, Tsl.ctx, ht.ctxs d, hctxs d]
  · rw [State.canvas, hall, List.find?_append, List.find?_singleton, if_neg (by simpa [hsame.id] using hv.symm), Option.or_none, State.canvas]

end

/-! ### The descriptor -/

section
variable {s : State} {h : DescHdr} {q : Queue} {block report : Dword} {len : Word} {data : List Byte}

/-- A binding that fails: it is reported and counted, and binds nothing. -/
theorem bind_fails (hs : s.Starts h q) (e : CheckFail) (he : fxBind h block len report data s =
    (s.placeFailed e true).begun h (.done (e.completion 2))) :
    let t := fxBind h block len report data s
    t.canvases = s.canvases ∧ t.current h = doneAs h e.status 2 (placeDetail 0 e.op e.level e.step 0 0 0) := by
  dsimp only
  rw [he, State.canvases_begun]
  exact ⟨((State.OnlyReports.refl s).placeFailed e true).canvases, ((State.Stands.refl s).placeFailed e true).host.begun_current hs _⟩

section
variable (hs : s.Starts h q) (h0 : h.sq = 0)
include hs h0

theorem bind_outside (hb : s.bufferOk h.func block len report = false) : fxBind h block len report data s =
    (s.placeFailed (outside .hostRange) true).begun h (.done ((outside .hostRange).completion 2)) := by
  rw [fxBind, State.descriptor_acts hs rfl fun _ => h0]
  dsimp only
  rw [if_pos hb]

variable (hb : s.bufferOk h.func block len report = true)
include hb

theorem bind_waits (hd : data.length ≠ len.toNat) : fxBind h block len report data s = s.begun h (.await .transfer) := by
  rw [fxBind, State.descriptor_acts hs rfl fun _ => h0]
  dsimp only
  rw [if_neg (by simp [hb]), if_pos hd]

variable (hd : data.length = len.toNat)
include hd

theorem bind_checked {e : CheckFail} (he : s.bindCheck h.func data = .error e) :
    fxBind h block len report data s = (s.placeFailed e true).begun h (.done (e.completion 2)) := by
  rw [fxBind, State.descriptor_acts hs rfl fun _ => h0]
  dsimp only
  rw [if_neg (by simp [hb]), if_neg (not_not.mpr hd), he]

theorem bind_bound {p : BindPlan} (hp : s.bindCheck h.func data = .ok p) :
    (s.placeBound p).KeepsBound (fxBind h block len report data s) := by
  rw [fxBind, State.descriptor_acts hs rfl fun _ => h0]
  dsimp only
  rw [if_neg (by simp [hb]), if_neg (not_not.mpr hd), hp]
  exact (s.bindCanvas_keepsBound p).reports (.onHost (.placeDone (.report (.refl _) _ _) _) _)

end

end

end Sys2Proof.Machine
end

section
/-! SUPPORT. Proofs of the statements of 12_host_queues: frames of host sources (R57, R326). -/

namespace Sys2Proof.Machine

/-! ### A frame that is complete -/

section
variable {q : Source} {f : SrcFrame}

theorem Source.complete_keeps (q : Source) (f : SrcFrame) : (q.complete f).1.host = q.host ∧ (q.complete f).1.nextIndex = q.nextIndex := by
  unfold Source.complete
  exact ⟨rfl, rfl⟩

/-- The latest six frames hold the one that has come. -/
theorem Source.mem_complete (q : Source) (f : SrcFrame) :
    ∃ g ∈ (q.complete f).1.frames, g.counter = f.counter ∧ g.ts = f.ts ∧ g.lines = f.lines := by
  have hlast (l : List SrcFrame) (g : SrcFrame) : g ∈ (l ++ [g]).drop ((l ++ [g]).length - 6) := by
    rw [List.drop_append_of_le_length (by simp)]
    simp
  unfold Source.complete
  exact ⟨_, hlast _ _, rfl, rfl, rfl⟩

end

/-! ### What the reports of a source leave -/

/-- What stands of a state while a source's frames are reported, with the stores of every die. -/
structure State.Retimes (s t : State) : Prop where
  stands : s.Stands t
  sources : ∀ e, (t.die e).sources = (s.die e).sources

namespace State.Retimes

variable {s0 s t : State}

protected theorem refl (s : State) : s.Retimes s := ⟨.refl s, fun _ => rfl⟩

theorem trans (h : s0.Retimes s) (k : s.Retimes t) : s0.Retimes t :=
  ⟨h.stands.trans k.stands, fun e => (k.sources e).trans (h.sources e)⟩

theorem ite {c : Prop} [Decidable c] (h : s0.Retimes s) (k : s0.Retimes t) : s0.Retimes (if c then s else t) := by
  split
  · exact h
  · exact k

theorem iteThen {c : Prop} [Decidable c] (h : s0.Retimes s) (hf : s0.Retimes s → s0.Retimes t) :
    s0.Retimes (if c then t else s) := ite (hf h) h

theorem iteElse {c : Prop} [Decidable c] (h : s0.Retimes s) (hf : s0.Retimes s → s0.Retimes t) :
    s0.Retimes (if c then s else t) := ite h (hf h)

theorem foldl {α : Type} {f : State → α → State} {l : List α} (h : s0.Retimes s)
    (hf : ∀ t a, s0.Retimes t → s0.Retimes (f t a)) : s0.Retimes (l.foldl f s) := foldl_inv hf h

theorem reports (h : s0.Retimes s) (k : s.Stands t) (j : s.OnlyReports t) : s0.Retimes t :=
  h.trans ⟨k, fun e => by rw [j.die e]⟩

theorem record (h : s0.Retimes s) (d : DieIx) (tick : Nat) (r : Rec) : s0.Retimes (s.record d tick r) :=
  h.reports (.record (.refl s) d tick r) (.record (.refl s) d tick r)

theorem recordEvent (h : s0.Retimes s) (kind : Nat) (cv : Option CanvasId) (step : Dword) (w : List Byte) :
    s0.Retimes (s.recordEvent kind cv step w) :=
  h.reports (.recordEvent (.refl s) kind cv step w) (.recordEvent (.refl s) kind cv step w)

theorem canvasEvent (h : s0.Retimes s) (c : Canvas) (kind layer value : Nat) : s0.Retimes (s.canvasEvent c kind layer value) :=
  h.reports (.canvasEvent (.refl s) c kind layer value) (.canvasEvent (.refl s) c kind layer value)

theorem onCanvas (h : s0.Retimes s) (cv : CanvasId) {f : Canvas → Canvas} (hf : ∀ c, (f c).standing = c.standing) :
    s0.Retimes (s.onCanvas cv f) := h.trans ⟨(State.Stands.refl s).onCanvas cv hf, fun _ => rfl⟩

theorem recordFrame (h : s0.Retimes s) (d : DieIx) (q : Source) (f : SrcFrame) : s0.Retimes (s.recordFrame d q f) := by
  unfold State.recordFrame
  dsimp only
  exact ite h (ite (h.record d _ _) ((h.record d _ _).foldl fun _ _ k => ite k (k.record d _ _)))

end State.Retimes

theorem State.Stands.present {s t : State} (h : s.Stands t) {d : DieIx} : t.present d = s.present d := by
  rw [State.present, State.nDies, h.straps, State.present, State.nDies]

/-! ### Stores of host sources -/

section
variable {s t : State} {d : DieIx} {q : Source} {c : Canvas} {i : Nat} {e : SourceEntry}

/-- A store as a change of rate begins its measurement again. -/
def Source.rated (x : Source) : Source :=
  { x with newRateFrames := some 0, oldLast := x.lastComplete.map SrcFrame.index, stamps := [], meanPeriod := 0, cadence := .none }

theorem State.rateChange_retimes (s : State) (d : DieIx) (q : Source) : (s.onSource d (sameSource q) Source.rated).Retimes (s.rateChange d q) :=
  ((State.Retimes.refl (s.onSource d (sameSource q) Source.rated)).foldl fun _ _ k => k.canvasEvent _ _ _ _).foldl
    fun _ _ k => k.onCanvas _ fun _ => rfl

/-- A store that has taken a frame. -/
def Source.holding (q : Source) (f : SrcFrame) : Source := { (q.complete f).1 with recorded := (q.complete f).1.recorded + 1 }

theorem Source.host_holding (q : Source) (f : SrcFrame) : (q.holding f).host = q.host := (q.complete_keeps f).1

theorem Source.nextIndex_holding (q : Source) (f : SrcFrame) : (q.holding f).nextIndex = q.nextIndex := (q.complete_keeps f).2

theorem State.sourceComplete_retimes (s : State) (d : DieIx) (q : Source) (f : SrcFrame) :
    (s.onSource d (sameSource q) fun _ => q.holding f).Retimes (s.sourceComplete d q f) := by
  have hframe := (State.Retimes.refl (s.onSource d (sameSource q) fun _ => q.holding f)).recordFrame d q f
  unfold State.sourceComplete
  exact .iteElse (.iteThen hframe fun k => k.foldl fun _ _ k => (k.canvasEvent _ _ _ _).recordEvent _ _ _ _)
    fun k => k.foldl fun _ _ k => k.canvasEvent _ _ _ _

/-- The store of a host source on a die. -/
def State.hostStore (s : State) (d : DieIx) (k : CanvasId × Nat) : Option Source := (s.die d).sources.find? fun q => q.host == some k

theorem State.entrySource_host (s : State) (he : c.binding.sources[i]? = some e) (hh : e.port = 3 ∨ c.binding.flags.getLsbD 0 = true) :
    s.entrySource c i = s.hostStore (dieOf e.die) (c.id, i) := by
  unfold State.entrySource
  simp only [he]
  exact if_pos hh

theorem State.Retimes.hostStore (h : s.Retimes t) (d : DieIx) (k : CanvasId × Nat) : t.hostStore d k = s.hostStore d k := by
  rw [State.hostStore, h.sources, State.hostStore]

/-- The store of a host source that is replaced. -/
theorem State.hostStore_onSource {k : CanvasId × Nat} {x : Source} {f : Source → Source} (hp : s.present d = true)
    (hx : s.hostStore d k = some x) (hq : sameSource q x = true) (hf : (f x).host = x.host) :
    (s.onSource d (sameSource q) f).hostStore d k = some (f x) := by
  have hxk : x.host = some k := by simpa using List.find?_some hx
  have hqk : q.host = some k := by
    simp only [sameSource, Bool.and_eq_true, beq_iff_eq] at hq
    rw [← hq.1.1, hxk]
  rw [State.hostStore, State.onSource, s.die_onDie_same d hp]
  refine find?_updFirst_of_find? hx hq (fun y hy => ?_) (by simp [hf, hxk])
  simp only [sameSource, Bool.and_eq_true, beq_iff_eq] at hy
  simp [hy.1.1, hqk]

theorem sameSource_refl (q : Source) : sameSource q q = true := by simp [sameSource]

end

/-! ### A frame of a host source -/

section
variable {s : State} {c : Canvas} {i : Nat} {e : SourceEntry} {counter : Dword} {lines : List (List Byte)}

/-- The form of a source entry's frames. -/
def hostForm (e : SourceEntry) : VideoForm :=
  { width := e.width, height := e.height, pixfmt := Fin.ofNat 14 e.pixfmt, interlaced := false, bottomField := false, protect := none }

/-- The store that a frame of a host source goes to, as it is there or as it begins. -/
def State.frameStore (s : State) (c : Canvas) (i : Nat) (e : SourceEntry) : Source :=
  (s.entrySource c i).getD (Source.fresh 0 0 (some (c.id, i)) (hostForm e))

/-- The state in which a host source has its store. -/
def State.withFrameStore (s : State) (c : Canvas) (i : Nat) (e : SourceEntry) : State :=
  if (s.entrySource c i).isSome then s
  else s.onDie (dieOf e.die) fun x => { x with sources := x.sources ++ [s.frameStore c i e] }

/-- A frame of a host source, before its timing is smoothed. -/
def hostFrame (q : Source) (now : Nat) (e : SourceEntry) (counter : Dword) (lines : List (List Byte)) : SrcFrame :=
  { index := q.nextIndex, counter := counter, ts := now, lastAt := now, smoothed := 0,
    lines := lines.zipIdx.map fun (bs, n) =>
      let bs := sliceBytes bs 0 (lineBytes e.pixfmt e.width n)
      (n, { bytes := bs, crc := crc32c bs, counter := counter.setWidth 32, ts := now }),
    form := hostForm e, bad := false, repeated := false }

/-- The state in which the store of a host source has been rated again where the frame's period asks for it. -/
def State.ratedStore (s : State) (c : Canvas) (i : Nat) (e : SourceEntry) : State :=
  if (s.frameStore c i e).periodOff s.gsc then (s.withFrameStore c i e).rateChange (dieOf e.die) (s.frameStore c i e)
  else s.withFrameStore c i e

/-- A store as it takes its next frame. -/
def Source.next (q : Source) (n : Nat) : Source := { q with nextIndex := n + 1 }

/-- The state in which a frame of a host source is stored. -/
def State.storeFrame (s : State) (c : Canvas) (i : Nat) (e : SourceEntry) (counter : Dword) (lines : List (List Byte)) : State :=
  let q := s.frameStore c i e
  let q3 := (((s.ratedStore c i e).entrySource c i).getD q).next q.nextIndex
  ((s.ratedStore c i e).onSource (dieOf e.die) (sameSource q) fun _ => q3).sourceComplete (dieOf e.die) q3
    (hostFrame q s.gsc e counter lines)

section
variable (he : c.binding.sources[i]? = some e) (hh : e.port = 3 ∨ c.binding.flags.getLsbD 0 = true) (hp : s.present (dieOf e.die) = true)
include he hh hp

theorem State.withFrameStore_spec : s.Stands (s.withFrameStore c i e) ∧
    (s.withFrameStore c i e).hostStore (dieOf e.die) (c.id, i) = some (s.frameStore c i e) := by
  rw [State.withFrameStore, State.frameStore]
  cases hq : s.entrySource c i with
  | some q =>
    rw [s.entrySource_host he hh] at hq
    exact ⟨.refl s, hq⟩
  | none =>
    rw [s.entrySource_host he hh] at hq
    rw [State.hostStore] at hq
    rw [if_neg (by simp), State.hostStore, s.die_onDie_same _ hp]
    refine ⟨(State.Stands.refl s).onDie _ _, ?_⟩
    simp [List.find?_append, hq, Source.fresh]

theorem State.ratedStore_spec : s.Stands (s.ratedStore c i e) ∧
    ∃ q, (s.ratedStore c i e).hostStore (dieOf e.die) (c.id, i) = some q ∧ sameSource (s.frameStore c i e) q = true ∧
      q.host = some (c.id, i) := by
  obtain ⟨hst, hstore⟩ := State.withFrameStore_spec he hh hp
  have hhost : (s.frameStore c i e).host = some (c.id, i) := by simpa using List.find?_some hstore
  rw [State.ratedStore]
  split
  next =>
    have hret := (s.withFrameStore c i e).rateChange_retimes (dieOf e.die) (s.frameStore c i e)
    refine ⟨(hst.onDie _ _).trans hret.stands, (s.frameStore c i e).rated, ?_, sameSource_refl _, hhost⟩
    rw [hret.hostStore]
    exact State.hostStore_onSource (hst.present.trans hp) hstore (sameSource_refl _) rfl
  next => exact ⟨hst, _, hstore, sameSource_refl _, hhost⟩

theorem State.storeFrame_store : s.Stands (s.storeFrame c i e counter lines) ∧
    ∃ q : Source, q.nextIndex = (s.frameStore c i e).nextIndex + 1 ∧ (s.storeFrame c i e counter lines).hostStore (dieOf e.die) (c.id, i) =
      some (q.holding (hostFrame (s.frameStore c i e) s.gsc e counter lines)) := by
  obtain ⟨hst, x, hx, hsame, hhost⟩ := State.ratedStore_spec he hh hp
  have hd : (s.ratedStore c i e).present (dieOf e.die) = true := hst.present.trans hp
  have hentry : (s.ratedStore c i e).entrySource c i = some x := (State.entrySource_host _ he hh).trans hx
  rw [State.storeFrame, hentry, Option.getD_some]
  have hnext := State.hostStore_onSource (f := fun _ => x.next (s.frameStore c i e).nextIndex) hd hx hsame rfl
  have hret := ((s.ratedStore c i e).onSource (dieOf e.die) (sameSource (s.frameStore c i e)) fun _ =>
    x.next (s.frameStore c i e).nextIndex).sourceComplete_retimes (dieOf e.die) (x.next (s.frameStore c i e).nextIndex)
      (hostFrame (s.frameStore c i e) s.gsc e counter lines)
  refine ⟨((hst.onDie _ _).onDie _ _).trans hret.stands, x.next (s.frameStore c i e).nextIndex, rfl, ?_⟩
  rw [hret.hostStore]
  exact State.hostStore_onSource hd hnext (sameSource_refl _) (Source.host_holding _ _)

theorem State.storeFrame_spec : s.Stands (s.storeFrame c i e counter lines) ∧
    ∃ y g, (s.storeFrame c i e counter lines).entrySource c i = some y ∧ g ∈ y.frames ∧ g.counter = counter ∧ g.ts = s.gsc ∧
      g.lines.length = lines.length ∧ y.nextIndex = ((s.entrySource c i).map Source.nextIndex).getD 0 + 1 := by
  obtain ⟨hst, q, hq, hstore⟩ := State.storeFrame_store (counter := counter) (lines := lines) he hh hp
  obtain ⟨g, hg, hcounter, hts, hlines⟩ := q.mem_complete (hostFrame (s.frameStore c i e) s.gsc e counter lines)
  refine ⟨hst, _, g, (State.entrySource_host _ he hh).trans hstore, hg, hcounter, hts, ?_, ?_⟩
  · rw [hlines, hostFrame, List.length_map, List.length_zipIdx]
  · have hold : (s.frameStore c i e).nextIndex = ((s.entrySource c i).map Source.nextIndex).getD 0 := by
      rw [State.frameStore]
      cases s.entrySource c i <;> rfl
    rw [← hold, ← hq]
    exact q.nextIndex_holding _

end

end

/-! ### The descriptor -/

section
variable {s : State} {h : DescHdr} {q : Queue} {n : BitVec 16} {src : Byte} {pitch : Word} {p0 p1 p2 counter : Dword}
  {lines : List (List Byte)} {c : Canvas} {e : SourceEntry}

/-- The planes of a frame of a source entry lie in windows of the function. -/
def State.planesInside (s : State) (f : FnIx) (e : SourceEntry) (pitch : Word) (p0 p1 p2 : Dword) : Bool :=
  ([p0, p1, p2].zipIdx.take (pixPlanes e.pixfmt)).all fun x =>
    (s.host.fn f).inWindow x.1.toNat (pitch.toNat * planeRows e.pixfmt x.2 e.height)

section
variable (hs : s.Starts h q)
include hs

theorem fxFrame_unbound (hc : s.canvas (namedCanvas h n) = none) :
    fxFrame h n src pitch p0 p1 p2 counter lines s = s.begun h (.st .notOwner) := by
  simp only [fxFrame, State.descriptor_good hs rfl (fun h => absurd h Bool.false_ne_true), hc]

variable (hc : s.canvas (namedCanvas h n) = some c)
include hc

theorem fxFrame_noSource (he : c.binding.sources[src.toNat]? = none) :
    fxFrame h n src pitch p0 p1 p2 counter lines s = s.begun h (.st .badDesc) := by
  simp only [fxFrame, State.descriptor_good hs rfl (fun h => absurd h Bool.false_ne_true), hc, he]

variable (he : c.binding.sources[src.toNat]? = some e)
include he

theorem fxFrame_port (hh : ¬ (e.port = 3 ∨ c.binding.flags.getLsbD 0 = true)) :
    fxFrame h n src pitch p0 p1 p2 counter lines s = s.begun h (.st .badDesc) := by
  rw [not_or, Bool.not_eq_true] at hh
  simp only [fxFrame, State.descriptor_good hs rfl (fun h => absurd h Bool.false_ne_true), hc, he, if_pos hh]

variable (hh : e.port = 3 ∨ c.binding.flags.getLsbD 0 = true)
include hh

omit hs hc he in
theorem not_port_of_host : ¬ (e.port ≠ 3 ∧ c.binding.flags.getLsbD 0 = false) := fun hn =>
  hh.elim hn.1 fun h => absurd (h.symm.trans hn.2) (by decide)

theorem fxFrame_outside (hw : s.planesInside h.func e pitch p0 p1 p2 = false) :
    fxFrame h n src pitch p0 p1 p2 counter lines s = s.begun h (.st .hostRange) := by
  rw [State.planesInside] at hw
  simp only [fxFrame, State.descriptor_good hs rfl (fun h => absurd h Bool.false_ne_true), hc, he, if_neg (not_port_of_host hh), hw,
    Bool.not_false, if_true]

variable (hw : s.planesInside h.func e pitch p0 p1 p2 = true)
include hw

theorem fxFrame_waits (hl : lines.length ≠ e.height) :
    fxFrame h n src pitch p0 p1 p2 counter lines s = s.begun h (.await .transfer) := by
  rw [State.planesInside] at hw
  simp only [fxFrame, State.descriptor_good hs rfl (fun h => absurd h Bool.false_ne_true), hc, he, if_neg (not_port_of_host hh), hw,
    Bool.not_true, if_neg Bool.false_ne_true, if_pos hl]

theorem fxFrame_stored (hl : lines.length = e.height) :
    fxFrame h n src pitch p0 p1 p2 counter lines s = (s.storeFrame c src.toNat e counter lines).begun h (.st .ok) := by
  rw [State.planesInside] at hw
  simp only [fxFrame, State.descriptor_good hs rfl (fun h => absurd h Bool.false_ne_true), hc, he, if_neg (not_port_of_host hh), hw,
    Bool.not_true, if_neg Bool.false_ne_true, if_neg (not_not.mpr hl)]
  rfl

end

end

end Sys2Proof.Machine
end

section
/-! SUPPORT. Proofs of the statements of 12_host_queues: O48. -/

namespace Sys2Proof.Machine

section
variable {s : State} {h : DescHdr} {q : Queue} {c : Instr} {t : State}

/-- A descriptor that only ends with a status. -/
theorem does_ends (hs : s.Starts h q) {st : Status} (he : exec c s = .next t) (ht : t = s.begun h (.st st)) :
    Does c s fun t => t = { s with fns := t.fns } ∧ t.current h = doneAs h st 0 [] := by
  subst ht
  exact ⟨_, he, State.begun_st hs st⟩

/-- A descriptor that only waits. -/
theorem does_waits (hs : s.Starts h q) {a : Await} (he : exec c s = .next t) (ht : t = s.begun h (.await a)) :
    Does c s fun t => t = { s with fns := t.fns } ∧ t.current h = waitsFor h a := by
  subst ht
  exact ⟨_, he, s.begun_await hs a⟩

end

/-- Settles O48: the outcomes of each descriptor, by its checks in order. -/
theorem descriptorsOfCanvases : Obligations.descriptors_of_canvases := by
  intro s h q hs
  refine ⟨fun h0 => ⟨fun base len report data => ?admission, fun block len report data => ?binding, fun n => ?named⟩,
    fun n src pitch p0 p1 p2 counter lines => ?frame⟩
  case admission =>
    refine ⟨fun hb => ?_, fun hb hn => ?_, fun n hb hn => ⟨fun hd => ?_, fun hd he => ?_, fun e hd he => ?_⟩⟩
    · exact ⟨_, rfl, admit_fails hs _ (admit_outside hs h0 hb)⟩
    · exact ⟨_, rfl, admit_fails hs _ (admit_full hs h0 hb hn)⟩
    · exact does_waits hs rfl (admit_waits hs h0 hb hn hd)
    · refine ⟨_, rfl, ?_⟩
      rw [admit_kept hs h0 hb hn hd he]
      exact State.admitted_spec hs n report data _
    · exact ⟨_, rfl, admit_fails hs _ (admit_checked hs h0 hb hn hd he)⟩
  case binding =>
    refine ⟨fun hb => ?_, fun hb hd => ?_, fun hb hd e he => ?_, fun p hb hd hp hnew => ?_⟩
    · exact ⟨_, rfl, bind_fails hs _ (bind_outside hs h0 hb)⟩
    · exact does_waits hs rfl (bind_waits hs h0 hb hd)
    · exact ⟨_, rfl, bind_fails hs _ (bind_checked hs h0 hb hd he)⟩
    · have hbinds := s.bindCheck_ok hp
      obtain ⟨⟨k, hk, hsame⟩, hctx, hother⟩ := State.KeepsBound.binds hbinds hnew (bind_bound hs h0 (report := report) hb hd hp)
      exact ⟨_, rfl, ⟨k, hk, hsame.binding, hsame.image, hsame.ctx, hsame.dies, hsame.firstAt.trans hbinds.firstAt⟩, hctx, hother⟩
  case named =>
    refine ⟨fun hc => ?unbound, fun flags save hf => does_ends hs rfl (fxPause_badFlags hs hf), fun c hc => ⟨fun hb => ?marked,
      fun hb => ?unbound_now, fun flags save hf => ?pause, fun save => ?resume⟩⟩
    case unbound =>
      exact ⟨does_ends hs rfl (fxUnbind_unbound hs h0 hc), fun flags save hf => does_ends hs rfl (fxPause_unbound hs h0 hf hc),
        fun save => does_ends hs rfl (fxResume_unbound hs h0 hc)⟩
    case marked =>
      refine ⟨_, rfl, ?_⟩
      rw [fxUnbind_bound hs h0 hc, if_pos hb]
      exact ⟨rfl, State.current_unbinding hs, State.canvas_unbinding hc⟩
    case unbound_now =>
      refine ⟨_, rfl, ?_⟩
      rw [fxUnbind_bound hs h0 hc, if_neg (by simp [hb])]
      exact unbind_now hs hc
    case pause =>
      refine ⟨fun hr => ?_, fun hz hr hp => ?_, fun hone hp => ?_, fun hr hp => ?_, fun hr hp hp2 => ?_⟩
      · exact does_ends hs rfl (fxPause_refused hs h0 hf hc hr)
      · refine ⟨_, rfl, ?_⟩
        rw [fxPause_running hs h0 hf hc hr hp]
        exact beginPause_saves hs hc (by rw [hz]; rfl)
      · refine ⟨_, rfl, ?_⟩
        rw [fxPause_running hs h0 hf hc (.inl hone) hp]
        exact beginPause_discards hs hc (by rw [hone]; rfl) rfl
      · refine ⟨_, rfl, ?_⟩
        rw [fxPause_resuming hs h0 hf hc hr hp]
        exact pauseNext_spec hs hc _
      · exact does_ends hs rfl (fxPause_inUse hs h0 hf hc hr hp hp2)
    case resume =>
      refine ⟨fun hp => ?_, fun v hp => ⟨fun ha => ?_, fun ha hd hr => ?_, fun ha hd => ?_⟩⟩
      · exact does_ends hs rfl (fxResume_notSaved hs h0 hc hp)
      · exact does_ends hs rfl (fxResume_otherSave hs h0 hc hp ha)
      · exact does_ends hs rfl (fxResume_noPlace hs h0 hc hp ha hd hr)
      · exact ⟨_, rfl, resume_spec hs h0 hc hp ha hd⟩
  case frame =>
    refine ⟨fun hc => does_ends hs rfl (fxFrame_unbound hs hc), fun c hc => ⟨fun he => does_ends hs rfl (fxFrame_noSource hs hc he),
      fun e he => ⟨fun hh => ?_, fun hh hw => ?_, fun hh hw hl => ?_, fun hh hw hl hp => ?_⟩⟩⟩
    · exact does_ends hs rfl (fxFrame_port hs hc he hh)
    · exact does_ends hs rfl (fxFrame_outside hs hc he hh (by rwa [← Bool.not_eq_true, State.planesInside, List.all_eq_true]))
    · exact does_waits hs rfl (fxFrame_waits hs hc he hh (List.all_eq_true.mpr hw) hl)
    · obtain ⟨hst, hstored⟩ := State.storeFrame_spec (counter := counter) (lines := lines) he hh hp
      refine ⟨_, rfl, ?_⟩
      rw [fxFrame_stored hs hc he hh (List.all_eq_true.mpr hw) hl]
      exact ⟨hst.host.begun_current hs _, hstored⟩

end Sys2Proof.Machine
end

section
/-! SUPPORT. Proofs of the statements of 13_safety_net: settings, the current guard and the receiver echo (R354, R360, R363). -/

namespace Sys2Proof.Machine

/-! ### Flags and counted events of a die -/

section
variable (s : State) {d : DieIx}

/-- Raising a flag sets it, and changes nothing besides that register and what is posted to the host. -/
theorem State.raise_spec (evt mask : Nat) (hp : s.present d = true) : s.OnlyDieHost (s.raise d evt mask) d ∧
    (s.die d).OnlyRegs ((s.raise d evt mask).die d) [evt] ∧
    (s.raise d evt mask).reg d evt = s.reg d evt ||| BitVec.ofNat 32 mask := by
  obtain ⟨hframe, hregs, hreg⟩ := s.setReg_frame d evt (s.reg d evt ||| BitVec.ofNat 32 mask) hp
  exact ⟨⟨rfl, hframe.2⟩, hregs, hreg⟩

/-- A counted event counts one and sets its flag, and changes nothing besides those registers and what is posted to the host. -/
theorem State.countRaise_spec {cnt evt : Nat} (mask : Nat) (hp : s.present d = true) (h : evt ≠ cnt) :
    s.OnlyDieHost (s.countRaise d cnt evt mask) d ∧ (s.die d).OnlyRegs ((s.countRaise d cnt evt mask).die d) [cnt, evt] ∧
    (s.countRaise d cnt evt mask).reg d cnt = satCount (s.reg d cnt) 1 ∧
    (s.countRaise d cnt evt mask).reg d evt = s.reg d evt ||| BitVec.ofNat 32 mask := by
  obtain ⟨hcount, hregs, -⟩ := s.setReg_frame d cnt (satCount (s.reg d cnt) 1) hp
  obtain ⟨hraise, hflag, hevt⟩ := (s.count d cnt 1).raise_spec (d := d) evt mask hp
  refine ⟨hcount.toHost.trans hraise, hregs.trans hflag, s.reg_countRaise_counter hp h, hevt.trans ?_⟩
  rw [State.reg_count, if_neg fun c => h c.2.2.symm]

end

/-! ### The Safety Net, the head and the registers of a die -/

section
variable (s : State) (d e : DieIx)

@[simp] theorem State.sfn_setReg (off : Nat) (w : Word) : ((s.setReg d off w).die e).sfn = (s.die e).sfn := by
  rw [State.die_setReg]
  split
  next h => rw [← h.1]; rfl
  next => rfl

@[simp] theorem State.head_setReg (off : Nat) (w : Word) : ((s.setReg d off w).die e).head = (s.die e).head := by
  rw [State.die_setReg]
  split
  next h => rw [← h.1]; rfl
  next => rfl

@[simp] theorem State.sfn_raise (evt mask : Nat) : ((s.raise d evt mask).die e).sfn = (s.die e).sfn := s.sfn_setReg d e evt _

@[simp] theorem State.head_raise (evt mask : Nat) : ((s.raise d evt mask).die e).head = (s.die e).head := s.head_setReg d e evt _

@[simp] theorem State.sfn_count (off n : Nat) : ((s.count d off n).die e).sfn = (s.die e).sfn := s.sfn_setReg d e off _

theorem State.sfn_onSfn (f : Sfn → Sfn) :
    ((s.onSfn d f).die e).sfn = if d = e ∧ s.present d = true then f (s.die d).sfn else (s.die e).sfn := by
  rw [State.onSfn, State.die_onDie]
  split <;> rfl

theorem State.sfn_onSfn_same (f : Sfn → Sfn) (hp : s.present d = true) : ((s.onSfn d f).die d).sfn = f (s.die d).sfn := by
  rw [State.sfn_onSfn, if_pos ⟨rfl, hp⟩]

/-- A change of the Safety Net's own state leaves all else of every die. -/
theorem State.die_onSfn (f : Sfn → Sfn) : (s.onSfn d f).die e = { s.die e with sfn := ((s.onSfn d f).die e).sfn } := by
  rw [State.onSfn, State.die_onDie]
  split
  next h => rw [← h.1]
  next => rfl

@[simp] theorem State.head_onSfn (f : Sfn → Sfn) : ((s.onSfn d f).die e).head = (s.die e).head := by rw [State.die_onSfn]

@[simp] theorem State.reg_onSfn (f : Sfn → Sfn) (k : Nat) : (s.onSfn d f).reg e k = s.reg e k := by
  rw [State.reg, State.die_onSfn]
  rfl

theorem State.onSfn_onlyDie (f : Sfn → Sfn) : s.OnlyDie (s.onSfn d f) d := s.onlyDie_onDie d _

/-! ### FAULT_N (R347) -/

/-- A Safety Net that holds FAULT_N low for a cause. -/
def Sfn.drive (x : Sfn) (c : FaultCause) : Sfn := { x with faults := if x.faults.contains c then x.faults else x.faults ++ [c] }

theorem Sfn.mem_drive (x : Sfn) (c f : FaultCause) : f ∈ (x.drive c).faults ↔ f ∈ x.faults ∨ f = c := by
  unfold Sfn.drive
  split
  next h =>
    refine ⟨.inl, fun hf => hf.elim id fun e => ?_⟩
    rw [e]
    simpa using h
  next => simp

theorem State.driveFault_eq (c : FaultCause) : s.driveFault d c = s.onSfn d fun x => x.drive c := rfl

end

/-! ### The current guard (R360, R372) -/

section
variable {s : State} {ch : Fin 32}

theorem State.ig_onIg_same (s : State) (ch : Fin 32) (f : IgChannel → IgChannel) : (s.onIg ch f).ig ch = f (s.ig ch) :=
  Vector.getElem_set_self ch.isLt

theorem State.ig_onIg_ne (s : State) {k : Fin 32} (f : IgChannel → IgChannel) (h : k ≠ ch) : (s.onIg ch f).ig k = s.ig k :=
  Vector.getElem_set_ne ch.isLt k.isLt fun e => h (Fin.ext e.symm)

/-- A channel with a sample stored. -/
def IgChannel.sampled (c : IgChannel) (ma : BitVec 16) : IgChannel :=
  { c with last := ma, exceeded := decide (bits c.limit 15 0 < ma.toNat) }

/-- A channel that holds its outputs. -/
def IgChannel.trip (c : IgChannel) (timeout : Bool) : IgChannel := { c with tripped := true, timeout := timeout }

/-- A channel that trips counts in SFN_IG_TRIP_CNT and sets SFN_EVT.CURRENT of die 0. -/
theorem State.tripIg_spec (timeout : Bool) (h : (s.ig ch).tripped = false) :
    (∀ k, k ≠ ch → (s.tripIg ch timeout).ig k = s.ig k) ∧
    (s.tripIg ch timeout).ig ch = (s.ig ch).trip timeout ∧
    (s.tripIg ch timeout).reg 0 Reg.sfnIgTripCnt = satCount (s.reg 0 Reg.sfnIgTripCnt) 1 ∧
    (s.tripIg ch timeout).reg 0 Reg.sfnEvt = s.reg 0 Reg.sfnEvt ||| 0x400 := by
  obtain ⟨-, -, hcnt, hevt⟩ := (s.onIg ch fun c => c.trip timeout).countRaise_spec (d := 0)
    (cnt := Reg.sfnIgTripCnt) (evt := Reg.sfnEvt) 0x0400 (present_zero _) (by decide)
  rw [State.tripIg, if_neg (by simp [h])]
  exact ⟨fun k hk => s.ig_onIg_ne (fun c => c.trip timeout) hk, s.ig_onIg_same ch fun c => c.trip timeout, hcnt, hevt⟩

/-- A sample of a channel that is on is stored; the second in a row above the limit trips the channel. -/
theorem fxCurrentSample_eq (ma : BitVec 16) (hon : bit (s.ig ch).cfg 0 = true) : fxCurrentSample ch ma s =
    if bits (s.ig ch).limit 15 0 < ma.toNat ∧ (s.ig ch).exceeded = true then (s.onIg ch fun c => c.sampled ma).tripIg ch false
    else s.onIg ch fun c => c.sampled ma := by
  rw [fxCurrentSample, if_neg (by simp [hon])]
  simp only [Bool.and_eq_true, decide_eq_true_eq]
  rfl

/-- SFN_CTRL holds triggers of the installer alone. -/
theorem roleNeeded_sfnCtrl (old value : Word) : roleNeeded (fieldsAt Reg.sfnCtrl) old value = 1 := by
  have h : fieldsAt Reg.sfnCtrl = [⟨0, 0, .wo, 0, .installer⟩, ⟨1, 1, .wo, 0, .installer⟩] := by decide
  rw [h]
  rfl

/-- An installer's trigger in SFN_CTRL acts once its audit entry is staged. -/
theorem State.sfnCtrlWrite_installer (d : DieIx) (trigger : Word) (apply : State → State) (hrole : 1 ≤ s.role .pf)
    (hroom : s.auditRoom = true) : ∃ a : AuditEntry, s.sfnCtrlWrite d trigger apply = apply (s.stage a) := by
  refine ⟨s.auditEntry 1 (s.role .pf) 0 0xFF d.val Reg.sfnCtrl (s.reg d Reg.sfnCtrl)
    (writeWord (fieldsAt Reg.sfnCtrl) (s.reg d Reg.sfnCtrl) trigger 0), ?_⟩
  simp only [State.sfnCtrlWrite, State.guardedWrite, roleNeeded_sfnCtrl]
  rw [if_neg (by omega), if_neg (by decide), State.audited, if_pos hroom]

end

/-- Settles O25: a sample is an update of its channel, a trip one more with its count, and a release is one after its audit entry. -/
theorem currentGuard : Obligations.current_guard := by
  unfold Obligations.current_guard
  refine ⟨fun s ch hon => ⟨fun ma h => ⟨_, rfl, ?_⟩, fun ma hlimit hexc htrip => ⟨_, rfl, ?_⟩, fun htrip => ⟨_, rfl, ?_⟩⟩,
    fun s hrole hroom hlast => ⟨_, rfl, ?_⟩⟩
  · have hstore : fxCurrentSample ch ma s = s.onIg ch fun c => c.sampled ma := by
      rw [fxCurrentSample_eq ma hon]
      split
      next hexc => exact if_pos ((congrArg IgChannel.tripped (s.ig_onIg_same ch _)).trans (h.resolve_left (not_not_intro hexc)))
      next => rfl
    rw [hstore]
    exact ⟨rfl, fun k hk => s.ig_onIg_ne _ hk, s.ig_onIg_same ch _⟩
  · have hself := s.ig_onIg_same ch fun c => c.sampled ma
    obtain ⟨hothers, htripped, hcnt, hevt⟩ := State.tripIg_spec false ((congrArg IgChannel.tripped hself).trans htrip)
    rw [fxCurrentSample_eq ma hon, if_pos ⟨hlimit, hexc⟩]
    refine ⟨fun k hk => (hothers k hk).trans (s.ig_onIg_ne _ hk), ⟨hcnt, hevt⟩, ?_⟩
    rw [htripped, hself]
    simp [IgChannel.sampled, IgChannel.trip, hlimit]
  · obtain ⟨hothers, hself, hcnt, hevt⟩ := s.tripIg_spec true htrip
    rw [fxCurrentSampleTimeout, if_pos hon]
    exact ⟨hothers, ⟨hcnt, hevt⟩, hself⟩
  · obtain ⟨a, ha⟩ := State.sfnCtrlWrite_installer 0 2 (fun t => t.clearIg false) hrole hroom
    obtain ⟨b, hb⟩ := State.sfnCtrlWrite_installer 0 2 (fun t => t.clearIg true) hrole hroom
    have hclear : fxIgClear false s = (s.stage a).onIg (Fin.ofNat 32 (s.field 0 Reg.sfnIgSel 4 0))
        fun c => { c with tripped := false, timeout := false } := ha.trans (if_pos ⟨hlast, rfl⟩)
    have hstands : fxIgClear true s = s.stage b := hb.trans (if_neg (by simp))
    rw [hclear]
    refine ⟨State.ig_onIg_same _ _ _, fun k hk => State.ig_onIg_ne _ _ hk, rfl, _, rfl, ?_⟩
    rw [hstands]
    exact ⟨rfl, rfl⟩

/-! ### The receiver echo (R363) -/

section
variable {s : State}

/-- A state with the echo of head 0 replaced. -/
def State.withEcho (s : State) (e : EchoState) : State := s.onDie 0 fun x => { x with head := { x.head with echo := e } }

theorem State.withEcho_spec (s : State) (e : EchoState) : s.OnlyDie (s.withEcho e) 0 ∧
    (s.withEcho e).die 0 = { s.die 0 with head := { (s.die 0).head with echo := e } } :=
  ⟨s.onlyDie_onDie 0 _, s.die_onDie_same 0 (present_zero s)⟩

/-- The counts of an echo after a fresh record, which matches a digest or is a miss. -/
def EchoState.taken (e : EchoState) (seq : BitVec 16) (miss : Bool) : EchoState :=
  if miss then { e with lastSeq := some seq, sinceNew := 0 }.fail
  else { e with lastSeq := some seq, sinceNew := 0, good := e.good + 1, bad := 0 }

/-- An echo holds FAULT_N low from ECHO_N bad frames in a row on until ECHO_N good ones. -/
def EchoState.holds (e : EchoState) (n : Nat) : Bool := decide (n ≤ e.bad) || (e.failing && decide (e.good < n))

/-- A Safety Net whose echo no longer holds FAULT_N low. -/
def Sfn.releaseEcho (x : Sfn) : Sfn := { x with faults := x.faults.filter fun c => c != .echo }

theorem Sfn.echo_not_mem_releaseEcho (x : Sfn) : FaultCause.echo ∉ x.releaseEcho.faults := by simp [Sfn.releaseEcho]

/-- A state in which the counts of the echo stand, and with them its hold of FAULT_N. -/
def State.echoed (s : State) (e : EchoState) (n : Nat) : State :=
  let t := s.withEcho { e with failing := e.holds n }
  if n ≤ e.bad then (t.raise 0 Reg.sfnEvt 0x0200).driveFault 0 .echo
  else if e.holds n then t else t.onSfn 0 Sfn.releaseEcho

/-- A fresh record is counted where it is a miss, and the echo's counts and its hold of FAULT_N follow. -/
theorem fxEchoRead_fresh {digest : Word} {lines seq : BitVec 16} (hen : s.field 0 Reg.sfnEchoCtrl 0 0 = 1)
    (hseq : (s.die 0).head.echo.lastSeq ≠ some seq) : fxEchoRead 0 digest lines seq s =
    let miss := !(s.die 0).head.echo.digests.contains digest
    (if miss then s.count 0 Reg.sfnEchoMissCnt 1 else s).echoed ((s.die 0).head.echo.taken seq miss) (s.field 0 Reg.sfnEchoCtrl 9 6) := by
  rw [fxEchoRead, if_neg (by simp [hen])]
  simp only [bne_iff_ne, ne_eq, hseq, not_false_eq_true, if_true, show ¬ 4 ≤ 0 by decide, decide_false, Bool.or_false, Bool.false_eq_true,
    if_false]
  rfl

/-- An echo that fails is flagged and holds FAULT_N low. -/
theorem State.echoed_fails (s : State) {e : EchoState} {n : Nat} (hb : n ≤ e.bad) : s.OnlyDieHost (s.echoed e n) 0 ∧
    ((s.echoed e n).die 0).head.echo = { e with failing := e.holds n } ∧ FaultCause.echo ∈ ((s.echoed e n).die 0).sfn.faults ∧
    (s.echoed e n).reg 0 Reg.sfnEvt = s.reg 0 Reg.sfnEvt ||| 0x200 ∧
    ∀ k, k ≠ Reg.sfnEvt → (s.echoed e n).reg 0 k = s.reg 0 k := by
  obtain ⟨hframe, hdie⟩ := s.withEcho_spec { e with failing := e.holds n }
  obtain ⟨hraise, hregs, hevt⟩ := (s.withEcho { e with failing := e.holds n }).raise_spec Reg.sfnEvt 0x0200 (present_zero _)
  have hreg (k : Nat) : (s.withEcho { e with failing := e.holds n }).reg 0 k = s.reg 0 k := by rw [State.reg, hdie]; rfl
  rw [State.echoed, if_pos hb, State.driveFault_eq]
  refine ⟨(hframe.toHost.trans hraise).trans (State.onSfn_onlyDie _ _ _).toHost, ?_, ?_, ?_, fun k hk => ?_⟩
  · rw [State.head_onSfn, State.head_raise, hdie]
  · rw [State.sfn_onSfn_same _ _ _ (present_zero _), Sfn.mem_drive]
    exact .inr rfl
  · rw [State.reg_onSfn, hevt, hreg]
    rfl
  · rw [State.reg_onSfn, ← hreg k]
    exact hregs.2 k (by simpa using hk)

/-- An echo that does not fail changes the counts alone; as it recovers it lets FAULT_N go. -/
theorem State.echoed_stands (s : State) {e : EchoState} {n : Nat} (hb : e.bad < n) : s.OnlyDie (s.echoed e n) 0 ∧
    ((s.echoed e n).die 0).head.echo = { e with failing := e.holds n } ∧ ((s.echoed e n).die 0).regs = (s.die 0).regs ∧
    ((s.echoed e n).die 0).sfn = if e.failing = true ∧ e.good < n then (s.die 0).sfn else (s.die 0).sfn.releaseEcho := by
  obtain ⟨hframe, hdie⟩ := s.withEcho_spec { e with failing := e.holds n }
  have hholds : e.holds n = true ↔ e.failing = true ∧ e.good < n := by simp [EchoState.holds, hb]
  rw [State.echoed, if_neg (Nat.not_le.mpr hb)]
  simp only [hholds]
  split
  · rw [hdie]
    exact ⟨hframe, rfl, rfl, rfl⟩
  · refine ⟨hframe.trans (State.onSfn_onlyDie _ _ _), ?_, ?_, ?_⟩
    · rw [State.head_onSfn, hdie]
    · rw [State.die_onSfn, hdie]
    · rw [State.sfn_onSfn_same _ _ _ (present_zero _), hdie]

end

/-- Settles O26: a record that matches no digest is counted and adds to the bad frames, one that matches adds to the good ones. -/
theorem receiverEcho : Obligations.receiver_echo := by
  unfold Obligations.receiver_echo
  intro s digest lines seq hen e n hseq hn
  refine ⟨fun hd => ⟨_, rfl, ?_⟩, fun hd => ⟨_, rfl, ?_⟩⟩
  · rw [fxEchoRead_fresh hen hseq]
    have hmiss : (!e.digests.contains digest) = true := by simpa using hd
    obtain ⟨hcount, hregs, hcnt⟩ := s.setReg_frame 0 Reg.sfnEchoMissCnt (satCount (s.reg 0 Reg.sfnEchoMissCnt) 1) (present_zero s)
    have hevt : (s.count 0 Reg.sfnEchoMissCnt 1).reg 0 Reg.sfnEvt = s.reg 0 Reg.sfnEvt := hregs.2 _ (by decide)
    have hlost : (s.count 0 Reg.sfnEchoMissCnt 1).reg 0 Reg.sfnEchoLostCnt = s.reg 0 Reg.sfnEchoLostCnt := hregs.2 _ (by decide)
    simp only [show (!(s.die 0).head.echo.digests.contains digest) = true from hmiss, if_true]
    by_cases hb : n ≤ e.bad + 1
    · obtain ⟨hframe, hecho, hfault, hflag, hother⟩ := (s.count 0 Reg.sfnEchoMissCnt 1).echoed_fails (e := e.taken seq true) hb
      refine ⟨hcount.toHost.trans hframe, (hother _ (by decide)).trans hcnt, (hother _ (by decide)).trans hlost, ?_, ?_,
        fun _ => ⟨hfault, hflag.trans (by rw [hevt])⟩, fun hlt => absurd hlt (Nat.not_lt.mpr hb)⟩
      · exact congrArg EchoState.bad hecho
      · exact congrArg EchoState.good hecho
    · obtain ⟨hframe, hecho, hstay, -⟩ :=
        (s.count 0 Reg.sfnEchoMissCnt 1).echoed_stands (e := e.taken seq true) (Nat.not_le.mp hb)
      have hreg (k : Nat) : ((s.count 0 Reg.sfnEchoMissCnt 1).echoed (e.taken seq true) n).reg 0 k =
          (s.count 0 Reg.sfnEchoMissCnt 1).reg 0 k := by rw [State.reg, Die.reg, hstay]; rfl
      refine ⟨hcount.toHost.trans hframe.toHost, (hreg _).trans hcnt, (hreg _).trans hlost, ?_, ?_,
        fun hle => absurd hle hb, fun _ => (hreg _).trans hevt⟩
      · exact congrArg EchoState.bad hecho
      · exact congrArg EchoState.good hecho
  · rw [fxEchoRead_fresh hen hseq]
    have hmiss : (!e.digests.contains digest) = false := by simpa using hd
    simp only [show (!(s.die 0).head.echo.digests.contains digest) = false from hmiss, Bool.false_eq_true, if_false]
    obtain ⟨hframe, hecho, hstay, hsfn⟩ := s.echoed_stands (e := e.taken seq false) (n := n) (Nat.lt_of_lt_of_le Nat.zero_lt_one hn)
    refine ⟨hframe, hstay, congrArg EchoState.good hecho, congrArg EchoState.bad hecho, fun hle => ?_, fun hf hlt => ?_⟩
    · rw [hsfn, if_neg fun h => absurd hle (Nat.not_le.mpr h.2)]
      exact Sfn.echo_not_mem_releaseEcho _
    · rw [hsfn, if_pos ⟨hf, hlt⟩]

/-! ### Settings (R354, R396, R398, R399) -/

/-- The five comparator and cap settings. -/
def settingOffs : List Nat := [Reg.sfnTMean, Reg.sfnTMax, Reg.sfnHf, Reg.sfnTFlash, Reg.sfnCap]

/-- The writes of the five settings. -/
def settingWrites (d : DieIx) (v : Word) : List (Instr × Nat) :=
  [(.sfnTMeanWrite d v, Reg.sfnTMean), (.sfnTMaxWrite d v, Reg.sfnTMax), (.sfnHfWrite d v, Reg.sfnHf),
    (.sfnTFlashWrite d v, Reg.sfnTFlash), (.sfnCapWrite d v, Reg.sfnCap)]

/-- Every field of the five settings is the installer's, and a setting waits under its offset. -/
theorem settingOffs_plain : ∀ off ∈ settingOffs,
    (fieldsAt off ≠ [] ∧ ∀ f ∈ fieldsAt off, f.access = .rw ∧ f.guard = .installer) ∧ off < 2 ^ 32 ∧ off ≠ Reg.sfnIgLimit := by decide

/-- A register whose every field is an installer's to write needs the installer, whatever is written. -/
theorem roleNeeded_installer {fields : List Field} (hne : fields ≠ []) (h : ∀ f ∈ fields, f.access = .rw ∧ f.guard = .installer)
    (old value : Word) : roleNeeded fields old value = 1 := by
  have hall : fields.filter (fun f => f.access == .rw || f.access == .wo) = fields :=
    List.filter_eq_self.mpr fun f hf => by simp [h f hf]
  unfold roleNeeded
  rw [hall]
  refine if_pos ?_
  simpa [hne] using fun f hf => (h f hf).2

/-- Each of the five commands writes its setting. -/
theorem exec_settingWrite {s : State} {d : DieIx} {v : Word} {cmd : Instr} {off : Nat} (h : (cmd, off) ∈ settingWrites d v) :
    off ∈ settingOffs ∧ exec cmd s = .next (s.settingWrite d off 0 (s.reg d off) v) := by
  simp only [settingWrites, List.mem_cons, List.not_mem_nil, or_false, Prod.mk.injEq] at h
  obtain ⟨rfl, rfl⟩ | ⟨rfl, rfl⟩ | ⟨rfl, rfl⟩ | ⟨rfl, rfl⟩ | ⟨rfl, rfl⟩ := h <;> exact ⟨by decide, rfl⟩

/-- A Safety Net in which a setting waits for the frame boundary. -/
def Sfn.await (x : Sfn) (off : Nat) (w : Word) : Sfn :=
  { x with thresholds := (x.thresholds.filter fun e => e.1 != off) ++ [(off, w)] }

section
variable {s : State} {d : DieIx} {off : Nat} (v : Word)

/-- The word that a write leaves in a register of a die. -/
def State.written (s : State) (d : DieIx) (off : Nat) (v : Word) : Word := writeWord (fieldsAt off) (s.reg d off) v 0

/-- The audit entry of an installer's write. -/
def State.writeEntry (s : State) (d : DieIx) (off : Nat) (v : Word) : AuditEntry :=
  s.auditEntry 1 (s.role .pf) 0 0xFF d.val off (s.reg d off) (s.written d off v)

theorem roleNeeded_setting (ho : off ∈ settingOffs) : roleNeeded (fieldsAt off) (s.reg d off) v = 1 := by
  obtain ⟨⟨hne, hall⟩, -, -⟩ := settingOffs_plain off ho
  exact roleNeeded_installer hne hall _ _

theorem settingWrite_denied (ho : off ∈ settingOffs) (hrole : s.role .pf = 0) :
    s.settingWrite d off 0 (s.reg d off) v = s.roleDenied := by
  rw [State.settingWrite, roleNeeded_setting v ho, hrole]
  exact if_pos Nat.zero_lt_one

theorem settingWrite_refused (ho : off ∈ settingOffs) (hrole : 1 ≤ s.role .pf)
    (h : (s.die d).withinEnvelope off (s.written d off v) = false ∨ s.field 0 Reg.detRecCtrl 0 0 = 1) :
    s.settingWrite d off 0 (s.reg d off) v = s.raise d Reg.sfnEvt 0x0800 := by
  rw [State.settingWrite, roleNeeded_setting v ho, if_neg (Nat.not_lt.mpr hrole)]
  exact if_pos h

/-- A state in which a setting waits for the frame boundary of the die's head, or is in force where that runs no raster. -/
def State.putSetting (s : State) (d : DieIx) (off : Nat) (w : Word) : State :=
  if s.hasRaster d then s.onSfn d fun x => x.await off w else s.setReg d off w

/-- A setting that is accepted is an audited change. -/
theorem settingWrite_audited (ho : off ∈ settingOffs) (hrole : 1 ≤ s.role .pf)
    (henv : (s.die d).withinEnvelope off (s.written d off v) = true) (hrec : s.field 0 Reg.detRecCtrl 0 0 = 0) :
    s.settingWrite d off 0 (s.reg d off) v = s.audited (s.writeEntry d off v) fun t => t.putSetting d off (s.written d off v) := by
  obtain ⟨-, hlt, hne⟩ := settingOffs_plain off ho
  have hkey : thresholdKey off 0 = off := by simp [thresholdKey]
  have happly (t : State) (w : Word) : t.applyThreshold d (off, w) = t.setReg d off w := by
    rw [State.applyThreshold, if_neg (by rwa [Nat.mod_eq_of_lt hlt])]
  have hfree : ¬ ((s.die d).withinEnvelope off (writeWord (fieldsAt off) (s.reg d off) v 0) = false ∨
      s.field 0 Reg.detRecCtrl 0 0 = 1) := by
    rw [not_or, Bool.not_eq_false, hrec]
    exact ⟨henv, Nat.zero_ne_one⟩
  simp only [State.settingWrite, roleNeeded_setting v ho, Nat.not_lt.mpr hrole, if_false, hfree, State.guardedWrite, Nat.one_ne_zero,
    hkey, happly]
  rfl

theorem State.putSetting_spec (w : Word) (hp : s.present d = true) : s.OnlyDie (s.putSetting d off w) d ∧
    (s.hasRaster d = true → ((s.putSetting d off w).die d).regs = (s.die d).regs ∧
      ((s.putSetting d off w).die d).sfn = (s.die d).sfn.await off w) ∧
    (s.hasRaster d = false → (s.putSetting d off w).reg d off = w ∧ (s.die d).OnlyRegs ((s.putSetting d off w).die d) [off]) := by
  cases hr : s.hasRaster d with
  | true =>
    rw [State.putSetting, if_pos hr]
    refine ⟨s.onSfn_onlyDie d _, fun _ => ⟨?_, s.sfn_onSfn_same d (fun x => x.await off w) hp⟩, fun h => absurd h (by decide)⟩
    rw [State.die_onSfn]
  | false =>
    rw [State.putSetting, if_neg (by simp [hr])]
    obtain ⟨hframe, hregs, hreg⟩ := s.setReg_frame d off w hp
    exact ⟨hframe, fun h => absurd h (by decide), fun _ => ⟨hreg, hregs⟩⟩

end

/-- Settles O27: a write of a setting is refused for its role, refused for its envelope or the recording, or an audited change. -/
theorem thresholdWrites : Obligations.threshold_writes := by
  unfold Obligations.threshold_writes
  intro s d v cmd off hp hcmd w
  obtain ⟨ho, hexec⟩ := exec_settingWrite (s := s) hcmd
  refine ⟨fun hrole => ?_, fun hrole h => ?_, fun hrole henv hrec => ⟨fun hroom => ?_, fun hroom => ?_⟩⟩
  · rw [settingWrite_denied v ho hrole] at hexec
    obtain ⟨hframe, hregs, hcnt, hevt⟩ := s.countRaise_spec (cnt := Reg.secRoleDenyCnt) (evt := Reg.secEvt) 0x01 (present_zero s) (by decide)
    exact ⟨_, hexec, hframe, hregs, hcnt, hevt⟩
  · rw [settingWrite_refused v ho hrole h] at hexec
    obtain ⟨hframe, hregs, hevt⟩ := s.raise_spec Reg.sfnEvt 0x0800 hp
    exact ⟨_, hexec, hframe, hregs, hevt⟩
  · rw [settingWrite_audited v ho hrole henv hrec, State.audited, if_pos hroom] at hexec
    obtain ⟨-, hlt, -⟩ := settingOffs_plain off ho
    obtain ⟨hframe, hwaits, hstored⟩ := (s.stage (s.writeEntry d off v)).putSetting_spec (off := off) (s.written d off v) hp
    refine ⟨_, hexec, ⟨s.writeEntry d off v, ?_, rfl, ?_, ?_, ?_, rfl, rfl⟩, ?_, hwaits, hstored⟩
    · exact congrArg (fun t : State => t.sec.staging) hframe.1
    · rfl
    · exact Nat.mod_eq_of_lt (d.isLt.trans (by decide))
    · exact Nat.mod_eq_of_lt hlt
    · exact ⟨congrArg (fun t : State => { t with sec := s.sec, nvm := s.nvm }) hframe.1, hframe.2⟩
  · rw [settingWrite_audited v ho hrole henv hrec, State.audited, if_neg (by simp [hroom])] at hexec
    obtain ⟨hframe, hregs, hevt⟩ := s.raise_spec Reg.secEvt 0x80 (present_zero s)
    exact ⟨_, hexec, hframe, hregs, hevt⟩

end Sys2Proof.Machine
end

section
/-! SUPPORT. Proofs of the statements of 13_safety_net: fall-back stripes and verdicts (R349 to R351, R355). -/

namespace Sys2Proof.Machine

/-! ### Bounds (R351) -/

/-- The bounds of MEAN, MAX, HF and FLASH. -/
def Die.bounds (x : Die) : List Nat :=
  [x.field Reg.sfnTMean 15 0, x.field Reg.sfnTMax 15 0, x.field Reg.sfnHf 15 0, x.field Reg.sfnTFlash 15 0]

/-- Metrics that meet their bounds. -/
def Die.withinBounds (x : Die) (m : List Nat) : Bool := (m.zip x.bounds).all fun e => decide (e.1 ≤ e.2)

/-- Of four metrics none exceeds its bound exactly where all are within. -/
theorem Die.failedMetrics_eq_zero (x : Die) (a b e f : Nat) :
    (x.failedMetrics [a, b, e, f] == 0) = x.withinBounds [a, b, e, f] := by
  rw [Bool.eq_iff_iff]
  simp [Die.failedMetrics, Die.withinBounds, Die.bounds, List.zipIdx_cons]

/-- The comparator gives four metrics. -/
theorem Canvas.judge_four (c : Canvas) (y : Sfn) (k : Nat) (x : LayerEntry) (p : PartSt) (alpha : Bool) :
    ∃ a b e f, c.judge y k x p alpha = [a, b, e, f] := ⟨_, _, _, _, rfl⟩

/-- Whether a part passes: its luma values, and its alpha values where the format has them, meet the four bounds. -/
def Die.passes (d : Die) (c : Canvas) (x : LayerEntry) (p : PartSt) : Bool :=
  d.withinBounds (c.judge d.sfn (d.field Reg.sfnHf 21 16) x p false) &&
    (x.pixfmt != 13 || d.withinBounds (c.judge d.sfn (d.field Reg.sfnHf 21 16) x p true))

/-- A die that has rejected a part: SFN_LAST_ registers tell of it, and the frame is a rejection frame. -/
def Die.rejected (x : Die) (w m0 m1 : Word) : Die :=
  { ((x.setReg Reg.sfnLastReject w).setReg Reg.sfnLastM0 m0).setReg Reg.sfnLastM1 m1 with sfn := { x.sfn with frameBad := true } }

section
variable {s : State} {c : Canvas} {h : DieIx}

/-- A state with a verdict on a part. -/
def State.withVerdict (s : State) (c : Canvas) (p : PartSt) (pass : Bool) : State :=
  s.onPart c.id p.frame p.id fun q => { q with verdict := some pass }

/-- A part gets its verdict; a reject is shown, flagged, and marks the frame. -/
theorem State.judgePart_eq (s : State) (c : Canvas) (x : LayerEntry) (p : PartSt) : ∃ w m0 m1 : Word, s.judgePart c x p =
    if (s.die p.id.head).passes c x p then s.withVerdict c p true
    else ((s.withVerdict c p false).onDie p.id.head fun y => y.rejected w m0 m1).raise p.id.head Reg.sfnEvt 0x0001 := by
  let y := s.die p.id.head
  let metrics (alpha : Bool) : List Nat := c.judge y.sfn (y.field Reg.sfnHf 21 16) x p alpha
  have hone (alpha : Bool) : (y.failedMetrics (metrics alpha) == 0) = y.withinBounds (metrics alpha) := by
    obtain ⟨a, b, e, f, hj⟩ := c.judge_four y.sfn (y.field Reg.sfnHf 21 16) x p alpha
    simp only [metrics, hj]
    exact y.failedMetrics_eq_zero a b e f
  have hok : (y.failedMetrics (metrics false) == 0 && y.failedMetrics (if x.pixfmt = 13 then metrics true else [0, 0, 0, 0]) == 0) =
      y.passes c x p := by
    rw [hone]
    refine congrArg (y.withinBounds (metrics false) && ·) ?_
    by_cases hx : x.pixfmt = 13
    · rw [if_pos hx, hone]
      simp [hx, metrics]
    · rw [if_neg hx]
      simp [hx, Die.failedMetrics]
  cases hpass : y.passes c x p with
  | true =>
    rw [hpass] at hok
    refine ⟨0, 0, 0, (if_pos hok).trans ?_⟩
    exact congrArg (s.withVerdict c p) hok
  | false =>
    rw [hpass] at hok
    have hrej : s.judgePart c x p = _ := if_neg (by rw [hok]; decide)
    simp only [Bool.false_eq_true, if_false]
    exact ⟨_, _, _, hrej.trans (congrArg (fun b => (State.onDie (s.withVerdict c p b) p.id.head fun y => y.rejected _ _ _).raise
      p.id.head Reg.sfnEvt 1) hok)⟩

/-- A canvas that is not in Replay mode latches at its deadlines alone (R350). -/
theorem State.replayLatch_live {cv : CanvasId} (hc : s.canvas cv = some c) (hr : c.replays = false) : s.replayLatch cv = s := by
  rw [State.replayLatch, hc]
  exact if_pos hr

/-- A part's change leaves every other canvas, and all else. -/
theorem State.onPart_spec {s : State} {cv : CanvasId} {c : Canvas} {frame : Nat} {p : PartId} {f : PartSt → PartSt} {q : PartSt}
    (hc : s.canvas cv = some c) (hq : c.parts.find? (fun r => r.id == p && r.frame == frame) = some q)
    (hf : (f q).id = q.id ∧ (f q).frame = q.frame) :
    (∀ v, v ≠ cv → (s.onPart cv frame p f).canvas v = s.canvas v) ∧
    ∃ c', (s.onPart cv frame p f).canvas cv = some c' ∧ c' = { c with parts := c'.parts } ∧
      c'.parts.find? (fun r => r.id == p && r.frame == frame) = some (f q) := by
  refine ⟨fun v hv => State.canvas_onCanvas_ne (fun _ => rfl) hv, _, State.canvas_onCanvas_some hc fun _ => rfl, rfl, ?_⟩
  have hmine : (q.id == p && q.frame == frame) = true := List.find?_some (p := fun r : PartSt => r.id == p && r.frame == frame) hq
  exact find?_updFirst_of_find? hq hmine (fun _ => id) (by rw [hf.1, hf.2]; exact hmine)

/-- What a reject changes besides the verdict. -/
theorem State.rejected_spec (s : State) {d : DieIx} (hp : s.present d = true) (w m0 m1 : Word) :
    let t := (s.onDie d fun y => y.rejected w m0 m1).raise d Reg.sfnEvt 1
    s.OnlyDieHost t d ∧ (t.die d).sfn = { (s.die d).sfn with frameBad := true } ∧
    t.reg d Reg.sfnEvt = s.reg d Reg.sfnEvt ||| 1 ∧
    ∀ k, k ∉ [Reg.sfnEvt, Reg.sfnLastReject, Reg.sfnLastM0, Reg.sfnLastM1] → t.reg d k = s.reg d k := by
  have hdie : (s.onDie d fun y => y.rejected w m0 m1).die d = (s.die d).rejected w m0 m1 := by
    rw [State.die_onDie, if_pos ⟨rfl, hp⟩]
  have hregs : ∀ k, k ∉ [Reg.sfnLastReject, Reg.sfnLastM0, Reg.sfnLastM1] →
      ((s.die d).rejected w m0 m1).reg k = (s.die d).reg k := fun k hk => by
    exact (((Die.onlyRegs_setReg _ _ _).trans (Die.onlyRegs_setReg _ _ _)).trans (Die.onlyRegs_setReg _ _ _)).2 k hk
  obtain ⟨hframe, hflag, hevt⟩ := (s.onDie d fun y => y.rejected w m0 m1).raise_spec (d := d) Reg.sfnEvt 1 hp
  refine ⟨(s.onlyDie_onDie d _).toHost.trans hframe, ?_, hevt.trans ?_, fun k hk => ?_⟩
  · rw [State.sfn_raise, hdie]
    rfl
  · rw [State.reg, hdie, hregs _ (by decide)]
    rfl
  · obtain ⟨h1, h2⟩ := not_or.mp (mt List.mem_cons.mpr hk)
    exact (hflag.2 k (by simpa using h1)).trans ((congrArg (Die.reg · k) hdie).trans (hregs k h2))

/-- A state that latches nothing more after a change of a live canvas. -/
theorem State.replayLatch_onCanvas {f : Canvas → Canvas} (hc : s.canvas c.id = some c) (hid : ∀ k, (f k).id = k.id)
    (hr : (f c).replays = false) : (s.onCanvas c.id f).replayLatch c.id = s.onCanvas c.id f :=
  State.replayLatch_live (State.canvas_onCanvas_some hc hid) hr

/-- FALLBACK_COMPLETE on a live canvas marks the fall-back parts of the stripe. -/
theorem fxFallbackComplete_live {layer : LayerIx} {stripe : Nat} (hh : s.headCanvas h = some c) (hc : s.canvas c.id = some c)
    (hr : c.replays = false) :
    fxFallbackComplete h layer stripe s = s.onCanvas c.id fun k => { k with parts := k.parts.map fun p =>
      if p.frame = c.frameNo ∧ p.id.head = h ∧ p.id.layer = layer ∧ p.id.stripe = stripe ∧ p.fallbackStarted = true then
        { p with fallbackDone := true } else p } := by
  rw [fxFallbackComplete, hh]
  simp only [Bool.and_eq_true, beq_iff_eq, and_assoc]
  exact State.replayLatch_onCanvas hc (fun _ => rfl) hr

/-- VERDICT on a live canvas judges a part that is complete with its fall-back stripe. -/
theorem fxVerdict_live {p : PartId} {q : PartSt} {x : LayerEntry} (hh : s.headCanvas p.head = some c) (hc : s.canvas c.id = some c)
    (hr : c.replays = false) (hq : c.parts.find? (fun r => r.id == p && r.frame == c.frameNo) = some q)
    (hx : c.layerEntry p.layer = some x) (hdone : q.complete = true ∧ q.fallbackDone = true)
    (hopen : q.verdict = none ∧ q.failed = none ∧ q.abandoned = false) (ha : (s.die p.head).sfn.phase = .armed) :
    fxVerdict p s = s.judgePart c x q := by
  have hlatch : (s.judgePart c x q).replayLatch c.id = s.judgePart c x q := by
    obtain ⟨w, m0, m1, hj⟩ := s.judgePart_eq c x q
    rw [hj]
    split <;> exact State.replayLatch_live (State.canvas_onCanvas_some hc fun _ => rfl) hr
  rw [fxVerdict, hh]
  dsimp only
  rw [hq, hx]
  exact (if_neg (by simp [hdone, hopen, ha])).trans hlatch

end

/-- Settles O20: VERDICT is the judgment of `State.judgePart_eq`, and neither command latches anything on a live canvas. -/
theorem verdictAndFallback : Obligations.verdict_and_fallback := by
  unfold Obligations.verdict_and_fallback
  intro s c h hp hh hc hr
  constructor
  · refine fun l stripe => ⟨_, rfl, ?_⟩
    rw [fxFallbackComplete_live hh hc hr]
    exact ⟨rfl, fun v hv => State.canvas_onCanvas_ne (fun _ => rfl) hv, State.canvas_onCanvas_some hc fun _ => rfl⟩
  · intro p q x hph hq hx hcomplete hfb hverdict hfail hab harmed k bounds within pass
    subst hph
    refine ⟨_, rfl, ?_⟩
    obtain ⟨hid, hframe⟩ : q.id = p ∧ q.frame = c.frameNo := by simpa using List.find?_some hq
    obtain ⟨hother, hsame⟩ := State.onPart_spec (f := fun r => { r with verdict := some pass }) hc hq ⟨rfl, rfl⟩
    have hpass : (s.die p.head).passes c x q = pass := rfl
    clear_value pass
    obtain ⟨w, m0, m1, hj⟩ := s.judgePart_eq c x q
    simp only [State.withVerdict, hid, hframe, hpass] at hj
    rw [fxVerdict_live hh hc hr hq hx ⟨hcomplete, hfb⟩ ⟨hverdict, hfail, hab⟩ harmed, hj]
    cases pass with
    | true => exact ⟨hother, hsame, fun _ => rfl, nofun⟩
    | false => exact ⟨hother, hsame, nofun, fun _ => s.rejected_spec hp w m0 m1⟩

end Sys2Proof.Machine
end

section
/-! SUPPORT. Proofs of the statements of 13_safety_net: the neural-domain restart (R356). -/

namespace Sys2Proof.Machine

/-! ### A WAIT of a stream that stops

RESTART_GATE_END takes away the streams of bundle contexts that still stand (`Die.stopStreams`), and `Tsl.cancel` with them the
records that the objects have of their WAITs. The Turnstile does not stay as it was. -/

/-- `rerunPart`, with die 0 gated since moment 0, 1.05 ms ago. -/
def gatedPart : State :=
  { rerunPart.onSfn 0 fun x => { x with restart := some { at_ := 0, phase := .gated } } with gsc := 105_000 }

/-- The object had a record of the stream's WAIT, and has none when the restart moves on. -/
theorem gatedPart_drops_waiter : (gatedPart.die 0).tsl.objs.map (fun e => e.2.waiters.length) = [1] ∧
    ((fxRestartGateEnd 0 gatedPart).die 0).tsl.objs.map (fun e => e.2.waiters.length) = [0] := by decide +kernel

/-- Refutes O21: it says that RESTART_GATE_END leaves the die's Turnstile, while the streams that it stops take their records out of
the objects' waiters. -/
theorem not_restartSequence : ¬ Obligations.restart_sequence := by
  unfold Obligations.restart_sequence
  intro h
  obtain ⟨hgate, -⟩ := h gatedPart 0 (by decide)
  obtain ⟨t, ht, -, -, -, htsl, -⟩ := hgate { at_ := 0, phase := .gated } (by decide) rfl (by decide)
  obtain rfl : fxRestartGateEnd 0 gatedPart = t := Host.Outcome.next.inj ht
  obtain ⟨hbefore, hafter⟩ := gatedPart_drops_waiter
  rw [htsl, hbefore] at hafter
  exact absurd hafter (by decide)

end Sys2Proof.Machine
end

section
/-! SUPPORT. Proofs of the statements of 13_safety_net: what no other work touches of the Safety Net (R346, R356, R366). -/

namespace Sys2Proof.Machine

/-! ### Dies

The work of canvases, Turnstiles, streams and the recorder sets the mark of a rejection frame and flags of SFN_EVT (an untrusted
result, R263), and leaves the Safety Net's state and these registers. -/

/-- Registers that the Safety Net alone writes. -/
abbrev IsNetReg (off : Nat) : Prop :=
  off = Reg.sfnMon ∨ off = Reg.sfnInjFail ∨ off = Reg.sfnGolden ∨ off = Reg.sfnGoldenFailCnt

/-- What other work keeps of the Safety Net of a die. -/
structure Die.KeepsNet (x y : Die) : Prop where
  regs : ∀ off, IsNetReg off → y.reg off = x.reg off
  flags : ∀ i, (x.reg Reg.sfnEvt).getLsbD i = true → (y.reg Reg.sfnEvt).getLsbD i = true
  sfn : { y.sfn with frameBad := x.sfn.frameBad } = x.sfn

namespace Die.KeepsNet

variable {x y z : Die}

theorem of_eq (hr : y.regs = x.regs) (hs : y.sfn = x.sfn) : x.KeepsNet y where
  regs _ _ := by rw [Die.reg, hr, Die.reg]
  flags _ h := by rwa [Die.reg, hr]
  sfn := by rw [hs]

protected theorem refl (x : Die) : x.KeepsNet x := of_eq rfl rfl

theorem trans (h : x.KeepsNet y) (k : y.KeepsNet z) : x.KeepsNet z where
  regs off ho := (k.regs off ho).trans (h.regs off ho)
  flags i hi := k.flags i (h.flags i hi)
  sfn := (congrArg (fun q : Sfn => { q with frameBad := x.sfn.frameBad }) k.sfn).trans h.sfn

/-- A register of another block. -/
theorem setReg (x : Die) {off : Nat} (w : Word) (ho : ¬ IsNetReg off) (he : off ≠ Reg.sfnEvt) : x.KeepsNet (x.setReg off w) where
  regs _ hk := x.reg_setReg_ne w fun e => ho (e ▸ hk)
  flags _ hi := by rwa [x.reg_setReg_ne w he]
  sfn := rfl

/-- A flag, in SFN_EVT or another event register. -/
theorem flag (x : Die) {off : Nat} (mask : Nat) (ho : ¬ IsNetReg off) : x.KeepsNet (x.setReg off (x.reg off ||| BitVec.ofNat 32 mask)) := by
  by_cases he : off = Reg.sfnEvt
  · subst he
    refine ⟨fun _ hk => x.reg_setReg_ne _ fun e => ho (e ▸ hk), fun i hi => ?_, rfl⟩
    rw [Die.reg_setReg_same, BitVec.getLsbD_or, hi, Bool.true_or]
  · exact setReg x _ ho he

theorem removeStreams (x : Die) (p : StreamId → Stream → Bool) : x.KeepsNet (x.removeStreams p) := of_eq rfl rfl

theorem stopStreams (x : Die) : x.KeepsNet x.stopStreams := of_eq rfl rfl

theorem syncPool (x : Die) : x.KeepsNet x.syncPool := setReg x _ (by decide) (by decide)

theorem withPools (h : x.KeepsNet y) (c : Canvas) (env : PlaceEnv) (d : DieIx) : x.KeepsNet (y.withPools c env d) := by
  refine foldl_inv (fun z i hz => ?_) h
  split
  · exact hz
  · exact hz.trans (of_eq rfl rfl)

theorem placed (x : Die) (c : Canvas) (env : PlaceEnv) (p : DiePlace) : x.KeepsNet (x.placed c env p) := by
  have hfoot (n : Nat) (l : List (Nat × Nat × FnIx)) : x.KeepsNet { x with poolUsedKib := n, dramAlloc := l } := of_eq rfl rfl
  have hregs (y : Die) (u v w : Word) (h : x.KeepsNet y) :
      x.KeepsNet (((y.setReg Reg.rmsSlotPeak u).setReg Reg.rmsSlotPeak v).setReg Reg.rmsPlaceGen w) :=
    ((h.trans (.setReg _ _ (by decide) (by decide))).trans (.setReg _ _ (by decide) (by decide))).trans
      (.setReg _ _ (by decide) (by decide))
  exact hregs _ _ _ _ (((hfoot _ _).withPools c env p.die).trans (.syncPool _))

theorem ringWrite (x : Die) (bs : List Byte) : x.KeepsNet (x.ringWrite bs) := by
  have hregs (y : Die) (w v : Word) (h : x.KeepsNet y) : x.KeepsNet ((y.setReg Reg.detRecWptr w).setReg Reg.detStatus v) :=
    (h.trans (.setReg _ _ (by decide) (by decide))).trans (.setReg _ _ (by decide) (by decide))
  exact hregs _ _ _ (of_eq rfl rfl)

end Die.KeepsNet

/-! ### States -/

/-- What other work keeps of the Safety Nets of a state. -/
structure State.KeepsNet (s t : State) : Prop where
  straps : t.straps = s.straps
  dies : ∀ d, (s.die d).KeepsNet (t.die d)

namespace State.KeepsNet

variable {s0 s t : State}

protected theorem refl (s : State) : s.KeepsNet s := ⟨rfl, fun _ => .refl _⟩

theorem trans (k : s0.KeepsNet s) (j : s.KeepsNet t) : s0.KeepsNet t :=
  ⟨j.straps.trans k.straps, fun d => (k.dies d).trans (j.dies d)⟩

theorem present (k : s.KeepsNet t) (d : DieIx) : t.present d = s.present d := by
  rw [State.present, State.nDies, k.straps]
  rfl

theorem ite {c : Prop} [Decidable c] (k : s0.KeepsNet s) (j : s0.KeepsNet t) : s0.KeepsNet (if c then s else t) := by
  split
  · exact k
  · exact j

theorem foldl {α : Type} {f : State → α → State} {l : List α} (k : s0.KeepsNet s)
    (hf : ∀ t a, s0.KeepsNet t → s0.KeepsNet (f t a)) : s0.KeepsNet (l.foldl f s) := foldl_inv hf k

/-- A change of other fields than straps and dies. -/
theorem copy (k : s0.KeepsNet s) (hs : t.straps = s.straps) (hd : t.dies = s.dies) : s0.KeepsNet t :=
  k.trans ⟨hs, fun d => by rw [State.die, State.die, hd]; exact .refl _⟩

theorem onDie (k : s0.KeepsNet s) (d : DieIx) {f : Die → Die} (hf : (s.die d).KeepsNet (f (s.die d))) : s0.KeepsNet (s.onDie d f) := by
  refine k.trans ⟨rfl, fun e => ?_⟩
  rw [State.die_onDie]
  split
  next h =>
    obtain ⟨rfl, -⟩ := h
    exact hf
  next => exact .refl _

theorem onDies (k : s0.KeepsNet s) (ds : List DieIx) {f : DieIx → Die → Die} (hf : ∀ (d : DieIx) (x : Die), x.KeepsNet (f d x)) :
    s0.KeepsNet (s.onDies ds f) := k.foldl fun _ d j => j.onDie d (hf d _)

theorem onHost (k : s0.KeepsNet s) (f : HostSide → HostSide) : s0.KeepsNet (s.onHost f) := k.copy rfl rfl

theorem onCanvas (k : s0.KeepsNet s) (cv : CanvasId) (f : Canvas → Canvas) : s0.KeepsNet (s.onCanvas cv f) := k.copy rfl rfl

/-! #### Registers, flags and records -/

variable {off cnt evt : Nat}

theorem setReg (k : s0.KeepsNet s) (d : DieIx) (w : Word) (ho : ¬ IsNetReg off) (he : off ≠ Reg.sfnEvt) : s0.KeepsNet (s.setReg d off w) :=
  k.onDie d (.setReg _ w ho he)

theorem raise (k : s0.KeepsNet s) (d : DieIx) (mask : Nat) (ho : ¬ IsNetReg evt) : s0.KeepsNet (s.raise d evt mask) :=
  copy (s := s.setReg d evt (s.reg d evt ||| BitVec.ofNat 32 mask)) (k.onDie d (.flag _ mask ho)) rfl rfl

theorem countRaise (k : s0.KeepsNet s) (d : DieIx) (mask : Nat) (hc : ¬ IsNetReg cnt) (he : cnt ≠ Reg.sfnEvt) (ho : ¬ IsNetReg evt) :
    s0.KeepsNet (s.countRaise d cnt evt mask) := (k.setReg d _ hc he).raise d mask ho

/-- An untrusted result marks its frame and is flagged, and the Safety Net has nothing else of it (R263). -/
theorem untrusted (k : s0.KeepsNet s) (d : DieIx) : s0.KeepsNet (s.untrusted d) :=
  (k.onDie d (f := fun x => { x with sfn := { x.sfn with frameBad := true } }) ⟨fun _ _ => rfl, fun _ h => h, rfl⟩).countRaise d _
    (by decide) (by decide) (by decide)

theorem loseRecord (k : s0.KeepsNet s) (d : DieIx) : s0.KeepsNet (s.loseRecord d) :=
  (k.onDie d (.of_eq rfl rfl)).countRaise d _ (by decide) (by decide) (by decide)

theorem recordOne (k : s0.KeepsNet s) (d : DieIx) (tick : Nat) (r : Rec) : s0.KeepsNet (s.recordOne d tick r) := by
  unfold State.recordOne
  have hstop : s0.KeepsNet (s.onDie d fun y => { (y.setField Reg.detStatus 2 2 0) with recorder := { y.recorder with full := true } }) :=
    k.onDie d ((Die.KeepsNet.setReg _ _ (by decide) (by decide)).trans (.of_eq rfl rfl))
  have hring {t : State} (j : s0.KeepsNet t) (bs : Die → List Byte) : s0.KeepsNet (t.onDie d fun y => y.ringWrite (bs y)) :=
    j.onDie d (.ringWrite _ _)
  exact ite k (ite (k.loseRecord d) (ite (hstop.raise d _ (by decide)) (hring (ite (hring k _) k) _)))

theorem recordGap (k : s0.KeepsNet s) (d : DieIx) (tick : Nat) : s0.KeepsNet (s.recordGap d tick) := by
  unfold State.recordGap
  exact ite k ((k.onDie d (.of_eq rfl rfl)).recordOne d tick _)

theorem recordNow (k : s0.KeepsNet s) (d : DieIx) (tick : Nat) (r : Rec) : s0.KeepsNet (s.recordNow d tick r) :=
  ((k.recordGap d tick).recordOne d tick r).recordGap d tick

theorem record (k : s0.KeepsNet s) (d : DieIx) (tick : Nat) (r : Rec) : s0.KeepsNet (s.record d tick r) := by
  unfold State.record
  split
  · exact k.onDie d (.of_eq rfl rfl)
  · exact k.recordNow d tick r

theorem recordEvent (k : s0.KeepsNet s) (kind : Nat) (cv : Option CanvasId) (step : Dword) (w : List Byte) :
    s0.KeepsNet (s.recordEvent kind cv step w) := by
  unfold State.recordEvent
  exact ite k (k.record 0 _ _)

theorem endBatch (k : s0.KeepsNet s) (d : DieIx) : s0.KeepsNet (s.endBatch d) := by
  unfold State.endBatch
  split
  · exact k
  · exact (k.onDie d (.of_eq rfl rfl)).foldl fun _ e j => j.recordNow d e.1 e.2

theorem inOneCycle {f : State → State} (k : s0.KeepsNet s) (hf : ∀ t, s0.KeepsNet t → s0.KeepsNet (f t)) :
    s0.KeepsNet (s.inOneCycle f) := by
  unfold State.inOneCycle
  exact (hf s k).ite (foldl (hf _ (k.onDies _ fun _ _ => .of_eq rfl rfl)) fun _ d j => j.endBatch d)

/-! #### Turnstiles -/

theorem onStream (k : s0.KeepsNet s) (st : StreamId) (f : Stream → Stream) : s0.KeepsNet (s.onStream st f) :=
  k.onDie _ (.of_eq rfl rfl)

theorem released (k : s0.KeepsNet s) (q : TslReq) (st : Status) : s0.KeepsNet (s.released q st) :=
  (k.onHost _).ite ((k.onStream _ _).ite k)

theorem tslFlags (k : s0.KeepsNet s) (d : DieIx) (bundle : Bool) (r : TslResult) : s0.KeepsNet (s.tslFlags d bundle r) := by
  cases r with
  | saturated =>
    have j := k.countRaise (cnt := Reg.tslOvfCnt) (evt := Reg.tslEvt) d 0x01 (by decide) (by decide) (by decide)
    exact (j.untrusted d).ite j
  | refused => exact k.countRaise d _ (by decide) (by decide) (by decide)
  | full => exact k.raise d _ (by decide)
  | proceeds _ => exact k
  | applied => exact k
  | poisoned => exact k
  | queued => exact k

theorem onTsl (k : s0.KeepsNet s) (d : DieIx) (f : Die → Tsl) : s0.KeepsNet (s.onDie d fun x => { x with tsl := f x }) :=
  k.onDie d (.of_eq rfl rfl)

theorem barrierArrive (k : s0.KeepsNet s) (d : DieIx) (n : Nat) : s0.KeepsNet (s.barrierArrive d n) := by
  unfold State.barrierArrive
  split
  · exact k
  · split
    · exact k
    next o _ => exact k.ite ((k.onTsl d fun x => x.tsl.setObj n _).copy rfl rfl)

theorem tslCycle (k : s0.KeepsNet s) (d : DieIx) (n : Nat) (ops : List TslReq) : s0.KeepsNet (s.tslCycle d n ops).1 := by
  unfold State.tslCycle
  dsimp only
  split
  · exact k
  · refine ((k.onTsl d _).foldl fun t e j => ?_).barrierArrive d n
    split
    · exact j.released _ _
    · exact j.tslFlags d _ _

theorem ringSet (k : s0.KeepsNet s) (d : DieIx) (ctx : Nat) (v : Option (BitVec 12)) (seq value : Nat) :
    s0.KeepsNet (s.ringSet d ctx v seq value) := by
  unfold State.ringSet
  split
  · exact k
  · split
    · exact k
    · exact k.tslCycle d _ _

/-! #### Entry into the queues of the engines -/

theorem syncInflight (k : s0.KeepsNet s) (d : DieIx) : s0.KeepsNet (s.syncInflight d) := by
  have j := k.onDie d (f := fun x => (x.setField Reg.crsInflight 13 0 (s.die d).flight).setField Reg.crsInflight 29 16
    (max (s.die d).flight (x.field Reg.crsInflight 29 16)))
    ((Die.KeepsNet.setReg _ _ (by decide) (by decide)).trans (.setReg _ _ (by decide) (by decide)))
  exact (j.raise d _ (by decide)).ite j

theorem enter (k : s0.KeepsNet s) (d : DieIx) (e : Entrant) : s0.KeepsNet (s.enter d e) := by
  refine k.ite ?_
  cases e with
  | item i => exact k.onDie d (.of_eq rfl rfl)
  | run cv r =>
    dsimp only
    split
    · exact (k.onDie _ (.of_eq rfl rfl)).onCanvas cv _
    · exact k

theorem refill (k : s0.KeepsNet s) (d : DieIx) : s0.KeepsNet (s.refill d) := (k.foldl fun _ e j => j.enter d e.2).syncInflight d

/-! #### Abandonment and failure -/

theorem postItem (k : s0.KeepsNet s) (c : Canvas) (d : DieIx) (op stripe : Nat) (step : Dword) (st : Status) (w : List Nat) :
    s0.KeepsNet (s.postItem c d op stripe step st w) := (k.onHost _).ite k

theorem fillHalo (k : s0.KeepsNet s) (cv : CanvasId) (d : DieIx) (frame stripe seq op : Nat) :
    s0.KeepsNet (s.fillHalo cv d frame stripe seq op) := by
  unfold State.fillHalo
  split
  · exact k
  next c _ =>
    have hrows {t : State} (j : s0.KeepsNet t) (v : State → Nat) :
        s0.KeepsNet ((c.opOf op).writes.foldl (fun s t => s.ringSet d c.ctx (c.rowVirt t) seq (v s)) t) :=
      j.foldl fun _ _ j => j.ringSet _ _ _ _ _
    dsimp only
    split
    · exact hrows (k.onCanvas cv _) fun s => s.shares c (c.opOf op) d stripe * _
    · exact (hrows (k.onCanvas cv _) fun s => s.shares c (c.opOf op) d stripe * _).foldl
        fun _ _ j => j.foldl fun _ _ j => j.ringSet _ _ _ _ _

theorem resetBarrier (k : s0.KeepsNet s) (cv : CanvasId) (op : Nat) : s0.KeepsNet (s.resetBarrier cv op) := by
  unfold State.resetBarrier
  split
  · exact k
  · refine (k.onDies _ fun d x => ?_).copy rfl rfl
    split
    · split
      · exact .of_eq rfl rfl
      · exact .refl x
    · exact .refl x

theorem abandonOp (k : s0.KeepsNet s) (cv : CanvasId) (d : DieIx) (frame stripe seq op : Nat) (st : Status) :
    s0.KeepsNet (s.abandonOp cv d frame stripe seq op st) := by
  cases hc : s.canvas cv with
  | none =>
    simp only [State.abandonOp, hc]
    exact k
  | some c =>
    have hdrop (ds : List DieIx) : s0.KeepsNet ((s.onCanvas cv (c.endWork cv d seq op st)).onDies ds fun e x =>
        { x.dropItems (c.losesItem cv d seq op) with tsl := x.tsl.cancelItems c.ctx e seq (c.lostOps op) }) :=
      (k.onCanvas cv _).onDies ds fun _ _ => .of_eq rfl rfl
    have hstop (ds : List DieIx) := (hdrop ds).onDies ds fun _ x => Die.KeepsNet.removeStreams x fun _ y =>
      y.canvas == some cv && y.stepSeq == seq && y.op.any fun o => (c.lostOps op).contains o
    unfold State.abandonOp
    simp only [hc]
    exact ((((hstop _).resetBarrier cv op).ite (hstop _)).foldl fun _ _ j => j.fillHalo _ _ _ _ _ _).foldl fun _ _ j => j.refill _

theorem abandonWork (k : s0.KeepsNet s) (cv : CanvasId) (st : Status) (p : Item → Bool) : s0.KeepsNet (s.abandonWork cv st p) := by
  unfold State.abandonWork
  split
  · exact k
  · refine k.foldl fun t i j => ?_
    split
    · exact (j.abandonOp _ _ _ _ _ _ _).ite j
    · exact j

theorem skipStep (k : s0.KeepsNet s) (cv : CanvasId) (d : DieIx) (frame stripe seq : Nat) :
    s0.KeepsNet (s.skipStep cv d frame stripe seq) := by
  unfold State.skipStep
  split
  · exact k
  · exact (k.foldl fun _ _ j => j.fillHalo _ _ _ _ _ _).onCanvas cv _

theorem abortSave (k : s0.KeepsNet s) (cv : CanvasId) : s0.KeepsNet (s.abortSave cv) := by
  unfold State.abortSave
  split
  · exact k
  · split
    · exact (k.onCanvas cv _).onHost _
    · exact k

theorem abortSaves (k : s0.KeepsNet s) (d : DieIx) : s0.KeepsNet (s.abortSaves d) := k.foldl fun _ c j => j.abortSave c.id

/-- The neural work of a die stops without the Safety Net. -/
theorem stopNeural (k : s0.KeepsNet s) (d : DieIx) : s0.KeepsNet (s.stopNeural d) := by
  refine onDie (foldl (foldl (k.foldl fun _ c j => j.abandonWork _ _ _) fun _ c j => j.foldl fun t e j => ?_)
    fun _ c j => j.onCanvas _ _) d (.stopStreams _)
  split
  · exact j.skipStep _ _ _ _ _
  · exact j

end State.KeepsNet

end Sys2Proof.Machine
end

section
/-! SUPPORT. Proofs of the statements of 13_safety_net: SAFE, monitors, watchdogs and HB_OUT (R346, R347, R367). -/

namespace Sys2Proof.Machine

/-! ### FAULT_N and HB_OUT -/

section
variable {s : State} {d : DieIx}

theorem State.faultLow_eq_true : s.faultLow = true ↔ ∃ d, s.present d = true ∧ (s.die d).sfn.faults ≠ [] := by
  simp [State.faultLow, State.mem_dieList]

theorem State.faultLow_of_mem {c : FaultCause} (hp : s.present d = true) (hc : c ∈ (s.die d).sfn.faults) : s.faultLow = true :=
  State.faultLow_eq_true.mpr ⟨d, hp, List.ne_nil_of_mem hc⟩

theorem State.faultLow_eq_false : s.faultLow = false ↔ ∀ d, s.present d = true → (s.die d).sfn.faults = [] := by
  rw [← Bool.not_eq_true, State.faultLow_eq_true]
  push Not
  rfl

theorem State.sfn_driveFault (c : FaultCause) (hp : s.present d = true) : ((s.driveFault d c).die d).sfn = (s.die d).sfn.drive c :=
  s.sfn_onSfn_same d _ hp

/-! ### SAFE (R346) -/

/-- A Safety Net that entered SAFE at a moment. -/
def Sfn.inSafe (x : Sfn) (now : Nat) : Sfn := { x with phase := .safe, safeAt := now, restart := none, goldenStarted := false }

/-- A die that enters SAFE drives FAULT_N and flags it, and its neural work stops, which leaves its Safety Net. -/
theorem State.enterSafe_spec (hp : s.present d = true) (h : (s.die d).sfn.phase ≠ .safe) :
    let t := s.enterSafe d
    let x := (t.die d).sfn
    t.present d = true ∧ (x.phase = .safe ∧ x.restart = none ∧ x.safeAt = s.gsc ∧ .safe ∈ x.faults) ∧
    (∀ off, IsNetReg off → t.reg d off = s.reg d off) ∧ (t.reg d Reg.sfnEvt).getLsbD 6 = true ∧
    ∀ i, (s.reg d Reg.sfnEvt).getLsbD i = true → (t.reg d Reg.sfnEvt).getLsbD i = true := by
  have hsaves : s.KeepsNet (s.abortSaves d) := (State.KeepsNet.refl s).abortSaves d
  have hp1 : (s.abortSaves d).present d = true := (hsaves.present d).trans hp
  let a := (s.abortSaves d).onSfn d fun x => x.inSafe s.gsc
  have ha : (a.die d).sfn = ((s.abortSaves d).die d).sfn.inSafe s.gsc := State.sfn_onSfn_same _ d _ hp1
  have hstop : a.KeepsNet (a.stopNeural d) := (State.KeepsNet.refl a).stopNeural d
  have hp2 : (a.stopNeural d).present d = true := (hstop.present d).trans hp1
  have ht : s.enterSafe d = ((a.stopNeural d).driveFault d .safe).raise d Reg.sfnEvt 0x40 := if_neg h
  have hx : ((s.enterSafe d).die d).sfn = ((a.stopNeural d).die d).sfn.drive .safe := by
    rw [ht, State.sfn_raise, State.sfn_driveFault _ hp2]
  have hnet := (hstop.dies d).sfn
  have hreg (off : Nat) : ((a.stopNeural d).driveFault d .safe).reg d off = (a.stopNeural d).reg d off := State.reg_onSfn _ d d _ off
  refine ⟨by rw [ht]; exact hp2, ?_, fun off ho => ?_, ?_, fun i hi => ?_⟩
  · rw [hx]
    refine ⟨(congrArg Sfn.phase hnet).trans (congrArg Sfn.phase ha), (congrArg Sfn.restart hnet).trans (congrArg Sfn.restart ha),
      (congrArg Sfn.safeAt hnet).trans (congrArg Sfn.safeAt ha), (Sfn.mem_drive _ _ _).mpr (.inr rfl)⟩
  · have hne : Reg.sfnEvt ≠ off := fun e => absurd (e ▸ ho) (by decide)
    rw [ht, State.reg_raise, if_neg fun c => hne c.2.2, hreg]
    exact ((hstop.dies d).regs off ho).trans ((State.reg_onSfn _ d d _ off).trans ((hsaves.dies d).regs off ho))
  · rw [ht]
    exact State.getLsbD_raise_same _ _ hp2 (by decide)
  · have hkept := (hstop.dies d).flags i ((congrArg (·.getLsbD i) (State.reg_onSfn _ d d _ _)).trans ((hsaves.dies d).flags i hi))
    rw [ht, State.reg_raise, if_pos ⟨rfl, hp2, rfl⟩, BitVec.getLsbD_or, hreg, Bool.or_eq_true]
    exact .inl hkept

/-! ### Monitors and watchdogs (R367) -/

theorem State.neuralOn_of_safe (h : (s.die d).sfn.phase = .safe) : s.neuralOn d = false := by simp [State.neuralOn, h]

/-- A monitor whose bit is set in SFN_MON takes a die into SAFE. -/
theorem State.monitor_spec (k : Nat) (hp : s.present d = true) (h : (s.die d).sfn.phase ≠ .safe) :
    let t := ((s.setMon d k).raise d Reg.sfnEvt 0x80).enterSafe d
    (t.die d).sfn.phase = .safe ∧ (t.die d).sfn.restart = none ∧ (t.die d).sfn.safeAt = s.gsc ∧ FaultCause.safe ∈ (t.die d).sfn.faults ∧
    t.faultLow = true ∧ t.neuralOn d = false ∧ t.reg d Reg.sfnMon = s.reg d Reg.sfnMon ||| BitVec.ofNat 32 (2 ^ k) ∧
    (t.reg d Reg.sfnEvt).getLsbD 6 = true ∧ (t.reg d Reg.sfnEvt).getLsbD 7 = true := by
  let u := (s.setMon d k).raise d Reg.sfnEvt 0x80
  have hphase : (u.die d).sfn.phase ≠ .safe := by
    rw [State.sfn_raise, State.setMon, State.sfn_setReg]
    exact h
  have hmon : u.reg d Reg.sfnMon = s.reg d Reg.sfnMon ||| BitVec.ofNat 32 (2 ^ k) := by
    rw [State.reg_raise, if_neg fun c => absurd c.2.2 (by decide), State.setMon, State.reg_setReg_same _ _ hp]
  have hevt : (u.reg d Reg.sfnEvt).getLsbD 7 = true := State.getLsbD_raise_same _ _ hp (by decide)
  obtain ⟨hp', ⟨hsafe, hrestart, hat, hfault⟩, hregs, hflag, hflags⟩ := u.enterSafe_spec (d := d) hp hphase
  exact ⟨hsafe, hrestart, hat, hfault, State.faultLow_of_mem hp' hfault, State.neuralOn_of_safe hsafe, (hregs _ (.inl rfl)).trans hmon,
    hflag, hflags 7 hevt⟩

/-- A watchdog whose bit is set in SFN_MON drives FAULT_N; what it does besides concerns the die's head and other registers. -/
theorem State.watchdog_spec {t : State} {offs : List Nat} (k : Nat) (f : FaultCause) (hp : s.present d = true)
    (hrest : (((s.setMon d k).raise d Reg.sfnEvt 0x100).driveFault d f).OnlyDie t d)
    (hhead : ((((s.setMon d k).raise d Reg.sfnEvt 0x100).driveFault d f).die d).OnlyHead (t.die d) offs)
    (hmonOff : Reg.sfnMon ∉ offs) (hevtOff : Reg.sfnEvt ∉ offs) :
    s.OnlyDieHost t d ∧ f ∈ (t.die d).sfn.faults ∧ (∀ g, g ∈ (s.die d).sfn.faults → g ∈ (t.die d).sfn.faults) ∧
    (t.die d).sfn.phase = (s.die d).sfn.phase ∧ t.faultLow = true ∧
    t.reg d Reg.sfnMon = s.reg d Reg.sfnMon ||| BitVec.ofNat 32 (2 ^ k) ∧ t.reg d Reg.sfnEvt = s.reg d Reg.sfnEvt ||| 0x100 ∧
    ∀ o, o ∉ Reg.sfnMon :: Reg.sfnEvt :: offs → t.reg d o = s.reg d o := by
  let u := (s.setMon d k).raise d Reg.sfnEvt 0x100
  obtain ⟨hmon, hmonRegs, hmonReg⟩ := s.setReg_frame d Reg.sfnMon (s.reg d Reg.sfnMon ||| BitVec.ofNat 32 (2 ^ k)) hp
  obtain ⟨hevt, hevtRegs, hevtReg⟩ := (s.setMon d k).raise_spec (d := d) Reg.sfnEvt 0x100 hp
  have hframe : s.OnlyDieHost t d := ((hmon.toHost.trans hevt).trans (State.onSfn_onlyDie _ d _).toHost).trans hrest.toHost
  have hsfn : (t.die d).sfn = (s.die d).sfn.drive f := by
    have hdrive : ((u.driveFault d f).die d).sfn = (u.die d).sfn.drive f := State.sfn_driveFault f hp
    rw [hhead.1, hdrive, State.sfn_raise, State.setMon, State.sfn_setReg]
  have hfault (g : FaultCause) : g ∈ (t.die d).sfn.faults ↔ g ∈ (s.die d).sfn.faults ∨ g = f := by rw [hsfn, Sfn.mem_drive]
  have hreg (o : Nat) (ho : o ∉ offs) : t.reg d o = u.reg d o := (hhead.2 o ho).trans (State.reg_onSfn _ d d _ o)
  refine ⟨hframe, (hfault f).mpr (.inr rfl), fun g hg => (hfault g).mpr (.inl hg), ?_,
    State.faultLow_of_mem ((hframe.present d).trans hp) ((hfault f).mpr (.inr rfl)), ?_, ?_, fun o ho => ?_⟩
  · rw [hsfn]
    rfl
  · exact (hreg _ hmonOff).trans ((hevtRegs.2 _ (by decide)).trans hmonReg)
  · exact (hreg _ hevtOff).trans (hevtReg.trans (congrArg (· ||| _) (hmonRegs.2 _ (by decide))))
  · obtain ⟨hm, he, hoffs⟩ : o ≠ Reg.sfnMon ∧ o ≠ Reg.sfnEvt ∧ o ∉ offs := by simpa using ho
    exact (hreg o hoffs).trans ((hmonRegs.trans hevtRegs).2 o (by simp [hm, he]))

end

/-- Settles O24: a monitor and the lock-step compare go through `State.monitor_spec`, the watchdogs through `State.watchdog_spec`. -/
theorem monitorsAndWatchdogs : Obligations.monitors_and_watchdogs := by
  unfold Obligations.monitors_and_watchdogs
  refine ⟨fun s d hp => ?_, fun s => ⟨_, rfl, ?_⟩⟩
  · intro x safe watch
    refine ⟨fun m h => ⟨_, rfl, State.monitor_spec _ hp h⟩, fun h => ⟨_, rfl, State.monitor_spec _ hp h⟩, fun hrun hwait => ⟨_, rfl, ?_⟩,
      ⟨_, rfl, ?_⟩⟩
    · let u := ((s.setMon d 10).raise d Reg.sfnEvt 0x100).driveFault d .rasterStall
      have ht : fxRasterStall d s = u.startDown d := if_neg <| by
        rw [not_or, Bool.not_eq_false, Bool.not_eq_true]
        exact ⟨hrun, hwait⟩
      obtain ⟨hframe, hdie⟩ := State.startDown_spec (s := u) (h := d) hp
      obtain ⟨hhead, -, -⟩ := (u.die d).lossCounted_spec (u.die d).head.downSince.isNone u.gsc
      rw [ht]
      exact State.watchdog_spec 10 .rasterStall hp hframe (hdie ▸ hhead) (by decide) (by decide)
    · exact State.watchdog_spec 11 .heartbeat hp ⟨rfl, fun _ _ => rfl⟩ ⟨rfl, fun _ _ => rfl⟩ (by decide) (by decide)
  · unfold fxHbOutToggle
    split
    next h => exact ⟨rfl, by rw [if_pos ⟨h.1, State.faultLow_eq_false.mp h.2⟩]⟩
    next h => exact ⟨rfl, by rw [if_neg fun c => h ⟨c.1, State.faultLow_eq_false.mpr c.2⟩]⟩

end Sys2Proof.Machine
end

section
/-! SUPPORT. Proofs of the statements of 13_safety_net: restarts and the golden stripe (R356, R357, R366). -/

namespace Sys2Proof.Machine

/-! ### The trigger of a restart (R356, R357) -/

section
variable {s : State} {d : DieIx}

/-- A Safety Net whose neural-domain restart was triggered at a moment. -/
def Sfn.restarting (x : Sfn) (now : Nat) (times : List Nat) : Sfn :=
  { x with restart := some { at_ := now, phase := .gated }, restarts := times, window := [], frameBad := false, history := [],
           goldenStarted := false }

/-- The triggers within 10 s up to a moment, with one at that moment. -/
def Sfn.triggers (x : Sfn) (now : Nat) : List Nat := now :: x.restarts.filter fun e => decide (now ≤ e + 1_000_000_000)

/-- The state in which a triggered restart has stopped the neural work of its die. -/
def State.restarted (s : State) (d : DieIx) : State :=
  ((((s.abortSaves d).onSfn d fun x => x.restarting s.gsc ((s.die d).sfn.triggers s.gsc)).raise d Reg.sfnEvt 0x0002).recordEvent 2 none
    (BitVec.ofNat 64 s.gsc) (leBytes 4 d.val)).stopNeural d

theorem State.startRestart_eq (s : State) (d : DieIx) : s.startRestart d =
    if (s.die d).sfn.phase ≠ .armed ∨ (s.die d).sfn.restart.isSome = true ∨ (s.die d).sfn.latchedOff = true then s
    else if 3 ≤ ((s.die d).sfn.triggers s.gsc).length then (s.restarted d).latchOff d else s.restarted d := rfl

theorem State.restarted_spec (hp : s.present d = true) :
    let t := s.restarted d
    t.present d = true ∧ (∀ off, IsNetReg off → t.reg d off = s.reg d off) ∧
    (∀ i, (s.reg d Reg.sfnEvt).getLsbD i = true → (t.reg d Reg.sfnEvt).getLsbD i = true) ∧ (t.reg d Reg.sfnEvt).getLsbD 1 = true ∧
    (t.die d).sfn.restart = some { at_ := s.gsc, phase := .gated } ∧ (t.die d).sfn.goldenStarted = false := by
  have hsaves : s.KeepsNet (s.abortSaves d) := (State.KeepsNet.refl s).abortSaves d
  have hp1 : (s.abortSaves d).present d = true := (hsaves.present d).trans hp
  let a := (s.abortSaves d).onSfn d fun x => x.restarting s.gsc ((s.die d).sfn.triggers s.gsc)
  have hreg (off : Nat) : a.reg d off = (s.abortSaves d).reg d off := State.reg_onSfn _ d d _ off
  have ha : (a.die d).sfn = _ := State.sfn_onSfn_same _ d _ hp1
  have hraise : a.KeepsNet (a.raise d Reg.sfnEvt 2) := (State.KeepsNet.refl a).raise d _ (by decide)
  have hstop : (a.raise d Reg.sfnEvt 2).KeepsNet (s.restarted d) := ((State.KeepsNet.refl _).recordEvent _ _ _ _).stopNeural d
  have hall := hraise.trans hstop
  have hnet := (hall.dies d).sfn
  refine ⟨(hall.present d).trans hp1, fun off ho => ?_, fun i hi => ?_, ?_, ?_, ?_⟩
  · exact ((hall.dies d).regs off ho).trans ((hreg off).trans ((hsaves.dies d).regs off ho))
  · exact (hall.dies d).flags i ((congrArg (·.getLsbD i) (hreg _)).trans ((hsaves.dies d).flags i hi))
  · exact (hstop.dies d).flags 1 (State.getLsbD_raise_same _ _ hp1 (by decide))
  · exact (congrArg Sfn.restart hnet).trans (congrArg Sfn.restart ha)
  · exact (congrArg Sfn.goldenStarted hnet).trans (congrArg Sfn.goldenStarted ha)

/-- A die that latches off flags it. -/
theorem State.latchOff_spec (hp : s.present d = true) :
    let t := s.latchOff d
    (∀ off, IsNetReg off → t.reg d off = s.reg d off) ∧
    (∀ i, (s.reg d Reg.sfnEvt).getLsbD i = true → (t.reg d Reg.sfnEvt).getLsbD i = true) ∧
    (t.die d).sfn = { (s.die d).sfn with latchedOff := true, restart := none } := by
  let a := s.onSfn d fun x => { x with latchedOff := true, restart := none }
  have hreg (off : Nat) : a.reg d off = s.reg d off := State.reg_onSfn _ d d _ off
  have hraise : a.KeepsNet (s.latchOff d) := (State.KeepsNet.refl a).raise d _ (by decide)
  refine ⟨fun off ho => ((hraise.dies d).regs off ho).trans (hreg off),
    fun i hi => (hraise.dies d).flags i ((congrArg (·.getLsbD i) (hreg _)).trans hi), ?_⟩
  exact (State.sfn_raise _ _ _ _ _).trans (State.sfn_onSfn_same _ d _ hp)

/-- A trigger keeps the Safety Net's registers and flags; it restarts an ARMED die that neither restarts nor is latched off, or latches it
off. -/
theorem State.startRestart_spec (hp : s.present d = true) (hgolden : (s.die d).sfn.goldenStarted = false) :
    let t := s.startRestart d
    let x := (s.die d).sfn
    (∀ off, IsNetReg off → t.reg d off = s.reg d off) ∧
    (∀ i, (s.reg d Reg.sfnEvt).getLsbD i = true → (t.reg d Reg.sfnEvt).getLsbD i = true) ∧ (t.die d).sfn.goldenStarted = false ∧
    (x.phase = .armed → x.restart = none → x.latchedOff = false →
      if 2 ≤ (x.restarts.filter fun e => decide (s.gsc ≤ e + 1_000_000_000)).length then (t.die d).sfn.latchedOff = true
      else (t.die d).sfn.restart = some { at_ := s.gsc, phase := .gated } ∧ (t.reg d Reg.sfnEvt).getLsbD 1 = true) := by
  obtain ⟨hp', hregs, hflags, hflag, hrestart, hgone⟩ := State.restarted_spec (s := s) hp
  obtain ⟨hregs', hflags', hoff⟩ := State.latchOff_spec hp'
  have hlen : 3 ≤ ((s.die d).sfn.triggers s.gsc).length ↔
      2 ≤ ((s.die d).sfn.restarts.filter fun e => decide (s.gsc ≤ e + 1_000_000_000)).length := Nat.succ_le_succ_iff
  rw [State.startRestart_eq]
  split
  next hoff =>
    refine ⟨fun _ _ => rfl, fun _ => id, hgolden, fun harmed hnone hlatch => ?_⟩
    simp [harmed, hnone, hlatch] at hoff
  next =>
    split
    next hthird =>
      refine ⟨fun off ho => (hregs' off ho).trans (hregs off ho), fun i hi => hflags' i (hflags i hi), ?_, fun _ _ _ => ?_⟩
      · rw [hoff]
        exact hgone
      · rw [if_pos (hlen.mp hthird), hoff]
    next hfirst =>
      refine ⟨hregs, hflags, hgone, fun _ _ _ => ?_⟩
      rw [if_neg fun c => hfirst (hlen.mpr c)]
      exact ⟨hrestart, hflag⟩

/-! ### The golden stripe's output (R366) -/

/-- The state in which a golden run is over and SFN_GOLDEN shows how it went. -/
def State.goldenDone (s : State) (d : DieIx) (good : Bool) : State :=
  let x := (s.die d).sfn
  let s1 := (s.onEngine d x.goldenEngine Engine.reload).onSfn d fun y => { y with goldenStarted := false, goldenDefer := 0 }
  s1.setReg d Reg.sfnGolden (BitVec.ofNat 32 (4 * b2n good + 8 * x.goldenVariant.val + 32 * x.goldenEngine.val))

theorem fxGoldenComplete_eq (crc : Word) (hstarted : (s.die d).sfn.goldenStarted = true)
    (hfree : ((s.die d).engines[(s.die d).sfn.goldenEngine.val]).slot15 = none) : fxGoldenComplete d crc s =
      if crc == Config.goldenCrc (s.reg d Reg.detClassHi) (s.die d).sfn.goldenVariant then s.goldenDone d true
      else ((s.goldenDone d false).countRaise d Reg.sfnGoldenFailCnt Reg.sfnEvt 0x0020).startRestart d := by
  unfold fxGoldenComplete
  dsimp only
  rw [if_neg (by simp [hstarted, hfree])]
  split
  next h => rw [h]; rfl
  next h => rw [Bool.not_eq_true] at h; rw [h]; rfl

/-- Bit 2 of SFN_GOLDEN is the outcome of the last run. -/
theorem bits_golden_pass : ∀ (good : Bool) (v : Fin 4) (e : Fin 2),
    bits (BitVec.ofNat 32 (4 * b2n good + 8 * v.val + 32 * e.val)) 2 2 = b2n good := by decide

theorem State.goldenDone_spec (good : Bool) (hp : s.present d = true) :
    let t := s.goldenDone d good
    let x := s.die d
    s.OnlyDie t d ∧ x.OnlyRegs { t.die d with engines := x.engines, sfn := x.sfn } [Reg.sfnGolden] ∧
    t.field d Reg.sfnGolden 2 2 = b2n good ∧ (t.die d).sfn = { x.sfn with goldenStarted := false, goldenDefer := 0 } := by
  let x := s.die d
  let w : Word := BitVec.ofNat 32 (4 * b2n good + 8 * x.sfn.goldenVariant.val + 32 * x.sfn.goldenEngine.val)
  let f (y : Die) : Die := { y with
    engines := y.engines.set x.sfn.goldenEngine.val (Engine.reload y.engines[x.sfn.goldenEngine.val]) x.sfn.goldenEngine.isLt
    sfn := { y.sfn with goldenStarted := false, goldenDefer := 0 } }
  have ht : s.goldenDone d good = s.onDie d fun y => (f y).setReg Reg.sfnGolden w := by
    rw [State.goldenDone, State.setReg, State.onSfn, State.onEngine, State.onDie_onDie, State.onDie_onDie]
  have hdie : (s.goldenDone d good).die d = (f x).setReg Reg.sfnGolden w := by rw [ht, s.die_onDie_same d hp]
  refine ⟨ht ▸ s.onlyDie_onDie d _, ?_, ?_, ?_⟩
  · rw [hdie]
    exact ⟨rfl, fun k hk => Die.reg_setReg_ne _ _ fun e => hk (List.mem_singleton.mpr e.symm)⟩
  · rw [State.field, Die.field, hdie, Die.reg_setReg_same]
    exact bits_golden_pass good _ _
  · rw [hdie]
    rfl

end

/-- Settles O22: the run is over in `State.goldenDone`, and a difference triggers as `State.startRestart_spec` says (R357, R366). -/
theorem goldenMismatchRestarts : Obligations.golden_mismatch_restarts := by
  unfold Obligations.golden_mismatch_restarts
  intro s d crc hp x hstarted hfree expected
  have ht := fxGoldenComplete_eq crc hstarted hfree
  refine ⟨fun hcrc => ⟨_, rfl, ?_⟩, fun hcrc => ⟨_, rfl, ?_⟩⟩
  · rw [ht, if_pos (beq_iff_eq.mpr hcrc)]
    exact State.goldenDone_spec true hp
  · rw [ht, if_neg (mt beq_iff_eq.mp hcrc)]
    obtain ⟨hframe, hregs, hpass, hsfn⟩ := State.goldenDone_spec (s := s) (d := d) false hp
    have hp' : (s.goldenDone d false).present d = true := hframe.toHost.present d ▸ hp
    obtain ⟨-, hu, hcnt, hevt⟩ := (s.goldenDone d false).countRaise_spec (d := d) (cnt := Reg.sfnGoldenFailCnt) (evt := Reg.sfnEvt) 0x20
      hp' (by decide)
    have husfn : (((s.goldenDone d false).countRaise d Reg.sfnGoldenFailCnt Reg.sfnEvt 0x20).die d).sfn =
        { x.sfn with goldenStarted := false, goldenDefer := 0 } := by rw [State.countRaise, State.sfn_raise, State.sfn_count, hsfn]
    have hgolden := hu.2 Reg.sfnGolden (by decide)
    obtain ⟨hkept, hflags, hgone, hrestart⟩ := State.startRestart_spec
      (s := (s.goldenDone d false).countRaise d Reg.sfnGoldenFailCnt Reg.sfnEvt 0x20) (d := d) hp' (by rw [husfn])
    rw [husfn] at hrestart
    refine ⟨?_, hflags 5 ?_, ?_, hgone, hrestart⟩
    · exact (hkept _ (by decide)).trans (hcnt.trans (congrArg (satCount · 1) (hregs.2 _ (by decide))))
    · rw [hevt, BitVec.getLsbD_or]
      exact Bool.or_true _
    · exact (congrArg (bits · 2 2) ((hkept _ (by decide)).trans hgolden)).trans hpass

end Sys2Proof.Machine
end

section
/-! SUPPORT. Proofs of the statements of 13_safety_net: what a change of operating point leaves of the Safety Net (R33, R147, R415). -/

namespace Sys2Proof.Machine

namespace State.KeepsNet

variable {s0 s t : State}

/-! ### Failure, and contexts that end -/

theorem failItem (k : s0.KeepsNet s) (id : ItemId) (st : Status) (w : List Nat) : s0.KeepsNet (s.failItem id st w) := by
  unfold State.failItem
  split
  · exact k
  · split
    · exact k
    · exact k.ite ((k.abandonOp _ _ _ _ _ _ _).postItem _ _ _ _ _ _ _)

theorem endStream (k : s0.KeepsNet s) (st : StreamId) (why : Status) (w : List Nat) : s0.KeepsNet (s.endStream st why w) := by
  have hgone := k.onDie st.die (f := fun y => y.removeStreams fun j _ => j == st) (.removeStreams _ _)
  unfold State.endStream
  split
  · exact k
  · refine State.KeepsNet.refill ?_ st.die
    split
    · exact hgone
    · split
      · exact hgone
      · refine State.KeepsNet.postItem ?_ _ _ _ _ _ _ _
        split
        · exact hgone.abandonOp _ _ _ _ _ _ _
        · exact hgone

theorem failIssuer (k : s0.KeepsNet s) (cv : Option CanvasId) (q : TslReq) (st : Status) : s0.KeepsNet (s.failIssuer cv q st) := by
  unfold State.failIssuer
  refine (k.released q st).ite ((k.endStream _ _ _).ite (ite ?_ k))
  split
  · exact k.failItem _ _ _
  · exact k

theorem poisonCtx (k : s0.KeepsNet s) (d : DieIx) (ctx : Nat) : s0.KeepsNet (s.poisonCtx d ctx) := by
  unfold State.poisonCtx
  split
  · exact k
  · exact ((k.onDie d (f := fun x => { x with tsl := ((s.die d).tsl.poison ctx).1 }) (.of_eq rfl rfl)).countRaise d _
      (by decide) (by decide) (by decide)).foldl fun _ q j => j.failIssuer _ _ _

theorem destroyCtx (k : s0.KeepsNet s) (d : DieIx) (ctx : Nat) : s0.KeepsNet (s.destroyCtx d ctx) := by
  unfold State.destroyCtx
  split
  · exact k
  · exact (ite k (k.poisonCtx d ctx)).onDie d (.of_eq rfl rfl)

/-! ### Placement (R147) -/

theorem freeBarriers (k : s0.KeepsNet s) (cv : CanvasId) : s0.KeepsNet (s.freeBarriers cv) := by
  have hobjs (ds : List DieIx) (l : DieIx → List Nat) : s0.KeepsNet (s.onDies ds fun d x => { x with tsl := x.tsl.freeObjs (l d) }) :=
    k.onDies ds fun _ _ => .of_eq rfl rfl
  exact (hobjs _ _).copy rfl rfl

theorem releasePlaces (k : s0.KeepsNet s) (c : Canvas) : s0.KeepsNet (s.releasePlaces c) :=
  k.onDies c.dies fun d x => .trans (y := { x with
    pools := x.pools.filter fun e => e.2.canvas != some c.id
    dramAlloc := x.dramAlloc.filter fun a => !(c.dramAt.contains (d, a.1))
    poolUsedKib := x.poolUsedKib - c.poolKib d }) (.of_eq rfl rfl) (.syncPool _)

theorem makeContexts (k : s0.KeepsNet s) (c : Canvas) (env : PlaceEnv) : s0.KeepsNet (s.makeContexts c env) := by
  refine k.onDies _ fun d x => ?_
  split
  · exact .refl x
  · exact .of_eq rfl rfl

theorem placeCanvas (k : s0.KeepsNet s) (c : Canvas) (env : PlaceEnv) (ps : List DiePlace) : s0.KeepsNet (s.placeCanvas c env ps) :=
  k.foldl fun _ p j => ite ((j.onDie p.die (.placed _ c env p)).raise _ _ (by decide)) (j.onDie p.die (.placed _ c env p))

theorem barrierObjs {e : Vector Nat 8} {l : List (Nat × Nat)} (k : s0.KeepsNet s) (ht : s.barrierObjs e = some (t, l)) :
    s0.KeepsNet t := by
  refine foldl_inv (P := fun acc : Option (State × List (Nat × Nat)) => ∀ u l, acc = some (u, l) → s0.KeepsNet u)
    (fun acc d ih u l hu => ?_) (fun u l hu => (Prod.mk.inj (Option.some.inj hu)).1 ▸ k) t l ht
  obtain ⟨⟨w, m⟩, hw, hu⟩ := Option.bind_eq_some_iff.mp hu
  dsimp only at hu
  split at hu
  · obtain ⟨rfl, -⟩ := Prod.mk.inj (Option.some.inj hu)
    exact ih _ _ hw
  · obtain ⟨⟨x, a⟩, -, hu⟩ := Option.bind_eq_some_iff.mp hu
    obtain ⟨⟨y, r⟩, -, hu⟩ := Option.map_eq_some_iff.mp hu
    obtain ⟨rfl, -⟩ := Prod.mk.inj hu
    exact (ih _ _ hw).onDie d (.of_eq rfl rfl)

theorem makeBarriers (k : s0.KeepsNet s) (c : Canvas) : s0.KeepsNet (s.makeBarriers c) := by
  refine k.foldl fun t o j => ?_
  dsimp only
  split
  · exact j
  · split
    · exact j
    next u l hu => exact (j.barrierObjs hu).copy rfl rfl

theorem rePlace (k : s0.KeepsNet s) (c : Canvas) : s0.KeepsNet (s.rePlace c) := by
  have hfree := k.releasePlaces c
  have hgone := (hfree.foldl (l := c.dies) fun _ d j => j.destroyCtx d c.ctx).freeBarriers c.id
  unfold State.rePlace
  dsimp only
  split
  · exact k
  · exact ite ((hfree.placeCanvas _ _ _).onCanvas _ _) ((((hgone.makeContexts _ _).placeCanvas _ _ _).onCanvas _ _).makeBarriers _)

/-! ### Changes of point (R33, R412, R415) -/

theorem withPower (k : s0.KeepsNet s) (p : Power) : s0.KeepsNet { s with power := p } := k.copy rfl rfl

theorem recordConfigs (k : s0.KeepsNet s) : s0.KeepsNet s.recordConfigs := by
  unfold State.recordConfigs
  split
  · exact k.record 0 _ _
  · exact k.foldl fun _ _ j => j.record 0 _ _

theorem showPoint (k : s0.KeepsNet s) : s0.KeepsNet s.showPoint := by
  refine recordConfigs (k.onDies _ fun _ x => ?_)
  split
  · exact .refl x
  · exact .setReg _ _ (by decide) (by decide)

theorem latchPoint (k : s0.KeepsNet s) (p : OpPoint) : s0.KeepsNet (s.latchPoint p) := by
  refine k.inOneCycle fun t j => ?_
  have hcool (u : State) (h : s0.KeepsNet u) (ds : List DieIx) : s0.KeepsNet (u.onDies ds
      fun _ x => { x with thermal := { x.thermal with level := 0, coolMs := 0, hotMs := 0 } }) := h.onDies ds fun _ _ => .of_eq rfl rfl
  exact ((((hcool _ (j.withPower _) _).recordEvent _ _ _ _).showPoint).foldl fun _ c j => j.rePlace c).foldl
    fun _ d j => j.raise d _ (by decide)

theorem tryLatch (k : s0.KeepsNet s) (but : Option DieIx) : s0.KeepsNet (s.tryLatch but) := by
  unfold State.tryLatch
  split
  · exact (k.latchPoint _).ite k
  · exact k

theorem beginChange (k : s0.KeepsNet s) (p : OpPoint) : s0.KeepsNet (s.beginChange p) := by
  unfold State.beginChange
  exact ite (k.withPower _) ((k.withPower _).tryLatch none)

/-- A request for a point leaves the Safety Nets, whatever it comes to. -/
theorem requestOp (k : s0.KeepsNet s) (d : DieIx) (p : OpPoint) : s0.KeepsNet (s.requestOp d p) := by
  unfold State.requestOp
  exact (k.raise d _ (by decide)).ite (k.ite (k.beginChange p))

end State.KeepsNet

end Sys2Proof.Machine
end

section
/-! SUPPORT. Proofs of the statements of 13_safety_net: error injection (R348, R368, R369). -/

namespace Sys2Proof.Machine

section
variable {s t : State} {d : DieIx}

/-! ### The dies of a part -/

theorem State.length_dieList (s : State) : s.dieList.length = s.nDies := by
  have hpart : ∀ p : Part, ((List.finRange 8).filter fun d => decide (d.val < partDies p)).length = partDies p := by
    intro p
    cases p <;> decide
  exact hpart s.straps.part

/-! ### SFN_INJ_CTRL -/

/-- The status in SFN_INJ_CTRL. -/
theorem State.setInjStatus_spec (st : Status) (hp : s.present d = true) :
    let t := s.setField d Reg.sfnInjCtrl 11 4 st.code
    s.OnlyDie t d ∧ (s.die d).OnlyRegs (t.die d) [Reg.sfnInjCtrl] ∧ t.field d Reg.sfnInjCtrl 11 4 = st.code := by
  obtain ⟨hframe, hregs, hreg⟩ := s.setReg_frame d Reg.sfnInjCtrl (setBits (s.reg d Reg.sfnInjCtrl) 11 4 st.code) hp
  have hcode : st.code % 2 ^ (11 + 1 - 4) = st.code := by cases st <;> rfl
  exact ⟨hframe, hregs, (congrArg (bits · 11 4) hreg).trans ((bits_setBits _ 4 _ (by decide)).trans hcode)⟩

/-- A list that begins on every die. -/
def State.injecting (s : State) : State := s.onDies s.dieList fun _ x => { x with sfn := { x.sfn with injBusy := true } }

/-! ### The end of the lists -/

/-- The rows that did not trip, by die. -/
def State.injRows (s : State) (l : List (BitVec 18)) : List (DieIx × BitVec 18) := s.dieList.map fun d => (d, l.getD d.val 0)

/-- A die whose list has ended. -/
def Die.injected (x : Die) (row : BitVec 18) : Die :=
  { x.setReg Reg.sfnInjFail (row.setWidth 32) with sfn := { x.sfn with injBusy := false } }

/-- The state in which the lists of all dies have ended. -/
def State.injected (s : State) (l : List (BitVec 18)) : State := s.onDies s.dieList fun d x => x.injected (l.getD d.val 0)

theorem State.die_injected (l : List (BitVec 18)) (hp : s.present d = true) :
    (s.injected l).die d = (s.die d).injected (l.getD d.val 0) := State.die_onDies_dieList hp

theorem State.straps_onDies (s : State) (ds : List DieIx) (f : DieIx → Die → Die) : (s.onDies ds f).straps = s.straps := by
  obtain ⟨l, hl⟩ := s.onDies_withDies ds f
  rw [hl]
  rfl

theorem State.power_onDies (s : State) (ds : List DieIx) (f : DieIx → Die → Die) : (s.onDies ds f).power = s.power := by
  obtain ⟨l, hl⟩ := s.onDies_withDies ds f
  rw [hl]
  rfl

theorem fxInjectionComplete_whole (l : List (BitVec 18))
    (h : ∀ d, s.present d = true → (s.die d).sfn.injBusy = true ∧ (s.die d).boot.alone = false) :
    fxInjectionComplete l s = (s.injected l).injectAll (s.injRows l) := by
  unfold fxInjectionComplete
  extract_lets alone rows res ended
  have hres : res = s.injRows l := by
    refine (congrArg (List.map _) (List.filter_eq_self.mpr fun d hd => (h d (State.mem_dieList.mp hd)).1)).trans ?_
    refine List.map_congr_left fun d hd => ?_
    have halone : ¬ (d.val = 0 ∧ alone d = true) := fun c => Bool.false_ne_true ((h d (State.mem_dieList.mp hd)).2.symm.trans c.2)
    rw [show rows d = BitVec.allOnes 18 from if_neg halone, BitVec.and_allOnes]
  have hlen : res.length = s.nDies := by rw [hres, State.injRows, List.length_map, s.length_dieList]
  have hany : (res.any fun e => alone e.1) = false := by
    rw [hres, List.any_eq_false]
    intro e he
    obtain ⟨d, hd, rfl⟩ := List.mem_map.mp he
    exact fun c => Bool.false_ne_true ((h d (State.mem_dieList.mp hd)).2.symm.trans c)
  have hne : ¬ res.isEmpty = true := fun c => by
    rw [List.isEmpty_iff_length_eq_zero, hlen] at c
    exact absurd (c ▸ two_le_nDies s) (by decide)
  have hended : ended = s.injected l := by
    refine (congrArg (List.foldl _ s) hres).trans ?_
    rw [State.injRows, List.foldl_map]
    simp only [State.setReg, State.onSfn, State.onDie_onDie]
    rfl
  rw [if_neg hne, if_pos ⟨hlen, hany⟩, hended, hres]

/-! ### A list that failed -/

/-- What the failure of rows on some dies leaves of a die's state. -/
structure State.RowsFail (d : DieIx) (s t : State) : Prop where
  straps : t.straps = s.straps
  power : t.power = s.power
  fails : t.reg d Reg.sfnInjFail = s.reg d Reg.sfnInjFail
  sfn : { (t.die d).sfn with faults := (s.die d).sfn.faults } = (s.die d).sfn
  evt : t.reg d Reg.sfnEvt = s.reg d Reg.sfnEvt ∨ t.reg d Reg.sfnEvt = s.reg d Reg.sfnEvt ||| 0x1000

theorem State.sfn_injFailed (s : State) (e d : DieIx) : ((s.injFailed e).die d).sfn =
    if e = d ∧ s.present e = true then (s.die d).sfn.drive .injection else (s.die d).sfn := by
  have hp : (s.raise e Reg.sfnEvt 0x1000).present e = s.present e := rfl
  rw [State.injFailed, State.driveFault_eq, State.sfn_onSfn, State.sfn_raise, State.sfn_raise, hp]
  split
  next h => rw [h.1]
  next => rfl

theorem State.reg_injFailed (s : State) (e d : DieIx) (k : Nat) : (s.injFailed e).reg d k =
    if e = d ∧ s.present e = true ∧ Reg.sfnEvt = k then s.reg e Reg.sfnEvt ||| 0x1000 else s.reg d k := by
  rw [State.injFailed, State.driveFault_eq, State.reg_onSfn, State.reg_raise]
  rfl

theorem State.RowsFail.injFailed (k : State.RowsFail d s t) (e : DieIx) : State.RowsFail d s (t.injFailed e) where
  straps := k.straps
  power := k.power
  fails := by
    rw [State.reg_injFailed, if_neg fun c => absurd c.2.2 (by decide)]
    exact k.fails
  sfn := by
    rw [State.sfn_injFailed]
    split
    · exact k.sfn
    · exact k.sfn
  evt := by
    rw [State.reg_injFailed]
    split
    next h =>
      rw [h.1]
      obtain he | he := k.evt
      · exact .inr (by rw [he])
      · exact .inr (by rw [he, BitVec.or_assoc, BitVec.or_self])
    next => exact k.evt

/-- A die one of whose rows failed flags it and drives FAULT_N. -/
theorem State.RowsFail.injFailed_self (k : State.RowsFail d s t) (hp : s.present d = true) :
    FaultCause.injection ∈ ((t.injFailed d).die d).sfn.faults ∧
    (t.injFailed d).reg d Reg.sfnEvt = s.reg d Reg.sfnEvt ||| 0x1000 := by
  have hpt : t.present d = true := by
    rw [State.present, State.nDies, k.straps]
    exact hp
  rw [State.sfn_injFailed, if_pos ⟨rfl, hpt⟩, State.reg_injFailed, if_pos ⟨rfl, hpt, rfl⟩, Sfn.mem_drive]
  refine ⟨.inr rfl, ?_⟩
  obtain he | he := k.evt
  · rw [he]
  · rw [he, BitVec.or_assoc, BitVec.or_self]

/-- Dies whose rows failed flag it and drive FAULT_N, one after another. -/
def State.failRows (s : State) (l : List (DieIx × BitVec 18)) : State := l.foldl (fun s e => s.injFailed e.1) s

theorem State.failRows_spec (s : State) (d : DieIx) (l : List (DieIx × BitVec 18)) : State.RowsFail d s (s.failRows l) :=
  foldl_inv (P := State.RowsFail d s) (fun _ e k => k.injFailed e.1) ⟨rfl, rfl, rfl, rfl, .inl rfl⟩

/-- A die whose rows failed stays so while other dies' rows fail. -/
theorem State.injection_injFailed {w : Word} (e : DieIx)
    (h : FaultCause.injection ∈ (t.die d).sfn.faults ∧ t.reg d Reg.sfnEvt = w ||| 0x1000) :
    FaultCause.injection ∈ ((t.injFailed e).die d).sfn.faults ∧ (t.injFailed e).reg d Reg.sfnEvt = w ||| 0x1000 := by
  rw [State.sfn_injFailed, State.reg_injFailed]
  constructor
  · split
    · exact (Sfn.mem_drive _ _ _).mpr (.inr rfl)
    · exact h.1
  · split
    next he => rw [he.1, h.2, BitVec.or_assoc, BitVec.or_self]
    next => exact h.2

theorem State.failRows_mem {l : List (DieIx × BitVec 18)} {e : DieIx × BitVec 18} (he : e ∈ l) (hp : s.present e.1 = true) :
    FaultCause.injection ∈ ((s.failRows l).die e.1).sfn.faults ∧
    (s.failRows l).reg e.1 Reg.sfnEvt = s.reg e.1 Reg.sfnEvt ||| 0x1000 :=
  foldl_reaches (P := State.RowsFail e.1 s) (Q := fun t => FaultCause.injection ∈ (t.die e.1).sfn.faults ∧
    t.reg e.1 Reg.sfnEvt = s.reg e.1 Reg.sfnEvt ||| 0x1000) he (fun _ b _ k => k.injFailed b.1) (fun _ b _ h => State.injection_injFailed b.1 h)
    (fun _ k => k.injFailed_self hp) ⟨rfl, rfl, rfl, rfl, .inl rfl⟩

/-! ### The two outcomes -/

/-- A Safety Net outside SAFE returns to INIT. -/
def Sfn.toInit (x : Sfn) : Sfn := if x.phase = .safe then x else { x with phase := .init }

theorem Sfn.arm_spec (x : Sfn) : x.arm.injBusy = x.injBusy ∧ x.arm.phase = if x.phase = .safe then .safe else .armed := by
  unfold Sfn.arm
  split
  next h => exact ⟨rfl, h⟩
  next => exact ⟨rfl, rfl⟩

theorem Sfn.toInit_spec (x : Sfn) : x.toInit.injBusy = x.injBusy ∧ x.toInit.phase = if x.phase = .safe then .safe else .init := by
  unfold Sfn.toInit
  split
  next h => exact ⟨rfl, h⟩
  next => exact ⟨rfl, rfl⟩

theorem State.injectAll_armed {l : List (DieIx × BitVec 18)} (hl : ∀ e ∈ l, e.2 = 0) :
    (s.onDies s.dieList fun _ x => { x with sfn := x.sfn.arm }).KeepsNet (s.injectAll l) := by
  unfold State.injectAll
  rw [if_pos (by simpa using hl)]
  dsimp only
  split
  · exact ((State.KeepsNet.refl _).withPower _).requestOp _ _
  · exact .refl _

theorem State.injectAll_failed {l : List (DieIx × BitVec 18)} (hl : ∃ e ∈ l, e.2 ≠ 0) : s.injectAll l =
    (s.onDies s.dieList fun _ x => { x with sfn := x.sfn.toInit }).failRows (l.filter fun e => e.2 != 0) := by
  unfold State.injectAll
  rw [if_neg (by simpa using hl)]
  rfl

/-- A die after its list ended, whatever then becomes of its phase. -/
theorem State.injected_spec (l : List (BitVec 18)) (f : Sfn → Sfn) (hp : s.present d = true) :
    let t := (s.injected l).onDies (s.injected l).dieList fun _ x => { x with sfn := f x.sfn }
    t.present d = true ∧ t.reg d Reg.sfnInjFail = (l.getD d.val 0).setWidth 32 ∧ t.reg d Reg.sfnEvt = s.reg d Reg.sfnEvt ∧
    (t.die d).sfn = f { (s.die d).sfn with injBusy := false } := by
  have hp' (u : State) (h : u.straps = s.straps) : u.present d = true := by
    rw [State.present, State.nDies, h]
    exact hp
  have hpi : (s.injected l).present d = true := hp' _ (s.straps_onDies _ _)
  have hdie := State.die_onDies_dieList (f := fun _ x => { x with sfn := f x.sfn }) hpi
  rw [State.die_injected l hp] at hdie
  refine ⟨hp' _ ((State.straps_onDies _ _ _).trans (s.straps_onDies _ _)), ?_, ?_, ?_⟩
  · rw [State.reg, hdie]
    exact Die.reg_setReg_same _ _ _
  · rw [State.reg, hdie]
    exact Die.reg_setReg_ne _ _ (by decide)
  · rw [hdie]
    rfl

end

/-- Settles O28: an untripped row is one of `State.failRows`; with none, what the request for the stored point does leaves the Safety
Nets (`State.KeepsNet.requestOp`). -/
theorem errorInjection : Obligations.error_injection := by
  unfold Obligations.error_injection
  constructor
  · intro s d hp hbusy
    have hidle : ¬ (s.die d).sfn.injBusy = true := by rw [hbusy]; decide
    refine ⟨fun hpoint => ⟨_, rfl, ?_⟩, fun hpoint => ⟨_, rfl, ?_⟩⟩
    · have ht : fxSfnInjGo d s = _ := (if_neg hidle).trans (if_pos hpoint)
      rw [ht]
      exact State.setInjStatus_spec .aborted hp
    · have ht : fxSfnInjGo d s = s.injecting.setField d Reg.sfnInjCtrl 11 4 Status.ok.code :=
        (if_neg hidle).trans (if_neg fun c => c hpoint)
      obtain ⟨ds, hds⟩ := s.onDies_withDies s.dieList fun _ x => { x with sfn := { x.sfn with injBusy := true } }
      have hdies : s.injecting = s.withDies ds := hds
      have hpi : s.injecting.present d = true := hdies ▸ hp
      obtain ⟨hframe, -, hstatus⟩ := State.setInjStatus_spec .ok hpi
      rw [ht]
      refine ⟨hframe.1.trans (by rw [hdies]; rfl), fun e he => ?_, hstatus⟩
      refine (State.sfn_setReg _ d e _ _).trans ?_
      exact congrArg Die.sfn (State.die_onDies_dieList he)
  · intro s l h row
    have ht := fxInjectionComplete_whole l h
    refine ⟨fun hall => ⟨_, rfl, fun d hp => ?_⟩, fun hsome => ⟨_, rfl, ?_⟩⟩
    · have hrows : ∀ e ∈ s.injRows l, e.2 = 0 := fun e he => by
        obtain ⟨d, hd, rfl⟩ := List.mem_map.mp he
        exact hall d (State.mem_dieList.mp hd)
      have hnet := (State.injectAll_armed (s := s.injected l) hrows).dies d
      obtain ⟨-, hfail, -, hsfn⟩ := State.injected_spec l Sfn.arm hp
      rw [ht]
      have hzero : l.getD d.val 0 = 0 := hall d hp
      have hfield {α : Type} (g : Sfn → α) := (congrArg g hnet.sfn).trans (congrArg g hsfn)
      obtain ⟨hbusy, hphase⟩ := Sfn.arm_spec { (s.die d).sfn with injBusy := false }
      refine ⟨(hnet.regs _ (by decide)).trans (hfail.trans ?_), (hfield Sfn.injBusy).trans hbusy, (hfield Sfn.phase).trans hphase⟩
      rw [hzero]
      rfl
    · have hrows : ∃ e ∈ s.injRows l, e.2 ≠ 0 := by
        obtain ⟨d, hd, hne⟩ := hsome
        exact ⟨_, List.mem_map.mpr ⟨d, State.mem_dieList.mpr hd, rfl⟩, hne⟩
      rw [ht, State.injectAll_failed hrows]
      refine ⟨?_, fun d hp => ?_⟩
      · exact (State.failRows_spec _ 0 _).power.trans ((State.power_onDies _ _ _).trans (s.power_onDies _ _))
      · obtain ⟨hp', hfail, hevt, hsfn⟩ := State.injected_spec l Sfn.toInit hp
        have hend := State.failRows_spec ((s.injected l).onDies (s.injected l).dieList fun _ x => { x with sfn := x.sfn.toInit }) d
          ((s.injRows l).filter fun e => e.2 != 0)
        have hfield {α : Type} (g : Sfn → α) (hg : ∀ x f, g { x with faults := f } = g x) :=
          (hg _ _).symm.trans ((congrArg g hend.sfn).trans (congrArg g hsfn))
        obtain ⟨hbusy, hphase⟩ := Sfn.toInit_spec { (s.die d).sfn with injBusy := false }
        refine ⟨hend.fails.trans hfail, (hfield Sfn.injBusy fun _ _ => rfl).trans hbusy, (hfield Sfn.phase fun _ _ => rfl).trans hphase,
          fun hne => ?_⟩
        have hmem : (d, row d) ∈ (s.injRows l).filter fun e => e.2 != 0 :=
          List.mem_filter.mpr ⟨List.mem_map.mpr ⟨d, State.mem_dieList.mpr hp, rfl⟩, bne_iff_ne.mpr hne⟩
        obtain ⟨hfault, hflag⟩ := State.failRows_mem hmem hp'
        exact ⟨hfault, hflag.trans (congrArg (· ||| _) hevt)⟩

end Sys2Proof.Machine
end
